-- ==== Sys2Proof/Word.lean ====
section
/-! DEFINITION. The word, byte, row and mask types of the Huaham (R86, R96, R98, R105) and the finite-map shape that
the state uses for sparse storage. -/

namespace Sys2Proof

/-- A general register, a system register, a memory doubleword (R86). -/
abbrev Word := BitVec 64

/-- The smallest addressable unit (R4). -/
abbrev Byte := BitVec 8

/-- One row of the vector/accumulator file: 512 bytes, byte 0 in bits 7:0 (R96). -/
abbrev Row := BitVec 4096

/-- One vector mask: bit i governs lane i (R98). -/
abbrev MaskBits := BitVec 512

/-- One tagged-store line: 128 bytes (R105). -/
abbrev Line := BitVec 1024

/-- Sparse storage by number: keys strictly rising, no entry equal to the default of the map. -/
abbrev NatMap (α : Type) := List (Nat × α)

/-- The four sequencers of a cell, in ring order (R86). -/
inductive SeqId where
  | K | L | C | S
deriving DecidableEq, Repr

/-- The number of a sequencer: 0 K, 1 L, 2 C, 3 S (R249, TSEQ). -/
def SeqId.num : SeqId → Nat
  | .K => 0
  | .L => 1
  | .C => 2
  | .S => 3

/-- The sequencer of a number. -/
def seqOfNum : Nat → SeqId
  | 0 => .K
  | 1 => .L
  | 2 => .C
  | _ => .S

end Sys2Proof
end

