-- ==== Sys2Proof/Syntax.lean ====
section
/-! DEFINITION. The abstract syntax: one constructor of Instr per row of the opcode table (95 "What each step holds":
each row is one whole and indivisible step of the part). The 229 encoded instructions carry the fields of their word
(R269, R270, R273); the device events carry the agent they happen at, or what arrives from outside the package. -/

namespace Sys2Proof

/-- A Ustex command packet as it arrives: the two header words, the body words (R29, R30), and for a COPYH from host to
device the bytes that stand in host memory (R33). -/
structure Packet where
  w0   : Word
  w1   : Word
  body : List Word
  host : List Byte := []
deriving DecidableEq, Repr

/-- What a bring-up meets (R24, R26): whether the rails and the coolant allow it, the package identifier, the dies whose
firmware fails, those whose HBM stack fails to train, and the link modules (edge, module) that do not train on all 64 lanes, with the WIDTH code
they reach (R13: 0 none, 1 low half, 2 high half). -/
structure BringUp where
  railsOk    : Bool := true
  coolantOk  : Bool := true
  pkgId      : BitVec 19 := 0
  failedDies : List Nat := []
  hbmFailed  : List Nat := []
  links      : List ((Nat × Nat) × BitVec 2) := []
deriving DecidableEq, Repr

/-- What a fabric chunk carries (R204): plain data, data whose scratchpad addresses take a bank permutation (R285), a reducing write (RED, SREG, SEQ, SPAN of R188), or exchange data
named by (XID, phase, sender, receiver), with the place in the receiver's area and the length of the whole grant that it is part of
(R224, R226). -/
inductive ChunkKind where
  | write
  | permuted (perm : Nat)
  | reduce (red sreg sq span : Nat)
  | exchange (xid phase snd rcv off len : Nat)
deriving DecidableEq, Repr

/-- A fabric chunk that arrives from another package (R204): its number within the pair, its destination, its bytes and
the counter increment that travels with the last one (R181): CID, amount and fold word (R203). -/
structure Chunk where
  srcPkg : BitVec 19
  num    : BitVec 16
  kind   : ChunkKind
  va     : Word
  bytes  : List Byte
  inc    : Option (BitVec 14 × Word × Word) := none
deriving DecidableEq, Repr

/-- One grant of a calendar (R215, R216). -/
structure Grant where
  snd   : Nat
  rcv   : Nat
  phase : Nat
  bytes : Nat
deriving DecidableEq, Repr

/-- An exchange post (R210, R211), with the package that it comes from. -/
structure Post where
  xid    : Nat
  nmem   : Nat
  member : Nat
  eng    : Nat
  memtab : List (BitVec 19)
  mtsig  : Word
  demand : List Nat
  rlen   : Nat
  home   : BitVec 19
deriving DecidableEq, Repr

/-- Messages of the exchange protocol (R211 to R223): a post to an arbiter (as standby or not; kept back for want of a slot), a calendar
row, a phase opening, a grant acknowledgement to an arbiter, a completion notice with the status that ends the exchange, a takeover notice
to a member or to the old primary with its cost, a heartbeat. The rim die in a message is the place that R212 names first; the arbiter's
package puts the next die in service in its place. -/
inductive XMsg where
  | post (rim : Nat) (standby waiting : Bool) (p : Post)
  | row (xid member nphase : Nat) (granted offsets : List Nat) (row : List Grant) (rowOffsets : List Nat)
  | phase (xid epoch ph member : Nat)
  | ack (pkg : BitVec 19) (rim xid ph snd rcv : Nat)
  /-- an acknowledgement at the arbiter of the role -/
  | acked (standby : Bool) (xid ph snd rcv : Nat)
  | finish (xid member status : Nat)
  | takeover (xid : Nat) (member rim : Option Nat) (cost : Nat)
  | heartbeat (xid : Nat)
deriving DecidableEq, Repr

/-- Where a step of the device happens and what comes with it from outside. A turn of the agenda carries one; each event
reads the fields that its constructor's docstring names, the others are idle. -/
structure Site where
  die    : Nat := 0
  cell   : Nat := 0
  quad   : Nat := 0
  seq    : SeqId := .K
  stream : Nat := 0
  port   : Nat := 0
  lane   : Nat := 0
  edge   : Nat := 0
  mod    : Nat := 0
  src    : Nat := 0
  dst    : Nat := 0
  eng    : Nat := 0
  rim    : Nat := 0
  n      : Nat := 0
  q      : BitVec 16 := 0
  word   : Word := 0
  word2  : Word := 0
  yes    : Bool := false
  yes2   : Bool := false
  yes3   : Bool := false
  packet : Packet := ⟨0, 0, [], []⟩
  chunk  : Chunk := ⟨0, 0, .write, 0, [], none⟩
  env    : BringUp := {}
  x      : Option XMsg := none
deriving DecidableEq, Repr

/-- One step of the part. The encoded instructions come first, with their token field t (R269: bit 3 WP, 2 WN, 1 SP,
0 SN) and the fields of their word; they act at the sequencer whose turn it is. The device events follow; they act at the
Site of their turn, whose fields each of them names. -/
inductive Instr where
  /-- Adds two registers modulo 2^64 (R298). -/
  | add (t : BitVec 4) (d : BitVec 5) (a : BitVec 5) (b : BitVec 5)
  /-- Subtracts two registers modulo 2^64 (R298). -/
  | sub (t : BitVec 4) (d : BitVec 5) (a : BitVec 5) (b : BitVec 5)
  /-- Bitwise AND of two registers (R298). -/
  | and (t : BitVec 4) (d : BitVec 5) (a : BitVec 5) (b : BitVec 5)
  /-- Bitwise OR of two registers (R298). -/
  | or (t : BitVec 4) (d : BitVec 5) (a : BitVec 5) (b : BitVec 5)
  /-- Bitwise exclusive-or of two registers (R298). -/
  | xor (t : BitVec 4) (d : BitVec 5) (a : BitVec 5) (b : BitVec 5)
  /-- x AND NOT y (R298). -/
  | andn (t : BitVec 4) (d : BitVec 5) (a : BitVec 5) (b : BitVec 5)
  /-- Shift left by y mod 64 (R298). -/
  | sll (t : BitVec 4) (d : BitVec 5) (a : BitVec 5) (b : BitVec 5)
  /-- Logical shift right by y mod 64 (R298). -/
  | srl (t : BitVec 4) (d : BitVec 5) (a : BitVec 5) (b : BitVec 5)
  /-- Arithmetic shift right by y mod 64 (R298). -/
  | sra (t : BitVec 4) (d : BitVec 5) (a : BitVec 5) (b : BitVec 5)
  /-- Rotate left by y mod 64 (R298). -/
  | rol (t : BitVec 4) (d : BitVec 5) (a : BitVec 5) (b : BitVec 5)
  /-- Low 64 bits of the product (R298). -/
  | mul (t : BitVec 4) (d : BitVec 5) (a : BitVec 5) (b : BitVec 5)
  /-- High 64 bits of the signed product (R298). -/
  | mulh (t : BitVec 4) (d : BitVec 5) (a : BitVec 5) (b : BitVec 5)
  /-- High 64 bits of the unsigned product (R298). -/
  | mulhz (t : BitVec 4) (d : BitVec 5) (a : BitVec 5) (b : BitVec 5)
  /-- Signed division truncating toward zero; divisor 0 raises DIV_ZERO (R299). -/
  | div (t : BitVec 4) (d : BitVec 5) (a : BitVec 5) (b : BitVec 5)
  /-- Unsigned division; divisor 0 raises DIV_ZERO (R299). -/
  | divz (t : BitVec 4) (d : BitVec 5) (a : BitVec 5) (b : BitVec 5)
  /-- Signed remainder with the dividend's sign; divisor 0 raises DIV_ZERO (R299). -/
  | rem (t : BitVec 4) (d : BitVec 5) (a : BitVec 5) (b : BitVec 5)
  /-- Unsigned remainder; divisor 0 raises DIV_ZERO (R299). -/
  | remz (t : BitVec 4) (d : BitVec 5) (a : BitVec 5) (b : BitVec 5)
  /-- Signed minimum (R298). -/
  | min (t : BitVec 4) (d : BitVec 5) (a : BitVec 5) (b : BitVec 5)
  /-- Signed maximum (R298). -/
  | max (t : BitVec 4) (d : BitVec 5) (a : BitVec 5) (b : BitVec 5)
  /-- Unsigned minimum (R298). -/
  | minz (t : BitVec 4) (d : BitVec 5) (a : BitVec 5) (b : BitVec 5)
  /-- Unsigned maximum (R298). -/
  | maxz (t : BitVec 4) (d : BitVec 5) (a : BitVec 5) (b : BitVec 5)
  /-- Count of leading zero bits (R298). -/
  | clz (t : BitVec 4) (d : BitVec 5) (a : BitVec 5)
  /-- Count of trailing zero bits (R298). -/
  | ctz (t : BitVec 4) (d : BitVec 5) (a : BitVec 5)
  /-- Count of one bits (R298). -/
  | popc (t : BitVec 4) (d : BitVec 5) (a : BitVec 5)
  /-- Reverses the byte order (R298). -/
  | bswap (t : BitVec 4) (d : BitVec 5) (a : BitVec 5)
  /-- Computes jmix64(x, y) (R298). -/
  | mix (t : BitVec 4) (d : BitVec 5) (a : BitVec 5) (b : BitVec 5)
  /-- Extracts a bit field, optionally sign-extended (R300). -/
  | bfx (t : BitVec 4) (d : BitVec 5) (a : BitVec 5) (b : BitVec 5)
  /-- Inserts a bit field into g[d] (R300). -/
  | bfi (t : BitVec 4) (d : BitVec 5) (a : BitVec 5) (b : BitVec 5)
  /-- Adds a sign-extended 12-bit immediate (R301). -/
  | addi (t : BitVec 4) (d : BitVec 5) (a : BitVec 5) (i : BitVec 12)
  /-- ANDs a sign-extended 12-bit immediate (R301). -/
  | andi (t : BitVec 4) (d : BitVec 5) (a : BitVec 5) (i : BitVec 12)
  /-- ORs a sign-extended 12-bit immediate (R301). -/
  | ori (t : BitVec 4) (d : BitVec 5) (a : BitVec 5) (i : BitVec 12)
  /-- Exclusive-ors a sign-extended 12-bit immediate (R301). -/
  | xori (t : BitVec 4) (d : BitVec 5) (a : BitVec 5) (i : BitVec 12)
  /-- Shift left by an immediate amount (R301). -/
  | slli (t : BitVec 4) (d : BitVec 5) (a : BitVec 5) (s : BitVec 6)
  /-- Logical shift right by an immediate amount (R301). -/
  | srli (t : BitVec 4) (d : BitVec 5) (a : BitVec 5) (s : BitVec 6)
  /-- Arithmetic shift right by an immediate amount (R301). -/
  | srai (t : BitVec 4) (d : BitVec 5) (a : BitVec 5) (s : BitVec 6)
  /-- Rotate left by an immediate amount (R301). -/
  | roli (t : BitVec 4) (d : BitVec 5) (a : BitVec 5) (s : BitVec 6)
  /-- Writes a predicate with a comparison of two registers (R304). -/
  | pcmp (t : BitVec 4) (d : BitVec 5) (a : BitVec 5) (b : BitVec 5) (c : BitVec 3)
  /-- Writes a predicate with a comparison of a register and an 11-bit immediate (R304). -/
  | pcmpi (t : BitVec 4) (p : BitVec 3) (c : BitVec 3) (a : BitVec 5) (i : BitVec 11)
  /-- Loads a sign-extended 17-bit immediate (R302). -/
  | li (t : BitVec 4) (d : BitVec 5) (i : BitVec 17)
  /-- Shifts g[d] left 17 bits and ORs in a 17-bit immediate (R302). -/
  | lis (t : BitVec 4) (d : BitVec 5) (i : BitVec 17)
  /-- Loads a word of the sequencer's constant pool (R303). -/
  | ldc (t : BitVec 4) (d : BitVec 5) (i : BitVec 12)
  /-- Opens a predicate block governing the next 1 to 8 instructions (R307). -/
  | pred (t : BitVec 4) (p : BitVec 3) (n : BitVec 3) (q : BitVec 8)
  /-- Branches if a predicate is true (R309). -/
  | bt (t : BitVec 4) (p : BitVec 3) (i : BitVec 17)
  /-- Branches if a predicate is false (R309). -/
  | bf (t : BitVec 4) (p : BitVec 3) (i : BitVec 17)
  /-- Branches unconditionally (R309). -/
  | jmp (t : BitVec 4) (i : BitVec 17)
  /-- Branches and writes the link value to g[a] (R309). -/
  | call (t : BitVec 4) (a : BitVec 5) (i : BitVec 17)
  /-- Jumps to g[a] plus an immediate, optionally linking (R310). -/
  | jr (t : BitVec 4) (d : BitVec 5) (a : BitVec 5) (i : BitVec 12)
  /-- Sets a loop counter to g[a] plus an immediate, modulo 2^32 (R311). -/
  | loop (t : BitVec 4) (n : BitVec 2) (a : BitVec 5) (i : BitVec 12)
  /-- Decrements a loop counter and branches while it was above 1 (R312). -/
  | bloop (t : BitVec 4) (n : BitVec 2) (i : BitVec 17)
  /-- As bloop, and on a taken branch rotates VRB and MRB; C only (R312). -/
  | bloopRot (t : BitVec 4) (n : BitVec 2) (i : BitVec 17)
  /-- Returns a queue's entry count as seen by its producer or consumer (R314). -/
  | qlen (t : BitVec 4) (d : BitVec 5) (a : BitVec 5)
  /-- Returns a queue's head entry without popping it (R314). -/
  | qpeek (t : BitVec 4) (d : BitVec 5) (a : BitVec 5)
  /-- Returns a token counter's value (R314). -/
  | tokcnt (t : BitVec 4) (d : BitVec 5) (a : BitVec 5)
  /-- Signals a token counter once and returns its value (R314). -/
  | tokadd (t : BitVec 4) (d : BitVec 5) (a : BitVec 5)
  /-- Waits on a token counter once and returns its value (R314). -/
  | tokwait (t : BitVec 4) (d : BitVec 5) (a : BitVec 5)
  /-- Ordered scoped load (R330). -/
  | ldo (t : BitVec 4) (d : BitVec 5) (a : BitVec 5) (z : BitVec 2) (s : BitVec 1) (c : BitVec 2) (o : BitVec 7)
  /-- Ordered scoped store (R330). -/
  | sto (t : BitVec 4) (d : BitVec 5) (a : BitVec 5) (z : BitVec 2) (c : BitVec 2) (o : BitVec 7)
  /-- Relaxed load from a virtual address (R330). -/
  | ldx (t : BitVec 4) (d : BitVec 5) (a : BitVec 5) (z : BitVec 2) (s : BitVec 1) (o : BitVec 9)
  /-- Relaxed store to a virtual address (R330). -/
  | stx (t : BitVec 4) (d : BitVec 5) (a : BitVec 5) (z : BitVec 2) (o : BitVec 9)
  /-- Relaxed load from a cell-local scratchpad offset (R330). -/
  | lds (t : BitVec 4) (d : BitVec 5) (a : BitVec 5) (z : BitVec 2) (s : BitVec 1) (o : BitVec 9)
  /-- Relaxed store to a cell-local scratchpad offset (R330). -/
  | sts (t : BitVec 4) (d : BitVec 5) (a : BitVec 5) (z : BitVec 2) (o : BitVec 9)
  /-- Loads a 512-byte row through a shape record into vq0 to vq3; L only (R334). -/
  | tld (t : BitVec 4) (d : BitVec 5) (a : BitVec 5) (n : BitVec 3) (q : BitVec 2)
  /-- Stores a row popped from vq4 or vq5 through a shape record; S only (R334). -/
  | tst (t : BitVec 4) (d : BitVec 5) (a : BitVec 5) (n : BitVec 3) (q : BitVec 1)
  /-- Atomically swaps a word at its home (R333). -/
  | atomSwap (t : BitVec 4) (d : BitVec 5) (a : BitVec 5) (b : BitVec 5) (z : BitVec 1) (c : BitVec 2)
  /-- Atomic fetch-and-add (R333). -/
  | atomAdd (t : BitVec 4) (d : BitVec 5) (a : BitVec 5) (b : BitVec 5) (z : BitVec 1) (c : BitVec 2)
  /-- Atomic fetch-and-AND (R333). -/
  | atomAnd (t : BitVec 4) (d : BitVec 5) (a : BitVec 5) (b : BitVec 5) (z : BitVec 1) (c : BitVec 2)
  /-- Atomic fetch-and-OR (R333). -/
  | atomOr (t : BitVec 4) (d : BitVec 5) (a : BitVec 5) (b : BitVec 5) (z : BitVec 1) (c : BitVec 2)
  /-- Atomic fetch-and-XOR (R333). -/
  | atomXor (t : BitVec 4) (d : BitVec 5) (a : BitVec 5) (b : BitVec 5) (z : BitVec 1) (c : BitVec 2)
  /-- Atomic signed maximum (R333). -/
  | atomMax (t : BitVec 4) (d : BitVec 5) (a : BitVec 5) (b : BitVec 5) (z : BitVec 1) (c : BitVec 2)
  /-- Atomic unsigned maximum (R333). -/
  | atomMaxz (t : BitVec 4) (d : BitVec 5) (a : BitVec 5) (b : BitVec 5) (z : BitVec 1) (c : BitVec 2)
  /-- Atomic compare-and-swap against g[d] (R333). -/
  | atomCas (t : BitVec 4) (d : BitVec 5) (a : BitVec 5) (b : BitVec 5) (z : BitVec 1) (c : BitVec 2)
  /-- Full fence ordering all earlier accesses before all later ones (R332). -/
  | fenceSc (t : BitVec 4) (c : BitVec 2)
  /-- Acquire fence ordering earlier loads before later accesses (R332). -/
  | fenceAcq (t : BitVec 4) (c : BitVec 2)
  /-- Release fence ordering earlier accesses before later stores (R332). -/
  | fenceRel (t : BitVec 4) (c : BitVec 2)
  /-- Acquire load (R330). -/
  | ldacq (t : BitVec 4) (d : BitVec 5) (a : BitVec 5) (z : BitVec 2) (s : BitVec 1) (c : BitVec 2) (o : BitVec 6)
  /-- Release store (R330). -/
  | strel (t : BitVec 4) (d : BitVec 5) (a : BitVec 5) (z : BitVec 2) (c : BitVec 2) (o : BitVec 6)
  /-- Blocks until a tag of the mask is done and returns the lowest such tag (R336). -/
  | waitany (t : BitVec 4) (d : BitVec 5) (a : BitVec 5)
  /-- Blocks until every tag of the mask is done and returns those with non-zero status (R336). -/
  | waitall (t : BitVec 4) (d : BitVec 5) (a : BitVec 5)
  /-- Returns the lowest done tag of the mask without blocking or joining (R336). -/
  | ffr (t : BitVec 4) (d : BitVec 5) (a : BitVec 5)
  /-- Clears the tags of a mask (R336). -/
  | tagclr (t : BitVec 4) (a : BitVec 5)
  /-- Reads one tag's done bit and status (R336). -/
  | tagrd (t : BitVec 4) (d : BitVec 5) (a : BitVec 5)
  /-- Sets a tag done with a status, as a package-scope release (R336). -/
  | tagst (t : BitVec 4) (a : BitVec 5) (b : BitVec 5)
  /-- Arms an arrival region from a 32-byte scratchpad record (R336). -/
  | tagstArm (t : BitVec 4) (a : BitVec 5) (b : BitVec 5)
  /-- Finds the tagged-store slot holding an address's line (R339). -/
  | tlook (t : BitVec 4) (d : BitVec 5) (a : BitVec 5)
  /-- Starts a fill of a 128-byte line into a chosen slot with a read count (R339). -/
  | tfill (t : BitVec 4) (a : BitVec 5) (b : BitVec 5)
  /-- Reads from a tagged-store line, decrementing its count or returning the miss result (R339). -/
  | trd (t : BitVec 4) (d : BitVec 5) (a : BitVec 5) (b : BitVec 5) (s : BitVec 1) (z : BitVec 2)
  /-- Invalidates a tagged-store slot (R339). -/
  | tinv (t : BitVec 4) (a : BitVec 5)
  /-- Reads word 1 of a slot's tag entry (R339). -/
  | tstat (t : BitVec 4) (d : BitVec 5) (a : BitVec 5)
  /-- Writes a register's 64 bits into a field of a staging template (R278). -/
  | patchr (t : BitVec 4) (a : BitVec 5) (n : BitVec 6) (f : BitVec 4)
  /-- Writes a sign-extended 16-bit value into field F of the issuing sequencer's staging template (R277). -/
  | patch (t : BitVec 4) (n : BitVec 6) (f : BitVec 4) (v : BitVec 16)
  /-- Checks and issues the staging template as an engine command with a completion tag and reloads the staging copy (R277). -/
  | go (t : BitVec 4) (n : BitVec 6) (g : BitVec 6)
  /-- Integer add, wrapping or saturating (R358). -/
  | vadd (t : BitVec 4) (a : BitVec 5) (b : BitVec 5)
  /-- Integer subtract (R358). -/
  | vsub (t : BitVec 4) (a : BitVec 5) (b : BitVec 5)
  /-- Integer multiply (R358). -/
  | vmul (t : BitVec 4) (a : BitVec 5) (b : BitVec 5)
  /-- High half of the integer product (R358). -/
  | vmulh (t : BitVec 4) (a : BitVec 5) (b : BitVec 5)
  /-- Bitwise AND of lanes (R358). -/
  | vand (t : BitVec 4) (a : BitVec 5) (b : BitVec 5)
  /-- Bitwise OR of lanes (R358). -/
  | vor (t : BitVec 4) (a : BitVec 5) (b : BitVec 5)
  /-- Bitwise exclusive-or of lanes (R358). -/
  | vxor (t : BitVec 4) (a : BitVec 5) (b : BitVec 5)
  /-- x AND NOT y per lane (R358). -/
  | vandn (t : BitVec 4) (a : BitVec 5) (b : BitVec 5)
  /-- Shift lanes left (R358). -/
  | vsll (t : BitVec 4) (a : BitVec 5) (b : BitVec 5)
  /-- Logical shift of lanes right (R358). -/
  | vsrl (t : BitVec 4) (a : BitVec 5) (b : BitVec 5)
  /-- Arithmetic shift of lanes right (R358). -/
  | vsra (t : BitVec 4) (a : BitVec 5) (b : BitVec 5)
  /-- Signed minimum per lane (R358). -/
  | vmin (t : BitVec 4) (a : BitVec 5) (b : BitVec 5)
  /-- Signed maximum per lane (R358). -/
  | vmax (t : BitVec 4) (a : BitVec 5) (b : BitVec 5)
  /-- Unsigned minimum per lane (R358). -/
  | vminz (t : BitVec 4) (a : BitVec 5) (b : BitVec 5)
  /-- Unsigned maximum per lane (R358). -/
  | vmaxz (t : BitVec 4) (a : BitVec 5) (b : BitVec 5)
  /-- Integer absolute value (R358). -/
  | vabs (t : BitVec 4) (a : BitVec 5) (b : BitVec 5)
  /-- Integer negation (R358). -/
  | vneg (t : BitVec 4) (a : BitVec 5) (b : BitVec 5)
  /-- Count of one bits per lane (R358). -/
  | vpopc (t : BitVec 4) (a : BitVec 5) (b : BitVec 5)
  /-- Leading zeros per lane (R358). -/
  | vclz (t : BitVec 4) (a : BitVec 5) (b : BitVec 5)
  /-- Selects x where z is non-zero, else y (R358). -/
  | vsel (t : BitVec 4) (a : BitVec 5) (b : BitVec 5)
  /-- Floating add, rounded once (R359). -/
  | vfadd (t : BitVec 4) (a : BitVec 5) (b : BitVec 5)
  /-- Floating subtract (R359). -/
  | vfsub (t : BitVec 4) (a : BitVec 5) (b : BitVec 5)
  /-- Floating multiply (R359). -/
  | vfmul (t : BitVec 4) (a : BitVec 5) (b : BitVec 5)
  /-- Fused x*y + z (R359). -/
  | vfma (t : BitVec 4) (a : BitVec 5) (b : BitVec 5)
  /-- Fused x*y - z (R359). -/
  | vfms (t : BitVec 4) (a : BitVec 5) (b : BitVec 5)
  /-- Fused -(x*y) + z (R359). -/
  | vfnma (t : BitVec 4) (a : BitVec 5) (b : BitVec 5)
  /-- Floating divide (R359). -/
  | vfdiv (t : BitVec 4) (a : BitVec 5) (b : BitVec 5)
  /-- Floating square root (R359). -/
  | vfsqrt (t : BitVec 4) (a : BitVec 5) (b : BitVec 5)
  /-- Floating minimum with -0 below +0 (R360). -/
  | vfmin (t : BitVec 4) (a : BitVec 5) (b : BitVec 5)
  /-- Floating maximum (R360). -/
  | vfmax (t : BitVec 4) (a : BitVec 5) (b : BitVec 5)
  /-- Clears the sign bit (R360). -/
  | vfabs (t : BitVec 4) (a : BitVec 5) (b : BitVec 5)
  /-- Flips the sign bit (R360). -/
  | vfneg (t : BitVec 4) (a : BitVec 5) (b : BitVec 5)
  /-- Copies the sign of y onto x (R360). -/
  | vfcpsgn (t : BitVec 4) (a : BitVec 5) (b : BitVec 5)
  /-- x times 2^n (R359). -/
  | vscaleb (t : BitVec 4) (a : BitVec 5) (b : BitVec 5)
  /-- floor(log2 |x|) (R359). -/
  | vgetexp (t : BitVec 4) (a : BitVec 5) (b : BitVec 5)
  /-- Significand of x in [1, 2) (R359). -/
  | vgetman (t : BitVec 4) (a : BitVec 5) (b : BitVec 5)
  /-- Classifies each lane into one bit (R360). -/
  | vfclass (t : BitVec 4) (a : BitVec 5) (b : BitVec 5)
  /-- Exact pair sum and error (R361). -/
  | vaddx (t : BitVec 4) (a : BitVec 5) (b : BitVec 5)
  /-- Exact pair difference and error (R361). -/
  | vsubx (t : BitVec 4) (a : BitVec 5) (b : BitVec 5)
  /-- Exact pair product and error (R361). -/
  | vmulx (t : BitVec 4) (a : BitVec 5) (b : BitVec 5)
  /-- Double-word sum of two pairs (R362). -/
  | vdwadd (t : BitVec 4) (a : BitVec 5) (b : BitVec 5)
  /-- Double-word sum of a pair and a single (R362). -/
  | vdwaddf (t : BitVec 4) (a : BitVec 5) (b : BitVec 5)
  /-- Double-word product of two pairs (R362). -/
  | vdwmul (t : BitVec 4) (a : BitVec 5) (b : BitVec 5)
  /-- Double-word product of a pair and a single (R362). -/
  | vdwmulf (t : BitVec 4) (a : BitVec 5) (b : BitVec 5)
  /-- Normalises a pair (R362). -/
  | vdwnorm (t : BitVec 4) (a : BitVec 5) (b : BitVec 5)
  /-- Collapses a pair to a single or splits a single into a pair (R362). -/
  | vdwcvt (t : BitVec 4) (a : BitVec 5) (b : BitVec 5)
  /-- Converts lanes between types (R364). -/
  | vcvt (t : BitVec 4) (a : BitVec 5) (b : BitVec 5)
  /-- Quantises rows to DX or MX with their exponent plane (R365). -/
  | vquant (t : BitVec 4) (a : BitVec 5) (b : BitVec 5)
  /-- Decodes DX or MX rows to f32 or bf16 (R366). -/
  | vdequant (t : BitVec 4) (a : BitVec 5) (b : BitVec 5)
  /-- Quantises with given exponents or scales (R366). -/
  | vqscale (t : BitVec 4) (a : BitVec 5) (b : BitVec 5)
  /-- Narrows two rows into one (R367). -/
  | vpack (t : BitVec 4) (a : BitVec 5) (b : BitVec 5)
  /-- Widens half a row (R367). -/
  | vunpack (t : BitVec 4) (a : BitVec 5) (b : BitVec 5)
  /-- Writes a mask from a lane comparison (R368). -/
  | vcmp (t : BitVec 4) (a : BitVec 5) (b : BitVec 5)
  /-- AND of two masks (R369). -/
  | vmand (t : BitVec 4) (a : BitVec 5) (b : BitVec 5)
  /-- OR of two masks (R369). -/
  | vmor (t : BitVec 4) (a : BitVec 5) (b : BitVec 5)
  /-- Exclusive-or of two masks (R369). -/
  | vmxor (t : BitVec 4) (a : BitVec 5) (b : BitVec 5)
  /-- Inverts a mask (R369). -/
  | vmnot (t : BitVec 4) (a : BitVec 5) (b : BitVec 5)
  /-- Pushes a mask onto the mask stack (R370). -/
  | vmpush (t : BitVec 4) (a : BitVec 5) (b : BitVec 5)
  /-- Turns the stack top into its else branch (R370). -/
  | vminv (t : BitVec 4) (a : BitVec 5) (b : BitVec 5)
  /-- Pops the mask stack, optionally into a mask (R370). -/
  | vmpopm (t : BitVec 4) (a : BitVec 5) (b : BitVec 5)
  /-- Counts mask bits into VCOUNT and a predicate of C (R371). -/
  | vmcnt (t : BitVec 4) (a : BitVec 5) (b : BitVec 5)
  /-- Copies lanes (R372). -/
  | vmov (t : BitVec 4) (a : BitVec 5) (b : BitVec 5)
  /-- Broadcasts a word B value to lanes (R372). -/
  | vbcast (t : BitVec 4) (a : BitVec 5) (b : BitVec 5)
  /-- Broadcasts one lane (R372). -/
  | vext (t : BitVec 4) (a : BitVec 5) (b : BitVec 5)
  /-- Permutes lanes by indices in vb (R372). -/
  | vperm (t : BitVec 4) (a : BitVec 5) (b : BitVec 5)
  /-- Rotates lanes (R372). -/
  | vrot (t : BitVec 4) (a : BitVec 5) (b : BitVec 5)
  /-- Slides across two rows (R372). -/
  | vslide (t : BitVec 4) (a : BitVec 5) (b : BitVec 5)
  /-- Interleaves halves of two rows (R372). -/
  | vzip (t : BitVec 4) (a : BitVec 5) (b : BitVec 5)
  /-- De-interleaves two rows (R372). -/
  | vunzip (t : BitVec 4) (a : BitVec 5) (b : BitVec 5)
  /-- Sum reduction in a fixed tree (R373). -/
  | vredsum (t : BitVec 4) (a : BitVec 5) (b : BitVec 5)
  /-- Compensated pair sum reduction (R374). -/
  | vredsumx (t : BitVec 4) (a : BitVec 5) (b : BitVec 5)
  /-- Maximum reduction (R373). -/
  | vredmax (t : BitVec 4) (a : BitVec 5) (b : BitVec 5)
  /-- Minimum reduction (R373). -/
  | vredmin (t : BitVec 4) (a : BitVec 5) (b : BitVec 5)
  /-- AND reduction (R373). -/
  | vredand (t : BitVec 4) (a : BitVec 5) (b : BitVec 5)
  /-- OR reduction (R373). -/
  | vredor (t : BitVec 4) (a : BitVec 5) (b : BitVec 5)
  /-- Inclusive or exclusive scan across rows (R375). -/
  | vprefix (t : BitVec 4) (a : BitVec 5) (b : BitVec 5)
  /-- Gathers elements from indexed addresses (R376). -/
  | vgather (t : BitVec 4) (a : BitVec 5) (b : BitVec 5)
  /-- Scatters lanes to indexed addresses (R376). -/
  | vscatter (t : BitVec 4) (a : BitVec 5) (b : BitVec 5)
  /-- Scatters with duplicate indices folded (R378). -/
  | vscatc (t : BitVec 4) (a : BitVec 5) (b : BitVec 5)
  /-- Intersects two sorted index windows (R379). -/
  | visect (t : BitVec 4) (a : BitVec 5) (b : BitVec 5)
  /-- Packs active lanes to the front (R380). -/
  | vcompress (t : BitVec 4) (a : BitVec 5) (b : BitVec 5)
  /-- Spreads packed lanes to active lanes (R380). -/
  | vexpand (t : BitVec 4) (a : BitVec 5) (b : BitVec 5)
  /-- Reciprocal square-root seed (R381). -/
  | vrsqe (t : BitVec 4) (a : BitVec 5) (b : BitVec 5)
  /-- Reciprocal seed (R381). -/
  | vrcpe (t : BitVec 4) (a : BitVec 5) (b : BitVec 5)
  /-- Correctly rounded 2^x (R381). -/
  | vexp2 (t : BitVec 4) (a : BitVec 5) (b : BitVec 5)
  /-- Correctly rounded log2 x (R381). -/
  | vlog2 (t : BitVec 4) (a : BitVec 5) (b : BitVec 5)
  /-- Updates AMAX from active lanes (R382). -/
  | vamax (t : BitVec 4) (a : BitVec 5) (b : BitVec 5)
  /-- Updates the histogram and NANCNT (R382). -/
  | vhist (t : BitVec 4) (a : BitVec 5) (b : BitVec 5)
  /-- Copies the statistics block into a row (R382). -/
  | vstatrd (t : BitVec 4) (a : BitVec 5) (b : BitVec 5)
  /-- Clears selected statistics and flags (R382). -/
  | vstatclr (t : BitVec 4) (a : BitVec 5) (b : BitVec 5)
  /-- Fills lanes with jmix64 random values (R383). -/
  | vrand (t : BitVec 4) (a : BitVec 5) (b : BitVec 5)
  /-- Sets VRKEY and clears VRCTR (R383). -/
  | vseed (t : BitVec 4) (a : BitVec 5) (b : BitVec 5)
  /-- Later vector commands start only after earlier ones complete (R384). -/
  | vfence (t : BitVec 4)
  /-- Retires when every earlier vector command has completed (R384). -/
  | vwait (t : BitVec 4)
  /-- Returns vector commands issued and not completed (R384). -/
  | vbusy (t : BitVec 4) (d : BitVec 5)
  /-- Returns vector commands completed since bind (R384). -/
  | vdone (t : BitVec 4) (d : BitVec 5)
  /-- Returns VRB and MRB (R384). -/
  | vrb (t : BitVec 4) (d : BitVec 5)
  /-- Waits as vwait, returns the sticky flags and clears selected ones (R384). -/
  | vstat (t : BitVec 4) (d : BitVec 5) (a : BitVec 5)
  /-- Pushes a 128-byte command block into another group's remote engine queue, blocking when full (R322). -/
  | remq (t : BitVec 4) (d : BitVec 5) (a : BitVec 5) (b : BitVec 5)
  /-- As remq but returns all ones instead of blocking (R322). -/
  | remqt (t : BitVec 4) (d : BitVec 5) (a : BitVec 5) (b : BitVec 5)
  /-- Raises the launch's group count and returns the previous count (R321). -/
  | grow (t : BitVec 4) (d : BitVec 5) (a : BitVec 5)
  /-- Joins the open barrier generation at a level (R324). -/
  | barArrive (t : BitVec 4) (d : BitVec 5) (a : BitVec 5) (l : BitVec 3)
  /-- Waits for the last joined generation to complete (R324). -/
  | barWait (t : BitVec 4) (d : BitVec 5) (a : BitVec 5) (l : BitVec 3)
  /-- Arrives and waits as one instruction (R324). -/
  | barSync (t : BitVec 4) (d : BitVec 5) (a : BitVec 5) (l : BitVec 3)
  /-- Drains the cell's ordered work, then syncs; at package and system level triggers the hash-tree update (R324). -/
  | barPhase (t : BitVec 4) (d : BitVec 5) (a : BitVec 5) (l : BitVec 3)
  /-- Posts a work-entry chain to a collective engine (R347). -/
  | qppost (t : BitVec 4) (a : BitVec 5) (b : BitVec 5)
  /-- Reads a counter's VALUE or its LOST and ARMED word (R347). -/
  | ctrrd (t : BitVec 4) (d : BitVec 5) (a : BitVec 5)
  /-- Reads a counter's ORDSIG (R347). -/
  | ctrrdSig (t : BitVec 4) (d : BitVec 5) (a : BitVec 5)
  /-- Adds to a counter as a release and returns the old VALUE (R347). -/
  | ctradd (t : BitVec 4) (d : BitVec 5) (a : BitVec 5) (b : BitVec 5)
  /-- Resets a counter's VALUE, ORDSIG and LOST (R347). -/
  | ctraddClr (t : BitVec 4) (d : BitVec 5) (a : BitVec 5)
  /-- Waits until a counter reaches a threshold or LOST is set (R347). -/
  | ctrwait (t : BitVec 4) (d : BitVec 5) (a : BitVec 5) (b : BitVec 5)
  /-- Posts an exchange member's demand to its primary and standby arbiters (R211). -/
  | dpost (t : BitVec 4) (a : BitVec 5)
  /-- Waits for the calendar and writes the member's grant table (R220). -/
  | dgrant (t : BitVec 4) (d : BitVec 5) (a : BitVec 5)
  /-- Returns the member's exchange status without blocking (R221). -/
  | xstat (t : BitVec 4) (d : BitVec 5) (a : BitVec 5)
  /-- Captures and checks an RLC block and starts the refinement loop at STEPF (R403). -/
  | rlstart (t : BitVec 4) (a : BitVec 5)
  /-- Ends the running step, advancing to the next or taking the norm test (R404). -/
  | rlstep (t : BitVec 4)
  /-- Returns the controller's exit code, state, level and iteration count (R406). -/
  | rlstat (t : BitVec 4) (d : BitVec 5)
  /-- Escalates to the next rung and returns STEPF (R406). -/
  | rlesc (t : BitVec 4) (d : BitVec 5)
  /-- Ends an active loop with ABORTED or clears HELD (R406). -/
  | rlabort (t : BitVec 4)
  /-- Puts lease acq in force and requests the array lease (R323). -/
  | leaseAcq (t : BitVec 4)
  /-- Ends lease acq; the lease is released at the next idle boundary (R323). -/
  | leaseRel (t : BitVec 4)
  /-- Reads word 0 of the quad's lease record (R323). -/
  | leaseStat (t : BitVec 4) (d : BitVec 5)
  /-- No effect except its token bits (R315). -/
  | nop (t : BitVec 4)
  /-- Stops the sequencer; in a handler ends the whole group (R316). -/
  | endInsn (t : BitVec 4)
  /-- Leaves the handler, restarting each sequencer at its RPC and stopped copies (R251). -/
  | resume (t : BitVec 4)
  /-- Asks for the group's own pre-emption (R318). -/
  | yield (t : BitVec 4)
  /-- Reads CYCLE at issue (R315). -/
  | cycle (t : BitVec 4) (d : BitVec 5)
  /-- Reads word 0 of the die's black-box state (R315). -/
  | bbox (t : BitVec 4) (d : BitVec 5)
  /-- Raises TRAP_INSN with its immediate (R317). -/
  | trap (t : BitVec 4) (i : BitVec 9)
  /-- Raises BREAK with its immediate (R317). -/
  | breakInsn (t : BitVec 4) (i : BitVec 9)
  /-- Reads a system register of the executing sequencer (R319). -/
  | rdsys (t : BitVec 4) (d : BitVec 5) (x : BitVec 9)
  /-- Writes a system register of the executing sequencer (R319). -/
  | wrsys (t : BitVec 4) (a : BitVec 5) (x : BitVec 9)
  /-- AND of two predicates (R305). -/
  | pand (t : BitVec 4) (d : BitVec 5) (a : BitVec 5) (b : BitVec 5)
  /-- OR of two predicates (R305). -/
  | por (t : BitVec 4) (d : BitVec 5) (a : BitVec 5) (b : BitVec 5)
  /-- Exclusive-or of two predicates (R305). -/
  | pxor (t : BitVec 4) (d : BitVec 5) (a : BitVec 5) (b : BitVec 5)
  /-- Inverts a predicate (R305). -/
  | pnot (t : BitVec 4) (d : BitVec 5) (a : BitVec 5)
  /-- Copies a predicate (R305). -/
  | pmov (t : BitVec 4) (d : BitVec 5) (a : BitVec 5)
  /-- Selects g[a] or g[b] by a predicate (R306). -/
  | csel (t : BitVec 4) (d : BitVec 5) (a : BitVec 5) (b : BitVec 5) (p : BitVec 3)
  /-- A command packet frame arrives on a stream and is accepted, acknowledged, answered as a duplicate or discarded by sequence number and the 256-packet limit (R28). Site: packet. -/
  | packetAccept
  /-- A LAUNCH packet starts, its LCB is checked and, if it passes, its groups become pending under a new launch number (R52). Site: stream. -/
  | launch
  /-- A REGION packet with OP 0 registers a new region from its RCB image after the checks of R47 (R47). Site: stream. -/
  | regionCreate
  /-- A REGION packet with OP 1 changes a registered region; BUDGET and PRIORITY act on running launches, other fields only on later ones (R48). Site: stream. -/
  | regionModify
  /-- A REGION packet with OP 2 removes a region that has no children and no open launches (R47). Site: stream. -/
  | regionDestroy
  /-- A COPYH packet with DIR 0 copies bytes from the host into device virtual memory, optionally with a crc64 (R33). Site: stream. -/
  | copyhHostToDevice
  /-- A COPYH packet with DIR 1 copies bytes from device virtual memory to the host, optionally with a crc64 (R33). Site: stream. -/
  | copyhDeviceToHost
  /-- A SIGNAL packet with OP 0 sets a signal to a value and retests the WAITSIGs on it (R37). Site: stream. -/
  | signalSet
  /-- A SIGNAL packet with OP 1 adds a value to a signal modulo 2^64 and retests the WAITSIGs on it (R37). Site: stream. -/
  | signalAdd
  /-- A SIGNAL packet with OP 2 ORs a value into a signal and retests the WAITSIGs on it (R37). Site: stream. -/
  | signalOr
  /-- A WAITSIG packet starts and tests its signal, completing when the comparison holds (R37). Site: stream. -/
  | waitsig
  /-- A pending WAITSIG reaches its TIMEOUT and completes with status TIMEOUT (R32). Site: stream, q the SEQ. -/
  | waitsigTimeout
  /-- A DETLEVEL packet, after its stream drains, sets the stream's determinism level for later launches (R38). Site: stream. -/
  | detlevel
  /-- A FENCE packet completes once earlier packets of its stream, and with ALL those of every stream, have completed (R36). Site: stream. -/
  | fencePacket
  /-- A READBACK packet reads up to 4,096 bytes of the state space and returns them in its completion record (R40). Site: stream. -/
  | readback
  /-- A WRITEBACK packet writes state-space locations that have no behaviour of their own, under the stopped-cell and block rules (R40). Site: stream. -/
  | writeback
  /-- A WRITEBACK to XLROOT, refused while a launch is open, sets the root and enable and drops every cached translation (R166). Site: stream. -/
  | xlroot
  /-- A WRITEBACK to XLINV drops every TLB entry overlapping the named page and completes when no access uses the old translation (R166). Site: stream. -/
  | xlinv
  /-- Writing DOWN = 1 to LNKCTL takes a link module out of service, moving its pairs and starting its drain (R13). Site: edge, mod, die (whose register is written). -/
  | downSet
  /-- Writing DOWN = 0 to a module that is down starts training at 64 lanes and then 32 (R13). Site: edge, mod, die (whose register is written). -/
  | downClear
  /-- A draining module's sent flits are all acknowledged or abandoned, and it reads STATE 0 and WIDTH 0 (R13). Site: edge, mod. -/
  | linkDrainEnd
  /-- A BBOXREAD packet returns black-box events of one die through the rim readout path and thaws a frozen box when its newest event is read (R41). Site: stream. -/
  | bboxread
  /-- A RESET of kind 0 cancels the named stream's unstarted packets, stops its launches and copies, and resets its level and SEQ (R42). Site: stream. -/
  | resetStream
  /-- A RESET of kind 1 stops every cell of a die, cancels its launches, zeroes scratchpads and tagged stores and resynchronises its pairs (R42). Site: stream. -/
  | resetDie
  /-- A RESET of kind 2 resets every stream, clears signals and reruns bring-up from step 2, reported by a presence record (R42). Site: stream. -/
  | resetPackage
  /-- The control node's acknowledgement of a completion record by (STREAM, SEQ) arrives and frees the record (R28). Site: stream, q the SEQ; yes: the presence record, word its RESETS. -/
  | completionRecordAck
  /-- A completion record unacknowledged for 50 µs is resent (R28). Site: stream, q the SEQ; yes: the presence record. -/
  | recordResendTimeout
  /-- A lane of the Ustex or a scale-out port acquires signal and PCS block lock; LOCK passes once lanes 0 to 3 are locked (R27). Site: port (32 the Ustex port), lane. -/
  | laneLock
  /-- The 10 ms LOCK window ends, passing on lanes 0 and 1 alone or timing out (R27). Site: port. -/
  | lockWindowEnd
  /-- Lanes are deskewed and FEC codewords aligned, ending the ALIGN stage (R27). Site: port. -/
  | alignComplete
  /-- The partner's capability word arrives in NEGOTIATE and the rate is chosen, or the stage fails without RS(544,514) FEC (R27). Site: port, yes: the partner offers the FEC. -/
  | capabilityWord
  /-- The 1,024 CONFIRM test frames are exchanged, passing or failing on any uncorrectable codeword (R27). Site: port, yes: no uncorrectable codeword. -/
  | confirmTestFrames
  /-- A port training stage exceeds its timeout and the port waits to return to LOCK (R27). Site: port. -/
  | trainingStageTimeout
  /-- The 100 ms after a failed stage expires and the port begins again at LOCK (R27). Site: port. -/
  | retrainHoldoffExpiry
  /-- An active port loses lock and begins again at LOCK; a scale-out port leaves service and collectives re-form around it (R27). Site: port. -/
  | lossOfLock
  /-- A received flit fails its CRC, is retried by link-level retry and counted in ERRCNT (R11). Site: die (receiving), edge, mod, yes: a retry of the flit failed again. -/
  | flitCrcFailure
  /-- A window of 2^WINLOG received flits ends and ERRCNT clears (R12). Site: die (receiving), edge, mod. -/
  | errorWindowEnd
  /-- A module's retrain ends, coming up on the low or high half or going down (R12). Site: edge, mod, yes: all 64 lanes pass, yes2: the low half passes, yes3: the high half passes. -/
  | retrainComplete
  /-- A mesh-protocol request arrives at its destination die and is applied once, answered from the response store, or discarded (R17). Site: src, dst, q. -/
  | meshRequest
  /-- A response reaches the source, acknowledging the request, or is discarded if the request is no longer held (R420). Site: src, dst, q. -/
  | meshResponse
  /-- No acknowledgement within 20 µs makes the source resend the pair's unacknowledged requests in order (R18). Site: src, dst. -/
  | resendTimeout
  /-- Every 10 µs a destination with a one-sided write waiting for commit-buffer or hold-buffer space sends a hold message (R123). Site: die, cell. -/
  | holdMessageTimer
  /-- A hold message reaches the source and restarts its 20 µs resend timer without counting a send (R123). Site: src, dst, q. -/
  | holdMessage
  /-- A resynchronisation message sets LAST and the next sequence number for pairs with a reset or readmitted die and loses their unacknowledged requests (R20). Site: die (receiving), src (the die named). -/
  | resyncMessage
  /-- Power-on or package reset starts bring-up: rails, firmware boot, link training, HBM training, pair sync, Ustex and scale-out training (R26). Site: env. -/
  | powerOn
  /-- Package power above 10,000 W for more than 1 ms stops dispatch of new groups (R24). Site: n watts, word degrees, die. -/
  | powerLimitExceeded
  /-- Package power reaching 10,500 W or a die at 105 °C raises a machine check on every cell and freezes every black box (R24). Site: n watts, word degrees, die. -/
  | powerEmergency
  /-- Loss of standby power loses the black boxes and returns their state to reset values (R25). -/
  | standbyPowerLoss
  /-- A management core chooses which pending group binds on a free cell by dispatch priority, launch number and index order (R66). -/
  | dispatchDecision
  /-- A slot record with V = 1 on an idle cell binds a group: hygiene, scratchpad rule, section loads, initial registers, sequencer start (R54). Site: die, cell. -/
  | bind
  /-- A slot record with PRE = 1 stops the bound group as for a trap, to be saved to its slot (R59). Site: die, cell. -/
  | preEmption
  /-- Once copies stop and the commit buffer and check slots empty, the context is written to the save slot and the lease released (R260). Site: die, cell. -/
  | contextSave
  /-- A bind with RST = 1 reloads sections and restores the group's context from its save slot (R261). Site: die, cell. -/
  | restore
  /-- All four sequencers have ended and all engine commands completed, so the group ends and its cell is freed (R56). Site: die, cell. -/
  | groupEnd
  /-- Every 1 ms CONSUMED is written, over-budget launches are found and their groups pre-empted where allowed (R67). -/
  | budgetUpdate
  /-- Each full 10 ms without a bind raises a launch's dispatch priority by one, up to 7 (R66). Site: n the launch. -/
  | agingTick
  /-- A cell or array leaves service; a bound group takes a machine check and pending groups are re-placed (R84). Site: die, cell. -/
  | cellLeavesService
  /-- A 4,096-cycle grow window closes and its grows are applied in ascending group index (R80). Site: n the launch. -/
  | growWindowClose
  /-- At a command boundary the array lease passes to the next requesting cell by arrival order or rotation (R76). Site: die, quad. -/
  | leaseGrant
  /-- The holder has had no command waiting for 8,192 cycles while another cell requests, so the lease passes (R75). Site: die, quad. -/
  | leaseIdleTimeout
  /-- A cell issues the next block of its remote engine queue as a command of its group (R82). Site: die, cell. -/
  | remoteQueueIssue
  /-- An item leaves its check slot at retirement plus 9 cycles once the telltale has produced an identical item (R107). Site: die, cell, seq. -/
  | checkSlotRelease
  /-- A mod-7 residue check fails in the vector unit or arbiter path, raising a machine check (R108). Site: die, cell. -/
  | residueFailure
  /-- An mma command starts at the array and forms round(c + sum A x B) on both paths (R392). Site: die, quad. -/
  | mma
  /-- An mmaz command starts at the array and forms round(sum A x B) with c = +0 (R392). Site: die, quad. -/
  | mmaz
  /-- An mmabsr command starts at the array with A in BSR-32 block-sparse form (R394). Site: die, quad. -/
  | mmabsr
  /-- An mmaseed command starts at the array with A compacted under seeded 2:4 or 1:4 sparsity (R393). Site: die, quad. -/
  | mmaseed
  /-- An mhad command starts at the array and multiplies A by the Hadamard matrix, forward or inverse (R395). Site: die, quad. -/
  | mhad
  /-- An mdrain starts after its source commits, copies the region and converts it to OTYPE into the commit buffer on both converters (R396). Site: die, quad. -/
  | mdrain
  /-- An mraster walk sorts its table and runs an mmaz and a drain per entry, ping-ponging tiles and incrementing counters (R398). Site: die, quad. -/
  | mraster
  /-- An mzero command writes +0 to every element of its region through compare and commit (R396). Site: die, quad. -/
  | mzero
  /-- An mload command copies scratchpad bytes into its tile region bit for bit through compare and commit (R396). Site: die, quad. -/
  | mload
  /-- 8 cycles after both command signatures are complete they are compared (R119). Site: die, quad. -/
  | commandCompare
  /-- The arbiter finishes, accuses a path, commits its own result and counts a corrected fault (R125). Site: die, quad. -/
  | arbitrationDone
  /-- An accused path finishes its rerun; agreement counts a transient fault, disagreement sets PERSIST (R125). Site: die, quad. -/
  | rerunDone
  /-- The two unit signatures of a drain release unit are compared; on a match the unit's stores leave the commit buffer, else the arbiter reconverts it (R428). Site: die, quad. -/
  | drainUnitCompare
  /-- The vector unit starts the next queued command once the previous has begun its rows and masks and fences allow (R351). Site: die, cell. -/
  | vectorCommandStart
  /-- A vector command completes, its results, flags and statistics entering architected state (R351). Site: die, cell, n the command. -/
  | vectorCommandComplete
  /-- A tld pushes its row, or a tst finishes its last element, with tokens and deferred faults at completion (R334). Site: die, cell, n the access. -/
  | tensorAccessComplete
  /-- A tagged-store fill completes, setting V and STATUS of its slot (R339). Site: die, cell, n the slot. -/
  | tfillComplete
  /-- The destination copy engine, having staged all bytes, computes crc64 and writes them or reports SIG_MISMATCH (R131). Site: die, cell, n the copy. -/
  | cpysigDestinationCheck
  /-- A copy stopped by a trap or pre-emption reaches its next 1 MiB boundary and stops there (R247). Site: die, cell, n the copy. -/
  | copyBoundaryStop
  /-- A copy completes with its status, checksum, counter increment, tokens and tag after every byte is performed (R346). Site: die, cell, n the copy, yes: the destination package has acknowledged every chunk, word with this status. -/
  | copyComplete
  /-- A collective engine reads and checks a work entry, fires it or places it in a trigger table, and arms NEXT (R190). Site: eng. -/
  | entryArm
  /-- A fired WRITE entry copies BYTES from LADDR to RADDR (R192). Site: eng, n the fired entry. -/
  | entryWrite
  /-- A fired WRITE_REDUCE entry combines BYTES into RADDR under RED in sequence order (R192). Site: eng, n the fired entry. -/
  | entryWriteReduce
  /-- A fired SIGNAL entry moves no data and completes at once (R192). Site: eng, n the fired entry. -/
  | entrySignal
  /-- A fired entry's effect is complete; STATUS and DONE are written and INCCTR incremented (R192). Site: eng, n the fired entry, yes: the destination package has acknowledged every chunk, word with this status. -/
  | entryComplete
  /-- An increment reaches a counter, changes VALUE, folds ORDSIG and re-examines the trigger table (R194). Site: n the increment in flight. -/
  | counterIncrement
  /-- A copy, collective or one-sided write is performed at a scratchpad bank and its words are counted in armed arrival regions (R198). Site: n the write in flight. -/
  | oneSidedWrite
  /-- A sequenced reducing write arrives, is held, and held writes are applied while their SEQ equals NEXT (R201). Site: n the write in flight. -/
  | reducingWriteArrival
  /-- A 1 MiB fabric chunk arrives at the destination package, is deduplicated, performed and acknowledged (R204). Site: chunk. -/
  | fabricChunk
  /-- A chunk without acknowledgement in 50 µs makes the engine re-form the path or, after 8 sends, complete with status 3 (R204). Site: n the transfer. -/
  | fabricChunkTimeout
  /-- A loss notice for a COLLID completes its entries with COLL_LOST, sets LOST on their counters and is forwarded (R206). Site: n the COLLID, yes: it is the XID of an exchange. -/
  | lossNotice
  /-- An exchange post reaches an arbiter; with all members posted the posts are checked and the calendar decomposed (R213). Site: n the message, or x a message from another package. -/
  | postArrival
  /-- A sender's engine receives its grant records and reads its SRCTAB (R217). Site: n the message, or x a message from another package. -/
  | calendarRow
  /-- A phase opening reaches a sender's engine, which writes its granted bytes to the receiver (R217). Site: n the message, or x a message from another package. -/
  | phaseOpen
  /-- A grant acknowledgement reaches the arbiter; the last one of a phase closes it and opens the next (R217). Site: n the message, or x a message from another package; yes: the receiving package has acknowledged every chunk, word with this status. -/
  | grantAck
  /-- A member's engine receives the completion notice, writes RECEIVED, records status and increments CTR (R219). Site: n the message, or x a message from another package. -/
  | exchangeCompletionNotice
  /-- Every 10 µs the primary arbiter sends a heartbeat to the standby (R223). Site: rim, n the slot, or x a heartbeat from another package. -/
  | heartbeatSend
  /-- After 30 µs without a heartbeat the standby takes over, sets EPOCH 1 and reopens phase CLOSED + 1 (R223). Site: rim, n the slot. -/
  | heartbeatTimeout
  /-- A takeover notice reaches a member or the old primary, which then ignores epoch 0 or stops acting (R223). Site: n the message, or x a message from another package. -/
  | takeoverNotice
  /-- An arrival notice for a system barrier generation arrives; with all NPKG arrived the generation completes (R327). Site: n the BID, word the generation, word2 the table crc64, chunk.srcPkg the package. -/
  | systemArrivalNotice
  /-- After the stop's drain K enters the handler with the trap registers set, or the trap is unhandled (R250). Site: die, cell. -/
  | trapEntry
  /-- A blocked sequencer instruction reaches WAITBOUND x 256 cycles and raises WAIT_BOUND (R255). Site: die, cell, seq. -/
  | waitBoundExpiry
  /-- An engine command's count reaches its f14 bound and raises a deferred CYCLE_BOUND once (R254). Site: die, cell, n the command. -/
  | cycleBoundExpiry
  /-- At D2 every 2^20 cycles from the reference a hash-tree update is triggered and the groups are held (R242). Site: n the launch. -/
  | hashTreeTimer
  /-- Once earlier writes are performed, each die hashes its pages and the nodes and header are written, then the groups are released (R242). -/
  | hashTreeUpdate
  /-- A store or atomic to a replicated page reaches the replica sequencer, is numbered and multicast to every replica (R184). Site: n the update. -/
  | replicaUpdate
  /-- A read lease older than 1 µs that holds back a store is recalled and the store accepted (R175). Site: n the line. -/
  | timestampLeaseRecall
  /-- An instruction word that is not an instruction (major 0x2B to 0x2F, an fn, op or arg beyond the listed codes, or a reserved bit set) issues and raises ILLEGAL_OP with no effect (R275). Site: die, cell, seq. -/
  | undefinedEncoding
  /-- Package power falls back below 10,000 W and the package management core resumes dispatching new groups (R24). -/
  | powerBelowLimit
  /-- A COPYH transfer finishes moving its bytes and completes with its status, crc64 and completion record (R33). Site: n the transfer, word the MiB units moved by one that a RESET stopped. -/
  | copyhComplete
  /-- A die reset ends with the die back in service, or out of it; mesh pairs resynchronise, replicated pages are copied, and the RESET completes (R42). Site: die, yes: it returns to service. -/
  | dieResetComplete
  /-- The primary finds its standby lost and continues alone with a black-box event, or, with both arbiters lost, every member completes with LINK_LOST (R223). Site: rim, n the slot, yes: both are lost. -/
  | arbiterLost
deriving DecidableEq, Repr

end Sys2Proof
end

