-- ==== Sys2Proof/WellFormed.lean ====
section
/-! DEFINITION. When an instruction is well formed: the combinations of fields that the encoding tables admit (R270, R273,
R275 row 1), and a turn's Site: the agents the package has (R8, R9, R27, R35, R85, R187). -/

namespace Sys2Proof

/-- PB pattern bits at or beyond the count are zero (R275 row 1); the field holds count - 1 (R270). -/
def predPatternOk (n : BitVec 3) (q : BitVec 8) : Bool := decide (q.toNat < 2 ^ (n.toNat + 1))

/-- A `bar` level is 0 to 4, and field a is read at system level alone (R273, R324). -/
def barLevelOk (l : BitVec 3) (a : BitVec 5) : Bool := decide (l.toNat ≤ 4) && (l == 4 || a == 0)

/-- Well-formed instructions. -/
def Instr.wf : Instr → Bool
  | .add _ _ _ _ => true
  | .sub _ _ _ _ => true
  | .and _ _ _ _ => true
  | .or _ _ _ _ => true
  | .xor _ _ _ _ => true
  | .andn _ _ _ _ => true
  | .sll _ _ _ _ => true
  | .srl _ _ _ _ => true
  | .sra _ _ _ _ => true
  | .rol _ _ _ _ => true
  | .mul _ _ _ _ => true
  | .mulh _ _ _ _ => true
  | .mulhz _ _ _ _ => true
  | .div _ _ _ _ => true
  | .divz _ _ _ _ => true
  | .rem _ _ _ _ => true
  | .remz _ _ _ _ => true
  | .min _ _ _ _ => true
  | .max _ _ _ _ => true
  | .minz _ _ _ _ => true
  | .maxz _ _ _ _ => true
  | .clz _ _ _ => true
  | .ctz _ _ _ => true
  | .popc _ _ _ => true
  | .bswap _ _ _ => true
  | .mix _ _ _ _ => true
  | .bfx _ _ _ _ => true
  | .bfi _ _ _ _ => true
  | .addi _ _ _ _ => true
  | .andi _ _ _ _ => true
  | .ori _ _ _ _ => true
  | .xori _ _ _ _ => true
  | .slli _ _ _ _ => true
  | .srli _ _ _ _ => true
  | .srai _ _ _ _ => true
  | .roli _ _ _ _ => true
  | .pcmp _ _ _ _ _ => true
  | .pcmpi _ _ _ _ _ => true
  | .li _ _ _ => true
  | .lis _ _ _ => true
  | .ldc _ _ _ => true
  | .pred _ _ n q => predPatternOk n q
  | .bt _ _ _ => true
  | .bf _ _ _ => true
  | .jmp _ _ => true
  | .call _ a _ => a != 0
  | .jr _ _ _ _ => true
  | .loop _ _ _ _ => true
  | .bloop _ _ _ => true
  | .bloopRot _ _ _ => true
  | .qlen _ _ _ => true
  | .qpeek _ _ _ => true
  | .tokcnt _ _ _ => true
  | .tokadd _ _ _ => true
  | .tokwait _ _ _ => true
  | .ldo _ _ _ z s _ _ => !(z == 3 && s == 1)
  | .sto _ _ _ _ _ _ => true
  | .ldx _ _ _ z s _ => !(z == 3 && s == 1)
  | .stx _ _ _ _ _ => true
  | .lds _ _ _ z s _ => !(z == 3 && s == 1)
  | .sts _ _ _ _ _ => true
  | .tld _ _ _ n _ => n != 0
  | .tst _ _ _ n _ => n != 0
  | .atomSwap _ _ _ _ _ _ => true
  | .atomAdd _ _ _ _ _ _ => true
  | .atomAnd _ _ _ _ _ _ => true
  | .atomOr _ _ _ _ _ _ => true
  | .atomXor _ _ _ _ _ _ => true
  | .atomMax _ _ _ _ _ _ => true
  | .atomMaxz _ _ _ _ _ _ => true
  | .atomCas _ _ _ _ _ _ => true
  | .fenceSc _ _ => true
  | .fenceAcq _ _ => true
  | .fenceRel _ _ => true
  | .ldacq _ _ _ z s _ _ => !(z == 3 && s == 1)
  | .strel _ _ _ _ _ _ => true
  | .waitany _ _ _ => true
  | .waitall _ _ _ => true
  | .ffr _ _ _ => true
  | .tagclr _ _ => true
  | .tagrd _ _ _ => true
  | .tagst _ _ _ => true
  | .tagstArm _ _ _ => true
  | .tlook _ _ _ => true
  | .tfill _ _ _ => true
  | .trd _ _ _ _ _ _ => true
  | .tinv _ _ => true
  | .tstat _ _ _ => true
  | .patchr _ _ _ f => f != 15
  | .patch _ _ f _ => f != 15
  | .go _ _ _ => true
  | .vadd _ _ _ => true
  | .vsub _ _ _ => true
  | .vmul _ _ _ => true
  | .vmulh _ _ _ => true
  | .vand _ _ _ => true
  | .vor _ _ _ => true
  | .vxor _ _ _ => true
  | .vandn _ _ _ => true
  | .vsll _ _ _ => true
  | .vsrl _ _ _ => true
  | .vsra _ _ _ => true
  | .vmin _ _ _ => true
  | .vmax _ _ _ => true
  | .vminz _ _ _ => true
  | .vmaxz _ _ _ => true
  | .vabs _ _ _ => true
  | .vneg _ _ _ => true
  | .vpopc _ _ _ => true
  | .vclz _ _ _ => true
  | .vsel _ _ _ => true
  | .vfadd _ _ _ => true
  | .vfsub _ _ _ => true
  | .vfmul _ _ _ => true
  | .vfma _ _ _ => true
  | .vfms _ _ _ => true
  | .vfnma _ _ _ => true
  | .vfdiv _ _ _ => true
  | .vfsqrt _ _ _ => true
  | .vfmin _ _ _ => true
  | .vfmax _ _ _ => true
  | .vfabs _ _ _ => true
  | .vfneg _ _ _ => true
  | .vfcpsgn _ _ _ => true
  | .vscaleb _ _ _ => true
  | .vgetexp _ _ _ => true
  | .vgetman _ _ _ => true
  | .vfclass _ _ _ => true
  | .vaddx _ _ _ => true
  | .vsubx _ _ _ => true
  | .vmulx _ _ _ => true
  | .vdwadd _ _ _ => true
  | .vdwaddf _ _ _ => true
  | .vdwmul _ _ _ => true
  | .vdwmulf _ _ _ => true
  | .vdwnorm _ _ _ => true
  | .vdwcvt _ _ _ => true
  | .vcvt _ _ _ => true
  | .vquant _ _ _ => true
  | .vdequant _ _ _ => true
  | .vqscale _ _ _ => true
  | .vpack _ _ _ => true
  | .vunpack _ _ _ => true
  | .vcmp _ _ _ => true
  | .vmand _ _ _ => true
  | .vmor _ _ _ => true
  | .vmxor _ _ _ => true
  | .vmnot _ _ _ => true
  | .vmpush _ _ _ => true
  | .vminv _ _ _ => true
  | .vmpopm _ _ _ => true
  | .vmcnt _ _ _ => true
  | .vmov _ _ _ => true
  | .vbcast _ _ _ => true
  | .vext _ _ _ => true
  | .vperm _ _ _ => true
  | .vrot _ _ _ => true
  | .vslide _ _ _ => true
  | .vzip _ _ _ => true
  | .vunzip _ _ _ => true
  | .vredsum _ _ _ => true
  | .vredsumx _ _ _ => true
  | .vredmax _ _ _ => true
  | .vredmin _ _ _ => true
  | .vredand _ _ _ => true
  | .vredor _ _ _ => true
  | .vprefix _ _ _ => true
  | .vgather _ _ _ => true
  | .vscatter _ _ _ => true
  | .vscatc _ _ _ => true
  | .visect _ _ _ => true
  | .vcompress _ _ _ => true
  | .vexpand _ _ _ => true
  | .vrsqe _ _ _ => true
  | .vrcpe _ _ _ => true
  | .vexp2 _ _ _ => true
  | .vlog2 _ _ _ => true
  | .vamax _ _ _ => true
  | .vhist _ _ _ => true
  | .vstatrd _ _ _ => true
  | .vstatclr _ _ _ => true
  | .vrand _ _ _ => true
  | .vseed _ _ _ => true
  | .vfence _ => true
  | .vwait _ => true
  | .vbusy _ _ => true
  | .vdone _ _ => true
  | .vrb _ _ => true
  | .vstat _ _ _ => true
  | .remq _ _ _ _ => true
  | .remqt _ _ _ _ => true
  | .grow _ _ _ => true
  | .barArrive _ _ a l => barLevelOk l a
  | .barWait _ _ a l => barLevelOk l a
  | .barSync _ _ a l => barLevelOk l a
  | .barPhase _ _ a l => barLevelOk l a
  | .qppost _ _ _ => true
  | .ctrrd _ _ _ => true
  | .ctrrdSig _ _ _ => true
  | .ctradd _ _ _ _ => true
  | .ctraddClr _ _ _ => true
  | .ctrwait _ _ _ _ => true
  | .dpost _ _ => true
  | .dgrant _ _ _ => true
  | .xstat _ _ _ => true
  | .rlstart _ _ => true
  | .rlstep _ => true
  | .rlstat _ _ => true
  | .rlesc _ _ => true
  | .rlabort _ => true
  | .leaseAcq _ => true
  | .leaseRel _ => true
  | .leaseStat _ _ => true
  | .nop _ => true
  | .endInsn _ => true
  | .resume _ => true
  | .yield _ => true
  | .cycle _ _ => true
  | .bbox _ _ => true
  | .trap _ _ => true
  | .breakInsn _ _ => true
  | .rdsys _ _ _ => true
  | .wrsys _ _ _ => true
  | .pand _ _ _ _ => true
  | .por _ _ _ _ => true
  | .pxor _ _ _ _ => true
  | .pnot _ _ _ => true
  | .pmov _ _ _ => true
  | .csel _ _ _ _ _ => true
  | .packetAccept => true
  | .launch => true
  | .regionCreate => true
  | .regionModify => true
  | .regionDestroy => true
  | .copyhHostToDevice => true
  | .copyhDeviceToHost => true
  | .signalSet => true
  | .signalAdd => true
  | .signalOr => true
  | .waitsig => true
  | .waitsigTimeout => true
  | .detlevel => true
  | .fencePacket => true
  | .readback => true
  | .writeback => true
  | .xlroot => true
  | .xlinv => true
  | .downSet => true
  | .downClear => true
  | .linkDrainEnd => true
  | .bboxread => true
  | .resetStream => true
  | .resetDie => true
  | .resetPackage => true
  | .completionRecordAck => true
  | .recordResendTimeout => true
  | .laneLock => true
  | .lockWindowEnd => true
  | .alignComplete => true
  | .capabilityWord => true
  | .confirmTestFrames => true
  | .trainingStageTimeout => true
  | .retrainHoldoffExpiry => true
  | .lossOfLock => true
  | .flitCrcFailure => true
  | .errorWindowEnd => true
  | .retrainComplete => true
  | .meshRequest => true
  | .meshResponse => true
  | .resendTimeout => true
  | .holdMessageTimer => true
  | .holdMessage => true
  | .resyncMessage => true
  | .powerOn => true
  | .powerLimitExceeded => true
  | .powerEmergency => true
  | .standbyPowerLoss => true
  | .dispatchDecision => true
  | .bind => true
  | .preEmption => true
  | .contextSave => true
  | .restore => true
  | .groupEnd => true
  | .budgetUpdate => true
  | .agingTick => true
  | .cellLeavesService => true
  | .growWindowClose => true
  | .leaseGrant => true
  | .leaseIdleTimeout => true
  | .remoteQueueIssue => true
  | .checkSlotRelease => true
  | .residueFailure => true
  | .mma => true
  | .mmaz => true
  | .mmabsr => true
  | .mmaseed => true
  | .mhad => true
  | .mdrain => true
  | .mraster => true
  | .mzero => true
  | .mload => true
  | .commandCompare => true
  | .arbitrationDone => true
  | .rerunDone => true
  | .drainUnitCompare => true
  | .vectorCommandStart => true
  | .vectorCommandComplete => true
  | .tensorAccessComplete => true
  | .tfillComplete => true
  | .cpysigDestinationCheck => true
  | .copyBoundaryStop => true
  | .copyComplete => true
  | .entryArm => true
  | .entryWrite => true
  | .entryWriteReduce => true
  | .entrySignal => true
  | .entryComplete => true
  | .counterIncrement => true
  | .oneSidedWrite => true
  | .reducingWriteArrival => true
  | .fabricChunk => true
  | .fabricChunkTimeout => true
  | .lossNotice => true
  | .postArrival => true
  | .calendarRow => true
  | .phaseOpen => true
  | .grantAck => true
  | .exchangeCompletionNotice => true
  | .heartbeatSend => true
  | .heartbeatTimeout => true
  | .takeoverNotice => true
  | .systemArrivalNotice => true
  | .trapEntry => true
  | .waitBoundExpiry => true
  | .cycleBoundExpiry => true
  | .hashTreeTimer => true
  | .hashTreeUpdate => true
  | .replicaUpdate => true
  | .timestampLeaseRecall => true
  | .undefinedEncoding => true
  | .powerBelowLimit => true
  | .copyhComplete => true
  | .dieResetComplete => true
  | .arbiterLost => true

/-- A Site names agents that the package has: dies 0 to 19 (R8), cells 0 to 55 and quads 0 to 13 (R85), streams 0 to 15
(R35), ports 0 to 31 and the Ustex port 32 (R23, R27), edges 0 to 39 and their modules (R9, R34), engines 0 to 15 (R187). -/
def Site.wf (s : Site) : Bool :=
  decide (s.die < 20) && decide (s.cell < 56) && decide (s.quad < 14) && decide (s.stream < 16) && decide (s.port < 33) &&
  decide (s.lane < 8) && decide (s.edge < 40) && decide (s.mod < 8) && decide (s.src < 20) && decide (s.dst < 20) &&
  decide (s.eng < 16) && decide (s.rim < 4)

/-- Does the event happen at a cell or a quad, which compute dies alone hold (R8)? -/
def Instr.atComputeDie : Instr → Bool
  | .holdMessageTimer => true
  | .bind => true
  | .preEmption => true
  | .contextSave => true
  | .restore => true
  | .groupEnd => true
  | .cellLeavesService => true
  | .leaseGrant => true
  | .leaseIdleTimeout => true
  | .remoteQueueIssue => true
  | .checkSlotRelease => true
  | .residueFailure => true
  | .mma => true
  | .mmaz => true
  | .mmabsr => true
  | .mmaseed => true
  | .mhad => true
  | .mdrain => true
  | .mraster => true
  | .mzero => true
  | .mload => true
  | .commandCompare => true
  | .arbitrationDone => true
  | .rerunDone => true
  | .drainUnitCompare => true
  | .vectorCommandStart => true
  | .vectorCommandComplete => true
  | .tensorAccessComplete => true
  | .tfillComplete => true
  | .cpysigDestinationCheck => true
  | .copyBoundaryStop => true
  | .copyComplete => true
  | .trapEntry => true
  | .waitBoundExpiry => true
  | .cycleBoundExpiry => true
  | _ => false

/-- Is it a step of the device rather than an instruction of a sequencer? -/
def Instr.isEvent : Instr → Bool
  | .add _ _ _ _ => false
  | .sub _ _ _ _ => false
  | .and _ _ _ _ => false
  | .or _ _ _ _ => false
  | .xor _ _ _ _ => false
  | .andn _ _ _ _ => false
  | .sll _ _ _ _ => false
  | .srl _ _ _ _ => false
  | .sra _ _ _ _ => false
  | .rol _ _ _ _ => false
  | .mul _ _ _ _ => false
  | .mulh _ _ _ _ => false
  | .mulhz _ _ _ _ => false
  | .div _ _ _ _ => false
  | .divz _ _ _ _ => false
  | .rem _ _ _ _ => false
  | .remz _ _ _ _ => false
  | .min _ _ _ _ => false
  | .max _ _ _ _ => false
  | .minz _ _ _ _ => false
  | .maxz _ _ _ _ => false
  | .clz _ _ _ => false
  | .ctz _ _ _ => false
  | .popc _ _ _ => false
  | .bswap _ _ _ => false
  | .mix _ _ _ _ => false
  | .bfx _ _ _ _ => false
  | .bfi _ _ _ _ => false
  | .addi _ _ _ _ => false
  | .andi _ _ _ _ => false
  | .ori _ _ _ _ => false
  | .xori _ _ _ _ => false
  | .slli _ _ _ _ => false
  | .srli _ _ _ _ => false
  | .srai _ _ _ _ => false
  | .roli _ _ _ _ => false
  | .pcmp _ _ _ _ _ => false
  | .pcmpi _ _ _ _ _ => false
  | .li _ _ _ => false
  | .lis _ _ _ => false
  | .ldc _ _ _ => false
  | .pred _ _ _ _ => false
  | .bt _ _ _ => false
  | .bf _ _ _ => false
  | .jmp _ _ => false
  | .call _ _ _ => false
  | .jr _ _ _ _ => false
  | .loop _ _ _ _ => false
  | .bloop _ _ _ => false
  | .bloopRot _ _ _ => false
  | .qlen _ _ _ => false
  | .qpeek _ _ _ => false
  | .tokcnt _ _ _ => false
  | .tokadd _ _ _ => false
  | .tokwait _ _ _ => false
  | .ldo _ _ _ _ _ _ _ => false
  | .sto _ _ _ _ _ _ => false
  | .ldx _ _ _ _ _ _ => false
  | .stx _ _ _ _ _ => false
  | .lds _ _ _ _ _ _ => false
  | .sts _ _ _ _ _ => false
  | .tld _ _ _ _ _ => false
  | .tst _ _ _ _ _ => false
  | .atomSwap _ _ _ _ _ _ => false
  | .atomAdd _ _ _ _ _ _ => false
  | .atomAnd _ _ _ _ _ _ => false
  | .atomOr _ _ _ _ _ _ => false
  | .atomXor _ _ _ _ _ _ => false
  | .atomMax _ _ _ _ _ _ => false
  | .atomMaxz _ _ _ _ _ _ => false
  | .atomCas _ _ _ _ _ _ => false
  | .fenceSc _ _ => false
  | .fenceAcq _ _ => false
  | .fenceRel _ _ => false
  | .ldacq _ _ _ _ _ _ _ => false
  | .strel _ _ _ _ _ _ => false
  | .waitany _ _ _ => false
  | .waitall _ _ _ => false
  | .ffr _ _ _ => false
  | .tagclr _ _ => false
  | .tagrd _ _ _ => false
  | .tagst _ _ _ => false
  | .tagstArm _ _ _ => false
  | .tlook _ _ _ => false
  | .tfill _ _ _ => false
  | .trd _ _ _ _ _ _ => false
  | .tinv _ _ => false
  | .tstat _ _ _ => false
  | .patchr _ _ _ _ => false
  | .patch _ _ _ _ => false
  | .go _ _ _ => false
  | .vadd _ _ _ => false
  | .vsub _ _ _ => false
  | .vmul _ _ _ => false
  | .vmulh _ _ _ => false
  | .vand _ _ _ => false
  | .vor _ _ _ => false
  | .vxor _ _ _ => false
  | .vandn _ _ _ => false
  | .vsll _ _ _ => false
  | .vsrl _ _ _ => false
  | .vsra _ _ _ => false
  | .vmin _ _ _ => false
  | .vmax _ _ _ => false
  | .vminz _ _ _ => false
  | .vmaxz _ _ _ => false
  | .vabs _ _ _ => false
  | .vneg _ _ _ => false
  | .vpopc _ _ _ => false
  | .vclz _ _ _ => false
  | .vsel _ _ _ => false
  | .vfadd _ _ _ => false
  | .vfsub _ _ _ => false
  | .vfmul _ _ _ => false
  | .vfma _ _ _ => false
  | .vfms _ _ _ => false
  | .vfnma _ _ _ => false
  | .vfdiv _ _ _ => false
  | .vfsqrt _ _ _ => false
  | .vfmin _ _ _ => false
  | .vfmax _ _ _ => false
  | .vfabs _ _ _ => false
  | .vfneg _ _ _ => false
  | .vfcpsgn _ _ _ => false
  | .vscaleb _ _ _ => false
  | .vgetexp _ _ _ => false
  | .vgetman _ _ _ => false
  | .vfclass _ _ _ => false
  | .vaddx _ _ _ => false
  | .vsubx _ _ _ => false
  | .vmulx _ _ _ => false
  | .vdwadd _ _ _ => false
  | .vdwaddf _ _ _ => false
  | .vdwmul _ _ _ => false
  | .vdwmulf _ _ _ => false
  | .vdwnorm _ _ _ => false
  | .vdwcvt _ _ _ => false
  | .vcvt _ _ _ => false
  | .vquant _ _ _ => false
  | .vdequant _ _ _ => false
  | .vqscale _ _ _ => false
  | .vpack _ _ _ => false
  | .vunpack _ _ _ => false
  | .vcmp _ _ _ => false
  | .vmand _ _ _ => false
  | .vmor _ _ _ => false
  | .vmxor _ _ _ => false
  | .vmnot _ _ _ => false
  | .vmpush _ _ _ => false
  | .vminv _ _ _ => false
  | .vmpopm _ _ _ => false
  | .vmcnt _ _ _ => false
  | .vmov _ _ _ => false
  | .vbcast _ _ _ => false
  | .vext _ _ _ => false
  | .vperm _ _ _ => false
  | .vrot _ _ _ => false
  | .vslide _ _ _ => false
  | .vzip _ _ _ => false
  | .vunzip _ _ _ => false
  | .vredsum _ _ _ => false
  | .vredsumx _ _ _ => false
  | .vredmax _ _ _ => false
  | .vredmin _ _ _ => false
  | .vredand _ _ _ => false
  | .vredor _ _ _ => false
  | .vprefix _ _ _ => false
  | .vgather _ _ _ => false
  | .vscatter _ _ _ => false
  | .vscatc _ _ _ => false
  | .visect _ _ _ => false
  | .vcompress _ _ _ => false
  | .vexpand _ _ _ => false
  | .vrsqe _ _ _ => false
  | .vrcpe _ _ _ => false
  | .vexp2 _ _ _ => false
  | .vlog2 _ _ _ => false
  | .vamax _ _ _ => false
  | .vhist _ _ _ => false
  | .vstatrd _ _ _ => false
  | .vstatclr _ _ _ => false
  | .vrand _ _ _ => false
  | .vseed _ _ _ => false
  | .vfence _ => false
  | .vwait _ => false
  | .vbusy _ _ => false
  | .vdone _ _ => false
  | .vrb _ _ => false
  | .vstat _ _ _ => false
  | .remq _ _ _ _ => false
  | .remqt _ _ _ _ => false
  | .grow _ _ _ => false
  | .barArrive _ _ _ _ => false
  | .barWait _ _ _ _ => false
  | .barSync _ _ _ _ => false
  | .barPhase _ _ _ _ => false
  | .qppost _ _ _ => false
  | .ctrrd _ _ _ => false
  | .ctrrdSig _ _ _ => false
  | .ctradd _ _ _ _ => false
  | .ctraddClr _ _ _ => false
  | .ctrwait _ _ _ _ => false
  | .dpost _ _ => false
  | .dgrant _ _ _ => false
  | .xstat _ _ _ => false
  | .rlstart _ _ => false
  | .rlstep _ => false
  | .rlstat _ _ => false
  | .rlesc _ _ => false
  | .rlabort _ => false
  | .leaseAcq _ => false
  | .leaseRel _ => false
  | .leaseStat _ _ => false
  | .nop _ => false
  | .endInsn _ => false
  | .resume _ => false
  | .yield _ => false
  | .cycle _ _ => false
  | .bbox _ _ => false
  | .trap _ _ => false
  | .breakInsn _ _ => false
  | .rdsys _ _ _ => false
  | .wrsys _ _ _ => false
  | .pand _ _ _ _ => false
  | .por _ _ _ _ => false
  | .pxor _ _ _ _ => false
  | .pnot _ _ _ => false
  | .pmov _ _ _ => false
  | .csel _ _ _ _ _ => false
  | .packetAccept => true
  | .launch => true
  | .regionCreate => true
  | .regionModify => true
  | .regionDestroy => true
  | .copyhHostToDevice => true
  | .copyhDeviceToHost => true
  | .signalSet => true
  | .signalAdd => true
  | .signalOr => true
  | .waitsig => true
  | .waitsigTimeout => true
  | .detlevel => true
  | .fencePacket => true
  | .readback => true
  | .writeback => true
  | .xlroot => true
  | .xlinv => true
  | .downSet => true
  | .downClear => true
  | .linkDrainEnd => true
  | .bboxread => true
  | .resetStream => true
  | .resetDie => true
  | .resetPackage => true
  | .completionRecordAck => true
  | .recordResendTimeout => true
  | .laneLock => true
  | .lockWindowEnd => true
  | .alignComplete => true
  | .capabilityWord => true
  | .confirmTestFrames => true
  | .trainingStageTimeout => true
  | .retrainHoldoffExpiry => true
  | .lossOfLock => true
  | .flitCrcFailure => true
  | .errorWindowEnd => true
  | .retrainComplete => true
  | .meshRequest => true
  | .meshResponse => true
  | .resendTimeout => true
  | .holdMessageTimer => true
  | .holdMessage => true
  | .resyncMessage => true
  | .powerOn => true
  | .powerLimitExceeded => true
  | .powerEmergency => true
  | .standbyPowerLoss => true
  | .dispatchDecision => true
  | .bind => true
  | .preEmption => true
  | .contextSave => true
  | .restore => true
  | .groupEnd => true
  | .budgetUpdate => true
  | .agingTick => true
  | .cellLeavesService => true
  | .growWindowClose => true
  | .leaseGrant => true
  | .leaseIdleTimeout => true
  | .remoteQueueIssue => true
  | .checkSlotRelease => true
  | .residueFailure => true
  | .mma => true
  | .mmaz => true
  | .mmabsr => true
  | .mmaseed => true
  | .mhad => true
  | .mdrain => true
  | .mraster => true
  | .mzero => true
  | .mload => true
  | .commandCompare => true
  | .arbitrationDone => true
  | .rerunDone => true
  | .drainUnitCompare => true
  | .vectorCommandStart => true
  | .vectorCommandComplete => true
  | .tensorAccessComplete => true
  | .tfillComplete => true
  | .cpysigDestinationCheck => true
  | .copyBoundaryStop => true
  | .copyComplete => true
  | .entryArm => true
  | .entryWrite => true
  | .entryWriteReduce => true
  | .entrySignal => true
  | .entryComplete => true
  | .counterIncrement => true
  | .oneSidedWrite => true
  | .reducingWriteArrival => true
  | .fabricChunk => true
  | .fabricChunkTimeout => true
  | .lossNotice => true
  | .postArrival => true
  | .calendarRow => true
  | .phaseOpen => true
  | .grantAck => true
  | .exchangeCompletionNotice => true
  | .heartbeatSend => true
  | .heartbeatTimeout => true
  | .takeoverNotice => true
  | .systemArrivalNotice => true
  | .trapEntry => true
  | .waitBoundExpiry => true
  | .cycleBoundExpiry => true
  | .hashTreeTimer => true
  | .hashTreeUpdate => true
  | .replicaUpdate => true
  | .timestampLeaseRecall => true
  | .undefinedEncoding => false
  | .powerBelowLimit => true
  | .copyhComplete => true
  | .dieResetComplete => true
  | .arbiterLost => true

end Sys2Proof
end

