-- ==== Sys2Proof/Decode.lean ====
section
/-! DEFINITION. Decoding of the 32-bit instruction word (R269 to R278) and, after it, the encoder written from the same
tables. Every encoding that is not an instruction is rejected by name (R275 row 1). -/

namespace Sys2Proof

/-- Why a word, or a string of bytes, is no instruction (R275 row 1). -/
inductive Reject where
  /-- fewer than four bytes -/
  | shortInput
  /-- major 0x2B to 0x2F -/
  | reservedMajor
  /-- an fn, op, arg, kind, level or group beyond the listed codes -/
  | subOperation
  /-- a reserved bit or an unused register field non-zero -/
  | reservedBits
deriving DecidableEq, Repr

/-- Field of a word: len bits from bit lo upward (R270). -/
def fld (w : BitVec 32) (lo len : Nat) : BitVec len := w.extractLsb' lo len

/-- An instruction if its reserved fields are zero. -/
def okIf (c : Bool) (i : Instr) : Except Reject Instr := if c then .ok i else .error .reservedBits

/-- `alu` (R274): the position of the operation in the list is its fn. -/
def decodeAlu (t : BitVec 4) (d a b : BitVec 5) (fn : BitVec 7) : Except Reject Instr :=
  match fn.toNat with
  | 0 => .ok (.add t d a b)
  | 1 => .ok (.sub t d a b)
  | 2 => .ok (.and t d a b)
  | 3 => .ok (.or t d a b)
  | 4 => .ok (.xor t d a b)
  | 5 => .ok (.andn t d a b)
  | 6 => .ok (.sll t d a b)
  | 7 => .ok (.srl t d a b)
  | 8 => .ok (.sra t d a b)
  | 9 => .ok (.rol t d a b)
  | 10 => .ok (.mul t d a b)
  | 11 => .ok (.mulh t d a b)
  | 12 => .ok (.mulhz t d a b)
  | 13 => .ok (.div t d a b)
  | 14 => .ok (.divz t d a b)
  | 15 => .ok (.rem t d a b)
  | 16 => .ok (.remz t d a b)
  | 17 => .ok (.min t d a b)
  | 18 => .ok (.max t d a b)
  | 19 => .ok (.minz t d a b)
  | 20 => .ok (.maxz t d a b)
  | 21 => okIf (b == 0) (.clz t d a)
  | 22 => okIf (b == 0) (.ctz t d a)
  | 23 => okIf (b == 0) (.popc t d a)
  | 24 => okIf (b == 0) (.bswap t d a)
  | 25 => .ok (.mix t d a b)
  | 26 => .ok (.bfx t d a b)
  | 27 => .ok (.bfi t d a b)
  | _ => .error .subOperation

def decodeShiftImm (t : BitVec 4) (d a : BitVec 5) (res : BitVec 4) (kind : BitVec 2) (s : BitVec 6) : Except Reject Instr :=
  if res != 0 then .error .reservedBits else
  match kind.toNat with
  | 0 => .ok (.slli t d a s)
  | 1 => .ok (.srli t d a s)
  | 2 => .ok (.srai t d a s)
  | _ => .ok (.roli t d a s)

def decodeQueue (t : BitVec 4) (d a b : BitVec 5) (fn : BitVec 7) : Except Reject Instr :=
  match fn.toNat with
  | 0 => okIf (b == 0) (.qlen t d a)
  | 1 => okIf (b == 0) (.qpeek t d a)
  | 2 => okIf (b == 0) (.tokcnt t d a)
  | 3 => okIf (b == 0) (.tokadd t d a)
  | 4 => okIf (b == 0) (.tokwait t d a)
  | _ => .error .subOperation

def decodeTag (t : BitVec 4) (d a b : BitVec 5) (fn : BitVec 7) : Except Reject Instr :=
  match fn.toNat with
  | 0 => okIf (b == 0) (.waitany t d a)
  | 1 => okIf (b == 0) (.waitall t d a)
  | 2 => okIf (b == 0) (.ffr t d a)
  | 3 => okIf (d == 0 && b == 0) (.tagclr t a)
  | 4 => okIf (b == 0) (.tagrd t d a)
  | 5 => okIf (d == 0) (.tagst t a b)
  | 6 => okIf (d == 0) (.tagstArm t a b)
  | _ => .error .subOperation

def decodeVctl (t : BitVec 4) (d a b : BitVec 5) (fn : BitVec 7) : Except Reject Instr :=
  match fn.toNat with
  | 0 => okIf (d == 0 && a == 0 && b == 0) (.vfence t)
  | 1 => okIf (d == 0 && a == 0 && b == 0) (.vwait t)
  | 2 => okIf (a == 0 && b == 0) (.vbusy t d)
  | 3 => okIf (a == 0 && b == 0) (.vdone t d)
  | 4 => okIf (a == 0 && b == 0) (.vrb t d)
  | 5 => okIf (b == 0) (.vstat t d a)
  | _ => .error .subOperation

def decodeRemq (t : BitVec 4) (d a b : BitVec 5) (fn : BitVec 7) : Except Reject Instr :=
  match fn.toNat with
  | 0 => .ok (.remq t d a b)
  | 1 => .ok (.remqt t d a b)
  | _ => .error .subOperation

def decodeColl (t : BitVec 4) (d a b : BitVec 5) (fn : BitVec 7) : Except Reject Instr :=
  match fn.toNat with
  | 0 => okIf (d == 0) (.qppost t a b)
  | 1 => okIf (b == 0) (.ctrrd t d a)
  | 2 => okIf (b == 0) (.ctrrdSig t d a)
  | 3 => .ok (.ctradd t d a b)
  | 4 => okIf (b == 0) (.ctraddClr t d a)
  | 5 => .ok (.ctrwait t d a b)
  | 6 => okIf (d == 0 && b == 0) (.dpost t a)
  | 7 => okIf (b == 0) (.dgrant t d a)
  | 8 => okIf (b == 0) (.xstat t d a)
  | _ => .error .subOperation

def decodeRlc (t : BitVec 4) (d a b : BitVec 5) (fn : BitVec 7) : Except Reject Instr :=
  match fn.toNat with
  | 0 => okIf (d == 0 && b == 0) (.rlstart t a)
  | 1 => okIf (d == 0 && a == 0 && b == 0) (.rlstep t)
  | 2 => okIf (a == 0 && b == 0) (.rlstat t d)
  | 3 => okIf (a == 0 && b == 0) (.rlesc t d)
  | 4 => okIf (d == 0 && a == 0 && b == 0) (.rlabort t)
  | _ => .error .subOperation

def decodePcomb (t : BitVec 4) (d a b : BitVec 5) (fn : BitVec 7) : Except Reject Instr :=
  match fn.toNat with
  | 0 => .ok (.pand t d a b)
  | 1 => .ok (.por t d a b)
  | 2 => .ok (.pxor t d a b)
  | 3 => okIf (b == 0) (.pnot t d a)
  | 4 => okIf (b == 0) (.pmov t d a)
  | _ => .error .subOperation

/-- `tld` and `tst` (R334): fn 6 the form, fn 5:3 the coordinate count (0 is no instruction), fn 2:1 the queue. -/
def decodeTensor (t : BitVec 4) (d a b : BitVec 5) (form : BitVec 1) (n : BitVec 3) (q : BitVec 2) (res : BitVec 1) :
    Except Reject Instr :=
  if b != 0 || res != 0 then .error .reservedBits else
  if n == 0 then .error .subOperation else
  if form == 0 then .ok (.tld t d a n q)
  else if q.extractLsb' 1 1 == 0 then .ok (.tst t d a n (q.extractLsb' 0 1)) else .error .subOperation

/-- `atom` (R333): fn 6:4 the operation, fn 3 the size, fn 1:0 the scope. -/
def decodeAtom (t : BitVec 4) (d a b : BitVec 5) (op : BitVec 3) (z res : BitVec 1) (c : BitVec 2) : Except Reject Instr :=
  if res != 0 then .error .reservedBits else
  match op.toNat with
  | 0 => .ok (.atomSwap t d a b z c)
  | 1 => .ok (.atomAdd t d a b z c)
  | 2 => .ok (.atomAnd t d a b z c)
  | 3 => .ok (.atomOr t d a b z c)
  | 4 => .ok (.atomXor t d a b z c)
  | 5 => .ok (.atomMax t d a b z c)
  | 6 => .ok (.atomMaxz t d a b z c)
  | _ => .ok (.atomCas t d a b z c)

def decodeFence (t : BitVec 4) (d a : BitVec 5) (res : BitVec 8) (kind c : BitVec 2) : Except Reject Instr :=
  if d != 0 || a != 0 || res != 0 then .error .reservedBits else
  match kind.toNat with
  | 0 => .ok (.fenceSc t c)
  | 1 => .ok (.fenceAcq t c)
  | 2 => .ok (.fenceRel t c)
  | _ => .error .subOperation

/-- Tagged-store forms (R338): fn 2:0 the form; fn 4:3 and fn 5 serve `trd` alone. -/
def decodeStore (t : BitVec 4) (d a b : BitVec 5) (res s : BitVec 1) (z : BitVec 2) (form : BitVec 3) : Except Reject Instr :=
  if res != 0 then .error .reservedBits else
  let plain := s == 0 && z == 0
  match form.toNat with
  | 0 => okIf (plain && b == 0) (.tlook t d a)
  | 1 => okIf (plain && d == 0) (.tfill t a b)
  | 2 => .ok (.trd t d a b s z)
  | 3 => okIf (plain && d == 0 && b == 0) (.tinv t a)
  | 4 => okIf (plain && b == 0) (.tstat t d a)
  | _ => .error .subOperation

def decodeVop0 (t : BitVec 4) (a b : BitVec 5) (fn : BitVec 7) : Except Reject Instr :=
  match fn.toNat with
  | 0 => .ok (.vadd t a b)
  | 1 => .ok (.vsub t a b)
  | 2 => .ok (.vmul t a b)
  | 3 => .ok (.vmulh t a b)
  | 4 => .ok (.vand t a b)
  | 5 => .ok (.vor t a b)
  | 6 => .ok (.vxor t a b)
  | 7 => .ok (.vandn t a b)
  | 8 => .ok (.vsll t a b)
  | 9 => .ok (.vsrl t a b)
  | 10 => .ok (.vsra t a b)
  | 11 => .ok (.vmin t a b)
  | 12 => .ok (.vmax t a b)
  | 13 => .ok (.vminz t a b)
  | 14 => .ok (.vmaxz t a b)
  | 15 => .ok (.vabs t a b)
  | 16 => .ok (.vneg t a b)
  | 17 => .ok (.vpopc t a b)
  | 18 => .ok (.vclz t a b)
  | 19 => .ok (.vsel t a b)
  | _ => .error .subOperation

def decodeVop1 (t : BitVec 4) (a b : BitVec 5) (fn : BitVec 7) : Except Reject Instr :=
  match fn.toNat with
  | 0 => .ok (.vfadd t a b)
  | 1 => .ok (.vfsub t a b)
  | 2 => .ok (.vfmul t a b)
  | 3 => .ok (.vfma t a b)
  | 4 => .ok (.vfms t a b)
  | 5 => .ok (.vfnma t a b)
  | 6 => .ok (.vfdiv t a b)
  | 7 => .ok (.vfsqrt t a b)
  | 8 => .ok (.vfmin t a b)
  | 9 => .ok (.vfmax t a b)
  | 10 => .ok (.vfabs t a b)
  | 11 => .ok (.vfneg t a b)
  | 12 => .ok (.vfcpsgn t a b)
  | 13 => .ok (.vscaleb t a b)
  | 14 => .ok (.vgetexp t a b)
  | 15 => .ok (.vgetman t a b)
  | 16 => .ok (.vfclass t a b)
  | _ => .error .subOperation

def decodeVop2 (t : BitVec 4) (a b : BitVec 5) (fn : BitVec 7) : Except Reject Instr :=
  match fn.toNat with
  | 0 => .ok (.vaddx t a b)
  | 1 => .ok (.vsubx t a b)
  | 2 => .ok (.vmulx t a b)
  | _ => .error .subOperation

def decodeVop3 (t : BitVec 4) (a b : BitVec 5) (fn : BitVec 7) : Except Reject Instr :=
  match fn.toNat with
  | 0 => .ok (.vdwadd t a b)
  | 1 => .ok (.vdwaddf t a b)
  | 2 => .ok (.vdwmul t a b)
  | 3 => .ok (.vdwmulf t a b)
  | 4 => .ok (.vdwnorm t a b)
  | 5 => .ok (.vdwcvt t a b)
  | _ => .error .subOperation

def decodeVop4 (t : BitVec 4) (a b : BitVec 5) (fn : BitVec 7) : Except Reject Instr :=
  match fn.toNat with
  | 0 => .ok (.vcvt t a b)
  | 1 => .ok (.vquant t a b)
  | 2 => .ok (.vdequant t a b)
  | 3 => .ok (.vqscale t a b)
  | 4 => .ok (.vpack t a b)
  | 5 => .ok (.vunpack t a b)
  | _ => .error .subOperation

def decodeVop5 (t : BitVec 4) (a b : BitVec 5) (fn : BitVec 7) : Except Reject Instr :=
  match fn.toNat with
  | 0 => .ok (.vcmp t a b)
  | 1 => .ok (.vmand t a b)
  | 2 => .ok (.vmor t a b)
  | 3 => .ok (.vmxor t a b)
  | 4 => .ok (.vmnot t a b)
  | 5 => .ok (.vmpush t a b)
  | 6 => .ok (.vminv t a b)
  | 7 => .ok (.vmpopm t a b)
  | 8 => .ok (.vmcnt t a b)
  | _ => .error .subOperation

def decodeVop6 (t : BitVec 4) (a b : BitVec 5) (fn : BitVec 7) : Except Reject Instr :=
  match fn.toNat with
  | 0 => .ok (.vmov t a b)
  | 1 => .ok (.vbcast t a b)
  | 2 => .ok (.vext t a b)
  | 3 => .ok (.vperm t a b)
  | 4 => .ok (.vrot t a b)
  | 5 => .ok (.vslide t a b)
  | 6 => .ok (.vzip t a b)
  | 7 => .ok (.vunzip t a b)
  | _ => .error .subOperation

def decodeVop7 (t : BitVec 4) (a b : BitVec 5) (fn : BitVec 7) : Except Reject Instr :=
  match fn.toNat with
  | 0 => .ok (.vredsum t a b)
  | 1 => .ok (.vredsumx t a b)
  | 2 => .ok (.vredmax t a b)
  | 3 => .ok (.vredmin t a b)
  | 4 => .ok (.vredand t a b)
  | 5 => .ok (.vredor t a b)
  | 6 => .ok (.vprefix t a b)
  | _ => .error .subOperation

def decodeVop8 (t : BitVec 4) (a b : BitVec 5) (fn : BitVec 7) : Except Reject Instr :=
  match fn.toNat with
  | 0 => .ok (.vgather t a b)
  | 1 => .ok (.vscatter t a b)
  | 2 => .ok (.vscatc t a b)
  | 3 => .ok (.visect t a b)
  | 4 => .ok (.vcompress t a b)
  | 5 => .ok (.vexpand t a b)
  | _ => .error .subOperation

def decodeVop9 (t : BitVec 4) (a b : BitVec 5) (fn : BitVec 7) : Except Reject Instr :=
  match fn.toNat with
  | 0 => .ok (.vrsqe t a b)
  | 1 => .ok (.vrcpe t a b)
  | 2 => .ok (.vexp2 t a b)
  | 3 => .ok (.vlog2 t a b)
  | _ => .error .subOperation

def decodeVop10 (t : BitVec 4) (a b : BitVec 5) (fn : BitVec 7) : Except Reject Instr :=
  match fn.toNat with
  | 0 => .ok (.vamax t a b)
  | 1 => .ok (.vhist t a b)
  | 2 => .ok (.vstatrd t a b)
  | 3 => .ok (.vstatclr t a b)
  | _ => .error .subOperation

def decodeVop11 (t : BitVec 4) (a b : BitVec 5) (fn : BitVec 7) : Except Reject Instr :=
  match fn.toNat with
  | 0 => .ok (.vrand t a b)
  | 1 => .ok (.vseed t a b)
  | _ => .error .subOperation

/-- `vop` (R286, R350): the group is in field d, the operation in fn. -/
def decodeVop (t : BitVec 4) (d a b : BitVec 5) (fn : BitVec 7) : Except Reject Instr :=
  match d.toNat with
  | 0 => decodeVop0 t a b fn
  | 1 => decodeVop1 t a b fn
  | 2 => decodeVop2 t a b fn
  | 3 => decodeVop3 t a b fn
  | 4 => decodeVop4 t a b fn
  | 5 => decodeVop5 t a b fn
  | 6 => decodeVop6 t a b fn
  | 7 => decodeVop7 t a b fn
  | 8 => decodeVop8 t a b fn
  | 9 => decodeVop9 t a b fn
  | 10 => decodeVop10 t a b fn
  | 11 => decodeVop11 t a b fn
  | _ => .error .subOperation

/-- `bar` (R324): imm 4:2 the level, of which 5 to 7 are no instruction; field a is read at system level alone. -/
def decodeBar (t : BitVec 4) (d a : BitVec 5) (res : BitVec 7) (l : BitVec 3) (form : BitVec 2) : Except Reject Instr :=
  if res != 0 then .error .reservedBits else
  if !barLevelOk l a then .error .subOperation else
  match form.toNat with
  | 0 => .ok (.barArrive t d a l)
  | 1 => .ok (.barWait t d a l)
  | 2 => .ok (.barSync t d a l)
  | _ => .ok (.barPhase t d a l)

def decodeLease (t : BitVec 4) (d a : BitVec 5) (res : BitVec 10) (form : BitVec 2) : Except Reject Instr :=
  if a != 0 || res != 0 then .error .reservedBits else
  match form.toNat with
  | 0 => okIf (d == 0) (.leaseAcq t)
  | 1 => okIf (d == 0) (.leaseRel t)
  | 2 => .ok (.leaseStat t d)
  | _ => .error .subOperation

/-- `sys` (R315): op 11:9 and arg 8:0. -/
def decodeSys (t : BitVec 4) (d a : BitVec 5) (op : BitVec 3) (arg : BitVec 9) : Except Reject Instr :=
  match op.toNat with
  | 0 =>
    if a != 0 then .error .reservedBits else
    match arg.toNat with
    | 0 => okIf (d == 0) (.nop t)
    | 1 => okIf (d == 0) (.endInsn t)
    | 2 => okIf (d == 0) (.resume t)
    | 3 => okIf (d == 0) (.yield t)
    | 4 => .ok (.cycle t d)
    | 5 => .ok (.bbox t d)
    | _ => .error .subOperation
  | 1 => okIf (d == 0 && a == 0) (.trap t arg)
  | 2 => okIf (d == 0 && a == 0) (.breakInsn t arg)
  | 3 => okIf (a == 0) (.rdsys t d arg)
  | 4 => okIf (d == 0) (.wrsys t a arg)
  | _ => .error .subOperation

/-- Patch words (R277): F = 15 is GO, whose V bits 15:6 are reserved. -/
def decodePatch (t : BitVec 4) (n : BitVec 6) (f : BitVec 4) (v : BitVec 16) : Except Reject Instr :=
  if f == 15 then okIf (v.extractLsb' 6 10 == 0) (.go t n (v.extractLsb' 0 6)) else .ok (.patch t n f v)

/-- Decoding of one word by its major opcode (R273). -/
def decodeWord (w : BitVec 32) : Except Reject Instr :=
  let t := fld w 28 4
  let d := fld w 17 5
  let a := fld w 12 5
  let b := fld w 7 5
  let fn := fld w 0 7
  let i12 := fld w 0 12
  let i17 := fld w 0 17
  if fld w 26 2 == 3 then decodePatch t (fld w 20 6) (fld w 16 4) (fld w 0 16) else
  match (fld w 22 6).toNat with
  | 0x00 => decodeAlu t d a b fn
  | 0x01 => .ok (.addi t d a i12)
  | 0x02 => .ok (.andi t d a i12)
  | 0x03 => .ok (.ori t d a i12)
  | 0x04 => .ok (.xori t d a i12)
  | 0x05 => decodeShiftImm t d a (fld w 8 4) (fld w 6 2) (fld w 0 6)
  | 0x06 => okIf (fld w 3 4 == 0) (.pcmp t d a b (fld w 0 3))
  | 0x07 => .ok (.pcmpi t (fld w 19 3) (fld w 16 3) (fld w 11 5) (fld w 0 11))
  | 0x08 => .ok (.li t d i17)
  | 0x09 => .ok (.lis t d i17)
  | 0x0A => okIf (fld w 12 5 == 0) (.ldc t d i12)
  | 0x0B => okIf (fld w 0 8 == 0 && predPatternOk (fld w 16 3) (fld w 8 8)) (.pred t (fld w 19 3) (fld w 16 3) (fld w 8 8))
  | 0x0C => okIf (fld w 20 2 == 0) (.bt t (fld w 17 3) i17)
  | 0x0D => okIf (fld w 20 2 == 0) (.bf t (fld w 17 3) i17)
  | 0x0E => .ok (if d == 0 then .jmp t i17 else .call t d i17)
  | 0x0F => .ok (.jr t d a i12)
  | 0x10 => okIf (fld w 19 3 == 0) (.loop t (fld w 17 2) a i12)
  | 0x11 => okIf (fld w 19 2 == 0) (if fld w 21 1 == 0 then .bloop t (fld w 17 2) i17 else .bloopRot t (fld w 17 2) i17)
  | 0x12 => decodeQueue t d a b fn
  | 0x13 => okIf (!(fld w 10 2 == 3 && fld w 9 1 == 1)) (.ldo t d a (fld w 10 2) (fld w 9 1) (fld w 7 2) (fld w 0 7))
  | 0x14 => okIf (fld w 9 1 == 0) (.sto t d a (fld w 10 2) (fld w 7 2) (fld w 0 7))
  | 0x15 => okIf (!(fld w 10 2 == 3 && fld w 9 1 == 1)) (.ldx t d a (fld w 10 2) (fld w 9 1) (fld w 0 9))
  | 0x16 => okIf (fld w 9 1 == 0) (.stx t d a (fld w 10 2) (fld w 0 9))
  | 0x17 => okIf (!(fld w 10 2 == 3 && fld w 9 1 == 1)) (.lds t d a (fld w 10 2) (fld w 9 1) (fld w 0 9))
  | 0x18 => okIf (fld w 9 1 == 0) (.sts t d a (fld w 10 2) (fld w 0 9))
  | 0x19 => decodeTensor t d a b (fld w 6 1) (fld w 3 3) (fld w 1 2) (fld w 0 1)
  | 0x1A => decodeAtom t d a b (fld w 4 3) (fld w 3 1) (fld w 2 1) (fld w 0 2)
  | 0x1B => decodeFence t d a (fld w 4 8) (fld w 2 2) (fld w 0 2)
  | 0x1C => if fld w 6 1 == 0 then
      okIf (!(fld w 10 2 == 3 && fld w 9 1 == 1)) (.ldacq t d a (fld w 10 2) (fld w 9 1) (fld w 7 2) (fld w 0 6))
    else okIf (fld w 9 1 == 0) (.strel t d a (fld w 10 2) (fld w 7 2) (fld w 0 6))
  | 0x1D => decodeTag t d a b fn
  | 0x1E => decodeStore t d a b (fld w 6 1) (fld w 5 1) (fld w 3 2) (fld w 0 3)
  | 0x1F => okIf (d == 0 && fld w 0 2 == 0 && fld w 2 4 != 15) (.patchr t a (fld w 6 6) (fld w 2 4))
  | 0x20 => decodeVop t d a b fn
  | 0x21 => decodeVctl t d a b fn
  | 0x22 => decodeRemq t d a b fn
  | 0x23 => okIf (b == 0 && fn == 0) (.grow t d a)
  | 0x24 => decodeBar t d a (fld w 5 7) (fld w 2 3) (fld w 0 2)
  | 0x25 => decodeColl t d a b fn
  | 0x26 => decodeRlc t d a b fn
  | 0x27 => decodeLease t d a (fld w 2 10) (fld w 0 2)
  | 0x28 => decodeSys t d a (fld w 9 3) (fld w 0 9)
  | 0x29 => decodePcomb t d a b fn
  | 0x2A => okIf (fld w 3 4 == 0) (.csel t d a b (fld w 0 3))
  | _ => .error .reservedMajor

/-- Decoding of a string of bytes: the word is little-endian (R4, R269); the rest is returned. -/
def decodeBytes : List Byte → Except Reject (Instr × List Byte)
  | b0 :: b1 :: b2 :: b3 :: rest =>
    match decodeWord (b3 ++ b2 ++ b1 ++ b0) with
    | .ok i => .ok (i, rest)
    | .error e => .error e
  | _ => .error .shortInput

/-- The first word of the table's numbering as bytes in memory order. -/
def tableBytes (w : Nat) : List Byte :=
  [BitVec.ofNat 8 w, BitVec.ofNat 8 (w / 256), BitVec.ofNat 8 (w / 65536), BitVec.ofNat 8 (w / 16777216)]

/-- The instruction the decoder reads from the bits of the opcode table: every instruction is one 32-bit word. -/
def decodeTableWord (nbits w : Nat) : Option Instr :=
  if nbits = 32 then
    match decodeBytes (tableBytes w) with
    | .ok (i, _) => some i
    | .error _ => none
  else none

/-! The encoder. -/

def encR (t : BitVec 4) (m : BitVec 6) (d a b : BitVec 5) (fn : BitVec 7) : BitVec 32 := t ++ m ++ d ++ a ++ b ++ fn
def encI (t : BitVec 4) (m : BitVec 6) (d a : BitVec 5) (i : BitVec 12) : BitVec 32 := t ++ m ++ d ++ a ++ i
def encW (t : BitVec 4) (m : BitVec 6) (d : BitVec 5) (i : BitVec 17) : BitVec 32 := t ++ m ++ d ++ i
def encC (t : BitVec 4) (m : BitVec 6) (p c : BitVec 3) (a : BitVec 5) (i : BitVec 11) : BitVec 32 := t ++ m ++ p ++ c ++ a ++ i
def encPB (t : BitVec 4) (m : BitVec 6) (p n : BitVec 3) (q : BitVec 8) : BitVec 32 := t ++ m ++ p ++ n ++ q ++ 0#8
def encSY (t : BitVec 4) (m : BitVec 6) (d a : BitVec 5) (op : BitVec 3) (arg : BitVec 9) : BitVec 32 := t ++ m ++ d ++ a ++ op ++ arg
def encPR (t : BitVec 4) (m : BitVec 6) (a : BitVec 5) (n : BitVec 6) (f : BitVec 4) : BitVec 32 := t ++ m ++ 0#5 ++ a ++ n ++ f ++ 0#2
def encPatch (t : BitVec 4) (n : BitVec 6) (f : BitVec 4) (v : BitVec 16) : BitVec 32 := t ++ 3#2 ++ n ++ f ++ v

/-- The word of an encoded instruction (R269 to R278); a device event has none. -/
def encode : Instr → Option (BitVec 32)
  | .add t d a b => some (encR t 0x00#6 d a b 0#7)
  | .sub t d a b => some (encR t 0x00#6 d a b 1#7)
  | .and t d a b => some (encR t 0x00#6 d a b 2#7)
  | .or t d a b => some (encR t 0x00#6 d a b 3#7)
  | .xor t d a b => some (encR t 0x00#6 d a b 4#7)
  | .andn t d a b => some (encR t 0x00#6 d a b 5#7)
  | .sll t d a b => some (encR t 0x00#6 d a b 6#7)
  | .srl t d a b => some (encR t 0x00#6 d a b 7#7)
  | .sra t d a b => some (encR t 0x00#6 d a b 8#7)
  | .rol t d a b => some (encR t 0x00#6 d a b 9#7)
  | .mul t d a b => some (encR t 0x00#6 d a b 10#7)
  | .mulh t d a b => some (encR t 0x00#6 d a b 11#7)
  | .mulhz t d a b => some (encR t 0x00#6 d a b 12#7)
  | .div t d a b => some (encR t 0x00#6 d a b 13#7)
  | .divz t d a b => some (encR t 0x00#6 d a b 14#7)
  | .rem t d a b => some (encR t 0x00#6 d a b 15#7)
  | .remz t d a b => some (encR t 0x00#6 d a b 16#7)
  | .min t d a b => some (encR t 0x00#6 d a b 17#7)
  | .max t d a b => some (encR t 0x00#6 d a b 18#7)
  | .minz t d a b => some (encR t 0x00#6 d a b 19#7)
  | .maxz t d a b => some (encR t 0x00#6 d a b 20#7)
  | .clz t d a => some (encR t 0x00#6 d a 0 21#7)
  | .ctz t d a => some (encR t 0x00#6 d a 0 22#7)
  | .popc t d a => some (encR t 0x00#6 d a 0 23#7)
  | .bswap t d a => some (encR t 0x00#6 d a 0 24#7)
  | .mix t d a b => some (encR t 0x00#6 d a b 25#7)
  | .bfx t d a b => some (encR t 0x00#6 d a b 26#7)
  | .bfi t d a b => some (encR t 0x00#6 d a b 27#7)
  | .addi t d a i => some (encI t 1#6 d a i)
  | .andi t d a i => some (encI t 2#6 d a i)
  | .ori t d a i => some (encI t 3#6 d a i)
  | .xori t d a i => some (encI t 4#6 d a i)
  | .slli t d a s => some (encI t 0x05#6 d a (0#4 ++ 0#2 ++ s))
  | .srli t d a s => some (encI t 0x05#6 d a (0#4 ++ 1#2 ++ s))
  | .srai t d a s => some (encI t 0x05#6 d a (0#4 ++ 2#2 ++ s))
  | .roli t d a s => some (encI t 0x05#6 d a (0#4 ++ 3#2 ++ s))
  | .pcmp t d a b c => some (encR t 0x06#6 d a b (0#4 ++ c))
  | .pcmpi t p c a i => some (encC t 0x07#6 p c a i)
  | .li t d i => some (encW t 0x08#6 d i)
  | .lis t d i => some (encW t 0x09#6 d i)
  | .ldc t d i => some (encW t 0x0A#6 d (0#5 ++ i))
  | .pred t p n q => some (encPB t 0x0B#6 p n q)
  | .bt t p i => some (encW t 0x0C#6 (0#2 ++ p) i)
  | .bf t p i => some (encW t 0x0D#6 (0#2 ++ p) i)
  | .jmp t i => some (encW t 0x0E#6 0 i)
  | .call t a i => some (encW t 0x0E#6 a i)
  | .jr t d a i => some (encI t 0x0F#6 d a i)
  | .loop t n a i => some (encI t 0x10#6 (0#3 ++ n) a i)
  | .bloop t n i => some (encW t 0x11#6 (0#3 ++ n) i)
  | .bloopRot t n i => some (encW t 0x11#6 (1#1 ++ 0#2 ++ n) i)
  | .qlen t d a => some (encR t 18#6 d a 0 0#7)
  | .qpeek t d a => some (encR t 18#6 d a 0 1#7)
  | .tokcnt t d a => some (encR t 18#6 d a 0 2#7)
  | .tokadd t d a => some (encR t 18#6 d a 0 3#7)
  | .tokwait t d a => some (encR t 18#6 d a 0 4#7)
  | .ldo t d a z s c o => some (encI t 0x13#6 d a (z ++ s ++ c ++ o))
  | .sto t d a z c o => some (encI t 0x14#6 d a (z ++ 0#1 ++ c ++ o))
  | .ldx t d a z s o => some (encI t 21#6 d a (z ++ s ++ o))
  | .stx t d a z o => some (encI t 22#6 d a (z ++ 0#1 ++ o))
  | .lds t d a z s o => some (encI t 23#6 d a (z ++ s ++ o))
  | .sts t d a z o => some (encI t 24#6 d a (z ++ 0#1 ++ o))
  | .tld t d a n q => some (encR t 0x19#6 d a 0 (0#1 ++ n ++ q ++ 0#1))
  | .tst t d a n q => some (encR t 0x19#6 d a 0 (1#1 ++ n ++ 0#1 ++ q ++ 0#1))
  | .atomSwap t d a b z c => some (encR t 0x1A#6 d a b (0#3 ++ z ++ 0#1 ++ c))
  | .atomAdd t d a b z c => some (encR t 0x1A#6 d a b (1#3 ++ z ++ 0#1 ++ c))
  | .atomAnd t d a b z c => some (encR t 0x1A#6 d a b (2#3 ++ z ++ 0#1 ++ c))
  | .atomOr t d a b z c => some (encR t 0x1A#6 d a b (3#3 ++ z ++ 0#1 ++ c))
  | .atomXor t d a b z c => some (encR t 0x1A#6 d a b (4#3 ++ z ++ 0#1 ++ c))
  | .atomMax t d a b z c => some (encR t 0x1A#6 d a b (5#3 ++ z ++ 0#1 ++ c))
  | .atomMaxz t d a b z c => some (encR t 0x1A#6 d a b (6#3 ++ z ++ 0#1 ++ c))
  | .atomCas t d a b z c => some (encR t 0x1A#6 d a b (7#3 ++ z ++ 0#1 ++ c))
  | .fenceSc t c => some (encI t 0x1B#6 0 0 (0#8 ++ 0#2 ++ c))
  | .fenceAcq t c => some (encI t 0x1B#6 0 0 (0#8 ++ 1#2 ++ c))
  | .fenceRel t c => some (encI t 0x1B#6 0 0 (0#8 ++ 2#2 ++ c))
  | .ldacq t d a z s c o => some (encI t 0x1C#6 d a (z ++ s ++ c ++ 0#1 ++ o))
  | .strel t d a z c o => some (encI t 0x1C#6 d a (z ++ 0#1 ++ c ++ 1#1 ++ o))
  | .waitany t d a => some (encR t 29#6 d a 0 0#7)
  | .waitall t d a => some (encR t 29#6 d a 0 1#7)
  | .ffr t d a => some (encR t 29#6 d a 0 2#7)
  | .tagclr t a => some (encR t 29#6 0 a 0 3#7)
  | .tagrd t d a => some (encR t 29#6 d a 0 4#7)
  | .tagst t a b => some (encR t 29#6 0 a b 5#7)
  | .tagstArm t a b => some (encR t 29#6 0 a b 6#7)
  | .tlook t d a => some (encR t 0x1E#6 d a 0 0#7)
  | .tfill t a b => some (encR t 0x1E#6 0 a b 1#7)
  | .trd t d a b s z => some (encR t 0x1E#6 d a b (0#1 ++ s ++ z ++ 2#3))
  | .tinv t a => some (encR t 0x1E#6 0 a 0 3#7)
  | .tstat t d a => some (encR t 0x1E#6 d a 0 4#7)
  | .patchr t a n f => some (encPR t 0x1F#6 a n f)
  | .patch t n f v => some (encPatch t n f v)
  | .go t n g => some (encPatch t n 15#4 (0#10 ++ g))
  | .vadd t a b => some (encR t 0x20#6 0#5 a b 0#7)
  | .vsub t a b => some (encR t 0x20#6 0#5 a b 1#7)
  | .vmul t a b => some (encR t 0x20#6 0#5 a b 2#7)
  | .vmulh t a b => some (encR t 0x20#6 0#5 a b 3#7)
  | .vand t a b => some (encR t 0x20#6 0#5 a b 4#7)
  | .vor t a b => some (encR t 0x20#6 0#5 a b 5#7)
  | .vxor t a b => some (encR t 0x20#6 0#5 a b 6#7)
  | .vandn t a b => some (encR t 0x20#6 0#5 a b 7#7)
  | .vsll t a b => some (encR t 0x20#6 0#5 a b 8#7)
  | .vsrl t a b => some (encR t 0x20#6 0#5 a b 9#7)
  | .vsra t a b => some (encR t 0x20#6 0#5 a b 10#7)
  | .vmin t a b => some (encR t 0x20#6 0#5 a b 11#7)
  | .vmax t a b => some (encR t 0x20#6 0#5 a b 12#7)
  | .vminz t a b => some (encR t 0x20#6 0#5 a b 13#7)
  | .vmaxz t a b => some (encR t 0x20#6 0#5 a b 14#7)
  | .vabs t a b => some (encR t 0x20#6 0#5 a b 15#7)
  | .vneg t a b => some (encR t 0x20#6 0#5 a b 16#7)
  | .vpopc t a b => some (encR t 0x20#6 0#5 a b 17#7)
  | .vclz t a b => some (encR t 0x20#6 0#5 a b 18#7)
  | .vsel t a b => some (encR t 0x20#6 0#5 a b 19#7)
  | .vfadd t a b => some (encR t 0x20#6 1#5 a b 0#7)
  | .vfsub t a b => some (encR t 0x20#6 1#5 a b 1#7)
  | .vfmul t a b => some (encR t 0x20#6 1#5 a b 2#7)
  | .vfma t a b => some (encR t 0x20#6 1#5 a b 3#7)
  | .vfms t a b => some (encR t 0x20#6 1#5 a b 4#7)
  | .vfnma t a b => some (encR t 0x20#6 1#5 a b 5#7)
  | .vfdiv t a b => some (encR t 0x20#6 1#5 a b 6#7)
  | .vfsqrt t a b => some (encR t 0x20#6 1#5 a b 7#7)
  | .vfmin t a b => some (encR t 0x20#6 1#5 a b 8#7)
  | .vfmax t a b => some (encR t 0x20#6 1#5 a b 9#7)
  | .vfabs t a b => some (encR t 0x20#6 1#5 a b 10#7)
  | .vfneg t a b => some (encR t 0x20#6 1#5 a b 11#7)
  | .vfcpsgn t a b => some (encR t 0x20#6 1#5 a b 12#7)
  | .vscaleb t a b => some (encR t 0x20#6 1#5 a b 13#7)
  | .vgetexp t a b => some (encR t 0x20#6 1#5 a b 14#7)
  | .vgetman t a b => some (encR t 0x20#6 1#5 a b 15#7)
  | .vfclass t a b => some (encR t 0x20#6 1#5 a b 16#7)
  | .vaddx t a b => some (encR t 0x20#6 2#5 a b 0#7)
  | .vsubx t a b => some (encR t 0x20#6 2#5 a b 1#7)
  | .vmulx t a b => some (encR t 0x20#6 2#5 a b 2#7)
  | .vdwadd t a b => some (encR t 0x20#6 3#5 a b 0#7)
  | .vdwaddf t a b => some (encR t 0x20#6 3#5 a b 1#7)
  | .vdwmul t a b => some (encR t 0x20#6 3#5 a b 2#7)
  | .vdwmulf t a b => some (encR t 0x20#6 3#5 a b 3#7)
  | .vdwnorm t a b => some (encR t 0x20#6 3#5 a b 4#7)
  | .vdwcvt t a b => some (encR t 0x20#6 3#5 a b 5#7)
  | .vcvt t a b => some (encR t 0x20#6 4#5 a b 0#7)
  | .vquant t a b => some (encR t 0x20#6 4#5 a b 1#7)
  | .vdequant t a b => some (encR t 0x20#6 4#5 a b 2#7)
  | .vqscale t a b => some (encR t 0x20#6 4#5 a b 3#7)
  | .vpack t a b => some (encR t 0x20#6 4#5 a b 4#7)
  | .vunpack t a b => some (encR t 0x20#6 4#5 a b 5#7)
  | .vcmp t a b => some (encR t 0x20#6 5#5 a b 0#7)
  | .vmand t a b => some (encR t 0x20#6 5#5 a b 1#7)
  | .vmor t a b => some (encR t 0x20#6 5#5 a b 2#7)
  | .vmxor t a b => some (encR t 0x20#6 5#5 a b 3#7)
  | .vmnot t a b => some (encR t 0x20#6 5#5 a b 4#7)
  | .vmpush t a b => some (encR t 0x20#6 5#5 a b 5#7)
  | .vminv t a b => some (encR t 0x20#6 5#5 a b 6#7)
  | .vmpopm t a b => some (encR t 0x20#6 5#5 a b 7#7)
  | .vmcnt t a b => some (encR t 0x20#6 5#5 a b 8#7)
  | .vmov t a b => some (encR t 0x20#6 6#5 a b 0#7)
  | .vbcast t a b => some (encR t 0x20#6 6#5 a b 1#7)
  | .vext t a b => some (encR t 0x20#6 6#5 a b 2#7)
  | .vperm t a b => some (encR t 0x20#6 6#5 a b 3#7)
  | .vrot t a b => some (encR t 0x20#6 6#5 a b 4#7)
  | .vslide t a b => some (encR t 0x20#6 6#5 a b 5#7)
  | .vzip t a b => some (encR t 0x20#6 6#5 a b 6#7)
  | .vunzip t a b => some (encR t 0x20#6 6#5 a b 7#7)
  | .vredsum t a b => some (encR t 0x20#6 7#5 a b 0#7)
  | .vredsumx t a b => some (encR t 0x20#6 7#5 a b 1#7)
  | .vredmax t a b => some (encR t 0x20#6 7#5 a b 2#7)
  | .vredmin t a b => some (encR t 0x20#6 7#5 a b 3#7)
  | .vredand t a b => some (encR t 0x20#6 7#5 a b 4#7)
  | .vredor t a b => some (encR t 0x20#6 7#5 a b 5#7)
  | .vprefix t a b => some (encR t 0x20#6 7#5 a b 6#7)
  | .vgather t a b => some (encR t 0x20#6 8#5 a b 0#7)
  | .vscatter t a b => some (encR t 0x20#6 8#5 a b 1#7)
  | .vscatc t a b => some (encR t 0x20#6 8#5 a b 2#7)
  | .visect t a b => some (encR t 0x20#6 8#5 a b 3#7)
  | .vcompress t a b => some (encR t 0x20#6 8#5 a b 4#7)
  | .vexpand t a b => some (encR t 0x20#6 8#5 a b 5#7)
  | .vrsqe t a b => some (encR t 0x20#6 9#5 a b 0#7)
  | .vrcpe t a b => some (encR t 0x20#6 9#5 a b 1#7)
  | .vexp2 t a b => some (encR t 0x20#6 9#5 a b 2#7)
  | .vlog2 t a b => some (encR t 0x20#6 9#5 a b 3#7)
  | .vamax t a b => some (encR t 0x20#6 10#5 a b 0#7)
  | .vhist t a b => some (encR t 0x20#6 10#5 a b 1#7)
  | .vstatrd t a b => some (encR t 0x20#6 10#5 a b 2#7)
  | .vstatclr t a b => some (encR t 0x20#6 10#5 a b 3#7)
  | .vrand t a b => some (encR t 0x20#6 11#5 a b 0#7)
  | .vseed t a b => some (encR t 0x20#6 11#5 a b 1#7)
  | .vfence t => some (encR t 33#6 0 0 0 0#7)
  | .vwait t => some (encR t 33#6 0 0 0 1#7)
  | .vbusy t d => some (encR t 33#6 d 0 0 2#7)
  | .vdone t d => some (encR t 33#6 d 0 0 3#7)
  | .vrb t d => some (encR t 33#6 d 0 0 4#7)
  | .vstat t d a => some (encR t 33#6 d a 0 5#7)
  | .remq t d a b => some (encR t 34#6 d a b 0#7)
  | .remqt t d a b => some (encR t 34#6 d a b 1#7)
  | .grow t d a => some (encR t 0x23#6 d a 0 0#7)
  | .barArrive t d a l => some (encI t 0x24#6 d a (0#7 ++ l ++ 0#2))
  | .barWait t d a l => some (encI t 0x24#6 d a (0#7 ++ l ++ 1#2))
  | .barSync t d a l => some (encI t 0x24#6 d a (0#7 ++ l ++ 2#2))
  | .barPhase t d a l => some (encI t 0x24#6 d a (0#7 ++ l ++ 3#2))
  | .qppost t a b => some (encR t 37#6 0 a b 0#7)
  | .ctrrd t d a => some (encR t 37#6 d a 0 1#7)
  | .ctrrdSig t d a => some (encR t 37#6 d a 0 2#7)
  | .ctradd t d a b => some (encR t 37#6 d a b 3#7)
  | .ctraddClr t d a => some (encR t 37#6 d a 0 4#7)
  | .ctrwait t d a b => some (encR t 37#6 d a b 5#7)
  | .dpost t a => some (encR t 37#6 0 a 0 6#7)
  | .dgrant t d a => some (encR t 37#6 d a 0 7#7)
  | .xstat t d a => some (encR t 37#6 d a 0 8#7)
  | .rlstart t a => some (encR t 38#6 0 a 0 0#7)
  | .rlstep t => some (encR t 38#6 0 0 0 1#7)
  | .rlstat t d => some (encR t 38#6 d 0 0 2#7)
  | .rlesc t d => some (encR t 38#6 d 0 0 3#7)
  | .rlabort t => some (encR t 38#6 0 0 0 4#7)
  | .leaseAcq t => some (encI t 0x27#6 0 0 0#12)
  | .leaseRel t => some (encI t 0x27#6 0 0 1#12)
  | .leaseStat t d => some (encI t 0x27#6 d 0 2#12)
  | .nop t => some (encSY t 0x28#6 0 0 0#3 0#9)
  | .endInsn t => some (encSY t 0x28#6 0 0 0#3 1#9)
  | .resume t => some (encSY t 0x28#6 0 0 0#3 2#9)
  | .yield t => some (encSY t 0x28#6 0 0 0#3 3#9)
  | .cycle t d => some (encSY t 0x28#6 d 0 0#3 4#9)
  | .bbox t d => some (encSY t 0x28#6 d 0 0#3 5#9)
  | .trap t i => some (encSY t 0x28#6 0 0 1#3 i)
  | .breakInsn t i => some (encSY t 0x28#6 0 0 2#3 i)
  | .rdsys t d x => some (encSY t 0x28#6 d 0 3#3 x)
  | .wrsys t a x => some (encSY t 0x28#6 0 a 4#3 x)
  | .pand t d a b => some (encR t 41#6 d a b 0#7)
  | .por t d a b => some (encR t 41#6 d a b 1#7)
  | .pxor t d a b => some (encR t 41#6 d a b 2#7)
  | .pnot t d a => some (encR t 41#6 d a 0 3#7)
  | .pmov t d a => some (encR t 41#6 d a 0 4#7)
  | .csel t d a b p => some (encR t 0x2A#6 d a b (0#4 ++ p))
  | .packetAccept => none
  | .launch => none
  | .regionCreate => none
  | .regionModify => none
  | .regionDestroy => none
  | .copyhHostToDevice => none
  | .copyhDeviceToHost => none
  | .signalSet => none
  | .signalAdd => none
  | .signalOr => none
  | .waitsig => none
  | .waitsigTimeout => none
  | .detlevel => none
  | .fencePacket => none
  | .readback => none
  | .writeback => none
  | .xlroot => none
  | .xlinv => none
  | .downSet => none
  | .downClear => none
  | .linkDrainEnd => none
  | .bboxread => none
  | .resetStream => none
  | .resetDie => none
  | .resetPackage => none
  | .completionRecordAck => none
  | .recordResendTimeout => none
  | .laneLock => none
  | .lockWindowEnd => none
  | .alignComplete => none
  | .capabilityWord => none
  | .confirmTestFrames => none
  | .trainingStageTimeout => none
  | .retrainHoldoffExpiry => none
  | .lossOfLock => none
  | .flitCrcFailure => none
  | .errorWindowEnd => none
  | .retrainComplete => none
  | .meshRequest => none
  | .meshResponse => none
  | .resendTimeout => none
  | .holdMessageTimer => none
  | .holdMessage => none
  | .resyncMessage => none
  | .powerOn => none
  | .powerLimitExceeded => none
  | .powerEmergency => none
  | .standbyPowerLoss => none
  | .dispatchDecision => none
  | .bind => none
  | .preEmption => none
  | .contextSave => none
  | .restore => none
  | .groupEnd => none
  | .budgetUpdate => none
  | .agingTick => none
  | .cellLeavesService => none
  | .growWindowClose => none
  | .leaseGrant => none
  | .leaseIdleTimeout => none
  | .remoteQueueIssue => none
  | .checkSlotRelease => none
  | .residueFailure => none
  | .mma => none
  | .mmaz => none
  | .mmabsr => none
  | .mmaseed => none
  | .mhad => none
  | .mdrain => none
  | .mraster => none
  | .mzero => none
  | .mload => none
  | .commandCompare => none
  | .arbitrationDone => none
  | .rerunDone => none
  | .drainUnitCompare => none
  | .vectorCommandStart => none
  | .vectorCommandComplete => none
  | .tensorAccessComplete => none
  | .tfillComplete => none
  | .cpysigDestinationCheck => none
  | .copyBoundaryStop => none
  | .copyComplete => none
  | .entryArm => none
  | .entryWrite => none
  | .entryWriteReduce => none
  | .entrySignal => none
  | .entryComplete => none
  | .counterIncrement => none
  | .oneSidedWrite => none
  | .reducingWriteArrival => none
  | .fabricChunk => none
  | .fabricChunkTimeout => none
  | .lossNotice => none
  | .postArrival => none
  | .calendarRow => none
  | .phaseOpen => none
  | .grantAck => none
  | .exchangeCompletionNotice => none
  | .heartbeatSend => none
  | .heartbeatTimeout => none
  | .takeoverNotice => none
  | .systemArrivalNotice => none
  | .trapEntry => none
  | .waitBoundExpiry => none
  | .cycleBoundExpiry => none
  | .hashTreeTimer => none
  | .hashTreeUpdate => none
  | .replicaUpdate => none
  | .timestampLeaseRecall => none
  | .undefinedEncoding => none
  | .powerBelowLimit => none
  | .copyhComplete => none
  | .dieResetComplete => none
  | .arbiterLost => none

end Sys2Proof
end

