-- ==== Sys2Proof/Config.lean ====
section
/-! DEFINITION. What the manual leaves open as a value: each is an opaque function of a running number that the state
holds, so that a statement about it holds for every value it could have. -/

namespace Sys2Proof.Config

/-- HBM contents after the g-th package reset, at a physical address: undefined (R42). Log entry 3. -/
opaque hbmAfterReset : Nat → Nat → Byte

/-- Which lanes of an unguarded read show the new value (bit i for lane i): each lane independently (R100). Log entry 4. -/
opaque laneMix : Nat → MaskBits

/-- Which of the bytes before the faulting address an interrupted transfer has written (R33, R132, R346). Log entry 5. -/
opaque partWritten : Nat → Nat → Bool

/-- A value that the manual does not state. Log entry 6. -/
opaque unstated : Nat → Word

/-- The code of the requester that met an uncorrectable error (R266): unit kind and number. Log entry 138. -/
opaque requester : Nat → Nat → Word

/-- The INT32 result of an inverse `mhad` whose exact sum is no multiple of 2^7 (R113, R148): numerator and denominator. Log entry 139. -/
opaque fraction : Int → Nat → Int

end Sys2Proof.Config
end

