-- ==== Sys2Proof/Machine/State.lean ====
section
/-! DEFINITION. The state of one Huaham package: its cells, quads, links, engines, ports, scheduler records and memory, as
plain data, and the state right after reset. Docstrings name the rule of the manual that gives a piece of state; what
is the model's own is said to be so. -/

namespace Sys2Proof.Machine

/-- What stops the machine with a fault. -/
inductive Fault where
  /-- A turn of the agenda names an agent that the package does not have (R8, R27, R85). Raised by step; safe: no run of
  the device contains it. -/
  | noSuchAgent
deriving DecidableEq, Repr

/-- Why a step is refused. -/
inductive Refusal where
  /-- The instruction has no meaning in this model yet. Raised by exec; safe. -/
  | notModelled (mnemonic : String)
deriving DecidableEq, Repr

/-- The operations of the vector unit (R286), by group and code. -/
inductive VOp where
  | vadd | vsub | vmul | vmulh | vand | vor | vxor | vandn | vsll | vsrl | vsra | vmin | vmax | vminz | vmaxz | vabs | vneg | vpopc | vclz | vsel
  | vfadd | vfsub | vfmul | vfma | vfms | vfnma | vfdiv | vfsqrt | vfmin | vfmax | vfabs | vfneg | vfcpsgn | vscaleb | vgetexp | vgetman | vfclass
  | vaddx | vsubx | vmulx
  | vdwadd | vdwaddf | vdwmul | vdwmulf | vdwnorm | vdwcvt
  | vcvt | vquant | vdequant | vqscale | vpack | vunpack
  | vcmp | vmand | vmor | vmxor | vmnot | vmpush | vminv | vmpopm | vmcnt
  | vmov | vbcast | vext | vperm | vrot | vslide | vzip | vunzip
  | vredsum | vredsumx | vredmax | vredmin | vredand | vredor | vprefix
  | vgather | vscatter | vscatc | visect | vcompress | vexpand
  | vrsqe | vrcpe | vexp2 | vlog2
  | vamax | vhist | vstatrd | vstatclr
  | vrand | vseed
deriving DecidableEq, Repr

/-- The class of a store (R168). -/
inductive StoreClass where
  | relaxed | ordered | release
deriving DecidableEq, Repr

/-- What leaves a sequencer through a check slot (R107): a store (physical address and bytes, its class, whether the page is
replicated, the word index and the virtual address of the instruction), a queue push, a token push, an engine command, a block pushed to the
remote engine queue of a group (R81): its launch, its index, the block. -/
inductive Item where
  | store (pa : Nat) (bytes : List Byte) (cls : StoreClass) (repl : Bool) (pc va : Word)
  | push (queue : Nat) (v : Word)
  | token (k : Nat)
  | command (id : Nat)
  | block (key group : Nat) (ws : List Word)
deriving DecidableEq, Repr

/-- A check slot (R107): the sequencer's item, the one the telltale produced, and the cycle it entered. -/
structure Slot where
  item : Item
  tell : Item
  at?  : Nat := 0
  /-- what its sequencer had seen of the others' work when it made a push (R324) -/
  know : NatMap Nat := []
deriving DecidableEq, Repr

/-- PBSTATE (R308). -/
structure PbState where
  rem : Nat := 0
  pv  : Bool := false
  pat : BitVec 8 := 0
deriving DecidableEq, Repr

/-- A sequencer instruction that blocks (R255): the cycle of its first blocked cycle and what it awaits (R257 KIND, INDEX). -/
structure Blocked where
  since : Nat
  kind  : Nat
  index : Nat
deriving DecidableEq, Repr

/-- Whom a write that has been performed must be reported to. -/
inductive Owner where
  | none
  | copy (cell id : Nat)
  | entry (eng id : Nat)
  | grant (xid phase snd rcv : Nat)
  | chunk (n : Nat)
  /-- what an engine writes of its own (the status of an entry, the grant table): not counted in arrival regions (R198) -/
  | engine
  /-- an element of a `tst`, of a `vscatter` or `vscatc`: the access completes once it is performed (R178, R179, R334) -/
  | tensor (cell id : Nat)
  | vector (cell id : Nat)
  /-- STATUS and DONE of an entry, RECEIVED of a member: not counted in arrival regions either -/
  | status (eng id : Nat)
  | received (xid member : Nat)
  /-- an update of a replicated page that a sequencer sends (R184): a store or an atomic -/
  | update (store : Bool)
  /-- what is read: the words of a sequencer's instruction, the line of a fill, the next entry of a chain, the table of a member -/
  | words (cell : Nat) (q : SeqId)
  | fill (cell slot : Nat)
  | chain (eng : Nat)
  /-- the bytes of a `COPYH` -/
  | host (serial : Nat)
  | table (xid member : Nat)
deriving DecidableEq, Repr

/-- The result of an engine's read. -/
inductive EngRead where
  | ok (bytes : List Byte)
  | bad
  | lost
deriving DecidableEq, Repr

/-- A read that an engine makes on another die (R17): for whom, which of its elements, address and length, the number of the request that carries it, the
sequencer whose own held stores it sees, what its home has read, and whether the answer is back. -/
structure Ask where
  owner : Owner
  idx   : Nat
  pa    : Nat
  n     : Nat
  num   : Nat
  seq   : Option (Nat × SeqId) := none
  ans   : Option EngRead := none
  back  : Bool := false
deriving DecidableEq, Repr

/-- A counter increment in flight (R194): counter, amount, the word it folds into ORDSIG (R203). -/
structure Inc where
  cid    : BitVec 14
  amount : Word
  fold   : Word
  /-- the number under which a request carries it to its engine, 0 once it is there -/
  net    : Nat := 0
  /-- of a launch at D2: the launch, the agent that sends it, and the cycle at which it is applied (R234, R238) -/
  decl   : Option (Nat × Nat × Nat) := none
deriving DecidableEq, Repr

/-- The operation of a mesh request on memory (R17). -/
inductive MemOp where
  | read (n : Nat)
  | write (bytes : List Byte)
  | atomic (op : Nat) (n : Nat) (y c : Word)
  /-- counter operations of R195: read (0 VALUE, 1 word +0x10, 2 ORDSIG), add with its fold, clear -/
  | ctrRead (cid : BitVec 14) (sel : Nat)
  | ctrAdd (cid : BitVec 14) (amount fold : Word)
  | ctrClear (cid : BitVec 14)
  /-- what an engine sends to another die, kept under this number where its kind is kept: a write of a copy, of a collective or of an
  exchange, a reducing write, a counter increment, an update of a replicated page -/
  | carry (n : Nat)
deriving DecidableEq, Repr

/-- What a home answers (R17, R132). -/
inductive MemAns where
  | value (v : Word)
  | done
  | uncorrectable
deriving DecidableEq, Repr

/-- A request that its source keeps until it is acknowledged (R17): number, target, operation, the sequencer it belongs to,
how often it was sent and the cycle of the latest send (R18, R19). -/
structure MeshReq where
  q     : BitVec 16
  pa    : Nat
  op    : MemOp
  cell  : Nat
  seq   : SeqId
  cls   : StoreClass
  pc    : Word
  va    : Word
  sends : Nat
  sent  : Nat
  /-- the launch that it serves (R16, R420) -/
  user  : Option Nat := none
  /-- what the loss of an engine's request is reported to, and the increment that it carries (R19) -/
  owner : Owner := .none
  inc   : Option (BitVec 14 × Word) := none
  /-- the cycle of a store's issue (R324) -/
  born  : Nat := 0
deriving DecidableEq, Repr

/-- A (source die, destination die) pair (R17): the source's next number and unacknowledged requests, the destination's
LAST and response store, the module the pair uses on each edge (R15) and the route it takes (R16). -/
structure Pair where
  next     : BitVec 16 := 0
  unacked  : List MeshReq := []
  last     : BitVec 16 := 0xFFFF
  resp     : List (BitVec 16 × MemAns) := []
  mods     : NatMap Nat := []
  colFirst : Bool := false
  /-- launches that have used the pair (R16) -/
  users    : List Nat := []
  /-- requests accepted and not yet applied (R17, R123), and the cycle of the latest hold message for them -/
  waiting  : List (BitVec 16) := []
  heldAt   : Nat := 0
  /-- requests that wait at the source for a number: 256 are unacknowledged (R17) -/
  backlog  : List MeshReq := []
  /-- the cycle since which the pair has been unreachable (R16, R19) -/
  cut      : Option Nat := none
deriving DecidableEq, Repr

/-- An access that a sequencer has issued to another die and not retired (R17, R19). -/
inductive Access where
  | waiting (dst : Nat) (q : BitVec 16)
  | answered (r : MemAns)
  | lost
deriving DecidableEq, Repr

/-- One sequencer (R86, R90, R110, R249, R308, R340). -/
structure Seq where
  pc        : Word := 0
  g         : NatMap Word := []
  p         : BitVec 8 := 1
  lc        : NatMap (BitVec 32) := []
  code      : NatMap (BitVec 32) := []
  codeLen   : Nat := 0
  pool      : NatMap Word := []
  constLen  : Nat := 0
  ended     : Bool := false
  pb        : PbState := {}
  waitBound : BitVec 32 := 0x40000
  trdMiss   : BitVec 32 := 0
  /-- word index of the taken branch that led to pc, if one did (R245 FETCH_FAULT) -/
  from?     : Option Word := none
  blocked   : Option Blocked := none
  access    : Option Access := none
  slots     : List Slot := []
  /-- the cycle from which its instruction has tried to reach a home that cannot be reached (R19) -/
  tried     : Option Nat := none
  /-- a `fence rel` that later stores have still to wait for (R171), and the registers whose value came from a store of its own that was not performed,
32 for one since overwritten (R107, R171) -/
  relFence  : Bool := false
  fwd       : List Nat := []
  /-- staging copies of the templates, word 16 t + i (R277) -/
  stage     : NatMap Word := []
deriving DecidableEq, Repr

/-- A trap on its way to the handler, or pending (R246, R248): cause, deferred, word index, sequencer, TVAL. -/
structure TrapRec where
  cause : BitVec 8
  defer : Bool
  pc    : Word
  seq   : SeqId
  val   : Word
deriving DecidableEq, Repr

/-- Why the sequencers of a cell have stopped issuing (R247, R258, R260, R427). -/
inductive Stop where
  | trap (t : TrapRec) (since : Nat)
  | preempt
  | machineCheck
  | cancelled
  | faulted
deriving DecidableEq, Repr

/-- What K's instruction at a word index waits for across steps: a phase that drains what was issued by a cycle (R324), an arrival made at a level
in a scope instance and generation (R325), a grow that its window gathers (R80). -/
inductive Joined where
  | drain (pc : Word) (since : Nat)
  | barrier (pc : Word) (level scope : Nat) (gen : Word)
  | grow (pc : Word) (serial : Nat)
deriving DecidableEq, Repr

/-- What a handler has set aside of K (R250): the word index at which it stood with the branch that led there, and what it had joined. -/
structure Below where
  pc     : Word
  from?  : Option Word
  joined : Option Joined
deriving DecidableEq, Repr

/-- A pending write of a vector command: physical row, value, and the bits it writes. -/
structure RowWrite where
  row  : Nat
  val  : Row
  bits : Row
deriving DecidableEq, Repr

/-- A vector command in the unit (R351): its words, what was captured at issue (row mapping, SRBASE, addresses), what it read
at its start and row steps, and what it will write at completion (R356). -/
structure VCmd where
  id      : Nat
  op      : VOp
  a       : Word
  b       : Word
  vrb     : BitVec 8
  mrb     : BitVec 3
  srbase  : BitVec 24
  srseed  : Word := 0
  pc      : Word
  tokens  : List Nat := []
  issued  : Nat := 0
  fenced  : Bool := false
  /-- memory commands: active lane, physical address (2^48 added on a replicated page), virtual address -/
  addrs   : List (Nat × Nat × Word) := []
  started : Option Nat := none
  steps   : Nat := 0
  mask    : MaskBits := 0
  xs      : List Row := []
  ys      : List Row := []
  /-- the operand rows of a movement operation, read at its start (R372) -/
  ins     : List (Row × Row) := []
  writes  : List RowWrite := []
  flags   : BitVec 6 := 0
  ctr     : Word := 0
  old0    : Word := 0
  old1    : Word := 0
  stat    : Row := 0
  bad     : Option Word := none
  /-- its bound has been reported, and the cycle at which a `resume` started its count again (R254) -/
  raised  : Bool := false
  again   : Nat := 0
  /-- this statistics command has acted (R382) -/
  acted   : Bool := false
  /-- earliest cycle of its completion, once its rows have begun (R235) -/
  due     : Nat := 0
  /-- it stands in a check slot of C (R107); the declared latency of its slowest element access (R234, R235); the declared completion of the
  commands that its start waits for (R351) -/
  inSlot  : Bool := true
  lat     : Nat := 0
  after   : Nat := 0
  /-- its elements have been sent: the lowest lost address, and that of a write which met an uncorrectable word -/
  sent    : Bool := false
  lost    : Option Word := none
  late    : Option Word := none
  /-- bits of rows that another command in flight wrote meanwhile (R100) -/
  clash   : List (Nat × Row) := []
  /-- the cycle it reached the head of its queue (R254), once it has started -/
  headSince : Nat := 0
deriving DecidableEq, Repr

/-- A `tld` or `tst` in flight (R334): number, physical address (2^48 added on a replicated page) and virtual address of every
element that is not clipped. -/
structure Tensor where
  id     : Nat
  load   : Bool
  queue  : Nat
  esize  : Nat
  elems  : List (Nat × Nat × Word)
  row    : Row
  tokens : List Nat
  pc     : Word
  issued : Nat
  inSlot : Bool := true
  /-- the declared latency of its slowest element access (R234) -/
  lat    : Nat := 0
  /-- a `tst` whose elements have been sent: the lowest lost address, and that of a write which met an uncorrectable word -/
  sent   : Bool := false
  lost   : Option Word := none
  late   : Option Word := none
deriving DecidableEq, Repr

/-- A `tfill` in flight (R339): what it read, in program order (R186), and the status it will leave. -/
structure Fill where
  slot   : Nat
  line   : Line
  status : BitVec 3
  issued : Nat
  /-- the declared latency of its load (R234) -/
  lat    : Nat := 0
  /-- the sequencer that issued it -/
  seq    : SeqId := .K
deriving DecidableEq, Repr

/-- A copy in flight (R264, R342): fields and shape records as captured, bytes done, and how it stands. -/
structure Copy where
  id      : Nat
  seq     : SeqId
  tag     : BitVec 6
  remq    : Bool
  f       : List Word
  srec    : List Word
  drec    : List Word
  tokens  : List Nat
  pc      : Word
  issued  : Nat
  done    : Nat := 0
  stopped : Bool := false
  inSlot  : Bool := true
  /-- cpysig: the destination's verdict; cpyred: the status once applied -/
  verdict : Option (BitVec 3) := none
  /-- its bytes have been read and are on their way; its checksum too -/
  sent    : Bool := false
  summed  : Bool := false
  /-- cpysig: its bytes are on their way to be staged, or staged, at their destination (R131) -/
  staged  : Bool := false
  /-- the checksum of the bytes read so far (R243), and the cycle of its completion at D2 (R238) -/
  crc     : Word := 0xFFFFFFFFFFFFFFFF
  due     : Nat := 0
  raised  : Bool := false
  again   : Nat := 0
  /-- the cycle of its issue, whatever interrupts it (R254, R324) -/
  born    : Nat := 0
  /-- its group has been stopped for good: it ends at its next 1 MiB boundary with status 7 (R251, R253, R427) -/
  cancelled : Bool := false
  /-- the trap handler has issued it: the stop of that trap is not its own (R247) -/
  handler : Bool := false
deriving DecidableEq, Repr

/-- A tagged-store tag entry (R105). -/
structure TagEntry where
  line   : BitVec 45 := 0
  count  : BitVec 8 := 0
  v      : Bool := false
  pin    : Bool := false
  fill   : Bool := false
  status : BitVec 3 := 0
deriving DecidableEq, Repr

/-- An arrival region (R197). -/
structure Arrival where
  base    : BitVec 22 := 0
  armed   : Bool := false
  ready   : Bool := false
  past    : Bool := false
  len     : BitVec 23 := 0
  expect  : BitVec 32 := 0
  arrived : BitVec 32 := 0
  ctr     : BitVec 14 := 0
  ctrEn   : Bool := false
deriving DecidableEq, Repr

/-- A commit-buffer entry (R122, R123): scratchpad word number, kind (0 store, 1 drain, 2 engine or one-sided write, 3
reducing write), what it waits for, its bytes, its place in the order of entry, the sequencer that made it (and its cell) with
its word index and address, the reduce type, the drain or sequenced write it belongs to, and whom its release is reported to. -/
structure Held where
  word  : Nat := 0
  kind  : Nat := 0
  lock  : Bool := false
  sig   : Bool := false
  mask  : BitVec 64 := 0
  data  : BitVec 512 := 0
  order : Nat := 0
  seq   : Option SeqId := none
  cell  : Nat := 0
  red   : Nat := 0
  cmd   : Nat := 0
  owner : Owner := .none
  pc    : Word := 0
  va    : Word := 0
  /-- which of its aligned 8-byte words are uncorrectable (R425) -/
  bad   : BitVec 8 := 0
  /-- the cycle of the store's issue (R324) -/
  born  : Nat := 0
deriving DecidableEq, Repr

/-- The group a cell holds (R54, R58). -/
structure Bound where
  launch : Nat
  group  : Nat
  level  : Nat
  stream : Nat
deriving DecidableEq, Repr

/-- A slot-table record (R58). -/
structure SlotRec where
  v      : Bool := false
  pre    : Bool := false
  rst    : Bool := false
  stream : Nat := 0
  dpri   : Nat := 0
  level  : Nat := 0
  launch : Nat := 0
  num    : BitVec 16 := 0
  group  : Nat := 0
  lcb    : Word := 0
  slot   : Word := 0
  binds  : Word := 0
  /-- the record waits for the dispatch hardware to act on it (R59) -/
  fresh  : Bool := false
  /-- why the bound group is pre-empted (R263) -/
  reason : Nat := 0
  /-- the first cycle at which the bind, the save or the restore waits for a home that cannot be reached (R19) -/
  tryAt  : Option Nat := none
deriving DecidableEq, Repr

/-- A cached translation (R165): page address, page size in bits, physical page address, W and REPL. -/
structure TlbEntry where
  va   : Nat
  bits : Nat
  pa   : Nat
  w    : Bool
  repl : Bool
deriving DecidableEq, Repr

/-- The refinement loop controller (R401). -/
structure Rlc where
  iter  : BitVec 32 := 0
  total : BitVec 32 := 0
  norm  : Word := 0
  prev  : Word := 0
  norm0 : Word := 0
  exit  : BitVec 8 := 0
  level : BitVec 2 := 0
  st    : BitVec 2 := 0
  held  : Bool := false
  stagc : BitVec 16 := 0
  block : Word := 0
  copy  : NatMap Word := []
deriving DecidableEq, Repr

/-- Who posted a work entry (R187, R206): cell, launch, group, sequencer, `qppost`'s word index, tag of a collective template. -/
structure Poster where
  cell   : Nat
  launch : Nat
  group  : Nat
  level  : Nat
  seq    : SeqId
  pc     : Word
  tag    : Option (BitVec 6)
  noTag  : Bool
  tokens : List Nat
  /-- number, cycle bound, issue cycle of a collective template's command, and whether its bound has been reported (R254) -/
  id     : Nat := 0
  bound  : Word := 0
  issued : Nat := 0
  raised : Bool := false
  again  : Nat := 0
deriving DecidableEq, Repr

/-- A chain whose next entry waits to be read and armed (R190). -/
structure Arming where
  addr    : Word
  poster  : Poster
  /-- reached through NEXT of an entry -/
  chained : Bool := false
  /-- collectives lost since it was posted (R206) -/
  lost    : List Nat := []
  /-- the cycle at which its next entry could first be armed (R238) -/
  since   : Nat := 0
  /-- the request that carries it to its engine, 0 once it is there (R17) -/
  net     : Nat := 0
  /-- the words of its next entry, once the engine has read them and written its DONE 0 (R190) -/
  entry   : Option (List Word) := none
deriving DecidableEq, Repr

/-- One cell (R85, R110, R249, R259). -/
structure Cell where
  bound     : Option Bound := none
  k         : Seq := {}
  l         : Seq := {}
  c         : Seq := {}
  s         : Seq := {}
  stop      : Option Stop := none
  queues    : NatMap (List Word) := []
  /-- where the first entry of each queue and of each operand queue lies in its ring (R110) -/
  qHead     : NatMap Nat := []
  vqHead    : NatMap Nat := []
  tok       : NatMap Nat := []
  tokRes    : NatMap Nat := []
  rows      : NatMap Row := []
  masks     : NatMap MaskBits := []
  mstack    : List MaskBits := []
  vq        : NatMap (List Row) := []
  /-- the declared cycle at which each row of vq0 to vq3 came, and the cycle at which a row last left a full queue (R235) -/
  vqAt      : NatMap (List Nat) := []
  vqFree    : NatMap Nat := []
  vrb       : BitVec 8 := 0
  mrb       : BitVec 3 := 0
  fmtbase   : BitVec 6 := 0
  srseed    : Word := 0
  srbase    : BitVec 24 := 0
  leasemax  : BitVec 8 := 0
  vcount    : BitVec 16 := 0
  vconsa    : BitVec 16 := 0
  vconsb    : BitVec 16 := 0
  vrkey     : Word := 0
  vrctr     : Word := 0
  vdone     : Word := 0
  tvecEntry : BitVec 14 := 0
  tvecEn    : Bool := false
  tcause    : BitVec 8 := 0
  tdefer    : Bool := false
  tpc       : Word := 0
  tseq      : BitVec 2 := 0
  tval      : Word := 0
  tin       : Bool := false
  rpck      : Word := 0
  rpcl      : Word := 0
  rpcc      : Word := 0
  rpcs      : Word := 0
  tsavea    : Word := 0
  tsaveb    : Word := 0
  tpbk      : BitVec 16 := 0
  /-- K had executed `end` when the handler took it over (R250, R316), and what else the handler has set aside -/
  kWasEnded : Bool := false
  below     : Option Below := none
  /-- the cycle at which the work that a trap waits for was found done (R247) -/
  drainAt   : Option Nat := none
  pend      : List TrapRec := []
  rlc       : Rlc := {}
  amax      : BitVec 32 := 0
  nancnt    : BitVec 32 := 0
  flags     : BitVec 6 := 0
  hist      : NatMap (BitVec 32) := []
  tags      : NatMap (BitVec 4) := []
  regions   : NatMap Arrival := []
  seqNext   : NatMap (BitVec 32) := []
  templates : NatMap Word := []
  formats   : NatMap Word := []
  lines     : NatMap Line := []
  entries   : NatMap TagEntry := []
  fills     : List Fill := []
  vcmds     : List VCmd := []
  vfenced   : Bool := false
  /-- the cycle at which the vector unit may start its next command (R351) -/
  vfree     : Nat := 0
  /-- the cycle of the vector unit's latest start (R254) -/
  vlast     : Nat := 0
  tensors   : List Tensor := []
  copies    : List Copy := []
  cbuf      : NatMap Held := []
  remq      : List (List Word) := []
  remBusy   : Option Nat := none
  joined    : Option Joined := none
  nextId    : Nat := 1
  tlb       : List TlbEntry := []
  lastStream : Option Nat := none
  /-- uncorrectable ECC words of rows (64 row + word), of tagged-store lines (16 slot + word) (R425) -/
  badRows   : List Nat := []
  badLines  : List Nat := []
  chargedAt : Nat := 0
  oos       : Bool := false
  /-- predicates that an unfinished `vmcnt` will write (R371) -/
  predWait  : List Nat := []
  /-- chains posted to a collective engine that still stand in a check slot (R107): the engine and the chain -/
  chains    : List (Nat × Arming) := []
  /-- up to which cycle each sequencer has seen the others' work through what it has consumed, by sequencer; the same for every queue entry and every unit
  of a token counter (the model's own record of the order of R324) -/
  seen      : NatMap (NatMap Nat) := []
  qAt       : NatMap (List (NatMap Nat)) := []
  tokAt     : NatMap (List (NatMap Nat)) := []
deriving DecidableEq, Repr

/-- A rerun to come of a command, or of a unit of a drain, that arbitration has settled (R125, R413): the unit, the paths accused, the cycles the arbiter took. -/
structure Rerun where
  unit    : Nat
  accused : Nat
  cost    : Nat
deriving DecidableEq, Repr

/-- A matrix command or drain between issue and commit (R119): issuing cell, tag and fields, the
format entry and SRBASE captured, the scratchpad words it locks, the two paths' result bytes, and how far it is. -/
structure MCmd where
  id      : Nat
  cell    : Nat
  tag     : BitVec 6
  noTag   : Bool
  f       : List Word
  fmt     : Word
  srseed  : Word
  srbase  : BitVec 24
  tokens  : List Nat
  pc      : Word
  issued  : Nat
  inSlot  : Bool := true
  locks   : List Nat := []
  /-- 0 waiting, 1 computed, 2 under arbitration, 3 committed and held by the rerun -/
  st      : Nat := 0
  start   : Nat := 0
  /-- the cycle it reached the head of the array queue (R254), once it has started -/
  headSince : Nat := 0
  main    : List Byte := []
  mirror  : List Byte := []
  arbiter : List Byte := []
  /-- drains: destination address of each byte, ascending; units already released -/
  dests   : List Nat := []
  unit    : Nat := 0
  flags   : BitVec 6 := 0
  /-- cycle of the compare (R119), and that of the mismatch, after the settlement that of the tag (R124, R413) -/
  due     : Nat := 0
  arbAt   : Nat := 0
  /-- its tag is set and it waits for its reruns only (R413) -/
  tagged  : Bool := false
  reruns  : List Rerun := []
  /-- positions of a walk whose drain has bytes still in the buffer: entry index, the counter to increment, the drain's id (R398) -/
  owed    : List (Nat × Option (BitVec 14) × Nat) := []
  /-- `mraster`: the sorted entries (index, word) still to enter, and the position of the next (R398) -/
  walk    : List (Nat × Word) := []
  pos     : Nat := 0
  /-- the declared cycle at which its latest position took a place (R119) -/
  entered : Nat := 0
  /-- a position of a walk: entry index, whether it is the last, the id of its walk -/
  entry   : Nat := 0
  ofWalk  : Option Nat := none
  bad     : Bool := false
  raised  : Bool := false
  again   : Nat := 0
  /-- a store of this drain has met an uncorrectable word (R425) -/
  part    : Bool := false
  /-- the staging half that holds its results (R119) -/
  half    : Option Bool := none
  /-- bits of rows of its region that a vector command has written since its start (R100) -/
  clash   : List (Nat × Row) := []
deriving DecidableEq, Repr

/-- One quad: the state block of R129, the lease record of R77, the commands, and the model's own record of how the physical
paths deviate (byte number of a result, exclusive-or mask), which nothing in the manual gives and reset leaves empty. -/
structure Quad where
  oos        : Bool := false
  arb        : Bool := false
  accused    : BitVec 2 := 0
  mainTrans  : BitVec 32 := 0
  mainPers   : Bool := false
  mirrTrans  : BitVec 32 := 0
  mirrPers   : Bool := false
  convMain   : BitVec 16 := 0
  convMirr   : BitVec 16 := 0
  convPersA  : Bool := false
  convPersB  : Bool := false
  arbcnt     : Word := 0
  bothcnt    : BitVec 32 := 0
  cmds       : List MCmd := []
  /-- the staging halves of both paths, half 0 and half 1 (R129) -/
  stageMain  : List Byte := []
  stageMirr  : List Byte := []
  stageMain1 : List Byte := []
  stageMirr1 : List Byte := []
  holder     : BitVec 2 := 0
  held       : Bool := false
  acq        : BitVec 4 := 0
  req        : BitVec 4 := 0
  reqOrder   : List Nat := []
  count      : BitVec 8 := 0
  idleSince  : Nat := 0
  grants     : Word := 0
  /-- the cycle before which the array starts no further command at D2, and the cycle of the latest commit into each tile,
  by 4 * cell + tile (R237) -/
  nextStart  : Nat := 0
  /-- the cycle of the latest start -/
  lastStart  : Nat := 0
  commits    : NatMap Nat := []
  /-- the declared cycles at which the latest 16 commands gave up their places (R119) -/
  left       : List Nat := []
  /-- the staging half that the next compared command has used -/
  half       : Bool := false
  mainXor    : List (Nat × Byte) := []
  mirrXor    : List (Nat × Byte) := []
  convMainXor : List (Nat × Byte) := []
  convMirrXor : List (Nat × Byte) := []
  /-- uncorrectable 8-byte words of the staging halves of the main path and of the mirror, half 1 from 8192 on (R425) -/
  badMain    : List Nat := []
  badMirr    : List Nat := []
  /-- transient faults act once: cleared at the next command (the model's own) -/
  transient  : Bool := false
deriving DecidableEq, Repr

/-- One direction of a link module, held at the receiving die (R13). -/
structure Link where
  errThr  : BitVec 8 := 0x10
  winLog  : BitVec 8 := 0x18
  down    : Bool := false
  st      : BitVec 2 := 0
  width   : BitVec 2 := 0
  errCnt  : BitVec 8 := 0
  retry   : BitVec 32 := 0
  retrain : BitVec 8 := 0
  /-- failed retries of the flit now being sent (R11), and the flits received in the present window (R12) -/
  tries   : Nat := 0
  flits   : Nat := 0
  since   : Nat := 0
  /-- the training began at 64 lanes (R13, R26) -/
  full    : Bool := false
  /-- launches with a request unacknowledged on the module when its retrain began (R420) -/
  hit     : List Nat := []
deriving DecidableEq, Repr

/-- Stages of port training (R27). -/
inductive PortStage where
  | off | lock | align | negotiate | confirm | active | waiting
deriving DecidableEq, Repr

/-- A port (R23, R27): stage, locked lanes, the lanes that take part, and the cycle its stage began. -/
structure Port where
  stage : PortStage := .off
  lanes : List Nat := []
  half  : Bool := false
  since : Nat := 0
deriving DecidableEq, Repr

/-- A completion record (R31). -/
structure Record where
  type    : BitVec 8
  stream  : Nat
  status  : BitVec 8
  sq      : BitVec 16
  cookie  : Word
  value   : Word
  extra   : Word
  payload : List Word
  sentAt  : Nat
  /-- a later packet of its stream has been accepted under its number (R28) -/
  old     : Bool := false
deriving DecidableEq, Repr

/-- A packet that a stream has accepted and not completed (R28, R35): its serial in order of acceptance over all streams,
whether it has started, and when. -/
structure StreamPkt where
  sq      : BitVec 16
  serial  : Nat
  packet  : Packet
  started : Bool := false
  at?     : Nat := 0
  /-- the first cycle at which a `LAUNCH` waits for a home that cannot be reached (R19) -/
  tryAt   : Option Nat := none
deriving DecidableEq, Repr

/-- What the device sends through a port besides data and test frames: the acknowledgement of a packet (R28), a completion or presence record
(R31), the capability word with the package identifier (R27). -/
inductive PortOut where
  | ack (stream : Nat) (sq : BitVec 16)
  | record (words : List Word)
  | capability (port : Nat) (pkg : BitVec 19)
deriving DecidableEq, Repr

/-- One command stream (R28, R35, R38): LAST accepted number, packets not completed, level, records sent and not
acknowledged, and those that wait. -/
structure Stream where
  last    : BitVec 16 := 0xFFFF
  pkts    : List StreamPkt := []
  level   : Nat := 0
  records : List Record := []
  waiting : List Record := []
  /-- the records of the last 256 packets that have one, newest first: what a duplicate packet is answered with -/
  stored  : List Record := []
deriving DecidableEq, Repr

/-- A COPYH in progress (R33). -/
structure Copyh where
  stream  : Nat
  pkt     : StreamPkt
  /-- a RESET has stopped it -/
  stopped : Bool := false
  /-- once its bytes are on their way: its status, the address that it reports, its checksum -/
  result  : Option (BitVec 3 × Word × Word) := none
deriving DecidableEq, Repr

/-- A registered region (R44, R45, R49): its address, the first twelve words of its RCB as the device keeps them, the cycles
charged, the save slots in use with the launch of each (R70) and the hash-tree updates made (R241). -/
structure Region where
  addr    : Nat
  rcb     : List Word
  charged : Nat := 0
  slots   : List (Nat × Nat) := []
  updates : Word := 0
deriving DecidableEq, Repr

/-- How a launch stands (R56). -/
inductive LaunchStatus where
  | running | faulted | cancelled
deriving DecidableEq, Repr

/-- A grow that a window gathers (R80): its window and cycle of issue, and the count it returns once applied. -/
structure GrowReq where
  serial : Nat
  group  : Nat
  amount : Word
  window : Nat
  issued : Nat
  result : Option Word := none
deriving DecidableEq, Repr

/-- A pre-empted group (R71): its index and save slot, and what the device knows of it besides the slot's contents: which sequencers have
ended, where their last branches lay, what K's instruction had joined, the copies it will issue again. -/
structure Saved where
  group  : Nat
  owner  : Nat
  index  : Nat
  ended  : List Bool
  kEnded : Bool
  froms  : List (Option Word)
  joined : Option Joined
  below  : Option Below
  seen   : NatMap (NatMap Nat)
  copies : List Copy
deriving DecidableEq, Repr

/-- What the entries of a collective that a launch has posted name (R206): counters of this package, other packages. -/
structure CollUse where
  coll : Nat
  cids : List Nat
  pkgs : List Nat
deriving DecidableEq, Repr

/-- An open launch (R50 to R57, R60 to R66). -/
structure Launch where
  key       : Nat
  num       : BitVec 16
  stream    : Nat
  pkt       : StreamPkt
  sigEn     : Bool
  sigId     : Nat
  lcbAddr   : Word
  lcb       : List Word
  region    : Nat
  level     : Nat
  fdom      : Nat
  seed      : Word
  keep      : Bool
  preempt   : Bool
  saveSlots : Nat
  saveArea  : Word
  elig      : List Nat
  groups    : Nat
  /-- groups assigned so far, with the probes used (R61, R64) -/
  assigned  : List (Nat × Nat × Nat) := []
  next      : Nat := 0
  bound     : List (Nat × Nat) := []
  saved     : List Saved := []
  ended     : List Nat := []
  status    : LaunchStatus := .running
  age       : Nat := 0
  ageAt     : Nat := 0
  corrected : Nat := 0
  cost      : Nat := 0
  firstBind : Option Nat := none
  lastEnd   : Nat := 0
  ref?      : Option Nat := none
  grows     : List GrowReq := []
  growNext  : Nat := 0
  /-- the collectives whose entries its groups have posted (R206) -/
  colls     : List CollUse := []
  /-- hash-tree updates that its cycle interval has triggered (R242) -/
  ticks     : Nat := 0
  /-- its region's hash-tree fields (R45, R48) -/
  ht        : List Word := []
  /-- its groups are held for a hash-tree update (R242) -/
  holdHash  : Bool := false
  /-- the latest generation whose phase exit has triggered an update, by 8 * scope + level -/
  phased    : NatMap Word := []
  /-- the scope and the generation that a group last joined at a level, by 8 * group + level (R325) -/
  joins     : NatMap (Nat × Word) := []
  /-- the regions that gave PRIORITY and the save policy when the launch started, and each region of its path with the one that gives its
  budget: of these, BUDGET and PRIORITY act live (R46, R48) -/
  prioOf    : Nat := 0
  slotsOf   : Nat := 0
  budgets   : List (Nat × Nat) := []
deriving DecidableEq, Repr

/-- A barrier's scope instance (R325): launch, level, scope (cell, quad or die number, 0, or BID), the open generation, who has
joined it, at D2 the cycle at which it completes (R239); for a system record its address, its table and its crc64 (R327), and the
generation whose notices have been sent. -/
structure Barrier where
  launch : Nat
  level  : Nat
  scope  : Nat
  gen    : Word := 1
  joined : List Nat := []
  due    : Option Nat := none
  addr   : Word := 0
  table  : List (BitVec 19) := []
  crc    : Word := 0
  sent   : Word := 0
  /-- the generation for which a differing notice has faulted the groups (R327) -/
  clash  : Word := 0
deriving DecidableEq, Repr

/-- An arrival notice of a system barrier that has reached the package (R327). -/
structure Notice where
  bid : Nat
  gen : Word
  crc : Word
  pkg : BitVec 19
deriving DecidableEq, Repr

/-- A work entry, armed or fired (R188, R190): its address and eight words; once fired, whether its effect is done and with
which status. -/
structure Entry where
  addr   : Word
  w      : List Word
  poster : Poster
  done   : Option (BitVec 3) := none
  sent   : Bool := false
  id     : Nat := 0
  /-- the engine that processes it; the trigger table of its counter may lie on another (R191) -/
  eng    : Nat := 0
  /-- the earliest cycle of its completion at D2, once its data moves (R238) -/
  due    : Nat := 0
  /-- STATUS and DONE have been sent to the entry (R192); its increment of another package has been sent (R181) -/
  told    : Bool := false
  carried : Bool := false
deriving DecidableEq, Repr

/-- A collective engine (R187, R190): chains to arm, armed entries in order of arming, fired entries in order of firing. -/
structure Engine where
  arming : List Arming := []
  armed  : List Entry := []
  fired  : List Entry := []
  nextId : Nat := 1
  /-- the latest cycle at which a full set of trigger tables got room (R190, R238) -/
  roomAt : Nat := 0
deriving DecidableEq, Repr

/-- A counter (R193). -/
structure Counter where
  value  : Word := 0
  ordsig : Word := 0
  lost   : Bool := false
deriving DecidableEq, Repr

/-- A write on its way to a scratchpad bank or an HBM home (R198): physical address and bytes. -/
structure InWrite where
  pa    : Nat
  bytes : List Byte
  owner : Owner := .none
  /-- the number under which a request carries it to its home, 0 once it is there (R17) -/
  net   : Nat := 0
  /-- an element that a unit stores (R122 kind 0): its sequencer, cell, word index and virtual address -/
  unit? : Option (SeqId × Nat × Word × Word) := none
  /-- the launch and group through whose local window it goes (R187) -/
  win   : Option (Nat × Nat) := none
  /-- staged at its home by a `cpysig`, not to be performed yet (R131) -/
  stage : Bool := false
deriving DecidableEq, Repr

/-- A reducing write on its way to its home, or held there (R201): its runs of bytes with their physical addresses. -/
structure RedWrite where
  id    : Nat
  parts : List (Nat × List Byte)
  red   : Nat
  sreg  : Nat
  sq    : Nat
  span  : Nat
  owner : Owner
  net   : Nat := 0
  /-- the cycle from which it waits for its turn (R201, R238) -/
  since : Option Nat := none
  /-- the launch and group through whose local window it goes (R187) -/
  win   : Option (Nat × Nat) := none
deriving DecidableEq, Repr

/-- A transfer to another package (R204): chunk number, destination, port, bytes, sends, the cycle of the latest send. -/
structure Transfer where
  pkg   : BitVec 19
  num   : BitVec 16
  port  : Nat
  va    : Word
  bytes : List Byte
  kind  : ChunkKind
  sends : Nat
  sent  : Nat
  owner : Owner
  inc   : Option Inc := none
deriving DecidableEq, Repr

/-- A chunk from another package that is being performed here (R181, R204): its number here, its package and number there, the
increment that travels with it, the status so far. -/
structure ChunkIn where
  n      : Nat
  pkg    : BitVec 19
  num    : BitVec 16
  inc    : Option Inc
  status : BitVec 3 := 0
deriving DecidableEq, Repr

/-- A member's own view of its exchange (R211, R219 to R221): its post, who posted it, its tables; the sources read, its grants and
offsets, what it was granted; bytes received and how often they came (phase, sender, offset); statuses met; bytes not sent. -/
structure Member where
  post     : Post
  launch   : Nat
  group    : Nat
  cell     : Nat
  seq      : SeqId
  pc       : Word
  srctab   : Word
  rbase    : Word
  grtab    : Word
  ctr      : BitVec 14
  ctrEn    : Bool
  sources  : Option (List (Word × Nat)) := none
  row      : List Grant := []
  rowOffs  : List Nat := []
  granted  : Option (List Nat) := none
  received : NatMap Nat := []
  got      : List (Nat × Nat × Nat) := []
  causes   : List Nat := []
  unsent   : Nat := 0
  done     : Bool := false
  failover : Bool := false
  epoch    : Nat := 0
  nphase   : Nat := 0
  /-- RECEIVED is on its way to its grant table (R219) -/
  closing  : Bool := false
deriving DecidableEq, Repr

/-- An exchange slot of an arbiter (R216, R223): `beat` is the cycle of the latest heartbeat sent or received, `alone` a primary
without standby. -/
structure XSlot where
  xid      : Nat
  nmem     : Nat
  st       : Nat
  standby  : Bool
  active   : Bool
  epoch    : Nat := 0
  posts    : List Post
  calendar : List Grant := []
  nphase   : Nat := 0
  openPh   : Nat := 0
  closed   : Nat := 0
  acks     : List (Nat × Nat × Nat) := []
  mtsig    : Word := 0
  beat     : Nat := 0
  alone    : Bool := false
  /-- the cycles from the last heartbeat to the takeover (R426) -/
  cost     : Nat := 0
deriving DecidableEq, Repr

/-- What leaves the package through the fabric besides transfers (R206, R217, R223, R327). -/
inductive NetMsg where
  | exchange (pkg : BitVec 19) (m : XMsg)
  | loss (pkg : BitVec 19) (collid : Nat) (exchange : Bool)
  | arrival (pkg : BitVec 19) (bid : Nat) (gen crc : Word)
  | ack (pkg : BitVec 19) (num : BitVec 16) (status : BitVec 3)
deriving DecidableEq, Repr

/-- An update on its way to the replica sequencer (R184). -/
structure ReplicaUpd where
  pa   : Nat
  op   : MemOp
  cell : Nat
  seq  : SeqId
  cls  : StoreClass
  pc   : Word := 0
  va   : Word := 0
  net  : Nat := 0
  born : Nat := 0
deriving DecidableEq, Repr

/-- A hash-tree update that has been triggered (R242): region address, launch, trigger, cycle. -/
structure HashReq where
  region : Nat
  launch : Nat
  timer  : Bool
  cycle  : Nat
  /-- number, level and range of the launch that triggered it, and at D2 the cycle at which its pages have been hashed -/
  num    : BitVec 16 := 0
  level  : Nat := 0
  ht     : List Word := []
  ready  : Option Nat := none
  /-- the first cycle at which its nodes wait for a home that cannot be reached (R19) -/
  tryAt  : Option Nat := none
  /-- the latest cycle at which it was seen to wait for the launch's writes (R242) -/
  looked : Nat := 0
deriving DecidableEq, Repr

/-- One black-box event (R265): its four words. -/
structure BbEvent where
  w0 : Word
  w1 : Word
  w2 : Word
  w3 : Word
deriving DecidableEq, Repr

/-- The black box of a die (R265, R267): events from the oldest, ring index of the oldest. -/
structure BlackBox where
  events  : List BbEvent := []
  head    : Nat := 0
  frozen  : Bool := false
  dropped : BitVec 32 := 0
deriving DecidableEq, Repr

/-- How far bring-up is (R26): 0 nothing done, 1 steps 1 to 5 done and the Ustex port trains, 2 the scale-out ports train, 3
reported. -/
abbrev BringUpStage := Nat

/-- A RESET that runs or waits (R42); `began`: the bring-up of a package reset has begun. -/
structure ResetReq where
  stream : Nat
  pkt    : StreamPkt
  began  : Bool := false
deriving DecidableEq, Repr

/-- What breaks without an instruction: an ECC word of memory or of a cell's rows becomes uncorrectable, a corrected error is counted on a
die (R22, R132), a commit-buffer entry or a word of staging becomes uncorrectable (R425), a check slot's telltale copy differs (R108), a path of a quad deviates (R125 to R127): main, mirror, converter main,
converter mirror; for one command, or lasting. -/
inductive Upset where
  | word (w : Nat)
  | row (cell w : Nat)
  /-- a word of a tagged-store slot, 16 to the slot -/
  | tagged (cell w : Nat)
  | corrected (die : Nat)
  | telltale (cell : Nat) (q : SeqId) (slot : Nat) (tell : Item)
  | held (cell entry w : Nat)
  | staging (quad : Nat) (mirror : Bool) (w : Nat)
  | path (quad which byte : Nat) (mask : Byte) (lasting : Bool)
  /-- a sequencer and its telltale part ways (R108) -/
  | diverge (cell : Nat) (q : SeqId)
deriving DecidableEq, Repr

/-- One turn: the cycles that pass before it, and who moves. -/
inductive Act where
  | seq (die cell : Nat) (q : SeqId)
  | ev (i : Instr) (at_ : Site)
  | upset (u : Upset)
  | idle
deriving DecidableEq, Repr

structure Turn where
  dt  : Nat := 1
  act : Act
deriving DecidableEq, Repr

/-- The package. `agenda`, `site` and `free` are the model's own: which agent moves next and after how many cycles, where
the step now being taken acts, and the running number of the free values. Everything else is the manual's. -/
structure State where
  agenda    : List Turn := []
  site      : Site := {}
  free      : Nat := 0
  cycle     : Nat := 0
  mem       : List Host.Cell := []
  hbmGen    : Nat := 0
  badWords  : List Nat := []
  /-- errors that the controllers of a die have corrected (R22, R132) -/
  eccCount  : NatMap Word := []
  cells     : NatMap Cell := []
  quads     : NatMap Quad := []
  slots     : NatMap SlotRec := []
  links     : NatMap Link := []
  pairs     : NatMap Pair := []
  ports     : NatMap Port := []
  streams   : NatMap Stream := []
  signals   : NatMap Word := []
  serial    : Nat := 0
  copyhs    : List Copyh := []
  hostOut   : List (Word × List Byte) := []
  portOut   : List PortOut := []
  presence  : Option Record := none
  regions   : List Region := []
  launches  : List Launch := []
  launchNum : BitVec 16 := 0
  launchKey : Nat := 1
  barriers  : List Barrier := []
  notices   : List Notice := []
  engines   : NatMap Engine := []
  counters  : NatMap Counter := []
  incs      : List Inc := []
  inWrites  : List InWrite := []
  redWrites : List RedWrite := []
  redHeld   : List RedWrite := []
  redNext   : Nat := 0
  /-- the next number under which a request carries what an engine sends -/
  netNext   : Nat := 1
  /-- chunks from other packages that are being performed, and the responses to those done, newest first (R204) -/
  chunksIn  : List ChunkIn := []
  chunkNext : Nat := 1
  chunkResp : NatMap (List (BitVec 16 × BitVec 3)) := []
  homeNext  : NatMap (BitVec 32) := []
  transfers : List Transfer := []
  chunkOut  : NatMap (BitVec 16) := []
  chunkLast : NatMap (BitVec 16) := []
  netOut    : List NetMsg := []
  /-- packages that a copy has found unreachable, not yet reported to the collectives (R204) -/
  unreached : List Nat := []
  /-- writes through the local window of a group that is not bound: its launch and index, the write (R187, R199, R226) -/
  parkedIn  : List (Nat × Nat × InWrite) := []
  parkedRed : List (Nat × Nat × RedWrite) := []
  members   : List Member := []
  xslots    : NatMap XSlot := []
  xmsgs     : List XMsg := []
  /-- messages of exchanges that are on the mesh, with the numbers of the requests that carry them (R17) -/
  xnet      : List (Nat × XMsg) := []
  /-- reads of engines on other dies (R17) -/
  asks      : List Ask := []
  replicas  : List ReplicaUpd := []
  replNum   : Word := 0
  replWait  : List Nat := []
  leases    : NatMap Nat := []
  /-- hold messages (R123) and resynchronisation messages (R20) on their way: source, destination, number; receiver, die named -/
  holds     : List (Nat × Nat × BitVec 16) := []
  resyncs   : List (Nat × Nat) := []
  xlV       : Bool := false
  xlRoot    : BitVec 28 := 0
  walks     : Word := 0
  dieTlb    : NatMap (List TlbEntry) := []
  /-- the walks that a rim die has made for its engines in a cycle: die, cycle, page (R165) -/
  walkNow   : List (Nat × Nat × TlbEntry) := []
  boxes     : NatMap BlackBox := []
  hashReqs  : List HashReq := []
  oosDies   : List Nat := []
  pkgId     : BitVec 19 := 0
  resets    : BitVec 32 := 0
  bringUp   : BringUpStage := 0
  powerHold : Bool := false
  /-- the cycle of the latest budget update (R67) -/
  budgetAt  : Nat := 0
  running   : Option ResetReq := none
  pending   : List ResetReq := []
deriving DecidableEq, Repr

/-- The outcome of a step of this machine. -/
abbrev Out := Host.Outcome State Fault Refusal

/-- The state right after reset, before bring-up (R26): every register at the reset value of its table, nothing registered,
nothing bound, nothing in flight, no byte of memory listed. -/
def State.reset : State := {}

end Sys2Proof.Machine
end

