-- ==== Sys2Proof/Machine/Maps.lean ====
section
/-! DEFINITION. Sparse maps by number, bytes and words, and the physical memory of the package: what an unlisted byte reads
as, one byte read and written, ranges, and the ECC words of R132 and R425. -/

namespace Sys2Proof.Machine

/-- The entry of a map, or the default. -/
def NatMap.get {α : Type} (d : α) : NatMap α → Nat → α
  | [], _ => d
  | (a, v) :: m, k => if a = k then v else NatMap.get d m k

/-- Insertion in rising order of keys. -/
def NatMap.ins {α : Type} : NatMap α → Nat → α → NatMap α
  | [], k, v => [(k, v)]
  | (a, w) :: m, k, v =>
    if k < a then (k, v) :: (a, w) :: m
    else if k = a then (k, v) :: m
    else (a, w) :: NatMap.ins m k v

/-- Removal of a key. -/
def NatMap.del {α : Type} (m : NatMap α) (k : Nat) : NatMap α := m.filter (fun e => e.1 != k)

/-- Writes an entry; a value equal to the default is not listed. -/
def NatMap.put {α : Type} [DecidableEq α] (d : α) (m : NatMap α) (k : Nat) (v : α) : NatMap α :=
  if v = d then NatMap.del m k else NatMap.ins m k v

/-- Keys strictly rising. -/
def NatMap.rising {α : Type} : NatMap α → Bool
  | [] => true
  | [_] => true
  | (a, _) :: (b, w) :: m => decide (a < b) && NatMap.rising ((b, w) :: m)

/-- A word as its bytes, little-endian (R4). -/
def leBytes : Nat → Nat → List Byte
  | 0, _ => []
  | n + 1, v => BitVec.ofNat 8 v :: leBytes n (v / 256)

/-- The number that bytes spell, little-endian (R4). -/
def ofLe : List Byte → Nat
  | [] => 0
  | b :: bs => b.toNat + 256 * ofLe bs

/-- `sx(x, n)` of a number below 2^n (R7). -/
def sx (x : Nat) (n : Nat) : Word :=
  if x.testBit (n - 1) then BitVec.ofInt 64 ((x : Int) - 2 ^ n) else BitVec.ofNat 64 x

/-- `sx(x, n)` as an integer (R7). -/
def sxInt (x : Nat) (n : Nat) : Int := if x.testBit (n - 1) then (x : Int) - 2 ^ n else x

/-- Bits hi:lo of a word. -/
def bits (w : Word) (hi lo : Nat) : Nat := (w.toNat >>> lo) % 2 ^ (hi - lo + 1)

/-- One bit of a word. -/
def bit (w : Word) (i : Nat) : Bool := w.toNat.testBit i

/-- A number of n bits at bit position lo. -/
def at_ (v lo : Nat) : Nat := v <<< lo

/-- The first address above HBM (R160). -/
def hbmTop : Nat := 2 ^ 40

/-- The scratchpad window (R160). -/
def spWindow : Nat := 0x100000000000

/-- The physical address of offset off of the scratchpad of cell k = 64 * die + cell (R160). -/
def spAddr (k off : Nat) : Nat := spWindow + k / 64 * 2 ^ 32 + k % 64 * 2 ^ 22 + off

/-- Whether a physical address lies in the scratchpad window. -/
def inSp (pa : Nat) : Bool := decide (spWindow ≤ pa)

/-- The cell number 64 * die + cell of a scratchpad address. -/
def spCell (pa : Nat) : Nat := (pa - spWindow) / 2 ^ 32 * 64 + pa / 2 ^ 22 % 64

/-- The offset of a scratchpad address. -/
def spOff (pa : Nat) : Nat := pa % 2 ^ 22

/-- The home die of a physical address (R21, R160). -/
def homeDie (pa : Nat) : Nat := if inSp pa then (pa - spWindow) / 2 ^ 32 % 16 else pa / 2 ^ 36 % 16

/-- Whether a physical address is mapped (R160). -/
def paMapped (pa : Nat) : Bool :=
  decide (pa < hbmTop) ||
    (decide (spWindow ≤ pa) && decide (pa < spWindow + 2 ^ 36) && decide (pa / 2 ^ 28 % 16 = 0) && decide (pa / 2 ^ 22 % 64 < 56))

/-- What a byte reads as that nothing has written: 0 (log entry 2); HBM after a package reset is undefined (R42, log entry 3). -/
def memDefault (gen pa : Nat) : Byte :=
  if gen = 0 then 0 else if pa < hbmTop then Config.hbmAfterReset gen pa else 0

/-- One byte of memory. -/
def Memory.read (gen : Nat) (m : List Host.Cell) (pa : Nat) : Byte := NatMap.get (memDefault gen pa) m pa

/-- Memory with one byte written. -/
def Memory.write (gen : Nat) (m : List Host.Cell) (pa : Nat) (b : Byte) : List Host.Cell := NatMap.put (memDefault gen pa) m pa b

/-- The canonical form of memory: addresses rising, no entry equal to what an unlisted address reads as. -/
def Memory.wf (gen : Nat) (m : List Host.Cell) : Bool := NatMap.rising m && m.all (fun e => e.2 != memDefault gen e.1)

/-- Memory with a run of bytes written, the first at the lowest address. -/
def Memory.writes (gen : Nat) (m : List Host.Cell) (pa : Nat) : List Byte → List Host.Cell
  | [] => m
  | b :: bs => Memory.writes gen (Memory.write gen m pa b) (pa + 1) bs

/-- A run of bytes. -/
def Memory.reads (gen : Nat) (m : List Host.Cell) (pa : Nat) : Nat → List Byte
  | 0 => []
  | n + 1 => Memory.read gen m pa :: Memory.reads gen m (pa + 1) n

/-- One byte of the package's memory. -/
def State.byteAt (s : State) (pa : Nat) : Byte := Memory.read s.hbmGen s.mem pa

/-- n bytes of the package's memory. -/
def State.bytesAt (s : State) (pa n : Nat) : List Byte := Memory.reads s.hbmGen s.mem pa n

/-- The size of the ECC word of a physical address (R425). -/
def eccSize (pa : Nat) : Nat := if pa < hbmTop then 32 else 8

/-- The ECC word that holds a physical address (R425). -/
def eccWord (pa : Nat) : Nat := pa / eccSize pa * eccSize pa

/-- Whether the ECC word w and the bytes [pa, pa + n) overlap. -/
def eccTouches (pa n w : Nat) : Bool := decide (w < pa + n) && decide (pa < w + eccSize w)

/-- Whether the bytes [pa, pa + n) cover the ECC word w. -/
def eccCovers (pa n w : Nat) : Bool := decide (pa ≤ w) && decide (w + eccSize w ≤ pa + n)

/-- Whether a read of n bytes meets an uncorrectable word (R132). -/
def State.badRead (s : State) (pa n : Nat) : Bool := s.badWords.any (eccTouches pa n)

/-- Whether a write of n bytes covers only part of an uncorrectable word (R425). -/
def State.badWrite (s : State) (pa n : Nat) : Bool := s.badWords.any (fun w => eccTouches pa n w && !eccCovers pa n w)

/-- Bytes written one by one, without those in the listed ECC words. -/
def Memory.writesBut (gen : Nat) (m : List Host.Cell) (bad : List Nat) (pa : Nat) : List Byte → List Host.Cell
  | [] => m
  | b :: bs =>
    Memory.writesBut gen (if bad.contains (eccWord pa) then m else Memory.write gen m pa b) bad (pa + 1) bs

/-- A write performed at its home: full words of uncorrectable data are replaced, parts of one are not written (R425). -/
def State.poke (s : State) (pa : Nat) (bs : List Byte) : State :=
  if s.badWords.isEmpty then { s with mem := Memory.writes s.hbmGen s.mem pa bs }
  else
    let bad := s.badWords.filter (fun w => eccTouches pa bs.length w && !eccCovers pa bs.length w)
    { s with mem := Memory.writesBut s.hbmGen s.mem bad pa bs, badWords := s.badWords.filter (fun w => !eccCovers pa bs.length w) }

/-- A run of bytes cut at the boundaries of 64-byte words: the address and the bytes of each piece. -/
def splitWords : Nat → Nat → List Byte → List (Nat × List Byte)
  | 0, _, _ => []
  | _ + 1, _, [] => []
  | fuel + 1, pa, b :: bs =>
    let n := 64 - pa % 64
    (pa, (b :: bs).take n) :: splitWords fuel (pa + n) ((b :: bs).drop n)

/-- Every byte of a range set to what an unlisted address reads as when that is 0 (zeroing of R55). -/
def State.zeroRange (s : State) (pa n : Nat) : State :=
  { s with mem := s.mem.filter (fun e => decide (e.1 < pa) || decide (pa + n ≤ e.1)) }

/-- The first n numbers. -/
def upTo (n : Nat) : List Nat := List.range n

/-- Saturating increment of a counter of w bits. -/
def satInc {w : Nat} (x : BitVec w) : BitVec w := if x = BitVec.allOnes w then x else x + 1

/-- Saturating addition to a counter of w bits. -/
def satAdd {w : Nat} (x : BitVec w) (n : Nat) : BitVec w := BitVec.ofNat w (min (x.toNat + n) (2 ^ w - 1))

/-- A list with the element at position i replaced. -/
def setAt {α : Type} : List α → Nat → α → List α
  | [], _, _ => []
  | _ :: l, 0, v => v :: l
  | a :: l, i + 1, v => a :: setAt l i v

/-- Insertion before the first element that does not come before it. -/
def insertBy {α : Type} (le : α → α → Bool) (x : α) : List α → List α
  | [] => [x]
  | y :: l => if le x y then x :: y :: l else y :: insertBy le x l

/-- A list sorted, equal elements in their order. -/
def sortBy {α : Type} (le : α → α → Bool) (l : List α) : List α := l.foldr (insertBy le) []

/-- A list with one element changed: the first that satisfies p. -/
def modFirst {α : Type} (p : α → Bool) (f : α → α) : List α → List α
  | [] => []
  | a :: l => if p a then f a :: l else a :: modFirst p f l

/-- A list without the first element that satisfies p. -/
def dropFirst {α : Type} (p : α → Bool) : List α → List α
  | [] => []
  | a :: l => if p a then l else a :: dropFirst p l

end Sys2Proof.Machine
end

