-- ==== Sys2Proof/Machine/Ops.lean ====
section
/-! DEFINITION. The shared operations of the machine: reaching a cell, a sequencer or a quad; the black box; translation;
memory with its locks, check slots and mesh; issue, retirement and blocking; traps, the stop, the handler and the return
from it; machine checks. -/

namespace Sys2Proof.Machine

/-! ### Functions of the manual -/

/-- The multipliers of jmix64 (R144). -/
def jmixK : List Word := [0xC3A59B1D5E4F2A67, 0x8F1BC6E32D79A50B, 0xB7E151630F4A9D2D, 0xE65A3C917D0BF423]

/-- One round of jmix64 (R144). -/
def jmixRound (x k : Word) : Word :=
  let a := (x ^^^ (x >>> 31)) * k
  a ^^^ (a >>> 29)

/-- jmix64(key, ctr) (R144). -/
def jmix64 (key ctr : Word) : Word := jmixK.foldl jmixRound (ctr ^^^ key)

/-- One bit of crc64 (R116). -/
def crcBit (x : Word) : Word := if x.msb then (x <<< 1) ^^^ 0x42F0E1EBA9EA3693 else x <<< 1

/-- One byte of crc64 (R116). -/
def crcByte (x : Word) (y : Byte) : Word :=
  let a := x ^^^ (y.zeroExtend 64 <<< 56)
  crcBit (crcBit (crcBit (crcBit (crcBit (crcBit (crcBit (crcBit a)))))))

/-- crc64(init, bytes) (R116). -/
def crc64 (init : Word) (bs : List Byte) : Word := bs.foldl crcByte init

/-- The CRC of no bytes, and the start of every signature (R116). -/
def crcInit : Word := 0xFFFFFFFFFFFFFFFF

/-! ### Reaching the parts -/

/-- The number of a cell, 64 * die + cell. -/
def cellKey (die cell : Nat) : Nat := 64 * die + cell

/-- The number of a quad, 16 * die + quad. -/
def quadKey (die quad : Nat) : Nat := 16 * die + quad

/-- The quad of a cell (R85). -/
def quadOf (k : Nat) : Nat := quadKey (k / 64) (k % 64 / 4)

/-- The cell whose turn it is. -/
def State.here (s : State) : Nat := cellKey s.site.die s.site.cell

/-- A cell. -/
def State.cellAt (s : State) (k : Nat) : Cell := NatMap.get {} s.cells k

/-- The state with a cell replaced. -/
def State.setCell (s : State) (k : Nat) (c : Cell) : State := { s with cells := NatMap.put {} s.cells k c }

/-- The state with a cell changed. -/
def State.modCell (s : State) (k : Nat) (f : Cell → Cell) : State := s.setCell k (f (s.cellAt k))

/-- A quad. -/
def State.quadAt (s : State) (q : Nat) : Quad := NatMap.get {} s.quads q

/-- The state with a quad replaced. -/
def State.setQuad (s : State) (q : Nat) (x : Quad) : State := { s with quads := NatMap.put {} s.quads q x }

/-- The state with a quad changed. -/
def State.modQuad (s : State) (q : Nat) (f : Quad → Quad) : State := s.setQuad q (f (s.quadAt q))

/-- A sequencer of a cell. -/
def Cell.seq (c : Cell) : SeqId → Seq
  | .K => c.k
  | .L => c.l
  | .C => c.c
  | .S => c.s

/-- A cell with a sequencer replaced. -/
def Cell.setSeq (c : Cell) (q : SeqId) (x : Seq) : Cell :=
  match q with
  | .K => { c with k := x }
  | .L => { c with l := x }
  | .C => { c with c := x }
  | .S => { c with s := x }

/-- A cell with a sequencer changed. -/
def Cell.modSeq (c : Cell) (q : SeqId) (f : Seq → Seq) : Cell := c.setSeq q (f (c.seq q))

/-- The cell whose turn it is. -/
def State.cur (s : State) : Cell := s.cellAt s.here

/-- The sequencer whose turn it is. -/
def State.curSeq (s : State) : Seq := s.cur.seq s.site.seq

/-- The state with the sequencer whose turn it is changed. -/
def State.modSeq (s : State) (f : Seq → Seq) : State := s.modCell s.here (fun c => c.modSeq s.site.seq f)

/-- The state with a given sequencer changed. -/
def State.modSeqOf (s : State) (k : Nat) (q : SeqId) (f : Seq → Seq) : State := s.modCell k (fun c => c.modSeq q f)

/-- Whether a die is in service (R26). -/
def State.dieUp (s : State) (d : Nat) : Bool := !s.oosDies.contains d

/-- Whether a cell exists and is in service (R84). -/
def State.cellUp (s : State) (k : Nat) : Bool := s.dieUp (k / 64) && !(s.cellAt k).oos

/-- The number of a pair of dies. -/
def pairKey (src dst : Nat) : Nat := 32 * src + dst

/-- A pair of dies. -/
def State.pairAt (s : State) (src dst : Nat) : Pair := NatMap.get {} s.pairs (pairKey src dst)

/-- The state with a pair replaced. -/
def State.setPair (s : State) (src dst : Nat) (p : Pair) : State := { s with pairs := NatMap.put {} s.pairs (pairKey src dst) p }

/-- A launch by its key. -/
def State.launch? (s : State) (key : Nat) : Option Launch := s.launches.find? (fun l => l.key == key)

/-- The state with a launch changed. -/
def State.modLaunch (s : State) (key : Nat) (f : Launch → Launch) : State :=
  { s with launches := modFirst (fun l => l.key == key) f s.launches }

/-! ### The black box (R265 to R267) -/

/-- One event written at a die: recorded, or counted while the box is frozen. -/
def BlackBox.log (b : BlackBox) (e : BbEvent) : BlackBox :=
  if b.frozen then { b with dropped := satInc b.dropped }
  else if b.events.length < 4096 then { b with events := b.events ++ [e] }
  else { b with events := b.events.drop 1 ++ [e], head := (b.head + 1) % 4096 }

/-- The words of an event (R265): type, code, launch, group, unit, unit kind. -/
def bbEvent (cycle type code launch group unit ukind : Nat) (d0 d1 : Word) : BbEvent :=
  ⟨BitVec.ofNat 64 (cycle % 2 ^ 48 + at_ (type % 256) 48 + at_ (code % 256) 56),
   BitVec.ofNat 64 (launch % 2 ^ 16 + at_ (group % 2 ^ 32) 16 + at_ (unit % 64) 48 + at_ (ukind % 4) 54), d0, d1⟩

/-- The state with an event written to the box of a die. -/
def State.bbox (s : State) (die : Nat) (e : BbEvent) : State :=
  { s with boxes := NatMap.put {} s.boxes die ((NatMap.get {} s.boxes die).log e) }

/-- The launch number and group of a cell for its events, 0 when none is bound. -/
def State.boundIds (s : State) (k : Nat) : Nat × Nat :=
  match (s.cellAt k).bound with
  | some b => (((s.launch? b.launch).map (fun l => l.num.toNat)).getD 0, b.group)
  | none => (0, 0)

/-- An event of a cell. -/
def State.bboxCell (s : State) (k type code : Nat) (d0 d1 : Word) : State :=
  let (l, g) := s.boundIds k
  s.bbox (k / 64) (bbEvent s.cycle type code l g (k % 64) 0 d0 d1)

/-- An event of a quad on behalf of a cell. -/
def State.bboxQuad (s : State) (q k type code : Nat) (d0 d1 : Word) : State :=
  let (l, g) := s.boundIds k
  s.bbox (q / 16) (bbEvent s.cycle type code l g (q % 16) 1 d0 d1)

/-- Freezing a die's box (R267). -/
def State.freeze (s : State) (die : Nat) : State :=
  { s with boxes := NatMap.put {} s.boxes die { NatMap.get {} s.boxes die with frozen := true } }

/-- A corrected fault of a launch with its cost (R426). -/
def State.corrected (s : State) (key cost : Nat) : State :=
  s.modLaunch key (fun l => { l with corrected := min (l.corrected + 1) 0xFFFF, cost := min (l.cost + cost) (2 ^ 48 - 1) })

/-- An uncorrectable error met at an address by the agent k (R132, R266 type 0x06), in the box of the die whose controller detects it. The requester is a
kind: 0 a sequencer, 1 `tld` or `tst`, 2 a `vop`, 3 a matrix command, 4 a copy, 5 a collective or exchange engine, 6 `tfill`, 7 the host, 8 the management
core; which code the manual gives it is open (log entry 138). -/
def State.logBad (s : State) (k pa who : Nat) : State :=
  let (l, g) := s.boundIds k
  s.bbox (homeDie pa) (bbEvent s.cycle 0x06 2 l g (if inSp pa then spCell pa % 64 else 0) 0 (BitVec.ofNat 64 pa) (Config.requester who k))

/-- The same of a row or a staging half of the cell's own quad, at its state address. -/
def State.logOwn (s : State) (k : Nat) (at' : Word) (who : Nat) : State := s.bboxCell k 0x06 2 at' (Config.requester who k)

/-! ### Translation (R158 to R165) -/

/-- The local window (R159). -/
def localBase : Nat := 0xFFFFFFFC00000

/-- Why a translation fails: the status code that an engine reports (R164, R289). -/
inductive XErr where
  | fault
  | bad
deriving DecidableEq, Repr

/-- The status of a failed translation (R164). -/
def XErr.status : XErr → BitVec 3
  | .fault => 1
  | .bad => 2

/-- Page size in bits of a leaf at a level (R162). -/
def pageBits : Nat → Nat
  | 3 => 35
  | 2 => 30
  | 1 => 21
  | _ => 16

/-- Index of a virtual address at a level (R162). -/
def pageIndex (level va : Nat) : Nat :=
  match level with
  | 3 => va / 2 ^ 35 % 2 ^ 17
  | 2 => va / 2 ^ 30 % 32
  | 1 => va / 2 ^ 21 % 512
  | _ => va / 2 ^ 16 % 32

/-- Size and alignment of a table (R162). -/
def tableSize : Nat → Nat
  | 3 => 2 ^ 20
  | 2 => 256
  | 1 => 4096
  | _ => 256

/-- Whether a leaf may map its page (R164): aligned, wholly mapped, in service, no crossing of a cell, REPL allowed. -/
def State.leafOk (s : State) (pa size : Nat) (repl : Bool) : Bool :=
  let n := 2 ^ size
  decide (pa % n = 0) && paMapped pa && paMapped (pa + n - 1) && decide (inSp pa = inSp (pa + n - 1)) &&
  (if inSp pa then decide (size ≤ 21) && decide (spCell pa = spCell (pa + n - 1)) && s.cellUp (spCell pa) && !repl
   else s.dieUp (homeDie pa) && (!repl || (decide (size ≤ 21) && decide (homeDie pa = 0))))

/-- A walk from a table at a level (R162 to R164). -/
def State.walk (s : State) (va : Nat) : Nat → Nat → Except XErr TlbEntry
  | 0, _ => .error .fault
  | level + 1, table =>
    if table % tableSize level ≠ 0 || !paMapped table then .error .fault
    else
      let at' := table + 8 * pageIndex level va
      if s.badRead at' 8 then .error .bad
      else
        let e := ofLe (s.bytesAt at' 8)
        let addr := e / 256 % 2 ^ 40 * 256
        if !e.testBit 0 then .error .fault
        else if e.testBit 1 then
          let size := pageBits level
          if s.leafOk addr size (e.testBit 3) then .ok ⟨va / 2 ^ size * 2 ^ size, size, addr, e.testBit 2, e.testBit 3⟩ else .error .fault
        else s.walk va level addr

/-- Whether a cached translation covers an address. -/
def TlbEntry.hits (va : Nat) (e : TlbEntry) : Bool := decide (va / 2 ^ e.bits * 2 ^ e.bits = e.va)

/-- A TLB with an entry added; the oldest leaves a full one (log entry 9). -/
def tlbAdd (cap : Nat) (t : List TlbEntry) (e : TlbEntry) : List TlbEntry := (t ++ [e]).drop (t.length + 1 - cap)

/-- Finds the page of an address: the cell's TLB, the die's, or a walk (R165). An agent on rim die d has the number 64 * d, and no
TLB: its accesses of one cycle share a walk. -/
def State.page (s : State) (k va : Nat) : Except XErr (TlbEntry × State) :=
  if 1024 ≤ k then
    match s.walkNow.find? (fun w => w.1 == k / 64 && w.2.1 == s.cycle && w.2.2.hits va) with
    | some w => .ok (w.2.2, s)
    | none =>
      if !s.xlV then .error .fault
      else
        match s.walk va 4 (s.xlRoot.toNat * 2 ^ 20) with
        | .error x => .error x
        | .ok e => .ok (e, { s with walks := s.walks + 1, walkNow := s.walkNow.filter (fun w => w.2.1 == s.cycle) ++ [(k / 64, s.cycle, e)] })
  else
  match (s.cellAt k).tlb.find? (TlbEntry.hits va) with
  | some e => .ok (e, s)
  | none =>
    let die := k / 64
    match (NatMap.get [] s.dieTlb die).find? (TlbEntry.hits va) with
    | some e => .ok (e, s.modCell k (fun c => { c with tlb := tlbAdd 64 c.tlb e }))
    | none =>
      if !s.xlV then .error .fault
      else
        match s.walk va 4 (s.xlRoot.toNat * 2 ^ 20) with
        | .error x => .error x
        | .ok e =>
          let s1 := { s with walks := s.walks + 1, dieTlb := NatMap.put [] s.dieTlb die (tlbAdd 4096 (NatMap.get [] s.dieTlb die) e) }
          .ok (e, s1.modCell k (fun c => { c with tlb := tlbAdd 64 c.tlb e }))

/-- Whether what a translation names is in service (R164). -/
def State.leafUp (s : State) (e : TlbEntry) : Bool := if inSp e.pa then s.cellUp (spCell e.pa) else s.dieUp (homeDie e.pa)

/-- Where a virtual address lands for an access on behalf of cell k (R158 to R164): physical address, replicated page, and
the state with what the translation cached. -/
def State.translate (s : State) (k : Nat) (va : Word) (wr : Bool) : Except XErr (Nat × Bool × State) :=
  let v := va.toNat
  if 2 ^ 52 ≤ v then .error .fault
  else if localBase ≤ v then .ok (spAddr k (v - localBase), false, s)
  else
    match s.page k v with
    | .error x => .error x
    | .ok (e, s1) => if (wr && !e.w) || !s.leafUp e then .error .fault else .ok (e.pa + v % 2 ^ e.bits, e.repl, s1)

/-- The state after an access that failed translation: a walk that it took counts too, and nothing is cached (R165, R166). -/
def State.noteWalk (s : State) (k : Nat) (va : Word) : State :=
  if localBase ≤ va.toNat || !s.xlV then s
  else
    match s.page k va.toNat with
    | .error _ => { s with walks := s.walks + 1 }
    | .ok (_, s1) => { s with walks := s1.walks, walkNow := s1.walkNow }

/-- The replica that an agent on a die reads (R183, R185). -/
def State.replica (s : State) (die pa : Nat) : Nat :=
  if die < 16 && !s.replWait.contains die then pa % 2 ^ 36 + die * 2 ^ 36 else pa

/-- A replicated page's mark on a physical address held by an engine. -/
def replFlag : Nat := 2 ^ 48

/-! ### Locks and the commit buffer (R121 to R123) -/

/-- Whether a command of the quad locks a scratchpad word of cell k. -/
def State.locked (s : State) (k word : Nat) : Bool :=
  (s.quadAt (quadOf k)).cmds.any (fun c => c.cell == k && c.locks.contains word)

/-- Whether a physical address lies in a locked word. -/
def State.lockedPa (s : State) (pa : Nat) : Bool := inSp pa && s.locked (spCell pa) (spOff pa / 64)

/-- Whether a change to a 64-byte word of a scratchpad must wait in the commit buffer (R122): the word is locked, or an earlier entry to it is
held, other than a reducing write whose turn has not come. -/
def State.wordHeld (s : State) (pa : Nat) : Bool :=
  s.lockedPa pa || (inSp pa && (s.cellAt (spCell pa)).cbuf.any (fun e => e.2.word == spOff pa / 64 && (e.2.kind != 3 || e.2.lock)))

/-- A free commit-buffer entry of the part open to every write but a drain's (R123). -/
def Cell.freeEntry (c : Cell) : Option Nat := ((List.range 512).map (· + 512)).find? (fun e => !c.cbuf.any (fun x => x.1 == e))

/-- The next place in the order of entry. -/
def Cell.nextOrder (c : Cell) : Nat := c.cbuf.foldl (fun m e => max m (e.2.order + 1)) 0

/-- Bytes placed within a 64-byte word. -/
def wordData (off : Nat) (bs : List Byte) : BitVec 512 := BitVec.ofNat 512 (ofLe bs * 2 ^ (8 * off))

/-- The byte mask of n bytes from off. -/
def wordMask (off n : Nat) : BitVec 64 := BitVec.ofNat 64 ((2 ^ n - 1) * 2 ^ off)

/-- The masked bytes of a held entry, with their offsets. -/
def Held.bytes (h : Held) : List (Nat × Byte) :=
  ((List.range 64).filter (fun i => h.mask.getLsbD i)).map (fun i => (i, (h.data >>> (8 * i)).truncate 8))

/-- How a write to one 64-byte word went. -/
inductive WriteRes where
  | done
  | held
  | full
  | bad
deriving DecidableEq, Repr

/-- A write to one 64-byte word at its home: held while the word is locked (R122), not performed when it would merge into an
uncorrectable word (R425). `h` carries the kind, the sequencer and whom to tell. -/
def State.writeWord (s : State) (pa : Nat) (bs : List Byte) (h : Held) : State × WriteRes :=
  if s.wordHeld pa then
    let k := spCell pa
    let c := s.cellAt k
    match c.freeEntry with
    | none => (s, .full)
    | some e =>
      let h1 := { h with word := spOff pa / 64, lock := true, mask := wordMask (pa % 64) bs.length, data := wordData (pa % 64) bs,
                         order := c.nextOrder }
      (s.setCell k { c with cbuf := NatMap.ins c.cbuf e h1 }, .held)
  else (s.poke pa bs, if s.badWrite pa bs.length then .bad else .done)

/-- A run of bytes written word by word; answers the address of the first word that was uncorrectable in part, and whether
some word found no entry. -/
def State.writeRun (s : State) (pa : Nat) (bs : List Byte) (h : Held) : State × Option Nat × Bool :=
  (splitWords (bs.length + 1) pa bs).foldl (fun (s, bad, full) (a, b) =>
    let (s1, r) := s.writeWord a b h
    (s1, if r = .bad then bad.or (some a) else bad, full || decide (r = .full))) (s, none, false)

/-! ### What a sequencer's own stores hide (R107, R122, R170) -/

/-- A held store that a sequencer has itself made: those of its `tst` and of vector commands belong to other threads (R169). -/
def Held.madeBy (h : Held) (k : Nat) (q : SeqId) : Bool := h.seq == some q && h.cell == k && h.owner == .none

/-- The stores of a sequencer that are held in commit buffers, in the order they entered. -/
def State.heldStores (s : State) (k : Nat) (q : SeqId) : List (Nat × List Byte) :=
  s.cells.flatMap (fun e =>
    (sortBy (fun a b => decide (a.2.order ≤ b.2.order)) (e.2.cbuf.filter (fun h => h.2.madeBy k q))).flatMap (fun h =>
      h.2.bytes.map (fun (i, b) => (spAddr e.1 (h.2.word * 64 + i), [b]))))

/-- The stores of a sequencer that are not performed and not held, oldest first: on the mesh, at the replica sequencer, in check
slots. -/
def State.flyingStores (s : State) (k : Nat) (q : SeqId) : List (Nat × List Byte) :=
  let mesh := s.pairs.flatMap (fun p => p.2.unacked.filterMap (fun r =>
    match r.op with
    | .write bs => if r.cell == k && r.seq == q then some (r.pa, bs) else none
    | _ => none))
  let repl := s.replicas.filterMap (fun r =>
    match r.op with
    | .write bs => if r.cell == k && r.seq == q then some (r.pa, bs) else none
    | _ => none)
  let slots := ((s.cellAt k).seq q).slots.filterMap (fun x =>
    match x.item with
    | .store pa bs _ _ _ _ => some (pa, bs)
    | _ => none)
  mesh ++ repl ++ slots

/-- The stores of a sequencer that have left it and are not performed: held, and on their way. -/
def State.ownStores (s : State) (k : Nat) (q : SeqId) : List (Nat × List Byte) := s.heldStores k q ++ s.flyingStores k q

/-- A run of bytes overlaid by a store. -/
def overlay (pa : Nat) (bs : List Byte) (st : Nat × List Byte) : List Byte :=
  bs.zipIdx.map (fun (b, i) => if st.1 ≤ pa + i && pa + i < st.1 + st.2.length then st.2.getD (pa + i - st.1) b else b)

/-- n bytes as the sequencer that asks sees them (R107, R122). -/
def State.seenBytes (s : State) (k : Nat) (q : SeqId) (pa n : Nat) : List Byte :=
  (s.ownStores k q).foldl (overlay pa) (s.bytesAt pa n)

/-- Whether some store of the sequencer that is not performed satisfies p (class), outside held ones when `held` is false. -/
def State.pendingStore (s : State) (k : Nat) (q : SeqId) (p : StoreClass → Nat → Nat → Bool) : Bool :=
  s.pairs.any (fun e => e.2.unacked.any (fun r => r.cell == k && r.seq == q &&
    (match r.op with | .write bs => p r.cls r.pa bs.length | _ => false))) ||
  s.replicas.any (fun r => r.cell == k && r.seq == q && (match r.op with | .write bs => p r.cls r.pa bs.length | _ => false)) ||
  ((s.cellAt k).seq q).slots.any (fun x => match x.item with | .store pa bs cls _ _ _ => p cls pa bs.length | _ => false)

/-- Whether a store of the sequencer is held in a commit buffer. -/
def State.heldStore (s : State) (k : Nat) (q : SeqId) : Bool := s.cells.any (fun c => c.2.cbuf.any (fun e => e.2.madeBy k q))

/-- Whether no store of the sequencer that is not performed overlaps n bytes at pa: a command that it forked may then access them
(R177, R170). -/
def State.forkClear (s : State) (k : Nat) (q : SeqId) (pa n : Nat) : Bool :=
  !s.pendingStore k q (fun _ a m => decide (a < pa + n) && decide (pa < a + m)) &&
  !(s.heldStores k q).any (fun x => decide (pa ≤ x.1) && decide (x.1 < pa + n))

/-- Whether data that an own load of n bytes at pa would be given from a held store are uncorrectable (R425). -/
def State.heldBad (s : State) (k : Nat) (q : SeqId) (pa n : Nat) : Bool :=
  s.cells.any (fun c => c.2.cbuf.any (fun e => e.2.bad != 0 && e.2.madeBy k q &&
    e.2.bytes.any (fun x => e.2.bad.getLsbD (x.1 / 8) && decide (pa ≤ spAddr c.1 (e.2.word * 64 + x.1)) && decide (spAddr c.1 (e.2.word * 64 + x.1) < pa + n))))

/-- Whether every store the sequencer made is performed (R332). -/
def State.storesDone (s : State) (k : Nat) (q : SeqId) : Bool :=
  !s.pendingStore k q (fun _ _ _ => true) && !s.heldStore k q

/-! ### The mesh (R14 to R20) -/

/-- Column and row of a compute die (R8). -/
def colOf (d : Nat) : Nat := d % 4
def rowOf (d : Nat) : Nat := d / 4

/-- The edge between two neighbouring dies (R34). -/
def edgeOf (a b : Nat) : Option Nat :=
  if a < 16 && b < 16 then
    if rowOf a = rowOf b && (b = a + 1 || a = b + 1) then some (3 * rowOf a + min (colOf a) (colOf b))
    else if b = a + 4 || a = b + 4 then some (12 + min a b)
    else none
  else
    let (c, r) := if a < 16 then (a, b) else (b, a)
    if r = 16 && rowOf c = 0 then some (24 + colOf c)
    else if r = 17 && colOf c = 3 then some (28 + rowOf c)
    else if r = 18 && rowOf c = 3 then some (32 + colOf c)
    else if r = 19 && colOf c = 0 then some (36 + rowOf c)
    else none

/-- The two dies of an edge (R34). -/
def edgeDies (e : Nat) : Nat × Nat :=
  if e < 12 then (4 * (e / 3) + e % 3, 4 * (e / 3) + e % 3 + 1)
  else if e < 24 then (e - 12, e - 8)
  else if e < 28 then (e - 24, 16)
  else if e < 32 then (4 * (e - 28) + 3, 17)
  else if e < 36 then (12 + (e - 32), 18)
  else (4 * (e - 36), 19)

/-- The dies from one compute die to another along its row then its column, or the other way (R14, R16), the first left out. -/
def pathIn (colFirst : Bool) (a b : Nat) : List Nat :=
  let stepTo (x y : Nat) : List Nat := if x ≤ y then (List.range (y - x)).map (fun i => x + i + 1) else (List.range (x - y)).map (fun i => x - i - 1)
  if colFirst then
    (stepTo (rowOf a) (rowOf b)).map (fun y => 4 * y + colOf a) ++ (stepTo (colOf a) (colOf b)).map (fun x => 4 * rowOf b + x)
  else
    (stepTo (colOf a) (colOf b)).map (fun x => 4 * rowOf a + x) ++ (stepTo (rowOf a) (rowOf b)).map (fun y => 4 * y + colOf b)

/-- The compute die through which a rim die reaches the column or row of a compute die (R14). -/
def rimGate (rim d : Nat) : Nat :=
  match rim with
  | 16 => colOf d
  | 17 => 4 * rowOf d + 3
  | 18 => 12 + colOf d
  | _ => 4 * rowOf d

/-- Entry and exit dies between rim dies (R14). -/
def rimToRim (a b : Nat) : Nat × Nat :=
  match a, b with
  | 16, 17 => (3, 3)
  | 17, 16 => (3, 3)
  | 17, 18 => (15, 15)
  | 18, 17 => (15, 15)
  | 18, 19 => (12, 12)
  | 19, 18 => (12, 12)
  | 19, 16 => (0, 0)
  | 16, 19 => (0, 0)
  | 16, 18 => (1, 13)
  | 18, 16 => (13, 1)
  | 17, 19 => (11, 8)
  | _, _ => (8, 11)

/-- The dies of a route, both ends included (R14, R16). -/
def route (colFirst : Bool) (s d : Nat) : List Nat :=
  if s = d then [s]
  else if s < 16 && d < 16 then s :: pathIn colFirst s d
  else if s < 16 then s :: pathIn colFirst s (rimGate d s) ++ [d]
  else if d < 16 then s :: rimGate s d :: pathIn colFirst (rimGate s d) d
  else let (a, b) := rimToRim s d; s :: a :: pathIn colFirst a b ++ [d]

/-- The edges along a list of dies, each with the die that receives. -/
def edgesOf : List Nat → List (Nat × Nat)
  | a :: b :: l => (match edgeOf a b with | some e => [(e, b)] | none => []) ++ edgesOf (b :: l)
  | _ => []

/-- The number of a link register: receiving die, edge, module. -/
def linkKey (die edge m : Nat) : Nat := (die * 64 + edge) * 8 + m

/-- A direction of a module. -/
def State.linkAt (s : State) (die edge m : Nat) : Link := NatMap.get {} s.links (linkKey die edge m)

/-- The state with a direction of a module replaced. -/
def State.setLink (s : State) (die edge m : Nat) (l : Link) : State := { s with links := NatMap.put {} s.links (linkKey die edge m) l }

/-- Whether a module is active in both directions. -/
def State.modUp (s : State) (edge m : Nat) : Bool :=
  let (a, b) := edgeDies edge
  decide ((s.linkAt a edge m).st = 2) && decide ((s.linkAt b edge m).st = 2)

/-- Whether an edge has an active module (R16). -/
def State.edgeUp (s : State) (edge : Nat) : Bool := (List.range 8).any (s.modUp edge)

/-- The active module of a pair on an edge: its home module, else the next (R15). -/
def State.moduleFor (s : State) (src dst edge : Nat) : Option Nat :=
  ((List.range 8).map (fun i => ((src + dst) % 8 + i) % 8)).find? (s.modUp edge)

/-- The route that a pair takes now, if it has one: dimension order, else column first (R14, R16). -/
def State.routeOf (s : State) (src dst : Nat) : Option Bool :=
  if src = dst then some false
  else if !s.dieUp src || !s.dieUp dst then none
  else if (edgesOf (route false src dst)).all (fun e => s.edgeUp e.1) then some false
  else if (edgesOf (route true src dst)).all (fun e => s.edgeUp e.1) then some true
  else none

/-- Whether one die can reach another (R16). -/
def State.reaches (s : State) (src dst : Nat) : Bool := (s.routeOf src dst).isSome

/-- The modules that a pair with nothing unacknowledged takes on the edges of its route (R15). -/
def State.homeMods (s : State) (src dst : Nat) (colFirst : Bool) : NatMap Nat :=
  (edgesOf (route colFirst src dst)).foldl (fun m e => match s.moduleFor src dst e.1 with | some x => NatMap.ins m e.1 x | none => m) []

/-- The launch whose group a cell holds; a rim die's agents have none. -/
def State.userOf (s : State) (k : Nat) : Option Nat := (s.cellAt k).bound.map (fun b => b.launch)

/-- A pair that a launch uses (R16). -/
def Pair.use (p : Pair) (u : Option Nat) : Pair := { p with users := p.users ++ u.toList.filter (fun x => !p.users.contains x) }

/-- A pair used by a launch, where the two dies differ. -/
def State.usePair (s : State) (src dst : Nat) (u : Option Nat) : State :=
  if src = dst || u.all (fun x => (s.pairAt src dst).users.contains x) then s else s.setPair src dst ((s.pairAt src dst).use u)

/-- A request that takes the pair's next number and is sent (R17); with nothing unacknowledged the pair is at its home modules (R15). -/
def State.number (s : State) (src dst : Nat) (r : MeshReq) : State :=
  let p := s.pairAt src dst
  s.setPair src dst { p.use r.user with
    next := p.next + 1,
    mods := if p.unacked.isEmpty then s.homeMods src dst p.colFirst else p.mods,
    unacked := p.unacked ++ [{ r with q := p.next, sends := 1, sent := s.cycle }] }

/-- A request of a sequencer put on the mesh (R17): its number; none when 256 are unacknowledged. -/
def State.request (s : State) (src dst : Nat) (pa : Nat) (op : MemOp) (k : Nat) (q : SeqId) (cls : StoreClass) (pc va : Word) (born : Nat := 0) :
    Option (BitVec 16 × State) :=
  let p := s.pairAt src dst
  if 256 ≤ p.unacked.length then none
  else some (p.next, s.number src dst { q := 0, pa := pa, op := op, cell := k, seq := q, cls := cls, pc := pc, va := va, sends := 0, sent := 0, user := s.userOf k, born := born })

/-- Requests that wait at their source take numbers as far as 256 unacknowledged ones allow (R17). -/
def State.refill (s : State) (src dst : Nat) : State :=
  let p := s.pairAt src dst
  let n := 256 - p.unacked.length
  if p.backlog.isEmpty || n = 0 then s
  else (p.backlog.take n).foldl (fun s r => s.number src dst r) (s.setPair src dst { p with backlog := p.backlog.drop n })

/-- A request of agent k for what is kept under another number, not yet sent. -/
def carriedReq (k pa : Nat) (user : Option Nat) (o : Owner) : MeshReq :=
  { q := 0, pa := pa, op := .carry 0, cell := k, seq := .K, cls := .relaxed, pc := 0, va := 0, sends := 0, sent := 0, user := user, owner := o }

/-- What agent k on one die sends to another die is given to a request of the pair (R17): the number it is kept under, 0 within one die. -/
def State.carry (s : State) (k dst : Nat) (r : MeshReq) : Nat × State :=
  let src := k / 64
  if src = dst then (0, s)
  else
    let n := s.netNext
    let r1 := { r with op := .carry n }
    let p := s.pairAt src dst
    let s1 := { s with netNext := n + 1 }
    (n, if p.unacked.length < 256 then s1.number src dst r1 else s1.setPair src dst { p with backlog := p.backlog ++ [r1] })

/-- The die that a physical address is sent to: the replica sequencer's for a replicated page (R184). -/
def carryDie (pa : Nat) : Nat := if replFlag ≤ pa then 16 else homeDie pa

/-- One mebibyte, the unit of a copy's progress (R247). -/
def miB : Nat := 0x100000

/-- Neighbouring runs of bytes joined. -/
def joinRuns : List (Nat × List Byte) → List (Nat × List Byte)
  | [] => []
  | (a, bs) :: l =>
    match joinRuns l with
    | (b, cs) :: rest => if b = a + bs.length then (a, bs ++ cs) :: rest else (a, bs) :: (b, cs) :: rest
    | [] => [(a, bs)]

/-- A run cut into pieces of at most 1 MiB, at aligned 8-byte words so that none is written in two parts (R168, R204). -/
def cutRun : Nat → Nat → List Byte → List (Nat × List Byte)
  | 0, a, bs => [(a, bs)]
  | n + 1, a, bs =>
    let m := miB - (a + miB) % 8
    if bs.length ≤ miB then [(a, bs)] else (a, bs.take m) :: cutRun n (a + m) (bs.drop m)

/-- Writes put on their way to their homes by agent k (R17, R198): neighbouring bytes are one write, cut only between 64-byte words, so that no aligned
word is written in two parts (R168). -/
def State.sendWrites (s : State) (k : Nat) (user : Option Nat) (o : Owner) (l : List (Nat × List Byte)) (win : Option (Nat × Nat) := none) : State :=
  ((joinRuns l).flatMap (fun p => splitWords (p.2.length + 1) p.1 p.2)).foldl (fun s (pa, bs) =>
    let (n, s1) := s.carry k (carryDie pa) (carriedReq k pa user o)
    { s1 with inWrites := s1.inWrites ++ [{ pa := pa, bytes := bs, owner := o, net := n, win := win }] }) s

/-- An element that a unit of cell k stores on another die, on its way there (R17): the sequencer that it belongs to, its word index and address. -/
def State.sendElement (s : State) (k pa : Nat) (bs : List Byte) (q : SeqId) (o : Owner) (pc va : Word) : State :=
  let (n, s1) := s.carry k (carryDie pa) { carriedReq k pa (s.userOf k) o with seq := q, pc := pc, va := va }
  { s1 with inWrites := s1.inWrites ++ [{ pa := pa, bytes := bs, owner := o, net := n, unit? := some (q, k, pc, va) }] }

/-- A read of n bytes sent by agent k to another die (R17): element idx of what an owner reads. -/
def State.ask (s : State) (k : Nat) (user : Option Nat) (o : Owner) (idx pa n : Nat) (q : Option (Nat × SeqId)) : State :=
  let (num, s1) := s.carry k (homeDie pa) (carriedReq k pa user .none)
  { s1 with asks := s1.asks ++ [{ owner := o, idx := idx, pa := pa, n := n, num := num, seq := q }] }

/-- Whether a read of an owner has been sent. -/
def State.asked (s : State) (o : Owner) (idx : Nat) : Bool := s.asks.any (fun a => a.owner == o && a.idx == idx)

/-- The read of an element whose home is another die put on the mesh, unless it has been (R10, R17); q: the sequencer whose own held stores it sees. -/
def State.sendAsk (s : State) (k : Nat) (user : Option Nat) (o : Owner) (idx pa : Nat) (repl : Bool) (n : Nat) (q : Option (Nat × SeqId)) : State :=
  let at' := if repl then s.replica (k / 64) pa else pa
  if homeDie at' = k / 64 || s.asked o idx then s else s.ask k user o idx at' n q

/-- The reads of an owner given up, or used. -/
def State.dropAsks (s : State) (o : Owner) : State := { s with asks := s.asks.filter (fun a => a.owner != o) }

/-- A message of an exchange from agent k to a die of the package (R17). -/
def State.sendMsg (s : State) (k dst : Nat) (user : Option Nat) (m : XMsg) : State :=
  let (n, s1) := s.carry k dst (carriedReq k 0 user .none)
  if n = 0 then { s1 with xmsgs := s1.xmsgs ++ [m] } else { s1 with xnet := s1.xnet ++ [(n, m)] }

/-- A reducing write put on its way to its home by agent k (R17, R200). -/
def State.sendReduce (s : State) (k : Nat) (user : Option Nat) (w : RedWrite) : State :=
  let pa := (w.parts.map (fun x => x.1)).headD 0
  let (n, s1) := s.carry k (carryDie pa) (carriedReq k pa user w.owner)
  { s1 with redNext := s1.redNext + 1, redWrites := s1.redWrites ++ [{ w with id := s1.redNext, net := n, parts := joinRuns w.parts }] }

/-- The rim die of a counter (R191). -/
def ctrDie (cid : BitVec 14) : Nat := 16 + cid.toNat / 4096

/-- The cycles of the mesh hops between two dies, each way. -/
def State.hopTime (s : State) (a b : Nat) : Nat := 128 * (edgesOf (route ((s.routeOf a b).getD false) a b)).length

/-- A counter increment sent towards its engine by agent k (R194, R17); of a launch at D2 it is applied at the declared latency of a counter access
(R234, R238; log entry 182). -/
def State.sendInc (s : State) (k : Nat) (user : Option Nat) (cid : BitVec 14) (amount fold : Word) : State :=
  let (n, s1) := s.carry k (ctrDie cid) { carriedReq k 0 user .none with inc := some (cid, amount) }
  let decl := (user.filter (fun key => (s.launch? key).any (fun l => l.level == 2))).map (fun key => (key, k, s.cycle + 96 + s.hopTime (k / 64) (ctrDie cid)))
  { s1 with incs := s1.incs ++ [{ cid := cid, amount := amount, fold := fold, net := n, decl := decl }] }

/-- An update of a replicated page on its way to the replica sequencer (R184). -/
def State.sendReplica (s : State) (u : ReplicaUpd) : State :=
  let store := match u.op with | .write _ => true | _ => false
  let (n, s1) := s.carry u.cell 16 { carriedReq u.cell u.pa (s.userOf u.cell) (.update store) with seq := u.seq, pc := u.pc, va := u.va }
  { s1 with replicas := s1.replicas ++ [{ u with net := n }] }

/-- What a read finds at its home (R132, R122). -/
def State.homeRead (s : State) (a : Ask) : EngRead :=
  if s.badRead a.pa a.n then .bad
  else
    match a.seq with
    | none => .ok (s.bytesAt a.pa a.n)
    | some (k, q) => if s.heldBad k q a.pa a.n then .bad else .ok ((s.heldStores k q).foldl (overlay a.pa) (s.bytesAt a.pa a.n))

/-- What a request has carried is at its home; a read is made there. -/
def State.deliver (s : State) (n : Nat) : State :=
  { s with asks := s.asks.map (fun (a : Ask) => if a.num = n && a.ans.isNone then { a with ans := some (s.homeRead a) } else a),
           xmsgs := s.xmsgs ++ ((s.xnet.filter (fun x => x.1 == n)).map (fun x => x.2)).filter (fun m => match m with | .heartbeat _ => false | _ => true),
           xslots := s.xslots.map (fun (x : Nat × XSlot) =>
             if x.2.standby && s.xnet.any (fun m => m.1 == n && m.2 == .heartbeat x.2.xid) then (x.1, { x.2 with beat := s.cycle }) else x),
           xnet := s.xnet.filter (fun x => x.1 != n),
           inWrites := s.inWrites.map (fun (w : InWrite) => if w.net = n then { w with net := 0 } else w),
           parkedIn := s.parkedIn.map (fun x => if x.2.2.net = n then (x.1, x.2.1, { x.2.2 with net := 0 }) else x),
           parkedRed := s.parkedRed.map (fun x => if x.2.2.net = n then (x.1, x.2.1, { x.2.2 with net := 0 }) else x),
           redWrites := s.redWrites.map (fun (w : RedWrite) => if w.net = n then { w with net := 0 } else w),
           incs := s.incs.map (fun (i : Inc) => if i.net = n then { i with net := 0 } else i),
           engines := s.engines.map (fun (g : Nat × Engine) => (g.1, { g.2 with arming := g.2.arming.map (fun (a : Arming) => if a.net = n then { a with net := 0 } else a) })),
           replicas := s.replicas.map (fun (u : ReplicaUpd) => if u.net = n then { u with net := 0 } else u) }

/-- 20 µs and 10 µs in cycles (R18, R123). -/
def resendTime : Nat := 45000
def holdTime : Nat := 22500

/-- Whether a request that has been made since a cycle to a home that cannot be reached has been sent eight times (R19): a resend each 20 µs
since then, or since the pair was cut. -/
def State.gone (s : State) (src dst since : Nat) : Bool :=
  !s.reaches src dst && decide (max since ((s.pairAt src dst).cut.getD 0) + 8 * resendTime ≤ s.cycle)

/-- Whether such a request is still being sent. -/
def State.trying (s : State) (src dst since : Nat) : Bool := !s.reaches src dst && !s.gone src dst since

/-! ### Atomic operations at their home (R333) -/

/-- The new value of an atomic, none for a `cas` that fails. -/
def atomNew (op w : Nat) (old y c : Nat) : Option Nat :=
  let sg (x : Nat) : Int := sxInt x w
  match op with
  | 0 => some y
  | 1 => some ((old + y) % 2 ^ w)
  | 2 => some (old &&& y)
  | 3 => some (old ||| y)
  | 4 => some (old ^^^ y)
  | 5 => some (if sg old < sg y then y else old)
  | 6 => some (max old y)
  | _ => if old = c then some y else none

/-- An atomic performed at its home: the old value, and the state after. -/
def State.atomicAt (s : State) (pa op n : Nat) (y c : Word) : Word × State :=
  let w := 8 * n
  let old := ofLe (s.bytesAt pa n)
  (BitVec.ofNat 64 old,
   match atomNew op w old (y.toNat % 2 ^ w) (c.toNat % 2 ^ w) with
   | none => s
   | some v => s.poke pa (leBytes n v))

/-! ### Issue (R86, R246, R255) -/

/-- Why an instruction does not retire in this step: a precise trap; a wait that counts as blocked (R255, R257); a wait of
ordering or locks that counts for no bound; or an access that has left for another die. -/
inductive Halt where
  | trap (cause : BitVec 8) (val : Word)
  | block (kind index : Nat)
  | stall
  | hold (f : State → State)

/-- The effects of an instruction, kept only when it retires (R246). -/
abbrev M (α : Type) := StateT State (Except Halt) α

def raise {α : Type} (cause : BitVec 8) (val : Word) : M α := fun _ => .error (.trap cause val)
def waitFor {α : Type} (kind index : Nat) : M α := fun _ => .error (.block kind index)
def stallNow {α : Type} : M α := fun _ => .error .stall
def holdWith {α : Type} (f : State → State) : M α := fun _ => .error (.hold f)
def unless' (b : Bool) (m : M Unit) : M Unit := if b then pure () else m

/-- Trap causes (R245). -/
def tcIllegalOp : BitVec 8 := 0x01
def tcIllegalReg : BitVec 8 := 0x02
def tcMisaligned : BitVec 8 := 0x03
def tcFetch : BitVec 8 := 0x04
def tcLoad : BitVec 8 := 0x05
def tcStore : BitVec 8 := 0x06
def tcPriv : BitVec 8 := 0x07
def tcCycleBound : BitVec 8 := 0x08
def tcWaitBound : BitVec 8 := 0x09
def tcArray : BitVec 8 := 0x0A
def tcLease : BitVec 8 := 0x0B
def tcUncorrectable : BitVec 8 := 0x0C
def tcDivZero : BitVec 8 := 0x0D
def tcTrapInsn : BitVec 8 := 0x0E
def tcBreak : BitVec 8 := 0x0F
def tcRlcExit : BitVec 8 := 0x10
def tcTemplate : BitVec 8 := 0x11
def tcTag : BitVec 8 := 0x12
def tcColl : BitVec 8 := 0x15

/-- All ones: no taken branch led there (R245); the miss results of `remqt` and `grow`. -/
def allOnes : Word := 0xFFFFFFFFFFFFFFFF

/-- PBSTATE after one covered instruction (R307, R308). -/
def PbState.next (p : PbState) : PbState := if p.rem ≤ 1 then {} else { p with rem := p.rem - 1, pat := p.pat >>> 1 }

/-- Whether the next covered instruction executes (R307). -/
def PbState.executes (p : PbState) : Bool := p.pat.getLsbD 0 == p.pv

/-! ### Traps (R245 to R253) -/

/-- The entry of a walk that is uncorrectable (R132). -/
def State.walkBad (s : State) (va : Nat) : Nat → Nat → Option Nat
  | 0, _ => none
  | level + 1, table =>
    let at' := table + 8 * pageIndex level va
    let e := ofLe (s.bytesAt at' 8)
    if table % tableSize level ≠ 0 || !paMapped table then none
    else if s.badRead at' 8 then some at'
    else if !e.testBit 0 || e.testBit 1 then none
    else s.walkBad va level (e / 256 % 2 ^ 40 * 256)

/-- Where the uncorrectable word lies that an instruction of a sequencer met at an address (R132): in memory or in what is held for it, in a page table, at
an offset of its own scratchpad; none where it is in the cell's tagged store. -/
def State.whereBad (s : State) (k : Nat) (q : SeqId) (val : Word) : Option Nat :=
  match s.translate k val false with
  | .error .bad => s.walkBad val.toNat 4 (s.xlRoot.toNat * 2 ^ 20)
  | .error .fault => if val.toNat < 2 ^ 22 && s.badRead (spAddr k val.toNat) 128 then some (spAddr k val.toNat) else none
  | .ok (pa, repl, _) =>
    let at' := if repl then s.replica (k / 64) pa else pa
    if s.badRead at' 8 || s.heldBad k q pa 8 then some at'
    else if val.toNat < 2 ^ 22 && s.badRead (spAddr k val.toNat) 128 then some (spAddr k val.toNat) else none

/-- The event of an uncorrectable word that an instruction has met, in the box of the die whose controller finds it (R132, R266). -/
def State.logPrecise (s : State) (val : Word) : State :=
  match s.whereBad s.here s.site.seq val with
  | some pa => s.logBad s.here pa 0
  | none => s.logOwn s.here val 0

/-- What K's instruction that has not issued leaves behind when its cell stops (R246, R247, R255): an arrival at a barrier stands (R328); the drain of a phase
begins afresh when it issues again, and a grow that its window has not applied is withdrawn (R80). -/
def State.withdraw (s : State) (k : Nat) : State :=
  match (s.cellAt k).joined, (s.cellAt k).bound with
  | some (.drain _ _), _ => s.modCell k (fun c => { c with joined := none })
  | some (.grow _ n), some b =>
    if (s.launch? b.launch).any (fun l => l.grows.any (fun r => r.serial == n && r.result.isNone)) then
      (s.modCell k (fun c => { c with joined := none })).modLaunch b.launch (fun l => { l with grows := l.grows.filter (fun r => r.serial != n) })
    else s
  | _, _ => s

/-- A cell that begins to stop for a trap (R247). -/
def State.startStop (s : State) (k : Nat) (t : TrapRec) : State :=
  (s.withdraw k).modCell k (fun c => { c with stop := some (.trap t s.cycle), drainAt := none })

/-- A precise trap of the sequencer whose turn it is: the stop begins. An instruction that had issued before an earlier stop
has no effect and raises nothing of its own (R247). Of two precise traps in one cycle the first in the order K, L, C, S is
taken (R248). An uncorrectable word leaves its black-box event (R132). -/
def State.precise (s : State) (cause : BitVec 8) (val : Word) : State :=
  let q := s.site.seq
  let s0 := (if cause = tcUncorrectable then s.logPrecise val else s).dropAsks (.words s.here q)
  let s1 := s0.modSeq (fun x => { x with blocked := none, access := none, tried := none })
  let t : TrapRec := ⟨cause, false, s.curSeq.pc, q, val⟩
  match s.cur.stop with
  | none => s1.startStop s.here t
  | some (.trap t0 since) =>
    if since = s.cycle && !t0.defer && decide (q.num < t0.seq.num) then
      s1.modCell s.here (fun c => { c with stop := some (.trap t since) })
    else s1
  | some _ => s1

/-- Copies of a cell end CANCELLED at their next boundary (R253, R427): the model marks them. -/
def cancelCopies (c : Cell) : Cell := { c with copies := c.copies.map (fun x => { x with cancelled := true }) }

/-- A launch becomes FAULTED (R56, R57): the event on the failing cell's die, and the other launches of its fault domain
are cancelled. -/
def State.stopLaunch (s : State) (key : Nat) (st : Stop) (f : Launch → Launch) : State :=
  match s.launch? key with
  | none => s
  | some l =>
    let s1 := s.modLaunch key f
    l.bound.foldl (fun s e => s.modCell e.2 (fun c =>
      match c.stop with
      | some .faulted => c
      | some .machineCheck => c
      | _ => { cancelCopies c with stop := some st, pend := [], remq := [] })) s1

/-- The launch with every group not yet bound struck off (R56), and no grow of it applied any more (R427). -/
def noMoreBinds (st : LaunchStatus) (l : Launch) : Launch :=
  { l with grows := [], status := if l.status = .running then st else l.status, next := l.groups, saved := [],
           ended := l.ended ++ l.saved.map (fun x => x.group) }

/-- A launch of key FAULTED with the group and cause of the failing cell k. -/
def State.faultLaunch (s : State) (k key group : Nat) (cause : Nat) (entry : Word) : State :=
  match s.launch? key with
  | none => s
  | some l =>
    if l.status ≠ .running then s
    else
      let s1 := s.bbox (k / 64) (bbEvent s.cycle 0x07 cause l.num.toNat group (k % 64) 0 (BitVec.ofNat 64 group) entry)
      let s2 := s1.stopLaunch key .cancelled (noMoreBinds .faulted)
      if l.fdom = 0 then s2
      else
        (s.launches.filter (fun o => o.key != key && o.fdom == l.fdom)).foldl
          (fun s o => s.stopLaunch o.key .cancelled (noMoreBinds .cancelled)) s2

/-- An unhandled trap (R253): the group ends, the event of type 0x01 is written and the launch becomes FAULTED. -/
def State.unhandled (s : State) (k : Nat) (t : TrapRec) : State :=
  let s1 := s.bboxCell k 0x01 t.cause.toNat t.pc t.val
  let s2 := s1.modCell k (fun c => { cancelCopies c with stop := some .faulted, pend := [], remq := [], tin := false })
  match (s.cellAt k).bound with
  | none => s2
  | some b => s2.faultLaunch k b.launch b.group t.cause.toNat 0

/-- A deferred trap (R246, R248): it starts the stop, or joins the pending list; a 17th ends the group. -/
def State.deferred (s : State) (k : Nat) (cause : BitVec 8) (q : SeqId) (pc val : Word) : State :=
  let c := s.cellAt k
  let t : TrapRec := ⟨cause, true, pc, q, val⟩
  if c.bound.isNone then s
  else
    match c.stop with
    | none =>
      if c.tin then (if 16 ≤ c.pend.length then s.unhandled k t else s.modCell k (fun c => { c with pend := c.pend ++ [t] }))
      else s.startStop k t
    | some (.trap _ _) => if 16 ≤ c.pend.length then s.unhandled k t else s.modCell k (fun c => { c with pend := c.pend ++ [t] })
    | some .preempt => if 16 ≤ c.pend.length then s.unhandled k t else s.modCell k (fun c => { c with pend := c.pend ++ [t] })
    | some _ => s

/-- A machine check on a cell (R108, R258): every sequencer stops at once, nothing leaves a check slot, the box records the
event and freezes, and the launch becomes FAULTED. -/
def State.machineCheck (s : State) (k code : Nat) (d0 d1 : Word) : State :=
  let s1 := (s.bboxCell k 0x02 code d0 d1).freeze (k / 64)
  let empty (x : Seq) : Seq := { x with slots := [], blocked := none, access := none, tried := none }
  let gone : List Nat := [SeqId.K, .L, .C, .S].flatMap (fun q => ((s.cellAt k).seq q).slots.filterMap (fun x =>
    match x.item with | .command id => some id | _ => none))
  let s2 := s1.modCell k (fun c => { c with
    stop := some .machineCheck, k := empty c.k, l := empty c.l, c := empty c.c, s := empty c.s, pend := [], remq := [],
    copies := c.copies.filter (fun x => !(x.inSlot && gone.contains x.id)),
    tensors := c.tensors.filter (fun x => !(x.inSlot && gone.contains x.id)),
    vcmds := c.vcmds.filter (fun x => !(x.inSlot && gone.contains x.id)), chains := c.chains.filter (fun x => !gone.contains x.2.poster.id) })
  let s3 := s2.modQuad (quadOf k) (fun q => { q with cmds := q.cmds.filter (fun x => !(x.cell == k && x.inSlot && gone.contains x.id)) })
  match (s.cellAt k).bound with
  | none => s3
  | some b => s3.faultLaunch k b.launch b.group code 0

/-- The word index at which a sequencer resumes (R250): the trapping instruction, but the next word after `trap` and `break`. -/
def resumePc (t : TrapRec) (q : SeqId) (pc : Word) : Word :=
  if t.seq = q && !t.defer && (t.cause = tcTrapInsn || t.cause = tcBreak) then pc + 1 else pc

/-- take_trap (R250): the handler registers are written and K enters the handler; with no handler, or inside one, the trap is
unhandled (R253). -/
def State.takeTrap (s : State) (k : Nat) (t : TrapRec) : State :=
  let c := s.cellAt k
  if !c.tvecEn || c.tin then s.unhandled k t
  else s.setCell k { c with
    tcause := t.cause, tdefer := t.defer, tpc := t.pc, tseq := BitVec.ofNat 2 t.seq.num, tval := t.val,
    rpck := resumePc t .K c.k.pc, rpcl := resumePc t .L c.l.pc, rpcc := resumePc t .C c.c.pc, rpcs := resumePc t .S c.s.pc,
    tpbk := BitVec.ofNat 16 (c.k.pb.rem % 16 + (if c.k.pb.pv then 16 else 0) + c.k.pb.pat.toNat * 256),
    kWasEnded := c.k.ended, below := some ⟨c.k.pc, c.k.from?, c.joined⟩, joined := none, tin := true, stop := none, drainAt := none,
    k := { c.k with pc := c.tvecEntry.zeroExtend 64, from? := none, pb := {}, ended := false, blocked := none } }

/-- PBSTATE from the layout of R308. -/
def pbOf (x : BitVec 16) : PbState := ⟨x.toNat % 16, x.getLsbD 4, BitVec.ofNat 8 (x.toNat / 256)⟩

/-- `resume` (R251): each sequencer restarts at its RPC, K returns to its block and its ended state, stopped copies go on, a command whose bound has been
reported counts again from 0 (R254), an RLC_EXIT is no longer held (R406), and the oldest pending trap is taken at once (R248). -/
def State.resumeFrom (s : State) (k : Nat) : State :=
  let here (p : Poster) : Poster := if p.cell = k && p.raised then { p with raised := false, again := s.cycle } else p
  let s0 := s.modQuad (quadOf k) (fun q => { q with cmds := q.cmds.map (fun (x : MCmd) => if x.cell = k && x.raised then { x with raised := false, again := s.cycle } else x) })
  let s1 := { s0 with engines := s0.engines.map (fun (g : Nat × Engine) => (g.1, { g.2 with arming := g.2.arming.map (fun (a : Arming) => { a with poster := here a.poster }) })) }
  s1.modCell k (fun c =>
    let c1 := { c with
      tin := false, rlc := { c.rlc with held := false },
      k := { c.k with pc := c.rpck, from? := c.below.bind (fun b => if c.rpck = b.pc then b.from? else none), pb := pbOf c.tpbk, ended := c.kWasEnded, blocked := none },
      l := { c.l with blocked := none, pc := if c.l.ended then c.l.pc else c.rpcl, from? := if c.rpcl = c.l.pc then c.l.from? else none },
      c := { c.c with blocked := none, pc := if c.c.ended then c.c.pc else c.rpcc, from? := if c.rpcc = c.c.pc then c.c.from? else none },
      s := { c.s with blocked := none, pc := if c.s.ended then c.s.pc else c.rpcs, from? := if c.rpcs = c.s.pc then c.s.from? else none },
      copies := c.copies.map (fun (x : Copy) => { x with stopped := false, handler := false, issued := if x.stopped then s.cycle else x.issued,
                                                         raised := false, again := if x.raised then s.cycle else x.again }),
      vcmds := c.vcmds.map (fun (x : VCmd) => if x.raised then { x with raised := false, again := s.cycle } else x),
      chains := c.chains.map (fun (x : Nat × Arming) => (x.1, { x.2 with poster := here x.2.poster })),
      joined := c.below.bind (fun b => b.joined), below := none, kWasEnded := false }
    match c1.pend with
    | [] => c1
    | t :: ts => { c1 with pend := ts, stop := some (.trap t s.cycle), drainAt := none })

/-! ### Blocking (R255, R257) -/

/-- A flag word (R257). -/
def flagWord (kind index unit pos waited : Nat) : Word :=
  BitVec.ofNat 64 (kind % 16 + at_ (index % 2 ^ 16) 4 + at_ (unit % 16) 20 + at_ (min pos 255) 24 + at_ (min waited (2 ^ 32 - 1)) 32)

/-- The cycles a blocked sequencer has counted. -/
def State.waited (s : State) (x : Seq) : Nat :=
  match x.blocked with
  | none => 0
  | some b => s.cycle - b.since

/-- Whether a wait has reached its bound (R255). -/
def State.overBound (s : State) (x : Seq) : Bool :=
  x.blocked.isSome && x.waitBound.toNat != 0 && decide (x.waitBound.toNat * 256 ≤ s.waited x)

/-- A blocked instruction: it counts from its first blocked cycle, and traps at the bound; one whose access has been sent has issued and only waits. -/
def State.blockOn (s : State) (kind index : Nat) : State :=
  let x := s.curSeq
  let since := match x.blocked with | some b => b.since | none => s.cycle
  let x1 := { x with blocked := some ⟨since, kind, index⟩ }
  if x.access.isSome then s
  else if s.overBound x1 then s.precise tcWaitBound (flagWord kind index (4 + s.site.seq.num) 0 (s.waited x1 / 256))
  else s.modSeq (fun _ => x1)

/-- What an instruction's attempt makes of the state. -/
def runM (m : M Unit) (s : State) : Out :=
  match m s with
  | .ok (_, s1) => .next s1
  | .error (.trap c v) => .next (s.precise c v)
  | .error (.block k i) => .next (s.blockOn k i)
  | .error .stall => .next s
  | .error (.hold f) => .next (f s)

/-- Whether the groups of a cell's launch are held for a hash-tree update (R242). -/
def State.hashHeld (s : State) (k : Nat) : Bool :=
  match (s.cellAt k).bound with
  | none => false
  | some b => s.launches.any (fun l => l.key == b.launch && l.holdHash)

/-- Whether the sequencer whose turn it is may issue: bound, not ended, not stopped, not held, and not waiting for the handler; an
instruction that has already issued completes during a trap's or a pre-emption's stop (R247). -/
def State.mayIssue (s : State) : Bool :=
  let c := s.cur
  let x := s.curSeq
  c.bound.isSome && (!s.hashHeld s.here || x.access.isSome) && !x.ended && (!c.tin || s.site.seq == .K || x.access.isSome) &&
  (match c.stop with
   | none => true
   | some (.trap t since) => x.access.isSome || (decide (since = s.cycle) && !t.defer && decide (s.site.seq.num < t.seq.num))
   | some .preempt => x.access.isSome
   | some .cancelled => x.access.isSome
   | some .faulted => x.access.isSome
   | some .machineCheck => false)

/-- Where the sequencer goes on: the next word, a taken branch, or a word that `resume` names. -/
inductive Flow where
  | seq
  | branch (t : Word)
  | keep
deriving DecidableEq, Repr

/-- Retirement (R92, R94, R308): the program counter, the predicate block, the end of the wait. -/
def retire (f : Flow) : M Unit := modify (fun s => s.modSeq (fun x =>
  match f with
  | .seq => { x with pc := x.pc + 1, from? := none, blocked := none, access := none, tried := none, pb := x.pb.next }
  | .branch t => { x with pc := t, from? := some x.pc, blocked := none, access := none, tried := none, pb := x.pb.next }
  | .keep => { x with blocked := none, access := none, tried := none }))

/-! ### What breaks (R22, R108, R125, R132, R425) -/

/-- A fault from outside takes place. -/
def State.upset (s : State) (u : Upset) : State :=
  match u with
  | .word w => { s with badWords := if s.badWords.contains w then s.badWords else s.badWords ++ [w] }
  | .row k w => s.modCell k (fun c => { c with badRows := if c.badRows.contains w then c.badRows else c.badRows ++ [w] })
  | .tagged k w => s.modCell k (fun c => { c with badLines := if c.badLines.contains w then c.badLines else c.badLines ++ [w] })
  | .corrected d => { s with eccCount := NatMap.put 0 s.eccCount d (NatMap.get 0 s.eccCount d + 1) }
  | .telltale k q i t => s.modSeqOf k q (fun x => { x with slots := x.slots.zipIdx.map (fun (y, j) => if j = i then { y with tell := t } else y) })
  | .held k e w => s.modCell k (fun c => { c with cbuf := c.cbuf.map (fun (x : Nat × Held) => if x.1 = e then (x.1, { x.2 with bad := x.2.bad ||| BitVec.ofNat 8 (2 ^ (w % 8)) }) else x) })
  | .staging q m w => s.modQuad q (fun x => if m then { x with badMirr := x.badMirr ++ [w] } else { x with badMain := x.badMain ++ [w] })
  | .diverge k q => s.machineCheck k 0x14 (BitVec.ofNat 64 (at_ q.num 32 + ((s.cellAt k).seq q).pc.toNat % 2 ^ 32)) 0
  | .path q which byte mask lasting => s.modQuad q (fun x =>
      let y := if lasting then x else { x with transient := true }
      match which with
      | 0 => { y with mainXor := y.mainXor ++ [(byte, mask)] }
      | 1 => { y with mirrXor := y.mirrXor ++ [(byte, mask)] }
      | 2 => { y with convMainXor := y.convMainXor ++ [(byte, mask)] }
      | _ => { y with convMirrXor := y.convMirrXor ++ [(byte, mask)] })

/-- The four sequencers, and the sets that R276 permits. -/
def allSeqs : List SeqId := [.K, .L, .C, .S]

end Sys2Proof.Machine
end

