-- ==== Sys2Proof/Machine/Operands.lean ====
section
/-! DEFINITION. Every operand form: general registers and queue ports (R271, R91, R92), predicates and loop counters (R296),
token counters (R93, R94), check slots (R107), and the issue of an instruction over them (R275, R276, R307). -/

namespace Sys2Proof.Machine

/-! ### Queues (R91) -/

/-- Producer and consumer of a queue (R91). -/
def queueEnds : Nat → SeqId × SeqId
  | 0 => (.K, .L)
  | 1 => (.L, .C)
  | 2 => (.C, .S)
  | 3 => (.S, .K)
  | 4 => (.L, .C)
  | 5 => (.C, .K)
  | 6 => (.K, .C)
  | _ => (.K, .S)

/-- A queue's entries, the head first. -/
def Cell.queue (c : Cell) (n : Nat) : List Word := NatMap.get [] c.queues n

/-- What two records have seen together. -/
def joinSeen (a b : NatMap Nat) : NatMap Nat := b.foldl (fun m e => NatMap.put 0 m e.1 (max (NatMap.get 0 m e.1) e.2)) a

/-- A sequencer has consumed pushes, and with them has seen what was issued before them (R324). -/
def Cell.learn (c : Cell) (q : SeqId) (l : List (NatMap Nat)) : Cell :=
  if l.isEmpty then c else { c with seen := NatMap.put [] c.seen q.num (l.foldl joinSeen (NatMap.get [] c.seen q.num)) }

/-- A cell with a queue replaced. -/
def Cell.setQueue (c : Cell) (n : Nat) (l : List Word) : Cell :=
  let gone := (c.queue n).length - l.length
  let at' := NatMap.get [] c.qAt n
  { c.learn (queueEnds n).2 (at'.take gone) with
    queues := NatMap.put [] c.queues n l, qHead := NatMap.put 0 c.qHead n ((NatMap.get 0 c.qHead n + gone) % 16),
    qAt := NatMap.put [] c.qAt n (at'.drop gone) }

/-- The pushes of a producer still in its check slots (R314). -/
def Cell.pushesInSlots (c : Cell) (n : Nat) : Nat :=
  (c.seq (queueEnds n).1).slots.countP (fun x => match x.item with | .push m _ => m == n | _ => false)

/-! ### Tokens (R93) -/

/-- Producer and consumer of a token counter (R93, R273). -/
def tokenEnds : Nat → SeqId × SeqId
  | 0 => (.K, .L)
  | 1 => (.L, .K)
  | 2 => (.L, .C)
  | 3 => (.C, .L)
  | 4 => (.C, .S)
  | 5 => (.S, .C)
  | 6 => (.S, .K)
  | _ => (.K, .S)

/-- The counters that SP, SN push to and WP, WN pop from (R93). -/
def tokSP : SeqId → Nat
  | .K => 7
  | .L => 1
  | .C => 3
  | .S => 5
def tokSN : SeqId → Nat
  | .K => 0
  | .L => 2
  | .C => 4
  | .S => 6
def tokWP : SeqId → Nat
  | .K => 6
  | .L => 0
  | .C => 2
  | .S => 4
def tokWN : SeqId → Nat
  | .K => 1
  | .L => 3
  | .C => 5
  | .S => 7

/-- A token counter's value, and the units reserved on it (R94). -/
def Cell.tokVal (c : Cell) (k : Nat) : Nat := NatMap.get 0 c.tok k
def Cell.tokRsv (c : Cell) (k : Nat) : Nat := NatMap.get 0 c.tokRes k

/-- The counters a token field waits on and signals (R269, R93). -/
def waitsOf (t : BitVec 4) (q : SeqId) : List Nat := (if t.getLsbD 3 then [tokWP q] else []) ++ (if t.getLsbD 2 then [tokWN q] else [])
def signalsOf (t : BitVec 4) (q : SeqId) : List Nat := (if t.getLsbD 1 then [tokSP q] else []) ++ (if t.getLsbD 0 then [tokSN q] else [])

/-- One unit of a counter taken (R93, R94). -/
def Cell.takeUnit (c : Cell) (k : Nat) : Cell :=
  { c.learn (tokenEnds k).2 ((NatMap.get [] c.tokAt k).take 1) with
    tok := NatMap.put 0 c.tok k (c.tokVal k - 1), tokAt := NatMap.put [] c.tokAt k ((NatMap.get [] c.tokAt k).drop 1) }

/-- What a push has seen: its sequencer's own work up to its issue, and what that had seen of the others'. -/
def Slot.seen (x : Slot) (q : SeqId) : NatMap Nat := NatMap.put 0 x.know q.num (x.at? + 1)

/-- A queue entry that leaves its check slot (R92). -/
def Cell.pushed (c : Cell) (n : Nat) (v : Word) (m : NatMap Nat) : Cell :=
  { c.setQueue n (c.queue n ++ [v]) with qAt := NatMap.put [] c.qAt n (NatMap.get [] c.qAt n ++ [m]) }

/-- A token signal that leaves its check slot, and its reservation (R94). -/
def Cell.signalled (c : Cell) (n : Nat) (m : NatMap Nat) : Cell :=
  { c with tok := NatMap.put 0 c.tok n (c.tokVal n + 1), tokRes := NatMap.put 0 c.tokRes n (c.tokRsv n - 1),
           tokAt := NatMap.put [] c.tokAt n (NatMap.get [] c.tokAt n ++ [m]) }

/-- Whether an item is a push. -/
def Item.isPush : Item → Bool
  | .push .. => true
  | .token _ => true
  | _ => false

/-- An item as it enters a check slot of a sequencer; the telltale produces the same item (R107). -/
def Cell.slotOf (c : Cell) (q : SeqId) (i : Item) (now : Nat) : Slot := ⟨i, i, now, if i.isPush then NatMap.get [] c.seen q.num else []⟩

/-- Changes the cell whose turn it is. -/
def modCur (f : Cell → Cell) : M Unit := modify (fun s => s.modCell s.here f)

/-- Changes the sequencer whose turn it is. -/
def modSq (f : Seq → Seq) : M Unit := modify (fun s => s.modSeq f)

/-- Blocks while a counter is 0. -/
def needToken (k : Nat) : M Unit := do
  let s ← get
  if s.cur.tokVal k = 0 then waitFor 1 k else pure ()

/-- Takes one token. -/
def takeToken (k : Nat) : M Unit := do
  let s ← get
  let v := s.cur.tokVal k
  if v = 0 then waitFor 1 k else modCur (fun c => c.takeUnit k)

/-- Reserves one unit on a counter, or blocks at 255 (R94). -/
def reserveToken (k : Nat) : M Unit := do
  let s ← get
  let r := s.cur.tokRsv k
  if 255 ≤ s.cur.tokVal k + r then waitFor 1 k else modCur (fun c => { c with tokRes := NatMap.put 0 c.tokRes k (r + 1) })

/-- Puts an item into the next check slot of the sequencer whose turn it is (R107). -/
def slotItem (i : Item) : M Unit := do
  let s ← get
  if 32 ≤ s.curSeq.slots.length then waitFor 11 0 else modSq (fun x => { x with slots := x.slots ++ [s.cur.slotOf s.site.seq i s.cycle] })

/-- Whether an access that acts as it is sent, and whose result and token signals come later, finds their room first: a full queue, counter or set of check
slots blocks it before it is sent (R92, R94, R107, R333). -/
def roomFirst (t : BitVec 4) (d : BitVec 5) : M Unit := do
  let s ← get
  let ks := signalsOf t s.site.seq
  let port := decide (24 ≤ d.toNat)
  if s.curSeq.access.isSome then pure ()
  else if port && decide (16 ≤ (s.cur.queue (d.toNat - 24)).length + s.cur.pushesInSlots (d.toNat - 24)) then waitFor 5 (d.toNat - 24)
  else
    match ks.find? (fun k => decide (255 ≤ s.cur.tokVal k + s.cur.tokRsv k)) with
    | some k => waitFor 1 k
    | none => if 32 < s.curSeq.slots.length + ks.length + (if port then 1 else 0) then waitFor 11 0 else pure ()

/-- Signals a counter once, as an ordinary instruction does (R94): reserved at retirement, counted when it leaves its slot. -/
def signalToken (k : Nat) : M Unit := do
  reserveToken k
  slotItem (.token k)

/-- Runs an action for each element of a list. -/
def eachM {α : Type} (f : α → M Unit) : List α → M Unit
  | [] => pure ()
  | a :: l => do
    f a
    eachM f l

/-! ### Registers (R271) -/

/-- The queue that a register field names, if it names one. -/
def portOf (r : BitVec 5) : Option Nat := if 24 ≤ r.toNat then some (r.toNat - 24) else none

/-- The register number as a trap value. -/
def regVal (r : BitVec 5) : Word := r.zeroExtend 64

/-- A source field against its queue's direction raises ILLEGAL_REG (R91). -/
def checkSrc (r : BitVec 5) : M Unit := do
  let s ← get
  match portOf r with
  | none => pure ()
  | some n => if (queueEnds n).2 = s.site.seq then pure () else raise tcIllegalReg (regVal r)

/-- A destination field against its queue's direction raises ILLEGAL_REG (R91). -/
def checkDst (r : BitVec 5) : M Unit := do
  let s ← get
  match portOf r with
  | none => pure ()
  | some n => if (queueEnds n).1 = s.site.seq then pure () else raise tcIllegalReg (regVal r)

/-- A field that is read and written, or may name no port, raises ILLEGAL_REG when it names one (R295). -/
def checkNoPort (r : BitVec 5) : M Unit := if 24 ≤ r.toNat then raise tcIllegalReg (regVal r) else pure ()

/-- A predicate field of 8 to 31 raises ILLEGAL_REG (R271). -/
def checkPred (r : BitVec 5) : M Unit := if 8 ≤ r.toNat then raise tcIllegalReg (regVal r) else pure ()

/-- A predicate destination: 1 to 7 (R271). -/
def checkPredDst (r : BitVec 5) : M Unit := if 8 ≤ r.toNat || r = 0 then raise tcIllegalReg (regVal r) else pure ()

/-- A general register of a sequencer: g0 reads 0. -/
def Seq.greg (x : Seq) (n : Nat) : Word := if n = 0 then 0 else NatMap.get 0 x.g n

/-- A sequencer with a general register written; g0 discards. -/
def Seq.setG (x : Seq) (n : Nat) (v : Word) : Seq := if n = 0 then x else { x with g := NatMap.put 0 x.g n v, fwd := x.fwd.map (fun r => if r = n then 32 else r) }

/-- Whether a register holds what a load was given from a store of its own sequencer that is not performed yet. What depends on such a load waits, so that
the store is not seen after it (R171 rules 1, 8, 9; R172; DEDUCED, log entry 181). -/
def State.awaitsStore (s : State) (r : Nat) : Bool := s.curSeq.fwd.contains r && !s.storesDone s.here s.site.seq

/-- Reads a source: g0 is 0, g1 to g23 a register, 24 to 31 pop the queue's head (R271, R92). -/
def readReg (r : BitVec 5) : M Word := do
  let s ← get
  match portOf r with
  | none => if s.awaitsStore r.toNat then stallNow else pure (s.curSeq.greg r.toNat)
  | some n =>
    match s.cur.queue n with
    | [] => waitFor 5 n
    | v :: vs => do
      modCur (fun c => c.setQueue n vs)
      pure v

/-- Writes a result: g0 discards, g1 to g23 a register, 24 to 31 push through a check slot (R271, R92). -/
def writeReg (r : BitVec 5) (v : Word) : M Unit := do
  let s ← get
  match portOf r with
  | none => modSq (fun x => x.setG r.toNat v)
  | some n =>
    if 16 ≤ (s.cur.queue n).length + s.cur.pushesInSlots n then waitFor 5 n else slotItem (.push n v)

/-- A predicate: p0 is true. -/
def Seq.pred (x : Seq) (n : Nat) : Bool := n == 0 || x.p.getLsbD n

/-- A sequencer with a predicate written; p0 stays true. -/
def Seq.setPred (x : Seq) (n : Nat) (b : Bool) : Seq :=
  if n = 0 then x
  else { x with p := if b then x.p ||| BitVec.ofNat 8 (2 ^ n) else x.p &&& ~~~ BitVec.ofNat 8 (2 ^ n) }

/-- Reads a predicate, which an unfinished `vmcnt` may hold back (R296, R371). -/
def readPred (n : Nat) : M Bool := do
  let s ← get
  if s.site.seq == .C && s.cur.predWait.contains n then stallNow else pure (s.curSeq.pred n)

/-- Writes a predicate in the order of the sequencer's instructions. -/
def writePred (n : Nat) (b : Bool) : M Unit := do
  let s ← get
  if s.site.seq == .C && s.cur.predWait.contains n then stallNow else modSq (fun x => x.setPred n b)

/-- A loop counter. -/
def Seq.loopCnt (x : Seq) (n : Nat) : BitVec 32 := NatMap.get 0 x.lc n

/-- A sequencer with a loop counter written. -/
def Seq.setLoop (x : Seq) (n : Nat) (v : BitVec 32) : Seq := { x with lc := NatMap.put 0 x.lc n v }

/-! ### Issue -/

/-- What an instruction's issue checks before its operands: whether a `pred` may cover it (R275 row 2) and skips it (R307, R402), the sequencers that may
execute it (row 3), its decode checks (rows 7 and 8), and whether its token signals are those of an ordinary instruction (R94). -/
structure Gate where
  t      : BitVec 4
  cover  : Bool := true
  skips  : Bool := true
  who    : List SeqId := allSeqs
  checks : M Unit := pure ()
  signal : Bool := true

/-- The issue of one instruction (R275, R307, R94, R246): rows 2 and 3, the skip of a predicate block, the decode checks, the
token waits, the body, then at retirement the tokens taken and given. -/
def issueM (g : Gate) (body : M Flow) : M Unit := do
  let s ← get
  let x := s.curSeq
  if x.pb.rem != 0 && !g.cover then raise tcIllegalOp 0
  else if x.pb.rem != 0 && !x.pb.executes && g.skips then retire .seq
  else if !g.who.contains s.site.seq then raise tcIllegalOp 1
  else do
    g.checks
    eachM needToken (waitsOf g.t s.site.seq)
    let f ← body
    eachM takeToken (waitsOf g.t s.site.seq)
    unless' (!g.signal) (eachM signalToken (signalsOf g.t s.site.seq))
    retire f

/-- The step of one instruction of the sequencer whose turn it is; a sequencer that may not issue does nothing. -/
def issue (g : Gate) (body : M Flow) (s : State) : Out := if s.mayIssue then runM (issueM g body) s else .next s

/-- Decode checks of one destination and two sources. -/
def checkDAB (d a b : BitVec 5) : M Unit := do
  checkDst d
  checkSrc a
  checkSrc b

/-- An instruction with two sources and a destination, by its function of the two values (R295). -/
def twoSource (t : BitVec 4) (d a b : BitVec 5) (f : Word → Word → M Word) : State → Out :=
  issue { t := t, checks := checkDAB d a b } (do
    let x ← readReg a
    let y ← readReg b
    let r ← f x y
    writeReg d r
    pure .seq)

/-- An instruction with one source and a destination. -/
def oneSource (t : BitVec 4) (d a : BitVec 5) (f : Word → Word) : State → Out :=
  issue { t := t, checks := do checkDst d; checkSrc a } (do
    let x ← readReg a
    writeReg d (f x)
    pure .seq)

/-- An instruction with no source and a destination. -/
def noSource (t : BitVec 4) (d : BitVec 5) (f : M Word) : State → Out :=
  issue { t := t, checks := checkDst d } (do
    let r ← f
    writeReg d r
    pure .seq)

end Sys2Proof.Machine
end

