-- ==== Sys2Proof/Machine/Flags.lean ====
section
/-! DEFINITION. Every condition and flag that the manual computes: the compare conditions (R272), the sticky flags and
statistics of a cell (R149, R150), the mask-stack flags (R98) and the state words that instructions read live. -/

namespace Sys2Proof.Machine

/-- The compare conditions (R272). -/
def condHolds (c : BitVec 3) (x y : Word) : Bool :=
  match c.toNat with
  | 0 => x == y
  | 1 => x != y
  | 2 => x.slt y
  | 3 => !x.slt y
  | 4 => x.ult y
  | 5 => !x.ult y
  | 6 => (x &&& y) != 0
  | _ => (x &&& y) == 0

/-- Sticky flags of a cell, by bit (R150). -/
def fNanSeen : BitVec 6 := 0x01
def fInfSeen : BitVec 6 := 0x02
def fEftInvalid : BitVec 6 := 0x04
def fEftInexact : BitVec 6 := 0x08
def fMsOvf : BitVec 6 := 0x10
def fMsUnf : BitVec 6 := 0x20

/-- A flag set when a condition holds. -/
def flagIf (b : Bool) (f : BitVec 6) : BitVec 6 := if b then f else 0

/-- Word 0 of a die's black-box state (R267). -/
def BlackBox.word0 (b : BlackBox) : Word :=
  BitVec.ofNat 64 (b.head + at_ b.events.length 12 + (if b.frozen then 2 ^ 25 else 0))

/-- Whether a command waits at the array: it has not started, or is a walk with positions still to enter (R75, R398). -/
def MCmd.waits (c : MCmd) : Bool := c.st == 0 && (bits (c.f.getD 0 0) 7 0 != 6 || !c.walk.isEmpty)

/-- Word 0 of a quad's lease record (R77), read live. IDLE reads 0 while the lease is not held (log entry 171). -/
def State.leaseWord (s : State) (qk : Nat) : Word :=
  let q := s.quadAt qk
  let idle := if q.held && !q.cmds.any (fun c => c.cell % 4 == q.holder.toNat && c.waits) then min (s.cycle - q.idleSince) (2 ^ 32 - 1) else 0
  BitVec.ofNat 64 (q.holder.toNat + (if q.held then 4 else 0) + (if q.oos then 8 else 0) + at_ q.acq.toNat 4 + at_ q.req.toNat 8 +
    at_ q.count.toNat 12 + at_ idle 32)

/-- Word 1 of a tagged-store entry (R105). -/
def TagEntry.word1 (e : TagEntry) : Word :=
  BitVec.ofNat 64 (e.count.toNat + (if e.v then 2 ^ 8 else 0) + (if e.pin then 2 ^ 9 else 0) + (if e.fill then 2 ^ 10 else 0) + at_ e.status.toNat 11)

/-- A completion tag's word (R110): done in bit 0, status in bits 3:1. -/
def Cell.tagWord (c : Cell) (t : Nat) : BitVec 4 := NatMap.get 0 c.tags t

/-- A cell with a tag set done with a status (R335). -/
def Cell.setTag (c : Cell) (t : Nat) (st : BitVec 3) : Cell := { c with tags := NatMap.put 0 c.tags t (st ++ 1#1) }

/-- A cell with a tag cleared (R335). -/
def Cell.clearTag (c : Cell) (t : Nat) : Cell := { c with tags := NatMap.put 0 c.tags t 0 }

/-- Whether a tag is done. -/
def Cell.tagDone (c : Cell) (t : Nat) : Bool := (c.tagWord t).getLsbD 0

/-- The status of a tag. -/
def Cell.tagStatus (c : Cell) (t : Nat) : BitVec 3 := (c.tagWord t).extractLsb' 1 3

end Sys2Proof.Machine
end

