-- ==== Sys2Proof/Machine/Policy.lean ====
section
/-! DEFINITION. What the management cores decide from (R43 to R49, R66 to R72): the tree of regions and its effective values,
budgets, save slots, and a pre-emption written to the slot table. -/

namespace Sys2Proof.Machine

/-- A registered region by its address (R44). -/
def State.region? (s : State) (a : Nat) : Option Region := s.regions.find? (fun r => r.addr == a)

/-- A word of an RCB (R45). -/
def Region.word (r : Region) (i : Nat) : Word := r.rcb.getD i 0

/-- The parent's address, 0 for a root (R45). -/
def Region.parent (r : Region) : Nat := bits (r.word 0) 51 0

/-- The state with a region changed. -/
def State.modRegion (s : State) (a : Nat) (f : Region → Region) : State := { s with regions := modFirst (fun r => r.addr == a) f s.regions }

/-- The regions from one up to its root, at most 8 (R44). -/
def State.regionPath (s : State) : Nat → Nat → List Region
  | 0, _ => []
  | n + 1, a =>
    match s.region? a with
    | none => []
    | some r => r :: (if r.parent = 0 then [] else s.regionPath n r.parent)

/-- The region whose field is effective: the nearest with the OVR bit set, else the root (R46). -/
def State.effective (s : State) (a : Nat) (ovr : Nat) : Option Region :=
  let p := s.regionPath 8 a
  match p.find? (fun r => bit (r.word 1) ovr) with
  | some r => some r
  | none => p.getLast?

/-- An effective word of a region (R46). -/
def State.effWord (s : State) (a ovr w : Nat) : Word := ((s.effective a ovr).map (fun r => r.word w)).getD 0

/-- The address of the region whose field is effective (R46). -/
def State.effectiveAt (s : State) (a ovr : Nat) : Nat := ((s.effective a ovr).map (fun r => r.addr)).getD 0

/-- A word of a registered region as it stands. -/
def State.regionWord (s : State) (a i : Nat) : Word := ((s.region? a).map (fun r => r.word i)).getD 0

/-- The effective priority of a launch: the field, as it stands, of the region that gave it when the launch started (R46, R48). -/
def State.priority (s : State) (l : Launch) : Nat := bits (s.regionWord l.prioOf 4) 2 0

/-- Cell-microseconds charged to a region (R67). -/
def Region.consumed (r : Region) : Nat := r.charged / 2250

/-- A region has spent the budget that another, or itself, gives it (R46, R68). -/
def State.spent (s : State) (a giver : Nat) : Bool :=
  let budget := bits (s.regionWord giver 2) 47 0
  (s.region? a).any (fun r => decide (budget ≠ 0) && decide (budget ≤ r.consumed))

/-- Whether a launch is over budget: some region of its path is, each by its effective BUDGET (R46, R48, R68). -/
def State.overBudget (s : State) (l : Launch) : Bool := l.budgets.any (fun e => s.spent e.1 e.2)

/-- The lowest free save slot of a launch, with the region that owns it (R70). -/
def State.freeSlot (s : State) (l : Launch) : Option (Nat × Nat) :=
  match s.region? l.slotsOf with
  | none => none
  | some r => ((List.range l.saveSlots).find? (fun i => !r.slots.any (fun x => x.1 == i))).map (fun i => (r.addr, i))

/-- Whether the group on a cell may be pre-empted, and into which slot (R69, R70). -/
def State.preemptSlot (s : State) (k : Nat) : Option (Launch × Nat × Nat) :=
  match (s.cellAt k).bound with
  | none => none
  | some b =>
    match s.launch? b.launch with
    | none => none
    | some l => if l.level < 2 && l.preempt && l.status = .running && !(NatMap.get {} s.slots k).pre then (s.freeSlot l).map (fun (r, i) => (l, r, i)) else none

/-- The slot-table record of a cell (R58). -/
def State.slotAt (s : State) (k : Nat) : SlotRec := NatMap.get {} s.slots k

/-- The state with a slot-table record written. -/
def State.setSlot (s : State) (k : Nat) (r : SlotRec) : State := { s with slots := NatMap.put {} s.slots k r }

/-- A pre-emption without a successor is written for a cell (R59): the slot is taken and named in the record. -/
def State.orderPreempt (s : State) (k : Nat) (l : Launch) (owner i reason : Nat) : State :=
  let s1 := s.modRegion owner (fun r => { r with slots := r.slots ++ [(i, l.key)] })
  s1.setSlot k { s.slotAt k with v := false, pre := true, rst := false, slot := l.saveArea + BitVec.ofNat 64 (i * 0x800000), fresh := true, reason := reason }

/-- The cell's sequencers stop for a pre-emption (R260); a trap already being taken goes first (R248). -/
def State.stopForPreempt (s : State) (k : Nat) : State :=
  if (s.cellAt k).stop.isNone then (s.withdraw k).modCell k (fun c => { c with stop := some .preempt }) else s

/-! ### Placement (R60 to R64) -/

/-- GANG and ARRAY of an LCB (R50), and a word of it. -/
def lcbGang (w : List Word) : Bool := bit (w.getD 1 0) 32
def lcbArray (w : List Word) : Bool := bit (w.getD 1 0) 33

/-- Whether a cell may hold a group: in service, its array too for a launch that uses it (R60). -/
def State.cellFit (s : State) (array : Bool) (k : Nat) : Bool := s.cellUp k && !(array && (s.quadAt (quadOf k)).oos)

/-- The probes of R61 from the j-th on: the first cell of E that is allowed, with its probe; after the last, the lowest that is allowed. -/
def probe (seed : Word) (g n : Nat) (ok : Nat → Bool) : Nat → Nat → Option (Nat × Nat)
  | 0, j => ((List.range n).find? ok).map (fun c => (c, j))
  | fuel + 1, j =>
    let c := (jmix64 seed (BitVec.ofNat 64 (g + j * 2 ^ 32))).toNat % n
    if ok c then some (c, j) else probe seed g n ok fuel (j + 1)

/-- The place in E that R61 assigns to a group, and the probe that found it: the groups of its wave before it take theirs first. -/
def assignedAt (seed : Word) (n g : Nat) : Nat × Nat :=
  ((List.range (g % n + 1)).foldl (fun (acc : List Nat × (Nat × Nat)) i =>
    match probe seed (g / n * n + i) n (fun c => !acc.1.contains c) 64 0 with
    | some x => (x.1 :: acc.1, x)
    | none => acc) ([], (0, 0))).2

/-- The cell that a group of a launch at D1 or D2 is assigned to, and its probe: R61, or where R64 has re-placed it. -/
def Launch.place (l : Launch) (g : Nat) : Nat × Nat :=
  match l.assigned.find? (fun x => x.1 == g) with
  | some (_, k, j) => (k, j)
  | none =>
    let (c, j) := assignedAt (l.lcb.getD 2 0) l.elig.length g
    (l.elig.getD c 0, j)

/-- Whether the launch uses the matrix engine, and whether its groups bind together (R50, R65, R230). -/
def Launch.array (l : Launch) : Bool := lcbArray l.lcb
def Launch.together (l : Launch) : Bool := (lcbGang l.lcb || decide (l.level = 2)) && decide (l.next = 0) && l.saved.isEmpty

/-- A pending group whose assigned cell has left service is re-placed (R64): a corrected fault and an event. -/
def State.replaceGroup (s : State) (key g : Nat) : State :=
  match s.launch? key with
  | none => s
  | some l =>
    let (k, j) := l.place g
    if s.cellFit l.array k then s
    else
      match probe (l.lcb.getD 2 0) g l.elig.length (fun c => s.cellFit l.array (l.elig.getD c 0)) (63 - j) (j + 1) with
      | none => s
      | some (c, j1) =>
        let k1 := l.elig.getD c 0
        let s1 := (s.modLaunch key (fun l => { l with assigned := l.assigned.filter (fun x => x.1 != g) ++ [(g, k1, j1)] })).corrected key 0
        s1.bbox (k / 64) (bbEvent s.cycle 0x08 0 l.num.toNat g (k % 64) 0 (BitVec.ofNat 64 k) (BitVec.ofNat 64 k1))

/-- Groups of a launch at D1 or D2 that wait for a cell: the pre-empted ones, then those not yet bound. -/
def Launch.waiting (l : Launch) : List Nat :=
  l.saved.map (fun x => x.group) ++ (List.range (l.groups - l.next)).map (fun i => l.next + i)

/-- Cells or arrays have left service: every waiting group assigned to one is re-placed (R64). -/
def State.replaceAll (s : State) : State :=
  (s.launches.filter (fun l => l.level != 0 && decide (l.status = .running))).foldl (fun s l => l.waiting.foldl (fun s g => s.replaceGroup l.key g) s) s

end Sys2Proof.Machine
end

