-- ==== Sys2Proof/Machine/SysRegs.lean ====
section
/-! DEFINITION. Every system register of a sequencer (R249, R320, R340, R357, R401): what a read gives, what a write may do. -/

namespace Sys2Proof.Machine

/-- A word of RLCOPY. -/
def Rlc.copyWord (r : Rlc) (i : Nat) : Word := NatMap.get 0 r.copy i

/-- Registers of every sequencer (R249, R320, R340), by offset. -/
def sysReadAny (s : State) (k : Nat) (q : SeqId) (off : Nat) : Option Word :=
  let c := s.cellAt k
  let x := c.seq q
  match off with
  | 0x128 => some (BitVec.ofNat 64 ((if c.tin && q == .K then 1 else 0) + 2 * c.pend.length))
  | 0x180 => some (x.waitBound.zeroExtend 64)
  | 0x188 => some (BitVec.ofNat 64 s.cycle)
  | 0x308 => some ((x.loopCnt 0).zeroExtend 64)
  | 0x310 => some ((x.loopCnt 1).zeroExtend 64)
  | 0x318 => some ((x.loopCnt 2).zeroExtend 64)
  | 0x320 => some ((x.loopCnt 3).zeroExtend 64)
  | 0x400 => some (x.trdMiss.zeroExtend 64)
  | _ => none

/-- Registers of K (R249, R320, R401), by offset. -/
def sysReadK (c : Cell) (off : Nat) : Option Word :=
  let r := c.rlc
  match off with
  | 0x100 => some (BitVec.ofNat 64 (c.tvecEntry.toNat + (if c.tvecEn then 2 ^ 14 else 0)))
  | 0x108 => some (BitVec.ofNat 64 (c.tcause.toNat + (if c.tdefer then 2 ^ 8 else 0)))
  | 0x110 => some c.tpc
  | 0x118 => some (c.tseq.zeroExtend 64)
  | 0x120 => some c.tval
  | 0x130 => some c.rpck
  | 0x138 => some c.rpcl
  | 0x140 => some c.rpcc
  | 0x148 => some c.rpcs
  | 0x150 => some c.tsavea
  | 0x158 => some c.tsaveb
  | 0x300 => some (c.tpbk.zeroExtend 64)
  | 0x600 => some (r.total ++ r.iter)
  | 0x608 => some r.norm
  | 0x610 => some r.prev
  | 0x618 => some r.norm0
  | 0x620 => some (r.exit.zeroExtend 64)
  | 0x628 => some (r.level.zeroExtend 64)
  | 0x630 => some (BitVec.ofNat 64 (r.st.toNat + (if r.held then 4 else 0) + at_ r.stagc.toNat 16))
  | 0x638 => some r.block
  | _ => if 0x700 ≤ off ∧ off < 0x800 then some (r.copyWord ((off - 0x700) / 8)) else none

/-- Registers of C (R249, R357), by offset. -/
def sysReadC (c : Cell) (off : Nat) : Option Word :=
  match off with
  | 0x200 => some (c.vrb.zeroExtend 64)
  | 0x208 => some (c.mrb.zeroExtend 64)
  | 0x210 => some (c.fmtbase.zeroExtend 64)
  | 0x218 => some c.srseed
  | 0x220 => some (c.srbase.zeroExtend 64)
  | 0x228 => some (c.leasemax.zeroExtend 64)
  | 0x500 => some (c.vcount.zeroExtend 64)
  | 0x508 => some (BitVec.ofNat 64 (c.vconsa.toNat + at_ c.vconsb.toNat 16))
  | 0x510 => some c.vrkey
  | 0x518 => some c.vrctr
  | _ => none

/-- The value of a system register, none where none is placed on that sequencer. -/
def sysRead (s : State) (k : Nat) (q : SeqId) (off : Nat) : Option Word :=
  (sysReadAny s k q off).or
    (match q with
     | .K => sysReadK (s.cellAt k) off
     | .C => sysReadC (s.cellAt k) off
     | _ => none)

/-- Registers that no `wrsys` may write (R319): TSTAT, CYCLE, LCVn, VCOUNT, VCONSA, and the controller's (R401). -/
def sysReadOnly (off : Nat) : Bool :=
  off == 0x128 || off == 0x188 || (0x308 ≤ off && off ≤ 0x320) || off == 0x500 || off == 0x508 || (0x600 ≤ off && off < 0x800)

/-- Registers that only a handler may write (R249, R320). -/
def sysHandlerOnly (off : Nat) : Bool := (0x108 ≤ off && off ≤ 0x120) || (0x130 ≤ off && off ≤ 0x148) || off == 0x300

/-- TPBK as written (R320, R308): its reserved bits ignored, a REM above 8 written as 0. -/
def tpbkOf (v : Word) : BitVec 16 := v.truncate 16 &&& (if 8 < v.toNat % 16 then 0xFF10 else 0xFF1F)

/-- A cell with one of its system registers written by a sequencer; reserved bits are ignored (R319). -/
def sysWrite (c : Cell) (q : SeqId) (off : Nat) (v : Word) : Cell :=
  match off with
  | 0x100 => { c with tvecEntry := v.truncate 14, tvecEn := v.getLsbD 14 }
  | 0x108 => { c with tcause := v.truncate 8, tdefer := v.getLsbD 8 }
  | 0x110 => { c with tpc := v }
  | 0x118 => { c with tseq := v.truncate 2 }
  | 0x120 => { c with tval := v }
  | 0x130 => { c with rpck := v }
  | 0x138 => { c with rpcl := v }
  | 0x140 => { c with rpcc := v }
  | 0x148 => { c with rpcs := v }
  | 0x150 => { c with tsavea := v }
  | 0x158 => { c with tsaveb := v }
  | 0x180 => c.modSeq q (fun x => { x with waitBound := v.truncate 32 })
  | 0x200 => { c with vrb := v.truncate 8 &&& 0xFE }
  | 0x208 => { c with mrb := v.truncate 3 }
  | 0x210 => { c with fmtbase := v.truncate 6 }
  | 0x218 => { c with srseed := v }
  | 0x220 => { c with srbase := v.truncate 24 }
  | 0x228 => { c with leasemax := if v.truncate 8 = 0#8 then 1 else v.truncate 8 }
  | 0x300 => { c with tpbk := tpbkOf v }
  | 0x400 => c.modSeq q (fun x => { x with trdMiss := v.truncate 32 })
  | 0x510 => { c with vrkey := v }
  | 0x518 => { c with vrctr := v }
  | _ => c

end Sys2Proof.Machine
end

