-- ==== Sys2Proof/Machine/Access.lean ====
section
/-! DEFINITION. One sequencer access to memory (R329 to R333): where it lands, what it waits for, what it reads and when it is
performed; the mesh request of an access to another die; shape records and their walk (R284, R285). -/

namespace Sys2Proof.Machine

/-- The code that `Access.waiting` holds for the replica sequencer (R184). -/
def replicaDst : Nat := 99

/-- A translation for the sequencer whose turn it is, or its fault (R164). -/
def xlate (ea : Word) (wr : Bool) : M (Nat × Bool) := do
  let s ← get
  match s.translate s.here ea wr with
  | .error .fault => holdWith (fun s => (s.noteWalk s.here ea).precise (if wr then tcStore else tcLoad) ea)
  | .error .bad => holdWith (fun s => (s.noteWalk s.here ea).precise tcUncorrectable ea)
  | .ok (pa, repl, s1) => do
    set s1
    pure (pa, repl)

/-- A load of HBM takes or renews a lease of its line (R175). -/
def State.noteLease (s : State) (pa : Nat) : State :=
  if pa < hbmTop then { s with leases := NatMap.put 0 s.leases (pa / 64) s.cycle } else s

/-! ### Declared latencies (R234) -/

/-- The declared latency of a load of a cell: its own scratchpad, another of its die, HBM, and 64 a hop each way. -/
def State.loadLatency (s : State) (k pa : Nat) : Nat :=
  let die := k / 64
  if inSp pa then (if spCell pa = k then 88 else 160 + s.hopTime die (homeDie pa)) else 720 + s.hopTime die (homeDie pa)

/-- The declared latency of an element access of a cell to an address: a walk where the cell's TLB misses, a store to a replicated page. -/
def State.accessTime (s : State) (k : Nat) (va : Word) (wr : Bool) : Nat :=
  (if va.toNat < localBase && !(s.cellAt k).tlb.any (TlbEntry.hits va.toNat) then 2880 else 0) +
  (match s.translate k va wr with
   | .error _ => 0
   | .ok (pa, repl, s1) => if repl && wr then 2400 else s.loadLatency k (if repl then s1.replica (k / 64) pa else pa))

/-- An access sent to another die: the instruction has issued and waits for the answer (R17). -/
def sendAccess (ea : Word) (wr : Bool) (op : MemOp) (cls : StoreClass) : M Word :=
  holdWith (fun s =>
    match s.translate s.here ea wr with
    | .error _ => s
    | .ok (pa, _, s1) =>
      match s1.request (s.here / 64) (homeDie pa) pa op s.here s.site.seq cls s.curSeq.pc ea with
      | none => s
      | some (q, s2) => s2.modSeq (fun x => { x with access := some (.waiting (homeDie pa) q), blocked := none }))

/-- An atomic sent to the replica sequencer (R184). -/
def sendReplica (ea : Word) (op : MemOp) : M Word :=
  holdWith (fun s =>
    match s.translate s.here ea true with
    | .error _ => s
    | .ok (pa, _, s1) =>
      (s1.sendReplica { pa := pa, op := op, cell := s.here, seq := s.site.seq, cls := .ordered, pc := s.curSeq.pc, va := ea }).modSeq (fun x =>
        { x with access := some (.waiting replicaDst 0), blocked := none }))

/-- The answer of an access that left the die, or the request itself (R17, R19). -/
def remoteAnswer (lost : BitVec 8) (ea : Word) (send : M Word) : M Word := do
  let s ← get
  match s.curSeq.access with
  | none => send
  | some (.waiting _ _) => stallNow
  | some .lost => raise lost ea
  | some (.answered (.value v)) => pure v
  | some (.answered .uncorrectable) => raise tcUncorrectable ea
  | some (.answered .done) => pure 0

/-- Whether stores of the sequencer that are not performed overlap n bytes at pa. -/
def State.overlapsOwn (s : State) (pa n : Nat) : Bool :=
  s.pendingStore s.here s.site.seq (fun _ a m => decide (a < pa + n) && decide (pa < a + m))

/-- Whether a load of n bytes at pa would be given bytes of an own store that is not performed (R107, R122). -/
def State.forwards (s : State) (pa n : Nat) : Bool := !s.forkClear s.here s.site.seq pa n

/-- The register d, just loaded from n bytes at pa, noted where the value came from an own store that is not performed. -/
def noteForward (d : BitVec 5) (pa n : Nat) : M Unit := do
  let s ← get
  if s.forwards pa n && decide (d.toNat < 24) then modSq (fun x => { x with fwd := x.fwd ++ [d.toNat] }) else pure ()

/-- A later store or atomic waits for a `fence rel` (R171 rule 7). -/
def State.fenced (s : State) : Bool := s.curSeq.relFence && !s.storesDone s.here s.site.seq

/-- Whether an ordered store of the sequencer is not performed (R171 rule 2). -/
def State.orderedPending (s : State) : Bool :=
  s.pendingStore s.here s.site.seq (fun c _ _ => c == .ordered)

/-- The n bytes at a physical address, as the sequencer's load sees them: its own stores forwarded (R107, R122), the replica of
its die (R183), or the answer of another die. -/
def loadValue (ea : Word) (n pa : Nat) (repl : Bool) : M Word := do
  let s ← get
  let die := s.here / 64
  let at' := if repl then s.replica die pa else pa
  if homeDie at' = die then
    if s.badRead at' n || s.heldBad s.here s.site.seq pa n then raise tcUncorrectable ea
    else do
      set (s.noteLease at')
      pure (BitVec.ofNat 64 (ofLe ((s.ownStores s.here s.site.seq).foldl (overlay pa) (s.bytesAt at' n))))
  else if s.curSeq.access.isNone && s.overlapsOwn pa n then stallNow
  else remoteAnswer tcLoad ea (sendAccess ea false (.read n) .relaxed)

/-- Sign or zero extension of n loaded bytes (R330). -/
def extendLoad (sg : Bool) (n : Nat) (v : Word) : Word := if sg then sx (v.toNat % 2 ^ (8 * n)) (8 * n) else v

/-- A misaligned address raises MISALIGNED and performs nothing (R168). -/
def checkAligned (ea : Word) (n : Nat) : M Unit := if ea.toNat % n ≠ 0 then raise tcMisaligned ea else pure ()

/-- The class of a scalar load (R329). -/
inductive LoadClass where
  | relaxed | ordered | acquire
deriving DecidableEq, Repr

/-- A scalar load from a virtual address (R330); only a relaxed one is given bytes of a store that is not performed (R171 rules 1 to 3). -/
def seqLoad (cls : LoadClass) (n : Nat) (sg : Bool) (d : BitVec 5) (ea : Word) : M Unit := do
  checkAligned ea n
  let s ← get
  if cls == .ordered && s.orderedPending then stallNow
  else do
    let (pa, repl) ← xlate ea false
    let s ← get
    if cls != .relaxed && s.forwards pa n then stallNow
    else do
      let v ← loadValue ea n pa repl
      writeReg d (extendLoad sg n v)
      noteForward d pa n

/-- A store leaves through a check slot (R107), after a `fence rel` once the earlier stores are performed; it stalls or waits on a locked word (R122, R123). -/
def seqStoreAt (cls : StoreClass) (n : Nat) (ea : Word) (pa : Nat) (repl : Bool) (v : Word) : M Unit := do
  let s ← get
  if s.fenced then stallNow
  else if s.wordHeld pa && cls ≠ .relaxed then waitFor 0 (spOff pa / 64)
  else if s.wordHeld pa && (s.cellAt (spCell pa)).freeEntry.isNone then waitFor 7 0
  else do
    if s.storesDone s.here s.site.seq then modSq (fun x => { x with relFence := false, fwd := [] }) else pure ()
    slotItem (.store pa (leBytes n v.toNat) cls repl s.curSeq.pc ea)

/-- A scalar store to a virtual address (R330, R171 rules 2 and 4). -/
def seqStore (cls : StoreClass) (n : Nat) (ea v : Word) : M Unit := do
  checkAligned ea n
  let s ← get
  if (cls == .ordered && s.orderedPending) || (cls == .release && !s.storesDone s.here s.site.seq) then stallNow
  else do
    let (pa, repl) ← xlate ea true
    seqStoreAt cls n ea pa repl v

/-- Access size in bytes (R273). -/
def sizeOf' (z : BitVec 2) : Nat := 2 ^ z.toNat

/-- The effective address (R330). -/
def effAddr {w : Nat} (base : Word) (o : BitVec w) (n : Nat) : Word := base + BitVec.ofNat 64 (o.toNat * n)

/-- A virtual load instruction. -/
def loadInstr {w : Nat} (t : BitVec 4) (d a : BitVec 5) (z : BitVec 2) (sg : BitVec 1) (o : BitVec w) (cls : LoadClass) : State → Out :=
  issue { t := t, checks := do checkDst d; checkSrc a } (do
    let x ← readReg a
    seqLoad cls (sizeOf' z) (sg == 1) d (effAddr x o (sizeOf' z))
    pure .seq)

/-- A virtual store instruction: d holds the data and is read after a (R295). -/
def storeInstr {w : Nat} (t : BitVec 4) (d a : BitVec 5) (z : BitVec 2) (o : BitVec w) (cls : StoreClass) : State → Out :=
  issue { t := t, checks := do checkSrc d; checkSrc a } (do
    let x ← readReg a
    let v ← readReg d
    seqStore cls (sizeOf' z) (effAddr x o (sizeOf' z)) v
    pure .seq)

/-- An atomic (R333): an ordered access performed at its home; c is the comparand of `cas`. -/
def seqAtomic (op n : Nat) (ea y c : Word) : M Word := do
  checkAligned ea n
  let s ← get
  if s.curSeq.access.isNone && (s.orderedPending || s.fenced) then stallNow
  else do
    let (pa, repl) ← xlate ea true
    let s ← get
    if s.curSeq.access.isNone && s.overlapsOwn pa n then
      (if s.wordHeld pa then waitFor 0 (spOff pa / 64) else stallNow)
    else if repl then remoteAnswer tcStore ea (sendReplica ea (.atomic op n y c))
    else if homeDie pa ≠ s.here / 64 then remoteAnswer tcStore ea (sendAccess ea true (.atomic op n y c) .ordered)
    else if s.wordHeld pa then waitFor 0 (spOff pa / 64)
    else if s.badRead pa n then raise tcUncorrectable ea
    else do
      let (old, s1) := s.atomicAt pa op n y c
      set s1
      pure old

/-- An atomic instruction other than `cas`: it is sent once its result and its signals have room, so that it is applied once (R333). -/
def atomInstr (op : Nat) (t : BitVec 4) (d a b : BitVec 5) (z : BitVec 1) : State → Out :=
  issue { t := t, checks := checkDAB d a b } (do
    let x ← readReg a
    let y ← readReg b
    roomFirst t d
    let old ← seqAtomic op (if z = 1 then 8 else 4) x y 0
    writeReg d old
    pure .seq)

/-! ### Shape records (R284, R285) -/

/-- A shape record as read. -/
structure Shape where
  rank   : Nat
  esize  : Nat
  perm   : Nat
  base   : Word
  lo     : List Int
  ext    : List Int
  stride : List Int
deriving DecidableEq, Repr

/-- The fields of a record's 128 bytes; none where a field is out of range or a reserved bit is set. -/
def shapeOf (bs : List Byte) : Option Shape :=
  let w (i n : Nat) : Nat := ofLe ((bs.drop i).take n)
  let w0 := w 0 8
  let rank := w0 % 16
  let r := List.range rank
  if rank = 0 || 8 < rank || w0 / 64 % 4 ≠ 0 || w0 / 256 % 4 = 3 || w0 / 1024 ≠ 0 || w 8 8 / 2 ^ 52 ≠ 0 then none
  else some { rank := rank, esize := w0 / 16 % 4, perm := w0 / 256 % 4, base := BitVec.ofNat 64 (w 8 8),
              lo := r.map (fun i => sxInt (w (0x10 + 2 * i) 2) 16),
              ext := r.map (fun i => (w (0x20 + 4 * i) 4 : Int)),
              stride := r.map (fun i => sxInt (w (0x40 + 8 * i) 8) 64) }

/-- The bank permutation of a scratchpad offset (R285). -/
def permute (perm x : Nat) : Nat :=
  let b := x / 64 % 32
  let w := x / 2 ^ 11 % 2 ^ 11
  let b' := match perm with
    | 1 => b ^^^ (w % 32)
    | 2 => (b + w) % 32
    | _ => b
  w * 2 ^ 11 + b' * 64 + x % 64

/-- A physical address under a record's permutation. -/
def permutePa (perm pa : Nat) : Nat := if inSp pa then pa - spOff pa + permute perm (spOff pa) else pa

/-- Whether coordinates lie in a record's bounds. -/
def Shape.valid (r : Shape) (x : List Int) : Bool :=
  (List.range r.rank).all (fun i => decide (r.lo.getD i 0 ≤ x.getD i 0) && decide (x.getD i 0 < r.ext.getD i 0))

/-- The address of an element, modulo 2^64. -/
def Shape.addr (r : Shape) (off : Word) (x : List Int) : Word :=
  r.base + off + BitVec.ofInt 64 ((List.range r.rank).foldl (fun acc i => acc + x.getD i 0 * r.stride.getD i 0) 0)

/-- The element that an index selects in walking order, the first dimension fastest (R344). -/
def Shape.coords (r : Shape) (n : Nat) : List Int :=
  ((List.range r.rank).foldl (fun (acc : List Int × Nat) i =>
    let size := (r.ext.getD i 0 - r.lo.getD i 0).toNat
    (acc.1 ++ [r.lo.getD i 0 + ((acc.2 % size : Nat) : Int)], acc.2 / size)) ([], n)).1

/-- The number of elements of a walk. -/
def Shape.count (r : Shape) : Nat :=
  (List.range r.rank).foldl (fun acc i => acc * (r.ext.getD i 0 - r.lo.getD i 0).toNat) 1

/-- The elements of a `tld` or `tst` from element j on: number, physical address, virtual address; or the fault of the
lowest-numbered element that fails (R334). -/
def tensorElems (r : Shape) (c : List Int) (wr : Bool) : Nat → Nat → M (List (Nat × Nat × Word))
  | 0, _ => pure []
  | n + 1, j => do
    let x := (c.getD 0 0 + (j : Int)) :: c.drop 1
    if r.valid x then do
      let ea := r.addr 0 x
      checkAligned ea (2 ^ r.esize)
      let (pa, repl) ← xlate ea wr
      let l ← tensorElems r c wr n (j + 1)
      pure ((j, (if repl then pa + replFlag else permutePa r.perm pa), ea) :: l)
    else tensorElems r c wr n (j + 1)

/-- The coordinates g[a] to g[a + n - 1] (R284). -/
def readCoords (a : BitVec 5) (n : Nat) : M (List Int) := do
  let s ← get
  if (List.range n).any (fun i => s.awaitsStore (a.toNat + i)) then stallNow
  else pure ((List.range n).map (fun i => (s.curSeq.greg (a.toNat + i)).toInt))

/-- The record that a `tld` or `tst` names (R284, R334). -/
def readShape (off : Word) (cause : BitVec 8) : M Shape := do
  let s ← get
  if off.toNat % 128 ≠ 0 || 0x400000 - 128 < off.toNat then raise cause off
  else
    let pa := spAddr s.here off.toNat
    if s.badRead pa 128 then raise tcUncorrectable off
    else
      match shapeOf (s.seenBytes s.here s.site.seq pa 128) with
      | none => raise cause off
      | some r => pure r

end Sys2Proof.Machine
end

