-- ==== Sys2Proof/Machine/Memory.lean ====
section
/-! DEFINITION. The memory instructions: loads and stores, fences, atomics, tensor loads and stores, tags, the tagged store
(chapter 14, R329 to R340). -/

namespace Sys2Proof.Machine

/-- `ldo` (R330). -/
def execLdo (t : BitVec 4) (d a : BitVec 5) (z : BitVec 2) (sg : BitVec 1) (_c : BitVec 2) (o : BitVec 7) : State → Out :=
  loadInstr t d a z sg o .ordered

/-- `sto` (R330). -/
def execSto (t : BitVec 4) (d a : BitVec 5) (z : BitVec 2) (_c : BitVec 2) (o : BitVec 7) : State → Out :=
  storeInstr t d a z o .ordered

/-- `ldx` (R330). -/
def execLdx (t : BitVec 4) (d a : BitVec 5) (z : BitVec 2) (sg : BitVec 1) (o : BitVec 9) : State → Out :=
  loadInstr t d a z sg o .relaxed

/-- `stx` (R330). -/
def execStx (t : BitVec 4) (d a : BitVec 5) (z : BitVec 2) (o : BitVec 9) : State → Out := storeInstr t d a z o .relaxed

/-- `ldacq` (R330). -/
def execLdacq (t : BitVec 4) (d a : BitVec 5) (z : BitVec 2) (sg : BitVec 1) (_c : BitVec 2) (o : BitVec 6) : State → Out :=
  loadInstr t d a z sg o .acquire

/-- `strel` (R330). -/
def execStrel (t : BitVec 4) (d a : BitVec 5) (z : BitVec 2) (_c : BitVec 2) (o : BitVec 6) : State → Out :=
  storeInstr t d a z o .release

/-- A cell-local offset that does not lie wholly below 0x40_0000 faults (R330). -/
def checkLocal (cause : BitVec 8) (ea : Word) (n : Nat) : M Unit := if 0x400000 < ea.toNat + n then raise cause ea else pure ()

/-- `lds` (R330): a cell-local offset, no translation. -/
def execLds (t : BitVec 4) (d a : BitVec 5) (z : BitVec 2) (sg : BitVec 1) (o : BitVec 9) : State → Out :=
  issue { t := t, checks := do checkDst d; checkSrc a } (do
    let x ← readReg a
    let n := sizeOf' z
    let ea := effAddr x o n
    checkAligned ea n
    checkLocal tcLoad ea n
    let s ← get
    let v ← loadValue ea n (spAddr s.here ea.toNat) false
    writeReg d (extendLoad (sg == 1) n v)
    noteForward d (spAddr s.here ea.toNat) n
    pure .seq)

/-- `sts` (R330): a cell-local offset, no translation. -/
def execSts (t : BitVec 4) (d a : BitVec 5) (z : BitVec 2) (o : BitVec 9) : State → Out :=
  issue { t := t, checks := do checkSrc d; checkSrc a } (do
    let x ← readReg a
    let v ← readReg d
    let n := sizeOf' z
    let ea := effAddr x o n
    checkAligned ea n
    checkLocal tcStore ea n
    let s ← get
    seqStoreAt .relaxed n ea (spAddr s.here ea.toNat) false v
    pure .seq)

/-! ### Atomics (R333) -/

/-- `atom.swap`. -/
def execAtomSwap (t : BitVec 4) (d a b : BitVec 5) (z : BitVec 1) (_c : BitVec 2) : State → Out := atomInstr 0 t d a b z

/-- `atom.add`. -/
def execAtomAdd (t : BitVec 4) (d a b : BitVec 5) (z : BitVec 1) (_c : BitVec 2) : State → Out := atomInstr 1 t d a b z

/-- `atom.and`. -/
def execAtomAnd (t : BitVec 4) (d a b : BitVec 5) (z : BitVec 1) (_c : BitVec 2) : State → Out := atomInstr 2 t d a b z

/-- `atom.or`. -/
def execAtomOr (t : BitVec 4) (d a b : BitVec 5) (z : BitVec 1) (_c : BitVec 2) : State → Out := atomInstr 3 t d a b z

/-- `atom.xor`. -/
def execAtomXor (t : BitVec 4) (d a b : BitVec 5) (z : BitVec 1) (_c : BitVec 2) : State → Out := atomInstr 4 t d a b z

/-- `atom.max`. -/
def execAtomMax (t : BitVec 4) (d a b : BitVec 5) (z : BitVec 1) (_c : BitVec 2) : State → Out := atomInstr 5 t d a b z

/-- `atom.maxz`. -/
def execAtomMaxz (t : BitVec 4) (d a b : BitVec 5) (z : BitVec 1) (_c : BitVec 2) : State → Out := atomInstr 6 t d a b z

/-- `atom.cas`: reads d after a and b, and d names no port. -/
def execAtomCas (t : BitVec 4) (d a b : BitVec 5) (z : BitVec 1) (_c : BitVec 2) : State → Out :=
  issue { t := t, checks := do checkNoPort d; checkSrc a; checkSrc b } (do
    let x ← readReg a
    let y ← readReg b
    let c ← readReg d
    roomFirst t d
    let old ← seqAtomic 7 (if z = 1 then 8 else 4) x y c
    writeReg d old
    pure .seq)

/-! ### Fences (R332) -/

/-- `fence.sc`: later instructions wait until the sequencer's earlier stores are performed. -/
def execFenceSc (t : BitVec 4) (_c : BitVec 2) : State → Out :=
  issue { t := t } (do
    let s ← get
    if s.storesDone s.here s.site.seq then pure .seq else stallNow)

/-- `fence.acq`: loads are performed in order, so it only waits for the stores that an earlier load was given before they were performed (R171 rules 1, 6). -/
def execFenceAcq (t : BitVec 4) (_c : BitVec 2) : State → Out :=
  issue { t := t } (do
    let s ← get
    if s.curSeq.fwd.isEmpty || s.storesDone s.here s.site.seq then pure .seq else stallNow)

/-- `fence.rel`: a later store or atomic waits until the earlier stores are performed (R171 rule 7); a later load does not (R409). -/
def execFenceRel (t : BitVec 4) (_c : BitVec 2) : State → Out :=
  issue { t := t } (do
    modSq (fun x => { x with relFence := true })
    pure .seq)

/-! ### Tensor loads and stores (R334) -/

/-- The signals of an engine command, reserved at issue (R94). -/
def reserveSignals (l : List Nat) : M Unit := eachM reserveToken l

/-- Loads on their way to a queue; each has its row reserved. -/
def Cell.rowsDue (c : Cell) (q : Nat) : Nat := c.tensors.countP (fun x => x.load && x.queue == q)

/-- The rows of an operand queue. -/
def Cell.vqRows (c : Cell) (q : Nat) : List Row := NatMap.get [] c.vq q

/-- A cell with an operand queue replaced. -/
def Cell.setVq (c : Cell) (q : Nat) (l : List Row) : Cell :=
  { c with vq := NatMap.put [] c.vq q l, vqHead := NatMap.put 0 c.vqHead q ((NatMap.get 0 c.vqHead q + ((c.vqRows q).length - l.length)) % 8) }

/-- A cell with a row that has come to an operand queue at a cycle. -/
def Cell.pushVq (c : Cell) (q : Nat) (r : Row) (now : Nat) : Cell :=
  { (c.setVq q (c.vqRows q ++ [r])) with vqAt := NatMap.put [] c.vqAt q (NatMap.get [] c.vqAt q ++ [now]) }

/-- A cell without the first row of an operand queue. -/
def Cell.popVq (c : Cell) (q now : Nat) : Cell :=
  { (c.setVq q ((c.vqRows q).drop 1)) with vqAt := NatMap.put [] c.vqAt q ((NatMap.get [] c.vqAt q).drop 1),
                                           vqFree := if 8 ≤ (c.vqRows q).length then NatMap.put 0 c.vqFree q now else c.vqFree }

/-- Checks of a tensor access at decode: the coordinate registers (R284), the record register. -/
def checkTensor (d a : BitVec 5) (n : BitVec 3) : M Unit := do
  checkSrc d
  if 23 < a.toNat + n.toNat - 1 then raise tcIllegalReg (regVal a) else pure ()

/-- The declared latency of the slowest of some element accesses of the cell whose turn it is (R234). -/
def State.slowest (s : State) (l : List (Nat × Nat × Word)) (wr : Bool) : Nat := l.foldl (fun m e => max m (s.accessTime s.here e.2.2 wr)) 0

/-- The command of a tensor access enters the cell through a check slot. -/
def issueTensor (r : Shape) (elems : List (Nat × Nat × Word)) (load : Bool) (queue : Nat) (row : Row) (tokens : List Nat) (lat : Nat) : M Unit := do
  let s ← get
  let id := s.cur.nextId
  slotItem (.command id)
  modCur (fun c => { c with
    nextId := id + 1,
    tensors := c.tensors ++ [{ id := id, load := load, queue := queue, esize := r.esize, elems := elems, row := row, tokens := tokens,
                               pc := s.curSeq.pc, issued := s.cycle, lat := lat }] })

/-- `tld` (R334): waits for a free row, captures the record, checks every element. -/
def execTld (t : BitVec 4) (d a : BitVec 5) (n : BitVec 3) (q : BitVec 2) : State → Out :=
  issue { t := t, who := [.L], signal := false, checks := checkTensor d a n } (do
    let off ← readReg d
    let s ← get
    if 8 ≤ (s.cur.vqRows q.toNat).length + s.cur.rowsDue q.toNat then waitFor 4 q.toNat
    else do
      let r ← readShape off tcLoad
      let c ← readCoords a n.toNat
      let es ← tensorElems r c false (512 >>> r.esize) 0
      reserveSignals (signalsOf t .L)
      issueTensor r es true q.toNat 0 (signalsOf t .L) (s.slowest es false)
      pure .seq)

/-- `tst` (R334): waits for a row and pops it at issue. -/
def execTst (t : BitVec 4) (d a : BitVec 5) (n : BitVec 3) (q : BitVec 1) : State → Out :=
  issue { t := t, who := [.S], signal := false, checks := checkTensor d a n } (do
    let off ← readReg d
    let s ← get
    let vq := 4 + q.toNat
    match s.cur.vqRows vq with
    | [] => waitFor 4 vq
    | row :: _ => do
      let r ← readShape off tcStore
      let c ← readCoords a n.toNat
      let es ← tensorElems r c true (512 >>> r.esize) 0
      modCur (fun c => c.popVq vq s.cycle)
      reserveSignals (signalsOf t .S)
      issueTensor r es false vq row (signalsOf t .S) (s.slowest es false)
      pure .seq)

/-! ### Completion tags (R335, R336) -/

/-- The tags of a mask that satisfy p, lowest first. -/
def tagsWhere (m : Word) (p : Nat → Bool) : List Nat := (List.range 64).filter (fun i => m.getLsbD i && p i)

/-- A tag number of 64 or above raises TAG_FAULT (R336). -/
def tagNumber (v : Word) : M Nat := if 64 ≤ v.toNat then raise tcTag v else pure v.toNat

/-- `waitany` (R336). -/
def execWaitany (t : BitVec 4) (d a : BitVec 5) : State → Out :=
  issue { t := t, checks := do checkDst d; checkSrc a } (do
    let m ← readReg a
    let s ← get
    match tagsWhere m s.cur.tagDone with
    | i :: _ => do
      writeReg d (BitVec.ofNat 64 i)
      pure .seq
    | [] =>
      if m = 0 then do
        writeReg d 64
        pure .seq
      else waitFor 2 ((tagsWhere m (fun _ => true)).headD 0))

/-- `waitall` (R336). -/
def execWaitall (t : BitVec 4) (d a : BitVec 5) : State → Out :=
  issue { t := t, checks := do checkDst d; checkSrc a } (do
    let m ← readReg a
    let s ← get
    match tagsWhere m (fun i => !s.cur.tagDone i) with
    | i :: _ => waitFor 2 i
    | [] => do
      writeReg d ((tagsWhere m (fun i => s.cur.tagStatus i != 0)).foldl (fun acc i => acc ||| (1#64 <<< i)) 0)
      pure .seq)

/-- `ffr` (R336). -/
def execFfr (t : BitVec 4) (d a : BitVec 5) : State → Out :=
  issue { t := t, checks := do checkDst d; checkSrc a } (do
    let m ← readReg a
    let s ← get
    writeReg d (BitVec.ofNat 64 ((tagsWhere m s.cur.tagDone).headD 64))
    pure .seq)

/-- `tagclr` (R336). -/
def execTagclr (t : BitVec 4) (a : BitVec 5) : State → Out :=
  issue { t := t, checks := checkSrc a } (do
    let m ← readReg a
    modCur (fun c => { c with tags := c.tags.filter (fun e => !m.getLsbD e.1) })
    pure .seq)

/-- `tagrd` (R336). -/
def execTagrd (t : BitVec 4) (d a : BitVec 5) : State → Out :=
  issue { t := t, checks := do checkDst d; checkSrc a } (do
    let v ← readReg a
    let i ← tagNumber v
    let s ← get
    writeReg d ((s.cur.tagWord i).zeroExtend 64)
    pure .seq)

/-- `tagst` (R336): a release of package scope. -/
def execTagst (t : BitVec 4) (a b : BitVec 5) : State → Out :=
  issue { t := t, checks := do checkSrc a; checkSrc b } (do
    let v ← readReg a
    let st ← readReg b
    let i ← tagNumber v
    let s ← get
    if !s.storesDone s.here s.site.seq then stallNow
    else do
      modCur (fun c => c.setTag i (st.truncate 3))
      pure .seq)

/-- The region that a 32-byte record arms; none where R197 refuses it. -/
def armRecord (bs : List Byte) : Option Arrival :=
  let w (i : Nat) : Nat := ofLe ((bs.drop (8 * i)).take 8)
  let base := w 0 % 2 ^ 22
  let len := w 1 % 2 ^ 23
  let expect := w 2 % 2 ^ 32
  if w 0 / 2 ^ 25 ≠ 0 || w 1 / 2 ^ 23 ≠ 0 || w 3 / 2 ^ 15 ≠ 0 || 2 ^ 22 < base + len || expect = 0 || base % 8 ≠ 0 || len % 8 ≠ 0 || len < 8 then none
  else some { base := BitVec.ofNat 22 base, armed := true, len := BitVec.ofNat 23 len, expect := BitVec.ofNat 32 expect,
              ctr := BitVec.ofNat 14 (w 3), ctrEn := (w 3).testBit 14 }

/-- `tagst.arm` (R336, R197). -/
def execTagstArm (t : BitVec 4) (a b : BitVec 5) : State → Out :=
  issue { t := t, checks := do checkSrc a; checkSrc b } (do
    let v ← readReg a
    let off ← readReg b
    let i ← tagNumber v
    if off.toNat % 32 ≠ 0 || 0x400000 - 31 ≤ off.toNat then raise tcTag off
    else do
      let s ← get
      let pa := spAddr s.here off.toNat
      if s.badRead pa 32 then raise tcUncorrectable off
      else
        match armRecord (s.seenBytes s.here s.site.seq pa 32) with
        | none => raise tcTag off
        | some r => do
          modCur (fun c => { (c.clearTag i) with regions := NatMap.put {} c.regions i r })
          pure .seq)

/-! ### The tagged store (R338, R339) -/

/-- The set of an address's line (R105). -/
def lineSet (va : Word) : Nat := (jmix64 0 (va &&& ~~~(0x7F#64))).toNat / 2 ^ 12 % 2 ^ 12

/-- A slot's entry. -/
def Cell.entry (c : Cell) (i : Nat) : TagEntry := NatMap.get {} c.entries i

/-- A cell with a slot's entry replaced. -/
def Cell.setEntry (c : Cell) (i : Nat) (e : TagEntry) : Cell := { c with entries := NatMap.put {} c.entries i e }

/-- The slot that a register names (R338). -/
def slotNo (v : Word) : Nat := v.toNat % 2 ^ 14

/-- `tlook` (R339). -/
def execTlook (t : BitVec 4) (d a : BitVec 5) : State → Out :=
  issue { t := t, checks := do checkDst d; checkSrc a } (do
    let va ← readReg a
    let s ← get
    let base := 4 * lineSet va
    let hit := ([0, 1, 2, 3].map (base + ·)).find? (fun i =>
      let e := s.cur.entry i
      (e.v || e.fill) && e.line == va.extractLsb' 7 45)
    writeReg d (BitVec.ofNat 64 (hit.getD 0xFFFFFFFF))
    pure .seq)

/-- Whether a fill must wait, as a load does, for the thread's own stores to a line whose home is on another die (R170). -/
def State.fillWaits (s : State) (va : Word) : Bool :=
  va.toNat / 2 ^ 52 == 0 &&
  (match s.translate s.here (va &&& ~~~(0x7F : Word)) false with
   | .error _ => false
   | .ok (pa, repl, s1) => decide (homeDie (if repl then s1.replica (s.here / 64) pa else pa) ≠ s.here / 64) && s1.overlapsOwn pa 128)

/-- What the fill of a slot reads at an address (R339, R186): its line and status; of another die it is asked for (R17), and the answer gives them. -/
def State.fillRead (s : State) (slot : Nat) (va : Word) : Line × BitVec 3 × State :=
  if va.toNat / 2 ^ 52 ≠ 0 then (0, 1, s)
  else
    let la := va &&& ~~~(0x7F : Word)
    match s.translate s.here la false with
    | .error x => (0, x.status, s.noteWalk s.here la)
    | .ok (pa, repl, s1) =>
      let die := s.here / 64
      let at' := if repl then s1.replica die pa else pa
      if homeDie at' ≠ die then (0, 0, s1.sendAsk s.here (s1.userOf s.here) (.fill s.here slot) 0 pa repl 128 (some (s.here, s.site.seq)))
      else if s1.badRead at' 128 then (0, 2, s1.logBad s.here at' 6)
      else (BitVec.ofNat 1024 (ofLe ((s1.ownStores s.here s.site.seq).foldl (overlay pa) (s1.bytesAt at' 128))), 0, s1)

/-- `tfill` (R339): waits for a fill in flight; the entry shows it until it completes. -/
def execTfill (t : BitVec 4) (a b : BitVec 5) : State → Out :=
  issue { t := t, checks := do checkSrc a; checkSrc b } (do
    let x ← readReg a
    let va ← readReg b
    let s ← get
    let i := slotNo x
    if (s.cur.entry i).fill || s.fillWaits va then stallNow
    else do
      let cnt := x.extractLsb' 16 8
      let (line, st, s1) := s.fillRead i va
      set s1
      modCur (fun c => { (c.setEntry i { line := va.extractLsb' 7 45, count := cnt, v := false, pin := cnt == 0, fill := true, status := (c.entry i).status }) with
        fills := c.fills ++ [⟨i, line, st, s.cycle, s.accessTime s.here (va &&& ~~~(0x7F : Word)) false, s.site.seq⟩] })
      pure .seq)

/-- A read of a valid line that is not pinned counts down (R106). -/
def TagEntry.countDown (e : TagEntry) : TagEntry :=
  if e.pin then e else { e with count := e.count - 1, v := e.count != 1 }

/-- Whether a sequencer of the cell that comes before the one whose turn it is, in the order K, L, C, S, is to read a slot in the same cycle (R106). -/
def State.trdAhead (s : State) (i : Nat) : Bool :=
  (s.agenda.takeWhile (fun t => t.dt == 0)).any (fun t =>
    match t.act with
    | .seq d c q =>
      let x := (s.cellAt (cellKey d c)).seq q
      cellKey d c == s.here && decide (q.num < s.site.seq.num) && decide (x.pc.toNat < x.codeLen) &&
      (match decodeWord (NatMap.get 0 x.code x.pc.toNat) with
       | .ok (.trd _ _ a _ _ _) =>
         slotNo (match portOf a with
           | none => x.greg a.toNat
           | some n => (s.cur.queue n).headD 0) == i
       | _ => false)
    | _ => false)

/-- `trd` (R339): of two reads of the last count in one cycle the first in the order K, L, C, S has it (R106), and the other waits for its next turn. -/
def execTrd (t : BitVec 4) (d a b : BitVec 5) (sg : BitVec 1) (z : BitVec 2) : State → Out :=
  issue { t := t, checks := checkDAB d a b } (do
    let x ← readReg a
    let off ← readReg b
    let n := sizeOf' z
    let i := slotNo x
    if 127 < off.toNat || off.toNat % n ≠ 0 then raise tcMisaligned off
    else do
      let s ← get
      let e := s.cur.entry i
      if e.fill || (e.v && !e.pin && e.count == 1 && s.trdAhead i) then stallNow
      else if !e.v then do
        modSq (fun y => { y with trdMiss := satInc y.trdMiss })
        writeReg d 0
        pure .seq
      else if s.cur.badLines.contains (16 * i + off.toNat / 8) then
        raise tcUncorrectable (BitVec.ofNat 64 (e.line.toNat * 128 + off.toNat))
      else do
        let v := (NatMap.get 0 s.cur.lines i).toNat / 2 ^ (8 * off.toNat) % 2 ^ (8 * n)
        modCur (fun c => c.setEntry i e.countDown)
        writeReg d (if sg = 1 then sx v (8 * n) else BitVec.ofNat 64 v)
        pure .seq)

/-- `tinv` (R339). -/
def execTinv (t : BitVec 4) (a : BitVec 5) : State → Out :=
  issue { t := t, checks := checkSrc a } (do
    let x ← readReg a
    let s ← get
    let i := slotNo x
    let e := s.cur.entry i
    if e.fill then stallNow
    else do
      modCur (fun c => c.setEntry i { e with v := false, pin := false, count := 0 })
      pure .seq)

/-- `tstat` (R339). -/
def execTstat (t : BitVec 4) (d a : BitVec 5) : State → Out :=
  issue { t := t, checks := do checkDst d; checkSrc a } (do
    let x ← readReg a
    let s ← get
    writeReg d (s.cur.entry (slotNo x)).word1
    pure .seq)

end Sys2Proof.Machine
end

