-- ==== Sys2Proof/Machine/Engine.lean ====
section
/-! DEFINITION. What every engine of the package shares: its accesses to memory (R122, R132, R183, R184), the tokens of a
completed command (R94, R95), declared latencies and late events (R232, R233), and writes to vector rows (R425). -/

namespace Sys2Proof.Machine

/-- The result of an engine's write. -/
inductive EngWrite where
  | done | bad | full
deriving DecidableEq, Repr

/-- What n bytes read as at an address of the package (R132). -/
def State.engRead (s : State) (pa n : Nat) : EngRead := if s.badRead pa n then .bad else .ok (s.bytesAt pa n)

/-- The answer that a read of an owner has brought back from another die. -/
def State.answerTo (s : State) (o : Owner) (idx : Nat) : Option EngRead :=
  (s.asks.find? (fun a => a.owner == o && a.idx == idx && a.back)).bind (fun a => a.ans)

/-- What an engine on a die reads for element idx of an owner: on its own die at once, on another the answer to the read that it has sent there; none
while that is not back (R10, R17, R183). -/
def State.readFor (s : State) (die : Nat) (o : Owner) (idx pa : Nat) (repl : Bool) (n : Nat) : Option EngRead :=
  let at' := if repl then s.replica die pa else pa
  if homeDie at' = die then some (s.engRead at' n) else s.answerTo o idx

/-- A read of n bytes made from a die for the host or for a management core, in one step (R183, R132, R19; log entry 162). -/
def State.engineRead (s : State) (die pa : Nat) (repl : Bool) (n : Nat) : EngRead :=
  let at' := if repl then s.replica die pa else pa
  if !s.reaches die (homeDie at') then .lost
  else if s.badRead at' n then .bad
  else .ok (s.bytesAt at' n)

/-- Whether an access from a die for the host or a management core must go on trying to reach the home of an address that agent k translates (R19). -/
def State.tryingAt (s : State) (k die : Nat) (va : Word) (wr : Bool) (since : Nat) : Bool :=
  match s.translate k va wr with
  | .error _ => false
  | .ok (pa, repl, s1) => s1.trying die (if repl then (if wr then 16 else homeDie (s1.replica die pa)) else homeDie pa) since

/-- n aligned words from a virtual address, read by the sequencer whose turn it is as relaxed loads: a word on another die is a request of its own,
and the instruction waits for it (R17); a failing word raises LOAD_FAULT or UNCORRECTABLE with its address. -/
def readWords (ea : Word) : Nat → M (List Word)
  | 0 => pure []
  | n + 1 => do
    let (pa, repl) ← xlate ea false
    let s ← get
    let o := Owner.words s.here s.site.seq
    let here := homeDie (if repl then s.replica (s.here / 64) pa else pa) = s.here / 64
    if !here && !s.asked o pa then
      (if s.overlapsOwn pa 8 then stallNow
       else holdWith (fun s => s.sendAsk s.here (s.userOf s.here) o pa pa repl 8 (some (s.here, s.site.seq))))
    else
      match s.readFor (s.here / 64) o pa pa repl 8 with
      | none => stallNow
      | some .lost => raise tcLoad ea
      | some .bad => raise tcUncorrectable ea
      | some (.ok bs) => do
        let w := BitVec.ofNat 64 (ofLe (if here then (s.ownStores s.here s.site.seq).foldl (overlay pa) bs else bs))
        let l ← readWords (ea + 8) n
        pure (w :: l)

/-- What an instruction has read of other dies is no longer kept. -/
def wordsRead : M Unit := modify (fun s => s.dropAsks (.words s.here s.site.seq))

/-- An update of a replicated page at every replica, under the next number (R184). -/
def State.applyReplicas (s : State) (pa : Nat) (bs : List Byte) : State :=
  (List.range 16).foldl (fun s d => if s.dieUp d then s.poke (pa % 2 ^ 36 + d * 2 ^ 36) bs else s) { s with replNum := s.replNum + 1 }

/-- A store of the vector unit or of `tst` of a cell, on behalf of sequencer q, by the instruction at pc to va: held in the commit buffer where the
word is locked (R122), a full buffer makes it wait; to another die, or to a replicated page, it is sent (R17, R184). -/
def State.engineWrite (s : State) (k pa : Nat) (repl : Bool) (bs : List Byte) (q : SeqId) (o : Owner) (pc va : Word) : State × EngWrite :=
  if repl then (s.sendElement k (pa + replFlag) bs q o pc va, .done)
  else if homeDie pa ≠ k / 64 then (s.sendElement k pa bs q o pc va, .done)
  else
    let (s1, bad, full) := s.writeRun pa bs { seq := some q, cell := k, owner := o, pc := pc, va := va }
    if full then (s, .full) else (s1, if bad.isSome then .bad else .done)

/-- The reads of an access's elements that lie on other dies, put on the mesh: element number, address, virtual address, n bytes each. -/
def State.askElems (s : State) (k : Nat) (o : Owner) (n : Nat) (l : List (Nat × Nat × Word)) : State :=
  l.foldl (fun s e => s.sendAsk k (s.userOf k) o e.1 (e.2.1 % replFlag) (decide (replFlag ≤ e.2.1)) n none) s

/-- What an element reads as; none while its answer is not back. -/
def State.readElem (s : State) (k : Nat) (o : Owner) (n : Nat) (e : Nat × Nat × Word) : Option EngRead :=
  s.readFor (k / 64) o e.1 (e.2.1 % replFlag) (decide (replFlag ≤ e.2.1)) n

/-! ### Completion of a command -/

/-- The level of the launch whose group a cell holds, 0 when it holds none. -/
def State.levelOf (s : State) (k : Nat) : Nat :=
  match (s.cellAt k).bound with
  | some b => b.level
  | none => 0

/-- Whether a command may not complete yet: at D2 it completes at its declared latency (R232). -/
def State.notYet (s : State) (k due : Nat) : Bool := decide (s.levelOf k = 2) && decide (s.cycle < due)

/-- What an event of a launch that ends later than declared leaves, in the box of a cell's die (R233, R266); kind as R257. -/
def State.lateFor (s : State) (key k due kind : Nat) : State :=
  if due < s.cycle then (s.corrected key (s.cycle - due)).bboxCell k 0x09 0 (BitVec.ofNat 64 (s.cycle - due)) (BitVec.ofNat 64 kind) else s

/-- A completion later than declared at D2 is a late event (R233); kind as R257. -/
def State.noteLate (s : State) (k due kind : Nat) : State :=
  match (s.cellAt k).bound with
  | none => s
  | some b => if b.level = 2 then s.lateFor b.launch k due kind else s

/-- The token signals of a command that completes enter the check slots of the sequencer that issued it, and count when they
leave (R94, R95, R107); after a machine check they are discarded (R258), and so are those of a group that a RESET or its fault domain has stopped (R95, R427). -/
def giveTokens (now : Nat) (q : SeqId) (l : List Nat) (c : Cell) : Cell :=
  if c.stop = some .machineCheck || c.stop = some .cancelled then c
  else c.modSeq q (fun x => { x with slots := x.slots ++ l.map (fun k => c.slotOf q (.token k) now) })

/-! ### Rows (R96, R425) -/

/-- A row written where `bits` is set: an ECC word written in part while uncorrectable stays; answers the first such word. -/
def Cell.writeRow (c : Cell) (r : Nat) (val bits : Row) : Cell × Option Nat :=
  if c.badRows.any (fun w => w / 64 == r) then
    let span (w : Nat) : Row := BitVec.ofNat 4096 ((2 ^ 64 - 1) <<< (64 * (w % 64)))
    let mine := c.badRows.filter (fun w => w / 64 == r)
    let stay := mine.filter (fun w => (bits &&& span w) != span w)
    let cut := stay.foldl (fun (b : Row) w => b &&& ~~~ span w) bits
    let old := NatMap.get 0 c.rows r
    ({ c with rows := NatMap.put 0 c.rows r ((old &&& ~~~ cut) ||| (val &&& cut)),
              badRows := c.badRows.filter (fun w => w / 64 != r || stay.contains w) },
     stay.find? (fun w => (bits &&& span w) != 0))
  else
    let old := NatMap.get 0 c.rows r
    ({ c with rows := NatMap.put 0 c.rows r ((old &&& ~~~ bits) ||| (val &&& bits)) }, none)

end Sys2Proof.Machine
end

