-- ==== Sys2Proof/Machine/Num.lean ====
section
/-! DEFINITION. The number formats, exact values, the one rounding, stochastic draws and the quantisers (chapter 6). -/

namespace Sys2Proof.Machine

/-- An exact value: NaN, an infinity, or (-1)^neg * (m + t) * 2^e with t = 0, or 0 < t < 1 when `st`. A zero keeps its sign. -/
inductive Val where
  | nan
  | inf (neg : Bool)
  | num (neg : Bool) (m : Nat) (e : Int) (st : Bool := false)
deriving DecidableEq, Repr

/-- A floating-point format (R133): exponent and mantissa widths, bias, and what E all ones stands for: 0 numbers only, 1
infinities and NaNs, 2 the one NaN of E4M3. -/
structure Fmt where
  eb   : Nat
  mb   : Nat
  bias : Int
  top  : Nat
deriving DecidableEq, Repr

def fp64 : Fmt := ⟨11, 52, 1023, 1⟩
def fp32 : Fmt := ⟨8, 23, 127, 1⟩
def bf16 : Fmt := ⟨8, 7, 127, 1⟩
def fp16 : Fmt := ⟨5, 10, 15, 1⟩
def e4m3 : Fmt := ⟨4, 3, 7, 2⟩
def e5m2 : Fmt := ⟨5, 2, 15, 1⟩
def e2m1 : Fmt := ⟨2, 1, 1, 0⟩
/-- A DX8 element without its selector (R136, R145). -/
def dx8 : Fmt := ⟨3, 3, 7, 0⟩
/-- A DX4 element without its selector (R136, R145). -/
def dx4 : Fmt := ⟨1, 1, 1, 0⟩

namespace Fmt

/-- The width in bits. -/
def width (f : Fmt) : Nat := 1 + f.eb + f.mb

/-- The smallest normal exponent. -/
def emin (f : Fmt) : Int := 1 - f.bias

/-- The largest finite magnitude as a significand. -/
def maxM (f : Fmt) : Nat := if f.top = 2 then 2 ^ (f.mb + 1) - 2 else 2 ^ (f.mb + 1) - 1

/-- The weight of the last place at the largest finite magnitude (R140: ulpmax = 2^maxE). -/
def maxE (f : Fmt) : Int := ((2 ^ f.eb : Nat) : Int) - (if f.top = 1 then 2 else 1) - f.bias - (f.mb : Int)

/-- The canonical NaN (R135), and 0 where a format has none (R142). -/
def nanBits (f : Fmt) : Nat :=
  match f.top with
  | 1 => (2 ^ f.eb - 1) * 2 ^ f.mb + 2 ^ (f.mb - 1)
  | 2 => 2 ^ (f.eb + f.mb) - 1
  | _ => 0

/-- A magnitude's bits with a sign. -/
def signed (f : Fmt) (neg : Bool) (mag : Nat) : Nat := (if neg then 2 ^ (f.eb + f.mb) else 0) + mag

/-- The bits of the largest finite magnitude. -/
def maxBits (f : Fmt) : Nat :=
  match f.top with
  | 1 => (2 ^ f.eb - 1) * 2 ^ f.mb - 1
  | 2 => 2 ^ (f.eb + f.mb) - 2
  | _ => 2 ^ (f.eb + f.mb) - 1

/-- ovf(fmt, sat, s) of R140. -/
def ovf (f : Fmt) (sat neg : Bool) : Nat :=
  if sat || f.top = 0 then f.signed neg f.maxBits
  else if f.top = 1 then f.signed neg ((2 ^ f.eb - 1) * 2 ^ f.mb)
  else f.nanBits

/-- The exact value of a bit pattern (R133, R134). -/
def decode (f : Fmt) (b : Nat) : Val :=
  let m := b % 2 ^ f.mb
  let e := b / 2 ^ f.mb % 2 ^ f.eb
  let neg := b.testBit (f.eb + f.mb)
  if f.top = 1 ∧ e = 2 ^ f.eb - 1 then (if m = 0 then .inf neg else .nan)
  else if f.top = 2 ∧ e = 2 ^ f.eb - 1 ∧ m = 2 ^ f.mb - 1 then .nan
  else if e = 0 then .num neg m (f.emin - (f.mb : Int))
  else .num neg (m + 2 ^ f.mb) ((e : Int) - f.bias - (f.mb : Int))

end Fmt

/-- 2^k of a natural exponent given as an integer, 1 when negative. -/
def pow2 (k : Int) : Nat := 2 ^ k.toNat

/-- Whether m * 2^e ≥ m' * 2^e'. -/
def dyGe (m : Nat) (e : Int) (m' : Nat) (e' : Int) : Bool :=
  let k := min e e'
  decide (m' * pow2 (e' - k) ≤ m * pow2 (e - k))

/-- Whether (m + t) * 2^e > m' * 2^e'. -/
def dyGt (m : Nat) (e : Int) (st : Bool) (m' : Nat) (e' : Int) : Bool :=
  let k := min e e'
  decide (m' * pow2 (e' - k) < m * pow2 (e - k)) || (st && decide (m' * pow2 (e' - k) = m * pow2 (e - k)))

/-- The floor of the binary logarithm of m * 2^e, m ≠ 0. -/
def dyLog (m : Nat) (e : Int) : Int := (m.log2 : Int) + e

/-- Whether a magnitude overflows a format (R141). -/
def overflows (f : Fmt) (mode r : Nat) (neg : Bool) (m : Nat) (e : Int) (st : Bool) : Bool :=
  match mode with
  | 0 => dyGe m e (2 * f.maxM + 1) (f.maxE - 1)
  | 1 => false
  | 2 => !neg && dyGt m e st f.maxM f.maxE
  | 3 => neg && dyGt m e st f.maxM f.maxE
  | _ => dyGe m e ((f.maxM + 1) * 2 ^ 24 - r) (f.maxE - 24)

/-- Rounds (m + t) * 2^e to a multiple of 2^q: the number of units, rounded as mode says (R140). -/
def roundUnits (mode r : Nat) (neg : Bool) (m : Nat) (e : Int) (st : Bool) (q : Int) : Nat :=
  if q ≤ e then
    let n := m * pow2 (e - q)
    let up := match mode with
      | 2 => st && !neg
      | 3 => st && neg
      | _ => false
    if up then n + 1 else n
  else
    let sh := (q - e).toNat
    let n := m / 2 ^ sh
    let rem := m % 2 ^ sh
    let up : Bool := match mode with
      | 0 => decide (2 ^ sh < 2 * rem) || (decide (2 * rem = 2 ^ sh) && (st || n % 2 == 1))
      | 1 => false
      | 2 => (rem != 0 || st) && !neg
      | 3 => (rem != 0 || st) && neg
      | _ => decide (2 ^ (sh + 24) ≤ rem * 2 ^ 24 + r * 2 ^ sh)
    if up then n + 1 else n

/-- round_to(fmt, mode, sat)(x), as bits (R140 to R142); r is the draw of rsr. -/
def roundTo (f : Fmt) (mode : Nat) (sat : Bool) (r : Nat) : Val → Nat
  | .nan => f.nanBits
  | .inf neg => f.ovf sat neg
  | .num neg m e st =>
    if m = 0 ∧ st = false then f.signed neg 0
    else if overflows f mode r neg m e st then f.ovf sat neg
    else if dyGt m e st f.maxM f.maxE then f.signed neg f.maxBits
    else
      let ev := max (if m = 0 then f.emin else dyLog m e) f.emin
      let n := roundUnits mode r neg m e st (ev - (f.mb : Int))
      f.signed neg (((ev + f.bias - 1) * ((2 ^ f.mb : Nat) : Int)).toNat + n)

/-- Conversion to an n-bit integer (R142), as bits. -/
def roundInt (n : Nat) (sgn : Bool) (mode : Nat) (sat : Bool) (r : Nat) (x : Val) : Nat :=
  let top : Nat := if sgn then 2 ^ (n - 1) - 1 else 2 ^ n - 1
  let bot : Nat := if sgn then 2 ^ (n - 1) else 0
  match x with
  | .nan => 0
  | .inf neg => if neg then bot else top
  | .num neg m e st =>
    if dyGe m e 1 64 then (if neg then bot else top)
    else
      let u := roundUnits mode r neg m e st 0
      if neg then
        if u ≤ bot then (2 ^ n - u) % 2 ^ n else if sat then bot else (2 ^ 65 * 2 ^ n - u) % 2 ^ n
      else if u ≤ top then u else if sat then top else u % 2 ^ n

/-- An integer as an exact value. -/
def ofInt (x : Int) : Val := .num (decide (x < 0)) x.natAbs 0

/-- The value of n integer bits. -/
def intVal (n : Nat) (sgn : Bool) (b : Nat) : Int := if sgn then sxInt (b % 2 ^ n) n else ((b % 2 ^ n : Nat) : Int)

namespace Val

def isNan : Val → Bool
  | .nan => true
  | _ => false

def isInf : Val → Bool
  | .inf _ => true
  | _ => false

def isFinite : Val → Bool
  | .num _ _ _ _ => true
  | _ => false

def isZero : Val → Bool
  | .num _ m _ st => m == 0 && !st
  | _ => false

def isNeg : Val → Bool
  | .nan => false
  | .inf n => n
  | .num n _ _ _ => n

def neg : Val → Val
  | .nan => .nan
  | .inf n => .inf (!n)
  | .num n m e st => .num (!n) m e st

def abs : Val → Val
  | .nan => .nan
  | .inf _ => .inf false
  | .num _ m e st => .num false m e st

/-- x * 2^k. -/
def scale (k : Int) : Val → Val
  | .num n m e st => .num n m (e + k) st
  | x => x

/-- The exact product; inf * 0 is NaN. -/
def mul (a b : Val) : Val :=
  match a, b with
  | .nan, _ => .nan
  | _, .nan => .nan
  | .inf s, .inf t => .inf (s != t)
  | .inf s, .num t m _ _ => if m = 0 then .nan else .inf (s != t)
  | .num t m _ _, .inf s => if m = 0 then .nan else .inf (s != t)
  | .num s m e _, .num t n f _ => .num (s != t) (m * n) (e + f)

/-- A finite value as an integer multiple of 2^k, k at most its exponent. -/
def units (k : Int) : Val → Int
  | .num n m e _ => (if n then -1 else 1) * ((m * pow2 (e - k) : Nat) : Int)
  | _ => 0

/-- The exponent of a finite value's last place. -/
def expo : Val → Int
  | .num _ _ e _ => e
  | _ => 0

/-- An exact comparison of finite values and infinities, -0 equal to +0: a < b. -/
def lt (a b : Val) : Bool :=
  match a, b with
  | .nan, _ => false
  | _, .nan => false
  | .inf s, .inf t => s && !t
  | .inf s, _ => s
  | _, .inf t => !t
  | x, y => let k := min x.expo y.expo; decide (x.units k < y.units k)

/-- Equality of values. -/
def eq (a b : Val) : Bool := !a.isNan && !b.isNan && !a.lt b && !b.lt a

end Val

/-- The sum of finite values as an integer multiple of a power of two. -/
def sumUnits (xs : List Val) : Int × Int :=
  let k := xs.foldl (fun k x => if x.isZero then k else min k x.expo) 0
  (xs.foldl (fun a x => if x.isZero then a else a + x.units k) 0, k)

/-- An exact sum of c and products (R112 to R114): specials first, then the sum; an exact zero is -0
when every term is -0 or the mode is rdn, and +0 otherwise. -/
def exactSum (mode : Nat) (xs : List Val) : Val :=
  if xs.any Val.isNan then .nan
  else if xs.any (fun x => x.isInf && !x.isNeg) then (if xs.any (fun x => x.isInf && x.isNeg) then .nan else .inf false)
  else if xs.any Val.isInf then .inf true
  else
    let (u, k) := sumUnits xs
    if u = 0 then .num (if xs.all (fun x => x.isZero && x.isNeg) then true else mode == 3) 0 0
    else .num (decide (u < 0)) u.natAbs k

/-- The 24-bit draw of stochastic rounding (R143). -/
def rsrDraw (key : Word) (base : BitVec 24) (row lane : Nat) : Nat :=
  ((jmix64 key (BitVec.ofNat 64 (row * 65536 ||| lane))).toNat % 2 ^ 24 + base.toNat) % 2 ^ 24

/-- The advance of SRBASE at the issue of a command that rounds with rsr (R143). -/
def srStep : BitVec 24 := 0x9E3779

/-- Integer square root by digits: the bits of the root from position n down. -/
def isqrtGo : Nat → Nat → Nat → Nat
  | 0, _, r => r
  | n + 1, x, r => let t := r + 2 ^ n; if t * t ≤ x then isqrtGo n x t else isqrtGo n x r

/-- The integer square root. -/
def isqrt (x : Nat) : Nat := isqrtGo (x.log2 / 2 + 1) x 0

/-- The quotient of finite non-zero values, to 130 bits and a sticky rest. -/
def divVal (a b : Val) : Val :=
  match a, b with
  | .num s m e _, .num t n f _ =>
    let k := 130 + n.log2
    let p := m * 2 ^ k
    .num (s != t) (p / n) (e - f - (k : Int)) (p % n != 0)
  | _, _ => .nan

/-- The square root of a positive finite value, to 130 bits and a sticky rest. -/
def sqrtVal : Val → Val
  | .num _ m e _ =>
    let k : Nat := 260 + (if e % 2 = 0 then 0 else 1)
    let p := m * 2 ^ k
    let r := isqrt p
    .num false r ((e - (k : Int)) / 2) (r * r != p)
  | _ => .nan

/-! ### Quantisers (R145, R146) -/

/-- The largest of the finite magnitudes that satisfy p, if there is one that is not zero. -/
def amaxOf (p : Val → Bool) (xs : List Val) : Option Val :=
  xs.foldl (fun best x =>
    if x.isFinite && !x.isZero && p x.abs then
      match best with
      | none => some x.abs
      | some b => if b.lt x.abs then some x.abs else best
    else best) none

/-- ceil(log2(x / Emax)) for x = m * 2^e, Emax = em * 2^ee between 1 and 2. -/
def ceilLogRatio (x emax : Val) : Int :=
  match x with
  | .num _ m e _ =>
    let k := dyLog m e
    if !(emax.scale (k - 1)).lt x then k - 1 else if !(emax.scale k).lt x then k else k + 1
  | _ => 0

/-- A shared exponent clamped to 0 to 254 (R145). -/
def clampExp (x : Int) : Nat := (max 0 (min x 254)).toNat

/-- What quantising a grain gives: element codes, the header or scale, the sticky flags NAN_SEEN and INF_SEEN. -/
structure Quant where
  codes : List Nat
  head  : Nat
  nan   : Bool
  inf   : Bool
deriving DecidableEq, Repr

/-- Quantising a grain to DX8 or DX4 (R145); `draw i` is the draw of element i. -/
def quantDx (eight : Bool) (split mode : Nat) (draw : Nat → Nat) (xs : List Val) : Quant :=
  let f := if eight then dx8 else dx4
  let d : Nat := if split = 0 then (if eight then 4 else 2) else split
  let emax : Val := if eight then .num false 15 (-3) else .num false 3 (-1)
  let sel : Nat := if eight then 128 else 8
  let special (x : Val) : Option Nat :=
    match x with
    | .nan => some 0
    | .inf neg => some (sel + f.signed neg f.maxBits)
    | _ => none
  let nan := xs.any Val.isNan
  let inf := xs.any Val.isInf
  match amaxOf (fun _ => true) xs with
  | none => ⟨xs.map (fun x => (special x).getD (f.signed x.isNeg 0)), 0, nan, inf⟩
  | some a =>
    let hi := clampExp (127 + ceilLogRatio a emax)
    let t : Val := .num false 1 ((hi : Int) - 127 - (d : Int))
    let lo : Nat := match amaxOf (fun x => x.lt t) xs with
      | some b => clampExp (127 + ceilLogRatio b emax)
      | none => hi
    let code (x : Val) (i : Nat) : Nat :=
      if x.abs.lt t then roundTo f mode true (draw i) (x.scale (127 - (lo : Int)))
      else sel + roundTo f mode true (draw i) (x.scale (127 - (hi : Int)))
    ⟨xs.zipIdx.map (fun (x, i) => (special x).getD (code x i)), lo + 256 * hi, nan, inf⟩

/-- Quantising a grain to an MX format (R146). -/
def quantMx (f : Fmt) (mode : Nat) (draw : Nat → Nat) (xs : List Val) : Quant :=
  let emaxEl : Int := f.maxE + (f.mb : Int)
  let scale := match amaxOf (fun _ => true) xs with
    | some (.num _ m e _) => clampExp (127 + dyLog m e - emaxEl)
    | _ => 0
  ⟨xs.zipIdx.map (fun (x, i) => roundTo f mode true (draw i) (x.scale (127 - (scale : Int)))), scale,
   xs.any Val.isNan, xs.any Val.isInf⟩

/-- The value of a DX element under its header (R136). -/
def dxVal (eight : Bool) (head code : Nat) : Val :=
  let f := if eight then dx8 else dx4
  let sel := if eight then 7 else 3
  let ex := if code.testBit sel then head / 256 % 256 else head % 256
  (f.decode (code % 2 ^ sel)).scale ((ex : Int) - 127)

/-- The value of an MX element under its scale as an operand (R137): a scale of 0xFF, an element NaN and an infinite E5M2
element are NaN. -/
def mxVal (f : Fmt) (head code : Nat) : Val :=
  if head % 256 = 255 then .nan
  else
    match f.decode code with
    | .num n m e st => .num n m (e + (head : Int) - 127) st
    | _ => .nan

end Sys2Proof.Machine
end

