-- ==== Sys2Proof/Machine/VecNum.lean ====
section
/-! DEFINITION. The special functions of the vector unit (R152, R153, R381): seeds by their tables' own construction, and 2^x
and log2 x correctly rounded, from bounds in integer arithmetic that are narrowed until they decide. -/

namespace Sys2Proof.Machine

/-- A normalised positive value: exponent E and the n bits after the leading one. -/
def normTop (n m : Nat) (e : Int) : Int × Nat :=
  let l := m.log2
  ((l : Int) + e, (if n ≤ l then m / 2 ^ (l - n) else m * 2 ^ (n - l)) % 2 ^ n)

/-- The seed of 1/sqrt(x) for a positive finite x (R152). -/
def rsqSeed (m : Nat) (e : Int) : Val :=
  let (ex, j) := normTop 8 m e
  let p : Nat := if ex % 2 = 0 then 0 else 1
  let q4 := 2 ^ 37 / ((513 + 2 * j) * 2 ^ p)
  .num false ((isqrt q4 + 1) / 2) (-13 - (ex - (p : Int)) / 2)

/-- `vrsqe` of a value (R152). -/
def rsqVal : Val → Val
  | .nan => .nan
  | .inf neg => if neg then .nan else .num false 0 0
  | .num neg m e _ => if m = 0 then .inf neg else if neg then .nan else rsqSeed m e

/-- `vrcpe` of a value (R153). -/
def rcpVal : Val → Val
  | .nan => .nan
  | .inf neg => .num neg 0 0
  | .num neg m e _ =>
    if m = 0 then .inf neg
    else
      let (ex, j) := normTop 9 m e
      let d := 1025 + 2 * j
      .num neg ((2 ^ 24 + d) / (2 * d)) (-13 - ex)

/-- Terms t^k / k! from a running term, in fixed point with w fraction bits. -/
def expSeries (w t : Nat) : Nat → Nat → Nat → Nat → Nat
  | 0, _, _, acc => acc
  | n + 1, k, term, acc => let term' := term * t / 2 ^ w / k; expSeries w t n (k + 1) term' (acc + term')

/-- Terms z^(2k+1) / (2k+1) from a running power, in fixed point with w fraction bits. -/
def atanhSeries (w z2 : Nat) : Nat → Nat → Nat → Nat → Nat
  | 0, _, _, acc => acc
  | n + 1, k, pow, acc => atanhSeries w z2 n (k + 2) (pow * z2 / 2 ^ w) (acc + pow / k)

/-- ln((a) / (b)) from below for 1 ≤ a/b ≤ 2, in fixed point: at most w + 8 units too small. -/
def lnRatio (w a b : Nat) : Nat :=
  let z := (a - b) * 2 ^ w / (a + b)
  2 * atanhSeries w (z * z / 2 ^ w) (w / 3 + 2) 1 z 0

/-- Decides a magnitude known to lie in [lo, hi] with w fraction bits, dropping g bits; none when the bounds differ there. -/
def decideMag (w g : Nat) (neg : Bool) (lo hi : Nat) : Option Val :=
  if lo / 2 ^ g = hi / 2 ^ g then some (.num neg (lo / 2 ^ g) ((g : Int) - (w : Int)) true) else none

/-- 2^f for 0 < f < 1, f = fm * 2^-fs, times 2^n. -/
def exp2Try (w : Nat) (n : Int) (fm fs : Nat) : Option Val :=
  let f := if fs ≤ w then fm * 2 ^ (w - fs) else fm / 2 ^ (fs - w)
  let t := f * lnRatio w 2 1 / 2 ^ w
  let y := expSeries w t (w / 2 + 8) 1 (2 ^ w) (2 ^ w)
  (decideMag w 40 false y (y + 16 * w + 64)).map (Val.scale n)

/-- 2^x for a finite x (R381). -/
def exp2Val : Val → Val
  | .nan => .nan
  | .inf neg => if neg then .num false 0 0 else .inf false
  | .num neg m e _ =>
    if m = 0 then .num false 1 0
    else if 13 ≤ dyLog m e then .num false 1 (if neg then -5000 else 5000)
    else if 0 ≤ e then .num false 1 ((if neg then -1 else 1) * ((m * pow2 e : Nat) : Int))
    else
      let fs := (-e).toNat
      let q := m / 2 ^ fs
      let r := m % 2 ^ fs
      if r = 0 then .num false 1 (if neg then -(q : Int) else (q : Int))
      else
        let (n, fm) : Int × Nat := if neg then (-(q : Int) - 1, 2 ^ fs - r) else ((q : Int), r)
        ([224, 448, 896, 1792].findSome? (fun w => exp2Try w n fm fs)).getD (.num false 1 n true)

/-- log2 of m * 2^e, not a power of two. -/
def log2Try (w : Nat) (m : Nat) (e : Int) : Option Val :=
  let l := m.log2
  let ex : Int := (l : Int) + e
  let lo := lnRatio w m (2 ^ l) * 2 ^ w / (lnRatio w 2 1 + 4 * w + 64)
  let hi := (lnRatio w m (2 ^ l) + 4 * w + 64) * 2 ^ w / lnRatio w 2 1 + 1
  if 0 ≤ ex then decideMag w 40 false (ex.toNat * 2 ^ w + lo) (ex.toNat * 2 ^ w + hi)
  else decideMag w 40 true ((-ex).toNat * 2 ^ w - hi) ((-ex).toNat * 2 ^ w - lo)

/-- log2 x (R381). -/
def log2Val : Val → Val
  | .nan => .nan
  | .inf neg => if neg then .nan else .inf false
  | .num neg m e _ =>
    if m = 0 then .inf true
    else if neg then .nan
    else if m = 2 ^ m.log2 then ofInt (dyLog m e)
    else ([320, 640, 1280, 2560].findSome? (fun w => log2Try w m e)).getD (ofInt (dyLog m e))

end Sys2Proof.Machine
end

