-- ==== Sys2Proof/Machine/VecLane.lean ====
section
/-! DEFINITION. What the vector unit computes in one lane, one row step or one tree (R352, R358 to R383), as functions of
lane values: the command's words are read by the accessors at the head. -/

namespace Sys2Proof.Machine

/-! ### Types (R288, R352) and lanes (R96) -/

/-- Lane width of a type in bits. -/
def tyBits : Nat → Nat
  | 0 => 8
  | 1 => 16
  | 2 => 32
  | 3 => 64
  | 4 => 8
  | 5 => 16
  | 6 => 32
  | 7 => 64
  | 8 => 64
  | 9 => 32
  | 10 => 16
  | 11 => 16
  | 15 => 4
  | _ => 8

/-- The format of a floating type. -/
def tyFmt : Nat → Fmt
  | 8 => fp64
  | 9 => fp32
  | 10 => bf16
  | 11 => fp16
  | 12 => e4m3
  | _ => e5m2

/-- Whether a type is a floating one. -/
def tyFloat (t : Nat) : Bool := decide (8 ≤ t) && decide (t < 14)

/-- Whether an integer type is signed. -/
def tySigned (t : Nat) : Bool := decide (t < 4)

/-- The lane count of a type. -/
def tyLanes (t : Nat) : Nat := 4096 / tyBits t

/-- The value of a lane of a type. -/
def tyVal (t b : Nat) : Val := if tyFloat t then (tyFmt t).decode b else ofInt (intVal (tyBits t) (tySigned t) b)

/-- A value in a type, rounded once (R140, R142). -/
def toType (t mode : Nat) (sat : Bool) (r : Nat) (v : Val) : Nat :=
  if tyFloat t then roundTo (tyFmt t) mode sat r v else roundInt (tyBits t) (tySigned t) mode sat r v

/-- Lane i of a row at w bits. -/
def laneAt (w : Nat) (r : Row) (i : Nat) : Nat := r.toNat >>> (w * i) % 2 ^ w

/-- Lanes i to i + n - 1 of a row. -/
def lanesAt (w : Nat) (r : Row) (i n : Nat) : List Nat := (List.range n).map (fun j => laneAt w r (i + j))

/-- Lane values from lane `off` on as a row, and the bits that are written; none leaves a lane alone. -/
def putLanes (w off : Nat) (xs : List (Option Nat)) : Row × Row :=
  let v := xs.foldr (fun x acc => x.getD 0 % 2 ^ w + 2 ^ w * acc) 0
  let m := xs.foldr (fun x acc => (if x.isSome then 2 ^ w - 1 else 0) + 2 ^ w * acc) 0
  (BitVec.ofNat 4096 (v <<< (w * off)), BitVec.ofNat 4096 (m <<< (w * off)))

/-! ### The fields of a command (R287, R355) -/

namespace VCmd

def vd (c : VCmd) : Nat := bits c.a 8 0
def va (c : VCmd) : Nat := bits c.a 17 9
def vb (c : VCmd) : Nat := bits c.a 26 18
def vc (c : VCmd) : Nat := bits c.a 35 27
def ty (c : VCmd) : Nat := bits c.a 39 36
def rnd (c : VCmd) : Nat := bits c.a 42 40
def sat (c : VCmd) : Bool := bit c.a 43
def maskNo (c : VCmd) : Nat := bits c.a 47 44
def mstk (c : VCmd) : Bool := bit c.a 48
def rows (c : VCmd) : Nat := bits c.a 55 49 + 1
def qa (c : VCmd) : Bool := bit c.a 58
def qb (c : VCmd) : Bool := bit c.a 59
def qc (c : VCmd) : Bool := bit c.a 60
def qd (c : VCmd) : Bool := bit c.a 61
/-- SRCT or SRCF of word B. -/
def srcTy (c : VCmd) : Nat := bits c.b 3 0
/-- PART of `vcvt`. -/
def cvtPart (c : VCmd) : Nat := bits c.b 5 4
/-- PART, MX, GRAIN and SPLIT of the quantisers. -/
def qPart (c : VCmd) : Nat := bits c.b 6 4
def qMx (c : VCmd) : Bool := bit c.b 7
def qGrain (c : VCmd) : Nat := 32 * 2 ^ bits c.b 9 8
def qSplit (c : VCmd) : Nat := bits c.b 13 10
/-- Whether a lane is active (R353). -/
def act (c : VCmd) (i : Nat) : Bool := c.mask.getLsbD i
/-- The physical row of a register (R97). -/
def phys (c : VCmd) (n : Nat) : Nat := if n < 256 then n else 256 + (n - 256 + c.vrb.toNat) % 256
/-- The physical mask of a name (R98). -/
def physMask (c : VCmd) (n : Nat) : Nat := if n < 8 then n else 8 + (n - 8 + c.mrb.toNat) % 8
/-- The draw of stochastic rounding for a row number and a lane (R143). -/
def draw (c : VCmd) (row lane : Nat) : Nat := rsrDraw c.srseed c.srbase row lane
/-- The row number that a result of register n draws with: the vd field for a queue output (R143). -/
def drawRow (c : VCmd) (n : Nat) : Nat := if c.qd then c.vd else c.phys n

end VCmd

/-! ### Integer lanes (R358) -/

/-- An exact integer in a type of w bits: clamped or wrapped. -/
def intFit (w : Nat) (sgn sat : Bool) (e : Int) : Nat :=
  let lo : Int := if sgn then -(2 ^ (w - 1) : Nat) else 0
  let hi : Int := if sgn then (2 ^ (w - 1) : Nat) - 1 else (2 ^ w : Nat) - 1
  ((if sat then max lo (min hi e) else e) % (2 ^ w : Nat)).toNat

/-- The number of one bits of a number below 2^n. -/
def popBits (n x : Nat) : Nat := (List.range n).countP (fun i => x.testBit i)

/-- Leading zeros of a w-bit number. -/
def leadZeros (w x : Nat) : Nat := if x = 0 then w else w - 1 - x.log2

/-- Group 0 in one lane. -/
def intLane (op : VOp) (w : Nat) (sgn sat : Bool) (x y z : Nat) : Nat :=
  let v (a : Nat) : Int := intVal w sgn a
  let s (a : Nat) : Int := sxInt a w
  let unary (e : Int) : Nat := if sat && x == 2 ^ (w - 1) then 2 ^ (w - 1) - 1 else intFit w sgn sat e
  let sh := y % w
  match op with
  | .vadd => intFit w sgn sat (v x + v y)
  | .vsub => intFit w sgn sat (v x - v y)
  | .vmul => intFit w sgn sat (v x * v y)
  | .vmulh => ((v x * v y) / (2 ^ w : Nat) % (2 ^ w : Nat)).toNat
  | .vand => x &&& y
  | .vor => x ||| y
  | .vxor => x ^^^ y
  | .vandn => x &&& (2 ^ w - 1 - y)
  | .vsll => x * 2 ^ sh % 2 ^ w
  | .vsrl => x / 2 ^ sh
  | .vsra => (s x / (2 ^ sh : Nat) % (2 ^ w : Nat)).toNat
  | .vmin => if s x ≤ s y then x else y
  | .vmax => if s x ≤ s y then y else x
  | .vminz => min x y
  | .vmaxz => max x y
  | .vabs => unary (s x).natAbs
  | .vneg => unary (-(s x))
  | .vpopc => popBits w x
  | .vclz => leadZeros w x
  | _ => if z ≠ 0 then x else y

/-! ### Floating lanes (R359, R360, R381) -/

/-- The sum of two values with the zero rules of R359: zeros of one sign keep it. -/
def fsum (mode : Nat) (a b : Val) : Val :=
  if a.isZero && b.isZero && a.isNeg == b.isNeg then a else exactSum mode [a, b]

/-- A quotient with the specials of R359. -/
def fdiv (a b : Val) : Val :=
  if a.isNan || b.isNan || (a.isInf && b.isInf) || (a.isZero && b.isZero) then .nan
  else if a.isInf || b.isZero then .inf (a.isNeg != b.isNeg)
  else if b.isInf || a.isZero then .num (a.isNeg != b.isNeg) 0 0
  else divVal a b

/-- A square root with the specials of R359. -/
def fsqrt (a : Val) : Val :=
  if a.isNan then .nan
  else if a.isZero then a
  else if a.isNeg then .nan
  else if a.isInf then a
  else sqrtVal a

/-- The smaller or larger of two values, NaN if either is one, -0 below +0 (R360). -/
def fminmax (big : Bool) (a b : Val) : Val :=
  if a.isNan || b.isNan then .nan
  else
    let less := a.lt b || (a.isZero && b.isZero && a.isNeg && !b.isNeg)
    if less == big then b else a

/-- floor(log2 |x|) as a value (R359). -/
def getExp : Val → Val
  | .nan => .nan
  | .inf _ => .inf false
  | .num _ m e _ => if m = 0 then .inf true else ofInt (dyLog m e)

/-- x / 2^floor(log2 |x|) (R359). -/
def getMan : Val → Val
  | .num n m e st => if m = 0 then .num n m e st else .num n m (e - dyLog m e) st
  | _ => .nan

/-- A value of a format without rounding. -/
def encode (f : Fmt) (v : Val) : Nat := roundTo f 1 false 0 v

/-- The class bit of `vfclass` (R360). -/
def classBit (f : Fmt) (x : Nat) : Nat :=
  match f.decode x with
  | .nan => 2 ^ 8
  | .inf neg => if neg then 1 else 2 ^ 7
  | .num neg m _ _ =>
    if m = 0 then (if neg then 2 ^ 3 else 2 ^ 4)
    else if m < 2 ^ f.mb then (if neg then 2 ^ 2 else 2 ^ 5)
    else if neg then 2 ^ 1 else 2 ^ 6

/-- Groups 1 and 9 in one lane; r is the draw. -/
def floatLane (op : VOp) (f : Fmt) (mode : Nat) (sat : Bool) (r x y z : Nat) : Nat :=
  let a := f.decode x
  let b := f.decode y
  let c := f.decode z
  let rd (v : Val) : Nat := roundTo f mode sat r v
  let top := 2 ^ (f.eb + f.mb)
  let signOp (s : Bool) : Nat := if a.isNan then f.nanBits else x % top + (if s then top else 0)
  match op with
  | .vfadd => rd (fsum mode a b)
  | .vfsub => rd (fsum mode a b.neg)
  | .vfmul => rd (a.mul b)
  | .vfma => rd (fsum mode (a.mul b) c)
  | .vfms => rd (fsum mode (a.mul b) c.neg)
  | .vfnma => rd (fsum mode (a.mul b).neg c)
  | .vfdiv => rd (fdiv a b)
  | .vfsqrt => rd (fsqrt a)
  | .vfmin => encode f (fminmax false a b)
  | .vfmax => encode f (fminmax true a b)
  | .vfabs => signOp false
  | .vfneg => signOp (!a.isNeg)
  | .vfcpsgn => signOp (decide (top ≤ y % (2 * top)))
  | .vscaleb => rd (a.scale (max (-(2 ^ 20 : Nat)) (min (2 ^ 20 : Nat) (sxInt y f.width))))
  | .vgetexp => rd (getExp a)
  | .vgetman => rd (getMan a)
  | .vfclass => classBit f x
  | .vrsqe => roundTo f 0 false 0 (rsqVal a)
  | .vrcpe => roundTo f 0 false 0 (rcpVal a)
  | .vexp2 => rd (exp2Val a)
  | _ => rd (log2Val a)

/-! ### Exact pairs and double words (R151, R362, R363) -/

/-- Sticky flags of a pair, by bit of R150. -/
def pairFlags (invalid inexact : Bool) : BitVec 6 := (if invalid then 0x04 else 0) ||| (if inexact then 0x08 else 0)

/-- An exact pair of the exact value x (R151): s, e and the flags; r0 and r1 draw for s and e. -/
def exactPair (f : Fmt) (mode r0 r1 : Nat) (x : Val) : Nat × Nat × BitVec 6 :=
  let s := roundTo f mode false r0 x
  let sv := f.decode s
  if !sv.isFinite then (s, 0, pairFlags true false)
  else
    let d := exactSum 0 [x, sv.neg]
    if d.isZero then (s, 0, 0)
    else
      let e := roundTo f mode false r1 d
      (s, e, pairFlags false (!(f.decode e).eq d))

/-- rn of R362. -/
def rnVal (f : Fmt) (v : Val) : Val := f.decode (roundTo f 0 false 0 v)

/-- two_sum of R362. -/
def twoSum (f : Fmt) (a b : Val) : Val × Val :=
  let s := rnVal f (fsum 0 a b)
  (s, rnVal f (exactSum 0 [a, b, s.neg]))

/-- two_prod of R362, and whether its error is inexact. -/
def twoProd (f : Fmt) (a b : Val) : Val × Val × Bool :=
  let x := a.mul b
  let p := rnVal f x
  let d := exactSum 0 [x, p.neg]
  let e := rnVal f d
  (p, e, p.isFinite && !e.eq d)

/-- What a double-word operation computes (R362): its intermediates, the pair, the fallback of R363, an inexact product error. -/
structure Dw where
  mid     : List Val
  hi      : Val
  lo      : Val
  back    : Val
  inexact : Bool := false

/-- The operations of group 3 but `vdwcvt`. -/
def dwOp (op : VOp) (f : Fmt) (xh xl yh yl : Val) : Dw :=
  let rn := rnVal f
  let sum := fsum 0
  match op with
  | .vdwadd =>
    let (sh, sl) := twoSum f xh yh
    let (th, tl) := twoSum f xl yl
    let c := rn (sum sl th)
    let (vh, vl) := twoSum f sh c
    let w := rn (sum tl vl)
    let (h, l) := twoSum f vh w
    ⟨[sh, sl, th, tl, c, vh, vl, w, h, l], h, l, rn (sum xh yh), false⟩
  | .vdwaddf =>
    let (sh, sl) := twoSum f xh yh
    let v := rn (sum xl sl)
    let (h, l) := twoSum f sh v
    ⟨[sh, sl, v, h, l], h, l, rn (sum xh yh), false⟩
  | .vdwmul =>
    let (ch, c1, x) := twoProd f xh yh
    let t0 := rn (xl.mul yl)
    let t1 := rn (sum (xh.mul yl) t0)
    let c2 := rn (sum (xl.mul yh) t1)
    let c3 := rn (sum c1 c2)
    let (h, l) := twoSum f ch c3
    ⟨[ch, c1, t0, t1, c2, c3, h, l], h, l, rn (xh.mul yh), x⟩
  | .vdwmulf =>
    let (ch, c1, x) := twoProd f xh yh
    let c3 := rn (sum (xl.mul yh) c1)
    let (h, l) := twoSum f ch c3
    ⟨[ch, c1, c3, h, l], h, l, rn (xh.mul yh), x⟩
  | _ =>
    let (h, l) := twoSum f xh xl
    ⟨[h, l], h, l, rn (sum xh xl), false⟩

/-- Group 3 in one lane: zh, zl and the flags. -/
def dwLane (op : VOp) (split : Bool) (f : Fmt) (xh xl yh yl : Nat) : Nat × Nat × BitVec 6 :=
  let a := f.decode xh
  let b := f.decode xl
  match op with
  | .vdwcvt =>
    let r := roundTo f 0 false 0 (if split then a else fsum 0 a b)
    (r, 0, pairFlags (!(f.decode r).isFinite) false)
  | _ =>
    let d := dwOp op f a b (f.decode yh) (f.decode yl)
    if d.mid.all Val.isFinite then (encode f d.hi, encode f d.lo, pairFlags false d.inexact)
    else (encode f d.back, 0, pairFlags true d.inexact)

/-! ### Conversion and quantisation (R364 to R367) -/

/-- `vcvt` of one value: the bits and the sticky flags (R142). -/
def cvtLane (src dst mode : Nat) (sat : Bool) (r x : Nat) : Nat × BitVec 6 :=
  let v := tyVal src x
  (toType dst mode sat r v, if dst = 12 && v.isInf then 0x02 else 0)

/-- Elements packed from a byte on: 8 or 4 bits each. -/
def packCodes (w : Nat) (codes : List Nat) : Nat := codes.foldr (fun x acc => x % 2 ^ w + 2 ^ w * acc) 0

/-- The n lowest-numbered elements cut into grains. -/
def grains : Nat → Nat → List Nat → List (List Nat)
  | 0, _, _ => []
  | n + 1, g, l => l.take g :: grains n g (l.drop g)

/-- The format of a quantised element: width in bits, header bytes per grain (R365). -/
def quantBits (t : Nat) : Nat := if t = 15 then 4 else 8
def quantHead (mx : Bool) : Nat := if mx then 1 else 2

/-- The element format of an MX type (R365). -/
def mxFmt (t : Nat) : Fmt := if t = 12 then e4m3 else if t = 13 then e5m2 else e2m1

/-- Quantises one grain, as `vquant` (R365). -/
def quantGrain (t : Nat) (mx : Bool) (split mode : Nat) (draw : Nat → Nat) (xs : List Val) : Quant :=
  if mx then quantMx (mxFmt t) mode draw xs else quantDx (t == 14) split mode draw xs

/-- Encodes one grain under a given header or scale, as `vqscale` (R366). -/
def scaleGrain (t : Nat) (mx : Bool) (split mode head : Nat) (draw : Nat → Nat) (xs : List Val) : Quant :=
  let nan := xs.any Val.isNan
  let inf := xs.any Val.isInf
  if mx then
    let f := mxFmt t
    if head % 256 = 255 then ⟨xs.map (fun _ => f.nanBits), 255, true, inf⟩
    else ⟨xs.zipIdx.map (fun (x, i) => roundTo f mode true (draw i) (x.scale (127 - (head % 256 : Nat)))), head % 256, nan, inf⟩
  else
    let eight := t == 14
    let f := if eight then dx8 else dx4
    let sel : Nat := if eight then 128 else 8
    let d : Nat := if split = 0 then (if eight then 4 else 2) else split
    let lo := head % 256
    let hi := head / 256 % 256
    let th : Val := .num false 1 ((hi : Int) - 127 - (d : Int))
    let code (x : Val) (i : Nat) : Nat :=
      match x with
      | .nan => 0
      | .inf neg => sel + f.signed neg f.maxBits
      | _ =>
        if x.abs.lt th then roundTo f mode true (draw i) (x.scale (127 - (lo : Int)))
        else sel + roundTo f mode true (draw i) (x.scale (127 - (hi : Int)))
    ⟨xs.zipIdx.map (fun (x, i) => code x i), head, nan, inf⟩

/-- The value of a quantised element (R366). -/
def dequantVal (t : Nat) (mx : Bool) (head code : Nat) : Val :=
  if mx then mxVal (mxFmt t) head code else dxVal (t == 14) head code

/-! ### Movement (R372) -/

/-- Lane i of the result of a movement operation. -/
def moveLane (op : VOp) (b : Word) (w : Nat) (x y : List Nat) (i : Nat) : Nat :=
  let n := x.length
  let h := bits b 0 0 * (n / 2)
  let xy (j : Nat) : Nat := if j < n then x.getD j 0 else y.getD (j - n) 0
  match op with
  | .vmov => x.getD i 0
  | .vbcast => b.toNat % 2 ^ w
  | .vext => x.getD (bits b 8 0) 0
  | .vrot => x.getD ((i + bits b 8 0) % n) 0
  | .vslide => xy (i + bits b 9 0)
  | .vperm => if w = 8 then x.getD (i / 256 * 256 + y.getD i 0) 0 else x.getD (y.getD i 0 % n) 0
  | .vzip => if i % 2 = 0 then x.getD (h + i / 2) 0 else y.getD (h + (i - 1) / 2) 0
  | _ => xy (2 * i + bits b 0 0)

/-! ### Reductions and scans (R373 to R375) -/

/-- The identity that an inactive lane contributes to a reduction. -/
def redIdentity (op : VOp) (t : Nat) : Nat :=
  let w := tyBits t
  let f := tyFmt t
  match op with
  | .vredmax => if tyFloat t then f.ovf false true else if tySigned t then 2 ^ (w - 1) else 0
  | .vredmin => if tyFloat t then f.ovf false false else if tySigned t then 2 ^ (w - 1) - 1 else 2 ^ w - 1
  | .vredand => 2 ^ w - 1
  | .vredor => 0
  | _ => if tyFloat t then f.signed true 0 else 0

/-- One node of a reduction; r is its draw. -/
def redNode (op : VOp) (t mode : Nat) (sat : Bool) (r x y : Nat) : Nat :=
  let w := tyBits t
  match op with
  | .vredmax =>
    if tyFloat t then encode (tyFmt t) (fminmax true ((tyFmt t).decode x) ((tyFmt t).decode y))
    else intLane (if tySigned t then .vmax else .vmaxz) w (tySigned t) false x y 0
  | .vredmin =>
    if tyFloat t then encode (tyFmt t) (fminmax false ((tyFmt t).decode x) ((tyFmt t).decode y))
    else intLane (if tySigned t then .vmin else .vminz) w (tySigned t) false x y 0
  | .vredand => x &&& y
  | .vredor => x ||| y
  | _ =>
    if tyFloat t then floatLane .vfadd (tyFmt t) mode sat r x y 0
    else intLane .vadd w (tySigned t) sat x y 0

/-- One level of the fixed tree: nodes numbered from n. -/
def redLevel {α : Type} (f : Nat → α → α → α) : Nat → List α → List α
  | n, a :: b :: l => f n a b :: redLevel f (n + 1) l
  | _, l => l

/-- The fixed tree (R373), nodes numbered level by level. -/
def redTree {α : Type} (f : Nat → α → α → α) : Nat → Nat → List α → List α
  | 0, _, l => l
  | fuel + 1, n, l => if l.length ≤ 1 then l else redTree f fuel (n + l.length / 2) (redLevel f n l)

/-- A partial sum of `vredsumx` (R374): the pair, and whether some s was not finite. -/
structure SumX where
  s   : Val
  e   : Val
  bad : Bool := false

/-- A node of `vredsumx`. -/
def sumxNode (f : Fmt) (a b : SumX) : SumX :=
  let (s, t) := twoSum f a.s b.s
  let e := rnVal f (fsum 0 (rnVal f (fsum 0 a.e b.e)) t)
  ⟨s, e, a.bad || b.bad || !s.isFinite⟩

/-- The result of `vredsumx`: two lanes and the flags. -/
def sumxFinal (f : Fmt) (a : SumX) : Nat × Nat × BitVec 6 :=
  if a.bad then (encode f a.s, 0, pairFlags true false)
  else
    let (h, l) := twoSum f a.s a.e
    if h.isFinite then (encode f h, encode f l, 0) else (encode f h, 0, pairFlags true false)

/-- The operation of `vprefix` as a node. -/
def prefixOp (b : Word) : VOp :=
  match bits b 1 0 with
  | 1 => .vredmax
  | 2 => .vredmin
  | _ => .vredsum

/-- The scan of one row (R375): results in order, and the running value after it. `draw i` is the draw of lane i. -/
def prefixRow (op : VOp) (t mode : Nat) (sat excl : Bool) (draw : Nat → Nat) (next : Nat → Nat) : Nat → Nat → List Nat → List Nat × Nat
  | _, run, [] => ([], run)
  | i, run, e :: l =>
    let run' := redNode op t mode sat (if excl then next i else draw i) run e
    let (rs, last) := prefixRow op t mode sat excl draw next (i + 1) run' l
    ((if excl then run else run') :: rs, last)

/-! ### Intersection (R379) -/

/-- The merge of R379: matched index pairs in order, and how far each window was read. -/
def isect (a b : List Nat) : Nat → Nat → Nat → List (Nat × Nat) → List (Nat × Nat) × Nat × Nat
  | 0, i, j, acc => (acc.reverse, i, j)
  | fuel + 1, i, j, acc =>
    if a.length ≤ i || b.length ≤ j then (acc.reverse, i, j)
    else
      let x := a.getD i 0
      let y := b.getD j 0
      if x < y then isect a b fuel (i + 1) j acc
      else if y < x then isect a b fuel i (j + 1) acc
      else isect a b fuel (i + 1) (j + 1) ((i, j) :: acc)

/-! ### Folding of `vscatc` (R378) -/

/-- One value folded into another; r is the draw of the value folded in. -/
def foldLane (comb t mode : Nat) (sat : Bool) (r x y : Nat) : Nat :=
  match comb with
  | 0 => y
  | 1 => redNode .vredsum t mode sat r x y
  | _ =>
    if tyFloat t then encode (tyFmt t) (fminmax true ((tyFmt t).decode x) ((tyFmt t).decode y))
    else intLane .vmax (tyBits t) (tySigned t) false x y 0

/-- The lanes with their index and value gathered by index: lowest lane, value so far, lanes folded in. -/
def foldLanes (comb t mode : Nat) (sat : Bool) (draw : Nat → Nat) (ls : List (Nat × Nat × Nat)) : List (Nat × Nat × Nat × List Nat) :=
  ls.foldl (fun acc (lane, idx, v) =>
    if acc.any (fun g => g.2.1 == idx) then
      acc.map (fun (l0, i0, v0, fs) => if i0 = idx then (l0, i0, foldLane comb t mode sat (draw lane) v0 v, fs ++ [lane]) else (l0, i0, v0, fs))
    else acc ++ [(lane, idx, v, [])]) []

/-! ### Statistics and comparison (R149, R368, R383) -/

/-- The histogram bin of a finite value or an infinity (R149). -/
def histBin : Val → Nat
  | .num _ m e _ => if m = 0 then 0 else (max 0 (min 63 (dyLog m e + 40))).toNat
  | _ => 63

/-- AMAX after a value (R149): FP32 bits of non-negative values compare as numbers. -/
def amaxAfter (a : BitVec 32) (x : Val) : BitVec 32 :=
  if x.isNan then a else BitVec.ofNat 32 (max a.toNat (roundTo fp32 2 false 0 x.abs))

/-- COND of `vcmp` (R368). -/
def cmpLane (t cond x y : Nat) : Bool :=
  if tyFloat t then
    let a := (tyFmt t).decode x
    let b := (tyFmt t).decode y
    let un := a.isNan || b.isNan
    match cond with
    | 0 => a.eq b
    | 1 => un || !a.eq b
    | 2 => !un && a.lt b
    | 3 => !un && !a.lt b
    | 4 => !un && !b.lt a
    | 5 => !un && b.lt a
    | 6 => un
    | _ => !un
  else
    let v (z : Nat) : Int := intVal (tyBits t) (tySigned t) z
    match cond with
    | 0 => x == y
    | 1 => x != y
    | 2 => decide (v x < v y)
    | 3 => !decide (v x < v y)
    | 4 => (x &&& y) != 0
    | 5 => (x &&& y) == 0
    | 6 => decide (x < y)
    | _ => !decide (x < y)

/-- The value of `vrand` in a lane (R383). -/
def randLane (t : Nat) (key ctr : Word) (k i : Nat) : Nat :=
  let x := jmix64 key ((ctr <<< 16) ||| BitVec.ofNat 64 (k * 512 + i))
  if tyFloat t then
    let f := tyFmt t
    let p := f.mb + 1
    encode f (.num false (x.toNat / 2 ^ (64 - p)) (-(p : Int)))
  else x.toNat % 2 ^ tyBits t

end Sys2Proof.Machine
end

