-- ==== Sys2Proof/Machine/Combine.lean ====
section
/-! DEFINITION. Writes of engines as they are performed (R198 to R201): arrival regions, the reduce operations, the release of
held commit-buffer entries (R122), and the order-signature word (R203). -/

namespace Sys2Proof.Machine

/-! ### Order signatures (R203) -/

/-- The word folded into ORDSIG. -/
def foldWord (kind pkg die unit seq : Nat) : Word :=
  BitVec.ofNat 64 (at_ (kind % 16) 60 + at_ (pkg % 2 ^ 19) 41 + at_ (die % 32) 36 + at_ (unit % 2 ^ 12) 24 + seq % 2 ^ 24)

/-! ### Arrival regions (R197 to R199) -/

/-- The aligned 8-byte words that n bytes at an offset touch. -/
def dwordsOf (off n : Nat) : List Nat := (List.range ((off + n + 7) / 8 - off / 8)).map (fun i => off / 8 + i)

/-- How many of some words lie in a region. -/
def Arrival.touched (r : Arrival) (ws : List Nat) : Nat :=
  ws.countP (fun w => decide (r.base.toNat / 8 ≤ w) && decide (w < (r.base.toNat + r.len.toNat) / 8))

/-- Words counted in one region of a cell; the words of the very write that reaches EXPECT do not set OVER, however many they are (DESIGN CHOICE, log
entry 176). -/
def State.countRegion (s : State) (k i w : Nat) : State :=
  let c := s.cellAt k
  let r := NatMap.get {} c.regions i
  if w = 0 then s
  else
    let r1 := { r with arrived := satAdd r.arrived w, past := r.past || r.ready }
    if r.ready || r1.arrived.toNat < r.expect.toNat then s.setCell k { c with regions := NatMap.put {} c.regions i r1 }
    else
      let s1 := s.setCell k (({ c with regions := NatMap.put {} c.regions i { r1 with ready := true } } : Cell).setTag i 0)
      if r.ctrEn then s1.sendInc k (s.userOf k) r.ctr 1 (foldWord 4 s.pkgId.toNat (k / 64) (k % 64 * 64 + i) 0) else s1

/-- Words of the scratchpad of cell k that one write has written, counted in its armed regions (R198). -/
def State.countArrival (s : State) (k : Nat) (ws : List Nat) : State :=
  (s.cellAt k).regions.foldl (fun s e => if e.2.armed then s.countRegion k e.1 (e.2.touched ws) else s) s

/-- A write performed at its home and counted, each word that it writes once; answers whether it met an uncorrectable word in part, which it does not
write (R199, R425). -/
def State.performCounted (s : State) (pa : Nat) (bs : List Byte) : State × Bool :=
  let bad (w : Nat) : Bool := s.badWords.any (fun e => eccTouches (spAddr (spCell pa) (8 * w)) 8 e && eccTouches pa bs.length e && !eccCovers pa bs.length e)
  let s1 := s.poke pa bs
  (if inSp pa then s1.countArrival (spCell pa) ((dwordsOf (spOff pa) bs.length).filter (fun w => !bad w)) else s1, s.badWrite pa bs.length)

/-! ### Reduce operations (R200) -/

/-- The type code (R288) and the size in bytes of a RED. -/
def redType : Nat → Nat
  | 0 => 2
  | 1 => 3
  | 2 => 9
  | 3 => 8
  | 4 => 10
  | 5 => 2
  | 6 => 3
  | 7 => 9
  | 8 => 8
  | _ => 10
def redSize (red : Nat) : Nat := tyBits (redType red) / 8

/-- Whether a RED is a floating operation. -/
def redFloat (red : Nat) : Bool := tyFloat (redType red)

/-- One element combined: the old value and the one that arrives. -/
def redCombine (red old x : Nat) : Nat := redNode (if red < 5 then .vredsum else .vredmax) (redType red) 0 false 0 old x

/-- Elements combined at their home in ascending address order (R201); those that meet an uncorrectable word are withheld, which is answered. -/
def State.combine (red : Nat) : Nat → State → Nat → List Byte → State × Bool
  | 0, s, _, _ => (s, false)
  | n + 1, s, pa, bs =>
    let sz := redSize red
    if bs.length < sz then (s, false)
    else
      let bad := s.badRead pa sz
      let s1 := if bad then s else s.poke pa (leBytes sz (redCombine red (ofLe (s.bytesAt pa sz)) (ofLe (bs.take sz))))
      let (s2, b) := State.combine red n s1 (pa + sz) (bs.drop sz)
      (s2, bad || b)

/-- A piece of a reducing write applied and counted, each word once (R104, R198). -/
def State.applyReduce (red : Nat) (s : State) (pa : Nat) (bs : List Byte) : State × Bool :=
  let (s1, bad) := State.combine red bs.length s pa bs
  (if inSp pa then s1.countArrival (spCell pa) ((dwordsOf (spOff pa) bs.length).filter (fun w => !s.badRead (spAddr (spCell pa) (8 * w)) 8)) else s1, bad)

/-! ### Reports of performed writes -/

/-- A write of a copy or an entry ends with a status: the first that is not 0 stays. -/
def State.report (s : State) (o : Owner) (st : BitVec 3) : State :=
  match o with
  | .copy k id => s.modCell k (fun c => { c with copies := c.copies.map (fun (x : Copy) => if x.id = id then { x with verdict := x.verdict.or (some st) } else x) })
  | .entry e id =>
    let g := NatMap.get {} s.engines e
    { s with engines := NatMap.put {} s.engines e { g with fired := g.fired.map (fun (x : Entry) => if x.id = id then { x with done := x.done.or (some st) } else x) } }
  | .grant xid _ snd _ =>
    { s with members := s.members.map (fun (m : Member) =>
      if m.post.xid = xid && m.post.member = snd && !m.done then { m with causes := m.causes ++ [st.toNat] } else m) }
  | .chunk n => { s with chunksIn := s.chunksIn.map (fun (x : ChunkIn) => if x.n = n && x.status = 0 then { x with status := st } else x) }
  | _ => s

/-- A write met an uncorrectable word (R425). -/
def State.reportBad (s : State) (o : Owner) : State := s.report o 2

/-- The lower of two addresses. -/
def lowest (a : Option Word) (b : Word) : Option Word :=
  match a with
  | none => some b
  | some x => some (if b.ult x then b else x)

/-- An element of an owner's access that is lost, at its virtual address (R19, R246). -/
def State.loseElement (s : State) (o : Owner) (va : Word) : State :=
  match o with
  | .tensor c id => s.modCell c (fun x => { x with tensors := x.tensors.map (fun (t : Tensor) => if t.id = id then { t with lost := lowest t.lost va } else t) })
  | .vector c id => s.modCell c (fun x => { x with vcmds := x.vcmds.map (fun (t : VCmd) => if t.id = id then { t with lost := lowest t.lost va } else t) })
  | _ => s

/-- Whether what an owner writes counts in arrival regions: an engine's own bytes in an entry or a grant table do not (R198). -/
def Owner.counted : Owner → Bool
  | .engine => false
  | .status _ _ => false
  | .received _ _ => false
  | .chain _ => false
  | .host _ => false
  | _ => true

/-- Whether some write is outstanding for an owner: on its way, held, or not acknowledged by its home (R17). -/
def State.outstanding (s : State) (o : Owner) : Bool :=
  s.pairs.any (fun p => p.2.unacked.any (fun r => r.owner == o) || p.2.backlog.any (fun r => r.owner == o)) ||
  s.inWrites.any (fun w => w.owner == o) || s.redWrites.any (fun w => w.owner == o) || s.redHeld.any (fun w => w.owner == o) ||
  s.parkedIn.any (fun w => w.2.2.owner == o) || s.parkedRed.any (fun w => w.2.2.owner == o) || s.cells.any (fun c => c.2.cbuf.any (fun e => e.2.owner == o))

/-- Chunks from other packages whose bytes are performed are acknowledged, and then the increments that came with them are sent, once every earlier
chunk of that package is performed too (R181, R204). -/
def State.settleChunks (s : State) : State :=
  let done (x : ChunkIn) : Bool := !s.outstanding (.chunk x.n) && (x.inc.isNone || s.chunksIn.all (fun y => y.pkg != x.pkg || decide (x.n ≤ y.n) || !s.outstanding (.chunk y.n)))
  let ready := s.chunksIn.filter done
  let s0 := { s with chunksIn := s.chunksIn.filter (fun x => !done x), netOut := s.netOut ++ ready.map (fun x => NetMsg.ack x.pkg x.num x.status) }
  let s1 := (ready.filterMap (fun x => x.inc)).foldl (fun s i => s.sendInc 1024 none i.cid i.amount i.fold) s0
  ready.foldl (fun (s : State) x =>
    { s with chunkResp := NatMap.put [] s.chunkResp x.pkg.toNat ((x.num, x.status) :: (NatMap.get [] s.chunkResp x.pkg.toNat).take 255) }) s1

/-! ### Release of held entries (R122) -/

/-- The masked bytes of an entry cut into runs of consecutive offsets. -/
def byteRuns : List (Nat × Byte) → List (Nat × List Byte)
  | [] => []
  | (i, b) :: l =>
    match byteRuns l with
    | (j, bs) :: rest => if j = i + 1 then (i, b :: bs) :: rest else (i, [b]) :: (j, bs) :: rest
    | [] => [(i, [b])]

/-- The kind of requester that a write's owner is (R266). -/
def Owner.kind : Owner → Nat
  | .none => 0
  | .tensor _ _ => 1
  | .vector _ _ => 2
  | .copy _ _ => 4
  | .host _ => 7
  | _ => 5

/-- An uncorrectable word met by a held entry, on its way out of the buffer or at the word that it writes (R132, R425): whoever made it is told. A drain
ends with status 2, a store raises its trap in the cell that made it, an element's access when it completes. -/
def State.heldFails (s : State) (k : Nat) (h : Held) (pa : Nat) : State :=
  let s1 := s.logBad (if h.seq.isSome then h.cell else k) pa (if h.kind = 1 then 3 else h.owner.kind)
  if h.kind = 1 then s1.modQuad (quadOf k) (fun q => { q with cmds := q.cmds.map (fun (c : MCmd) =>
    if c.cell ≠ k then c
    else if c.id = h.cmd then { c with part := true }
    else if c.owed.any (fun x => x.2.2 == h.cmd) then { c with bad := true, owed := c.owed.filter (fun x => x.2.2 != h.cmd) }
    else c) })
  else
    match h.owner, h.seq with
    | .tensor c id, _ => s1.modCell c (fun x => { x with tensors := x.tensors.map (fun (o : Tensor) => if o.id = id then { o with late := lowest o.late h.va } else o) })
    | .vector c id, _ => s1.modCell c (fun x => { x with vcmds := x.vcmds.map (fun (o : VCmd) => if o.id = id then { o with late := lowest o.late h.va } else o) })
    | .none, some q => s1.deferred h.cell tcUncorrectable q h.pc h.va
    | o, _ => s1.reportBad o

/-- A held entry performed: reducing writes are combined, engine and one-sided writes are counted in arrival regions. -/
def State.performHeld (s : State) (k : Nat) (h : Held) : State :=
  let base := spAddr k (h.word * 64)
  let lost := (List.range 8).find? (fun w => h.bad.getLsbD w && h.bytes.any (fun x => x.1 / 8 == w))
  let s0 := match lost with
    | none => s
    | some w => s.heldFails k h (base + 8 * w)
  (byteRuns (h.bytes.filter (fun x => !h.bad.getLsbD (x.1 / 8)))).foldl (fun s (i, bs) =>
    let (s1, bad) :=
      if h.kind = 3 then State.applyReduce h.red s (base + i) bs
      else if h.kind = 2 && h.owner.counted then s.performCounted (base + i) bs
      else (s.poke (base + i) bs, s.badWrite (base + i) bs.length)
    if bad then s1.heldFails k h (base + i) else s1) s0

/-- Whether an entry may leave: no lock, no signature awaited, no earlier entry to its word. -/
def Cell.mayLeave (c : Cell) (locked : Nat → Bool) (h : Held) : Bool :=
  (h.kind != 3 || h.lock) && !h.sig && !locked h.word &&
  !c.cbuf.any (fun e => e.2.word == h.word && decide (e.2.order < h.order) && !(e.2.kind == 3 && !e.2.lock))

/-- Entries that may leave are performed in the order they entered, until none is left. -/
def State.releaseHeld (k : Nat) : Nat → State → State
  | 0, s => s
  | n + 1, s =>
    let c := s.cellAt k
    let ok := sortBy (fun a b => decide (a.2.order ≤ b.2.order)) (c.cbuf.filter (fun e => c.mayLeave (s.locked k) e.2))
    match ok with
    | [] => s
    | (i, h) :: _ =>
      let s1 := s.setCell k { c with cbuf := NatMap.del c.cbuf i }
      State.releaseHeld k n (s1.performHeld k h)

/-- The counters of walk positions whose bytes have all left the buffer are incremented (R398, R202). -/
def State.sendOwed (s : State) (k : Nat) : State :=
  let c := s.cellAt k
  let left (id : Nat) : Bool := !c.cbuf.any (fun e => e.2.kind == 1 && e.2.cmd == id)
  let due := (s.quadAt (quadOf k)).cmds.flatMap (fun m => if m.cell = k then m.owed.filter (fun x => left x.2.2) else [])
  let s1 := s.modQuad (quadOf k) (fun q => { q with
    cmds := q.cmds.map (fun (m : MCmd) => if m.cell = k then { m with owed := m.owed.filter (fun x => !left x.2.2) } else m) })
  if c.stop = some .machineCheck then s1
  else due.foldl (fun s (i, ctr, _) =>
    match ctr with
    | none => s
    | some cid => s.sendInc k (s.userOf k) cid 1 (foldWord 3 s.pkgId.toNat (k / 64) (k % 64) i)) s1

/-- Everything that a released lock or a matched signature lets go. -/
def State.letGo (s : State) (k : Nat) : State := ((State.releaseHeld k 1024 s).sendOwed k).settleChunks

/-! ### Sequenced writes (R201) -/

/-- NEXT of a sequence region: of a cell (scratchpad), or of a home die (HBM). -/
def State.seqNextOf (s : State) (pa sreg : Nat) : Nat :=
  if inSp pa then (NatMap.get 0 (s.cellAt (spCell pa)).seqNext sreg).toNat else (NatMap.get 0 s.homeNext (homeDie pa * 4096 + sreg)).toNat

/-- The state with NEXT of a sequence region set. -/
def State.setSeqNext (s : State) (pa sreg v : Nat) : State :=
  if inSp pa then s.modCell (spCell pa) (fun c => { c with seqNext := NatMap.put 0 c.seqNext sreg (BitVec.ofNat 32 v) })
  else { s with homeNext := NatMap.put 0 s.homeNext (homeDie pa * 4096 + sreg) (BitVec.ofNat 32 v) }

/-- The address that a reducing write starts at, with the mark of a replicated page and without it. -/
def RedWrite.first (w : RedWrite) : Nat := ((w.parts.map (fun x => x.1))).headD 0
def RedWrite.pa (w : RedWrite) : Nat := w.first % replFlag

/-- Whether two writes belong to one sequence region: that of the home of a write's first byte, for the whole write (DESIGN CHOICE, log entry 177). -/
def sameRegion (a b : RedWrite) : Bool :=
  a.sreg == b.sreg && inSp a.pa == inSp b.pa && (if inSp a.pa then spCell a.pa == spCell b.pa else homeDie a.pa == homeDie b.pa)

end Sys2Proof.Machine
end

