-- ==== Sys2Proof/Machine/MatCheck.lean ====
section
/-! DEFINITION. Matrix templates (R387 to R398, R154 to R156): their fields, the format entry, what a command fetches and
writes, and the checks of a GO in their order. -/

namespace Sys2Proof.Machine

/-! ### Formats (R154, R155) -/

/-- Element width in bits of a format code. -/
def mfBits : Nat → Nat
  | 3 => 16
  | 4 => 16
  | 5 => 32
  | 6 => 64
  | 8 => 4
  | 11 => 4
  | 12 => 32
  | _ => 8

/-- Bytes of a header or scale, 0 for a format without a plane. -/
def mfHead : Nat → Nat
  | 7 => 2
  | 8 => 2
  | 9 => 1
  | 10 => 1
  | 11 => 1
  | _ => 0

/-- Whether a format is a DX format. -/
def mfDx (t : Nat) : Bool := t == 7 || t == 8

/-- Rate class in bits, 0 where the format is no operand. -/
def mfRate : Nat → Nat
  | 5 => 32
  | 6 => 0
  | t => if t < 12 then mfBits t else 0

/-- The exact value of an element (R133, R136, R137). -/
def mfVal (t head code : Nat) : Val :=
  match t with
  | 0 => ofInt (sxInt code 8)
  | 1 => e4m3.decode code
  | 2 => e5m2.decode code
  | 3 => bf16.decode code
  | 4 => fp16.decode code
  | 5 => fp32.decode code
  | 6 => fp64.decode code
  | 7 => dxVal true head code
  | 8 => dxVal false head code
  | 9 => mxVal e4m3 head code
  | 10 => mxVal e5m2 head code
  | 11 => mxVal e2m1 head code
  | _ => ofInt (sxInt code 32)

/-- A value rounded into a plain format (R140, R142). -/
def mfRound (t mode : Nat) (sat : Bool) (r : Nat) (v : Val) : Nat :=
  match t with
  | 0 => roundInt 8 true mode sat r v
  | 1 => roundTo e4m3 mode sat r v
  | 2 => roundTo e5m2 mode sat r v
  | 3 => roundTo bf16 mode sat r v
  | 4 => roundTo fp16 mode sat r v
  | 5 => roundTo fp32 mode sat r v
  | 6 => roundTo fp64 mode sat r v
  | _ => roundInt 32 true mode sat r v

/-- Fields of a format-table entry. -/
def fmtA (e : Word) : Nat := bits e 3 0
def fmtB (e : Word) : Nat := bits e 7 4
def fmtAcc (e : Word) : Nat := bits e 11 8
def fmtO (e : Word) : Nat := bits e 15 12
def fmtRnd (e : Word) : Nat := bits e 18 16
def fmtSat (e : Word) : Bool := bit e 19
def fmtGrain (e : Word) : Nat := 32 * 2 ^ bits e 21 20
def fmtSplit (e : Word) : Nat := bits e 25 22
def fmtHad (e : Word) : Nat := bits e 27 26
def fmtSalt (e : Word) : Word := e >>> 48

/-- Whether an entry is valid (R155). -/
def fmtValid (e : Word) : Bool :=
  mfRate (fmtA e) != 0 && mfRate (fmtA e) == mfRate (fmtB e) && ((fmtA e == 0) == (fmtB e == 0)) &&
  (if fmtA e = 0 then fmtAcc e == 12 else fmtAcc e == 5 || fmtAcc e == 6) &&
  decide (fmtRnd e ≤ 4) && bits e 21 20 != 3 && fmtHad e != 3

/-- Accumulator element width in bytes. -/
def accBytes (e : Word) : Nat := if fmtAcc e = 6 then 8 else 4

/-! ### Fields (R387) -/

/-- A field of a template. -/
def fld (f : List Word) (i : Nat) : Word := f.getD i 0

def tOp (f : List Word) : Nat := bits (fld f 0) 7 0
def tSpat (f : List Word) : Nat := bits (fld f 0) 9 8
def tInv (f : List Word) : Bool := bit (fld f 0) 10
/-- EADDR and XADDR of f1 or f2. -/
def tEaddr (f : List Word) (i : Nat) : Nat := bits (fld f i) 21 0
def tXaddr (f : List Word) (i : Nat) : Nat := bits (fld f i) 43 22
def tTile (f : List Word) : Nat := bits (fld f 3) 1 0
def tRow0 (f : List Word) : Nat := bits (fld f 3) 8 2
def tCol0 (f : List Word) : Nat := bits (fld f 3) 15 9
def tM (f : List Word) : Nat := bits (fld f 4) 7 0
def tN (f : List Word) : Nat := bits (fld f 4) 15 8
def tK (f : List Word) : Nat := bits (fld f 4) 28 16
/-- ESTRIDE and XSTRIDE of f5 or f6. -/
def tEstride (f : List Word) (i : Nat) : Nat := bits (fld f i) 19 0
def tXstride (f : List Word) (i : Nat) : Nat := bits (fld f i) 39 20
def tPtr (f : List Word) : Nat := bits (fld f 8) 21 0
def tIdx (f : List Word) : Nat := bits (fld f 8) 43 22
def tBmax (f : List Word) : Nat := bits (fld f 8) 51 44
def tDst (f : List Word) : Nat := bits (fld f 9) 21 0
def tSiga (f : List Word) : Nat := bits (fld f 9) 40 22 * 8
def tSigen (f : List Word) : Bool := bit (fld f 9) 41
def tOvr (f : List Word) : Bool := bit (fld f 10) 8
def tXdst (f : List Word) : Nat := bits (fld f 10) 31 10
def tDstride (f : List Word) : Nat := bits (fld f 10) 51 32
def tXdstride (f : List Word) : Nat := bits (fld f 10) 63 52
def tTable (f : List Word) : Nat := bits (fld f 11) 21 0
def tCount (f : List Word) : Nat := bits (fld f 11) 44 32

/-- Effective output format, rounding and saturation of a drain (R387). -/
def dType (f : List Word) (e : Word) : Nat := if tOvr f then bits (fld f 10) 3 0 else fmtO e
def dRnd (f : List Word) (e : Word) : Nat := if tOvr f then bits (fld f 10) 6 4 else fmtRnd e
def dSat (f : List Word) (e : Word) : Bool := if tOvr f then bit (fld f 10) 7 else fmtSat e

/-- Stored elements of an A row (R393). -/
def storedK (f : List Word) : Nat := if tOp f = 3 then (if tSpat f = 0 then tK f / 2 else tK f / 4) else tK f

/-- The end of the scratchpad. -/
def spEnd : Nat := 0x400000

/-- A raster entry's offsets: TI, TJ, RANK, PEER (R397). -/
def rTi (w : Word) : Nat := bits w 15 0
def rTj (w : Word) : Nat := bits w 31 16
def rRank (w : Word) : Nat := bits w 47 32
def rPeer (w : Word) : Nat := bits w 57 48

/-! ### What a command fetches and writes -/

/-- n pieces of `len` bytes, a stride apart; none when they hold no byte. -/
def pieces (base stride n len : Nat) : List (Nat × Nat) := if len = 0 then [] else (List.range n).map (fun i => (base + i * stride, len))

/-- The pieces of a dense operand of n rows of kk elements: element plane and exponent plane (R390). -/
def operandPieces (t g eaddr xaddr es xs n kk : Nat) : List (Nat × Nat) :=
  pieces eaddr es n ((kk * mfBits t + 7) / 8) ++ (if mfHead t = 0 then [] else pieces xaddr xs n ((kk + g - 1) / g * mfHead t))

/-- A of a command, its row-block offset given (R390, R398). -/
def aPieces (f : List Word) (e : Word) (ti : Nat) : List (Nat × Nat) :=
  operandPieces (fmtA e) (fmtGrain e) (tEaddr f 1 + ti * tM f * tEstride f 5) (tXaddr f 1 + ti * tM f * tXstride f 5)
    (tEstride f 5) (tXstride f 5) (tM f) (storedK f)

/-- B of a command, its column-block offset given. -/
def bPieces (f : List Word) (e : Word) (tj : Nat) : List (Nat × Nat) :=
  operandPieces (fmtB e) (fmtGrain e) (tEaddr f 2 + tj * tN f * tEstride f 6) (tXaddr f 2 + tj * tN f * tXstride f 6)
    (tEstride f 6) (tXstride f 6) (tN f) (tK f)

/-- The blocks of a BSR operand: element and header pieces of n blocks (R394). -/
def bsrPieces (f : List Word) (e : Word) (n : Nat) : List (Nat × Nat) :=
  let row := 32 * mfBits (fmtA e) / 8
  [(tEaddr f 1, 32 * n * row)].filter (fun p => p.2 != 0) ++
  (if mfHead (fmtA e) = 0 || n = 0 then [] else [(tXaddr f 1, 32 * n * mfHead (fmtA e))])

/-- The rows that a drain writes: element plane and exponent plane (R396). -/
def drainRows (f : List Word) (e : Word) (dst xdst : Nat) : List (Nat × Nat) × List (Nat × Nat) :=
  let t := dType f e
  (pieces dst (tDstride f) (tM f) ((tN f * mfBits t + 7) / 8),
   if mfHead t = 0 then [] else pieces xdst (tXdstride f) (tM f) (tN f / fmtGrain e * mfHead t))

/-- DST and XDST of a walk's entry (R398). -/
def drainBase (f : List Word) (e : Word) (ti tj : Nat) : Nat × Nat :=
  let t := dType f e
  (tDst f + ti * tM f * tDstride f + tj * tN f * mfBits t / 8,
   tXdst f + ti * tM f * tXdstride f + tj * tN f / fmtGrain e * mfHead t)

/-- Whether every piece lies in the scratchpad. -/
def inPad (l : List (Nat × Nat)) : Bool := l.all (fun p => decide (p.1 + p.2 ≤ spEnd))

/-- A 32-bit array of n values in a cell's scratchpad, as C sees it. -/
def State.words32 (s : State) (k off n : Nat) : List Nat :=
  (List.range n).map (fun i => ofLe (s.seenBytes k .C (spAddr k (off + 4 * i)) 4))

/-- The row-block pointers and, below them, the block indices of a BSR operand. -/
def State.bsrPtr (s : State) (k : Nat) (f : List Word) : List Nat := s.words32 k (tPtr f) (tM f / 32 + 1)
def State.bsrIdx (s : State) (k : Nat) (f : List Word) (n : Nat) : List Nat := s.words32 k (tIdx f) n

/-- The raster table of a walk. -/
def State.rasterTable (s : State) (k : Nat) (f : List Word) : List Word :=
  (List.range (tCount f)).map (fun i => BitVec.ofNat 64 (ofLe (s.seenBytes k .C (spAddr k (tTable f + 8 * i)) 8)))

/-- The pieces that a command fetches (R121): A, B, BSR arrays, the raster table with every entry's operands, the source of
`mload`. -/
def State.fetches (s : State) (k : Nat) (f : List Word) (e : Word) : List (Nat × Nat) :=
  match tOp f with
  | 0 => aPieces f e 0 ++ bPieces f e 0
  | 1 => aPieces f e 0 ++ bPieces f e 0
  | 2 =>
    let n := (s.bsrPtr k f).getLastD 0
    [(tPtr f, 4 * (tM f / 32 + 1)), (tIdx f, 4 * n)].filter (fun p => p.2 != 0) ++ bsrPieces f e n ++ bPieces f e 0
  | 3 => aPieces f e 0 ++ bPieces f e 0
  | 4 => aPieces f e 0
  | 6 => (tTable f, 8 * tCount f) :: (s.rasterTable k f).flatMap (fun w => aPieces f e (rTi w) ++ bPieces f e (rTj w))
  | 8 => pieces (tEaddr f 1) (tEstride f 5) (tM f) (tN f * accBytes e)
  | _ => []

/-- The 64-byte words of a list of pieces. -/
def wordsOf (l : List (Nat × Nat)) : List Nat :=
  (l.flatMap (fun p => (List.range ((p.1 + p.2 + 63) / 64 - p.1 / 64)).map (· + p.1 / 64))).eraseDups

/-! ### The checks of a GO (R388) -/

/-- The first field of a list of checks that fails. -/
def firstFail : List (Nat × Bool) → Option Nat
  | [] => none
  | (i, ok) :: l => if ok then firstFail l else some i

/-- The operations that read an operand A, an operand B, and those that drain. -/
def usesA (op : Nat) : Bool := op != 5 && op != 7
def usesBop (op : Nat) : Bool := op == 0 || op == 1 || op == 2 || op == 3 || op == 6
def drains (op : Nat) : Bool := op == 5 || op == 6

/-- K by operation and format (R389). -/
def kOk (f : List Word) (e : Word) : Bool :=
  let k := tK f
  let g := fmtGrain e
  let block := mfHead (fmtA e) != 0 || mfHead (fmtB e) != 0
  let mult (m lo : Nat) : Bool := k % m == 0 && decide (lo ≤ k) && decide (k ≤ 4096)
  match tOp f with
  | 2 => mult 32 32 && tM f % 32 == 0 && (!block || g == 32)
  | 3 => if block then (if tSpat f = 0 then mult (2 * g) (2 * g) else mult (4 * g) (4 * g)) else if tSpat f = 0 then mult 8 8 else mult 16 16
  | 4 => k == 128
  | 5 => k == 0
  | 7 => k == 0
  | 8 => k == 0
  | _ => if block then mult g 32 else mult 8 8

/-- Checks of f1 and f2: alignment, XADDR only for a format with a plane, and, where `whole`, the pieces (R388). -/
def addrOk (f : List Word) (i t : Nat) (mload whole : Bool) (l : List (Nat × Nat)) : Bool :=
  tEaddr f i % 64 == 0 &&
  (if mload || mfHead t = 0 then tXaddr f i == 0 else !mfDx t || tXaddr f i % 2 == 0) && (!whole || inPad l)

/-- Checks of f5 and f6. -/
def strideOk (f : List Word) (i t : Nat) : Bool :=
  tEstride f i % 8 == 0 && (!mfDx t || tXstride f i % 2 == 0)

/-- Checks of f8 for a BSR operand (R394). -/
def State.bsrOk (s : State) (k : Nat) (f : List Word) (e : Word) : Bool :=
  let mb := tM f / 32
  if tPtr f % 4 ≠ 0 || tIdx f % 4 ≠ 0 || spEnd < tPtr f + 4 * (mb + 1) || tK f / 32 < tBmax f then false
  else if s.badRead (spAddr k (tPtr f)) (4 * (mb + 1)) then true
  else
    let p := s.bsrPtr k f
    let n := p.getLastD 0
    if !(List.range mb).all (fun i => decide (p.getD i 0 ≤ p.getD (i + 1) 0)) || spEnd < tIdx f + 4 * n || !inPad (bsrPieces f e n) then false
    else if s.badRead (spAddr k (tIdx f)) (4 * n) then true
    else
      let ix := s.bsrIdx k f n
      (List.range mb).all (fun i =>
        let l := (ix.drop (p.getD i 0)).take (p.getD (i + 1) 0 - p.getD i 0)
        NatMap.rising (l.map (fun x => (x, ()))) && l.all (fun x => decide (x < tK f / 32)) && (tBmax f == 0 || decide (l.length ≤ tBmax f)))

/-- Checks of a drain that name f10 or f9, in the order of R396. -/
def drainChecks (f : List Word) (e : Word) (whole : Bool) : List (Nat × Bool) :=
  let t := dType f e
  let (el, hd) := drainRows f e (tDst f) (tXdst f)
  [(10, tDstride f % 8 == 0),
   (10, decide (t ≤ 12) && decide (dRnd f e ≤ 4)),
   (10, mfHead t == 0 || tN f % fmtGrain e == 0),
   (10, fmtHad e == 0 || tN f == 128),
   (9, tDst f % (max 1 (mfBits t / 8)) == 0),
   (10, !mfDx t || tXdst f % 2 == 0),
   (9, !whole || (inPad el && (!tSigen f || decide (tSiga f + 8 ≤ spEnd)))), (10, !whole || inPad hd)]

/-- Checks of a raster walk that name f11 (R398). -/
def State.rasterOk (s : State) (k : Nat) (f : List Word) (e : Word) : Bool :=
  if tCount f = 0 || 4096 < tCount f || tTable f % 8 ≠ 0 || spEnd < tTable f + 8 * tCount f
  then false
  else if s.badRead (spAddr k (tTable f)) (8 * tCount f) then true
  else
    (s.rasterTable k f).zipIdx.all (fun (w, q) =>
      let (d, x) := drainBase f e (rTi w) (rTj w)
      let (el, hd) := drainRows f e d x
      bits w 63 58 == 0 && inPad (aPieces f e (rTi w)) && inPad (bPieces f e (rTj w)) && inPad el && inPad hd &&
      (!tSigen f || decide (tSiga f + 8 * q + 8 ≤ spEnd)))

/-- The checks of f12 and f13 (R279). -/
def f1213 (f : List Word) : List (Nat × Bool) := [(12, bits (fld f 12) 63 15 == 0), (13, bits (fld f 13) 63 3 == 0)]

/-- The format entry that f7 selects (R156): none when the number is 64 or more, or the entry is invalid. -/
def Cell.fmtEntry (c : Cell) (f : List Word) : Option Word :=
  let w := fld f 7
  let i := if bit w 6 then c.fmtbase.toNat + (c.c.loopCnt (bits w 8 7)).toNat + bits w 5 0 else bits w 5 0
  if 64 ≤ i then none
  else
    let e := NatMap.get 0 c.formats i
    if fmtValid e then some e else none

/-- The first field of a matrix template that fails its checks (R388); reserved bits and fields that the operation does not read are ignored (R5), but those of f0,
which R388 lists, and of f12 and f13 (R279). -/
def State.matrixFail (s : State) (k : Nat) (f : List Word) : Option Nat :=
  let op := tOp f
  let f0ok := decide (op ≤ 8) && bits (fld f 0) 63 11 == 0 && (op == 3 || tSpat f == 0) && decide (tSpat f < 2) && (op == 4 || !tInv f)
  if !f0ok then some 0
  else
    match (s.cellAt k).fmtEntry f with
    | none => some 7
    | some e =>
      let plain := op != 2 && op != 6 && op != 8
      firstFail ([
        (4, tM f != 0 && decide (tM f ≤ 128) && tN f != 0 && decide (tN f ≤ 128) &&
            (fmtAcc e != 6 || decide (tN f ≤ 64)) && kOk f e),
        (3, decide (tRow0 f + tM f ≤ 128) && decide (tCol0 f + tN f ≤ 512 / accBytes e)),
        if usesA op then (1, addrOk f 1 (fmtA e) (op == 8) (plain || op == 8) (if op = 8 then pieces (tEaddr f 1) (tEstride f 5) (tM f) (tN f * accBytes e) else aPieces f e 0)) else (1, true),
        if usesBop op then (2, addrOk f 2 (fmtB e) false (op != 6) (bPieces f e 0)) else (2, true),
        if usesA op then (5, strideOk f 5 (if op = 8 then 0 else fmtA e) && (op != 2 || fld f 5 == 0)) else (5, true),
        if usesBop op then (6, strideOk f 6 (fmtB e)) else (6, true),
        if op = 2 then (8, s.bsrOk k f e) else (8, true)] ++
        (if drains op then drainChecks f e (op == 5) else []) ++
        [if op = 6 then (11, s.rasterOk k f e) else (11, true)] ++ f1213 f)

end Sys2Proof.Machine
end

