-- ==== Sys2Proof/Machine/CopyCheck.lean ====
section
/-! DEFINITION. Copy templates (R342 to R345): their fields, the shape records captured with a command, the checks of a GO in
their order, and the element streams of a copy (R344). -/

namespace Sys2Proof.Machine

/-! ### Fields (R342) -/

def cOp (f : List Word) : Nat := bits (fld f 0) 7 0
def cSshape (f : List Word) : Bool := bit (fld f 0) 8
def cDshape (f : List Word) : Bool := bit (fld f 0) 9
def cBytes (f : List Word) : Nat := bits (fld f 5) 39 0
def cRed (f : List Word) : Nat := bits (fld f 6) 3 0
def cSreg (f : List Word) : Nat := bits (fld f 6) 15 4
def cSeq (f : List Word) : Nat := bits (fld f 6) 39 16
def cSpan (f : List Word) : Nat := bits (fld f 6) 63 40
def cReq (f : List Word) : Bool := bit (fld f 7) 0
def cCsaddr (f : List Word) : Word := BitVec.ofNat 64 (bits (fld f 7) 51 3 * 8)
def cPkg (f : List Word) : Nat := bits (fld f 8) 18 0

/-- The common fields f12 and f13 (R279). -/
def fCtrEn (f : List Word) : Bool := bit (fld f 12) 14
def fCid (f : List Word) : BitVec 14 := (fld f 12).truncate 14
def fNoTag (f : List Word) : Bool := bit (fld f 13) 0

/-- The counters that a command of sequencer q signals: each direction that the GO word or f13 names, once (R279). -/
def commandSignals (t : BitVec 4) (f : List Word) (q : SeqId) : List Nat :=
  (if t.getLsbD 1 || bit (fld f 13) 1 then [tokSP q] else []) ++ (if t.getLsbD 0 || bit (fld f 13) 2 then [tokSN q] else [])

/-! ### Shape records as captured (R344) -/

/-- The bytes of words, little-endian. -/
def wordBytes (l : List Word) : List Byte := l.flatMap (fun w => leBytes 8 w.toNat)

/-- The sixteen words of a record at a scratchpad offset, as a sequencer of the cell sees them; as they stand in memory for a block that another thread has
pushed, whose records no store of a sequencer here has reached before it is performed (R174). -/
def State.recordAt (s : State) (k : Nat) (q : Option SeqId) (off : Nat) : List Word :=
  let bs := match q with
    | some q => s.seenBytes k q (spAddr k off) 128
    | none => s.bytesAt (spAddr k off) 128
  (List.range 16).map (fun i => BitVec.ofNat 64 (ofLe ((bs.drop (8 * i)).take 8)))

/-- Whether a record's ECC words are readable. -/
def State.recordBad (s : State) (k off : Nat) : Bool := s.badRead (spAddr k off) 128

/-- Whether a record passes the checks of R345: its place, its fields, its base and strides. -/
def recordOk (v : Word) (words : List Word) (off : Word) : Bool :=
  bits v 63 22 == 0 && v.toNat % 128 == 0 &&
  (match shapeOf (wordBytes words) with
   | none => false
   | some r => (r.base + off).toNat % 2 ^ r.esize == 0 && r.stride.all (fun x => x % (2 ^ r.esize : Int) == 0))

/-! ### The checks of a GO (R345) -/

/-- Which shapes an operation allows (R343): source, destination. -/
def copyShapes : Nat → Bool × Bool
  | 0 => (true, true)
  | 2 => (true, false)
  | 3 => (false, true)
  | 4 => (true, true)
  | _ => (false, false)

/-- Element size of a `cpyred`, 1 where RED names none. -/
def redElem (red : Nat) : Nat := if red < 10 then redSize red else 1

/-- The first field of a copy template that fails its checks; srec and drec are the records as read, whose uncorrectable words
are not judged (log entry 21). -/
def copyFail (f srec drec : List Word) (srcBad dstBad : Bool) (level : Nat) : Option Nat :=
  let op := cOp f
  let ss := cSshape f
  let ds := cDshape f
  let red := op == 1
  let es := redElem (cRed f)
  let shape (l : List Word) : Option Shape := shapeOf (wordBytes l)
  let local' := decide (localBase ≤ (fld f 2).toNat) && decide ((fld f 2).toNat < 2 ^ 52)
  firstFail [
    (0, decide (op ≤ 5) && bits (fld f 0) 63 10 == 0 && (!ss || (copyShapes op).1) && (!ds || (copyShapes op).2)),
    (3, if ss then srcBad || recordOk (fld f 3) srec (fld f 1) else fld f 3 == 0),
    (4, if ds then dstBad || recordOk (fld f 4) drec (fld f 2) else fld f 4 == 0),
    (4, !(ss && ds) || srcBad || dstBad ||
        (match shape srec, shape drec with
         | some a, some b => a.count == b.count && a.esize == b.esize
         | _, _ => true)),
    (5, bits (fld f 5) 63 40 == 0 && (!(ss || ds) || fld f 5 == 0) && (op != 5 || decide (cBytes f ≤ miB)) &&
        (!red || (cBytes f % es == 0 && (cSpan f == 0 || decide (cBytes f ≤ miB))))),
    (6, if red then
          decide (cRed f < 10) && (cSpan f == 0 || decide (cSeq f < cSpan f)) &&
          !(cSpan f == 0 && redFloat (cRed f) && decide (level ≠ 0)) && !(local' && decide (255 < cSreg f))
        else fld f 6 == 0),
    (7, if op = 3 || op = 5 then fld f 7 == 0 else bits (fld f 7) 2 1 == 0 && bits (fld f 7) 63 52 == 0 && (op != 2 || cReq f)),
    (1, !red || (fld f 1).toNat % es == 0),
    (2, (op != 2 || fld f 2 == 0) && (!red || (fld f 2).toNat % es == 0)),
    (8, if op = 4 then bits (fld f 8) 63 19 == 0 else fld f 8 == 0),
    (9, op == 5 || fld f 9 == 0),
    (10, fld f 10 == 0),
    (11, fld f 11 == 0),
    (12, bits (fld f 12) 63 15 == 0),
    (13, bits (fld f 13) 63 3 == 0)]

/-- The checks of a copy template in a cell, records read as sequencer q sees them. -/
def State.copyCheck (s : State) (k : Nat) (q : Option SeqId) (f : List Word) : Option Nat :=
  let so := (fld f 3).toNat % 2 ^ 22
  let d := (fld f 4).toNat % 2 ^ 22
  copyFail f (s.recordAt k q so) (s.recordAt k q d) (s.recordBad k so && so % 128 == 0 && bits (fld f 3) 63 22 == 0)
    (s.recordBad k d && d % 128 == 0 && bits (fld f 4) 63 22 == 0) (s.levelOf k)

/-! ### Streams (R344) -/

/-- One side of a copy: a contiguous run, or a walk with its element size. -/
inductive Side where
  | run (base : Word)
  | walk (r : Shape) (off : Word)
deriving DecidableEq, Repr

/-- The address of byte pos of a side, and how many bytes follow there: to the next 64-byte boundary, or to the end of the
element. -/
def Side.at' (x : Side) (pos : Nat) : Word × Nat :=
  match x with
  | .run b => (b + BitVec.ofNat 64 pos, 64 - (b.toNat + pos) % 64)
  | .walk r off => (r.addr off (r.coords (pos / 2 ^ r.esize)) + BitVec.ofNat 64 (pos % 2 ^ r.esize), 2 ^ r.esize - pos % 2 ^ r.esize)

/-- The bank permutation that a side's scratchpad addresses take. -/
def Side.perm : Side → Nat
  | .run _ => 0
  | .walk r _ => r.perm

/-- The sides of a copy. -/
def Copy.srcSide (c : Copy) : Side :=
  match cSshape c.f, shapeOf (wordBytes c.srec) with
  | true, some r => .walk r (fld c.f 1)
  | _, _ => .run (fld c.f 1)
def Copy.dstSide (c : Copy) : Side :=
  match cDshape c.f, shapeOf (wordBytes c.drec) with
  | true, some r => .walk r (fld c.f 2)
  | _, _ => .run (fld c.f 2)

/-- The bytes of a copy's stream. -/
def Copy.total (c : Copy) : Nat :=
  match c.srcSide, c.dstSide with
  | .walk r _, _ => r.count * 2 ^ r.esize
  | _, .walk r _ => r.count * 2 ^ r.esize
  | _, _ => cBytes c.f

/-- One piece of a stream: position, source address, destination address, bytes. -/
structure Piece where
  pos : Nat
  src : Word
  dst : Word
  n   : Nat
deriving DecidableEq, Repr

/-- The stream from a position up to an end, in pieces that lie in one element and one 64-byte word on both sides. -/
def piecesOf (a b : Side) : Nat → Nat → Nat → List Piece
  | 0, _, _ => []
  | fuel + 1, pos, stop =>
    if stop ≤ pos then []
    else
      let (x, i) := a.at' pos
      let (y, j) := b.at' pos
      let n := min (min i j) (stop - pos)
      ⟨pos, x, y, n⟩ :: piecesOf a b fuel (pos + n) stop

end Sys2Proof.Machine
end

