-- ==== Sys2Proof/Machine/Go.lean ====
section
/-! DEFINITION. Patch words and GO (R277 to R282): the staging copies, the checks of a GO, and the issue of matrix, copy and
collective commands with what makes each wait (R341). -/

namespace Sys2Proof.Machine

/-! ### Templates (R277, R279) -/

/-- The engine word of a template as loaded. -/
def Cell.engineWord (c : Cell) (n : Nat) : Word := NatMap.get 0 c.templates (16 * n)

/-- Whether an engine word is empty or has a reserved bit set (R279). -/
def engineEmpty (w : Word) : Bool := w.toNat == 0 || decide (4 ≤ w.toNat)

/-- The fields f0 to f14 of a sequencer's staging copy. -/
def Seq.staged (x : Seq) (n : Nat) : List Word := (List.range 15).map (fun i => NatMap.get 0 x.stage (16 * n + 1 + i))

/-- A sequencer with a field of a staging copy written. -/
def Seq.setStaged (x : Seq) (n f : Nat) (v : Word) : Seq := { x with stage := NatMap.put 0 x.stage (16 * n + 1 + f) v }

/-- A sequencer with a staging copy loaded afresh from the template. -/
def Seq.reload (c : Cell) (n : Nat) (x : Seq) : Seq :=
  (List.range 16).foldl (fun x i => { x with stage := NatMap.put 0 x.stage (16 * n + i) (NatMap.get 0 c.templates (16 * n + i)) }) x

/-- TEMPLATE_FAULT of a template's field (R245, R277). -/
def templateFault {α : Type} (n field : Nat) : M α := raise tcTemplate (BitVec.ofNat 64 (n + field * 256))

/-- The first line of R277: an empty template faults. -/
def checkTemplate (n : Nat) : M Unit := do
  let s ← get
  if engineEmpty (s.cur.engineWord n) then templateFault n 15 else pure ()

/-! ### Matrix commands (R387 to R391, R119) -/

/-- How many steps of SRBASE a command takes (R143); an `mraster` whose entry rounds by rsr takes 2 × COUNT also where its operands are INT8 (DESIGN CHOICE,
log entry 169). -/
def srSteps (f : List Word) (e : Word) : Nat :=
  match tOp f with
  | 5 => if dRnd f e = 4 then 1 else 0
  | 6 => if fmtRnd e = 4 || dRnd f e = 4 then 2 * tCount f else 0
  | 7 => 0
  | 8 => 0
  | _ => if fmtRnd e = 4 && fmtA e != 0 then 1 else 0

/-- Commands between issue and commit (R119): a walk's header holds no place of its own. -/
def Quad.inFlight (q : Quad) : Nat := q.cmds.countP (fun c => tOp c.f != 6 && !c.tagged)

/-- Whether a walk still has positions to enter (R119). -/
def Quad.walking (q : Quad) : Bool := q.cmds.any (fun c => tOp c.f == 6 && !c.walk.isEmpty)

/-- Cells other than c that request the lease (R75). -/
def Quad.othersRequest (q : Quad) (c : Nat) : Bool := (List.range 4).any (fun i => i != c && q.req.getLsbD i)

/-- Whether a cell of the quad may issue under its grant (R74, R75). -/
def Quad.mayUse (q : Quad) (c leasemax : Nat) : Bool :=
  q.held && q.holder.toNat == c && !(decide (leasemax ≤ q.count.toNat) && q.othersRequest c)

/-- The quad with a request of a cell noted in the order it arrived (R74, R76). -/
def Quad.request (q : Quad) (c : Nat) : Quad :=
  { q with req := q.req ||| BitVec.ofNat 4 (2 ^ c), reqOrder := if q.reqOrder.contains c then q.reqOrder else q.reqOrder ++ [c] }

/-- LEASEMAX as it acts (R75). -/
def Cell.leaseLimit (c : Cell) : Nat := max 1 c.leasemax.toNat

/-- A GO that waits for the lease: the request stands, the sequencer counts as blocked, and the template's cycle bound may raise
a deferred CYCLE_BOUND naming the lease (R78, R254). -/
def State.waitLease (s : State) (k bound : Nat) : State :=
  let s1 := (s.modQuad (quadOf k) (fun q => q.request (k % 4))).blockOn 3 0
  let w := s1.waited s1.curSeq
  if bound ≠ 0 && bound ≤ w && s1.cur.stop.isNone then
    (s1.modSeq (fun x => { x with blocked := none })).deferred k tcCycleBound .C s1.curSeq.pc (flagWord 3 0 0 0 (w / 256))
  else s1

/-- The first word of a list that a store of C holds in the commit buffer. -/
def State.heldOn (s : State) (k : Nat) (q : SeqId) (words : List Nat) : Option Nat :=
  words.find? (fun w => (s.cellAt k).cbuf.any (fun e => e.2.word == w && e.2.seq == some q && e.2.cell == k))

/-- Whether a store of the sequencer still in a check slot writes one of the words. -/
def State.slotOn (s : State) (k : Nat) (q : SeqId) (words : List Nat) : Bool :=
  s.pendingStore k q (fun _ a m => inSp a && spCell a == k && words.any (fun w => decide (spOff a < 64 * w + 64) && decide (64 * w < spOff a + m)))

/-- GO of a matrix template: waits of R74, R119 and R94, then the command with its locks, format entry and SRBASE captured. -/
def goMatrix (t : BitVec 4) (n g : Nat) (f : List Word) : M Unit := do
  let s ← get
  let k := s.here
  let q := s.quadAt (quadOf k)
  let e := (s.cur.fmtEntry f).getD 0
  let words := wordsOf (s.fetches k f e)
  if q.oos then raise tcArray (BitVec.ofNat 64 (quadOf k % 16))
  else if s.slotOn k .C words then stallNow
  else if !q.mayUse (k % 4) s.cur.leaseLimit then holdWith (fun s => s.waitLease k (fld f 14).toNat)
  else
    match s.heldOn k .C words with
    | some w => waitFor 0 w
    | none =>
      if q.arb || q.walking || 16 ≤ q.inFlight then waitFor 0 0
      else do
        let tokens := commandSignals t f .C
        reserveSignals tokens
        let c := s.cur
        slotItem (.command c.nextId)
        let bad := tOp f == 6 && s.badRead (spAddr k (tTable f)) (8 * tCount f)
        if bad then modify (fun s => s.logBad k (spAddr k (tTable f)) 3)
        let walk := if tOp f = 6 && !bad then
            sortBy (fun a b => decide (rRank a.2 < rRank b.2) || (rRank a.2 == rRank b.2 && decide (a.1 ≤ b.1))) ((s.rasterTable k f).zipIdx.map (fun x => (x.2, x.1)))
          else []
        let cmd : MCmd := { id := c.nextId, cell := k, tag := BitVec.ofNat 6 g, noTag := fNoTag f, f := f, fmt := e,
                            srseed := c.srseed, srbase := c.srbase, tokens := tokens, pc := s.curSeq.pc, issued := s.cycle,
                            locks := words, walk := walk, bad := bad }
        modify (fun s => s.modQuad (quadOf k) (fun q => { q with cmds := q.cmds ++ [cmd], count := satInc q.count }))
        modCur (fun c => { (if fNoTag f then c else c.clearTag g) with
          nextId := c.nextId + 1, srbase := c.srbase + BitVec.ofNat 24 (srSteps f e) * srStep })
        modSq (Seq.reload s.cur n)

/-! ### Copy commands (R342) -/

/-- A copy as it enters the cell. -/
def newCopy (s : State) (k : Nat) (q : SeqId) (g : Nat) (remq : Bool) (f : List Word) (tokens : List Nat) (pc : Word) (inSlot : Bool) : Copy :=
  let so := (fld f 3).toNat % 2 ^ 22
  let d := (fld f 4).toNat % 2 ^ 22
  { id := (s.cellAt k).nextId, seq := q, tag := BitVec.ofNat 6 g, remq := remq, f := f,
    srec := if cSshape f then s.recordAt k (if remq then none else some q) so else [], drec := if cDshape f then s.recordAt k (if remq then none else some q) d else [],
    tokens := tokens, pc := pc, issued := s.cycle, inSlot := inSlot, born := s.cycle, handler := (s.cellAt k).tin,
    verdict := if (cSshape f && s.recordBad k so) || (cDshape f && s.recordBad k d) then some 2 else none }

/-- A cell that a copy enters: its tag cleared (R335). -/
def Cell.addCopy (c : Cell) (x : Copy) : Cell :=
  { (if fNoTag x.f then c else c.clearTag x.tag.toNat) with nextId := c.nextId + 1, copies := c.copies ++ [x] }

/-- GO of a copy template (R341, R264). -/
def goCopy (t : BitVec 4) (n g : Nat) (f : List Word) : M Unit := do
  let s ← get
  let q := s.site.seq
  if 64 ≤ s.cur.copies.length then waitFor 8 0
  else do
    let tokens := commandSignals t f q
    reserveSignals tokens
    slotItem (.command s.cur.nextId)
    modCur (fun c => c.addCopy (newCopy s s.here q g false f tokens s.curSeq.pc true))
    modSq (Seq.reload s.cur n)

/-! ### Collective commands (R282, R187) -/

/-- The rim die of an engine (R187). -/
def rimOf (eng : Nat) : Nat := 16 + eng / 4

/-- The first field of a collective template that fails its checks. -/
def State.collFail (s : State) (f : List Word) : Option Nat :=
  firstFail ([
    (0, s.dieUp (rimOf (bits (fld f 0) 3 0))),
    (1, (fld f 1).toNat % 64 == 0)] ++
    [(12, bits (fld f 12) 63 14 == 0), (13, bits (fld f 13) 63 3 == 0)])

/-- How many entries an engine has armed or is about to arm. -/
def Engine.load (e : Engine) : Nat := e.armed.length + e.arming.length

/-- An engine. -/
def State.engineAt (s : State) (e : Nat) : Engine := NatMap.get {} s.engines e

/-- The state with an engine changed. -/
def State.modEngine (s : State) (e : Nat) (f : Engine → Engine) : State := { s with engines := NatMap.put {} s.engines e (f (s.engineAt e)) }

/-- Who posts: the sequencer whose turn it is, or a remote queue's cell. -/
def newPoster (s : State) (k : Nat) (q : SeqId) (pc : Word) (tag : Option Nat) (noTag : Bool) (tokens : List Nat) : Poster :=
  { cell := k, launch := (((s.cellAt k).bound.map (fun b => b.launch))).getD 0, group := (((s.cellAt k).bound.map (fun b => b.group))).getD 0,
    level := s.levelOf k, seq := q, pc := pc, tag := tag.map (BitVec.ofNat 6), noTag := noTag, tokens := tokens }

/-- A chain posted to an engine (R187), on its way there (R17). -/
def State.postChain (s : State) (eng : Nat) (addr : Word) (p : Poster) : State :=
  let (n, s1) := s.carry p.cell (rimOf eng) (carriedReq p.cell 0 (s.userOf p.cell) .none)
  s1.modEngine eng (fun e => { e with arming := e.arming ++ [{ addr := addr, poster := p, since := s.cycle, net := n }] })

/-! ### Work entries (R188) -/

def eOp (w : List Word) : Nat := bits (w.getD 0 0) 1 0
def eRed (w : List Word) : Nat := bits (w.getD 0 0) 7 4
def eRemote (w : List Word) : Bool := bit (w.getD 0 0) 8
def ePkg (w : List Word) : Nat := bits (w.getD 0 0) 27 9
def eSreg (w : List Word) : Nat := bits (w.getD 0 0) 39 28
def eInc (w : List Word) : Nat := max 1 (bits (w.getD 0 0) 55 40)
def eLaddr (w : List Word) : Word := w.getD 1 0
def eRaddr (w : List Word) : Word := w.getD 2 0
def eBytes (w : List Word) : Nat := bits (w.getD 3 0) 39 0
def eColl (w : List Word) : Nat := bits (w.getD 3 0) 63 40
def eSeq (w : List Word) : Nat := bits (w.getD 4 0) 31 0
def eSpan (w : List Word) : Nat := bits (w.getD 4 0) 63 32
def eWait (w : List Word) : Nat := bits (w.getD 5 0) 13 0
def eWaitEn (w : List Word) : Bool := bit (w.getD 5 0) 14
def eThresh (w : List Word) : Nat := bits (w.getD 5 0) 63 16
def eIncCtr (w : List Word) : Nat := bits (w.getD 6 0) 13 0
def eIncEn (w : List Word) : Bool := bit (w.getD 6 0) 14
def eIncRemote (w : List Word) : Bool := bit (w.getD 6 0) 15
def eNext (w : List Word) : Word := w.getD 7 0

/-- Whether an entry's destination lies on another package: REMOTE with the own package's number is not remote (DESIGN CHOICE, log entry 175). -/
def State.entryAway (s : State) (w : List Word) : Bool := eRemote w && ePkg w != s.pkgId.toNat

/-- The engine of a counter (R191). -/
def cidEng (cid : Nat) : Nat := cid / 1024

/-- Whether an address lies in the local window (R159). -/
def inLocal (va : Nat) : Bool := decide (localBase ≤ va) && decide (va < 2 ^ 52)

/-- The launch and group through whose local window an address of an entry goes (R187). -/
def Poster.window (p : Poster) (va : Word) : Option (Nat × Nat) := if inLocal va.toNat then some (p.launch, p.group) else none

/-- The cell that the posting group holds, if it is bound (R187). -/
def State.posterCell (s : State) (p : Poster) : Option Nat :=
  match s.launch? p.launch with
  | none => none
  | some l => (l.bound.find? (fun e => e.1 == p.group)).map (fun e => e.2)

/-- The agent that translates an address of an entry: the posting group's cell for its local window, else the engine's rim die. -/
def entryAgent (eng cell : Nat) (va : Word) : Nat := if inLocal va.toNat then cell else 64 * rimOf eng

/-- The 64 bytes of an entry as words. -/
def entryWords (bs : List Byte) : List Word := (List.range 8).map (fun i => BitVec.ofNat 64 (ofLe ((bs.drop (8 * i)).take 8)))

/-- The words of an entry as they stand in memory; none where they cannot be read. -/
def State.peekEntry (s : State) (die k : Nat) (va : Word) : Option (List Word) :=
  match s.translate k va false with
  | .error _ => none
  | .ok (pa, repl, s1) =>
    match s1.engineRead die pa repl 64 with
    | .ok bs => some (entryWords bs)
    | _ => none

/-- Whether an entry is malformed (R188, R189); level is its launch's. -/
def entryBad (level : Nat) (w : List Word) : Bool :=
  let op := eOp w
  let sz := redSize (eRed w)
  op == 3 || (op != 1 && eRed w != 0) || (op == 1 && decide (9 < eRed w)) ||
  bits (w.getD 0 0) 3 2 != 0 || bits (w.getD 0 0) 63 56 != 0 || bits (w.getD 1 0) 63 52 != 0 || bits (w.getD 2 0) 63 52 != 0 ||
  bit (w.getD 5 0) 15 || bits (w.getD 6 0) 55 16 != 0 || bits (w.getD 6 0) 63 60 != 0 ||
  bits (eNext w) 63 52 != 0 || (eNext w).toNat % 64 != 0 ||
  (op == 1 && (eBytes w % sz != 0 || (eLaddr w).toNat % sz != 0 || (eRaddr w).toNat % sz != 0 ||
    (eSpan w != 0 && (decide (eSpan w ≤ eSeq w) || decide (miB < eBytes w) || (inLocal (eRaddr w).toNat && decide (255 < eSreg w)))) ||
    (decide (level ≠ 0) && redFloat (eRed w) && eSpan w == 0)))

/-- The counter whose engine's trigger table is full while an entry has to be placed there (R190): not where the entry fires, or ends, as it is armed. -/
def State.tableFull (s : State) (w : List Word) : Option Nat :=
  let c := NatMap.get {} s.counters (eWait w)
  if eWaitEn w && s.dieUp (rimOf (cidEng (eWait w))) && !c.lost && decide (c.value.toNat < eThresh w) &&
      decide (4096 ≤ (s.engineAt (cidEng (eWait w))).armed.length) then some (eWait w) else none

/-- The counter on whose engine's full trigger table the arming of a chain's next entry has to wait (R190). -/
def State.armWaits (s : State) (eng : Nat) (a : Arming) : Option Nat :=
  match s.peekEntry (rimOf eng) (entryAgent eng ((s.posterCell a.poster).getD 0) a.addr) a.addr with
  | none => none
  | some w => if entryBad a.poster.level w then none else s.tableFull w

/-- Why a chain that a sequencer posts cannot start arming (R190): the chain at the head of its engine's arming, or the posted one, waits for a full
trigger table; the counter that it waits for. -/
def State.postWaits (s : State) (eng : Nat) (a : Arming) : Option Nat :=
  (((s.engineAt eng).arming.head?).bind (s.armWaits eng)).or (s.armWaits eng a)

/-- A chain that a sequencer posts, once its engine can start to arm it, stands in a check slot first (R107, R190). -/
def postFromSlot (eng : Nat) (addr : Word) (p : Poster) : M Unit := do
  let s ← get
  match s.postWaits eng { addr := addr, poster := p } with
  | some cid => waitFor 6 cid
  | none => do
    slotItem (.command p.id)
    modCur (fun c => { c with nextId := p.id + 1, chains := c.chains ++ [(eng, { addr := addr, poster := p })] })

/-- GO of a collective template: posts the chain as `qppost` does (R282). -/
def goCollective (t : BitVec 4) (n g : Nat) (f : List Word) : M Unit := do
  let s ← get
  let q := s.site.seq
  let eng := bits (fld f 0) 3 0
  if !s.storesDone s.here q then stallNow
  else do
    let tokens := commandSignals t f q
    reserveSignals tokens
    postFromSlot eng (fld f 1 &&& 0xFFFFFFFFFFFFF)
      { newPoster s s.here q s.curSeq.pc (some g) (fNoTag f) tokens with id := s.cur.nextId, bound := fld f 14, issued := s.cycle }
    modCur (fun c => if fNoTag f then c else c.clearTag g)
    modSq (Seq.reload s.cur n)

/-! ### The instructions -/

/-- The decode checks of a GO (R277): the template, the engine that the sequencer may drive (R276), the fields. -/
def checkGo (n : Nat) : M Unit := do
  checkTemplate n
  let s ← get
  let q := s.site.seq
  let f := s.curSeq.staged n
  let fail := match (s.cur.engineWord n).toNat with
    | 1 => if q ≠ .C then some 15 else s.matrixFail s.here f
    | 2 => if q = .C then some 15 else s.copyCheck s.here (some q) f
    | _ => if q = .L || q = .C then some 15 else s.collFail f
  match fail with
  | some i => templateFault n i
  | none => pure ()

/-- GO (R277). -/
def execGo (t : BitVec 4) (n g : BitVec 6) : State → Out :=
  issue { t := t, signal := false, checks := checkGo n.toNat } (do
    let s ← get
    let f := s.curSeq.staged n.toNat
    match (s.cur.engineWord n.toNat).toNat with
    | 1 => goMatrix t n.toNat g.toNat f
    | 2 => goCopy t n.toNat g.toNat f
    | _ => goCollective t n.toNat g.toNat f
    pure .seq)

/-- A patch word with F = 0 to 14 (R277); F = 15 is GO, which has its own constructor, and no other word decodes to it here. -/
def execPatch (t : BitVec 4) (n : BitVec 6) (f : BitVec 4) (v : BitVec 16) : State → Out :=
  issue { t := t, checks := if f = 15 then raise tcIllegalOp 0 else checkTemplate n.toNat } (do
    modSq (fun x => x.setStaged n.toNat f.toNat (sx v.toNat 16))
    pure .seq)

/-- `patchr` (R278). -/
def execPatchr (t : BitVec 4) (a : BitVec 5) (n : BitVec 6) (f : BitVec 4) : State → Out :=
  issue { t := t, checks := do
      (if f = 15 then raise tcIllegalOp 0 else checkSrc a)
      checkTemplate n.toNat } (do
    let v ← readReg a
    modSq (fun x => x.setStaged n.toNat f.toNat v)
    pure .seq)

end Sys2Proof.Machine
end

