-- ==== Sys2Proof/Machine/Writes.lean ====
section
/-! DEFINITION. One-sided writes and reducing writes as they reach their homes (R122, R123, R197 to R201). -/

namespace Sys2Proof.Machine

/-- An entry added to the commit buffer of the cell that pa lies in; none when those open to it are full (R123). -/
def State.holdWord (s : State) (pa : Nat) (bs : List Byte) (h : Held) : Option State :=
  let k := spCell pa
  let c := s.cellAt k
  match c.freeEntry with
  | none => none
  | some e => some (s.setCell k { c with cbuf := NatMap.ins c.cbuf e { h with
      word := spOff pa / 64, mask := wordMask (pa % 64) bs.length, data := wordData (pa % 64) bs, order := c.nextOrder } })

/-- A write as the commit buffer holds it: an element that a unit stores, or a one-sided write (R122). -/
def InWrite.held (w : InWrite) : Held :=
  match w.unit? with
  | some (q, k, pc, va) => { lock := true, owner := w.owner, seq := some q, cell := k, pc := pc, va := va }
  | none => { kind := 2, lock := true, owner := w.owner }

/-- A write of at most one word performed and, if it is one-sided, counted; or held; none while it finds no entry. -/
def State.oneSided (s : State) (w : InWrite) : Option State :=
  if s.wordHeld w.pa then s.holdWord w.pa w.bytes w.held
  else
    let (s1, bad) := if w.unit?.isNone && w.owner.counted then s.performCounted w.pa w.bytes else (s.poke w.pa w.bytes, s.badWrite w.pa w.bytes.length)
    some (if bad then s1.heldFails (if inSp w.pa then spCell w.pa else homeDie w.pa * 64) w.held w.pa else s1)

/-- A write to a replicated page, at every replica (R184, R425). -/
def State.writeAll (s : State) (w : InWrite) : State :=
  let pa := w.pa % replFlag
  let s1 := s.applyReplicas pa w.bytes
  if s.badWrite pa w.bytes.length then s1.heldFails (homeDie pa * 64) w.held pa else s1

/-- Whether an earlier element of the same access is on its way to the same word: the elements of one access are stored in order (R376). -/
def State.elementAhead (s : State) (w : InWrite) : Bool :=
  w.unit?.isSome && (s.inWrites.take s.site.n).any (fun o => o.owner == w.owner && o.unit?.isSome && o.pa / 64 == w.pa / 64)

/-- ONE_SIDED_WRITE (R198, R122, R184): a write that has reached its home. -/
def execOneSidedWrite (s : State) : Out :=
  match s.inWrites[s.site.n]? with
  | none => .next s
  | some w =>
    let s0 := { s with inWrites := s.inWrites.eraseIdx s.site.n }
    if w.net ≠ 0 || w.stage || s.elementAhead w then .next s
    else if replFlag ≤ w.pa then .next (s0.writeAll w).settleChunks
    else
      match s0.oneSided w with
      | none => .next s
      | some s1 => .next s1.settleChunks

/-! ### Reducing writes (R200, R201) -/

/-- The pieces of a reducing write, each in one 64-byte word. -/
def RedWrite.pieces (w : RedWrite) : List (Nat × List Byte) := w.parts.flatMap (fun p => splitWords (p.2.length + 1) p.1 p.2)

/-- A reducing write to a replicated page: combined with the primary, and the result is an update of every replica (R184, R200). -/
def State.reduceReplicas (s : State) (red pa : Nat) (bs : List Byte) : State × Bool :=
  let (s1, bad) := State.combine red bs.length s pa bs
  (s1.applyReplicas pa (s1.bytesAt pa bs.length), bad)

/-- A reducing write applied, its pieces on locked words held for their release; none while it finds no entry. -/
def State.applyRed (s : State) (w : RedWrite) : Option State :=
  w.pieces.foldl (fun acc (pa, bs) =>
    match acc with
    | none => none
    | some s =>
      let told (r : State × Bool) : State := if r.2 then (r.1.logBad (if inSp pa then spCell pa else homeDie pa * 64) (pa % replFlag) w.owner.kind).reportBad w.owner else r.1
      if replFlag ≤ pa then some (told (s.reduceReplicas w.red (pa % replFlag) bs))
      else if s.wordHeld pa then s.holdWord pa bs { kind := 3, lock := true, red := w.red, owner := w.owner }
      else some (told (State.applyReduce w.red s pa bs))) (some s)

/-- The entries that a held sequenced write takes leave the commit buffer. -/
def State.unholdRed (s : State) (w : RedWrite) : State :=
  if inSp w.pa then s.modCell (spCell w.pa) (fun c => { c with cbuf := c.cbuf.filter (fun e => !(e.2.kind == 3 && !e.2.lock && e.2.cmd == w.id)) })
  else s

/-- A sequenced write held until its turn: in the commit buffer of its cell, or in the home's hold buffer of 256. -/
def State.holdRed (s : State) (w : RedWrite) : Option State :=
  if inSp w.pa then
    (w.pieces.foldl (fun acc (pa, bs) =>
      match acc with
      | none => none
      | some s => s.holdWord pa bs { kind := 3, red := w.red, cmd := w.id }) (some s)).map (fun s => { s with redHeld := s.redHeld ++ [w] })
  else if 256 ≤ s.redHeld.countP (fun o => !inSp o.pa && homeDie o.pa == homeDie w.pa) then none
  else some { s with redHeld := s.redHeld ++ [w] }

/-- What a write that waited for its turn does to the declared end of the entry or copy that made it (R238). -/
def State.turnTaken (s : State) (w : RedWrite) : State :=
  let n := s.cycle - w.since.getD s.cycle
  match w.owner with
  | .entry e id => s.modEngine e (fun g => { g with fired := g.fired.map (fun (x : Entry) => if x.id = id then { x with due := x.due + n } else x) })
  | .copy k id => s.modCell k (fun c => { c with copies := c.copies.map (fun (x : Copy) => if x.id = id then { x with due := x.due + n } else x) })
  | _ => s

/-- Held writes applied while the next of their region is there. -/
def State.applyTurns (w : RedWrite) : Nat → State → State
  | 0, s => s
  | n + 1, s =>
    let next := s.seqNextOf w.pa w.sreg
    match s.redHeld.find? (fun o => sameRegion o w && o.sq == next) with
    | none => s
    | some o =>
      let s1 := { s.unholdRed o with redHeld := s.redHeld.filter (fun x => x.id != o.id) }
      match s1.applyRed o with
      | none => s
      | some s2 => State.applyTurns w n ((s2.turnTaken o).setSeqNext w.pa w.sreg ((next + 1) % o.span))

/-- REDUCING_WRITE_ARRIVAL (R201). -/
def execReducingWriteArrival (s : State) : Out :=
  match s.redWrites[s.site.n]? with
  | none => .next s
  | some w =>
    let s0 := { s with redWrites := s.redWrites.eraseIdx s.site.n }
    if w.net ≠ 0 then .next s
    else if w.span = 0 then (match s0.applyRed w with | none => .next s | some s1 => .next s1.settleChunks)
    else if w.span ≤ w.sq || (inSp w.pa && 255 < w.sreg) then .next (s0.report w.owner 1).settleChunks
    else if w.sq = s0.seqNextOf w.pa w.sreg then
      (match s0.applyRed w with
       | none => .next s
       | some s1 => .next (State.applyTurns w (s1.redHeld.length + 1) ((s1.turnTaken w).setSeqNext w.pa w.sreg ((w.sq + 1) % w.span))).settleChunks)
    else
      let w1 := { w with since := w.since.or (some s.cycle) }
      (match s0.holdRed w1 with
       | none => .next { s with redWrites := setAt s.redWrites s.site.n w1 }
       | some s1 => .next s1)

end Sys2Proof.Machine
end

