-- ==== Sys2Proof/Machine/Copies.lean ====
section
/-! DEFINITION. Copy commands as their engines work (R342 to R346, R131, R243, R247): the stream is read, its writes are put on
their way, and the copy completes once every byte is performed. -/

namespace Sys2Proof.Machine

/-! ### Moving bytes -/

/-- What a read stretch of a stream gives: position, destination (physical, 2^48 added on a replicated page; virtual for another
package), bytes as read. -/
abbrev Moves := List (Nat × Nat × List Byte)

/-- Where the bytes of a copy go: nowhere, into this package, to another package. -/
inductive Target where
  | nowhere | here | remote
deriving DecidableEq, Repr

/-- Byte i of a stream filled with a pattern (R343). -/
def fillByte (pat : Word) (m i : Nat) : Byte := BitVec.ofNat 8 (pat.toNat / 2 ^ (8 * (i % m)))

/-- What reads a stream: the agent that translates each address, the die it works on, whose stores it must not overtake, its owner, and the launch. -/
structure Reader where
  kOf   : Word → Nat
  die   : Nat
  seq   : SeqId
  owner : Owner
  user  : Option Nat

/-- Where the source of a piece lies; none while a store that the issuing sequencer had made is still on its way to it (R177). -/
def State.sourceOf (s : State) (r : Reader) (perm : Nat) (p : Piece) : Option (Except (BitVec 3) (Nat × Bool × State)) :=
  match s.translate (r.kOf p.src) p.src false with
  | .error x => some (.error x.status)
  | .ok (pa, repl, s1) => if !s1.forkClear (r.kOf p.src) r.seq pa p.n then none else some (.ok ((if repl then pa else permutePa perm pa), repl, s1))

/-- The pieces of a stretch that lie on other dies asked for, up to the first that fails (R10, R17). -/
def State.askPieces (r : Reader) (perm : Nat) : List Piece → State → State
  | [], s => s
  | p :: ps, s =>
    if s.asked r.owner p.pos then State.askPieces r perm ps s
    else
      match s.sourceOf r perm p with
      | none => State.askPieces r perm ps s
      | some (.error _) => s
      | some (.ok (pa, repl, s1)) =>
        let s2 := s1.sendAsk (64 * r.die) r.user r.owner p.pos pa repl p.n none
        State.askPieces r perm ps (if s2.asks.length = s1.asks.length then s else s2)

/-- The source bytes of a piece: the answer from its home, or read on the reader's own die; the status that ends the stream there; none while it has to
wait. -/
def State.fetchPiece (s : State) (r : Reader) (perm : Nat) (p : Piece) : Option (State × Except (BitVec 3) (List Byte)) :=
  match s.asks.find? (fun a => a.owner == r.owner && a.idx == p.pos) with
  | some a =>
    if !a.back then none
    else some (match a.ans with
      | some (.ok bs) => (s, .ok bs)
      | some .bad => (s.logBad (r.kOf p.src) a.pa r.owner.kind, .error 2)
      | _ => (s, .error 3))
  | none =>
    match s.sourceOf r perm p with
    | none => none
    | some (.error st) => some (s.noteWalk (r.kOf p.src) p.src, .error st)
    | some (.ok (pa, repl, s1)) =>
      match s1.readFor r.die r.owner p.pos pa repl p.n with
      | none => none
      | some (.ok bs) => some (s1, .ok bs)
      | some .bad => some (s1.logBad (r.kOf p.src) pa r.owner.kind, .error 2)
      | some .lost => some (s1, .error 3)

/-- The destination of a piece, checked in the same way. -/
def State.placePiece (s : State) (k : Nat) (q : SeqId) (perm : Nat) (va : Word) (n : Nat) : Option (State × Except (BitVec 3) Nat) :=
  match s.translate k va true with
  | .error x => some (s.noteWalk k va, .error x.status)
  | .ok (pa, repl, s1) =>
    if !s1.forkClear k q pa n then none
    else some (s1, .ok (if repl then pa + replFlag else permutePa perm pa))

/-- A stretch of a stream read piece by piece up to its first failing element (R346): none while it has to wait. -/
def State.movePieces (r : Reader) (sp dp : Nat) (fill : Option (Word × Nat)) (t : Target) :
    List Piece → State → Moves → Option (State × Moves × BitVec 3)
  | [], s, acc => some (s, acc, 0)
  | p :: ps, s, acc =>
    let src : Option (State × Except (BitVec 3) (List Byte)) :=
      match fill with
      | some (pat, m) => some (s, .ok ((List.range p.n).map (fun i => fillByte pat m (p.pos + i))))
      | none => s.fetchPiece r sp p
    match src with
    | none => none
    | some (s1, .error st) => some (s1, acc, st)
    | some (s1, .ok bs) =>
      match t with
      | .nowhere => State.movePieces r sp dp fill t ps s1 (acc ++ [(p.pos, 0, bs)])
      | .remote => State.movePieces r sp dp fill t ps s1 (acc ++ [(p.pos, p.dst.toNat, bs)])
      | .here =>
        match s1.placePiece (r.kOf p.dst) r.seq dp p.dst p.n with
        | none => none
        | some (s2, .error st) => some (s2, acc, st)
        | some (s2, .ok pa) => State.movePieces r sp dp fill t ps s2 (acc ++ [(p.pos, pa, bs)])

/-- What an attempt to read a stretch comes to. -/
inductive Fetch where
  /-- reads have been sent to other dies -/
  | sent (s : State)
  | wait
  | got (s : State) (m : Moves) (st : BitVec 3)

/-- A stretch read: its pieces on other dies are asked for first; once every answer is back the stream is taken up to its first failing element (R17, R346). -/
def State.fetch (s : State) (r : Reader) (sp dp : Nat) (fill : Option (Word × Nat)) (t : Target) (ps : List Piece) : Fetch :=
  let s0 := if fill.isSome then s else State.askPieces r sp ps s
  if s0.asks.length ≠ s.asks.length then .sent s0
  else
    match State.movePieces r sp dp fill t ps s [] with
    | none => .wait
    | some (s1, m, st) => .got (s1.dropAsks r.owner) m st

/-- The number of what a free value depends on: the words of an operation and where it stands, so that equal runs agree (R228). -/
def keyOf (l : List Word) (n : Nat) : Nat := l.foldl (fun a w => a * 2 ^ 64 + w.toNat) n

/-- The bytes of a stretch that an interrupted transfer has written: which of those before the failing element is left open, a free value of the
operation, the same for equal operands and addresses (R132, R346, R228; log entries 5 and 180). -/
def keepPart (n : Nat) (st : BitVec 3) (m : Moves) : Moves := if st = 0 then m else m.filter (fun x => Config.partWritten n x.1)

/-- The grain of a stretch: whole words, or ECC words where some word of memory is uncorrectable. -/
def cutPieces (bad : Bool) (l : List Piece) : List Piece :=
  if !bad then l
  else l.flatMap (fun p =>
    (List.range ((p.n + 7) / 8)).map (fun i => ⟨p.pos + 8 * i, p.src + BitVec.ofNat 64 (8 * i), p.dst + BitVec.ofNat 64 (8 * i), min 8 (p.n - 8 * i)⟩))

/-! ### Transfers to other packages (R204) -/

/-- Whether a scale-out port is in service: its training has passed, and so is the rim die that it belongs to (R23). -/
def State.portUp (s : State) (p : Nat) : Bool := decide ((NatMap.get {} s.ports p).stage = .active) && s.dieUp (16 + p / 8)

/-- The scale-out port towards a package (R204). -/
def State.portFor (s : State) (pkg : Nat) : Option Nat := ((List.range 32).map (fun i => (pkg % 32 + i) % 32)).find? s.portUp

/-- A chunk put on the fabric, numbered within its pair of packages. -/
def State.sendChunk (s : State) (pkg port : Nat) (va : Nat) (bs : List Byte) (kind : ChunkKind) (o : Owner) : State :=
  let n := NatMap.get 0 s.chunkOut pkg
  { s with chunkOut := NatMap.put 0 s.chunkOut pkg (n + 1),
           transfers := s.transfers ++ [{ pkg := BitVec.ofNat 19 pkg, num := n, port := port, va := BitVec.ofNat 64 va, bytes := bs, kind := kind,
                                          sends := 1, sent := s.cycle, owner := o }] }

/-- Bytes sent to another package; none when no port is in service (R204). -/
def State.sendRemote (s : State) (pkg : Nat) (runs : List (Nat × List Byte)) (kind : ChunkKind) (o : Owner) : Option State :=
  (s.portFor pkg).map (fun p => ((joinRuns runs).flatMap (fun r => cutRun r.2.length r.1 r.2)).foldl (fun s (va, bs) => s.sendChunk pkg p va bs kind o) s)

/-! ### Copies -/

/-- The copy of a cell with a number. -/
def Cell.copy? (c : Cell) (id : Nat) : Option Copy := c.copies.find? (fun x => x.id == id)

/-- The state with a copy changed. -/
def State.modCopy (s : State) (k id : Nat) (f : Copy → Copy) : State :=
  s.modCell k (fun c => { c with copies := c.copies.map (fun (x : Copy) => if x.id = id then f x else x) })

/-- Where a copy's bytes go: `cpyremote` to the own package acts as `cpy` (R343). -/
def State.targetOf (s : State) (f : List Word) : Target :=
  if cOp f = 2 then .nowhere else if cOp f = 4 && cPkg f ≠ s.pkgId.toNat then .remote else .here

/-- The pattern of a `cpyfill`, repeated every 8 bytes or in every element. -/
def Copy.fill (c : Copy) : Option (Word × Nat) :=
  if cOp c.f = 3 then some (fld c.f 1, match c.dstSide with | .walk r _ => 2 ^ r.esize | _ => 8) else none

/-- Mesh hops between two dies (R14, R238). -/
def State.hops (s : State) (a b : Nat) : Nat := (route ((s.routeOf a b).getD false) a b).length - 1

/-- The home die of a virtual address as a cell sees it, of what it reads the replica of a die (R183), the given die where it has none. -/
def State.homeOf (s : State) (k : Nat) (va : Word) (dflt : Nat) (reads : Option Nat := none) : Nat :=
  match s.translate k va false with
  | .ok (pa, repl, s1) => homeDie (match reads with | some d => if repl then s1.replica d pa else pa | none => pa)
  | .error _ => dflt

/-- The cycles that R238 declares for a copy's remaining bytes. -/
def State.copyTime (s : State) (k : Nat) (c : Copy) : Nat :=
  let die := k / 64
  let y := c.total - c.done
  let src := if cOp c.f = 3 then die else s.homeOf k (c.srcSide.at' c.done).1 die (some die)
  let dst := if cOp c.f = 2 then die else s.homeOf k (c.dstSide.at' c.done).1 die
  400 + 128 * s.hops src dst + (y + 127) / 128 + (if cReq c.f then 16 else 0) + (if cOp c.f = 5 then 64 + (y + 63) / 64 else 0) +
    32 * ((c.total - 1) / miB - c.done / miB)

/-- The writes of a stretch put on their way in the copy's name. -/
def State.dispatchCopy (s : State) (k : Nat) (c : Copy) (m : Moves) : State :=
  let o := Owner.copy k c.id
  if cOp c.f = 1 then
    (if m.isEmpty then s
     else s.sendReduce k (s.userOf k) { id := 0, parts := m.map (fun x => (x.2.1, x.2.2)), red := cRed c.f, sreg := cSreg c.f,
                                         sq := cSeq c.f, span := cSpan c.f, owner := o })
  else
    match s.targetOf c.f with
    | .nowhere => s
    | .here => s.sendWrites k (s.userOf k) o (m.map (fun x => (x.2.1, x.2.2)))
    | .remote => (s.sendRemote (cPkg c.f) (m.map (fun x => (x.2.1, x.2.2))) (if c.dstSide.perm = 0 then .write else .permuted c.dstSide.perm) o).getD ({ s with unreached := s.unreached ++ [cPkg c.f] }.report o 3)

/-- What reads the stream of a copy. -/
def State.copyReader (s : State) (k : Nat) (c : Copy) : Reader :=
  { kOf := fun _ => k, die := k / 64, seq := c.seq, owner := .copy k c.id, user := s.userOf k }

/-- A copy moves its stream from where it stands up to an end: `after` follows once it has; none while it has to wait. A sequenced reducing copy that meets a
failing element sends nothing. -/
def State.moveCopy (s : State) (k : Nat) (c : Copy) (stop : Nat) (after : State → State) : Option State :=
  let t := s.targetOf c.f
  let ps := cutPieces (!s.badWords.isEmpty) (piecesOf c.srcSide c.dstSide (stop - c.done + 1) c.done stop)
  if t = .remote && ps.any (fun p => inLocal p.dst.toNat) then some (after (s.report (.copy k c.id) 1))
  else
    match s.fetch (s.copyReader k c) c.srcSide.perm c.dstSide.perm c.fill t ps with
    | .wait => none
    | .sent s1 => some s1
    | .got s1 m st =>
      let kept := if st ≠ 0 && cOp c.f = 1 && cSpan c.f ≠ 0 then [] else keepPart (keyOf c.f (k * 2 ^ 40 + c.done)) st m
      let s2 := s1.dispatchCopy k c kept
      let s3 := s2.modCopy k c.id (fun x => { x with crc := crc64 x.crc (m.flatMap (fun y => y.2.2)) })
      some (after (if st = 0 then s3 else s3.report (.copy k c.id) st))

/-- Whether a copy of a cell is to stop at its next boundary (R247): the sequencers have stopped for a trap or a pre-emption, or a handler runs that
has not itself issued it. -/
def Cell.copyStops (c : Cell) (x : Copy) : Bool :=
  match c.stop with
  | some (.trap _ _) => true
  | some .preempt => true
  | some _ => false
  | none => c.tin && !x.handler

/-- The end of a copy (R335, R346, R243): tag, tokens, counter. -/
def State.finishCopy (s : State) (k : Nat) (c : Copy) (st : BitVec 3) : State :=
  let s1 := (if st = 0 && s.targetOf c.f != .remote then s.noteLate k c.due 13 else s).modCell k (fun x =>
    let y := { x with copies := x.copies.filter (fun o => o.id != c.id), remBusy := if x.remBusy = some c.id then none else x.remBusy }
    giveTokens s.cycle c.seq c.tokens (if fNoTag c.f || x.stop = some .machineCheck then y else y.setTag c.tag.toNat st))
  if fCtrEn c.f && (s.cellAt k).stop ≠ some .machineCheck then s1.sendInc k (s.userOf k) (fCid c.f) 1 (foldWord 2 s.pkgId.toNat (k / 64) (k % 64) 0) else s1

/-- The checksum on its way to the address of f7 (R243); status 1 where it cannot be written. -/
def State.sendSum (s : State) (k : Nat) (c : Copy) : Option State :=
  let s0 := s.modCopy k c.id (fun x => { x with summed := true })
  match s0.placePiece k c.seq 0 (cCsaddr c.f) 8 with
  | none => none
  | some (s1, .error st) => some (s1.report (.copy k c.id) (if st = 2 then 1 else st))
  | some (s1, .ok pa) => some (s1.sendWrites k (s.userOf k) (.copy k c.id) [(pa, leBytes 8 c.crc.toNat)])

/-- COPY_COMPLETE (R346): the engine reads the rest of the stream, that of a cancelled copy up to its next 1 MiB boundary (R427); when every byte is performed the checksum is written, then the copy
completes. Site: yes and word: the destination package has acknowledged every chunk, with this status (R204). -/
def execCopyComplete (s : State) : Out :=
  let k := s.here
  match (s.cellAt k).copy? s.site.n with
  | none => .next s
  | some c =>
    let o := Owner.copy k c.id
    let remote := s.transfers.any (fun t => t.owner == o)
    if c.inSlot then .next s
    else if !c.sent then
      if c.verdict.isSome && !c.staged then .next (s.modCopy k c.id (fun x => { x with sent := true, due := s.cycle }))
      else if c.cancelled && (c.stopped || (cOp c.f = 5 && c.done + miB < c.total)) then
        .next (s.modCopy k c.id (fun x => { x with sent := true, due := s.cycle, verdict := some 7 }))
      else if c.stopped || (!c.cancelled && (s.cellAt k).copyStops c && c.done + miB < c.total) then .next s
      else if c.total = 0 then
        let v : Option (BitVec 3) := if cOp c.f = 5 && fld c.f 9 ≠ crcInit then some 4 else none
        .next (s.modCopy k c.id (fun x => { x with sent := true, due := c.issued + s.copyTime k c, verdict := v }))
      else if cOp c.f = 5 then .next s
      else
        let stop := if c.cancelled then min (c.done + miB) c.total else c.total
        .next ((s.moveCopy k c stop (fun s1 => s1.modCopy k c.id (fun x =>
            { x with sent := true, due := c.issued + s.copyTime k c, verdict := if stop < c.total then x.verdict.or (some 7) else x.verdict }))).getD s)
    else if s.outstanding o then .next s
    else if remote then
      if !s.site.yes then .next s
      else
        let s1 := { s with transfers := s.transfers.filter (fun t => t.owner != o) }
        .next (if s.site.word.toNat % 8 = 0 then s1 else s1.report o (BitVec.ofNat 3 s.site.word.toNat))
    else if cReq c.f && !c.summed && c.verdict.isNone then (match s.sendSum k c with | none => .next s | some s1 => .next s1)
    else if s.targetOf c.f != .remote && s.notYet k c.due then .next s
    else .next (s.finishCopy k c (c.verdict.getD 0))

/-- COPY_BOUNDARY_STOP (R247): the bytes up to the next boundary are moved and the copy stops there. -/
def execCopyBoundaryStop (s : State) : Out :=
  let k := s.here
  match (s.cellAt k).copy? s.site.n with
  | none => .next s
  | some c =>
    if c.inSlot || c.sent || c.stopped || c.verdict.isSome || c.cancelled || !(s.cellAt k).copyStops c || c.total ≤ c.done + miB then .next s
    else
      .next ((s.moveCopy k c (c.done + miB) (fun s1 => s1.modCopy k c.id (fun x => { x with done := c.done + miB, stopped := true }))).getD s)

/-- The bytes of a `cpysig` on their way to be staged at their homes (R131). -/
def State.stageCopy (s : State) (k : Nat) (c : Copy) (m : Moves) : State :=
  let s1 := s.dispatchCopy k c m
  ({ s1 with inWrites := s1.inWrites.map (fun (w : InWrite) => if w.owner = Owner.copy k c.id then { w with stage := true } else w) } : State).modCopy k c.id
    (fun (x : Copy) => { x with staged := true, crc := crc64 crcInit (m.flatMap (fun y => y.2.2)) })

/-- What a `cpysig` has staged is written, or goes with nothing written (R131). -/
def State.endStage (s : State) (k : Nat) (c : Copy) (write : Bool) : State :=
  let o := Owner.copy k c.id
  { s with inWrites := if write then s.inWrites.map (fun (w : InWrite) => if w.owner = o then { w with stage := false } else w) else s.inWrites.filter (fun w => w.owner != o) }

/-- CPYSIG_DESTINATION_CHECK (R131): the bytes are read and sent; once every one is staged and acknowledged the destination's engine compares their crc64 and
writes all or nothing; where one is lost it writes nothing. -/
def execCpysigDestinationCheck (s : State) : Out :=
  let k := s.here
  match (s.cellAt k).copy? s.site.n with
  | none => .next s
  | some c =>
    let o := Owner.copy k c.id
    let done (s : State) : State := s.modCopy k c.id (fun x => { x with sent := true, due := c.issued + s.copyTime k c })
    if c.inSlot || c.sent || c.stopped || cOp c.f ≠ 5 || c.total = 0 || (c.cancelled && c.done + miB < c.total) then .next s
    else if c.verdict.isSome then .next (done (s.endStage k c false))
    else if c.staged then
      if s.pairs.any (fun p => p.2.unacked.any (fun r => r.owner == o) || p.2.backlog.any (fun r => r.owner == o)) then .next s
      else if c.crc = fld c.f 9 then .next (done (s.endStage k c true))
      else .next ((done (s.endStage k c false)).report o 4)
    else
      let ps := cutPieces (!s.badWords.isEmpty) (piecesOf c.srcSide c.dstSide (c.total + 1) 0 c.total)
      match s.fetch (s.copyReader k c) 0 0 none .here ps with
      | .wait => .next s
      | .sent s1 => .next s1
      | .got s1 m st => if st ≠ 0 then .next ((done s1).report o st) else .next (s1.stageCopy k c m)

end Sys2Proof.Machine
end

