-- ==== Sys2Proof/Machine/MatCalc.lean ====
section
/-! DEFINITION. What a matrix command computes (R390 to R396): the decoded operands, the exact sums rounded once (R112 to R115),
the conversion of a drain (R145, R146, R148), and the declared times of R236 and R237. -/

namespace Sys2Proof.Machine

/-! ### Operands (R390, R393 to R395) -/

/-- The codes of n packed elements (R138). -/
def codesOf (t n : Nat) (bs : List Byte) : List Nat :=
  let x := ofLe bs
  (List.range n).map (fun i => x / 2 ^ (mfBits t * i) % 2 ^ mfBits t)

/-- The values of n elements with their headers, one for each g elements. -/
def valuesOf (t g n : Nat) (bs hs : List Byte) : List Val :=
  (codesOf t n bs).zipIdx.map (fun (c, i) => mfVal t (ofLe ((hs.drop (i / g * mfHead t)).take (mfHead t))) c)

/-- n elements of an operand in a cell's scratchpad. -/
def State.operandVals (s : State) (k t g e x n : Nat) : List Val :=
  valuesOf t g n (s.bytesAt (spAddr k e) ((n * mfBits t + 7) / 8)) (s.bytesAt (spAddr k x) ((n + g - 1) / g * mfHead t))

/-- The pairs of positions that 2:4 sparsity keeps (R393). -/
def keptPairs : List (Nat × Nat) := [(0, 1), (0, 2), (0, 3), (1, 2), (1, 3), (2, 3)]

/-- The stored elements of one group of four spread over it (R393). -/
def spreadGroup (spat : Nat) (h : Nat) (st : List Val) : List (Option Val) :=
  if spat = 0 then
    let (p, q) := keptPairs.getD (h % 6) (0, 1)
    (List.range 4).map (fun i => if i = p then st[0]? else if i = q then st[1]? else none)
  else (List.range 4).map (fun i => if i = h % 4 then st[0]? else none)

/-- Row i of A, a structural zero being none. -/
def State.rowA (s : State) (k : Nat) (f : List Word) (e : Word) (i : Nat) : List (Option Val) :=
  let t := fmtA e
  let g := fmtGrain e
  match tOp f with
  | 2 =>
    let p := s.bsrPtr k f
    let lo := p.getD (i / 32) 0
    let n := p.getD (i / 32 + 1) 0 - lo
    let ix := ((s.bsrIdx k f (p.getLastD 0)).drop lo).take n
    (List.range (tK f / 32)).flatMap (fun kb =>
      match ix.findIdx? (· == kb) with
      | some b =>
        let r := 32 * (lo + b) + i % 32
        (s.operandVals k t 32 (tEaddr f 1 + r * (32 * mfBits t / 8)) (tXaddr f 1 + r * mfHead t) 32).map some
      | none => List.replicate 32 none)
  | 3 =>
    let st := s.operandVals k t g (tEaddr f 1 + i * tEstride f 5) (tXaddr f 1 + i * tXstride f 5) (storedK f)
    let per := if tSpat f = 0 then 2 else 1
    (List.range (tK f / 4)).flatMap (fun j =>
      spreadGroup (tSpat f) (jmix64 (fld f 8) (BitVec.ofNat 64 (i * 2 ^ 32 + j))).toNat (st.drop (per * j)))
  | _ => (s.operandVals k t g (tEaddr f 1 + i * tEstride f 5) (tXaddr f 1 + i * tXstride f 5) (tK f)).map some

/-- H[i][j] of the constant store (R148). -/
def hadamard (i j : Nat) : Val := .num (((List.range 7).countP (fun b => i.testBit b && j.testBit b)) % 2 == 1) 1 0

/-- Column j of B. -/
def State.colB (s : State) (k : Nat) (f : List Word) (e : Word) (j : Nat) : List Val :=
  if tOp f = 4 then (List.range 128).map (fun i => (hadamard i j).scale (if tInv f then -7 else 0))
  else s.operandVals k (fmtB e) (fmtGrain e) (tEaddr f 2 + j * tEstride f 6) (tXaddr f 2 + j * tXstride f 6) (tK f)

/-! ### The region of a tile (R392) -/

/-- The physical row of row i of a region. -/
def regionRow (f : List Word) (i : Nat) : Nat := 128 * tTile f + tRow0 f + i

/-- The accumulator codes of row i of a region. -/
def Cell.regionCodes (c : Cell) (f : List Word) (e : Word) (i : Nat) : List Nat :=
  let r := (NatMap.get 0 c.rows (regionRow f i)).toNat
  let w := 8 * accBytes e
  (List.range (tN f)).map (fun j => r / 2 ^ (w * (tCol0 f + j)) % 2 ^ w)

/-- The first uncorrectable ECC word of the region that is read, or written in part (R132, R425). -/
def Cell.regionBad (c : Cell) (f : List Word) (e : Word) (reads : Bool) : Option Nat :=
  let lo := tCol0 f * accBytes e
  let hi := lo + tN f * accBytes e
  c.badRows.find? (fun w =>
    decide (regionRow f 0 ≤ w / 64) && decide (w / 64 < regionRow f (tM f)) &&
    decide (8 * (w % 64) < hi) && decide (lo < 8 * (w % 64) + 8) &&
    (reads || !(decide (lo ≤ 8 * (w % 64)) && decide (8 * (w % 64) + 8 ≤ hi))))

/-- Operations that read c, and those that write the tile. -/
def readsC (op : Nat) : Bool := op == 0 || op == 2 || op == 3
def writesTile (op : Nat) : Bool := op != 5 && op != 6

/-! ### Results (R112 to R117) -/

/-- A sum rounded into the accumulator format (R112, R113); an infinity is the element as it is (R114); an INT32 result whose exact sum is no integer, as an
inverse `mhad` can have (R148), the manual does not state (log entry 139). -/
def accRound (e : Word) (r : Nat) (v : Val) : Nat :=
  match v with
  | .inf _ => mfRound (fmtAcc e) (fmtRnd e) false r v
  | .num neg m x _ =>
    if fmtAcc e = 12 then
      let n : Int := (if neg then -1 else 1) * (m : Int)
      let d := 2 ^ (-x).toNat
      intFit 32 true (fmtSat e) (if x < 0 then (if m % d = 0 then (if neg then -1 else 1) * ((m / d : Nat) : Int) else Config.fraction n d) else v.units 0)
    else mfRound (fmtAcc e) (fmtRnd e) (fmtSat e) r v
  | .nan => mfRound (fmtAcc e) (fmtRnd e) (fmtSat e) r v

/-- The key of a command's draws (R143). -/
def MCmd.key (c : MCmd) : Word := c.srseed ^^^ (fmtSalt c.fmt <<< 48)

/-- One element of the result. -/
def MCmd.element (c : MCmd) (i j : Nat) (cv : Val) (a : List (Option Val)) (b : List Val) : Nat :=
  let prods := (a.zip b).filterMap (fun (x, y) => x.map (fun v => v.mul y))
  accRound c.fmt (rsrDraw c.key c.srbase (regionRow c.f i) (tCol0 c.f + j)) (exactSum (fmtRnd c.fmt) (cv :: prods))

/-- A view of a cell without the stores of C that are still held: what the operands were at issue (R121). -/
def State.asIssued (s : State) (k : Nat) : State := s.modCell k (fun c => { c with cbuf := [], c := { c.c with slots := [] } })

/-- The bytes of a command's result, row by row (R117). -/
def State.matrixBytes (s0 : State) (c : MCmd) : List Byte :=
  let s := s0.asIssued c.cell
  let f := c.f
  let e := c.fmt
  let w := accBytes e
  match tOp f with
  | 7 => List.replicate (tM f * tN f * w) 0
  | 8 => (List.range (tM f)).flatMap (fun i => s.bytesAt (spAddr c.cell (tEaddr f 1 + i * tEstride f 5)) (tN f * w))
  | _ =>
    let cols := (List.range (tN f)).map (s.colB c.cell f e)
    (List.range (tM f)).flatMap (fun i =>
      let a := s.rowA c.cell f e i
      let cv := (s.cellAt c.cell).regionCodes f e i
      cols.zipIdx.flatMap (fun (b, j) =>
        leBytes w (c.element i j (if readsC (tOp f) then mfVal (fmtAcc e) 0 (cv.getD j 0) else .num false 0 0) a b)))

/-- Row i of a result, with the bits of a row that it writes. -/
def MCmd.resultRow (c : MCmd) (bs : List Byte) (i : Nat) : Row × Row :=
  let n := tN c.f * accBytes c.fmt
  let lo := 8 * (tCol0 c.f * accBytes c.fmt)
  (BitVec.ofNat 4096 (ofLe ((bs.drop (i * n)).take n) <<< lo), BitVec.ofNat 4096 ((2 ^ (8 * n) - 1) <<< lo))

/-- The operation of a command (R280). -/
def MCmd.op (c : MCmd) : Nat := tOp c.f

/-- Whether two records are one command. -/
def MCmd.same (a b : MCmd) : Bool := a.cell == b.cell && a.id == b.id

/-- The command that commits next, in issue order (R119): the first that is not a walk and does not merely wait for its rerun. -/
def Quad.head (q : Quad) : Option MCmd := q.cmds.find? (fun c => c.op != 6 && !c.tagged)

/-! ### Drains (R396) -/

/-- The element format of an MX output. -/
def mxOf (t : Nat) : Fmt := if t = 9 then e4m3 else if t = 10 then e5m2 else e2m1

/-- A list cut into pieces of g elements. -/
def chunksOf {α : Type} (g : Nat) (l : List α) : List (List α) :=
  (List.range ((l.length + g - 1) / g)).map (fun i => (l.drop (i * g)).take g)

/-- A row rotated as the format entry's HAD says (R148); an exactly zero sum has the sign, and a sum of infinities the NaN, that R113 and R114 give a
command's result (DESIGN CHOICE, log entry 168). -/
def rotated (e : Word) (mode : Nat) (xs : List Val) : List Val :=
  if fmtHad e = 0 then xs
  else (List.range xs.length).map (fun j' =>
    exactSum mode (xs.zipIdx.map (fun (x, j) => (x.mul (hadamard j j')).scale (if fmtHad e = 2 then -7 else 0))))

/-- Row i converted: element codes, headers, flags. -/
def MCmd.convertRow (c : MCmd) (i : Nat) (codes : List Nat) : List Nat × List Nat × BitVec 6 :=
  let t := dType c.f c.fmt
  let rnd := dRnd c.f c.fmt
  let g := fmtGrain c.fmt
  let draw (j : Nat) : Nat := rsrDraw c.key c.srbase (regionRow c.f i) (tCol0 c.f + j)
  let xs := rotated c.fmt rnd (codes.map (mfVal (fmtAcc c.fmt) 0))
  if mfHead t = 0 then
    (xs.zipIdx.map (fun (x, j) => mfRound t rnd (dSat c.f c.fmt) (draw j) x), [], flagIf (t == 1 && xs.any Val.isInf) fInfSeen)
  else
    let qs := (chunksOf g xs).zipIdx.map (fun (ys, b) =>
      let d (j : Nat) : Nat := draw (b * g + j)
      if mfDx t then quantDx (t == 7) (fmtSplit c.fmt) rnd d ys else quantMx (mxOf t) rnd d ys)
    (qs.flatMap (fun q => q.codes), qs.map (fun q => q.head),
     qs.foldl (fun fl q => fl ||| flagIf q.nan fNanSeen ||| flagIf q.inf fInfSeen) 0)

/-- Packed codes as bytes (R138). -/
def packBytes (w : Nat) (codes : List Nat) : List Byte :=
  leBytes ((codes.length * w + 7) / 8) (codes.zipIdx.foldl (fun acc (c, i) => acc + c * 2 ^ (w * i)) 0)

/-- The bytes at their scratchpad offsets, in ascending address. -/
def sortedBytes (l : List (Nat × Byte)) : List (Nat × Byte) := sortBy (fun a b => decide (a.1 ≤ b.1)) l

/-- What a drain writes, given the region's rows: the element plane before the exponent plane (R118), and the flags. -/
def MCmd.drainOut (c : MCmd) (rows : List (List Nat)) : List (Nat × Byte) × BitVec 6 :=
  let t := dType c.f c.fmt
  let conv := rows.zipIdx.map (fun (r, i) => (i, c.convertRow i r))
  let el := conv.flatMap (fun (i, x) => (packBytes (mfBits t) x.1).zipIdx.map (fun (b, n) => (tDst c.f + i * tDstride c.f + n, b)))
  let hd := conv.flatMap (fun (i, x) =>
    (x.2.1.flatMap (leBytes (mfHead t))).zipIdx.map (fun (b, n) => (tXdst c.f + i * tXdstride c.f + n, b)))
  (sortedBytes el ++ sortedBytes hd, conv.foldl (fun fl (_, x) => fl ||| x.2.2) 0)

/-- The rows of a region as they stand. -/
def Cell.regionRows (c : Cell) (f : List Word) (e : Word) : List (List Nat) := (List.range (tM f)).map (c.regionCodes f e)

/-- Bytes with the deviations of a path laid over them. -/
def withFaults (x : List (Nat × Byte)) (bs : List Byte) : List Byte :=
  bs.zipIdx.map (fun (b, i) => x.foldl (fun b e => if e.1 = i then b ^^^ e.2 else b) b)

/-! ### Declared times (R124, R236, R237) -/

/-- Ceiling of a quotient. -/
def cdiv (a b : Nat) : Nat := (a + b - 1) / b

/-- Four times the operations of a lane and cycle of a rate class. -/
def rho4 (e : Word) : Nat :=
  match mfRate (fmtA e) with
  | 4 => 16
  | 8 => 8
  | 16 => 4
  | _ => 1

/-- T_K (R236). -/
def tkOf (f : List Word) (e : Word) : Nat :=
  match tOp f with
  | 2 => cdiv (4 * (32 * (if tBmax f = 0 then tK f / 32 else tBmax f))) (rho4 e) + 64
  | 3 => cdiv (2 * tK f) (rho4 e)
  | 4 => cdiv (4 * 128) (rho4 e)
  | 5 => 0
  | 7 => 0
  | 8 => 0
  | _ => cdiv (4 * tK f) (rho4 e)

/-- L_W (R237). -/
def lwOf (f : List Word) (e : Word) : Nat := cdiv (tM f * tN f * accBytes e) 64

/-- The interval I (R237). -/
def intervalOf (f : List Word) (e : Word) : Nat :=
  max (max (tkOf f e + 16) (lwOf f e)) (cdiv (lwOf f e + tM f + 8) 2)

/-- Start to both signatures complete (R236); for a drain, to its tag, u units adding their earlier compares (R428). -/
def pathOf (f : List Word) (e : Word) (drained units : Nat) : Nat :=
  match tOp f with
  | 5 => 512 + lwOf f e + 2 * cdiv drained 64 + (if fmtHad e = 0 then 0 else 128) + (units - 1) * 520
  | 7 => 64 + lwOf f e
  | 8 => 64 + cdiv (tM f * tN f * accBytes e) 2048 + lwOf f e
  | _ => 6856 + tkOf f e + tM f + tN f + lwOf f e

/-- The products of a command (R124), the values of `mzero` and `mload`, the elements of a drain. -/
def State.products (s : State) (c : MCmd) : Nat :=
  let mn := tM c.f * tN c.f
  match tOp c.f with
  | 2 => ((List.range (tM c.f)).foldl (fun n i => n + ((s.asIssued c.cell).rowA c.cell c.f c.fmt i).countP Option.isSome) 0) * tN c.f
  | 3 => mn * storedK c.f
  | 4 => mn * 128
  | 5 => mn
  | 7 => mn
  | 8 => mn
  | _ => mn * tK c.f

end Sys2Proof.Machine
end

