-- ==== Sys2Proof/Machine/VecIssue.lean ====
section
/-! DEFINITION. The issue of a vector command (R350 to R355, R275 rows 4 to 7, R287): what each operation reads and writes,
its checks in their order, the queue of 16, the captured mapping, and `vop` for every operation. -/

namespace Sys2Proof.Machine

/-- How an operation uses a register field (R287, R354). -/
inductive Form where
  | none | row | pair
deriving DecidableEq, Repr

namespace VOp

/-- Group 5: masks (R368). -/
def isMaskOp : VOp → Bool
  | .vcmp | .vmand | .vmor | .vmxor | .vmnot | .vmpush | .vminv | .vmpopm | .vmcnt => true
  | _ => false

/-- The operations on the mask stack (R370). -/
def isStackOp : VOp → Bool
  | .vmpush | .vminv | .vmpopm => true
  | _ => false

/-- The mask logic operations (R369). -/
def isMaskLogic : VOp → Bool
  | .vmand | .vmor | .vmxor | .vmnot => true
  | _ => false

/-- Group 3 (R362). -/
def isDw : VOp → Bool
  | .vdwadd | .vdwaddf | .vdwmul | .vdwmulf | .vdwnorm | .vdwcvt => true
  | _ => false

/-- Group 2 (R361). -/
def isPair : VOp → Bool
  | .vaddx | .vsubx | .vmulx => true
  | _ => false

/-- The commands that access memory (R376). -/
def isMem : VOp → Bool
  | .vgather | .vscatter | .vscatc => true
  | _ => false

/-- The reductions other than `vprefix`. -/
def isRed : VOp → Bool
  | .vredsum | .vredsumx | .vredmax | .vredmin | .vredand | .vredor => true
  | _ => false

/-- The statistics commands (R382). -/
def isStat : VOp → Bool
  | .vamax | .vhist | .vstatrd | .vstatclr => true
  | _ => false

/-- The operations that write only their destination row itself, whatever the row count (R354). -/
def oneDest (o : VOp) : Bool :=
  o.isRed || (match o with | .vstatrd | .vext | .visect | .vcompress | .vexpand => true | _ => false)

/-- The movement operations (R372), which read their rows at their start. -/
def isMove : VOp → Bool
  | .vmov | .vbcast | .vext | .vperm | .vrot | .vslide | .vzip | .vunzip => true
  | _ => false

/-- The field va (R358 to R383). -/
def formA (o : VOp) (b : Word) : Form :=
  match o with
  | .vdwadd | .vdwaddf | .vdwmul | .vdwmulf | .vdwnorm => .pair
  | .vdwcvt => if bits b 1 0 = 1 then .row else .pair
  | .vcmp => .row
  | .vbcast | .vgather | .vstatrd | .vstatclr | .vrand | .vseed => .none
  | _ => if o.isMaskOp then .none else .row

/-- The field vb. -/
def formB : VOp → Form
  | .vadd | .vsub | .vmul | .vmulh | .vand | .vor | .vxor | .vandn | .vsll | .vsrl | .vsra | .vmin | .vmax | .vminz | .vmaxz | .vsel
  | .vfadd | .vfsub | .vfmul | .vfma | .vfms | .vfnma | .vfdiv | .vfmin | .vfmax | .vfcpsgn | .vscaleb
  | .vaddx | .vsubx | .vmulx | .vdwaddf | .vdwmulf | .vdequant | .vqscale | .vpack | .vcmp
  | .vperm | .vslide | .vzip | .vunzip | .vgather | .vscatter | .vscatc | .visect => .row
  | .vdwadd | .vdwmul => .pair
  | _ => .none

/-- The field vc: a third operand, or the exponent plane that `vquant` writes. -/
def formC : VOp → Form
  | .vsel | .vfma | .vfms | .vfnma | .vquant => .row
  | _ => .none

/-- The field vd. -/
def formD (o : VOp) (b : Word) : Form :=
  match o with
  | .vdwcvt => if bits b 1 0 = 1 then .pair else .row
  | .vredsumx => .pair
  | .vscatter | .vscatc | .vamax | .vhist | .vstatclr | .vseed => .none
  | _ => if o.isMaskOp then .none else if o.isPair || o.isDw then .pair else .row

/-- Whether word B has a use of its own, so that the operation has no cycle bound (R355). -/
def usesB (o : VOp) : Bool :=
  o.isRed || o.isMem ||
  (match o with
   | .vcvt | .vquant | .vqscale | .vdequant | .vpack | .vunpack | .vzip | .vunzip | .vdwcvt | .vcmp | .vmcnt | .vbcast | .vext | .vrot
   | .vslide | .vprefix | .visect | .vstatclr | .vseed => true
   | _ => false)

/-- The bits of word B that are not reserved (R355). -/
def maskB (o : VOp) : Nat :=
  match o with
  | .vcvt => 0x3F
  | .vquant | .vqscale => 0x3FFF
  | .vdequant => 0x3FF
  | .vpack | .vunpack | .vzip | .vunzip => 1
  | .vdwcvt => 3
  | .vcmp => 7
  | .vmcnt => 0x1F
  | .vbcast | .vseed => 2 ^ 64 - 1
  | .vext | .vrot => 0x1FF
  | .vslide => 0x3FF
  | .vprefix => 7
  | .vgather | .vscatter => 2 ^ 55 - 1
  | .vscatc => 2 ^ 55 - 1 + 3 * 2 ^ 56 + 15 * 2 ^ 60
  | .visect => 0xFFFF
  | .vstatclr => 0x1FF
  | _ => if o.isRed then 1 else 2 ^ 32 - 1

/-- Whether the operation accepts a type (R352, R358 to R383). -/
def typeOk (o : VOp) (t : Nat) : Bool :=
  match o with
  | .vadd | .vsub | .vmul | .vmulh | .vand | .vor | .vxor | .vandn | .vsll | .vsrl | .vsra | .vmin | .vmax | .vminz | .vmaxz | .vabs
  | .vneg | .vpopc | .vclz | .vsel | .vredand | .vredor => decide (t < 8)
  | .vfadd | .vfsub | .vfmul | .vfma | .vfms | .vfnma | .vfdiv | .vfsqrt | .vfmin | .vfmax | .vfabs | .vfneg | .vfcpsgn | .vscaleb
  | .vgetexp | .vgetman | .vfclass => decide (8 ≤ t) && decide (t < 12)
  | .vredsumx | .vrsqe | .vrcpe => t == 8 || t == 9
  | .vquant | .vqscale => decide (12 ≤ t)
  | .vdequant => t == 9 || t == 10
  | .vpack => decide (t < 7) && t != 3
  | .vunpack => decide (t < 8) && t % 4 != 0
  | .vmand | .vmor | .vmxor | .vmnot | .vstatrd | .vstatclr => t == 0
  | .vcmp | .vredsum | .vredmax | .vredmin | .vprefix | .vgather | .vscatter | .vscatc | .vrand => decide (t < 12)
  | .visect => t == 6
  | .vexp2 | .vlog2 => decide (9 ≤ t) && decide (t < 12)
  | .vamax | .vhist => decide (8 ≤ t) && decide (t < 14)
  | _ => if o.isPair || o.isDw then t == 8 || t == 9 else decide (t < 14)

/-- The operations that run one row (R368, R376, R379, R380, R383). -/
def oneRow (o : VOp) : Bool :=
  o.isMaskOp || o.isMem || (match o with | .visect | .vcompress | .vexpand | .vseed => true | _ => false)

end VOp

/-! ### Checks -/

/-- The bytes that one row of codes and of headers takes (R365): B and H. -/
def VCmd.quantSpan (c : VCmd) (qty elems : Nat) : Nat × Nat :=
  (elems * quantBits qty / 8, elems / c.qGrain * quantHead c.qMx)

/-- Whether MX and a quantised type go together, the grain is valid and PART stays in its row (R365, R366). -/
def VCmd.quantOk (c : VCmd) (qty elems : Nat) : Bool :=
  let (b, h) := c.quantSpan qty elems
  (if qty = 14 then !c.qMx else qty == 15 || c.qMx) && bits c.b 9 8 != 3 &&
  decide ((c.qPart + 1) * b ≤ 512) && decide ((c.qPart + 1) * h ≤ 512)

/-- Whether some queue bit is set. -/
def VCmd.anyQueue (c : VCmd) : Bool := c.qa || c.qb || c.qc || c.qd

/-- Field values that an operation does not allow: ILLEGAL_OP with TVAL 0 (R350, R355). -/
def VCmd.valuesOk (c : VCmd) : Bool :=
  let t := c.ty
  let l := tyLanes t
  let plain := c.maskNo == 0 && !c.mstk
  (!c.op.oneRow || c.rows == 1) &&
  (if c.op.isPair then !c.sat else if c.op.isDw then !c.sat && c.rnd == 0 else true) &&
  !(c.op.isMem && c.anyQueue) &&
  !((c.op.formA c.b == .pair && c.qa) || (c.op.formB == .pair && c.qb) || (c.op.formD c.b == .pair && c.qd)) &&
  (match c.op with
   | .vcvt =>
     let ws := tyBits c.srcTy
     let wd := tyBits t
     decide (c.srcTy < 14) && decide (c.cvtPart * (4096 / max ws wd) < 4096 / min ws wd)
   | .vquant | .vqscale =>
     (c.srcTy == 9 || c.srcTy == 10) && c.quantOk t (tyLanes c.srcTy) && plain && !c.anyQueue
   | .vdequant => decide (12 ≤ c.srcTy) && c.quantOk c.srcTy l
   | .vdwcvt => decide (bits c.b 1 0 < 2)
   | .vmcnt => decide (bits c.b 4 3 < 3)
   | .vext => decide (bits c.b 8 0 < l)
   | .vslide => decide (bits c.b 9 0 ≤ l)
   | .vprefix => decide (bits c.b 1 0 < 3)
   | .vscatc => decide (bits c.b 57 56 < 3)
   | .vredsumx | .vrsqe | .vrcpe => c.rnd == 0
   | .visect => plain && !c.anyQueue && decide (bits c.b 7 0 ≤ 128) && decide (bits c.b 15 8 ≤ 128)
   | .vstatrd | .vstatclr => plain
   | _ => true)

/-- Whether the reserved bits of the fields that name masks are 0 (R368). -/
def VCmd.maskFieldsOk (c : VCmd) : Bool :=
  match c.op with
  | .vmand | .vmor | .vmxor => decide (c.vd < 16) && decide (c.va < 16) && decide (c.vb < 16)
  | .vmnot => decide (c.vd < 16) && decide (c.va < 16)
  | .vmpush | .vmcnt => decide (c.va < 16)
  | .vmpopm => decide (c.vd < 32)
  | .vcmp => decide (c.vd < 16)
  | _ => true

/-- A register field's range and parity (R287, R354): ILLEGAL_REG with the register number. -/
def checkField (f : Form) (q : Bool) (n rows : Nat) : M Unit :=
  match f with
  | .none => pure ()
  | .row => if !q && 511 < n + rows - 1 then raise tcIllegalReg (BitVec.ofNat 64 n) else pure ()
  | .pair => if n % 2 = 1 || 511 < n + 2 * rows - 1 then raise tcIllegalReg (BitVec.ofNat 64 n) else pure ()

/-- A check that raises ILLEGAL_OP with a TVAL. -/
def needOp (ok : Bool) (val : Word) : M Unit := if ok then pure () else raise tcIllegalOp val

/-- A check that raises ILLEGAL_REG with a register number. -/
def needReg (ok : Bool) (n : Nat) : M Unit := if ok then pure () else raise tcIllegalReg (BitVec.ofNat 64 n)

/-- The checks of a vector command, in the order of R275 (R350). -/
def checkVCmd (c : VCmd) : M Unit := do
  needOp (decide (c.rnd ≤ 4)) 3
  needOp (bits c.a 57 56 == 0 && bits c.a 63 62 == 0 && c.maskFieldsOk && c.b.toNat &&& (2 ^ 64 - 1 - c.op.maskB) == 0) 2
  needOp (c.op.typeOk c.ty) 0
  checkField (c.op.formD c.b) c.qd c.vd c.rows
  checkField (c.op.formA c.b) c.qa c.va c.rows
  checkField c.op.formB c.qb c.vb c.rows
  checkField c.op.formC c.qc c.vc c.rows
  needReg (c.op != .visect || decide (c.vd ≤ 510)) c.vd
  needReg (!(c.op.isMaskLogic || c.op == .vcmp) || c.vd != 0) c.vd
  needReg (c.op != .vmpopm || !c.vd.testBit 4 || c.vd % 16 != 0) (c.vd % 16)
  needReg (c.op != .vmcnt || bits c.b 2 0 != 0) 0
  needOp c.valuesOk 0

/-- Whether the command rounds, so that rsr advances SRBASE (R143). -/
def VCmd.roundsOnce (c : VCmd) : Bool :=
  match c.op with
  | .vfadd | .vfsub | .vfmul | .vfma | .vfms | .vfnma | .vfdiv | .vfsqrt | .vscaleb | .vgetexp | .vgetman
  | .vaddx | .vsubx | .vmulx | .vquant | .vdequant | .vqscale | .vexp2 | .vlog2 => true
  | .vcvt => tyFloat c.ty || tyFloat c.srcTy
  | .vredsum => tyFloat c.ty
  | .vprefix => tyFloat c.ty && bits c.b 1 0 == 0
  | .vscatc => tyFloat c.ty && bits c.b 57 56 == 1
  | _ => false

/-! ### Rows that a commit is writing (R100) -/

/-- The bits of the lanes of a mask at a lane width. -/
def laneBits (w : Nat) (m : MaskBits) : Row :=
  (putLanes w 0 ((List.range (4096 / w)).map (fun i => if m.getLsbD i then some (2 ^ w - 1) else none))).2

/-- What a matrix command whose results agree is about to commit into a row of a cell, or one that the arbiter settles (R119, R125, R100). -/
def State.commitOn (s : State) (k p : Nat) : List (Row × Row) :=
  match (s.quadAt (quadOf k)).head with
  | none => []
  | some m =>
    if m.cell = k && 1 ≤ m.st && !m.bad && m.op ≠ 5 && (m.st = 2 || crc64 crcInit m.main = crc64 crcInit m.mirror) && decide (regionRow m.f 0 ≤ p) &&
       decide (p < regionRow m.f (tM m.f)) then
      [m.resultRow (if m.st = 2 then s.matrixBytes m else m.main) (p - regionRow m.f 0)]
    else []

/-- A row with each lane of what is being written to it old or new (R100). -/
def State.mixRow (s : State) (w : Nat) (r : Row) (l : List (Row × Row)) : Row × State :=
  l.foldl (fun (r, s) (val, b) =>
    let m := b &&& laneBits w (Config.laneMix s.free)
    ((r &&& ~~~ m) ||| (val &&& m), { s with free := s.free + 1 })) (r, s)

/-! ### Addresses of the memory group (R376) -/

/-- The physical row of a register under the present rotation (R97). -/
def Cell.row (c : Cell) (r : Nat) : Row := NatMap.get 0 c.rows r

/-- A mask by its physical number (R98). -/
def Cell.maskOf (c : Cell) (n : Nat) : MaskBits := if n = 0 then BitVec.allOnes 512 else NatMap.get 0 c.masks n

/-- The top of the mask stack, all ones when it is empty (R98); the list has the top first. -/
def Cell.stackTop (c : Cell) : MaskBits := c.mstack.headD (BitVec.allOnes 512)

/-- The governing mask of a command (R353). -/
def VCmd.governing (v : VCmd) (c : Cell) : MaskBits :=
  c.maskOf (v.physMask v.maskNo) &&& (if v.mstk then c.stackTop else BitVec.allOnes 512)

/-- BASE, SHIFT and the element size (R376). -/
def VCmd.elemAddr (v : VCmd) (y : Nat) : Word :=
  BitVec.ofNat 64 (bits v.b 51 0) + (sx y (tyBits v.ty) <<< bits v.b 54 52)

/-- Whether a row has an uncorrectable ECC word. -/
def Cell.rowBad (c : Cell) (r : Nat) : Bool := c.badRows.any (fun w => w / 64 == r)

/-- The state address of a row's first uncorrectable word (R39, R110). -/
def rowAddress (k r w : Nat) : Word := BitVec.ofNat 64 (k / 64 * 2 ^ 43 + k % 64 * 2 ^ 34 + 9 * 2 ^ 30 + 512 * r + 8 * w)

/-- The address that an uncorrectable row reports. -/
def Cell.rowBadAt (c : Cell) (k r : Nat) : Word := rowAddress k r (((c.badRows.find? (fun w => w / 64 == r)).getD 0) % 64)

/-- Checks and translates the active lanes' addresses in ascending order. -/
def vecAddrs (v : VCmd) (idx : Row) (wr : Bool) : Nat → Nat → M (List (Nat × Nat × Word))
  | 0, _ => pure []
  | n + 1, i =>
    if v.act i then do
      let ea := v.elemAddr (laneAt (tyBits v.ty) idx i)
      checkAligned ea (tyBits v.ty / 8)
      let (pa, repl) ← xlate ea wr
      let l ← vecAddrs v idx wr n (i + 1)
      pure ((i, (if repl then pa + replFlag else pa), ea) :: l)
    else vecAddrs v idx wr n (i + 1)

/-- A memory command at its issue: its mask, its index row, each lane of which a commit may be writing (R100), its addresses (R351, R376). -/
def captureMem (v : VCmd) : M VCmd := do
  let s ← get
  let c := s.cur
  let r := v.phys v.vb
  let v1 := { v with mask := v.governing c }
  if c.rowBad r then pure { v1 with bad := some (c.rowBadAt s.here r) }
  else do
    let (idx, s1) := s.mixRow (max 8 (tyBits v.ty)) (c.row r) (s.commitOn s.here r)
    modify (fun s => { s with free := s1.free })
    let l ← vecAddrs v1 idx (v.op != .vgather) (tyLanes v.ty) 0
    pure { v1 with addrs := l, ys := [idx], lat := s.slowest l false }

/-- The command that `vop` makes of words A and B. -/
def vcmdOf (op : VOp) (a b : Word) (s : State) : VCmd :=
  let c := s.cur
  { id := c.nextId, op := op, a := a, b := b, vrb := c.vrb, mrb := c.mrb, srbase := c.srbase, srseed := c.srseed, pc := s.curSeq.pc,
    tokens := [], issued := s.cycle, fenced := c.vfenced }

/-- `vop` (R350, R351): reads words A and B, checks, waits for the unit's queue, and places the command. -/
def issueVop (op : VOp) (t : BitVec 4) (a b : BitVec 5) : State → Out :=
  issue { t := t, who := [.C], signal := false, checks := do checkSrc a; checkSrc b } (do
    let x ← readReg a
    let y ← readReg b
    let s ← get
    let v := vcmdOf op x y s
    checkVCmd v
    if 16 ≤ s.cur.vcmds.countP (fun w => w.started.isNone) || (op.isMem && !s.cur.vcmds.isEmpty) then stallNow
    else do
      let v1 ← if op.isMem then captureMem v else pure v
      reserveSignals (signalsOf t .C)
      slotItem (.command v.id)
      modCur (fun c => { c with
        nextId := v.id + 1, vfenced := false,
        srbase := if v.rnd = 4 && v.roundsOnce then c.srbase + srStep else c.srbase,
        predWait := if op = .vmcnt then bits y 2 0 :: c.predWait else c.predWait,
        vcmds := c.vcmds ++ [{ v1 with tokens := signalsOf t .C }] })
      pure .seq)

/-- `vadd` (group 0). -/
def execVadd (t : BitVec 4) (a b : BitVec 5) : State → Out := issueVop .vadd t a b

/-- `vsub` (group 0). -/
def execVsub (t : BitVec 4) (a b : BitVec 5) : State → Out := issueVop .vsub t a b

/-- `vmul` (group 0). -/
def execVmul (t : BitVec 4) (a b : BitVec 5) : State → Out := issueVop .vmul t a b

/-- `vmulh` (group 0). -/
def execVmulh (t : BitVec 4) (a b : BitVec 5) : State → Out := issueVop .vmulh t a b

/-- `vand` (group 0). -/
def execVand (t : BitVec 4) (a b : BitVec 5) : State → Out := issueVop .vand t a b

/-- `vor` (group 0). -/
def execVor (t : BitVec 4) (a b : BitVec 5) : State → Out := issueVop .vor t a b

/-- `vxor` (group 0). -/
def execVxor (t : BitVec 4) (a b : BitVec 5) : State → Out := issueVop .vxor t a b

/-- `vandn` (group 0). -/
def execVandn (t : BitVec 4) (a b : BitVec 5) : State → Out := issueVop .vandn t a b

/-- `vsll` (group 0). -/
def execVsll (t : BitVec 4) (a b : BitVec 5) : State → Out := issueVop .vsll t a b

/-- `vsrl` (group 0). -/
def execVsrl (t : BitVec 4) (a b : BitVec 5) : State → Out := issueVop .vsrl t a b

/-- `vsra` (group 0). -/
def execVsra (t : BitVec 4) (a b : BitVec 5) : State → Out := issueVop .vsra t a b

/-- `vmin` (group 0). -/
def execVmin (t : BitVec 4) (a b : BitVec 5) : State → Out := issueVop .vmin t a b

/-- `vmax` (group 0). -/
def execVmax (t : BitVec 4) (a b : BitVec 5) : State → Out := issueVop .vmax t a b

/-- `vminz` (group 0). -/
def execVminz (t : BitVec 4) (a b : BitVec 5) : State → Out := issueVop .vminz t a b

/-- `vmaxz` (group 0). -/
def execVmaxz (t : BitVec 4) (a b : BitVec 5) : State → Out := issueVop .vmaxz t a b

/-- `vabs` (group 0). -/
def execVabs (t : BitVec 4) (a b : BitVec 5) : State → Out := issueVop .vabs t a b

/-- `vneg` (group 0). -/
def execVneg (t : BitVec 4) (a b : BitVec 5) : State → Out := issueVop .vneg t a b

/-- `vpopc` (group 0). -/
def execVpopc (t : BitVec 4) (a b : BitVec 5) : State → Out := issueVop .vpopc t a b

/-- `vclz` (group 0). -/
def execVclz (t : BitVec 4) (a b : BitVec 5) : State → Out := issueVop .vclz t a b

/-- `vsel` (group 0). -/
def execVsel (t : BitVec 4) (a b : BitVec 5) : State → Out := issueVop .vsel t a b

/-- `vfadd` (group 1). -/
def execVfadd (t : BitVec 4) (a b : BitVec 5) : State → Out := issueVop .vfadd t a b

/-- `vfsub` (group 1). -/
def execVfsub (t : BitVec 4) (a b : BitVec 5) : State → Out := issueVop .vfsub t a b

/-- `vfmul` (group 1). -/
def execVfmul (t : BitVec 4) (a b : BitVec 5) : State → Out := issueVop .vfmul t a b

/-- `vfma` (group 1). -/
def execVfma (t : BitVec 4) (a b : BitVec 5) : State → Out := issueVop .vfma t a b

/-- `vfms` (group 1). -/
def execVfms (t : BitVec 4) (a b : BitVec 5) : State → Out := issueVop .vfms t a b

/-- `vfnma` (group 1). -/
def execVfnma (t : BitVec 4) (a b : BitVec 5) : State → Out := issueVop .vfnma t a b

/-- `vfdiv` (group 1). -/
def execVfdiv (t : BitVec 4) (a b : BitVec 5) : State → Out := issueVop .vfdiv t a b

/-- `vfsqrt` (group 1). -/
def execVfsqrt (t : BitVec 4) (a b : BitVec 5) : State → Out := issueVop .vfsqrt t a b

/-- `vfmin` (group 1). -/
def execVfmin (t : BitVec 4) (a b : BitVec 5) : State → Out := issueVop .vfmin t a b

/-- `vfmax` (group 1). -/
def execVfmax (t : BitVec 4) (a b : BitVec 5) : State → Out := issueVop .vfmax t a b

/-- `vfabs` (group 1). -/
def execVfabs (t : BitVec 4) (a b : BitVec 5) : State → Out := issueVop .vfabs t a b

/-- `vfneg` (group 1). -/
def execVfneg (t : BitVec 4) (a b : BitVec 5) : State → Out := issueVop .vfneg t a b

/-- `vfcpsgn` (group 1). -/
def execVfcpsgn (t : BitVec 4) (a b : BitVec 5) : State → Out := issueVop .vfcpsgn t a b

/-- `vscaleb` (group 1). -/
def execVscaleb (t : BitVec 4) (a b : BitVec 5) : State → Out := issueVop .vscaleb t a b

/-- `vgetexp` (group 1). -/
def execVgetexp (t : BitVec 4) (a b : BitVec 5) : State → Out := issueVop .vgetexp t a b

/-- `vgetman` (group 1). -/
def execVgetman (t : BitVec 4) (a b : BitVec 5) : State → Out := issueVop .vgetman t a b

/-- `vfclass` (group 1). -/
def execVfclass (t : BitVec 4) (a b : BitVec 5) : State → Out := issueVop .vfclass t a b

/-- `vaddx` (group 2). -/
def execVaddx (t : BitVec 4) (a b : BitVec 5) : State → Out := issueVop .vaddx t a b

/-- `vsubx` (group 2). -/
def execVsubx (t : BitVec 4) (a b : BitVec 5) : State → Out := issueVop .vsubx t a b

/-- `vmulx` (group 2). -/
def execVmulx (t : BitVec 4) (a b : BitVec 5) : State → Out := issueVop .vmulx t a b

/-- `vdwadd` (group 3). -/
def execVdwadd (t : BitVec 4) (a b : BitVec 5) : State → Out := issueVop .vdwadd t a b

/-- `vdwaddf` (group 3). -/
def execVdwaddf (t : BitVec 4) (a b : BitVec 5) : State → Out := issueVop .vdwaddf t a b

/-- `vdwmul` (group 3). -/
def execVdwmul (t : BitVec 4) (a b : BitVec 5) : State → Out := issueVop .vdwmul t a b

/-- `vdwmulf` (group 3). -/
def execVdwmulf (t : BitVec 4) (a b : BitVec 5) : State → Out := issueVop .vdwmulf t a b

/-- `vdwnorm` (group 3). -/
def execVdwnorm (t : BitVec 4) (a b : BitVec 5) : State → Out := issueVop .vdwnorm t a b

/-- `vdwcvt` (group 3). -/
def execVdwcvt (t : BitVec 4) (a b : BitVec 5) : State → Out := issueVop .vdwcvt t a b

/-- `vcvt` (group 4). -/
def execVcvt (t : BitVec 4) (a b : BitVec 5) : State → Out := issueVop .vcvt t a b

/-- `vquant` (group 4). -/
def execVquant (t : BitVec 4) (a b : BitVec 5) : State → Out := issueVop .vquant t a b

/-- `vdequant` (group 4). -/
def execVdequant (t : BitVec 4) (a b : BitVec 5) : State → Out := issueVop .vdequant t a b

/-- `vqscale` (group 4). -/
def execVqscale (t : BitVec 4) (a b : BitVec 5) : State → Out := issueVop .vqscale t a b

/-- `vpack` (group 4). -/
def execVpack (t : BitVec 4) (a b : BitVec 5) : State → Out := issueVop .vpack t a b

/-- `vunpack` (group 4). -/
def execVunpack (t : BitVec 4) (a b : BitVec 5) : State → Out := issueVop .vunpack t a b

/-- `vcmp` (group 5). -/
def execVcmp (t : BitVec 4) (a b : BitVec 5) : State → Out := issueVop .vcmp t a b

/-- `vmand` (group 5). -/
def execVmand (t : BitVec 4) (a b : BitVec 5) : State → Out := issueVop .vmand t a b

/-- `vmor` (group 5). -/
def execVmor (t : BitVec 4) (a b : BitVec 5) : State → Out := issueVop .vmor t a b

/-- `vmxor` (group 5). -/
def execVmxor (t : BitVec 4) (a b : BitVec 5) : State → Out := issueVop .vmxor t a b

/-- `vmnot` (group 5). -/
def execVmnot (t : BitVec 4) (a b : BitVec 5) : State → Out := issueVop .vmnot t a b

/-- `vmpush` (group 5). -/
def execVmpush (t : BitVec 4) (a b : BitVec 5) : State → Out := issueVop .vmpush t a b

/-- `vminv` (group 5). -/
def execVminv (t : BitVec 4) (a b : BitVec 5) : State → Out := issueVop .vminv t a b

/-- `vmpopm` (group 5). -/
def execVmpopm (t : BitVec 4) (a b : BitVec 5) : State → Out := issueVop .vmpopm t a b

/-- `vmcnt` (group 5). -/
def execVmcnt (t : BitVec 4) (a b : BitVec 5) : State → Out := issueVop .vmcnt t a b

/-- `vmov` (group 6). -/
def execVmov (t : BitVec 4) (a b : BitVec 5) : State → Out := issueVop .vmov t a b

/-- `vbcast` (group 6). -/
def execVbcast (t : BitVec 4) (a b : BitVec 5) : State → Out := issueVop .vbcast t a b

/-- `vext` (group 6). -/
def execVext (t : BitVec 4) (a b : BitVec 5) : State → Out := issueVop .vext t a b

/-- `vperm` (group 6). -/
def execVperm (t : BitVec 4) (a b : BitVec 5) : State → Out := issueVop .vperm t a b

/-- `vrot` (group 6). -/
def execVrot (t : BitVec 4) (a b : BitVec 5) : State → Out := issueVop .vrot t a b

/-- `vslide` (group 6). -/
def execVslide (t : BitVec 4) (a b : BitVec 5) : State → Out := issueVop .vslide t a b

/-- `vzip` (group 6). -/
def execVzip (t : BitVec 4) (a b : BitVec 5) : State → Out := issueVop .vzip t a b

/-- `vunzip` (group 6). -/
def execVunzip (t : BitVec 4) (a b : BitVec 5) : State → Out := issueVop .vunzip t a b

/-- `vredsum` (group 7). -/
def execVredsum (t : BitVec 4) (a b : BitVec 5) : State → Out := issueVop .vredsum t a b

/-- `vredsumx` (group 7). -/
def execVredsumx (t : BitVec 4) (a b : BitVec 5) : State → Out := issueVop .vredsumx t a b

/-- `vredmax` (group 7). -/
def execVredmax (t : BitVec 4) (a b : BitVec 5) : State → Out := issueVop .vredmax t a b

/-- `vredmin` (group 7). -/
def execVredmin (t : BitVec 4) (a b : BitVec 5) : State → Out := issueVop .vredmin t a b

/-- `vredand` (group 7). -/
def execVredand (t : BitVec 4) (a b : BitVec 5) : State → Out := issueVop .vredand t a b

/-- `vredor` (group 7). -/
def execVredor (t : BitVec 4) (a b : BitVec 5) : State → Out := issueVop .vredor t a b

/-- `vprefix` (group 7). -/
def execVprefix (t : BitVec 4) (a b : BitVec 5) : State → Out := issueVop .vprefix t a b

/-- `vgather` (group 8). -/
def execVgather (t : BitVec 4) (a b : BitVec 5) : State → Out := issueVop .vgather t a b

/-- `vscatter` (group 8). -/
def execVscatter (t : BitVec 4) (a b : BitVec 5) : State → Out := issueVop .vscatter t a b

/-- `vscatc` (group 8). -/
def execVscatc (t : BitVec 4) (a b : BitVec 5) : State → Out := issueVop .vscatc t a b

/-- `visect` (group 8). -/
def execVisect (t : BitVec 4) (a b : BitVec 5) : State → Out := issueVop .visect t a b

/-- `vcompress` (group 8). -/
def execVcompress (t : BitVec 4) (a b : BitVec 5) : State → Out := issueVop .vcompress t a b

/-- `vexpand` (group 8). -/
def execVexpand (t : BitVec 4) (a b : BitVec 5) : State → Out := issueVop .vexpand t a b

/-- `vrsqe` (group 9). -/
def execVrsqe (t : BitVec 4) (a b : BitVec 5) : State → Out := issueVop .vrsqe t a b

/-- `vrcpe` (group 9). -/
def execVrcpe (t : BitVec 4) (a b : BitVec 5) : State → Out := issueVop .vrcpe t a b

/-- `vexp2` (group 9). -/
def execVexp2 (t : BitVec 4) (a b : BitVec 5) : State → Out := issueVop .vexp2 t a b

/-- `vlog2` (group 9). -/
def execVlog2 (t : BitVec 4) (a b : BitVec 5) : State → Out := issueVop .vlog2 t a b

/-- `vamax` (group 10). -/
def execVamax (t : BitVec 4) (a b : BitVec 5) : State → Out := issueVop .vamax t a b

/-- `vhist` (group 10). -/
def execVhist (t : BitVec 4) (a b : BitVec 5) : State → Out := issueVop .vhist t a b

/-- `vstatrd` (group 10). -/
def execVstatrd (t : BitVec 4) (a b : BitVec 5) : State → Out := issueVop .vstatrd t a b

/-- `vstatclr` (group 10). -/
def execVstatclr (t : BitVec 4) (a b : BitVec 5) : State → Out := issueVop .vstatclr t a b

/-- `vrand` (group 11). -/
def execVrand (t : BitVec 4) (a b : BitVec 5) : State → Out := issueVop .vrand t a b

/-- `vseed` (group 11). -/
def execVseed (t : BitVec 4) (a b : BitVec 5) : State → Out := issueVop .vseed t a b

end Sys2Proof.Machine
end

