-- ==== Sys2Proof/Machine/VecUnit.lean ====
section
/-! DEFINITION. The vector unit at work (R351 to R356, R96 to R102, R235): the start of a command and its row steps, what each
row step writes, and its completion. -/

namespace Sys2Proof.Machine

/-! ### Occupancy (R99, R235) -/

/-- P and S of an operation (R235); group 8's S is computed from its lanes. -/
def VOp.latency (o : VOp) : Nat × Nat :=
  if o == .vperm then (8, 2)
  else if o == .vfdiv || o == .vfsqrt then (8, 8)
  else if o == .vquant || o == .vdequant then (10, 2)
  else if o == .vexp2 || o == .vlog2 then (10, 4)
  else if o.isPair then (10, 2)
  else if o.isDw then (12, 4)
  else if o.isRed || o == .vprefix then (17, 1)
  else if o.isMem || o == .visect || o == .vcompress || o == .vexpand then (16, 1)
  else
    match o with
    | .vcvt | .vqscale | .vpack | .vunpack => (10, 1)
    | .vfadd | .vfsub | .vfmul | .vfma | .vfms | .vfnma | .vfmin | .vfmax | .vfabs | .vfneg | .vfcpsgn | .vscaleb | .vgetexp | .vgetman
    | .vfclass => (8, 1)
    | _ => (6, 1)

/-- The registers that a form names in step k. -/
def formRegs (f : Form) (q : Bool) (n k : Nat) : List Nat :=
  match f with
  | .none => []
  | .row => if q then [] else [n + k]
  | .pair => [n + 2 * k, n + 2 * k + 1]

/-- The physical rows that a step reads and writes (R354). -/
def VCmd.rowsRead (v : VCmd) (k : Nat) : List Nat :=
  ((formRegs (v.op.formA v.b) v.qa v.va k ++ formRegs v.op.formB v.qb v.vb k ++
    (if v.op = .vquant then [] else formRegs v.op.formC v.qc v.vc k))).map v.phys

def VCmd.rowsWritten (v : VCmd) (k : Nat) : List Nat :=
  let d := if v.op.oneDest then (if k = 0 then formRegs (v.op.formD v.b) v.qd v.vd 0 ++ (if v.op = .visect then [v.vd + 1] else []) else [])
           else formRegs (v.op.formD v.b) v.qd v.vd k
  (d ++ (if v.op = .vquant then [v.vc + k] else [])).map v.phys

/-- The extra cycles of a step for bank conflicts (R99). -/
def VCmd.bankX (v : VCmd) (k : Nat) : Nat :=
  let cnt (l : List Nat) (b : Nat) : Nat := l.countP (fun r => r % 8 == b)
  ((List.range 8).map (fun b => (cnt (v.rowsRead k) b - 2) + (cnt (v.rowsWritten k) b - 1))).foldl (· + ·) 0

/-- S of a command: group 8 by its active lanes and its slowest access. -/
def VCmd.stepTime (v : VCmd) : Nat :=
  if v.op.isMem then (v.addrs.length + 15) / 16 + v.lat
  else if v.op = .visect || v.op = .vcompress || v.op = .vexpand then
    (((List.range (tyLanes v.ty)).countP v.act) + 15) / 16
  else v.op.latency.2

/-! ### What a row step reads (R100, R356) -/

/-- What vector commands in flight other than one are about to write into a row. -/
def Cell.vecWrites (c : Cell) (p : Nat) (skip : Option Nat) : List (Row × Row) :=
  (c.vcmds.filter (fun o => o.started.isSome && some o.id != skip)).flatMap (fun o => (o.writes.filter (fun x => x.row == p)).map (fun x => (x.val, x.bits)))

/-! ### What a row step writes -/

/-- The operands of a row step; the second rows are those of pairs. -/
structure VIn where
  x  : Row := 0
  x2 : Row := 0
  y  : Row := 0
  y2 : Row := 0
  z  : Row := 0

/-- The effect of a row step: registers with the lanes they receive, and sticky flags. -/
structure VOut where
  out   : List (Nat × Row × Row) := []
  flags : BitVec 6 := 0

/-- One register written in the active lanes of a type by a function of the lane. -/
def VCmd.lanesOut (v : VCmd) (reg w n : Nat) (f : Nat → Nat) : Nat × Row × Row :=
  (reg, putLanes w 0 ((List.range n).map (fun i => if v.act i then some (f i) else none)))

/-- Row steps of the lane by lane operations (groups 0, 1, 6, 9 and `vrand`). -/
def VCmd.mapStep (v : VCmd) (k : Nat) (i : VIn) : VOut :=
  let t := v.ty
  let w := tyBits t
  let n := tyLanes t
  let row := v.drawRow (v.vd + k)
  let lane (j : Nat) : Nat :=
    let x := laneAt w i.x j
    let y := laneAt w i.y j
    let z := laneAt w i.z j
    if tyFloat t then floatLane v.op (tyFmt t) v.rnd v.sat (v.draw row j) x y z else intLane v.op w (tySigned t) v.sat x y z
  ⟨[v.lanesOut (v.vd + k) w n lane], 0⟩

/-- Row steps of group 6. -/
def VCmd.moveStep (v : VCmd) (k : Nat) (i : VIn) : VOut :=
  let w := tyBits v.ty
  let n := tyLanes v.ty
  let xs := lanesAt w i.x 0 n
  let ys := lanesAt w i.y 0 n
  if v.op = .vext && k ≠ 0 then {}
  else ⟨[v.lanesOut (v.vd + k) w n (moveLane v.op v.b w xs ys)], 0⟩

/-- Row steps of group 2 (R151, R361). -/
def VCmd.pairStep (v : VCmd) (k : Nat) (i : VIn) : VOut :=
  let t := v.ty
  let f := tyFmt t
  let w := tyBits t
  let n := tyLanes t
  let d := v.vd + 2 * k
  let res (j : Nat) : Nat × Nat × BitVec 6 :=
    let a := f.decode (laneAt w i.x j)
    let b := f.decode (laneAt w i.y j)
    let x := match v.op with
      | .vaddx => fsum v.rnd a b
      | .vsubx => fsum v.rnd a b.neg
      | _ => a.mul b
    exactPair f v.rnd (v.draw (v.phys d) j) (v.draw (v.phys (d + 1)) j) x
  let rs := (List.range n).map (fun j => if v.act j then some (res j) else none)
  ⟨[(d, putLanes w 0 (rs.map (·.map (·.1)))), (d + 1, putLanes w 0 (rs.map (·.map (·.2.1))))],
   rs.foldl (fun fl r => fl ||| ((r.map (·.2.2)).getD 0)) 0⟩

/-- Row steps of group 3 (R362, R363). -/
def VCmd.dwStep (v : VCmd) (k : Nat) (i : VIn) : VOut :=
  let t := v.ty
  let f := tyFmt t
  let w := tyBits t
  let n := tyLanes t
  let split := bits v.b 1 0 == 1
  let res (j : Nat) : Nat × Nat × BitVec 6 :=
    dwLane v.op split f (laneAt w i.x j) (laneAt w i.x2 j) (laneAt w i.y j) (laneAt w i.y2 j)
  let rs := (List.range n).map (fun j => if v.act j then some (res j) else none)
  let hi := putLanes w 0 (rs.map (·.map (·.1)))
  let lo := putLanes w 0 (rs.map (·.map (·.2.1)))
  ⟨if v.op.formD v.b = .pair then [(v.vd + 2 * k, hi), (v.vd + 2 * k + 1, lo)] else [(v.vd + k, hi)],
   rs.foldl (fun fl r => fl ||| ((r.map (·.2.2)).getD 0)) 0⟩

/-- Row steps of `vcvt` (R364). -/
def VCmd.cvtStep (v : VCmd) (k : Nat) (i : VIn) : VOut :=
  let ws := tyBits v.srcTy
  let wd := tyBits v.ty
  let l := 4096 / max ws wd
  let so := if ws < wd then v.cvtPart * l else 0
  let dO := if wd < ws then v.cvtPart * l else 0
  let row := v.drawRow (v.vd + k)
  let rs := (List.range l).map (fun j =>
    if v.act j then some (cvtLane v.srcTy v.ty v.rnd v.sat (v.draw row (dO + j)) (laneAt ws i.x (so + j))) else none)
  ⟨[(v.vd + k, putLanes wd dO (rs.map (·.map (·.1))))], rs.foldl (fun fl r => fl ||| ((r.map (·.2)).getD 0)) 0⟩

/-- The header of grain g in an exponent plane. -/
def VCmd.headAt (v : VCmd) (plane : Row) (h g : Nat) : Nat :=
  let hb := quantHead v.qMx
  laneAt (8 * hb) plane ((v.qPart * h) / hb + g)

/-- Row steps of `vquant` and `vqscale` (R365, R366). -/
def VCmd.quantStep (v : VCmd) (k : Nat) (i : VIn) : VOut :=
  let t := v.ty
  let ws := tyBits v.srcTy
  let l := tyLanes v.srcTy
  let g := v.qGrain
  let (b, h) := v.quantSpan t l
  let hb := quantHead v.qMx
  let row := v.phys (v.vd + k)
  let vals := (lanesAt ws i.x 0 l).map (fun x => (tyFmt v.srcTy).decode x)
  let draw (gi j : Nat) : Nat := v.draw row (v.qPart * l + gi * g + j)
  let one (gi : Nat) : Quant :=
    let xs := (vals.drop (gi * g)).take g
    if v.op = .vquant then quantGrain t v.qMx v.qSplit v.rnd (draw gi) xs
    else scaleGrain t v.qMx v.qSplit v.rnd (v.headAt i.y h gi) (draw gi) xs
  let qs := (List.range (l / g)).map one
  let wb := quantBits t
  let codes := (qs.flatMap (fun q => q.codes)).map some
  let heads := qs.map (fun q => some q.head)
  ⟨(v.vd + k, putLanes wb (v.qPart * b * 8 / wb) codes) ::
     (if v.op = .vquant then [(v.vc + k, putLanes (8 * hb) (v.qPart * h / hb) heads)] else []),
   (if qs.any (·.nan) then 0x01 else 0) ||| (if qs.any (·.inf) then 0x02 else 0)⟩

/-- Row steps of `vdequant` (R366). -/
def VCmd.dequantStep (v : VCmd) (k : Nat) (i : VIn) : VOut :=
  let t := v.ty
  let l := tyLanes t
  let q := v.srcTy
  let (b, h) := v.quantSpan q l
  let wb := quantBits q
  let row := v.drawRow (v.vd + k)
  let lane (j : Nat) : Nat :=
    roundTo (tyFmt t) v.rnd v.sat (v.draw row j)
      (dequantVal q v.qMx (v.headAt i.y h (j / v.qGrain)) (laneAt wb i.x (v.qPart * b * 8 / wb + j)))
  ⟨[v.lanesOut (v.vd + k) (tyBits t) l lane], 0⟩

/-- Row steps of `vpack` and `vunpack` (R367). -/
def VCmd.packStep (v : VCmd) (k : Nat) (i : VIn) : VOut :=
  let t := v.ty
  let w := tyBits t
  let l := tyLanes t
  if v.op = .vpack then
    let ss := bit v.b 0
    let one (r : Row) : List (Option Nat) := (List.range (l / 2)).map (fun j =>
      if v.act j then
        let x := laneAt (2 * w) r j
        some (if v.sat then intFit w (tySigned t) true (intVal (2 * w) ss x) else x % 2 ^ w)
      else none)
    ⟨[(v.vd + k, putLanes w 0 (one i.x ++ one i.y))], 0⟩
  else
    ⟨[v.lanesOut (v.vd + k) w l (fun j => intFit w (tySigned t) false (intVal (w / 2) (tySigned t) (laneAt (w / 2) i.x (bits v.b 0 0 * l + j))))], 0⟩

/-- Row steps of `vprefix` (R375); the running value stands in `old0`. -/
def VCmd.prefixStep (v : VCmd) (k : Nat) (i : VIn) : VOut × Word :=
  let t := v.ty
  let w := tyBits t
  let l := tyLanes t
  let op := prefixOp v.b
  let ident := redIdentity op t
  let es := (List.range l).map (fun j => if v.act j then laneAt w i.x j else ident)
  let row := v.drawRow (v.vd + k)
  let next (j : Nat) : Nat := if j + 1 < l then v.draw row (j + 1) else v.draw (v.drawRow (v.vd + k + 1)) 0
  let (rs, run) := prefixRow op t v.rnd v.sat (bit v.b 2) (v.draw row) next 0 (if k = 0 then ident else v.old0.toNat) es
  (⟨[v.lanesOut (v.vd + k) w l (fun j => rs.getD j 0)], 0⟩, BitVec.ofNat 64 run)

/-- The result of a reduction over all its rows (R373, R374); `old` gives lane 0 of vd and vd + 1. -/
def VCmd.redOut (v : VCmd) (xs : List Row) (old0 old1 : Nat) : VOut :=
  let t := v.ty
  let w := tyBits t
  let l := tyLanes t
  let acc := bit v.b 0
  if v.op = .vredsumx then
    let f := tyFmt t
    let zero : Val := .num false 0 0
    let es := xs.flatMap (fun r => (List.range l).map (fun j =>
      (⟨if v.act j then f.decode (laneAt w r j) else .num true 0 0, zero, false⟩ : SumX)))
    match redTree (fun _ => sumxNode f) 20 0 es with
    | a :: _ =>
      let a1 := if acc then sumxNode f ⟨f.decode old0, f.decode old1, false⟩ a else a
      let (h, lo, fl) := sumxFinal f a1
      ⟨[(v.vd, putLanes w 0 [some h]), (v.vd + 1, putLanes w 0 [some lo])], fl⟩
    | [] => {}
  else
    let ident := redIdentity v.op t
    let es := xs.flatMap (fun r => (List.range l).map (fun j => if v.act j then laneAt w r j else ident))
    let row := v.drawRow v.vd
    let node (n x y : Nat) : Nat := redNode v.op t v.rnd v.sat (v.draw row n) x y
    match redTree node 20 0 es with
    | a :: _ => ⟨[(v.vd, putLanes w 0 [some (if acc then node 65535 old0 a else a)])], 0⟩
    | [] => {}

/-- `visect` (R379): both rows and the counts. -/
def VCmd.isectOut (v : VCmd) (i : VIn) : VOut × Word :=
  let a := lanesAt 32 i.x 0 (bits v.b 7 0)
  let b := lanesAt 32 i.y 0 (bits v.b 15 8)
  let (m, ia, ib) := isect a b 257 0 0 []
  let fill (l : List Nat) : List (Option Nat) := (l ++ List.replicate (128 - l.length) 0xFFFFFFFF).map some
  (⟨[(v.vd, putLanes 32 0 (fill (m.map (·.1)))), (v.vd + 1, putLanes 32 0 (fill (m.map (·.2))))], 0⟩,
   BitVec.ofNat 64 (m.length + at_ ia 16 + at_ ib 32))

/-- `vcompress` and `vexpand` (R380): the row and the count. -/
def VCmd.compactOut (v : VCmd) (i : VIn) : VOut × Word :=
  let w := tyBits v.ty
  let l := tyLanes v.ty
  let on := (List.range l).filter v.act
  if v.op = .vcompress then (⟨[(v.vd, putLanes w 0 (on.map (fun j => some (laneAt w i.x j))))], 0⟩, BitVec.ofNat 64 on.length)
  else (⟨[v.lanesOut v.vd w l (fun j => laneAt w i.x (on.filter (· < j)).length)], 0⟩, 0)

/-- The mask that `vcmp` writes (R368). -/
def VCmd.cmpMask (v : VCmd) (i : VIn) : MaskBits :=
  let w := tyBits v.ty
  BitVec.ofNat 512 ((List.range (tyLanes v.ty)).foldl (fun m j =>
    if v.act j && cmpLane v.ty (bits v.b 2 0) (laneAt w i.x j) (laneAt w i.y j) then m + 2 ^ j else m) 0)

/-- One row step of a command that has its operands: what it writes, and the command with what it keeps. -/
def VCmd.step (v : VCmd) (k : Nat) (i : VIn) : VOut × VCmd :=
  match v.op with
  | .vaddx | .vsubx | .vmulx => (v.pairStep k i, v)
  | .vdwadd | .vdwaddf | .vdwmul | .vdwmulf | .vdwnorm | .vdwcvt => (v.dwStep k i, v)
  | .vcvt => (v.cvtStep k i, v)
  | .vquant | .vqscale => (v.quantStep k i, v)
  | .vdequant => (v.dequantStep k i, v)
  | .vpack | .vunpack => (v.packStep k i, v)
  | .vcmp => ({}, { v with stat := (v.cmpMask i).zeroExtend 4096 })
  | .vmand | .vmor | .vmxor | .vmnot | .vmpush | .vminv | .vmpopm | .vmcnt => ({}, v)
  | .vmov | .vbcast | .vext | .vperm | .vrot | .vslide | .vzip | .vunzip => (v.moveStep k i, v)
  | .vredsum | .vredsumx | .vredmax | .vredmin | .vredand | .vredor =>
    let xs := v.xs ++ [i.x]
    (if k + 1 = v.rows then v.redOut xs v.old0.toNat v.old1.toNat else {}, { v with xs := xs })
  | .vprefix => let (o, run) := v.prefixStep k i; (o, { v with old0 := run })
  | .vgather => ({}, v)
  | .vscatter | .vscatc => ({}, { v with xs := [i.x] })
  | .visect => let (o, n) := v.isectOut i; (o, { v with ctr := n })
  | .vcompress | .vexpand => let (o, n) := v.compactOut i; (o, { v with ctr := n })
  | .vamax | .vhist => ({}, { v with xs := v.xs ++ [i.x] })
  | .vstatrd | .vstatclr | .vseed => ({}, v)
  | .vrand => (⟨[v.lanesOut (v.vd + k) (tyBits v.ty) (tyLanes v.ty) (randLane v.ty v.old0 v.ctr k)], 0⟩, v)
  | _ => (v.mapStep k i, v)

/-! ### Memory and statistics commands (R149, R376, R378, R382) -/

/-- The operand queues that a step pops, in the order va, vb, vc. -/
def VCmd.pops (v : VCmd) : List Nat :=
  (if v.qa then [v.va % 4] else []) ++ (if v.qb then [v.vb % 4] else []) ++ (if v.qc then [v.vc % 4] else [])

/-- The output queue of a command, if it has one. -/
def VCmd.outQueue (v : VCmd) : Option Nat := if v.qd && v.op.formD v.b = .row then some (4 + v.vd % 2) else none

/-- BLOCK 10's bytes 0x200 to 0x3FF as a row (R150, R382). -/
def Cell.statRow (c : Cell) : Row :=
  let hist := (List.range 64).foldl (fun acc b => acc + at_ (NatMap.get 0 c.hist b).toNat (32 * b)) 0
  BitVec.ofNat 4096 (c.amax.toNat + at_ c.nancnt.toNat 64 + at_ c.flags.toNat 128 + at_ hist (8 * 0x100))

/-- One value of a statistics command (R149). -/
def Cell.statLane (amax : Bool) (c : Cell) (x : Val) : Cell :=
  if amax then { c with amax := amaxAfter c.amax x }
  else if x.isNan then { c with nancnt := satInc c.nancnt }
  else let b := histBin x; { c with hist := NatMap.put 0 c.hist b (satInc (NatMap.get 0 c.hist b)) }

/-- A statistics command acts (R149, R382). -/
def VCmd.actStat (v : VCmd) (c : Cell) : VCmd × Cell :=
  let v1 := { v with acted := true }
  if v.bad.isSome then (v1, c)
  else
    match v.op with
    | .vstatrd => ({ v1 with writes := [⟨match v.outQueue with | some q => 1000 + q | none => v.phys v.vd, c.statRow, BitVec.allOnes 4096⟩] }, c)
    | .vstatclr =>
      (v1, { c with
        amax := if bit v.b 0 then 0 else c.amax,
        nancnt := if bit v.b 1 then 0 else c.nancnt,
        hist := if bit v.b 2 then [] else c.hist,
        flags := c.flags &&& ~~~ BitVec.ofNat 6 (bits v.b 8 3) })
    | _ =>
      let t := v.ty
      let vals := v.xs.flatMap (fun r => ((List.range (tyLanes t)).filter v.act).map (fun j => tyVal t (laneAt (tyBits t) r j)))
      (v1, vals.foldl (Cell.statLane (v.op == .vamax)) c)

/-- Statistics commands act in issue order: every earlier one in flight, then this one. -/
def Cell.actStats (c : Cell) (id : Nat) : Cell :=
  (c.vcmds.filter (fun v => v.op.isStat && !v.acted && decide (v.id ≤ id))).foldl (fun c v =>
    let (v1, c1) := v.actStat c
    { c1 with vcmds := c1.vcmds.map (fun o => if o.id = v.id then v1 else o) }) c

/-- What the memory commands do at their completion (R376, R378): a gather's row, a scatter's writes, lost and
uncorrectable elements. -/
structure MemRes where
  lanes : List (Nat × Nat) := []
  lost  : Option Word := none
  bad   : Option Word := none
  full  : Bool := false

/-- A gather (R376). -/
def State.gatherAll (s : State) (k : Nat) (v : VCmd) : MemRes × State :=
  let n := tyBits v.ty / 8
  v.addrs.foldl (fun (m, s) (i, paF, va) =>
    match s.readElem k (.vector k v.id) n (i, paF, va) with
    | some .bad => ({ m with bad := m.bad.or (some va) }, s.logBad k (paF % replFlag) 2)
    | some (.ok bs) => ({ m with lanes := m.lanes ++ [(i, ofLe bs)] }, s)
    | _ => ({ m with lost := lowest m.lost va }, s)) ({}, s)

/-- The lanes that a scatter writes, with their values (R376, R378). -/
def VCmd.scatterLanes (v : VCmd) : List (Nat × Nat) :=
  let t := v.ty
  let w := tyBits t
  let x := v.xs.headD 0
  if v.op = .vscatc then
    let y := v.ys.headD 0
    let ls := (v.addrs.map (·.1)).map (fun i => (i, laneAt w y i, laneAt w x i))
    (foldLanes (bits v.b 57 56) t v.rnd v.sat (v.draw (v.phys v.va)) ls).map (fun g => (g.1, g.2.2.1))
  else v.addrs.map (fun e => (e.1, laneAt w x e.1))

/-- The lanes that a `vscatc` folds away. -/
def VCmd.foldedMask (v : VCmd) : MaskBits :=
  let t := v.ty
  let w := tyBits t
  let y := v.ys.headD 0
  let ls := (v.addrs.map (·.1)).map (fun i => (i, laneAt w y i, 0))
  (foldLanes 0 t 0 false (fun _ => 0) ls).foldl (fun m g => g.2.2.2.foldl (fun m i => m ||| (1#512 <<< i)) m) 0

/-- A scatter (R376): ascending lane order, whole or not at all while the commit buffer is full (R123). -/
def State.scatterAll (s : State) (k : Nat) (v : VCmd) : MemRes × State :=
  let n := tyBits v.ty / 8
  v.scatterLanes.foldl (fun (m, s) (i, x) =>
    match v.addrs.find? (fun e => e.1 == i) with
    | none => (m, s)
    | some (_, paF, va) =>
      let (s1, r) := s.engineWrite k (paF % replFlag) (decide (replFlag ≤ paF)) (leBytes n x) .C (.vector k v.id) v.pc va
      match r with
      | .done => (m, s1)
      | .bad => ({ m with bad := m.bad.or (some va) }, s1.logBad k (paF % replFlag) 2)
      | .full => ({ m with full := true }, s)) ({}, s)

/-- Whether no store of C that is not performed goes to one of the elements (R177). -/
def State.elemsClear (s : State) (k : Nat) (v : VCmd) : Bool :=
  v.addrs.all (fun e => s.forkClear k .C (e.2.1 % replFlag) (tyBits v.ty / 8))

/-- The row that a gather writes. -/
def VCmd.gatherWrites (v : VCmd) (lanes : List (Nat × Nat)) : List RowWrite :=
  let w := tyBits v.ty
  let (val, m) := putLanes w 0 ((List.range (tyLanes v.ty)).map (fun i => (lanes.find? (fun e => e.1 == i)).map (·.2)))
  [⟨v.phys v.vd, val, m⟩]

/-- The command v of the cell k replaced. -/
def State.setVcmd (s : State) (k : Nat) (v : VCmd) : State :=
  s.modCell k (fun c => { c with vcmds := c.vcmds.map (fun o => if o.id = v.id then v else o) })

/-- The element accesses of a memory command, made once between its issue and its completion (R179): those of a gather that lie on other dies are asked for
first (R17); none while they have to wait. -/
def State.performMem (s : State) (k : Nat) (v : VCmd) : Option State :=
  let o := Owner.vector k v.id
  let n := tyBits v.ty / 8
  if !v.op.isMem || v.sent || v.bad.isSome then some s
  else if !s.elemsClear k v then none
  else if v.op = .vgather then
    let s0 := s.askElems k o n v.addrs
    if s0.asks.length ≠ s.asks.length then some s0
    else if !v.addrs.all (fun e => (s.readElem k o n e).isSome) then none
    else
      let (m, s1) := s.gatherAll k v
      some ((s1.dropAsks o).setVcmd k { v with sent := true, lost := m.lost, late := m.bad, writes := if m.lost.isSome || m.bad.isSome then [] else v.gatherWrites m.lanes })
  else
    let (m, s1) := s.scatterAll k v
    if m.full then none else some (s1.setVcmd k { v with sent := true, lost := m.lost, late := m.bad })

/-! ### Unguarded reads (R100) -/

/-- A row about to be read: a gather or a `vstatrd` that is writing it forms its row now, where it can, so that its lanes may be seen (R100, R179, R382). -/
def State.formRow (s : State) (k p : Nat) (skip : Nat) : State :=
  ((s.cellAt k).vcmds.filter (fun o => o.id != skip && o.started.isSome && decide (o.rows ≤ o.steps) && o.phys o.vd == p)).foldl (fun s o =>
    if o.op = .vgather then (s.performMem k o).getD s
    else if o.op = .vstatrd then s.modCell k (fun c => c.actStats o.id)
    else s) s

/-- A row as an unguarded read finds it: where a command in flight, an earlier step of the same one or a commit writes it, each lane is old or new
(R100, R356). -/
def State.readRow (s : State) (k : Nat) (v : VCmd) (reg : Nat) : Row × State :=
  let p := v.phys reg
  let s0 := s.formRow k p v.id
  s0.mixRow (max 8 (tyBits v.ty)) ((s0.cellAt k).row p)
    ((s0.cellAt k).vecWrites p (some v.id) ++ (v.writes.filter (fun x => x.row == p)).map (fun x => (x.val, x.bits)) ++ s0.commitOn k p)

/-! ### Start (R351, R353, R370) -/

/-- The masks that a command reads, by physical number, 16 for the stack. -/
def VCmd.masksRead (v : VCmd) : List Nat :=
  ((v.physMask v.maskNo) :: (if v.mstk || v.op.isStackOp then [16] else []) ++
   (match v.op with
    | .vmand | .vmor | .vmxor => [v.physMask (v.va % 16), v.physMask (v.vb % 16)]
    | .vmnot | .vmpush | .vmcnt => [v.physMask (v.va % 16)]
    | _ => [])).filter (· != 0)

/-- The masks that a command writes. -/
def VCmd.masksWritten (v : VCmd) : List Nat :=
  (match v.op with
   | .vcmp | .vmand | .vmor | .vmxor | .vmnot => [v.physMask (v.vd % 16)]
   | .vmpopm => 16 :: (if v.vd.testBit 4 then [v.physMask (v.vd % 16)] else [])
   | .vmpush | .vminv => [16]
   | .vscatc => [v.physMask (bits v.b 63 60)]
   | _ => []).filter (· != 0)

/-- Whether a command may start, the earlier incomplete ones given. -/
def VCmd.mayStart (v : VCmd) (earlier : List VCmd) : Bool :=
  (!v.fenced || earlier.isEmpty) && !earlier.any (fun e => e.masksWritten.any v.masksRead.contains)

/-- A mask written by number; m0 is never one. -/
def Cell.setMask (c : Cell) (n : Nat) (m : MaskBits) : Cell := { c with masks := NatMap.put 0 c.masks n m }

/-- The effects of a start on the cell (R370, R383), and what the command keeps of the masks and registers. -/
def VCmd.begin (v : VCmd) (now : Nat) (c : Cell) : VCmd × Cell :=
  let g := v.governing c
  let ma := c.maskOf (v.physMask (v.va % 16))
  let mb := c.maskOf (v.physMask (v.vb % 16))
  let v1 := { v with started := some now, mask := g, headSince := max v.issued c.vlast }
  let keep (m : MaskBits) : VCmd := { v1 with stat := m.zeroExtend 4096 }
  match v.op with
  | .vmand => (keep ((ma &&& mb) &&& g), c)
  | .vmor => (keep ((ma ||| mb) &&& g), c)
  | .vmxor => (keep ((ma ^^^ mb) &&& g), c)
  | .vmnot => (keep (~~~ ma &&& g), c)
  | .vmcnt =>
    let n := popBits (tyLanes v.ty) (ma &&& g).toNat
    ({ v1 with ctr := BitVec.ofNat 64 n }, c)
  | .vmpush =>
    let m := if v.mstk then ma &&& c.stackTop else ma
    ({ v1 with flags := if 16 ≤ c.mstack.length then 0x10 else 0 }, { c with mstack := (m :: c.mstack).take 16 })
  | .vminv =>
    match c.mstack with
    | [] => ({ v1 with flags := 0x20 }, c)
    | t :: rest => (v1, { c with mstack := (rest.headD (BitVec.allOnes 512) &&& ~~~ t) :: rest })
  | .vmpopm =>
    let c1 := { c with mstack := c.mstack.drop 1 }
    ({ v1 with flags := if c.mstack.isEmpty then 0x20 else 0 },
     if v.vd.testBit 4 then c1.setMask (v.physMask (v.vd % 16)) c.stackTop else c1)
  | .vrand => ({ v1 with old0 := c.vrkey, ctr := c.vrctr }, { c with vrctr := c.vrctr + 1 })
  | .vseed => (v1, { c with vrkey := v.b, vrctr := 0 })
  | _ => (v1, c)

/-- The first uncorrectable row among those a command will read, by the address that it reports (R132). -/
def VCmd.badRow (v : VCmd) (k : Nat) (c : Cell) : Option Word :=
  let acc := if v.op.isRed && bit v.b 0 && !v.qd then formRegs (v.op.formD v.b) false v.vd 0 else []
  let rows := (List.range v.rows).flatMap v.rowsRead ++ acc.map v.phys
  (rows.find? c.rowBad).map (c.rowBadAt k)

/-- The old lane 0 of a reduction that accumulates (R373); for a queue output the manual states none (log entry 6). -/
def State.readOld (s : State) (k : Nat) (v : VCmd) : VCmd × State :=
  if !(v.op.isRed && bit v.b 0) then (v, s)
  else if v.qd then ({ v with old0 := Config.unstated (v.a.toNat * 2 ^ 64 + v.b.toNat) }, s)
  else
    let w := tyBits v.ty
    let (r0, s1) := s.readRow k v v.vd
    if v.op = .vredsumx then
      let (r1, s2) := s1.readRow k v (v.vd + 1)
      ({ v with old0 := BitVec.ofNat 64 (laneAt w r0 0), old1 := BitVec.ofNat 64 (laneAt w r1 0) }, s2)
    else ({ v with old0 := BitVec.ofNat 64 (laneAt w r0 0) }, s1)

/-- The rows that a movement operation reads, all at its start, row va + k and vb + k of each of its independent steps (R372). -/
def State.captureRows (s : State) (k : Nat) (v : VCmd) : VCmd × State :=
  if !v.op.isMove then (v, s)
  else
    let get (f : Form) (q : Bool) (n : Nat) (s : State) : Row × State := if q || f = .none then (0, s) else s.readRow k v n
    let (l, s1) := (List.range v.rows).foldl (fun (l, s) j =>
      let (x, s1) := get (v.op.formA v.b) v.qa (v.va + j) s
      let (y, s2) := get v.op.formB v.qb (v.vb + j) s1
      (l ++ [(x, y)], s2)) (([] : List (Row × Row)), s)
    ({ v with ins := l }, s1)

/-! ### Row steps (R101, R102, R354) -/

/-- Rows of an output queue that commands in flight have reserved: those that push one row at completion. -/
def Cell.outReserved (c : Cell) (q : Nat) : Nat :=
  c.vcmds.countP (fun v => v.started.isSome && v.op.oneDest && decide (v.rows ≤ v.steps) && v.outQueue == some q)

/-- The operand queue that a step waits for, if it does (R102). -/
def Cell.stepWait (c : Cell) (v : VCmd) : Option Nat :=
  match v.pops.find? (fun q => decide ((c.vqRows q).length < v.pops.countP (· == q))) with
  | some q => some q
  | none =>
    match v.outQueue with
    | none => none
    | some q => if v.op.oneDest && v.steps + 1 < v.rows then none
                else if 8 ≤ (c.vqRows q).length + c.outReserved q then some q else none

/-- An operand: the head of its queue, or its register. -/
def State.operand (s : State) (k : Nat) (v : VCmd) (f : Form) (q : Bool) (n reg : Nat) : Row × State :=
  if q then
    let c := s.cellAt k
    match c.vqRows (n % 4) with
    | r :: _ => (r, s.setCell k (c.popVq (n % 4) s.cycle))
    | [] => (0, s)
  else if f = .none then (0, s)
  else s.readRow k v reg

/-- The operands of a step. -/
def State.operands (s : State) (k : Nat) (v : VCmd) (j : Nat) : VIn × State :=
  let fa := v.op.formA v.b
  let fb := v.op.formB
  let fc := if v.op = .vquant then Form.none else v.op.formC
  let at' (f : Form) (n : Nat) : Nat := if f = .pair then n + 2 * j else n + j
  if v.op.isMove then
    let (x, y) := v.ins.getD j (0, 0)
    let (x1, s1) := if v.qa then s.operand k v fa true v.va 0 else (x, s)
    let (y1, s2) := if v.qb then s1.operand k v fb true v.vb 0 else (y, s1)
    (⟨x1, 0, y1, 0, 0⟩, s2)
  else
  let (x, s1) := s.operand k v fa v.qa v.va (at' fa v.va)
  let (x2, s2) := if fa = .pair then s1.readRow k v (v.va + 2 * j + 1) else (0, s1)
  let (y, s3) := s2.operand k v fb v.qb v.vb (at' fb v.vb)
  let (y2, s4) := if fb = .pair then s3.readRow k v (v.vb + 2 * j + 1) else (0, s3)
  let (z, s5) := s4.operand k v fc v.qc v.vc (at' fc v.vc)
  (⟨x, x2, y, y2, z⟩, s5)

/-- The cycle from which the operand queues of the next step have its rows, and its output queue has room (R235). -/
def Cell.stepFrom (c : Cell) (v : VCmd) : Nat :=
  max (v.pops.foldl (fun t q => ((NatMap.get [] c.vqAt q).take (v.pops.countP (· == q))).foldl max t) 0) ((v.outQueue.map (NatMap.get 0 c.vqFree)).getD 0)

/-- Row steps from the next one on, until one must wait or all are done; t is the cycle from which the unit is free for the next. -/
def State.vecSteps (k : Nat) : Nat → State → VCmd → Nat → State × VCmd × Nat
  | 0, s, v, t => (s, v, t)
  | n + 1, s, v, t0 =>
    if v.rows ≤ v.steps || ((s.cellAt k).stepWait v).isSome then (s, v, t0)
    else
      let t := max t0 ((s.cellAt k).stepFrom v) + v.stepTime + v.bankX v.steps
      let (i, s1) := s.operands k v v.steps
      let (o, v1) := v.step v.steps i
      let v2 := { v1 with steps := v.steps + 1, flags := v.flags ||| o.flags }
      match v.outQueue with
      | some q =>
        if v.op.oneDest then
          State.vecSteps k n s1 { v2 with writes := v2.writes ++ o.out.map (fun (_, x) => ⟨1000 + q, x.1, x.2⟩) } t
        else
          let rows := if v.bad.isSome then [] else o.out.map (fun (_, x) => x.1)
          State.vecSteps k n (s1.modCell k (fun c => c.setVq q (c.vqRows q ++ rows))) v2 t
      | none => State.vecSteps k n s1 { v2 with writes := v2.writes ++ o.out.map (fun (r, x) => ⟨v.phys r, x.1, x.2⟩) } t

/-- Whether a command may start: out of its check slot (R107), the commands that it waits for done; at D2 the unit free. Its times run from its issue all
the same (R235, log entry 141). -/
def State.vecReady (s : State) (k : Nat) (v : VCmd) : Bool :=
  let c := s.cellAt k
  let earlier := c.vcmds.takeWhile (fun o => o.id != v.id)
  v.mayStart earlier && !v.inSlot && (s.levelOf k != 2 || decide (c.vfree ≤ s.cycle))

/-- VECTOR_COMMAND_START (R351, R235): the next command in issue order begins, or goes on with the row steps that it can take. At D2 its time runs from
its declared start, that of a later step from the cycle at which its rows or its room came. -/
def execVectorCommandStart (s : State) : Out :=
  let k := s.here
  let c := s.cellAt k
  match c.vcmds.find? (fun v => v.started.isNone || decide (v.steps < v.rows)) with
  | none => .next s
  | some v =>
    if v.started.isNone && !s.vecReady k v then .next s
    else
      let (v1, s1) :=
        if v.started.isSome then (v, s)
        else
          let (w, c1) := v.begin s.cycle c
          let w1 := { w with bad := w.bad.or (w.badRow k c) }
          let (w2, s1) := (s.setCell k { c1 with vlast := s.cycle }).readOld k w1
          s1.captureRows k w2
      let now := if s.levelOf k = 2 then 0 else s.cycle
      let from' := if v.started.isSome then max now c.vfree else if s.levelOf k = 2 then max (max v.issued c.vfree) v.after else now
      let (s2, v2, free) := State.vecSteps k v1.rows (s1.setVcmd k v1) v1 from'
      .next ((s2.setVcmd k { v2 with due := max (free + v.op.latency.1) (v.issued + 9) }).modCell k (fun c => { c with vfree := free }))

/-! ### Completion (R356) -/

/-- The bits of a row that a write sets, where other commands have written some of its lanes meanwhile: of two writes either may be the one that
stays (R100). -/
def State.keepBits (s : State) (w row : Nat) (b : Row) (clash : List (Nat × Row)) : Row × State :=
  (clash.filter (fun e => e.1 == row)).foldl (fun (m, s) e =>
    (m &&& ~~~ (e.2 &&& laneBits w (Config.laneMix s.free)), { s with free := s.free + 1 })) (b, s)

/-- Bits of a row have been written: the vector commands in flight that write it too are told. -/
def Cell.clashes (c : Cell) (skip : Option Nat) (row : Nat) (b : Row) : Cell :=
  { c with vcmds := c.vcmds.map (fun o =>
      if some o.id != skip && o.started.isSome && o.writes.any (fun y => y.row == row) then { o with clash := o.clash ++ [(row, b)] } else o) }

/-- One write of a completing command: to its output queue, or to a row. -/
def State.applyWrite (k : Nat) (v : VCmd) (acc : State × Option Word) (x : RowWrite) : State × Option Word :=
  let (s, bad) := acc
  if 1000 ≤ x.row then (s.modCell k (fun c => c.pushVq (x.row - 1000) (x.val &&& x.bits) s.cycle), bad)
  else
    let (m, s1) := s.keepBits (max 8 (tyBits v.ty)) x.row x.bits v.clash
    let (c1, b) := (s1.cellAt k).writeRow x.row x.val m
    ((s1.setCell k (c1.clashes (some v.id) x.row x.bits)).modQuad (quadOf k) (fun q => { q with cmds := q.cmds.map (fun (m : MCmd) =>
      if m.cell = k && 1 ≤ m.st && !m.tagged && writesTile m.op && decide (regionRow m.f 0 ≤ x.row) && decide (x.row < regionRow m.f (tM m.f))
      then { m with clash := m.clash ++ [(x.row, x.bits)] } else m) }), bad.or (b.map (fun wd => rowAddress k x.row (wd % 64))))

/-- The masks, flags and registers that a command sets at completion (R355 to R371, R379, R380). -/
def VCmd.applyRegs (v : VCmd) (c : Cell) : Cell :=
  let c1 := { c with flags := c.flags ||| v.flags }
  let m : MaskBits := v.stat.truncate 512
  match v.op with
  | .vcmp | .vmand | .vmor | .vmxor | .vmnot => c1.setMask (v.physMask (v.vd % 16)) m
  | .vscatc => if bits v.b 63 60 = 0 then c1 else c1.setMask (v.physMask (bits v.b 63 60)) v.foldedMask
  | .vmcnt =>
    let n := v.ctr.toNat
    let p := match bits v.b 4 3 with
      | 0 => n != 0
      | 1 => n == 0
      | _ => n == tyLanes v.ty
    { c1 with vcount := BitVec.ofNat 16 n, c := c1.c.setPred (bits v.b 2 0) p }
  | .visect => { c1 with vcount := BitVec.ofNat 16 v.ctr.toNat, vconsa := v.ctr.extractLsb' 16 16, vconsb := v.ctr.extractLsb' 32 16 }
  | .vcompress => { c1 with vcount := BitVec.ofNat 16 v.ctr.toNat }
  | _ => c1

/-- The command leaves the unit: its tokens are pushed, its predicate wait ends, VDONE counts; those that waited for it may start. -/
def VCmd.leave (v : VCmd) (now : Nat) (c : Cell) : Cell :=
  giveTokens now .C v.tokens { c with
    vcmds := (c.vcmds.filter (fun o => o.id != v.id)).map (fun (o : VCmd) =>
      if o.started.isNone && (o.fenced || v.masksWritten.any o.masksRead.contains) then { o with after := max o.after v.due } else o), vdone := c.vdone + 1,
    predWait := if v.op = .vmcnt then c.predWait.erase (bits v.b 2 0) else c.predWait }

/-- VECTOR_COMMAND_COMPLETE (R351, R356): a command that has begun all its rows completes, once every element that it writes is performed (R178, R179); an
uncorrectable word or a lost element raises its deferred trap (R132, R376). -/
def execVectorCommandComplete (s : State) : Out :=
  let k := s.here
  match (s.cellAt k).vcmds.find? (fun v => v.id == s.site.n) with
  | none => .next s
  | some v =>
    if v.started.isNone || v.steps < v.rows || s.notYet k v.due then .next s
    else
      match v.bad with
      | some ea => .next ((((s.noteLate k v.due 13).logOwn k ea 2).modCell k (fun c => v.leave s.cycle (c.actStats (if v.op.isStat then v.id else 0)))).deferred k tcUncorrectable .C v.pc ea)
      | none =>
        match s.performMem k v with
        | none => .next s
        | some s1 =>
          if (v.op.isMem && !((s1.cellAt k).vcmds.any (fun o => o.id == v.id && o.sent))) || s1.outstanding (.vector k v.id) then .next s1
          else
            let s2 := if v.op.isStat then (s1.noteLate k v.due 13).modCell k (fun c => c.actStats v.id) else s1.noteLate k v.due 13
            let v1 := (((s2.cellAt k).vcmds.find? (fun o => o.id == v.id)).getD v)
            let (s3, part) := v1.writes.foldl (State.applyWrite k v1) (s2, none)
            let s4 := ((part.map (fun ea => s3.logOwn k ea 2)).getD s3).modCell k (fun c => v1.leave s.cycle (v1.applyRegs c))
            match v1.late.or part, v1.lost with
            | some ea, _ => .next (s4.deferred k tcUncorrectable .C v.pc ea)
            | none, some ea => .next (s4.deferred k (if v.op = .vgather then tcLoad else tcStore) .C v.pc ea)
            | none, none => .next s4

end Sys2Proof.Machine
end

