-- ==== Sys2Proof/Machine/MatUnit.lean ====
section
/-! DEFINITION. The array of a quad as it works (R119, R124 to R130, R392 to R399, R428): commands start, are compared and
committed; drains leave the commit buffer by units; arbitration and rerun; raster walks. -/

namespace Sys2Proof.Machine

/-! ### The list of commands -/

/-- The state with a command changed. -/
def State.modCmd (s : State) (q : Nat) (c : MCmd) (g : MCmd → MCmd) : State :=
  s.modQuad q (fun x => { x with cmds := x.cmds.map (fun o => if o.same c then g o else o) })

/-- The state without a command: its locks are released. -/
def State.dropCmd (s : State) (q : Nat) (c : MCmd) : State := s.modQuad q (fun x => { x with cmds := x.cmds.filter (fun o => !o.same c) })

/-- The command that the array starts next: in issue order, never past a walk that has positions left (R119). -/
def nextToStart : List MCmd → Option MCmd
  | [] => none
  | c :: l => if c.op = 6 then (if c.walk.isEmpty then nextToStart l else none) else if c.st = 0 then some c else nextToStart l

/-- The commands before one. -/
def before (c : MCmd) : List MCmd → List MCmd
  | [] => []
  | o :: l => if o.same c then [] else o :: before c l

/-- Whether an earlier command has still to commit the tile that this one reads (R119). -/
def Quad.tileBusy (q : Quad) (c : MCmd) : Bool :=
  (readsC c.op || c.op == 5) &&
  (before c q.cmds).any (fun o => o.cell == c.cell && writesTile o.op && tTile o.f == tTile c.f && decide (o.st < 3))

/-- The tile of a command among those of its quad. -/
def MCmd.tileKey (c : MCmd) : Nat := 4 * (c.cell % 4) + tTile c.f

/-- The start that R237 declares. -/
def Quad.declaredStart (q : Quad) (c : MCmd) : Nat :=
  max (max c.issued q.nextStart) (if readsC c.op || c.op == 5 then NatMap.get 0 q.commits c.tileKey else 0)

/-! ### The staging halves (R119, R129) -/

/-- A staging half with a result in it, byte 0 first; what lies beyond the result stays. -/
def fillHalf (old bs : List Byte) : List Byte := bs ++ old.drop bs.length

/-- The uncorrectable words of a staging buffer that a result of n bytes in a half does not write whole (R425). -/
def keepBad (half : Bool) (n : Nat) (l : List Nat) : List Nat :=
  l.filter (fun w => (decide (8192 ≤ w) != half) || decide (n < 8 * (w % 8192) + 8))

/-- The first command that waits at the end of its pipeline for a staging half. -/
def Quad.unstaged (q : Quad) : Option MCmd := q.cmds.find? (fun c => c.op != 6 && c.op != 5 && c.st == 1 && !c.bad && c.half.isNone)

/-- The next result written into a free half of both paths' staging buffers, if there is one: the halves serve in turn. -/
def Quad.stage (q : Quad) : Quad :=
  match q.unstaged, [q.half, !q.half].find? (fun h => !q.cmds.any (fun c => c.half == some h)) with
  | some c, some h =>
    let y := { q with half := !h, cmds := q.cmds.map (fun (o : MCmd) => if o.same c then { o with half := some h } else o),
                      badMain := keepBad h c.main.length q.badMain, badMirr := keepBad h c.mirror.length q.badMirr }
    if h then { y with stageMain1 := fillHalf q.stageMain1 c.main, stageMirr1 := fillHalf q.stageMirr1 c.mirror }
    else { y with stageMain := fillHalf q.stageMain c.main, stageMirr := fillHalf q.stageMirr c.mirror }
  | _, _ => q

/-- Both halves offered to the commands that wait for one. -/
def State.restage (s : State) (q : Nat) : State := s.modQuad q (fun x => x.stage.stage)

/-- The uncorrectable word that a result meets in its staging half (R132). -/
def Quad.stageBad (q : Quad) (c : MCmd) : Option Nat :=
  match c.half with
  | none => none
  | some h => q.badMain.find? (fun w => decide (8192 ≤ w) == h && decide (8 * (w % 8192) < c.main.length))

/-! ### Completion (R119, R132, R399) -/

/-- The tag, the tokens and the counter of a command, in this order. -/
def State.signalDone (s : State) (c : MCmd) (status : BitVec 3) (ctr : Bool) : State :=
  if (s.cellAt c.cell).stop = some .machineCheck then s
  else
  let s1 := s.modCell c.cell (fun x => giveTokens s.cycle .C c.tokens (if c.noTag then x else x.setTag c.tag.toNat status))
  if ctr && fCtrEn c.f && status = 0 then
    s1.sendInc c.cell (s.userOf c.cell) (fCid c.f) 1 (foldWord 3 s.pkgId.toNat (c.cell / 64) (c.cell % 64) c.entry)
  else s1

/-- The walk that a command belongs to. -/
def Quad.walkOf (q : Quad) (c : MCmd) : Option MCmd := q.cmds.find? (fun o => o.op == 6 && o.cell == c.cell && some o.id == c.ofWalk)

/-- A walk with no position left completes (R398): its locks are released, the drained bytes that they held leave, and then come the tag and the tokens,
not before the bytes that another command's locks hold have left too (R178, R179). -/
def State.endWalk (s : State) (q : Nat) (h : MCmd) : State :=
  match (s.quadAt q).cmds.find? (fun o => o.same h) with
  | none => s
  | some w =>
    let held := (s.cellAt w.cell).cbuf.any (fun e => e.2.kind == 1 && w.owed.any (fun x => x.2.2 == e.2.cmd) &&
      (s.quadAt q).cmds.any (fun o => o.cell == w.cell && !o.same w && o.locks.contains e.2.word))
    if !w.walk.isEmpty || held || (s.quadAt q).cmds.any (fun o => o.cell == w.cell && o.ofWalk == some w.id && !o.tagged) then s
    else
      let s1 := (s.modCmd q w (fun o => { o with locks := [] })).letGo w.cell
      match (s1.quadAt q).cmds.find? (fun o => o.same h) with
      | some x => if x.owed.isEmpty then (s1.signalDone x (if x.bad then 2 else 0) false).dropCmd q x else s1
      | none => s1

/-- A cell without the drain stores of commands that will not run. -/
def Cell.dropDrains (c : Cell) (gone : List Nat) : Cell := { c with cbuf := c.cbuf.filter (fun e => !(e.2.kind == 1 && gone.contains e.2.cmd)) }

/-- What a walk does when one of its positions is done: after an uncorrectable word no later position runs (R399). -/
def State.positionDone (s : State) (q : Nat) (c : MCmd) (status : BitVec 3) : State :=
  match (s.quadAt q).walkOf c with
  | none => s
  | some h =>
    let of (o : MCmd) : Bool := o.cell == h.cell && o.ofWalk == some h.id && !o.tagged
    let gone := ((s.quadAt q).cmds.filter of).map (fun o => o.id)
    let s1 := if status = 0 then s
      else ((s.modCell h.cell (fun x => x.dropDrains gone)).modQuad q (fun x => { x with cmds := x.cmds.filter (fun o => !of o) })).modCmd q h
        (fun o => { o with walk := [], bad := true })
    s1.endWalk q h

/-- A quad takes new commands again once no command is under arbitration or waits for its rerun (R125). -/
def State.settleArb (s : State) (q : Nat) : State := s.modQuad q (fun x => { x with arb := x.cmds.any (fun o => o.st == 2 || !o.reruns.isEmpty) })

/-- A place in the quad given up at a declared cycle (R119). -/
def State.giveUp (s : State) (q at' : Nat) : State := s.modQuad q (fun x => { x with left := (at' :: x.left).take 16 })

/-- A command leaves the quad. -/
def State.finishCmd (s : State) (q : Nat) (c : MCmd) (status : BitVec 3) (ctr : Bool) : State :=
  let at' := if s.levelOf c.cell = 2 && c.st != 2 then c.due + (if c.op = 5 then 0 else tM c.f) else s.cycle
  ((((((s.signalDone c status ctr).dropCmd q c).giveUp q at').settleArb q).restage q).letGo c.cell).positionDone q c status

/-- A command that has been settled by arbitration: done for its cell, it stays for its reruns with its locks, those of its walk for a position (R125). -/
def State.settleCmd (s : State) (q : Nat) (c : MCmd) (status : BitVec 3) (ctr : Bool) (done : Nat) : State :=
  let locks := (((s.quadAt q).walkOf c).map (fun h => h.locks)).getD c.locks
  ((((s.signalDone c status ctr).modCmd q c (fun o => { o with st := 3, tagged := true, locks := locks, half := none, arbAt := done })).giveUp q done).restage q).positionDone q c status

/-! ### Start (R119, R237, R392) -/

/-- The lease's idle count starts again as a command of the holder leaves the wait at the array (R75, R77). -/
def Quad.noteWaiting (q : Quad) (cell cycle : Nat) : Quad :=
  if q.held && q.holder.toNat == cell % 4 then { q with idleSince := cycle } else q

/-- The command of an operation that may start now, with its start as declared at D2 and as it is otherwise. -/
def State.mayStart (s : State) (q op : Nat) : Option (MCmd × Nat) :=
  let x := s.quadAt q
  match nextToStart x.cmds with
  | none => none
  | some c =>
    let d2 := s.levelOf c.cell = 2
    let at' := x.declaredStart c
    if c.op ≠ op || c.inSlot || x.arb || x.tileBusy c || (d2 && s.cycle < at') then none
    else some (c, if d2 then at' else s.cycle)

/-- The quad after a start: the array is free again after the interval, the walk of a first position is at the head, and a transient fault has acted. -/
def Quad.started (q : Quad) (c : MCmd) (at' cycle : Nat) : Quad :=
  let q1 := { (q.noteWaiting c.cell cycle) with nextStart := at' + intervalOf c.f c.fmt, lastStart := cycle, cmds := q.cmds.map (fun (o : MCmd) =>
    if o.op = 6 && o.cell = c.cell && some o.id == c.ofWalk && o.headSince = 0 then { o with headSince := max o.issued q.lastStart } else o) }
  if q.transient then { q1 with mainXor := [], mirrXor := [], convMainXor := [], convMirrXor := [], transient := false } else q1

/-- What a path makes of a result: the deviations of a path in service lie over it. -/
def Quad.runOf (q : Quad) (bytes : List Byte) (p : List (Nat × Byte)) : List Byte := if q.oos then bytes else withFaults p bytes

/-- A command about to read its operands and the tile: where an uncorrectable word withholds them, the state with its event (R132). -/
def State.meetBad (s : State) (c : MCmd) (reads : Bool) : Option State :=
  let k := c.cell
  let op := if c.op = 5 then none else ((s.asIssued k).fetches k c.f c.fmt).findSome? (fun p => s.badWords.find? (eccTouches (spAddr k p.1) p.2))
  match op, (if reads then (s.cellAt k).regionBad c.f c.fmt true else none) with
  | some a, _ => some (s.logBad k a 3)
  | none, some w => some (s.logOwn k (rowAddress k (w / 64) (w % 64)) 3)
  | none, none => none

/-- What a command finds in its tile: each lane that a vector command is writing is old or new (R100, R120). The view, and the state after. -/
def State.regionView (s : State) (c : MCmd) : State × State :=
  let k := c.cell
  if !(readsC c.op || c.op == 5) || (s.cellAt k).vcmds.all (fun o => o.started.isNone) then (s, s)
  else
    let (rows, s1) := (List.range (tM c.f)).foldl (fun (rows, s) i =>
      let p := regionRow c.f i
      let s0 := s.formRow k p (s.cellAt k).nextId
      let (r, s1) := s0.mixRow (8 * accBytes c.fmt) ((s0.cellAt k).row p) ((s0.cellAt k).vecWrites p none)
      (NatMap.put 0 rows p r, s1)) ((s.cellAt k).rows, s)
    (s1.modCell k (fun x => { x with rows := rows }), s1)

/-- What the arbiter path computes for a command: its result, or the bytes of a drain. -/
def State.arbiterBytes (s : State) (c : MCmd) : List Byte × State :=
  let (v, s1) := s.regionView c
  (if c.op = 5 then (c.drainOut ((v.cellAt c.cell).regionRows c.f c.fmt)).1.map (·.2) else v.matrixBytes c, s1)

/-- A command other than a drain starts: both paths form its results (R111, R112), from one read of c for every lane and both paths (DESIGN CHOICE, log
entry 131), and write them into a free staging half. -/
def State.startMatrix (s : State) (op : Nat) : Out :=
  let q := quadKey s.site.die s.site.quad
  match s.mayStart q op with
  | none => .next s
  | some (c, at') =>
    let x := s.quadAt q
    let begun (main mirror : List Byte) (bad : Bool) (s : State) : State :=
      (s.modCmd q c (fun o => { o with st := 1, start := at', headSince := max c.issued x.lastStart, bad := bad, main := main, mirror := mirror,
                                       due := at' + pathOf c.f c.fmt 0 1 + 8 })).modQuad q (fun y => y.started c at' s.cycle)
    match s.meetBad c (readsC op) with
    | some s1 => .next (begun [] [] true s1)
    | none =>
      let (bytes, s1) := s.arbiterBytes c
      .next ((begun (x.runOf bytes x.mainXor) (x.runOf bytes x.mirrXor) false s1).restage q)

/-- `mma` starts. -/
def execMma (s : State) : Out := s.startMatrix 0
/-- `mmaz` starts. -/
def execMmaz (s : State) : Out := s.startMatrix 1
/-- `mmabsr` starts. -/
def execMmabsr (s : State) : Out := s.startMatrix 2
/-- `mmaseed` starts. -/
def execMmaseed (s : State) : Out := s.startMatrix 3
/-- `mhad` starts. -/
def execMhad (s : State) : Out := s.startMatrix 4
/-- `mzero` starts. -/
def execMzero (s : State) : Out := s.startMatrix 7
/-- `mload` starts. -/
def execMload (s : State) : Out := s.startMatrix 8

/-! ### Release units of a drain (R428) -/

/-- The 64-byte words that a drain writes, its signature word among them, in ascending order. -/
def MCmd.drainWords (c : MCmd) : List Nat :=
  sortBy (fun a b => decide (a ≤ b)) ((c.dests.map (· / 64) ++ (if tSigen c.f then [tSiga c.f / 64] else [])).eraseDups)

/-- The number of units. -/
def MCmd.units (c : MCmd) : Nat := max 1 (cdiv c.drainWords.length 512)

/-- The words of a unit, 512 consecutive ones (R428). -/
def MCmd.unitWords (c : MCmd) (u : Nat) : List Nat := (c.drainWords.drop (512 * u)).take 512

/-- The elements whose bytes lie in a unit (R428). -/
def MCmd.unitElements (c : MCmd) (u : Nat) : Nat :=
  if c.units = 1 then tM c.f * tN c.f
  else
    let ws := c.unitWords u
    let b := mfBits (dType c.f c.fmt)
    (List.range (tM c.f)).foldl (fun n i => n + (List.range (tN c.f)).countP (fun j =>
      ws.contains ((tDst c.f + i * tDstride c.f + j * b / 8) / 64) || ws.contains ((tDst c.f + i * tDstride c.f + (j * b + b - 1) / 8) / 64))) 0

/-- The bytes of a unit in ascending address, taken from a converter's bytes; those of the stored signature are not among them (DESIGN CHOICE, log entry
132). -/
def MCmd.unitBytes (c : MCmd) (u : Nat) (bs : List Byte) : List (Nat × Byte) :=
  let ws := c.unitWords u
  sortedBytes ((c.dests.zip bs).filter (fun x => ws.contains (x.1 / 64)))

/-- Bytes at offsets, packed into one word's data. -/
def packWord (l : List (Nat × Byte)) : BitVec 64 × BitVec 512 :=
  l.foldl (fun (m, d) (a, b) =>
    let i := a % 64
    (m ||| BitVec.ofNat 64 (2 ^ i), (d &&& ~~~ BitVec.ofNat 512 (255 * 2 ^ (8 * i))) ||| BitVec.ofNat 512 (b.toNat * 2 ^ (8 * i)))) (0, 0)

/-- The bytes of the stored signature, once known (R130). -/
def MCmd.sigBytes (c : MCmd) : List (Nat × Byte) :=
  if tSigen c.f then (leBytes 8 (crc64 crcInit c.main).toNat).zipIdx.map (fun (b, i) => (tSiga c.f + i, b)) else []

/-- Whether the current unit of a drain stands in the commit buffer, and whether any of its stores do. -/
def State.unitPlaced (s : State) (c : MCmd) : Bool := (s.cellAt c.cell).cbuf.any (fun e => e.2.kind == 1 && e.2.sig && e.2.cmd == c.id)
def State.unitHeld (s : State) (c : MCmd) : Bool := (s.cellAt c.cell).cbuf.any (fun e => e.2.kind == 1 && e.2.cmd == c.id)

/-- The bytes that a unit stores: of the drain, and with the last those of the signature (R130). -/
def MCmd.unitStores (c : MCmd) : List (Nat × Byte) := c.unitBytes c.unit c.main ++ (if c.unit + 1 = c.units then c.sigBytes else [])

/-- The words that a unit stores into. -/
def MCmd.storeWords (c : MCmd) : List Nat := sortBy (fun a b => decide (a ≤ b)) (c.unitStores.map (fun b => b.1 / 64)).eraseDups

/-- A unit placed in the entries reserved for drains, if enough are free and the previous unit has left (R123, R428). The signature goes with the last
unit wherever its word sorts (R130); where that unit fills all 512 entries the signature takes one of the others (log entry 146). -/
def State.placeUnit (s : State) (c : MCmd) : State :=
  let x := s.cellAt c.cell
  let bs := c.unitStores
  let ws := c.storeWords
  let free := (List.range (if ws.length ≤ 512 then 512 else 1024)).filter (fun e => !x.cbuf.any (fun y => y.1 == e))
  if s.unitHeld c || free.length < ws.length then s
  else
    s.setCell c.cell ((free.zip ws).foldl (fun (y : Cell) ((e, w) : Nat × Nat) =>
      let (m, d) := packWord (bs.filter (fun b => b.1 / 64 == w))
      { y with cbuf := NatMap.ins y.cbuf e { word := w, kind := 1, sig := true, lock := s.locked c.cell w, mask := m, data := d,
                                             order := y.nextOrder, cmd := c.id } }) x)

/-- A unit's signatures agree, or the arbiter has settled it: its stores leave as their locks allow, the signature word with the last
(R130). c holds the bytes that are released as its main bytes. -/
def State.releaseUnit (s : State) (c : MCmd) : State :=
  let bs := c.unitStores
  (s.modCell c.cell (fun x => { x with cbuf := x.cbuf.map (fun (e, h) =>
    if h.kind = 1 && h.sig && h.cmd = c.id then
      let (m, d) := packWord (bs.filter (fun b => b.1 / 64 == h.word))
      (e, { h with sig := false, mask := m, data := d })
    else (e, h)) })).letGo c.cell

/-- `mdrain` starts: both converters read one copy of the region (R396). -/
def execMdrain (s : State) : Out :=
  let q := quadKey s.site.die s.site.quad
  match s.mayStart q 5 with
  | none => .next s
  | some (c, at') =>
    let x := s.quadAt q
    let c1 := { c with st := 1, start := at', headSince := max c.issued x.lastStart }
    let begun (c2 : MCmd) (s : State) : State := (s.modCmd q c (fun _ => c2)).modQuad q (fun y => y.started c at' s.cycle)
    match s.meetBad c true with
    | some s1 => .next (begun { c1 with bad := true, due := at' + pathOf c.f c.fmt 0 1 } s1)
    | none =>
      let (v, s1) := s.regionView c
      let (out, fl) := c.drainOut ((v.cellAt c.cell).regionRows c.f c.fmt)
      let bytes := out.map (fun (x : Nat × Byte) => x.2)
      let c2 := { c1 with main := x.runOf bytes x.convMainXor, mirror := x.runOf bytes x.convMirrXor, dests := out.map (fun (x : Nat × Byte) => x.1), flags := fl }
      let c3 := { c2 with due := at' + pathOf c.f c.fmt out.length c2.units }
      .next ((begun c3 s1).placeUnit c3)

/-! ### Compare and commit (R119, R125) -/

/-- One row of a result written into its tile, but for a word that it covers in part and that is uncorrectable, which is answered (R425); of the lanes
that a vector command has written meanwhile either write may stay (R100). -/
def State.commitRow (c : MCmd) (bs : List Byte) (acc : State × Option Nat) (i : Nat) : State × Option Nat :=
  let p := regionRow c.f i
  let (v, b) := c.resultRow bs i
  let (m, s1) := acc.1.keepBits (8 * accBytes c.fmt) p b c.clash
  let (x, bad) := (s1.cellAt c.cell).writeRow p v m
  (s1.setCell c.cell (x.clashes none p b), acc.2.or bad)

/-- Results written into the tile, at a cycle; the status of the command, 2 where a word could not be written (R425). -/
def State.commitBytes (s : State) (q : Nat) (c : MCmd) (bs : List Byte) (at' : Nat) : State × BitVec 3 :=
  let (s1, bad) := (List.range (tM c.f)).foldl (State.commitRow c bs) (s, none)
  let s2 := s1.modQuad q (fun x => { x with commits := NatMap.put 0 x.commits c.tileKey at' })
  match bad with
  | some w => (s2.logOwn c.cell (rowAddress c.cell (w / 64) (w % 64)) 3, 2)
  | none => (s2, 0)

/-- A mismatch: the quad takes no new command until it is settled (R125). At D2 the arbitration counts from the declared compare. -/
def State.dispute (s : State) (q : Nat) (c : MCmd) (due : Nat) : State :=
  (s.modCmd q c (fun _ => { c with st := 2, arbAt := if s.levelOf c.cell = 2 then due else s.cycle })).modQuad q (fun x => { x with arb := true })

/-- A result that cannot be committed: an uncorrectable word of its staging half (R132), or, where the array is out of service, what the arbiter finds as
it reads the operands again; the state with the event. -/
def State.commitBad (s : State) (q : Nat) (c : MCmd) : Option State :=
  if (s.quadAt q).oos then s.meetBad c (readsC c.op || c.op == 5)
  else ((s.quadAt q).stageBad c).map (fun w => s.logOwn c.cell (BitVec.ofNat 64 (q / 16 * 2 ^ 43 + 2 ^ 40 + q % 16 * 2 ^ 34 + 0x10000 + 8 * w)) 3)

/-- Whether a settled command's rerun is still to come: no other is compared before it (R125). -/
def Quad.rerunning (q : Quad) : Bool := q.cmds.any (fun c => c.st == 3)

/-- COMMAND_COMPARE (R119, R132). In an array out of service the arbiter alone computes the command (R127). -/
def execCommandCompare (s : State) : Out :=
  let q := quadKey s.site.die s.site.quad
  let x := s.quadAt q
  match x.head with
  | none => .next s
  | some c0 =>
    let tag := c0.due + tM c0.f
    if c0.st ≠ 1 || c0.op = 5 || x.rerunning || s.notYet c0.cell c0.due then .next s
    else if c0.bad then (if s.notYet c0.cell tag then .next s else .next (s.finishCmd q c0 2 false))
    else if c0.half.isNone && !x.oos then .next (s.restage q)
    else
      match s.commitBad q c0 with
      | some s1 => if s.notYet c0.cell tag then .next s else .next (s1.finishCmd q c0 2 false)
      | none =>
        let (c, s0) := if x.oos then (let (b, s1) := s.arbiterBytes c0; ({ c0 with main := b, mirror := b }, s1)) else (c0, s)
        if crc64 crcInit c.main = crc64 crcInit c.mirror then
          (if s.notYet c.cell tag then .next s
           else
             let (s1, st) := (s0.noteLate c.cell tag 13).commitBytes q c c.main (if s.levelOf c.cell = 2 then tag else s.cycle)
             .next (s1.finishCmd q c st true))
        else .next (s.dispute q c c.due)

/-- The last unit of a drain has been released: it completes once its stores have left, with status 2 where one met an uncorrectable word (R425), and
stays for the reruns of its units (R413). A position of a walk does not wait for them, since the walk itself may lock their words: what follows them is
owed until they have left (R398). -/
def State.drainEnd (s : State) (q : Nat) (c : MCmd) (done : Nat) : State :=
  let part := (s.quadAt q).cmds.any (fun o => o.same c && o.part)
  let s1 := s.modCell c.cell (fun x => { x with flags := x.flags ||| c.flags })
  let finish (s : State) (st : BitVec 3) (ctr : Bool) : State := if c.reruns.isEmpty then s.finishCmd q c st ctr else s.settleCmd q c st ctr done
  match s.unitHeld c, (s.quadAt q).walkOf c with
  | true, none => s
  | true, some h =>
    if part then finish s1 2 false
    else finish (s1.modCmd q h (fun o => { o with owed := o.owed ++ [(c.entry, if fCtrEn c.f then some (fCid c.f) else none, c.id)] })) 0 false
  | false, _ => finish s1 (if part then 2 else 0) (!part)

/-- The cycle at which a unit's signatures are compared at D2 (R428). -/
def MCmd.unitDue (c : MCmd) : Nat := c.due - (c.units - 1 - c.unit) * 520

/-- Bytes with those of a unit replaced. -/
def MCmd.mergeUnit (c : MCmd) (bs : List Byte) : List Byte :=
  let ws := c.unitWords c.unit
  ((c.dests.zip c.main).zip bs).map (fun (x, b) => if ws.contains (x.1 / 64) then b else x.2)

/-- DRAIN_UNIT_COMPARE (R428). -/
def execDrainUnitCompare (s : State) : Out :=
  let q := quadKey s.site.die s.site.quad
  let x := s.quadAt q
  match x.head with
  | none => .next s
  | some c0 =>
    if c0.op ≠ 5 || c0.st ≠ 1 || x.rerunning then .next s
    else if c0.bad then (if s.notYet c0.cell c0.due then .next s else .next (s.finishCmd q c0 2 false))
    else if c0.units ≤ c0.unit then .next (s.drainEnd q c0 s.cycle)
    else if !s.unitPlaced c0 then .next (s.placeUnit c0)
    else if s.notYet c0.cell c0.unitDue then .next s
    else if let some s1 := (if x.oos then s.meetBad c0 true else none) then
      .next ((s1.modCell c0.cell (fun y => y.dropDrains [c0.id])).finishCmd q c0 2 false)
    else
      let (c, s0) := if x.oos then (let (b, s1) := s.arbiterBytes c0; ({ c0 with main := c0.mergeUnit b, mirror := c0.mergeUnit b }, s1)) else (c0, s)
      if crc64 crcInit ((c.unitBytes c.unit c.main).map (·.2)) = crc64 crcInit ((c.unitBytes c.unit c.mirror).map (·.2)) then
        let c1 := { c with unit := c.unit + 1 }
        let s2 := (s0.modCmd q c (fun _ => c1)).releaseUnit c
        if c1.unit < c1.units then .next (s2.placeUnit c1)
        else .next ((s2.noteLate c.cell c.due 13).drainEnd q c1 (if s.levelOf c.cell = 2 then c.due else s.cycle))
      else .next (s.dispute q c c.unitDue)

/-! ### Arbitration (R124 to R128) -/

/-- Which paths the arbiter accuses: 1 main, 2 mirror, 3 both (R125). -/
def accuse (arb main mirror : Word) : Nat := (if arb = main then 0 else 1) + (if arb = mirror then 0 else 2)

/-- An arbitration counted with the cycles that it took (R125, R128). -/
def State.countArb (s : State) (q : Nat) (c : MCmd) (who cost : Nat) : State :=
  let s1 := s.modQuad q (fun x => { x with arbcnt := x.arbcnt + 1, accused := BitVec.ofNat 2 who, bothcnt := if who = 3 then satInc x.bothcnt else x.bothcnt })
  match (s.cellAt c.cell).bound with
  | some b => s1.corrected b.launch cost
  | none => s1

/-- The cycles that the arbiter takes (R124, R413, R428). -/
def State.arbCycles (s : State) (c : MCmd) : Nat :=
  cdiv (if c.op = 5 then c.unitElements c.unit else s.products c) 16 + 64 + (if c.op = 5 && fmtHad c.fmt ≠ 0 then 128 else 0)

/-- The cycles of a rerun: a path's normal latency, a converter's for the region or a unit of it (R125, R413). -/
def MCmd.rerunCycles (c : MCmd) : Nat :=
  if c.op = 5 then cdiv (c.unitElements c.unit * accBytes c.fmt) 64 + 2 * cdiv (c.unitBytes c.unit c.main).length 64 else pathOf c.f c.fmt 0 1

/-- ARBITRATION_DONE (R124 to R126, R132, R428): after the arbiter's time its result stands; a drain goes on with its next unit, and the reruns follow the
tag (R413). An operand that the arbiter cannot read ends the command with status 2 and accuses no path. -/
def execArbitrationDone (s : State) : Out :=
  let q := quadKey s.site.die s.site.quad
  match (s.quadAt q).cmds.find? (fun c => c.st == 2) with
  | none => .next s
  | some c =>
    let n := s.arbCycles c
    let tag := c.arbAt + n + (if c.op = 5 then 0 else tM c.f)
    if s.cycle < tag then .next s
    else
      let done := if s.levelOf c.cell = 2 then tag else s.cycle
      match s.meetBad c (readsC c.op || c.op == 5) with
      | some s1 => .next ((s1.modCell c.cell (fun x => x.dropDrains [c.id])).finishCmd q c 2 false)
      | none =>
        let (bs, s0) := (s.noteLate c.cell tag 13).arbiterBytes c
        let settled (who : Nat) : MCmd := { c with arbiter := bs, reruns := c.reruns ++ [⟨c.unit, who, n⟩], arbAt := done }
        if c.op = 5 then
          let crc (l : List Byte) : Word := crc64 crcInit ((c.unitBytes c.unit l).map (·.2))
          let who := accuse (crc bs) (crc c.main) (crc c.mirror)
          let c1 := { settled who with main := c.mergeUnit bs, unit := c.unit + 1, st := 1, due := c.due + n }
          let s2 := ((s0.countArb q c who n).modCmd q c (fun _ => c1)).releaseUnit { c1 with unit := c.unit }
          if c1.unit < c1.units then .next (s2.placeUnit c1) else .next (s2.drainEnd q c1 done)
        else
          let who := accuse (crc64 crcInit bs) (crc64 crcInit c.main) (crc64 crcInit c.mirror)
          let (s2, st) := ((s0.countArb q c who n).modCmd q c (fun _ => settled who)).commitBytes q c bs done
          .next (s2.settleCmd q (settled who) st true done)

/-- The array leaves service (R127, R78): no lease, no request. -/
def State.arrayOut (s : State) (q : Nat) : State :=
  s.modQuad q (fun x => { x with oos := true, held := false, req := 0, acq := 0, reqOrder := [] })

/-- A path's fault as its rerun shows it: transient or persistent (R125, R126). -/
def Quad.judge (q : Quad) (drain : Bool) (who : Nat) (mainOk mirrOk : Bool) : Quad :=
  let m := who % 2 == 1
  let r := decide (2 ≤ who)
  if drain then
    { q with convMain := if m && mainOk then satInc q.convMain else q.convMain, convMirr := if r && mirrOk then satInc q.convMirr else q.convMirr,
             convPersA := q.convPersA || (m && !mainOk), convPersB := q.convPersB || (r && !mirrOk) }
  else
    { q with mainTrans := if m && mainOk then satInc q.mainTrans else q.mainTrans, mirrTrans := if r && mirrOk then satInc q.mirrTrans else q.mirrTrans,
             mainPers := q.mainPers || (m && !mainOk), mirrPers := q.mirrPers || (r && !mirrOk) }

/-- The cycle at which a rerun ends at D2: it starts when the array holds no other command that computes (R125). -/
def Quad.rerunEnd (q : Quad) (c : MCmd) (n : Nat) : Nat := (q.cmds.filter (fun o => o.st == 1)).foldl (fun t o => max t (o.due - 8)) c.arbAt + n

/-- RERUN_DONE (R125 to R128): the accused paths compute the oldest disputed unit again; after the last the locks are released, the quad accepts commands
and compares the next. -/
def execRerunDone (s : State) : Out :=
  let q := quadKey s.site.die s.site.quad
  let x := s.quadAt q
  match x.cmds.find? (fun c => c.st == 3) with
  | none => .next s
  | some c =>
    match c.reruns with
    | [] => .next s
    | r :: rest =>
      let drain := c.op == 5
      let c' := { c with unit := r.unit }
      let n := c'.rerunCycles
      let last := x.rerunEnd c n
      if s.cycle < last then .next s
      else
        let crc (l : List Byte) : Word := if drain then crc64 crcInit ((c'.unitBytes r.unit l).map (·.2)) else crc64 crcInit l
        let mainOk := crc (withFaults (if drain then x.convMainXor else x.mainXor) c.arbiter) == crc c.arbiter
        let mirrOk := crc (withFaults (if drain then x.convMirrXor else x.mirrXor) c.arbiter) == crc c.arbiter
        let pers := (r.accused % 2 == 1 && !mainOk) || (decide (2 ≤ r.accused) && !mirrOk)
        let d2 := s.levelOf c.cell = 2
        let s1 := s.modQuad q (fun y => { (y.judge drain r.accused mainOk mirrOk) with
          nextStart := if d2 then max y.nextStart last else y.nextStart,
          cmds := y.cmds.map (fun (o : MCmd) => if o.st = 1 && d2 then { o with due := max o.due last } else o) })
        let s2 := s1.bboxQuad q c.cell 0x05 r.accused (BitVec.ofNat 64 (r.cost + n)) (if pers then 1 else 0)
        let s3 := if pers then (s2.arrayOut q).replaceAll else s2
        if rest.isEmpty then .next (((s3.dropCmd q c).settleArb q).letGo c.cell)
        else .next (s3.modCmd q c (fun o => { o with reruns := rest, arbAt := last }))

/-! ### Raster walks (R397, R398) -/

/-- A position's fields: its operation, A and B moved to its row and column block, the tile, the drain's destination and the counter. -/
def walkFields (h : MCmd) (drain : Bool) (q : Nat) (w : Word) : List Word :=
  let f := h.f
  let field (i : Nat) : Word :=
    match i with
    | 0 => if drain then 5 else 1
    | 1 => if drain then 0 else BitVec.ofNat 64 ((tEaddr f 1 + rTi w * tM f * tEstride f 5) % 2 ^ 22 +
             (if mfHead (fmtA h.fmt) = 0 then 0 else (tXaddr f 1 + rTi w * tM f * tXstride f 5) % 2 ^ 22) * 2 ^ 22)
    | 2 => if drain then 0 else BitVec.ofNat 64 ((tEaddr f 2 + rTj w * tN f * tEstride f 6) % 2 ^ 22 +
             (if mfHead (fmtB h.fmt) = 0 then 0 else (tXaddr f 2 + rTj w * tN f * tXstride f 6) % 2 ^ 22) * 2 ^ 22)
    | 3 => BitVec.ofNat 64 ((tTile f ^^^ (q % 2)) + tRow0 f * 4 + tCol0 f * 512)
    | 9 => if drain then
             BitVec.ofNat 64 ((drainBase f h.fmt (rTi w) (rTj w)).1 + (tSiga f / 8 + q) % 2 ^ 19 * 2 ^ 22 + (if tSigen f then 2 ^ 41 else 0))
           else 0
    | 10 => if drain then
              BitVec.ofNat 64 (dType f h.fmt + dRnd f h.fmt * 16 + (if dSat f h.fmt then 128 else 0) + 256 +
                (drainBase f h.fmt (rTi w) (rTj w)).2 % 2 ^ 22 * 2 ^ 10 + tDstride f * 2 ^ 32 + tXdstride f * 2 ^ 52)
            else 0
    | 11 => 0
    | 12 => if drain && fCtrEn f then
              BitVec.ofNat 64 (2 ^ 14 + bits (fld f 12) 13 10 * 1024 + (bits (fld f 12) 9 0 + rPeer w) % 1024)
            else 0
    | i => fld f i
  (List.range 15).map field

/-- The declared cycle from which fewer than 16 commands hold a place, not before t (R119). -/
def Quad.placeFrom (q : Quad) (t : Nat) : Nat :=
  ((sortBy (fun a b => decide (a ≤ b)) (t :: q.left.filter (fun u => decide (t < u)))).find? (fun u =>
    decide (q.inFlight + q.left.countP (fun v => decide (u < v)) < 16))).getD t

/-- MRASTER (R398, R119): the next command of a walk takes a place, at D2 at the cycle at which it was free; a walk with nothing left ends. -/
def execMraster (s : State) : Out :=
  let q := quadKey s.site.die s.site.quad
  let x := s.quadAt q
  match x.cmds.find? (fun c => c.op == 6 && !c.tagged) with
  | none => .next s
  | some h =>
    match h.walk with
    | [] => if h.inSlot then .next s else .next (s.endWalk q h)
    | (i, w) :: rest =>
      let drain := h.pos % 2 == 1
      let n := h.pos / 2
      let opBad := if drain then none else (aPieces h.f h.fmt (rTi w) ++ bPieces h.f h.fmt (rTj w)).findSome? (fun p => s.badWords.find? (eccTouches (spAddr h.cell p.1) p.2))
      let at' := if s.levelOf h.cell = 2 then x.placeFrom (max h.issued h.entered) else s.cycle
      if h.inSlot || x.arb || 16 ≤ x.inFlight then .next s
      else if let some a := opBad then .next (((s.logBad h.cell a 3).modCmd q h (fun o => { o with walk := [], bad := true })).endWalk q h)
      else
        let c : MCmd := { h with id := (s.cellAt h.cell).nextId, noTag := true, tokens := [], f := walkFields h drain n w,
                                 srbase := h.srbase + BitVec.ofNat 24 h.pos * srStep, issued := at', locks := [], walk := [],
                                 pos := 0, entry := i, ofWalk := some h.id, bad := false }
        let h1 := { h with pos := h.pos + 1, entered := at', walk := if drain then rest else h.walk }
        .next ((s.modQuad q (fun y => { y with cmds := y.cmds.flatMap (fun o => if o.same h then [c, h1] else [o]) })).modCell h.cell
          (fun k => { k with nextId := k.nextId + 1 }))

end Sys2Proof.Machine
end

