-- ==== Sys2Proof/Machine/CellEvents.lean ====
section
/-! DEFINITION. What a cell does of itself: check slots release (R107), tensor accesses and fills complete (R334, R339), bounds expire
(R254, R255), residues fail (R108), a trap reaches its handler (R247, R250). -/

namespace Sys2Proof.Machine

/-! ### Check slots (R107) -/

/-- The low 64 bits of an item, as a machine check reports it (R266). -/
def Item.low : Item → Word
  | .store _ bs _ _ _ _ => BitVec.ofNat 64 (ofLe bs)
  | .push _ v => v
  | .token k => BitVec.ofNat 64 k
  | .command id => BitVec.ofNat 64 id
  | .block _ _ ws => ws.headD 0

/-- The word index that a mismatching item belongs to: a store's own, else the sequencer's. -/
def Item.pcOr (pc : Word) : Item → Word
  | .store _ _ _ _ p _ => p
  | _ => pc

/-- A store leaves its slot: to the replica sequencer, onto the mesh, or to its home on the die (R331); none while it has to wait, as an ordered or
release store does for a locked word (R122). -/
def State.releaseStore (s : State) (k : Nat) (q : SeqId) (pa : Nat) (bs : List Byte) (cls : StoreClass) (repl : Bool) (pc va : Word) (born : Nat) : Option State :=
  if repl then some (s.sendReplica { pa := pa, op := .write bs, cell := k, seq := q, cls := cls, pc := pc, va := va, born := born })
  else if homeDie pa ≠ k / 64 then (s.request (k / 64) (homeDie pa) pa (.write bs) k q cls pc va born).map (·.2)
  else if cls ≠ .relaxed && s.wordHeld pa then none
  else
    let (s1, r) := s.writeWord pa bs { seq := some q, cell := k, pc := pc, va := va, born := born }
    match r with
    | .full => none
    | .bad => some ((s1.logBad k pa 0).deferred k tcUncorrectable q pc va)
    | _ => some s1

/-- A command leaves its slot and is the engine's. -/
def State.releaseCommand (s : State) (k id : Nat) : State :=
  let s0 := ((s.cellAt k).chains.filter (fun x => x.2.poster.id == id)).foldl (fun s x => s.postChain x.1 x.2.addr x.2.poster) s
  (s0.modCell k (fun c => { c with
    chains := c.chains.filter (fun x => x.2.poster.id != id),
    vcmds := c.vcmds.map (fun (x : VCmd) => if x.id = id then { x with inSlot := false } else x),
    copies := c.copies.map (fun (x : Copy) => if x.id = id then { x with inSlot := false } else x),
    tensors := c.tensors.map (fun (x : Tensor) => if x.id = id then { x with inSlot := false } else x) })).modQuad (quadOf k)
    (fun q => { q with cmds := q.cmds.map (fun (x : MCmd) => if x.cell = k && x.id = id then { x with inSlot := false } else x) })

/-- A block leaves its slot for the remote engine queue of its group (R81); none while that group is pre-empted. -/
def State.releaseBlock (s : State) (key group : Nat) (ws : List Word) : Option State :=
  match s.launch? key with
  | none => some s
  | some l =>
    match l.bound.find? (fun e => e.1 == group) with
    | some e => if (s.cellAt e.2).stop = some .preempt then none else some (s.modCell e.2 (fun c => if (match c.stop with | none => true | some (.trap _ _) => true | _ => false) then { c with remq := c.remq ++ [ws] } else c))
    | none => if l.saved.any (fun x => x.group == group) then none else some s

/-- CHECK_SLOT_RELEASE (R107, R108): nine cycles after retirement the oldest item leaves, if the telltale has produced the same. -/
def execCheckSlotRelease (s : State) : Out :=
  let k := s.here
  let q := s.site.seq
  match s.curSeq.slots with
  | [] => .next s
  | x :: rest =>
    if s.cycle < x.at? + 9 || s.cur.stop = some .machineCheck then .next s
    else if x.item ≠ x.tell then
      .next (s.machineCheck k 0x14 (BitVec.ofNat 64 (at_ q.num 32 + (x.item.pcOr s.curSeq.pc).toNat % 2 ^ 32)) x.tell.low)
    else
      let s0 := s.modSeq (fun y => { y with slots := rest })
      match x.item with
      | .push n v => .next (s0.modCell k (fun c => c.pushed n v (x.seen q)))
      | .token n => .next (s0.modCell k (fun c => c.signalled n (x.seen q)))
      | .command id => .next (s0.releaseCommand k id)
      | .block key g ws => .next ((s0.releaseBlock key g ws).getD s)
      | .store pa bs cls repl pc va =>
        match s0.releaseStore k q pa bs cls repl pc va x.at? with
        | none => .next s
        | some s1 => .next s1

/-! ### Tensor accesses (R334) -/

/-- The declared latency of a tensor access (R234). -/
def tensorTime (x : Tensor) : Nat := 104 + x.lat

/-- The row that a `tld` reads, with its lost and its uncorrectable elements. -/
def State.readTensor (s : State) (k : Nat) (x : Tensor) : Row × Option Word × Option Word × State :=
  let n := 2 ^ x.esize
  x.elems.foldl (fun (r, lost, bad, s) (j, paF, va) =>
    match s.readElem k (.tensor k x.id) n (j, paF, va) with
    | some .bad => (r, lost, lowest bad va, s.logBad k (paF % replFlag) 1)
    | some (.ok bs) => (r ||| BitVec.ofNat 4096 (ofLe bs <<< (8 * n * j)), lost, bad, s)
    | _ => (r, lowest lost va, bad, s)) ((0 : Row), none, none, s)

/-- The writes of a `tst`, with the lowest address that is uncorrectable in part: none while the commit buffer is full. -/
def State.writeTensor (s : State) (k : Nat) (x : Tensor) : Option (Option Word × State) :=
  let n := 2 ^ x.esize
  x.elems.foldl (fun acc (j, paF, va) =>
    match acc with
    | none => none
    | some (bad, s) =>
      let (s1, r) := s.engineWrite k (paF % replFlag) (decide (replFlag ≤ paF)) (leBytes n (x.row.toNat / 2 ^ (8 * n * j))) .S
        (.tensor k x.id) x.pc va
      match r with
      | .done => some (bad, s1)
      | .bad => some (lowest bad va, s1.logBad k (paF % replFlag) 1)
      | .full => none) (some (none, s))

/-- TENSOR_ACCESS_COMPLETE (R334, R132, R19): the elements of a `tld` on other dies are asked for first (R17); a `tst` is complete once every element is
performed, those held on locked words at their release (R178, R179). -/
def execTensorAccessComplete (s : State) : Out :=
  let k := s.here
  match (s.cellAt k).tensors.find? (fun x => x.id == s.site.n) with
  | none => .next s
  | some x =>
    let due := x.issued + tensorTime x
    let q : SeqId := if x.load then .L else .S
    let o := Owner.tensor k x.id
    let leave (s : State) : State :=
      ((s.noteLate k due 13).dropAsks o).modCell k (fun c => giveTokens s.cycle q x.tokens { c with tensors := c.tensors.filter (fun o => o.id != x.id) })
    let fault (s : State) (lost bad : Option Word) : State :=
      match bad, lost with
      | some va, _ => s.deferred k tcUncorrectable q x.pc va
      | none, some va => s.deferred k (if x.load then tcLoad else tcStore) q x.pc va
      | none, none => s
    if x.inSlot || (!x.sent && !x.elems.all (fun e => s.forkClear k q (e.2.1 % replFlag) (2 ^ x.esize))) then .next s
    else if x.load then
      let s0 := s.askElems k o (2 ^ x.esize) x.elems
      if s0.asks.length ≠ s.asks.length then .next s0
      else if s.notYet k due || !x.elems.all (fun e => (s.readElem k o (2 ^ x.esize) e).isSome) then .next s
      else
        let (row, lost, bad, s1) := s.readTensor k x
        let s2 := leave s1
        if lost.isSome || bad.isSome then .next (fault s2 lost bad)
        else .next (s2.modCell k (fun c => c.pushVq x.queue row (if s.levelOf k = 2 then due else s.cycle)))
    else if x.sent then (if s.notYet k due || s.outstanding o then .next s else .next (fault (leave s) x.lost x.late))
    else
      match s.writeTensor k x with
      | none => .next s
      | some (bad, s1) =>
        .next (s1.modCell k (fun c => { c with tensors := c.tensors.map (fun (o : Tensor) => if o.id = x.id then { o with sent := true, late := bad } else o) }))

/-! ### Fills (R339) -/

/-- The line and the status of a fill: what it read at its issue, or the answer from its line's home; none while that is not back. -/
def State.fillAnswer (s : State) (k : Nat) (f : Fill) : Option (Line × BitVec 3 × State) :=
  match s.asks.find? (fun a => a.owner == .fill k f.slot) with
  | none => some (f.line, f.status, s)
  | some a =>
    if !a.back then none
    else
      let s1 := s.dropAsks (.fill k f.slot)
      some (match a.ans with
        | some (.ok bs) => (BitVec.ofNat 1024 (ofLe bs), 0, s1)
        | some .bad => (0, 2, s1.logBad k a.pa 6)
        | _ => (0, 3, s1))

/-- TFILL_COMPLETE (R339, R106). -/
def execTfillComplete (s : State) : Out :=
  let k := s.here
  match (s.cellAt k).fills.find? (fun f => f.slot == s.site.n) with
  | none => .next s
  | some f =>
    let e := (s.cellAt k).entry f.slot
    let due := f.issued + f.lat + 64
    match s.fillAnswer k f with
    | none => .next s
    | some (line, st, s1) =>
      if s.notYet k due then .next s
      else
        let ok := st == 0
        .next ((s1.noteLate k due 13).modCell k (fun c =>
          let c1 := c.setEntry f.slot { e with v := ok, fill := false, status := st }
          { c1 with fills := c1.fills.filter (fun x => x.slot != f.slot),
                    lines := if ok then NatMap.put 0 c1.lines f.slot line else c1.lines,
                    badLines := if ok then c1.badLines.filter (fun w => w / 16 != f.slot) else c1.badLines }))

/-! ### Bounds (R254, R255) -/

/-- WAIT_BOUND_EXPIRY (R255). -/
def execWaitBoundExpiry (s : State) : Out :=
  let x := s.curSeq
  match x.blocked with
  | none => .next s
  | some b =>
    if s.mayIssue && s.overBound x then .next (s.precise tcWaitBound (flagWord b.kind b.index (4 + s.site.seq.num) 0 (s.waited x / 256))) else .next s

/-- The cycles that a command's bound has counted: from the head of its queue, or from the `resume` after its latest report (R254). -/
def State.counted (s : State) (again head : Nat) : Nat := s.cycle - max head again

/-- Whether a bound has run out: 0 disables it. -/
def State.ranOut (s : State) (bound again head : Nat) : Bool := bound != 0 && decide (bound ≤ s.counted again head)

/-- Bound of a vector command: bits 31:0 of word B where the operation takes no immediate (R254). -/
def VCmd.bound (v : VCmd) : Nat := if v.op.usesB then 0 else bits v.b 31 0

/-- How many vector commands wait before one (R257). -/
def Cell.vecPos (c : Cell) (v : VCmd) : Nat :=
  if v.started.isSome then 0 else (c.vcmds.takeWhile (fun o => o.id != v.id)).countP (fun o => o.started.isNone)

/-- The cycle from which a vector command's bound counts: that at which it came to the head of its queue; one that still stands behind others counts from its
issue (R254, R399; log entry 172). -/
def Cell.vecHead (c : Cell) (v : VCmd) : Nat := if v.started.isSome then v.headSince else if c.vecPos v = 0 then max v.issued c.vlast else v.issued

/-- Whether a command waits at the array: a walk does while a position of it has still to start. -/
def Quad.queued (q : Quad) (m : MCmd) : Bool := m.waits || (m.op == 6 && q.cmds.any (fun o => o.cell == m.cell && o.ofWalk == some m.id && o.st == 0))

/-- How many commands wait at the array before one (R257); a walk counts as one. -/
def Quad.posOf (q : Quad) (m : MCmd) : Nat :=
  if q.queued m then (before m q.cmds).countP (fun o => o.ofWalk.isNone && q.queued o) else 0

/-- The cycle from which a matrix command's bound counts (log entry 172). -/
def Quad.headOf (q : Quad) (m : MCmd) : Nat :=
  if m.st ≠ 0 || m.headSince ≠ 0 then m.headSince else if q.posOf m = 0 then max m.issued q.lastStart else m.issued

/-- The flag that a matrix command awaits (R257): the lock of a word that a drain's store waits for, or room in the commit buffer, else its own end. -/
def State.arrayFlag (s : State) (m : MCmd) : Nat × Nat :=
  let q := s.quadAt (quadOf m.cell)
  let mine := q.cmds.filter (fun o => o.same m || (o.cell == m.cell && o.ofWalk == some m.id))
  let own (h : Held) : Bool := h.kind == 1 && !h.sig && (mine.any (fun o => o.id == h.cmd) || m.owed.any (fun x => x.2.2 == h.cmd))
  match (s.cellAt m.cell).cbuf.find? (fun e => own e.2 && s.locked m.cell e.2.word) with
  | some e => (0, e.2.word)
  | none => if mine.any (fun o => o.op == 5 && o.st == 1 && !o.bad && decide (o.unit < o.units) && !s.unitHeld o) then (7, 0) else (13, m.tag.toNat)

/-- The flag that a copy awaits (R257): behind a missing SEQ the armed arrival region that it writes into, else its counter, else its sequence region (R208;
log entry 173). -/
def State.copyFlag (s : State) (k : Nat) (x : Copy) : Nat × Nat :=
  match s.redHeld.find? (fun w => w.owner == .copy k x.id) with
  | none => (13, x.tag.toNat)
  | some w =>
    let at' := spOff w.pa
    match (if inSp w.pa then (s.cellAt (spCell w.pa)).regions.find? (fun r => r.2.armed && decide (r.2.base.toNat ≤ at') && decide (at' < r.2.base.toNat + r.2.len.toNat)) else none) with
    | some r => (2, r.1)
    | none => if fCtrEn x.f then (6, (fCid x.f).toNat) else (10, cSreg x.f)

/-- A command of cell k past its bound: reported once as a deferred CYCLE_BOUND with the flag that it awaits (R254, R257). -/
def State.reportBound (s : State) (k : Nat) (q : SeqId) (pc : Word) (flag : Nat × Nat) (unit pos again head : Nat) (mark : State → State) : State :=
  (mark s).deferred k tcCycleBound q pc (flagWord flag.1 flag.2 unit pos (s.counted again head / 256))

/-- A poster of a collective template whose bound has been reported. -/
def Arming.raise (k n : Nat) (a : Arming) : Arming :=
  if a.poster.cell = k && a.poster.id = n then { a with poster := { a.poster with raised := true } } else a

/-- CYCLE_BOUND_EXPIRY (R254, R257, R399): of a vector command, a copy, a matrix command or walk, or a collective template whose chain is not taken up. -/
def execCycleBoundExpiry (s : State) : Out :=
  let k := s.here
  let n := s.site.n
  let c := s.cellAt k
  let q := s.quadAt (quadOf k)
  match c.vcmds.find? (fun v => v.id == n), c.copies.find? (fun x => x.id == n), q.cmds.find? (fun o => o.cell == k && o.id == n && o.ofWalk.isNone) with
  | some v, _, _ =>
    if v.raised || !s.ranOut v.bound v.again (c.vecHead v) then .next s
    else .next (s.reportBound k .C v.pc (match c.stepWait v with | some vq => if c.vecPos v = 0 then (4, vq) else (13, 0) | none => (13, 0)) 1 (c.vecPos v) v.again (c.vecHead v)
      (fun s => s.modCell k (fun c => { c with vcmds := c.vcmds.map (fun (o : VCmd) => if o.id = n then { o with raised := true } else o) })))
  | none, some x, _ =>
    if x.raised || !s.ranOut (fld x.f 14).toNat x.again x.issued then .next s
    else .next (s.reportBound k x.seq x.pc (s.copyFlag k x) 2 0 x.again x.issued (fun s => s.modCopy k n (fun o => { o with raised := true })))
  | none, none, some m =>
    if m.raised || m.tagged || !s.ranOut (fld m.f 14).toNat m.again (q.headOf m) then .next s
    else .next (s.reportBound k .C m.pc (s.arrayFlag m) 0 (q.posOf m) m.again (q.headOf m) (fun s => s.modCmd (quadOf k) m (fun o => { o with raised := true })))
  | none, none, none =>
    let mine (a : Arming) : Bool := a.poster.cell == k && a.poster.id == n
    match (s.engines.findSome? (fun g => g.2.arming.find? mine)).or ((c.chains.find? (fun x => mine x.2)).map (fun x => x.2)) with
    | none => .next s
    | some a =>
      let p := a.poster
      if p.raised || p.tag.isNone || !s.ranOut p.bound.toNat p.again p.issued then .next s
      else .next (s.reportBound k p.seq p.pc (13, (p.tag.map (fun t => t.toNat)).getD 0) 3 0 p.again p.issued (fun s =>
        { s with engines := s.engines.map (fun (g : Nat × Engine) => (g.1, { g.2 with arming := g.2.arming.map (Arming.raise k n) })) }.modCell k (fun c =>
          { c with chains := c.chains.map (fun (x : Nat × Arming) => (x.1, x.2.raise k n)) })))

/-! ### Machine checks and the way to the handler -/

/-- RESIDUE_FAILURE (R108, R258). -/
def execResidueFailure (s : State) : Out := .next (s.machineCheck s.here 0x14 0 0)

/-- Whether the work that a trap waits for is done (R247): stores that have left their sequencers among it (R409). -/
def State.drained (s : State) (k : Nat) : Bool :=
  let c := s.cellAt k
  c.vcmds.isEmpty && c.tensors.isEmpty && c.fills.isEmpty && !(s.quadAt (quadOf k)).cmds.any (fun o => o.cell == k && !o.tagged) &&
  [SeqId.K, .L, .C, .S].all (fun q => (c.seq q).access.isNone && s.storesDone k q)

/-- TRAP_ENTRY (R247, R250, R253): the work that the trap waits for is found done, and 32 cycles later the trap is taken. -/
def execTrapEntry (s : State) : Out :=
  let k := s.here
  let c := s.cellAt k
  match c.stop with
  | some (.trap t _) =>
    if !s.drained k then .next s
    else
      match c.drainAt with
      | none => .next (s.modCell k (fun c => { c with drainAt := some s.cycle }))
      | some d => if d + 32 ≤ s.cycle then .next (s.takeTrap k t) else .next s
  | _ => .next s

end Sys2Proof.Machine
end

