-- ==== Sys2Proof/Machine/Lease.lean ====
section
/-! DEFINITION. Array leases (R74 to R78, R323): the three instructions, the grant at a command boundary, the idle rule. -/

namespace Sys2Proof.Machine

/-- `lease acq` (R323). -/
def execLeaseAcq (t : BitVec 4) : State → Out :=
  issue { t := t, who := [.C] } (do
    let s ← get
    let q := quadOf s.here
    if (s.quadAt q).oos then raise tcArray (BitVec.ofNat 64 (q % 16))
    else do
      modify (fun s => s.modQuad q (fun x =>
        if x.acq.getLsbD (s.here % 4) then x else { (x.request (s.here % 4)) with acq := x.acq ||| BitVec.ofNat 4 (2 ^ (s.here % 4)) }))
      pure .seq)

/-- A request withdrawn. -/
def Quad.withdraw (q : Quad) (c : Nat) : Quad :=
  { q with req := q.req &&& ~~~ BitVec.ofNat 4 (2 ^ c), reqOrder := q.reqOrder.filter (fun i => i != c) }

/-- `lease rel` (R323). -/
def execLeaseRel (t : BitVec 4) : State → Out :=
  issue { t := t, who := [.C] } (do
    let s ← get
    let q := quadOf s.here
    let c := s.here % 4
    if !(s.quadAt q).acq.getLsbD c then raise tcLease 0
    else do
      modify (fun s => s.modQuad q (fun x =>
        let y := { x with acq := x.acq &&& ~~~ BitVec.ofNat 4 (2 ^ c) }
        if y.held && y.holder.toNat == c then y else y.withdraw c))
      pure .seq)

/-- `lease stat` (R323). -/
def execLeaseStat (t : BitVec 4) (d : BitVec 5) : State → Out :=
  issue { t := t, who := [.C], checks := checkDst d } (do
    let s ← get
    writeReg d (s.leaseWord (quadOf s.here))
    pure .seq)

/-- Whether a cell has a matrix command waiting at the array. -/
def Quad.waitingOf (q : Quad) (k : Nat) : Bool := q.cmds.any (fun c => c.cell == k && c.waits)

/-- Whether C of a cell stands at a GO that waits for the quad. -/
def State.goWaits (s : State) (k : Nat) : Bool :=
  match (s.cellAt k).c.blocked with
  | some b => b.kind == 0 || b.kind == 3
  | none => false

/-- The lease released: a cell whose `lease acq` is in force, or whose GO waits, goes on requesting behind the others (R75). -/
def State.releaseLease (s : State) (q : Nat) : State :=
  let x := s.quadAt q
  let c := x.holder.toNat
  let k := cellKey (q / 16) (4 * (q % 16) + c)
  let y := ({ x with held := false } : Quad).withdraw c
  s.setQuad q (if (s.cellAt k).bound.isSome && (x.acq.getLsbD c || s.goWaits k) then y.request c
               else { y with acq := y.acq &&& ~~~ BitVec.ofNat 4 (2 ^ c) })

/-- The lease granted to the next requester, if there is one (R76). -/
def State.grantLease (s : State) (q : Nat) : State :=
  let x := s.quadAt q
  let k (c : Nat) : Nat := cellKey (q / 16) (4 * (q % 16) + c)
  let asks := (List.range 4).filter (fun c => x.req.getLsbD c && (s.cellAt (k c)).bound.isSome)
  let rot := (List.range 4).map (fun i => (x.holder.toNat + 1 + i) % 4)
  let order := if asks.all (fun c => s.levelOf (k c) == 0) then x.reqOrder else rot
  match order.find? (fun c => asks.contains c) with
  | none => s
  | some c => s.setQuad q { x with held := true, holder := BitVec.ofNat 2 c, count := 0, grants := x.grants + 1, idleSince := s.cycle,
                                   reqOrder := x.reqOrder.filter (fun i => i != c) }

/-- A trap has stopped the cell, or its handler runs: it keeps its lease (R78). -/
def State.inTrap (s : State) (k : Nat) : Bool :=
  (s.cellAt k).tin || (match (s.cellAt k).stop with
    | some (.trap _ _) => true
    | _ => false)

/-- LEASE_GRANT: a command boundary of the quad (R74 to R76, R78). -/
def execLeaseGrant (s : State) : Out :=
  let q := quadKey s.site.die s.site.quad
  let x := s.quadAt q
  if x.oos then .next s
  else if !x.held then .next (s.grantLease q)
  else
    let c := x.holder.toNat
    let k := cellKey (q / 16) (4 * (q % 16) + c)
    let gone := (s.cellAt k).bound.isNone && !x.cmds.any (fun o => o.cell == k)
    let idle := !x.acq.getLsbD c && !x.waitingOf k && !s.goWaits k && !s.inTrap k
    let full := x.othersRequest c && decide ((s.cellAt k).leaseLimit ≤ x.count.toNat)
    if gone || idle || full then .next ((s.releaseLease q).grantLease q) else .next s

/-- LEASE_IDLE_TIMEOUT (R75). -/
def execLeaseIdleTimeout (s : State) : Out :=
  let q := quadKey s.site.die s.site.quad
  let x := s.quadAt q
  let k := cellKey (q / 16) (4 * (q % 16) + x.holder.toNat)
  if x.held && !x.oos && x.othersRequest x.holder.toNat && !x.waitingOf k && 8192 ≤ s.cycle - x.idleSince then
    .next ((s.releaseLease q).grantLease q)
  else .next s

end Sys2Proof.Machine
end

