-- ==== Sys2Proof/Machine/Counters.lean ====
section
/-! DEFINITION. Counters of the collective engines and the instructions on them (R191, R193 to R196, R203, R347, R348), with the
firing of the entries that wait on a counter (R190). -/

namespace Sys2Proof.Machine

/-! ### Counters (R193, R194) -/

/-- Whether a counter's engine lies on a rim die in service. -/
def State.cidUp (s : State) (cid : Nat) : Bool := s.dieUp (rimOf (cidEng cid))

/-- A counter. -/
def State.counterAt (s : State) (cid : Nat) : Counter := NatMap.get {} s.counters cid

/-- The state with a counter replaced. -/
def State.setCounter (s : State) (cid : Nat) (c : Counter) : State := { s with counters := NatMap.put {} s.counters cid c }

/-- The entries in a counter's trigger table. -/
def State.armedOn (s : State) (cid : Nat) : List Entry := (s.engineAt (cidEng cid)).armed.filter (fun e => eWait e.w == cid)

/-- Word +0x10 of a counter (R193). -/
def State.counterWord (s : State) (cid : Nat) : Word :=
  BitVec.ofNat 64 ((if (s.counterAt cid).lost then 1 else 0) + at_ (s.armedOn cid).length 1)

/-- An entry queued for execution on the engine that processes it, in firing order (R190); an entry that names a counter whose engine
lies on a rim die out of service completes with status 3 (R196). -/
def State.fire (s : State) (e : Entry) : State :=
  let dead := (eWaitEn e.w && !s.cidUp (eWait e.w)) || (eIncEn e.w && !(eIncRemote e.w && s.entryAway e.w) && !s.cidUp (eIncCtr e.w))
  s.modEngine e.eng (fun g =>
    let x := if dead && e.done.isNone then { e with id := g.nextId, due := s.cycle, done := some 3, sent := true } else { e with id := g.nextId, due := s.cycle }
    { g with nextId := g.nextId + 1, fired := g.fired ++ [x] })

/-- An entry that completes at once with a status (R206). -/
def State.fireDone (s : State) (e : Entry) (st : BitVec 3) : State := s.fire { e with done := some st, sent := true }

/-- Every entry of a counter's trigger table that its value lets fire, in order of arming; with LOST set all complete with status 5
(R190, R206). -/
def State.trigger (s : State) (cid : Nat) : State :=
  let c := s.counterAt cid
  let go (e : Entry) : Bool := eWait e.w == cid && (c.lost || decide (eThresh e.w ≤ c.value.toNat))
  let l := (s.engineAt (cidEng cid)).armed.filter go
  if l.isEmpty then s
  else
    let s1 := s.modEngine (cidEng cid) (fun g => { g with armed := g.armed.filter (fun e => !go e), roomAt := if g.armed.length < 4096 then g.roomAt else s.cycle })
    l.foldl (fun s e => if c.lost then s.fireDone e 5 else s.fire e) s1

/-- An increment applied (R194): VALUE, ORDSIG, the trigger table. -/
def State.bump (s : State) (cid : Nat) (amount fold : Word) : State :=
  let c := s.counterAt cid
  (s.setCounter cid { c with value := c.value + amount, ordsig := jmix64 c.ordsig fold }).trigger cid

/-- The reset form of R195: the trigger table is kept. -/
def State.clearCounter (s : State) (cid : Nat) : State := (s.setCounter cid {}).trigger cid

/-- Whether an increment may not be applied yet: at D2 it is applied at its declared latency (R232, R238). -/
def Inc.early (i : Inc) (now : Nat) : Bool := i.decl.any (fun d => decide (now < d.2.2))

/-- COUNTER_INCREMENT (R194, R203, R19): an increment that has reached its engine, at D2 at its time (R238); on a rim die out of service it is lost with
an event. -/
def execCounterIncrement (s : State) : Out :=
  match s.incs[s.site.n]? with
  | none => .next s
  | some i =>
    let sLate := match i.decl with | none => s | some (key, k, due) => s.lateFor key k due 6
    let s0 := { sLate with incs := s.incs.eraseIdx s.site.n }
    if i.net ≠ 0 || i.early s.cycle then .next s
    else if s.cidUp i.cid.toNat then .next (s0.bump i.cid.toNat i.amount i.fold)
    else .next (s0.bbox (rimOf (cidEng i.cid.toNat)) (bbEvent s.cycle 0x10 3 0 0 0 0 (i.cid.zeroExtend 64) i.amount))

/-! ### The instructions (R347, R348) -/

/-- COLL_FAULT. -/
def collFault {α : Type} (v : Word) : M α := raise tcColl v

/-- A CID operand: other bits zero, but bit 14 where a form selects by it; its engine in service. -/
def checkCid (v : Word) (sel : Bool) : M Unit := do
  let s ← get
  if (if sel then 2 ^ 15 else 2 ^ 14) ≤ v.toNat || !s.cidUp (v.toNat % 2 ^ 14) then collFault v else pure ()

/-- A counter operation sent to its rim die (R17): the instruction waits for the answer. -/
def sendCtr (cid : Nat) (op : MemOp) (v : Word) : M Word :=
  holdWith (fun s =>
    match s.request (s.here / 64) (rimOf (cidEng cid)) cid op s.here s.site.seq .ordered s.curSeq.pc v with
    | none => s
    | some (q, s1) => s1.modSeq (fun x => { x with access := some (.waiting (rimOf (cidEng cid)) q), blocked := none }))

/-- The sequencers that run the `coll` forms. -/
def collSeqs : List SeqId := [.K, .S]

/-- `ctrrd` (R347). -/
def execCtrrd (t : BitVec 4) (d a : BitVec 5) : State → Out :=
  issue { t := t, who := collSeqs, checks := do checkDst d; checkSrc a } (do
    let v ← readReg a
    checkCid v true
    let cid := v.toNat % 2 ^ 14
    let r ← remoteAnswer tcLoad v (sendCtr cid (.ctrRead (BitVec.ofNat 14 cid) (if bit v 14 then 1 else 0)) v)
    writeReg d r
    pure .seq)

/-- `ctrrd.sig` (R347). -/
def execCtrrdSig (t : BitVec 4) (d a : BitVec 5) : State → Out :=
  issue { t := t, who := collSeqs, checks := do checkDst d; checkSrc a } (do
    let v ← readReg a
    checkCid v false
    let r ← remoteAnswer tcLoad v (sendCtr v.toNat (.ctrRead (v.truncate 14) 2) v)
    writeReg d r
    pure .seq)

/-- A counter instruction that acts as a `strel` of package scope: it leaves once every earlier store is performed (R347, R171). -/
def releaseFirst : M Unit := do
  let s ← get
  if s.curSeq.access.isNone && !s.storesDone s.here s.site.seq then stallNow else pure ()

/-- `ctradd` (R347, R203 kind 5). Lost on the mesh it raises STORE_FAULT with TVAL the CID register, as `ctradd.clr` does, and `ctrrd` LOAD_FAULT (DESIGN
CHOICE, log entry 128). -/
def execCtradd (t : BitVec 4) (d a b : BitVec 5) : State → Out :=
  issue { t := t, who := collSeqs, checks := checkDAB d a b } (do
    let v ← readReg a
    let y ← readReg b
    checkCid v false
    releaseFirst
    roomFirst t d
    let s ← get
    let fold := foldWord 5 s.pkgId.toNat (s.here / 64) (s.here % 64) y.toNat
    let r ← remoteAnswer tcStore v (sendCtr v.toNat (.ctrAdd (v.truncate 14) y fold) v)
    writeReg d r
    pure .seq)

/-- `ctradd.clr` (R347, R195). -/
def execCtraddClr (t : BitVec 4) (d a : BitVec 5) : State → Out :=
  issue { t := t, who := collSeqs, checks := do checkDst d; checkSrc a } (do
    let v ← readReg a
    checkCid v false
    releaseFirst
    roomFirst t d
    let r ← remoteAnswer tcStore v (sendCtr v.toNat (.ctrClear (v.truncate 14)) v)
    writeReg d r
    pure .seq)

/-- Waits until a counter reaches a threshold, or LOST is set (R195): whether it was LOST. -/
def waitCounter (cid : Nat) (thr : Word) : M Bool := do
  let s ← get
  let c := s.counterAt cid
  if c.lost then pure true
  else if thr.toNat ≤ c.value.toNat then pure false
  else waitFor 6 cid

/-- `ctrwait` (R347). -/
def execCtrwait (t : BitVec 4) (d a b : BitVec 5) : State → Out :=
  issue { t := t, who := collSeqs, checks := checkDAB d a b } (do
    let v ← readReg a
    let y ← readReg b
    checkCid v false
    let lost ← waitCounter v.toNat y
    writeReg d (if lost then 5 else 0)
    pure .seq)

/-- `qppost` (R348, R190). -/
def execQppost (t : BitVec 4) (a b : BitVec 5) : State → Out :=
  issue { t := t, who := collSeqs, checks := do checkSrc a; checkSrc b } (do
    let e ← readReg a
    let v ← readReg b
    let s ← get
    if 16 ≤ e.toNat || !s.dieUp (rimOf e.toNat) || v.toNat % 64 ≠ 0 || 2 ^ 52 ≤ v.toNat then collFault v
    else if !s.storesDone s.here s.site.seq then stallNow
    else do
      postFromSlot e.toNat v { newPoster s s.here s.site.seq s.curSeq.pc none true [] with id := s.cur.nextId }
      pure .seq)

end Sys2Proof.Machine
end

