-- ==== Sys2Proof/Machine/Collect.lean ====
section
/-! DEFINITION. The collective engines (R187 to R192, R204 to R208): entries armed, executed and completed; transfers with other
packages; loss of a collective. -/

namespace Sys2Proof.Machine

/-! ### Where an entry acts -/

/-- Bytes that an engine writes of its own into memory, on their way there (R17): nothing where it may not write (DESIGN CHOICE, log entry 163). -/
def State.engineBytes (s : State) (die k : Nat) (va : Word) (bs : List Byte) (o : Owner) (win : Option (Nat × Nat)) : State :=
  match s.translate k va true with
  | .error _ => s.noteWalk k va
  | .ok (pa, repl, s1) => s1.sendWrites (64 * die) none o [(if repl then pa + replFlag else pa, bs)] win

/-! ### Arming (R190) -/

/-- The end of a collective template's command (R282). -/
def State.finishChain (s : State) (p : Poster) (st : BitVec 3) : State :=
  match p.tag, s.posterCell p with
  | some t, some k => s.modCell k (fun c =>
    let c1 := { c with remBusy := if c.remBusy = some p.id then none else c.remBusy }
    giveTokens s.cycle p.seq p.tokens (if p.noTag || c.stop = some .machineCheck then c1 else c1.setTag t.toNat st))
  | _, _ => s

/-- A malformed entry stops its chain (R189, R348). -/
def State.chainFault (s : State) (a : Arming) : State :=
  let s1 := s.finishChain a.poster 1
  match s1.posterCell a.poster with
  | some k => s1.deferred k tcColl a.poster.seq a.poster.pc a.addr
  | none => s1.faultLaunch a.poster.cell a.poster.launch a.poster.group tcColl.toNat a.addr

/-- Whether an entry at this address is armed already for the same group. -/
def State.stillArmed (s : State) (a : Arming) : Bool :=
  s.engines.any (fun g => g.2.armed.any (fun e => e.addr == a.addr &&
    (!inLocal a.addr.toNat || (e.poster.launch == a.poster.launch && e.poster.group == a.poster.group))))

/-- An armed entry fires, waits in the trigger table of its counter, or ends (R190, R196, R206). -/
def State.place (s : State) (e : Entry) : State :=
  if !eWaitEn e.w then s.fire e
  else
    let c := s.counterAt (eWait e.w)
    if !s.cidUp (eWait e.w) then s.fire e
    else if c.lost then s.fireDone e 5
    else if eThresh e.w ≤ c.value.toNat then s.fire e
    else s.modEngine (cidEng (eWait e.w)) (fun g => { g with armed := g.armed ++ [e] })

/-- What an entry of a collective names, noted with its launch (R206). -/
def State.noteColl (s : State) (e : Entry) : State :=
  let cids := (if eWaitEn e.w then [eWait e.w] else []) ++ (if eIncEn e.w && !(eIncRemote e.w && s.entryAway e.w) then [eIncCtr e.w] else [])
  let pkgs := if s.entryAway e.w then [ePkg e.w] else []
  s.modLaunch e.poster.launch (fun l =>
    let u := (l.colls.find? (fun x => x.coll == eColl e.w)).getD ⟨eColl e.w, [], []⟩
    { l with colls := l.colls.filter (fun x => x.coll != eColl e.w) ++ [{ u with cids := (u.cids ++ cids).eraseDups, pkgs := (u.pkgs ++ pkgs).eraseDups }] })

/-- What reads the entries of an engine's chains. -/
def State.entryReader (s : State) (eng : Nat) (a : Arming) : Reader :=
  { kOf := entryAgent eng ((s.posterCell a.poster).getD 0), die := rimOf eng, seq := a.poster.seq, owner := .chain eng, user := some a.poster.launch }

/-- An entry read and found good: DONE is written 0. -/
def State.beginArm (s : State) (eng : Nat) (a : Arming) (w : List Word) : State :=
  let w6 : Word := w.getD 6 0 &&& 0xF7FFFFFFFFFFFFFF
  let s1 := s.engineBytes (rimOf eng) (entryAgent eng ((s.posterCell a.poster).getD 0) a.addr) (a.addr + 55) [BitVec.ofNat 8 (w6.toNat / 2 ^ 56)] (.chain eng) (a.poster.window a.addr)
  s1.modEngine eng (fun g => { g with arming := { a with entry := some (setAt w 6 w6) } :: g.arming.drop 1 })

/-- The first chain gives way to what follows it: the next one's entry can be armed from now on (R190, R238). -/
def Engine.nextChain (g : Engine) (more : List Arming) (now : Nat) : Engine :=
  { g with arming := match more ++ g.arming.drop 1 with
    | [] => []
    | a :: l => { a with since := max a.since now } :: l }

/-- When an entry is armed at D2: its read takes the declared latency of a load (R238), and a full trigger table is waited for (R190). -/
def State.armDue (s : State) (k : Nat) (a : Arming) (w : List Word) : Nat :=
  max (a.since + s.accessTime k a.addr false) (if eWaitEn w then (s.engineAt (cidEng (eWait w))).roomAt else 0)

/-- An entry whose DONE is 0 armed; the chain goes on to the next. -/
def State.endArm (s : State) (eng : Nat) (a : Arming) (w : List Word) : State :=
  let x : Entry := { addr := a.addr, w := w, poster := a.poster, eng := eng, due := s.cycle }
  let s1 := (s.modEngine eng (fun g => g.nextChain (if eNext w = 0 then [] else [{ a with addr := eNext w, chained := true, entry := none }]) s.cycle)).noteColl x
  let s2 := if a.lost.contains (eColl w) then s1.fireDone x 5 else s1.place x
  if eNext w = 0 then s2.finishChain a.poster 0 else s2

/-- ENTRY_ARM (R190): the first chain that the engine has to arm goes on: its next entry is read at its home (R17) and checked, DONE is written 0, and the
entry is armed; at D2 at its declared latency, a later one being a late event (R232, R233). -/
def execEntryArm (s : State) : Out :=
  let eng := s.site.eng
  match (s.engineAt eng).arming with
  | [] => .next s
  | a :: _ =>
    let k := entryAgent eng ((s.posterCell a.poster).getD 0) a.addr
    let fault (s : State) : State := (s.modEngine eng (fun g => g.nextChain [] s.cycle)).chainFault a
    if a.net ≠ 0 || !s.dieUp (rimOf eng) || (inLocal a.addr.toNat && (s.posterCell a.poster).isNone) then .next s
    else
      match a.entry with
      | none =>
        (match s.fetch (s.entryReader eng a) 0 0 none .nowhere [⟨0, a.addr, 0, 64⟩] with
         | .wait => .next s
         | .sent s1 => .next s1
         | .got s1 m st =>
           let w := entryWords (m.flatMap (fun x => x.2.2))
           if st ≠ 0 || entryBad a.poster.level w || (a.chained && s1.stillArmed a) then .next (fault s1) else .next (s1.beginArm eng a w))
      | some w =>
        if s.outstanding (.chain eng) || (s.tableFull w).isSome || (a.poster.level = 2 && decide (s.cycle < s.armDue k a w)) then .next s
        else .next ((if a.poster.level = 2 then s.lateFor a.poster.launch a.poster.cell (s.armDue k a w) 6 else s).endArm eng a w)

/-! ### Execution (R192, R208) -/

/-- A fired entry by its number. -/
def Engine.fired? (g : Engine) (id : Nat) : Option Entry := g.fired.find? (fun e => e.id == id)

/-- The state with a fired entry changed. -/
def State.modFired (s : State) (eng id : Nat) (f : Entry → Entry) : State :=
  s.modEngine eng (fun g => { g with fired := g.fired.map (fun (x : Entry) => if x.id = id then f x else x) })

/-! ### Loss of a collective (R206) -/

/-- What some owners still have on its way is stopped, held writes among it. -/
def State.dropData (s : State) (p : Owner → Bool) : State :=
  let s1 := (s.redHeld.filter (fun w => p w.owner)).foldl State.unholdRed s
  { s1 with inWrites := s1.inWrites.filter (fun w => !p w.owner), redWrites := s1.redWrites.filter (fun w => !p w.owner),
            redHeld := s1.redHeld.filter (fun w => !p w.owner), asks := s1.asks.filter (fun x => !p x.owner), transfers := s1.transfers.filter (fun t => !p t.owner),
            parkedIn := s1.parkedIn.filter (fun w => !p w.2.2.owner), parkedRed := s1.parkedRed.filter (fun w => !p w.2.2.owner),
            cells := s1.cells.map (fun (e : Nat × Cell) => (e.1, { e.2 with cbuf := e.2.cbuf.filter (fun h => !p h.2.owner) })) }

/-- What an owner still has on its way is stopped. -/
def State.stopData (s : State) (o : Owner) : State := s.dropData (· == o)

/-- LOST set on a counter; the entries armed on it complete with status 5. -/
def State.loseCounter (s : State) (cid : Nat) : State := (s.setCounter cid { s.counterAt cid with lost := true }).trigger cid

/-- Every entry of a collective that is armed or executing. -/
def State.entriesOf (s : State) (coll : Nat) : List Entry :=
  s.engines.flatMap (fun g => (g.2.armed ++ g.2.fired.filter (fun e => e.done.isNone)).filter (fun e => eColl e.w == coll))

/-- What the launches here have noted of a collective (R206). -/
def State.collUses (s : State) (coll : Nat) : List CollUse := s.launches.flatMap (fun l => l.colls.filter (fun u => u.coll == coll))

/-- A collective is lost (R206): its entries complete with status 5, those of chains still to be armed once they are; the counters that its entries name get
LOST, those of entries that have completed too (R418), and a notice goes to every package named. -/
def State.lose (s : State) (coll : Nat) : State :=
  let l := s.entriesOf coll
  let cids := (l.flatMap (fun e => (if eWaitEn e.w then [eWait e.w] else []) ++
    (if eIncEn e.w && !(eIncRemote e.w && s.entryAway e.w) then [eIncCtr e.w] else [])) ++ (s.collUses coll).flatMap (fun u => u.cids)).eraseDups
  let pkgs := ((l.filter (fun e => s.entryAway e.w)).map (fun e => ePkg e.w) ++ (s.collUses coll).flatMap (fun u => u.pkgs)).eraseDups
  let s1 := s.engines.foldl (fun s g =>
    let mine := g.2.armed.filter (fun e => eColl e.w == coll)
    let s1 := s.modEngine g.1 (fun x => { x with armed := x.armed.filter (fun e => eColl e.w != coll) })
    let s2 := mine.foldl (fun s e => s.fireDone e 5) s1
    (g.2.fired.filter (fun e => e.done.isNone && eColl e.w == coll)).foldl (fun s e =>
      (s.stopData (.entry g.1 e.id)).modFired g.1 e.id (fun x => { x with done := some 5, sent := true })) s2) s
  let mark (a : Arming) : Arming := { a with lost := if a.lost.contains coll then a.lost else coll :: a.lost }
  let s1' := { s1 with engines := s1.engines.map (fun (g : Nat × Engine) => (g.1, { g.2 with arming := g.2.arming.map mark })),
                       cells := s1.cells.map (fun (c : Nat × Cell) => (c.1, { c.2 with chains := c.2.chains.map (fun x => (x.1, mark x.2)) })),
                       launches := s1.launches.map (fun (l : Launch) => { l with colls := l.colls.filter (fun u => u.coll != coll) }) }
  let s2 := cids.foldl State.loseCounter s1'
  { s2 with netOut := s2.netOut ++ pkgs.map (fun p => NetMsg.loss (BitVec.ofNat 19 p) coll false) }

/-- An exchange is lost (R225): every member here completes with status 5, its data stop, its counter counts with LOST set; the arbiters'
slots go, and a notice goes to the other packages of the member table. -/
def State.loseExchange (s : State) (xid : Nat) : State :=
  let mine := s.members.filter (fun m => m.post.xid == xid && !m.done)
  let slots := s.xslots.filter (fun x => x.2.xid == xid)
  let pkgs := ((mine.flatMap (fun m => m.post.memtab) ++ slots.flatMap (fun x => x.2.posts.flatMap (fun p => p.memtab))).filter (fun p => p != s.pkgId)).eraseDups
  let about (m : XMsg) : Bool :=
    match m with
    | .post _ _ _ p => p.xid == xid
    | .row x _ _ _ _ _ _ => x == xid
    | .phase x _ _ _ => x == xid
    | .ack _ _ x _ _ _ => x == xid
    | .acked _ x _ _ _ => x == xid
    | .finish x _ _ => x == xid
    | .takeover x _ _ _ => x == xid
    | .heartbeat x => x == xid
  let isOf (o : Owner) : Bool := match o with | .grant x _ _ _ => x == xid | _ => false
  let s1 := { s with
    members := s.members.map (fun (m : Member) => if m.post.xid = xid && !m.done then { m with causes := m.causes ++ [5], done := true } else m),
    xslots := s.xslots.filter (fun x => x.2.xid != xid), xmsgs := s.xmsgs.filter (fun m => !about m), xnet := s.xnet.filter (fun m => !about m.2),
    netOut := s.netOut ++ pkgs.map (fun p => NetMsg.loss p xid true) }
  mine.foldl (fun s m =>
    if !m.ctrEn then s
    else (s.loseCounter m.ctr.toNat).sendInc (64 * rimOf m.post.eng) (some m.launch) m.ctr 1 (foldWord 6 s.pkgId.toNat (rimOf m.post.eng) m.post.member m.nphase)) (s1.dropData isOf)

/-- LOSS_NOTICE (R206, R225). -/
def execLossNotice (s : State) : Out := .next (if s.site.yes then s.loseExchange s.site.n else s.lose s.site.n)

/-- Every collective and exchange that names an unreachable package is lost, and the collective of the entry that found it, which keeps its own status
(R204, R206, R225). -/
def State.losePackage (s : State) (pkg : Nat) (finder : Owner) : State :=
  let own : List Nat := match finder with
    | .entry e id => (((s.engineAt e).fired.find? (fun x => x.id == id)).map (fun x => eColl x.w)).toList
    | _ => []
  let named (coll : Nat) : Bool := (s.entriesOf coll).any (fun e => s.entryAway e.w && ePkg e.w == pkg) ||
    (!(s.entriesOf coll).isEmpty && (s.collUses coll).any (fun u => u.pkgs.contains pkg))
  let l := ((s.engines.flatMap (fun g => (g.2.armed ++ g.2.fired).map (fun e => eColl e.w))).eraseDups).filter named
  let xs := ((s.members.filter (fun m => !m.done && m.post.memtab.contains (BitVec.ofNat 19 pkg))).map (fun m => m.post.xid) ++
    (s.xslots.filter (fun x => x.2.posts.any (fun p => p.memtab.contains (BitVec.ofNat 19 pkg)))).map (fun x => x.2.xid)).eraseDups
  xs.foldl State.loseExchange (((own ++ l).eraseDups).foldl State.lose s)

/-! ### Execution, continued -/

/-- Whether a fired entry may execute: one of the first 16 of its engine, after those before it have begun (R190); one that waits for its posting group
holds the later ones back (DESIGN CHOICE, log entry 170). -/
def Engine.mayRun (g : Engine) (id : Nat) : Bool :=
  let before := g.fired.takeWhile (fun e => e.id != id)
  decide (before.length < 16) && before.all (fun e => e.sent || e.done.isSome)

/-- Whether some of n bytes at an address lie in the local window (R159). -/
def meetsLocal (va n : Nat) : Bool := decide (localBase < va + n) && decide (va < 2 ^ 52)

/-- Whether an entry reads or writes the posting group's scratchpad (R187). -/
def State.entryLocal (s : State) (w : List Word) : Bool :=
  eOp w != 2 && eBytes w != 0 && (meetsLocal (eLaddr w).toNat (eBytes w) || (meetsLocal (eRaddr w).toNat (eBytes w) && !s.entryAway w))

/-- How an entry stands towards its posting group: it may act on a cell, waits, or has been cancelled with its launch. -/
inductive EntryGate where
  | go (cell : Nat)
  | wait
  | cancelled
deriving DecidableEq, Repr

/-- Whether an entry may act now. -/
def State.entryGate (s : State) (e : Entry) : EntryGate :=
  if !s.entryLocal e.w then .go 0
  else if (s.launch? e.poster.launch).isNone then .cancelled
  else
    match s.posterCell e.poster with
    | some k => .go k
    | none => .wait

/-- The word that an entry folds into ORDSIG (R203 kind 1). -/
def State.entryFold (s : State) (e : Entry) : Word := foldWord 1 s.pkgId.toNat (rimOf e.eng) (eSreg e.w) (eSeq e.w)

/-- The increment that travels with an entry's data to another package (R181, R188), if there is one. -/
def State.awayInc (s : State) (e : Entry) : Option Inc :=
  if eIncEn e.w && eIncRemote e.w && s.entryAway e.w then some { cid := BitVec.ofNat 14 (eIncCtr e.w), amount := BitVec.ofNat 64 (eInc e.w), fold := s.entryFold e } else none

/-- The increment put on the last chunk of an entry. -/
def markLast (o : Owner) (i : Option Inc) (l : List Transfer) : List Transfer :=
  let last := (l.filter (fun t => t.owner == o)).getLast?
  l.map (fun (t : Transfer) => if some t = last then { t with inc := i } else t)

/-- The declared latency of an entry's data (R238). -/
def State.entryTime (s : State) (e : Entry) (cell : Nat) : Nat :=
  let die := rimOf e.eng
  let src := s.homeOf (entryAgent e.eng cell (eLaddr e.w)) (eLaddr e.w) die (some die)
  let dst := s.homeOf (entryAgent e.eng cell (eRaddr e.w)) (eRaddr e.w) die
  400 + 128 * (s.hops die src + s.hops src dst) + (eBytes e.w + 127) / 128

/-- A chunk without data that carries an entry's increment to another package (R181, R204); the entry is lost, with an event, where no port is in service. -/
def State.sendAwayInc (s : State) (e : Entry) (i : Inc) : State :=
  let o := Owner.entry e.eng e.id
  let s0 := s.modFired e.eng e.id (fun x => { x with carried := true })
  match s0.sendRemote (ePkg e.w) [(0, [])] .write o with
  | none => ((s0.bbox (rimOf e.eng) (bbEvent s.cycle 0x10 3 0 0 0 0 (i.cid.zeroExtend 64) i.amount)).report o 3).losePackage (ePkg e.w) o
  | some s1 => { s1 with transfers := markLast o (some i) s1.transfers }

/-- An entry's increment of another package sent where no data of it carries it. -/
def State.incAlone (s : State) (e : Entry) : State :=
  match s.awayInc e, (s.engineAt e.eng).fired? e.id with
  | some i, some x => if x.carried then s else s.sendAwayInc e i
  | _, _ => s

/-- What reads the source of an entry. -/
def State.dataReader (e : Entry) (cell : Nat) : Reader :=
  { kOf := entryAgent e.eng cell, die := rimOf e.eng, seq := e.poster.seq, owner := .entry e.eng e.id, user := some e.poster.launch }

/-- An entry's data read and put on its way (R192): none while it has to wait. -/
def State.entryMove (s : State) (e : Entry) (cell : Nat) : Option State :=
  let die := rimOf e.eng
  let o := Owner.entry e.eng e.id
  let away := s.entryAway e.w
  let begun (s : State) : State := s.modFired e.eng e.id (fun x => { x with sent := true, due := x.due + s.entryTime e cell })
  if eBytes e.w = 0 then some ((begun s).incAlone e)
  else if eRemote e.w && inLocal (eRaddr e.w).toNat && away then some (((begun s).report o 1).incAlone e)
  else
    let ps := cutPieces (!s.badWords.isEmpty) (piecesOf (.run (eLaddr e.w)) (.run (eRaddr e.w)) (eBytes e.w + 1) 0 (eBytes e.w))
    match s.fetch (State.dataReader e cell) 0 0 none (if away then .remote else .here) ps with
    | .wait => none
    | .sent s1 => some s1
    | .got s1 m st =>
      let kept := if st ≠ 0 && eOp e.w = 1 && eSpan e.w ≠ 0 then [] else keepPart (keyOf e.w e.addr.toNat) st m
      let s2 := begun s1
      let runs := kept.map (fun x => (x.2.1, x.2.2))
      let kind : ChunkKind := if eOp e.w = 1 then .reduce (eRed e.w) (eSreg e.w) (eSeq e.w) (eSpan e.w) else .write
      let win := e.poster.window (eRaddr e.w)
      let s3 :=
        if runs.isEmpty then s2
        else if away then
          (match s2.sendRemote (ePkg e.w) runs kind o with
           | none => (s2.report o 3).losePackage (ePkg e.w) o
           | some s3 => { s3 with transfers := markLast o (s.awayInc e) s3.transfers }.modFired e.eng e.id (fun x => { x with carried := (s.awayInc e).isSome }))
        else if eOp e.w = 1 then
          s2.sendReduce (64 * die) (some e.poster.launch) { id := 0, parts := runs, red := eRed e.w, sreg := eSreg e.w, sq := eSeq e.w, span := eSpan e.w, owner := o, win := win }
        else s2.sendWrites (64 * die) (some e.poster.launch) o runs win
      some ((if st = 0 then s3 else s3.report o st).incAlone e)

/-- The execution of a fired entry with an OP. -/
def State.entryRun (s : State) (op : Nat) : State :=
  let g := s.engineAt s.site.eng
  match g.fired? s.site.n with
  | none => s
  | some e =>
    if eOp e.w ≠ op || e.sent || e.done.isSome || !g.mayRun e.id || !s.dieUp (rimOf e.eng) then s
    else
      match s.entryGate e with
      | .wait => s
      | .cancelled => s.modFired e.eng e.id (fun x => { x with sent := true, done := some 7 })
      | .go k => (s.entryMove e k).getD s

/-- ENTRY_WRITE (R192). -/
def execEntryWrite (s : State) : Out := .next (s.entryRun 0)

/-- ENTRY_WRITE_REDUCE (R192, R200, R201). -/
def execEntryWriteReduce (s : State) : Out := .next (s.entryRun 1)

/-- ENTRY_SIGNAL (R192): no data; complete at once, at D2 16 cycles after its firing (R238). -/
def execEntrySignal (s : State) : Out :=
  let g := s.engineAt s.site.eng
  match g.fired? s.site.n with
  | none => .next s
  | some e =>
    if eOp e.w ≠ 2 || e.sent || e.done.isSome || !g.mayRun e.id || !s.dieUp (rimOf e.eng) then .next s
    else .next ((s.modFired e.eng e.id (fun x => { x with sent := true, due := x.due + 16 })).incAlone e)

/-! ### The end of a launch (R206, R208) -/

/-- What the collective engines do when a launch completes (R206, R208): its armed entries are discarded and counted; after a fault or a cancellation its
collectives are lost; fired ones that touch the group's scratchpad stop. -/
def State.endCollectives (s : State) (key : Nat) (failed : Bool) : State :=
  let mine (e : Entry) : Bool := e.poster.launch == key
  let colls := ((s.engines.flatMap (fun g => (g.2.armed ++ g.2.fired.filter (fun e => e.done.isNone)).filter mine)).map (fun e => eColl e.w)).eraseDups
  let posted := (((s.launch? key).map (fun l => l.colls.map (fun u => u.coll))).getD []).filter (fun c => !(s.entriesOf c).isEmpty)
  let gone := s.engines.flatMap (fun g => g.2.armed.filter mine)
  let s1 := { s with engines := s.engines.map (fun (g : Nat × Engine) => (g.1, { g.2 with armed := g.2.armed.filter (fun e => !mine e), arming := g.2.arming.filter (fun a => a.poster.launch != key) })) }
  let s2 := colls.foldl (fun s c =>
    let n := gone.countP (fun e => eColl e.w == c)
    match gone.find? (fun e => eColl e.w == c) with
    | none => s
    | some e => s.bboxCell e.poster.cell 0x0A 0 (BitVec.ofNat 64 n) (BitVec.ofNat 64 c)) s1
  let s3 := if failed then ((colls ++ posted).eraseDups).foldl State.lose s2 else s2
  s3.engines.foldl (fun (s : State) (g : Nat × Engine) => (g.2.fired.filter (fun e => mine e && e.done.isNone && s.entryLocal e.w)).foldl (fun s e =>
    (s.stopData (.entry g.1 e.id)).modFired g.1 e.id (fun x => { x with done := some 7, sent := true })) s) s3

/-! ### Completion (R190, R192, R204) -/

/-- STATUS and DONE on their way to an entry: none while its posting group, in whose scratchpad it lies, is not bound. -/
def State.writeStatus (s : State) (e : Entry) (st : BitVec 3) : Option State :=
  let die := rimOf e.eng
  let send (k : Nat) : State :=
    s.engineBytes die k (e.addr + 55) [BitVec.ofNat 8 (st.toNat + 8)] (.status e.eng e.id) (e.poster.window e.addr)
  if inLocal e.addr.toNat then
    (match s.posterCell e.poster with
     | some k => some (send k)
     | none => if (s.launch? e.poster.launch).isNone then some s else none)
  else some (send (64 * die))

/-- A completed entry leaves its engine and increments its counter (R192, R194). -/
def State.finishEntry (s : State) (e : Entry) (st : BitVec 3) : State :=
  let s0 := if e.poster.level = 2 && !s.entryAway e.w && st = 0 then s.lateFor e.poster.launch e.poster.cell e.due 6 else s
  let s1 := s0.modEngine e.eng (fun g => { g with fired := g.fired.filter (fun x => x.id != e.id) })
  if !eIncEn e.w || (s.awayInc e).isSome then s1
  else s1.sendInc (64 * rimOf e.eng) (some e.poster.launch) (BitVec.ofNat 14 (eIncCtr e.w)) (BitVec.ofNat 64 (eInc e.w)) (s.entryFold e)

/-- ENTRY_COMPLETE (R190, R192): the effect is complete; STATUS and DONE are written, then the counter is incremented. Site: yes and
word: the destination package has acknowledged every chunk, with this status. -/
def execEntryComplete (s : State) : Out :=
  let eng := s.site.eng
  match (s.engineAt eng).fired? s.site.n with
  | none => .next s
  | some e =>
    let o := Owner.entry eng e.id
    let sending := s.transfers.any (fun t => t.owner == o)
    let st : BitVec 3 := e.done.getD (if sending then BitVec.ofNat 3 s.site.word.toNat else 0)
    if e.told then (if s.outstanding (.status eng e.id) then .next s else .next (s.finishEntry e (e.done.getD 0)))
    else if !e.sent || s.outstanding o || (sending && !s.site.yes) then .next s
    else if (s.awayInc e).isSome && !e.carried then .next (s.incAlone e)
    else if st = 0 && e.poster.level = 2 && !s.entryAway e.w && decide (s.cycle < e.due) then .next s
    else
      match s.writeStatus e st with
      | none => .next s
      | some s1 => .next ({ s1 with transfers := s1.transfers.filter (fun t => t.owner != o) }.modFired eng e.id (fun x => { x with told := true, done := some st }))

/-! ### Chunks of the fabric (R204, R205) -/

/-- 50 µs in cycles (R204). -/
def fabricTime : Nat := 112500

/-- The launch on whose behalf an owner moves data. -/
def State.ownerLaunch (s : State) (o : Owner) : Option Nat :=
  match o with
  | .copy k _ => ((s.cellAt k).bound).map (fun b => b.launch)
  | .entry e id => ((s.engineAt e).fired? id).map (fun x => x.poster.launch)
  | .grant xid _ snd _ => (s.members.find? (fun m => m.post.xid == xid && m.post.member == snd)).map (fun m => m.launch)
  | .tensor k _ => ((s.cellAt k).bound).map (fun b => b.launch)
  | .vector k _ => ((s.cellAt k).bound).map (fun b => b.launch)
  | .status e id => ((s.engineAt e).fired? id).map (fun x => x.poster.launch)
  | .received xid n => (s.members.find? (fun m => m.post.xid == xid && m.post.member == n)).map (fun m => m.launch)
  | _ => none

/-- FABRIC_CHUNK_TIMEOUT (R204): the chunk named is the first that its owner has unacknowledged at a package; those before it are acknowledged. The path
is re-formed on the next port and the owner's chunks go again from there; after 8 sends, or with no port, the transfer completes with status 3, an increment that it carried leaves an event (R19)
and the package is reported unreachable. Site: n the chunk. -/
def execFabricChunkTimeout (s : State) : Out :=
  match s.unreached with
  | pkg :: rest => .next ({ s with unreached := rest }.losePackage pkg .none)
  | [] =>
    match s.transfers[s.site.n]? with
    | none => .next s
    | some t =>
      let same (x : Transfer) : Bool := x.pkg == t.pkg && x.owner == t.owner
      let before := s.transfers.take s.site.n
      let s0 := { s with transfers := before.filter (fun x => !same x) ++ s.transfers.drop s.site.n }
      if s.cycle < t.sent + fabricTime && s.portUp t.port then .next s
      else
        let port := ((List.range 32).map (fun i => (t.port + 1 + i) % 32)).find? s.portUp
        match port, decide (8 ≤ t.sends) with
        | some p, false =>
          let s1 := { s0 with transfers := s0.transfers.map (fun (x : Transfer) => if same x then { x with port := p, sends := x.sends + 1, sent := s.cycle } else x) }
          .next (match s.ownerLaunch t.owner with
            | some key => s1.corrected key (s.cycle - (if s.portUp t.port then t.sent + fabricTime else (NatMap.get {} s.ports t.port).since))
            | none => s1)
        | _, _ =>
          let incs := (s.transfers.filter (fun x => x.owner == t.owner)).filterMap (fun x => x.inc)
          let s1 := incs.foldl (fun s i => s.bbox (16 + t.port / 8) (bbEvent s.cycle 0x10 3 0 0 0 0 (i.cid.zeroExtend 64) i.amount)) s
          .next (((s1.stopData t.owner).report t.owner 3).losePackage t.pkg.toNat t.owner)

/-- FABRIC_CHUNK (R204, R205): a chunk from another package is taken once, translated here and put on its way to memory; a duplicate is
answered again. Exchange data are kept apart (R224). -/
def State.takeChunk (s : State) (place : State → Chunk → Nat → State) : State :=
  let c := s.site.chunk
  let pkg := c.srcPkg.toNat
  let diff := c.num - NatMap.get 0xFFFF s.chunkLast pkg
  if diff = 1 then
    let n := s.chunkNext
    let s1 := { s with chunkLast := NatMap.put 0xFFFF s.chunkLast pkg c.num, chunkNext := n + 1,
                       chunksIn := s.chunksIn ++ [⟨n, c.srcPkg, c.num, c.inc.map (fun i => { cid := i.1, amount := i.2.1, fold := i.2.2 }), 0⟩] }
    (place s1 c n).settleChunks
  else if diff = 0 || 0x8000 ≤ diff.toNat then
    match (NatMap.get [] s.chunkResp pkg).find? (fun r => r.1 == c.num) with
    | none => s
    | some r => { s with netOut := s.netOut ++ [.ack c.srcPkg c.num r.2] }
  else s

/-- The pieces of a chunk with their physical addresses; the status of the first that fails. -/
def State.chunkPieces (s : State) (c : Chunk) : State × Moves × BitVec 3 :=
  let ps := piecesOf (.run 0) (.run c.va) (c.bytes.length + 1) 0 c.bytes.length
  let perm := match c.kind with | .permuted p => p | _ => 0
  ps.foldl (fun (s, m, st) p =>
    if st ≠ 0 then (s, m, st)
    else if inLocal p.dst.toNat then (s, m, 1)
    else
      match s.translate 1024 p.dst true with
      | .error x => (s.noteWalk 1024 p.dst, m, x.status)
      | .ok (pa, repl, s1) => (s1, m ++ [(p.pos, (if repl then pa + replFlag else permutePa perm pa), (c.bytes.drop p.pos).take p.n)], st)) (s, [], (0 : BitVec 3))

/-- A chunk of plain data or of a reducing write performed here. -/
def State.placeChunk (s : State) (c : Chunk) (n : Nat) : State :=
  let o := Owner.chunk n
  let (s1, m, st) := s.chunkPieces c
  let s2 := if st = 0 then s1 else s1.report o st
  match c.kind with
  | .reduce red sreg sq span =>
    if st ≠ 0 || m.isEmpty then s2
    else s2.sendReduce 1024 none { id := 0, parts := m.map (fun x => (x.2.1, x.2.2)), red := red, sreg := sreg, sq := sq, span := span, owner := o }
  | _ => s2.sendWrites 1024 none o (m.map (fun x => (x.2.1, x.2.2)))

end Sys2Proof.Machine
end

