-- ==== Sys2Proof/Machine/Halyard.lean ====
section
/-! DEFINITION. Barriers (R324 to R328) and what a phase starts (R242). -/

namespace Sys2Proof.Machine

/-! ### Scope instances (R325) -/

/-- The scope that a cell belongs to at a level below the package; the package's own at package level. -/
def scopeAt (level k : Nat) : Nat :=
  match level with
  | 0 => k
  | 1 => quadOf k
  | 2 => k / 64
  | _ => 0

/-- Whether a barrier is an instance. -/
def Barrier.isAt (launch level scope : Nat) (b : Barrier) : Bool := b.launch == launch && b.level == level && b.scope == scope

/-- An instance, a fresh one where none is there. -/
def State.barrierAt (s : State) (launch level scope : Nat) : Barrier :=
  (s.barriers.find? (Barrier.isAt launch level scope)).getD { launch := launch, level := level, scope := scope }

/-- The state with an instance written. -/
def State.setBarrier (s : State) (b : Barrier) : State :=
  if s.barriers.any (Barrier.isAt b.launch b.level b.scope) then { s with barriers := modFirst (Barrier.isAt b.launch b.level b.scope) (fun _ => b) s.barriers }
  else { s with barriers := s.barriers ++ [b] }

/-- Whether every member has joined the open generation (R325). -/
def Barrier.allIn (l : Launch) (b : Barrier) : Bool :=
  !b.joined.isEmpty &&
  (if b.level < 3 then l.bound.all (fun e => scopeAt b.level e.2 != b.scope || b.joined.contains e.1)
   else decide (l.groups ≤ (b.joined.filter (fun g => !l.ended.contains g)).length + l.ended.length))

/-- The cycles from the last arrival to completion at D2 (R239). -/
def barrierTime : Nat → Nat
  | 0 => 16
  | 1 => 48
  | 2 => 192
  | 3 => 640
  | _ => 0

/-- The next generation opens. -/
def Barrier.open' (b : Barrier) : Barrier := { b with gen := b.gen + 1, joined := [], due := none }

/-- Whether notices of the open generation have come from every package of the table (R327). -/
def State.allHeard (s : State) (b : Barrier) : Bool :=
  b.table.all (fun p => s.notices.any (fun n => n.bid == b.scope && n.gen == b.gen && n.crc == b.crc && n.pkg == p))

/-- An instance as time and members have made it: a generation that every member has joined completes, at D2 a fixed time after the last of them; at
system level the package first sends its notices and then hears from all (R325, R239, R327). None of a launch that has been stopped does (R328). -/
def State.settleBarrier (s : State) (b : Barrier) : State :=
  match s.launch? b.launch with
  | none => s
  | some l =>
    if l.status ≠ .running then s
    else if !b.allIn l then (if b.due.isSome then s.setBarrier { b with due := none } else s)
    else if b.level = 4 then
      let s1 :=
        if b.sent = b.gen then s
        else
          let away := b.table.filter (fun p => p != s.pkgId)
          ({ s with notices := s.notices ++ [⟨b.scope, b.gen, b.crc, s.pkgId⟩],
                    netOut := s.netOut ++ away.map (fun p => NetMsg.arrival p b.scope b.gen b.crc) } : State).setBarrier { b with sent := b.gen }
      let b1 := { b with sent := b.gen }
      if s1.allHeard b1 then
        let s2 := s1.setBarrier b1.open'
        { s2 with notices := s2.notices.filter (fun n => !(n.bid == b.scope && n.gen == b.gen)) }
      else s1
    else if l.level = 2 then
      (match b.due with
       | none => s.setBarrier { b with due := some (s.cycle + barrierTime b.level) }
       | some d => if d ≤ s.cycle then s.setBarrier b.open' else s)
    else s.setBarrier b.open'

/-- Every instance settled. -/
def State.settleBarriers (s : State) : State := s.barriers.foldl State.settleBarrier s

/-- Whether a generation of an instance is complete. -/
def State.genDone (s : State) (launch level scope : Nat) (gen : Word) : Bool := decide (gen.toNat < (s.barrierAt launch level scope).gen.toNat)

/-! ### System records (R327) -/

/-- What a system record says. -/
structure SysRecord where
  addr  : Word
  bid   : Nat
  table : List (BitVec 19)
  crc   : Word
deriving DecidableEq, Repr

/-- A system record read and checked. -/
def readSysRecord (ea : Word) : M SysRecord := do
  if ea.toNat % 16 ≠ 0 then collFault ea
  else do
    let w ← readWords ea 2
    let w0 := w.getD 0 0
    let w1 := w.getD 1 0
    let n := bits w0 43 24
    if bits w0 63 44 ≠ 0 || bits w1 63 52 ≠ 0 || w1.toNat % 8 ≠ 0 || n = 0 || 524288 < n then collFault ea
    else do
      let t ← readWords w1 n
      let s ← get
      if t.any (fun e => bits e 63 19 ≠ 0) || !t.any (fun e => e.truncate 19 == s.pkgId) then collFault ea
      else do
        wordsRead
        pure ⟨ea, bits w0 23 0, t.map (fun e => e.truncate 19), crc64 crcInit (t.flatMap (fun e => leBytes 8 e.toNat))⟩

/-! ### The instruction (R324) -/

/-- What the bound group of the cell is. -/
def State.hereBound (s : State) : Bound := s.cur.bound.getD ⟨0, 0, 0, 0⟩

/-- The generation that the group last joined at a level, with its scope. -/
def State.lastJoin (s : State) (level : Nat) : Option (Nat × Word) :=
  let b := s.hereBound
  match s.launch? b.launch with
  | none => none
  | some l => (l.joins.find? (fun e => e.1 == 8 * b.group + level)).map (fun e => e.2)

/-- Whether the group has joined a generation at a level that is still open. -/
def State.joinOpen (s : State) (level : Nat) : Bool :=
  match s.lastJoin level with
  | none => false
  | some (scope, gen) => !s.genDone s.hereBound.launch level scope gen

/-- The first notice with another checksum for the generation that a system instance has open faults every group of the package (R327). -/
def State.clashes (s : State) (b : Barrier) : State :=
  match s.launch? b.launch with
  | none => s
  | some l =>
    if b.clash = b.gen || !s.notices.any (fun n => n.bid == b.scope && n.gen == b.gen && n.crc != b.crc) then s
    else l.bound.foldl (fun s e => s.deferred e.2 tcColl .K (s.cellAt e.2).k.pc b.addr) (s.setBarrier { b with clash := b.gen })

/-- The group joins the open generation of its instance: the state, the scope and the generation. -/
def State.arrive (s : State) (level : Nat) (r : Option SysRecord) : State × Nat × Word :=
  let bd := s.hereBound
  let scope := match r with | some x => x.bid | none => scopeAt level s.here
  let b := s.barrierAt bd.launch level scope
  let b1 := match r with
    | some x => if b.joined.isEmpty then { b with addr := x.addr, table := x.table, crc := x.crc } else b
    | none => b
  let b2 := { b1 with joined := b1.joined ++ [bd.group] }
  let s1 := (if level = 4 then (s.setBarrier b2).clashes b2 else s.setBarrier b2)
  let s2 := s1.modLaunch bd.launch (fun l => { l with joins := NatMap.ins l.joins (8 * bd.group + level) (scope, b.gen) })
  (s2.settleBarriers, scope, b.gen)

/-- A join noted in the cell, for the instruction to wait on. -/
def State.noteJoin (s : State) (j : Joined) : State := s.modCell s.here (fun c => { c with joined := some j })

/-- Whether what a sequencer issued at a cycle is ordered before K's `bar` of a cycle (R324): K's own by program order, that of the others by what K has
consumed, at the cycles that came with it (DEDUCED, log entry 179). -/
def Cell.before (c : Cell) (since : Nat) (q : SeqId) (at' : Nat) : Bool :=
  if q = .K then decide (at' ≤ since) else decide (at' < NatMap.get 0 (NatMap.get [] c.seen SeqId.K.num) q.num)

/-- Whether no chain ordered before the `bar` waits to be armed. -/
def Cell.chainDone (c : Cell) (k since : Nat) (p : Poster) : Bool :=
  p.cell != k || p.tag.isNone || c.remBusy == some p.id || !c.before since p.seq p.issued

/-- Whether the cell's work ordered before K's `bar` of a cycle is done (R324): every command complete with its arbitration, every store performed. -/
def State.workDone (s : State) (since : Nat) : Bool :=
  let k := s.here
  let c := s.cur
  c.vcmds.all (fun v => !c.before since .C v.issued) && c.tensors.all (fun t => !c.before since (if t.load then .L else .S) t.issued) &&
  c.copies.all (fun x => x.remq || !c.before since x.seq x.born) && c.fills.all (fun f => !c.before since f.seq f.issued) &&
  (s.quadAt (quadOf k)).cmds.all (fun m => m.cell != k || m.ofWalk.isSome || m.tagged || !c.before since .C m.issued) &&
  s.engines.all (fun g => g.2.arming.all (fun a => c.chainDone k since a.poster)) && c.chains.all (fun x => c.chainDone k since x.2.poster) &&
  allSeqs.all (fun q =>
    !(c.seq q).slots.any (fun x => (match x.item with | .store _ _ _ _ _ _ => c.before since q x.at? | _ => false)) &&
    !s.cells.any (fun o => o.2.cbuf.any (fun e => e.2.madeBy k q && c.before since q e.2.born)) &&
    !s.pairs.any (fun e => e.2.unacked.any (fun r => r.cell == k && r.seq == q && (match r.op with | .write _ => c.before since q r.born | _ => false))) &&
    !s.replicas.any (fun r => r.cell == k && r.seq == q && c.before since q r.born))

/-- A hash-tree update triggered for a launch at a cycle, if its region keeps a tree; its groups are held (R242). -/
def State.triggerHash (s : State) (key : Nat) (timer : Bool) (at_ : Nat) : State :=
  match s.launch? key with
  | none => s
  | some l =>
    if bits (l.ht.getD 1 0) 31 0 = 0 then s
    else ({ s with hashReqs := s.hashReqs ++ [{ region := l.region, launch := key, timer := timer, cycle := at_, looked := at_, num := l.num, level := l.level, ht := l.ht }] } : State).modLaunch key (fun l => { l with holdHash := true })

/-- A phase at package or system level exits: the first group that leaves a generation triggers the update of its launch (R242), and at system level the
exit is the reference from then on (R231). -/
def State.exitPhase (s : State) (level : Nat) : State :=
  if level < 3 then s
  else
    match s.lastJoin level with
    | none => s
    | some (scope, gen) =>
      let key := s.hereBound.launch
      let at' := 8 * scope + level
      if (s.launch? key).any (fun l => decide (gen.toNat ≤ (NatMap.get 0 l.phased at').toNat)) then s
      else
        let renew (l : Launch) : Launch := if level = 4 && l.ref?.isSome then { l with ref? := some s.cycle, ticks := 0 } else l
        (s.modLaunch key (fun l => { renew l with phased := NatMap.ins l.phased at' gen })).triggerHash key false s.cycle

/-- The record that a `bar` reads, at system level. -/
def barRecord (level : Nat) (a : BitVec 5) : M (Option SysRecord) :=
  if level = 4 then do
    let ea ← readReg a
    let r ← readSysRecord ea
    pure (some r)
  else pure none

/-- The checks of a `bar`. -/
def barChecks (level : Nat) (d a : BitVec 5) : M Unit := do
  checkDst d
  if level = 4 then checkSrc a else pure ()

/-- An arrive must be able to leave (R326), and the generation the group last joined must be complete (R325). -/
def mayArrive (level : Nat) : M Unit := do
  let s ← get
  if !s.storesDone s.here s.site.seq then waitFor 9 level
  else do
    set s.settleBarriers
    if s.settleBarriers.joinOpen level then waitFor 9 level else pure ()

/-- `bar.arrive`. -/
def execBarArrive (t : BitVec 4) (d a : BitVec 5) (l : BitVec 3) : State → Out :=
  issue { t := t, who := [.K], checks := barChecks l.toNat d a } (do
    let r ← barRecord l.toNat a
    mayArrive l.toNat
    let s ← get
    let (s1, _, gen) := s.arrive l.toNat r
    set s1
    writeReg d gen
    pure .seq)

/-- `bar.wait`. -/
def execBarWait (t : BitVec 4) (d a : BitVec 5) (l : BitVec 3) : State → Out :=
  issue { t := t, who := [.K], checks := barChecks l.toNat d a } (do
    let _ ← barRecord l.toNat a
    let s ← get
    let s1 := s.settleBarriers
    set s1
    match s1.lastJoin l.toNat with
    | none => writeReg d 0
    | some (scope, gen) => if s1.genDone s1.hereBound.launch l.toNat scope gen then writeReg d gen else waitFor 9 l.toNat
    pure .seq)

/-- The join that the instruction at K's program counter has made. -/
def State.myJoin (s : State) : Option Joined :=
  match s.cur.joined with
  | some (.drain pc n) => if pc = s.curSeq.pc then some (.drain pc n) else none
  | some (.barrier pc l sc g) => if pc = s.curSeq.pc then some (.barrier pc l sc g) else none
  | _ => none

/-- The wait of a sync: it ends with its generation. -/
def syncWait (level scope : Nat) (gen : Word) (d : BitVec 5) : M Unit := do
  let s ← get
  let s1 := s.settleBarriers
  if s1.genDone s1.hereBound.launch level scope gen then do
    set (s1.modCell s1.here (fun c => { c with joined := none }))
    writeReg d gen
  else waitFor 9 level

/-- The arrival of a sync, after which it waits. -/
def syncArrive (level : Nat) (a d : BitVec 5) : M Unit := do
  let r ← barRecord level a
  mayArrive level
  let s ← get
  let (s1, scope, gen) := s.arrive level r
  if s1.genDone s1.hereBound.launch level scope gen then do
    set (s1.modCell s1.here (fun c => { c with joined := none }))
    writeReg d gen
  else holdWith (fun _ => (s1.noteJoin (.barrier s.curSeq.pc level scope gen)).blockOn 9 level)

/-- `bar.sync`. -/
def execBarSync (t : BitVec 4) (d a : BitVec 5) (l : BitVec 3) : State → Out :=
  issue { t := t, who := [.K], checks := barChecks l.toNat d a } (do
    let s ← get
    match s.myJoin with
    | some (.barrier _ level scope gen) => syncWait level scope gen d
    | _ => syncArrive l.toNat a d
    pure .seq)

/-- `bar.phase`: the cell's work drains, then as sync; at package and system level the exit triggers the hash-tree update (R242). -/
def execBarPhase (t : BitVec 4) (d a : BitVec 5) (l : BitVec 3) : State → Out :=
  issue { t := t, who := [.K], checks := barChecks l.toNat d a } (do
    let s ← get
    match s.myJoin with
    | some (.barrier _ level scope gen) => syncWait level scope gen d
    | some (.drain _ since) => if s.workDone since then syncArrive l.toNat a d else waitFor 9 l.toNat
    | _ =>
      if s.workDone s.cycle then syncArrive l.toNat a d
      else holdWith (fun s => (s.noteJoin (.drain s.curSeq.pc s.cycle)).blockOn 9 l.toNat)
    modify (fun s => s.exitPhase l.toNat)
    pure .seq)

/-- SYSTEM_ARRIVAL_NOTICE (R327): a notice is kept for its generation; the first with another table checksum faults every group of the package. -/
def execSystemArrivalNotice (s : State) : Out :=
  let n : Notice := ⟨s.site.n, s.site.word, s.site.word2, s.site.chunk.srcPkg⟩
  let s1 := { s with notices := s.notices ++ [n] }
  match s1.barriers.find? (fun b => b.level == 4 && b.scope == n.bid && b.gen == n.gen && !b.joined.isEmpty) with
  | none => .next s1
  | some b => .next ((s1.clashes b).settleBarriers)

end Sys2Proof.Machine
end

