-- ==== Sys2Proof/Machine/Remote.lean ====
section
/-! DEFINITION. Commands to another group (R81 to R83, R283, R322) and growth of a launch (R79, R80, R321). -/

namespace Sys2Proof.Machine

/-! ### `remq` and `remqt` -/

/-- How a push to a target group stands (R81, R83). -/
inductive PushTo where
  | cell (k : Nat)
  | gone
  | wait
deriving DecidableEq, Repr

/-- Blocks for a group that stand in check slots (R107). -/
def State.blocksFor (s : State) (key g : Nat) : Nat :=
  s.cells.foldl (fun n c => n + c.2.k.slots.countP (fun x => match x.item with | .block a b _ => a == key && b == g | _ => false)) 0

/-- The target of a push by its group index. -/
def State.pushTarget (s : State) (g : Word) : PushTo :=
  match s.launch? s.hereBound.launch with
  | none => .gone
  | some l =>
    if l.groups ≤ g.toNat || l.ended.contains g.toNat || l.status ≠ .running then .gone
    else
      match l.bound.find? (fun e => e.1 == g.toNat) with
      | none => .wait
      | some e => if 16 ≤ (s.cellAt e.2).remq.length + s.blocksFor l.key e.1 || (s.cellAt e.2).stop = some .preempt then .wait else .cell e.2

/-- The block of 128 bytes at a scratchpad offset, as the sender sees it (R83, R322). All of it is checked for uncorrectable words before its engine word
is looked at, with TVAL the block's offset (DESIGN CHOICE, log entry 167). A pushed block has no template number: the TVAL of its
TEMPLATE_FAULT names field 15 with index 0 (DESIGN CHOICE, log entry 74). -/
def readPushBlock (off : Word) : M (List Word) := do
  let s ← get
  if 0x400000 ≤ off.toNat then raise tcLoad off
  else if off.toNat % 128 ≠ 0 then raise tcMisaligned off
  else
    let pa := spAddr s.here off.toNat
    if s.badRead pa 128 then raise tcUncorrectable off
    else
      let bs := s.seenBytes s.here s.site.seq pa 128
      let ws := (List.range 16).map (fun i => BitVec.ofNat 64 (ofLe ((bs.drop (8 * i)).take 8)))
      let e := ws.getD 0 0
      if e.toNat = 2 || e.toNat = 3 then pure ws else templateFault 0 15

/-- A push, its result by how the target stands; `full` is what happens where it would block. Each form waits until the sender's stores are performed (the
release of R81), without a bound, before its block enters a check slot (R107; DESIGN CHOICE, log entry 165). -/
def pushBlock (d a b : BitVec 5) (full : Word → M Unit) : M Unit := do
  let g ← readReg a
  let off ← readReg b
  let ws ← readPushBlock off
  let s ← get
  match s.pushTarget g with
  | .gone => writeReg d 7
  | .wait => full g
  | .cell _ =>
    if !s.storesDone s.here s.site.seq then stallNow
    else do
      slotItem (.block s.hereBound.launch g.toNat ws)
      writeReg d 0

/-- `remq` (R81, R322). -/
def execRemq (t : BitVec 4) (d a b : BitVec 5) : State → Out :=
  issue { t := t, who := [.K], checks := checkDAB d a b } (do
    pushBlock d a b (fun g => waitFor 8 (g.toNat % 2 ^ 16))
    pure .seq)

/-- `remqt` (R81, R322). -/
def execRemqt (t : BitVec 4) (d a b : BitVec 5) : State → Out :=
  issue { t := t, who := [.K], checks := checkDAB d a b } (do
    pushBlock d a b (fun _ => writeReg d allOnes)
    pure .seq)

/-- The tokens that f13 of a pushed block names, in the target cell (R82, R279). No sequencer of the target has issued it: SP and SN are taken as those
of sequencer K (DESIGN CHOICE, log entry 72). -/
def pushedTokens (f : List Word) : List Nat := commandSignals 0 f .K

/-- A block issued as a copy of the target group. -/
def State.issueCopy (s : State) (k g : Nat) (f : List Word) : State :=
  let id := (s.cellAt k).nextId
  let x := newCopy s k .K g true f (pushedTokens f) 0 false
  s.modCell k (fun c => { (c.addCopy x) with remBusy := some id })

/-- Who posts the chain of a block. -/
def State.blockPoster (s : State) (k g : Nat) (f : List Word) : Poster :=
  { newPoster s k .K 0 (some g) (fNoTag f) (pushedTokens f) with id := (s.cellAt k).nextId, bound := fld f 14, issued := s.cycle }

/-- A block issued as a collective command of the target group. -/
def State.issueCollective (s : State) (k g : Nat) (f : List Word) : State :=
  let id := (s.cellAt k).nextId
  (s.postChain (bits (fld f 0) 3 0) (fld f 1 &&& 0xFFFFFFFFFFFFF) (s.blockPoster k g f)).modCell k (fun c =>
    { (if fNoTag f then c else c.clearTag g) with nextId := id + 1, remBusy := some id })

/-- A block whose fields fail their checks completes with status 1 (R283): its tokens, its tag, and for a copy the counter that
its f12 names, which counts a completion whatever its status (R82, R194). -/
def State.issueFailed (s : State) (k g : Nat) (f : List Word) (copy : Bool) : State :=
  let s1 := s.modCell k (fun c => giveTokens s.cycle .K (pushedTokens f) (if fNoTag f then c else c.setTag g 1))
  if copy && fCtrEn f then s1.sendInc k (s.userOf k) (fCid f) 1 (foldWord 2 s.pkgId.toNat (k / 64) (k % 64) 0) else s1

/-- The cell's token counters with a unit reserved for each of a block's signals; none where one stands at 255 (R94, R341). -/
def reserveAll (c : Cell) : List Nat → Option Cell
  | [] => some c
  | k :: l => if 255 ≤ c.tokVal k + c.tokRsv k then none else reserveAll { c with tokRes := NatMap.put 0 c.tokRes k (c.tokRsv k + 1) } l

/-- REMOTE_QUEUE_ISSUE (R82, R283, R341): the next block of the queue becomes a command of its group, one at a time. The tag that it sets
is no field of the block: a free value (log entry 7). -/
def execRemoteQueueIssue (s : State) : Out :=
  let k := s.here
  let c := s.cellAt k
  match c.remq with
  | [] => .next s
  | ws :: rest =>
    let f := ws.drop 1
    let g := (Config.unstated (ws.foldl (fun n w => n * 2 ^ 64 + w.toNat) 1)).toNat % 64
    let pop (s : State) : State := s.modCell k (fun c => { c with remq := rest })
    if c.bound.isNone || c.stop.isSome || c.tin || c.remBusy.isSome then .next s
    else
      match reserveAll c (pushedTokens f) with
      | none => .next s
      | some c1 =>
        let s1 := s.setCell k c1
        if ws.getD 0 0 = 2 then
          (if 64 ≤ c.copies.length then .next s
           else if (s.copyCheck k none f).isSome then .next ((pop s1).issueFailed k g f true)
           else .next ((pop s1).issueCopy k g f))
        else if (s.collFail f).isSome then .next ((pop s1).issueFailed k g f false)
        else if (s.postWaits (bits (fld f 0) 3 0) { addr := fld f 1 &&& 0xFFFFFFFFFFFFF, poster := s.blockPoster k g f }).isSome then .next s
        else .next ((pop s1).issueCollective k g f)

/-! ### `grow` -/

/-- A grow applied to its launch (R79): the count that it returns. A grow by 0 in a launch with GANG = 1 meets two rows of R79; it returns the count
(DESIGN CHOICE, log entry 130). -/
def Launch.grow (l : Launch) (x : Word) : Launch × Word :=
  if x = 0 then (l, BitVec.ofNat 64 l.groups)
  else if 2 ^ 32 ≤ x.toNat || bit (l.lcb.getD 1 0) 32 || 2 ^ 32 ≤ l.groups + x.toNat then (l, allOnes)
  else ({ l with groups := l.groups + x.toNat }, BitVec.ofNat 64 l.groups)

/-- Whether a group of a launch is pending. -/
def Launch.pending (l : Launch) : Bool := decide (l.next < l.groups) || !l.saved.isEmpty

/-- The launch after a change that may have given it its first pending group at a cycle: its wait is counted from then (R66). -/
def Launch.waitsFrom (old l : Launch) (cycle : Nat) : Launch := if old.pending || !l.pending then l else { l with ageAt := cycle, age := 0 }

/-- The cycle from which a launch's windows are counted (R80): rim die 0's CYCLE at D1, the reference at D2. -/
def Launch.windowBase (l : Launch) : Nat := if l.level = 2 then l.ref?.getD 0 else 0

/-- The window that a cycle lies in. -/
def Launch.windowOf (l : Launch) (cycle : Nat) : Nat := (cycle - l.windowBase) / 4096

/-- A grow gathered by the launch's dispatch record. -/
def State.gatherGrow (s : State) (x : Word) : State :=
  let b := s.hereBound
  match s.launch? b.launch with
  | none => s
  | some l =>
    let r : GrowReq := { serial := l.growNext, group := b.group, amount := x, window := l.windowOf s.cycle, issued := s.cycle }
    ((s.modLaunch b.launch (fun l => { l with grows := l.grows ++ [r], growNext := l.growNext + 1 })).noteJoin (.grow s.curSeq.pc l.growNext)).blockOn 12 0

/-- The grow of this instruction once it is applied: the count it returns. -/
def State.growResult (s : State) (serial : Nat) : Option Word :=
  match s.launch? s.hereBound.launch with
  | none => none
  | some l =>
    match l.grows.find? (fun r => r.serial == serial) with
    | none => none
    | some r => if l.level = 2 && decide (s.cycle < r.issued + 8192) then none else r.result

/-- `grow` (R321, R79, R80). -/
def execGrow (t : BitVec 4) (d a : BitVec 5) : State → Out :=
  issue { t := t, who := [.K], checks := do checkDst d; checkSrc a } (do
    let x ← readReg a
    let s ← get
    let b := s.hereBound
    match s.launch? b.launch with
    | none => waitFor 12 0
    | some l =>
      if l.level = 0 then do
        let (l1, r) := l.grow x
        set (s.modLaunch b.launch (fun _ => Launch.waitsFrom l l1 s.cycle))
        writeReg d r
      else
        match s.cur.joined with
        | some (.grow pc serial) =>
          if pc = s.curSeq.pc then
            (match s.growResult serial with
             | none => waitFor 12 0
             | some r => do
               let due := ((l.grows.find? (fun q => q.serial == serial)).map (fun q => q.issued + 8192)).getD s.cycle
               modify (fun s => s.noteLate s.here due 12)
               modCur (fun c => { c with joined := none })
               modify (fun s => s.modLaunch b.launch (fun l => { l with grows := l.grows.filter (fun q => q.serial != serial) }))
               writeReg d r)
          else holdWith (fun s => s.gatherGrow x)
        | _ => holdWith (fun s => s.gatherGrow x)
    pure .seq)

/-- Grows applied to a launch in an order, each with its result. -/
def Launch.applyGrows (l : Launch) : List GrowReq → Launch
  | [] => l
  | r :: rs =>
    let (l1, v) := l.grow r.amount
    Launch.applyGrows { l1 with grows := l1.grows.map (fun (x : GrowReq) => if x.serial = r.serial then { x with result := some v } else x) } rs

/-- GROW_WINDOW_CLOSE (R80): the oldest window that has ended is applied in ascending group index. -/
def execGrowWindowClose (s : State) : Out :=
  match s.launch? s.site.n with
  | none => .next s
  | some l =>
    let open' := l.grows.filter (fun r => r.result.isNone)
    match open' with
    | [] => .next s
    | r0 :: rs =>
      let w := rs.foldl (fun m r => min m r.window) r0.window
      if l.status ≠ .running || s.cycle < l.windowBase + 4096 * (w + 1) then .next s
      else .next (s.modLaunch l.key (fun l => Launch.waitsFrom l (l.applyGrows (sortBy (fun a b => decide (a.group ≤ b.group)) (open'.filter (fun r => r.window == w)))) s.cycle))

end Sys2Proof.Machine
end

