-- ==== Sys2Proof/Machine/Mesh.lean ====
section
/-! DEFINITION. The mesh protocol between dies (R17 to R20, R123, R420), the replica sequencer (R184) and the link modules (R10 to R16,
R419). -/

namespace Sys2Proof.Machine

/-! ### Requests at their destination -/

/-- Whether a write finds its word held and every entry open to it taken (R123). -/
def State.noRoom (s : State) (w : InWrite) : Bool :=
  decide (w.pa < replFlag) && s.wordHeld w.pa && (s.cellAt (spCell w.pa)).freeEntry.isNone

/-- Whether a reducing write that must be held finds the commit buffer or the home's hold buffer full (R201). -/
def State.noRoomRed (s : State) (w : RedWrite) : Bool :=
  let late := w.span ≠ 0 && w.sq < w.span && w.sq ≠ s.seqNextOf w.pa w.sreg
  decide (w.pa < replFlag) &&
  (if inSp w.pa then (late || s.wordHeld w.pa) && (s.cellAt (spCell w.pa)).freeEntry.isNone
   else late && decide (256 ≤ s.redHeld.countP (fun o => !inSp o.pa && homeDie o.pa == homeDie w.pa)))

/-- Whether a request has to wait at its destination: an ordered access to a locked word (R122), or a write that finds no entry of the buffer
that must hold it (R123, R201). -/
def State.mustWait (s : State) (r : MeshReq) : Bool :=
  match r.op with
  | .write _ => s.wordHeld r.pa && (decide (r.cls ≠ .relaxed) || (s.cellAt (spCell r.pa)).freeEntry.isNone)
  | .atomic _ _ _ _ => s.wordHeld r.pa
  | .carry n => s.inWrites.any (fun w => w.net == n && s.noRoom w) || s.redWrites.any (fun w => w.net == n && s.noRoomRed w)
  | _ => false

/-- A request applied once at its home: the response and the state after. -/
def State.applyReq (s : State) (r : MeshReq) : MemAns × State :=
  match r.op with
  | .read n => if s.badRead r.pa n || s.heldBad r.cell r.seq r.pa n then (.uncorrectable, s) else (.value (BitVec.ofNat 64 (ofLe ((s.heldStores r.cell r.seq).foldl (overlay r.pa) (s.bytesAt r.pa n)))), s.noteLease r.pa)
  | .write bs =>
    let (s1, res) := s.writeWord r.pa bs { seq := some r.seq, cell := r.cell, pc := r.pc, va := r.va }
    if res = .bad then (.uncorrectable, s1) else (.done, s1)
  | .atomic op n y c =>
    if s.badRead r.pa n then (.uncorrectable, s)
    else let (old, s1) := s.atomicAt r.pa op n y c; (.value old, s1)
  | .ctrRead cid sel =>
    (.value (match sel with
      | 0 => (s.counterAt cid.toNat).value
      | 1 => s.counterWord cid.toNat
      | _ => (s.counterAt cid.toNat).ordsig), s)
  | .ctrAdd cid amount fold => (.value (s.counterAt cid.toNat).value, s.bump cid.toNat amount fold)
  | .ctrClear cid => (.value (s.counterAt cid.toNat).value, s.clearCounter cid.toNat)
  | .carry n => (.done, s.deliver n)

/-- The state with a pair changed. -/
def State.modPair (s : State) (src dst : Nat) (f : Pair → Pair) : State := s.setPair src dst (f (s.pairAt src dst))

/-- Accepted requests applied in their order, as far as they need not wait. -/
def State.serve (src dst : Nat) : Nat → State → State
  | 0, s => s
  | n + 1, s =>
    let p := s.pairAt src dst
    match p.waiting with
    | [] => s
    | q :: rest =>
      match p.unacked.find? (fun r => r.q == q) with
      | none => State.serve src dst n (s.modPair src dst (fun p => { p with waiting := rest }))
      | some r =>
        if s.mustWait r then s
        else
          let (a, s1) := s.applyReq r
          State.serve src dst n (s1.modPair src dst (fun p => { p with waiting := rest, resp := (q, a) :: p.resp.take 255 }))

/-- MESH_REQUEST (R17, R420): accepted in sequence and applied once; a duplicate is answered from the response store; one that overtakes
is discarded. -/
def execMeshRequest (s : State) : Out :=
  let src := s.site.src
  let dst := s.site.dst
  let p := s.pairAt src dst
  let q := s.site.q
  if !s.reaches src dst || !p.unacked.any (fun r => r.q == q) then .next s
  else if q - p.last = 1 then
    .next (State.serve src dst 257 (s.modPair src dst (fun p => { p with last := q, waiting := p.waiting ++ [q], heldAt := if p.waiting.isEmpty then s.cycle else p.heldAt })))
  else .next (State.serve src dst 257 s)

/-! ### Answers at the source -/

/-- Whether an access of a sequencer waits for a request. -/
def Seq.awaits (x : Seq) (dst : Nat) (q : BitVec 16) : Bool := x.access == some (.waiting dst q)

/-- An answer given to the access that awaits it. -/
def State.answer (s : State) (r : MeshReq) (dst : Nat) (a : Access) : State :=
  s.modSeqOf r.cell r.seq (fun x => if x.awaits dst r.q then { x with access := some a } else x)

/-- MESH_RESPONSE (R17, R420, R132): the request is acknowledged, and an engine's read has its answer; a store that met an uncorrectable word traps. -/
def execMeshResponse (s : State) : Out :=
  let src := s.site.src
  let dst := s.site.dst
  let p := s.pairAt src dst
  match p.unacked.find? (fun r => r.q == s.site.q), p.resp.find? (fun r => r.1 == s.site.q) with
  | some r, some (_, a) =>
    if !s.reaches dst src || p.waiting.contains r.q then .next s
    else
      let s1 := (s.modPair src dst (fun p => { p with unacked := p.unacked.filter (fun x => x.q != r.q) })).refill src dst
      match r.op, a with
      | .write _, .uncorrectable => .next ((s1.logBad r.cell r.pa 0).deferred r.cell tcUncorrectable r.seq r.pc r.va)
      | .write _, _ => .next s1
      | .carry n, _ => .next ({ s1 with asks := s1.asks.map (fun (a : Ask) => if a.num = n then { a with back := true } else a) } : State).settleChunks
      | _, _ => .next (s1.answer r dst (.answered a))
  | _, _ => .next s

/-! ### Resends and losses (R18, R19) -/

/-- Whom the loss of an engine's request is reported to (R19): an element's access, the sequencer of an update of a replicated page, or the owner of
a write, with status 3. -/
def State.loseOwned (s : State) (r : MeshReq) : State :=
  match r.owner with
  | .tensor _ _ => s.loseElement r.owner r.va
  | .vector _ _ => s.loseElement r.owner r.va
  | .update true => s.deferred r.cell tcStore r.seq r.pc r.va
  | .update false => s.modSeqOf r.cell r.seq (fun x => if x.awaits replicaDst 0 then { x with access := some .lost } else x)
  | o => s.report o 3

/-- A chain that does not reach its engine: a template's tag is set with status 3 (R19, R282). -/
def State.loseChain (s : State) (n : Nat) : State :=
  let gone := s.engines.flatMap (fun g => g.2.arming.filter (fun a => a.net == n))
  gone.foldl (fun s a => s.finishChain a.poster 3)
    { s with engines := s.engines.map (fun (g : Nat × Engine) => (g.1, { g.2 with arming := g.2.arming.filter (fun a => a.net != n) })) }

/-- A lost request that carries what is kept under a number (R19): what has not reached its home never does, a read is answered as lost, and the loss is
reported, an increment's by an event of the source die. A posted chain ends its command with status 3, a message of an exchange is gone (DESIGN CHOICE,
log entry 178). -/
def State.loseCarried (s : State) (src n : Nat) (r : MeshReq) : State :=
  let s1 := { s with inWrites := s.inWrites.filter (fun w => w.net != n), redWrites := s.redWrites.filter (fun w => w.net != n),
                     parkedIn := s.parkedIn.filter (fun w => w.2.2.net != n), parkedRed := s.parkedRed.filter (fun w => w.2.2.net != n),
                     incs := s.incs.filter (fun i => i.net != n), replicas := s.replicas.filter (fun u => u.net != n),
                     xnet := s.xnet.filter (fun x => x.1 != n),
                     asks := s.asks.map (fun (a : Ask) => if a.num = n then { a with ans := some .lost, back := true } else a) }
  let s2 := (s1.loseChain n).loseOwned r
  let s3 := match r.inc with
    | some (cid, amount) => s2.bbox src (bbEvent s.cycle 0x10 3 0 0 0 0 (cid.zeroExtend 64) amount)
    | none => s2
  s3.settleChunks

/-- A request that completes as lost (R19). A retired sequencer store raises STORE_FAULT as a deferred trap, which R246's list does not name (DESIGN
CHOICE, log entry 127). -/
def State.loseReq (s : State) (src dst : Nat) (r : MeshReq) : State :=
  match r.op with
  | .write _ => s.deferred r.cell tcStore r.seq r.pc r.va
  | .carry n => s.loseCarried src n r
  | _ => s.answer r dst .lost

/-- Every unacknowledged request of a pair sent again in sequence order; those sent 8 times are lost. -/
def State.resend (s : State) (src dst : Nat) : State :=
  let p := s.pairAt src dst
  let gone := p.unacked.filter (fun r => decide (8 ≤ r.sends))
  let kept := (p.unacked.filter (fun r => decide (r.sends < 8))).map (fun (r : MeshReq) => { r with sends := r.sends + 1, sent := s.cycle })
  (gone.foldl (fun s r => s.loseReq src dst r) (s.setPair src dst { p with unacked := kept })).refill src dst

/-- RESEND_TIMEOUT (R18, R19). -/
def execResendTimeout (s : State) : Out :=
  let p := s.pairAt s.site.src s.site.dst
  if p.unacked.any (fun r => decide (r.sent + resendTime ≤ s.cycle)) then .next (s.resend s.site.src s.site.dst) else .next s

/-- HOLD_MESSAGE_TIMER (R123, R201): for every pair with a write that waits for a buffer of the cell, or of the die's HBM home, one message for each
such request. -/
def execHoldMessageTimer (s : State) : Out :=
  let die := s.site.die
  .next (s.pairs.foldl (fun s e =>
    let src := e.1 / 32
    let here (r : MeshReq) : Bool := e.2.waiting.contains r.q && (!inSp r.pa || spCell r.pa == s.here)
    let l := e.2.unacked.filter here
    if e.1 % 32 ≠ die || l.isEmpty || s.cycle < e.2.heldAt + holdTime then s
    else ({ s with holds := s.holds ++ l.map (fun r => (src, die, r.q)) } : State).modPair src die (fun p => { p with heldAt := s.cycle })) s)

/-- HOLD_MESSAGE (R123): the resend timer starts again; no send is counted. -/
def execHoldMessage (s : State) : Out :=
  let m := (s.site.src, s.site.dst, s.site.q)
  if !s.holds.contains m then .next s
  else .next (({ s with holds := dropFirst (fun x => x == m) s.holds } : State).modPair s.site.src s.site.dst (fun p =>
    { p with unacked := p.unacked.map (fun (r : MeshReq) => if r.q = s.site.q then { r with sent := s.cycle } else r) }))

/-- A pair synchronised afresh at its source: its unacknowledged requests complete as lost, and those that wait for a number with them (R20). -/
def State.resyncSource (s : State) (src dst : Nat) : State :=
  let p := s.pairAt src dst
  (p.unacked ++ p.backlog).foldl (fun s r => s.loseReq src dst r) (s.setPair src dst { p with next := 0, unacked := [], backlog := [] })

/-- Whether what has reached its home, but is not performed, lies on a die. -/
def ownedBy (d pa : Nat) : Bool := carryDie pa == d

/-- Whether a request to a die that satisfies p is unacknowledged: its loss is reported at its source. -/
def State.unackedTo (s : State) (d : Nat) (p : MeshReq → Bool) : Bool := s.pairs.any (fun e => e.1 % 32 == d && e.2.unacked.any p)

/-- What has reached a die that is reset and is not performed is lost (R20): writes and reducing writes with status 3, increments with an event, updates of
replicated pages as their sequencers' accesses; what is still unacknowledged is reported at its source instead. -/
def State.loseArrived (s : State) (d : Nat) : State :=
  let ws := (s.inWrites.filter (fun w => w.net == 0 && ownedBy d w.pa)).map (fun w => w.owner)
  let rs := (s.redWrites.filter (fun w => w.net == 0 && ownedBy d w.first)).map (fun w => w.owner)
  let is := s.incs.filter (fun i => i.net == 0 && ctrDie i.cid == d)
  let us := s.replicas.filter (fun u => u.net == 0 && d == 16)
  let s1 := { s with inWrites := s.inWrites.filter (fun w => !(w.net == 0 && ownedBy d w.pa)),
                     redWrites := s.redWrites.filter (fun w => !(w.net == 0 && ownedBy d w.first)),
                     incs := s.incs.filter (fun i => !(i.net == 0 && ctrDie i.cid == d)),
                     replicas := s.replicas.filter (fun u => !(u.net == 0 && d == 16)) }
  let s2 := (ws ++ rs).foldl (fun s o => s.report o 3) s1
  let s3 := (is.filter (fun i => !s.unackedTo d (fun r => r.inc == some (i.cid, i.amount)))).foldl
    (fun s i => s.bbox d (bbEvent s.cycle 0x10 3 0 0 0 0 (i.cid.zeroExtend 64) i.amount)) s2
  let s4 := (us.filter (fun u => !s.unackedTo d (fun r => r.owner == .update (match u.op with | .write _ => true | _ => false) && r.cell == u.cell && r.seq == u.seq &&
      r.pc == u.pc && r.va == u.va))).foldl
    (fun s u => s.loseOwned { carriedReq u.cell u.pa none (.update (match u.op with | .write _ => true | _ => false)) with seq := u.seq, pc := u.pc, va := u.va }) s3
  s4.settleChunks

/-- A pair synchronised afresh at its destination (R20). -/
def State.resyncDest (s : State) (src dst : Nat) : State :=
  s.modPair src dst (fun p => { p with last := 0xFFFF, resp := [], waiting := [] })

/-- Resynchronisation messages sent to every other die (R20); the die named synchronises its own ends at once. -/
def State.resyncDie (s : State) (d : Nat) : State :=
  let others := (List.range 20).filter (fun e => e != d)
  let s1 := others.foldl (fun s e => (s.resyncSource d e).resyncDest e d) (s.loseArrived d)
  { s1 with resyncs := s1.resyncs ++ others.map (fun e => (e, d)) }

/-- RESYNC_MESSAGE (R20). -/
def execResyncMessage (s : State) : Out :=
  let d := s.site.die
  let named := s.site.src
  if !s.resyncs.contains (d, named) then .next s
  else .next ((({ s with resyncs := dropFirst (fun x => x == (d, named)) s.resyncs } : State).resyncSource d named).resyncDest named d)

/-! ### The replica sequencer (R184) -/

/-- REPLICA_UPDATE (R184): the update takes the next number and is applied at every replica; an atomic reads the primary. -/
def execReplicaUpdate (s : State) : Out :=
  match s.replicas[s.site.n]? with
  | none => .next s
  | some u =>
    let s0 := { s with replicas := s.replicas.eraseIdx s.site.n }
    let give (s : State) (a : Access) : State :=
      s.modSeqOf u.cell u.seq (fun x => if x.awaits replicaDst 0 then { x with access := some a } else x)
    let bad (n : Nat) : Bool := s.badRead u.pa n
    if u.net ≠ 0 || (s.replicas.take s.site.n).any (fun o => o.cell == u.cell && o.seq == u.seq) then .next s
    else
      match u.op with
      | .write bs =>
        let s1 := s0.applyReplicas u.pa bs
        .next (if s.badWrite u.pa bs.length then (s1.logBad u.cell u.pa 0).deferred u.cell tcUncorrectable u.seq u.pc u.va else s1)
      | .atomic op n y c =>
        if bad n then .next (give s0 (.answered .uncorrectable))
        else
          let (old, s1) := s0.atomicAt u.pa op n y c
          .next (give (s1.applyReplicas u.pa (s1.bytesAt u.pa n)) (.answered (.value old)))
      | _ => .next s0

/-- TIMESTAMP_LEASE_RECALL (R175): a lease of 1 µs is recalled. -/
def execTimestampLeaseRecall (s : State) : Out :=
  match s.leases.find? (fun e => e.1 == s.site.n) with
  | none => .next s
  | some (l, t) => if t + 2250 ≤ s.cycle then .next { s with leases := NatMap.del s.leases l } else .next s

end Sys2Proof.Machine
end

