-- ==== Sys2Proof/Machine/Links.lean ====
section
/-! DEFINITION. Link modules (R10 to R13, R15, R16, R419, R420): CRC failures, retrains, service, and what a change does to the pairs of
dies that use a module. -/

namespace Sys2Proof.Machine

/-! ### Routes and modules after a change (R15, R16, R18) -/

/-- The first failed edge on the dimension-order route of a pair, 0 where none has failed. -/
def State.failedEdge (s : State) (src dst : Nat) : Nat :=
  (((edgesOf (route false src dst)).find? (fun e => !s.edgeUp e.1)).map (fun e => e.1)).getD 0

/-- A pair takes the route that the edges now allow: an event and a corrected fault of every launch that used it (R16, R426); one that has no route
left is cut (R19). A module that it uses on an edge of both routes stays (R15). -/
def State.reroute (s : State) (src dst : Nat) : State :=
  let p := s.pairAt src dst
  match s.routeOf src dst with
  | none => if p.cut.isSome then s else s.setPair src dst { p with cut := some s.cycle }
  | some c =>
    if c = p.colFirst then (if p.cut.isSome then s.setPair src dst { p with cut := none } else s)
    else
      let s1 := s.bbox src (bbEvent s.cycle 0x04 0 0 0 0 0 (BitVec.ofNat 64 (at_ src 8 + dst)) (BitVec.ofNat 64 (s.failedEdge src dst)))
      let es := (edgesOf (route c src dst)).map (fun e => e.1)
      let s2 := p.users.foldl (fun s u => s.corrected u 0) (s1.modPair src dst (fun p =>
        { p with colFirst := c, cut := none, mods := p.mods.filter (fun x => es.contains x.1) }))
      if p.mods.any (fun x => !s.modUp x.1 x.2) then s2.resend src dst else s2

/-- The module of an edge that a pair goes on to from module x, which has left the active state: the next active in ascending order modulo 8; its home
module, to which a pair with requests unacknowledged does not move back, only where no other is active (R15). -/
def State.nextMod (s : State) (src dst e x : Nat) : Option Nat :=
  let l := (List.range 7).map (fun i => (x + 1 + i) % 8)
  (l.find? (fun m => m != (src + dst) % 8 && s.modUp e m)).or (s.moduleFor src dst e)

/-- A pair whose module has left the active state takes the next on each edge and resends what is unacknowledged (R15, R18); one that is cut waits for its
resend timer (R19). -/
def State.remodule (s : State) (src dst : Nat) : State :=
  let p := s.pairAt src dst
  if p.unacked.isEmpty || p.cut.isSome then s
  else
    let es := (edgesOf (route p.colFirst src dst)).map (fun e => e.1)
    let now (e : Nat) : Option Nat := (p.mods.find? (fun x => x.1 == e)).map (fun x => x.2)
    let pick (e : Nat) : Option Nat :=
      match now e with
      | none => s.moduleFor src dst e
      | some x => if s.modUp e x then some x else s.nextMod src dst e x
    let lost := es.any (fun e => (now e).any (fun x => !s.modUp e x))
    -- an edge with no active module keeps the module that has failed
    let mods := es.foldl (fun m e => match (pick e).or (now e) with | some x => NatMap.ins m e x | none => m) []
    let s1 := s.modPair src dst (fun p => { p with mods := mods })
    if lost then s1.resend src dst else s1

/-- The pairs of two dies of the package. -/
def allPairs : List (Nat × Nat) := (List.range 20).flatMap (fun a => ((List.range 20).filter (fun b => b != a)).map (fun b => (a, b)))

/-- Every pair after a change of a module of an edge. Where the edge has failed, or had, a route may change, of pairs without requests too. -/
def State.relink (s : State) (edge : Nat) : State :=
  let few := decide ((List.range 8).countP (s.modUp edge) ≤ 1)
  let crosses (a b : Nat) : Bool := ((edgesOf (route false a b)) ++ edgesOf (route true a b)).any (fun e => e.1 == edge)
  let s1 := if few then (allPairs.filter (fun p => crosses p.1 p.2)).foldl (fun s p => s.reroute p.1 p.2) s else s
  s1.pairs.foldl (fun s e => s.remodule (e.1 / 32) (e.1 % 32)) s1

/-- Every pair after a die has entered or left service (R16, R20). -/
def State.rerouteAll (s : State) : State := allPairs.foldl (fun s p => s.reroute p.1 p.2) s

/-! ### States of a module -/

/-- A module's STATE and WIDTH set in both directions, with an event on both dies where one changes (R13). -/
def State.setModule (s : State) (edge m st width : Nat) : State :=
  let (a, b) := edgeDies edge
  let l := s.linkAt a edge m
  let set (s : State) (d : Nat) : State :=
    let x := s.linkAt d edge m
    s.setLink d edge m { x with st := BitVec.ofNat 2 st, width := BitVec.ofNat 2 width, since := s.cycle }
  let log (s : State) (d : Nat) : State :=
    s.bbox d (bbEvent s.cycle 0x03 st 0 0 m 3 (BitVec.ofNat 64 (at_ edge 8 + m)) (BitVec.ofNat 64 width))
  let s1 := set (set s a) b
  if l.st.toNat = st && l.width.toNat = width then s1 else log (log s1 a) b

/-- Both directions of a module changed. -/
def State.modBoth (s : State) (edge m : Nat) (f : Link → Link) : State :=
  let (a, b) := edgeDies edge
  let s1 := s.setLink a edge m (f (s.linkAt a edge m))
  s1.setLink b edge m (f (s1.linkAt b edge m))

/-- Launches with a request unacknowledged on a module (R420). -/
def State.usersOf (s : State) (edge m : Nat) : List Nat :=
  ((s.pairs.filter (fun e => e.2.mods.any (fun x => x.1 == edge && x.2 == m))).flatMap (fun e => e.2.unacked.filterMap (fun r => r.user))).eraseDups

/-- Cycles added to what corrected faults have cost a launch that is open (R426). -/
def State.addCost (s : State) (key n : Nat) : State := s.modLaunch key (fun l => { l with cost := min (l.cost + n) (2 ^ 48 - 1) })

/-- A retrain ends, or the module goes down in it: its duration is the cost of the corrected fault of each launch that it hit (R420, R426). -/
def State.endRetrain (s : State) (edge m : Nat) : State :=
  let l := s.linkAt (edgeDies edge).1 edge m
  (l.hit.foldl (fun s u => s.addCost u (s.cycle - l.since)) s).modBoth edge m (fun x => { x with hit := [] })

/-- A retrain begins (R12, R420): from 64 lanes, or at 32. It is one corrected fault of every launch with a request unacknowledged on the module. -/
def State.retrain (s : State) (edge m : Nat) (full : Bool) : State :=
  let hit := s.usersOf edge m
  let s1 := s.modBoth edge m (fun l => { l with errCnt := 0, flits := 0, tries := 0, retrain := satInc l.retrain, full := full, hit := hit })
  ((hit.foldl (fun s u => s.corrected u 0) s1).setModule edge m 1 0).relink edge

/-- A module that is down retrains from 64 lanes (R12, R13). -/
def State.trainAnew (s : State) (edge m : Nat) : State :=
  (s.modBoth edge m (fun l => { l with full := true, hit := [], errCnt := 0, flits := 0, tries := 0, retrain := satInc l.retrain })).setModule edge m 1 0

/-- The length of a window in received flits (R13). -/
def Link.window (l : Link) : Nat := 2 ^ min 40 (max 16 l.winLog.toNat)

/-- n flits received: the count of failures clears where a window ends (R12, R13). -/
def Link.pass (l : Link) (n : Nat) : Link :=
  if l.flits + n < l.window then { l with flits := l.flits + n } else { l with errCnt := 0, flits := (l.flits + n) % l.window }

/-- FLIT_CRC_FAILURE (R11, R12, R13): the retries of a drain count too, and cause no retrain. Site: n flits have arrived since the module's last step; yes: a retry of the flit that failed last. -/
def execFlitCrcFailure (s : State) : Out :=
  let d := s.site.die
  let e := s.site.edge
  let m := s.site.mod
  let l := (s.linkAt d e m).pass s.site.n
  if l.st.toNat < 2 || !((edgeDies e).1 == d || (edgeDies e).2 == d) then .next s
  else
    let tries := if s.site.yes then l.tries + 1 else 0
    let l1 := { l with errCnt := satInc l.errCnt, retry := if 4 ≤ tries then l.retry else satInc l.retry, tries := tries }
    let s1 := s.setLink d e m l1
    if l.st = 3 then .next s1
    else if 4 ≤ tries || (l.errThr ≠ 0 && l.errThr.toNat ≤ l1.errCnt.toNat) then .next (s1.retrain e m false) else .next s1

/-- ERROR_WINDOW_END (R12, R13). Site: n flits have arrived since the module's last step; the window ends once it holds 2^WINLOG of them. -/
def execErrorWindowEnd (s : State) : Out :=
  .next (s.setLink s.site.die s.site.edge s.site.mod ((s.linkAt s.site.die s.site.edge s.site.mod).pass s.site.n))

/-- RETRAIN_COMPLETE (R12, R13, R420): at 64 lanes where training began there, else on the low half, else on the high half, else down. -/
def execRetrainComplete (s : State) : Out :=
  let e := s.site.edge
  let m := s.site.mod
  let (a, _) := edgeDies e
  let l := s.linkAt a e m
  if l.st ≠ 1 then .next s
  else
    let width := if l.full && s.site.yes then 3 else if s.site.yes2 then 1 else if s.site.yes3 then 2 else 0
    .next (((s.endRetrain e m).setModule e m (if width = 0 then 0 else 2) width).relink e)

/-! ### LNKCTL (R13) -/

/-- The word of LNKCTL and of LNKSTAT. -/
def Link.ctl (l : Link) : Word := BitVec.ofNat 64 (l.errThr.toNat + at_ l.winLog.toNat 8 + (if l.down then 2 ^ 16 else 0))
def Link.stat (l : Link) : Word :=
  BitVec.ofNat 64 (l.st.toNat + at_ l.width.toNat 2 + at_ l.errCnt.toNat 8 + at_ l.retry.toNat 16 + at_ l.retrain.toNat 48)

/-- DOWN written in the register that a die holds. How the two DOWN bits of a module combine is the model's choice: one takes both directions of the
module (both LNKSTAT read 3), and training anew needs both at 0 (DESIGN CHOICE, log entry 76). -/
def State.setDown (s : State) (die edge m : Nat) (down : Bool) : State :=
  let l := s.linkAt die edge m
  let (a, b) := edgeDies edge
  let s1 := s.setLink die edge m { l with down := down }
  if down && !l.down then (if l.st = 0 then s1 else ((s1.endRetrain edge m).setModule edge m 3 l.width.toNat).relink edge)
  else if !down && l.st = 0 && !(s1.linkAt a edge m).down && !(s1.linkAt b edge m).down then s1.trainAnew edge m
  else s1

/-- LNKCTL written (R13). -/
def State.writeLnkctl (s : State) (die edge m : Nat) (v : Word) : State :=
  let l := s.linkAt die edge m
  (s.setLink die edge m { l with errThr := v.truncate 8, winLog := (v >>> 8).truncate 8 }).setDown die edge m (bit v 16)

/-- The die of an edge whose register a step names: the one given, else the edge's first. -/
def State.edgeDie (s : State) : Nat := if (edgeDies s.site.edge).2 = s.site.die then s.site.die else (edgeDies s.site.edge).1

/-- LNKCTL written by a management core, at any time (R13): the word it writes keeps ERRTHR and WINLOG, or gives them (Site yes, word). -/
def State.coreLnkctl (s : State) (down : Bool) : State :=
  let l := s.linkAt s.edgeDie s.site.edge s.site.mod
  let low := if s.site.yes then s.site.word else l.ctl
  s.writeLnkctl s.edgeDie s.site.edge s.site.mod ((low &&& 0xFFFF) ||| (if down then 0x10000 else 0))

/-- DOWN_SET (R13). -/
def execDownSet (s : State) : Out := if s.site.edge < 40 && s.site.mod < 8 then .next (s.coreLnkctl true) else .next s

/-- DOWN_CLEAR (R13). -/
def execDownClear (s : State) : Out := if s.site.edge < 40 && s.site.mod < 8 then .next (s.coreLnkctl false) else .next s

/-- LINK_DRAIN_END (R13). -/
def execLinkDrainEnd (s : State) : Out :=
  let e := s.site.edge
  let m := s.site.mod
  if (s.linkAt (edgeDies e).1 e m).st = 3 then .next (s.setModule e m 0 0) else .next s

end Sys2Proof.Machine
end

