-- ==== Sys2Proof/Machine/StateSpace.lean ====
section
/-! DEFINITION. The state space (R39, R40): the words of every block (R13, R37, R58, R77, R105, R110, R123, R129, R150, R154, R166, R193,
R197, R201, R216, R267) as READBACK, the save slots and the hash tree read them, and what WRITEBACK and a restore may write. -/

namespace Sys2Proof.Machine

/-! ### Addresses (R39) -/

/-- A state address, taken apart. -/
structure SsAddr where
  die  : Nat
  kind : Nat
  unit : Nat
  blk  : Nat
  off  : Nat
deriving DecidableEq, Repr

/-- The fields of a state address. -/
def ssAddr (a : Nat) : SsAddr := ⟨a / 2 ^ 43 % 32, a / 2 ^ 40 % 8, a / 2 ^ 34 % 64, a / 2 ^ 30 % 16, a % 2 ^ 30⟩

/-- The size of a cell's block (R110). -/
def cellBlock : Nat → Nat
  | 4 => 0x18000
  | 5 => 0x200
  | 6 => 0x14000
  | 7 => 0x400000
  | 8 => 0x240000
  | 9 => 0x47000
  | 10 => 0x3000
  | _ => 0x208000

/-- The size of the block that an address lies in; none where the address names nothing (R39). -/
def SsAddr.size (a : SsAddr) : Option Nat :=
  if 20 ≤ a.die then none
  else
    match a.kind with
    | 0 => if 16 ≤ a.die || 56 ≤ a.unit || 11 ≤ a.blk then none else some (cellBlock a.blk)
    | 1 => if 16 ≤ a.die || 14 ≤ a.unit then none else some 0x50000
    | 2 => some (2 ^ 30)
    | 3 => some 0x10E0
    | 4 => some 0x21000
    | _ => none

/-! ### Cells (R110) -/

/-- A word of a list, 0 beyond its end. -/
def wordAt (l : List Word) (i : Nat) : Word := l.getD i 0

/-- PBSTATE as a number (R308). -/
def PbState.word (p : PbState) : Word := BitVec.ofNat 64 (p.rem % 16 + (if p.pv then 16 else 0) + p.pat.toNat * 256)

/-- Two 32-bit words as one, the first in the low half. -/
def pairWord (m : NatMap (BitVec 32)) (i : Nat) : Word := NatMap.get 0 m (i + 1) ++ NatMap.get 0 m i

/-- A 64-bit word of a row or a line. -/
def sliceWord {w : Nat} (x : BitVec w) (i : Nat) : Word := (x >>> (64 * i)).truncate 64

/-- A row or line with one of its 64-bit words replaced. -/
def putSlice {w : Nat} (x : BitVec w) (i : Nat) (v : Word) : BitVec w :=
  (x &&& ~~~ ((BitVec.allOnes 64).zeroExtend w <<< (64 * i))) ||| (v.zeroExtend w <<< (64 * i))

/-- The image of a queue (R110): 16 entries, the first at the head, then the head and the count. -/
def Cell.queueImage (c : Cell) (n : Nat) : List Word :=
  let l := c.queue n
  let h := NatMap.get 0 c.qHead n
  (List.range 16).map (fun i => l.getD ((i + 16 - h) % 16) 0) ++ [BitVec.ofNat 64 (h + 16 * l.length)]

/-- A word of a sequencer's block. -/
def State.ssSeq (s : State) (k : Nat) (q : SeqId) (off : Nat) : Word :=
  let c := s.cellAt k
  let x := c.seq q
  if off < 0xC0 then x.greg (off / 8)
  else if off = 0xC0 then (x.p ||| 1).zeroExtend 64
  else if off < 0xE8 then (x.loopCnt ((off - 0xC8) / 8)).zeroExtend 64
  else if off = 0xE8 then x.pc
  else if off = 0xF0 then x.pb.word
  else if off < 0x100 then 0
  else if off < 0x1000 then (sysRead s k q off).getD 0
  else if off < 0x1800 then
    let n := (off - 0x1000) / 0x100
    let i := (off - 0x1000) % 0x100 / 8
    if (queueEnds n).2 = q then wordAt (c.queueImage n) i else 0
  else if off < 0x1840 then
    let n := (off - 0x1800) / 8
    if (tokenEnds n).2 = q then BitVec.ofNat 64 (c.tokVal n) else 0
  else if 0x100000 ≤ off && off < 0x110000 then pairWord x.code ((off - 0x100000) / 4)
  else if 0x200000 ≤ off && off < 0x208000 then NatMap.get 0 x.pool ((off - 0x200000) / 8)
  else 0

/-- A word of the commit buffer (R123): WAITS as things stand, bit 0 that the word is locked, bit 1 that the entry or an earlier one to its word waits for
a drain's signature. -/
def Cell.ssBuffer (c : Cell) (locked : Nat → Bool) (off : Nat) : Word :=
  if off < 0x10000 then sliceWord (NatMap.get {} c.cbuf (off / 64)).data (off % 64 / 8)
  else
    let e := (off - 0x10000) / 16
    match c.cbuf.find? (fun x => x.1 == e) with
    | none => 0
    | some (_, h) =>
      if off % 16 = 0 then
        BitVec.ofNat 64 (at_ h.word 6 + 2 ^ 22 + at_ h.kind 23 + (if locked h.word then 2 ^ 25 else 0) +
          (if c.cbuf.any (fun o => o.2.sig && o.2.word == h.word && decide (o.2.order ≤ h.order)) then 2 ^ 26 else 0))
      else h.mask

/-- A word of an arrival region's record (R197). -/
def Arrival.word (a : Arrival) (i : Nat) : Word :=
  match i with
  | 0 => BitVec.ofNat 64 (a.base.toNat + (if a.armed then 2 ^ 22 else 0) + (if a.ready then 2 ^ 23 else 0) + (if a.past then 2 ^ 24 else 0))
  | 1 => a.len.zeroExtend 64
  | 2 => a.arrived ++ a.expect
  | _ => BitVec.ofNat 64 (a.ctr.toNat + (if a.ctrEn then 2 ^ 14 else 0))

/-- Mask n as software sees it: m0 all ones (R98). -/
def Cell.maskSeen (c : Cell) (n : Nat) : MaskBits := if n = 0 then BitVec.allOnes 512 else NatMap.get 0 c.masks n

/-- The image of the mask stack from the bottom: 16 masks, then the depth (R110). -/
def Cell.stackImage (c : Cell) : List Word :=
  (List.range 16).flatMap (fun e => (List.range 8).map (fun w => sliceWord (c.mstack.reverse.getD e 0) w)) ++ [BitVec.ofNat 64 c.mstack.length]

/-- A word of an operand queue: row, word within it; the row 8 is the head and count (R110). -/
def Cell.ssVq (c : Cell) (n row w : Nat) : Word :=
  let l := NatMap.get [] c.vq n
  let h := NatMap.get 0 c.vqHead n
  if row = 8 then BitVec.ofNat 64 (h + 16 * l.length) else sliceWord (l.getD ((row + 8 - h) % 8) 0) w

/-- A word of the vector/accumulator file's block. -/
def Cell.ssVector (c : Cell) (off : Nat) : Word :=
  if off < 0x40000 then sliceWord (NatMap.get 0 c.rows (off / 512)) (off % 512 / 8)
  else if off < 0x40400 then sliceWord (c.maskSeen ((off - 0x40000) / 64)) (off % 64 / 8)
  else if off ≤ 0x40800 then wordAt c.stackImage ((off - 0x40400) / 8)
  else if 0x40C00 ≤ off && off < 0x40C30 then c.ssVq ((off - 0x40C00) / 8) 8 0
  else if 0x41000 ≤ off && off < 0x47000 then c.ssVq ((off - 0x41000) / 0x1000) (off % 0x1000 / 512) (off % 512 / 8)
  else 0

/-- A word of the statistics block (R110, R150, R197, R201). -/
def Cell.ssStats (c : Cell) (off : Nat) : Word :=
  if off < 0x200 then (c.tagWord (off / 8)).zeroExtend 64
  else if off = 0x200 then c.amax.zeroExtend 64
  else if off = 0x208 then c.nancnt.zeroExtend 64
  else if off = 0x210 then c.flags.zeroExtend 64
  else if 0x300 ≤ off && off < 0x400 then pairWord c.hist ((off - 0x300) / 4)
  else if 0x1000 ≤ off && off < 0x1800 then (NatMap.get {} c.regions ((off - 0x1000) / 32)).word (off % 32 / 8)
  else if 0x2000 ≤ off && off < 0x2800 then (NatMap.get 0 c.seqNext ((off - 0x2000) / 8)).zeroExtend 64
  else 0

/-- A word of a cell's block. -/
def State.ssCell (s : State) (k blk off : Nat) : Word :=
  let c := s.cellAt k
  match blk with
  | 0 => s.ssSeq k .K off
  | 1 => s.ssSeq k .L off
  | 2 => s.ssSeq k .C off
  | 3 => s.ssSeq k .S off
  | 4 =>
    if off < 0x2000 then NatMap.get 0 c.templates (off / 8)
    else if 0x10000 ≤ off then NatMap.get 0 (c.seq (seqOfNum ((off - 0x10000) / 0x2000))).stage (off % 0x2000 / 8)
    else 0
  | 5 => NatMap.get 0 c.formats (off / 8)
  | 6 => c.ssBuffer (s.locked k) off
  | 7 => BitVec.ofNat 64 (ofLe (s.bytesAt (spAddr k off) 8))
  | 8 =>
    if off < 0x200000 then sliceWord (NatMap.get 0 c.lines (off / 128)) (off % 128 / 8)
    else
      let e := NatMap.get {} c.entries ((off - 0x200000) / 16)
      if off % 16 = 0 then BitVec.ofNat 64 (at_ e.line.toNat 7) else e.word1
  | 9 => c.ssVector off
  | 10 => c.ssStats off
  | _ => 0

/-! ### Quads, dies, slot tables and black boxes -/

/-- A word of a quad's state block (R129). -/
def Quad.ssWord (q : Quad) (off : Nat) : Word :=
  let byteWord (l : List Byte) (i : Nat) : Word := BitVec.ofNat 64 (ofLe ((l.drop i).take 8))
  match off with
  | 0x00 => BitVec.ofNat 64 ((if q.oos then 1 else 0) + (if q.arb then 2 else 0) + at_ q.accused.toNat 2 + at_ (q.inFlight % 32) 4)
  | 0x08 => BitVec.ofNat 64 (q.mainTrans.toNat + (if q.mainPers then 2 ^ 32 else 0))
  | 0x10 => BitVec.ofNat 64 (q.mirrTrans.toNat + (if q.mirrPers then 2 ^ 32 else 0))
  | 0x18 => BitVec.ofNat 64 (q.convMain.toNat + at_ q.convMirr.toNat 16 + (if q.convPersA then 2 ^ 32 else 0) + (if q.convPersB then 2 ^ 33 else 0))
  | 0x20 => q.arbcnt
  | 0x28 => q.bothcnt.zeroExtend 64
  | _ =>
    if off < 0x10000 then 0
    else if off < 0x20000 then byteWord q.stageMain (off - 0x10000)
    else if off < 0x30000 then byteWord q.stageMain1 (off - 0x20000)
    else if off < 0x40000 then byteWord q.stageMirr (off - 0x30000)
    else byteWord q.stageMirr1 (off - 0x40000)

/-- A word of an exchange slot's record (R216). -/
def XSlot.word (x : XSlot) (i : Nat) : Word :=
  match i with
  | 0 => BitVec.ofNat 64 (x.xid + at_ x.nmem 24 + at_ x.st 37 + (if x.standby then 2 ^ 40 else 0) + (if x.active then 2 ^ 41 else 0) + at_ x.epoch 48)
  | 1 => BitVec.ofNat 64 (x.posts.length + at_ x.nphase 32)
  | 2 => BitVec.ofNat 64 (x.openPh + at_ x.closed 32)
  | 3 => x.mtsig
  | _ => 0

/-- A word of a grant record (R216). -/
def grantWord (g : Grant) (i : Nat) : Word :=
  if i = 0 then BitVec.ofNat 64 (g.snd + at_ g.rcv 12 + at_ ((g.phase - 1) % 2 ^ 16) 24) else BitVec.ofNat 64 (g.bytes % 2 ^ 48)

/-- The key of exchange slot k of rim die d. -/
def xKey (d k : Nat) : Nat := 16 * (d - 16) + k

/-- A word of a die's KIND 2. -/
def State.ssDie (s : State) (d off : Nat) : Word :=
  if d = 16 && off = 0 then BitVec.ofNat 64 ((if s.xlV then 1 else 0) + at_ s.xlRoot.toNat 20)
  else if d = 16 && off = 0x10 then s.walks
  else if d = 16 && 0x10000 ≤ off && off < 0x18000 then NatMap.get 0 s.signals ((off - 0x10000) / 8)
  else if 0x80000 ≤ off && off < 0x82800 then
    let e := (off - 0x80000) / 0x100
    let m := off % 0x100 / 0x10
    if m < 8 && ((edgeDies e).1 == d || (edgeDies e).2 == d) then (if off % 16 = 0 then (s.linkAt d e m).ctl else (s.linkAt d e m).stat) else 0
  else if 16 ≤ d && 0x100000 ≤ off && off < 0x200000 then
    let i := (off - 0x100000) / 0x40000
    let n := (off - 0x100000) % 0x40000 / 32
    let cid := (4 * (d - 16) + i) * 1024 + n
    if 1024 ≤ n then 0
    else
      match off % 32 / 8 with
      | 0 => (s.counterAt cid).value
      | 1 => (s.counterAt cid).ordsig
      | 2 => s.counterWord cid
      | _ => 0
  else if d < 16 && 0x200000 ≤ off && off < 0x208000 then (NatMap.get 0 s.homeNext (d * 4096 + (off - 0x200000) / 8)).zeroExtend 64
  else if 16 ≤ d && 0x300000 ≤ off && off < 0x301000 then
    ((s.xslots.find? (fun x => x.1 == xKey d ((off - 0x300000) / 0x100))).map (fun x => x.2.word (off % 0x100 / 8))).getD 0
  else if 16 ≤ d && 0x400000 ≤ off && off < 0x1400000 then
    match s.xslots.find? (fun x => x.1 == xKey d ((off - 0x400000) / 0x100000)) with
    | none => 0
    | some (_, x) => ((x.calendar[off % 0x100000 / 16]?).map (fun g => grantWord g (off % 16 / 8))).getD 0
  else 0

/-- A word of a slot-table record (R58). -/
def SlotRec.word (r : SlotRec) (i : Nat) : Word :=
  match i with
  | 0 => BitVec.ofNat 64 ((if r.v then 1 else 0) + (if r.pre then 2 else 0) + (if r.rst then 4 else 0) + at_ r.stream 4 + at_ r.dpri 8 +
      at_ r.level 11 + at_ r.num.toNat 16 + at_ (r.group % 2 ^ 32) 32)
  | 1 => r.lcb
  | 2 => r.slot
  | _ => r.binds

/-- A word of a die's KIND 3. -/
def State.ssSlots (s : State) (d off : Nat) : Word :=
  if 16 ≤ d then 0
  else if off < 0x700 then
    (s.slotAt (cellKey d (off / 32))).word (off % 32 / 8)
  else if 0x1000 ≤ off then
    let q := quadKey d ((off - 0x1000) / 16)
    if off % 16 = 0 then s.leaseWord q else (s.quadAt q).grants
  else 0

/-- A word of an event. -/
def BbEvent.word (e : BbEvent) (i : Nat) : Word :=
  match i with
  | 0 => e.w0
  | 1 => e.w1
  | 2 => e.w2
  | _ => e.w3

/-- A word of a die's black-box state (R267). -/
def BlackBox.ssWord (b : BlackBox) (off : Nat) : Word :=
  if off = 0 then b.word0
  else if off = 8 then b.dropped.zeroExtend 64
  else if off < 0x1000 then 0
  else ((b.events[(((off - 0x1000) / 32) + 4096 - b.head) % 4096]?).map (fun e => e.word (off % 32 / 8))).getD 0

/-- A word of the state space. -/
def State.ssWord (s : State) (a : SsAddr) : Word :=
  match a.kind with
  | 0 => s.ssCell (cellKey a.die a.unit) a.blk a.off
  | 1 => (s.quadAt (quadKey a.die a.unit)).ssWord a.off
  | 2 => s.ssDie a.die a.off
  | 3 => s.ssSlots a.die a.off
  | _ => (NatMap.get {} s.boxes a.die).ssWord a.off

/-! ### Writing a cell's words -/

/-- A list of words with those of a range replaced that a run of words written from `off` covers; the image lies at `base`. -/
def overWords (img : List Word) (base off : Nat) (ws : List Word) : List Word :=
  img.zipIdx.map (fun (v, i) => if off ≤ base + 8 * i && base + 8 * i < off + 8 * ws.length then ws.getD ((base + 8 * i - off) / 8) v else v)

/-- Whether a run of n words at off touches the bytes [a, b). -/
def touches (off n a b : Nat) : Bool := decide (off < b) && decide (a < off + 8 * n)

/-- A queue from its image. -/
def queueOfImage (img : List Word) : List Word :=
  let h := (wordAt img 16).toNat % 16
  (List.range (min ((wordAt img 16).toNat / 16 % 32) 16)).map (fun i => wordAt img ((h + i) % 16))

/-- One word written in a sequencer's block. -/
def Seq.ssPut (x : Seq) (off : Nat) (v : Word) : Seq :=
  if off < 0xC0 then x.setG (off / 8) v
  else if off = 0xC0 then { x with p := v.truncate 8 ||| 1 }
  else if off < 0xE8 then x.setLoop ((off - 0xC8) / 8) (v.truncate 32)
  else if off = 0xE8 then { x with pc := v, from? := none }
  else if 0x100000 ≤ off && off < 0x110000 then
    let i := (off - 0x100000) / 4
    { x with code := NatMap.put 0 (NatMap.put 0 x.code i (v.truncate 32)) (i + 1) ((v >>> 32).truncate 32) }
  else if 0x200000 ≤ off && off < 0x208000 then { x with pool := NatMap.put 0 x.pool ((off - 0x200000) / 8) v }
  else x

/-- One word written in a cell's block for a sequencer. -/
def Cell.ssPutSeq (c : Cell) (q : SeqId) (off : Nat) (v : Word) : Cell :=
  if 0x100 ≤ off && off < 0x1000 then
    let there := ((sysReadAny ({} : State) 0 q off).isSome || (q == .K && (sysReadK c off).isSome) || (q == .C && (sysReadC c off).isSome))
    if there && !sysReadOnly off then sysWrite c q off v else c
  else if 0x1800 ≤ off && off < 0x1840 then
    let n := (off - 0x1800) / 8
    if (tokenEnds n).2 = q then { c with tok := NatMap.put 0 c.tok n (v.toNat % 256) } else c
  else c.modSeq q (fun x => x.ssPut off v)

/-- The queues that a sequencer consumes, with those of the words written that lie in them. -/
def Cell.ssPutQueues (c : Cell) (q : SeqId) (off : Nat) (ws : List Word) : Cell :=
  (List.range 8).foldl (fun c n =>
    let base := 0x1000 + 0x100 * n
    if (queueEnds n).2 = q && touches off ws.length base (base + 0x88) then
      let img := overWords (c.queueImage n) base off ws
      { c.setQueue n (queueOfImage img) with qHead := NatMap.put 0 c.qHead n ((wordAt img 16).toNat % 16) }
    else c) c

/-- A mask from eight words of an image. -/
def maskOfImage (img : List Word) (e : Nat) : MaskBits := (List.range 8).foldl (fun m w => putSlice m w (wordAt img (8 * e + w))) 0

/-- The mask stack with those of the words written that lie in it. -/
def Cell.ssPutStack (c : Cell) (off : Nat) (ws : List Word) : Cell :=
  if touches off ws.length 0x40400 0x40808 then
    let img := overWords c.stackImage 0x40400 off ws
    { c with mstack := ((List.range (min (wordAt img 128).toNat 16)).map (maskOfImage img)).reverse }
  else c

/-- The rows of an operand queue with those of the words written that lie in it. -/
def Cell.ssPutVq (c : Cell) (off : Nat) (ws : List Word) : Cell :=
  (List.range 6).foldl (fun c n =>
    let base := 0x41000 + 0x1000 * n
    if touches off ws.length base (base + 0x1000) || touches off ws.length (0x40C00 + 8 * n) (0x40C08 + 8 * n) then
      let img := overWords ((List.range 8).flatMap (fun r => (List.range 64).map (fun w => c.ssVq n r w))) base off ws
      let hd := (overWords [c.ssVq n 8 0] (0x40C00 + 8 * n) off ws).headD 0
      let row (r : Nat) : Row := (List.range 64).foldl (fun x w => putSlice x w (wordAt img (64 * r + w))) (0 : Row)
      { c with vqHead := NatMap.put 0 c.vqHead n (hd.toNat % 8), vq := NatMap.put [] c.vq n ((List.range (min (hd.toNat / 16 % 16) 8)).map (fun i => row ((hd.toNat % 8 + i) % 8))) }
    else c) c

/-- A format-table entry as it is kept: its reserved bits read 0 (R154, R5). -/
def fmtWord (v : Word) : Word := v &&& 0xFFFF00000FFFFFFF

/-- One word written in a block of a cell without a sequencer. -/
def Cell.ssPut (c : Cell) (blk off : Nat) (v : Word) : Cell :=
  match blk with
  | 4 =>
    if off < 0x2000 then { c with templates := NatMap.put 0 c.templates (off / 8) v }
    else if 0x10000 ≤ off then
      c.modSeq (seqOfNum ((off - 0x10000) / 0x2000)) (fun x => { x with stage := NatMap.put 0 x.stage (off % 0x2000 / 8) v })
    else c
  | 5 => { c with formats := NatMap.put 0 c.formats (off / 8) (fmtWord v) }
  | 8 =>
    if off < 0x200000 then
      { c with lines := NatMap.put 0 c.lines (off / 128) (putSlice (NatMap.get 0 c.lines (off / 128)) (off % 128 / 8) v),
               badLines := c.badLines.filter (fun w => w != off / 8) }
    else c
  | 9 =>
    if off < 0x40000 then
      { c with rows := NatMap.put 0 c.rows (off / 512) (putSlice (NatMap.get 0 c.rows (off / 512)) (off % 512 / 8) v),
               badRows := c.badRows.filter (fun w => w != off / 8) }
    else if off < 0x40400 then
      let n := (off - 0x40000) / 64
      if n = 0 then c else { c with masks := NatMap.put 0 c.masks n (putSlice (NatMap.get 0 c.masks n) (off % 64 / 8) v) }
    else c
  | 10 =>
    if off < 0x200 then { c with tags := NatMap.put 0 c.tags (off / 8) (v.truncate 4) }
    else if off = 0x200 then { c with amax := v.truncate 32 }
    else if off = 0x208 then { c with nancnt := v.truncate 32 }
    else if off = 0x210 then { c with flags := c.flags &&& ~~~ (v.truncate 6) }
    else if 0x300 ≤ off && off < 0x400 then
      let i := (off - 0x300) / 4
      { c with hist := NatMap.put 0 (NatMap.put 0 c.hist i (v.truncate 32)) (i + 1) ((v >>> 32).truncate 32) }
    else if 0x2000 ≤ off && off < 0x2800 then { c with seqNext := NatMap.put 0 c.seqNext ((off - 0x2000) / 8) (v.truncate 32) }
    else c
  | _ => c

/-- A run of words written in a block of a cell, read-only fields left as they are (R6); a word of the scratchpad that a matrix command has locked is held
(R121, R122). -/
def State.ssWriteCell (s : State) (k blk off : Nat) (ws : List Word) : State :=
  let each (f : Cell → Nat → Word → Cell) (c : Cell) : Cell := ws.zipIdx.foldl (fun c (v, i) => f c (off + 8 * i) v) c
  if blk < 4 then s.modCell k (fun c => (each (fun c o v => c.ssPutSeq (seqOfNum blk) o v) c).ssPutQueues (seqOfNum blk) off ws)
  else if blk = 7 then ws.zipIdx.foldl (fun s (v, i) => (s.writeWord (spAddr k (off + 8 * i)) (leBytes 8 v.toNat) { kind := 2, owner := .engine }).1) s
  else s.modCell k (fun c => ((each (fun c o v => c.ssPut blk o v) c) |> fun c => if blk = 9 then (c.ssPutStack off ws).ssPutVq off ws else c))

/-! ### READBACK and WRITEBACK (R40) -/

/-- Whether a cell counts as stopped (R40). -/
def State.cellStopped (s : State) (k : Nat) : Bool := (s.cellAt k).bound.isNone || (s.cellAt k).stop.isSome

/-- Whether every cell of a die is stopped; a rim die has none. -/
def State.dieStopped (s : State) (d : Nat) : Bool := 16 ≤ d || (List.range 56).all (fun c => s.cellStopped (cellKey d c))

/-- Whether every word of a run in BLOCK 10 is a statistic or a completion tag. -/
def liveStats (off n : Nat) : Bool := decide (off + 8 * n ≤ 0x400)

/-- Whether a run meets an uncorrectable word (R132): its address, for the event. -/
def State.ssBad (s : State) (a : SsAddr) (n : Nat) : Option Nat :=
  let k := cellKey a.die a.unit
  let ws := (List.range n).map (fun i => a.off + 8 * i)
  let q := s.quadAt (quadKey a.die a.unit)
  if a.kind = 1 then ws.find? (fun o => (decide (0x10000 ≤ o) && decide (o < 0x30000) && q.badMain.contains ((o - 0x10000) / 8)) ||
    (decide (0x30000 ≤ o) && q.badMirr.contains ((o - 0x30000) / 8)))
  else if a.kind ≠ 0 then none
  else
    match a.blk with
    | 6 => ws.find? (fun o => o < 0x10000 && (NatMap.get {} (s.cellAt k).cbuf (o / 64)).bad.getLsbD (o % 64 / 8))
    | 7 => ws.find? (fun o => s.badRead (spAddr k o) 8)
    | 8 => ws.find? (fun o => o < 0x200000 && (s.cellAt k).badLines.contains (o / 8))
    | 9 => ws.find? (fun o => o < 0x40000 && (s.cellAt k).badRows.contains (o / 8))
    | _ => none

/-- A READBACK of n words: the status and the data. Statistics, completion tags and the fault counters of a quad are read live (R40, R129). -/
def State.ssRead (s : State) (a : SsAddr) (n : Nat) : BitVec 8 × List Word :=
  match a.size with
  | none => (0x12, [])
  | some size =>
    if size < a.off + 8 * n then (0x12, [])
    else if a.kind = 0 && !(a.blk = 10 && liveStats a.off n) && !s.cellStopped (cellKey a.die a.unit) then (0x11, [])
    else if a.kind = 1 && !(decide (8 ≤ a.off) && decide (a.off + 8 * n ≤ 0x30)) && !(List.range 4).all (fun i => s.cellStopped (cellKey a.die (4 * a.unit + i))) then (0x11, [])
    else if a.kind = 4 && !s.dieUp a.die then (0x11, [])
    else if (s.ssBad a n).isSome then (2, [])
    else (0, (List.range n).map (fun i => s.ssWord { a with off := a.off + 8 * i }))

/-- Whether some launch is open (R166). -/
def State.launchOpen (s : State) : Bool := !s.launches.isEmpty

/-- Whether a word of KIND 2 may be written (R13, R37, R166, R193, R201, R216). NEXT of an HBM sequence region, to which R201 gives no access, may not
(DESIGN CHOICE, log entry 82). -/
def State.dieWritable (s : State) (d off : Nat) : Bool :=
  if 0x80000 ≤ off && off < 0x82800 then
    let e := edgeDies ((off - 0x80000) / 0x100)
    s.dieStopped e.1 && s.dieStopped e.2
  else if d = 16 && off = 0 then !s.launchOpen
  else if d = 16 && 0x10000 ≤ off && off < 0x18000 then false
  else if 16 ≤ d && 0x100000 ≤ off && off < 0x200000 then false
  else if d < 16 && 0x200000 ≤ off && off < 0x208000 then false
  else !(16 ≤ d && ((0x300000 ≤ off && off < 0x301000) || (0x400000 ≤ off && off < 0x1400000)))

/-- Every cached translation dropped (R166). -/
def State.dropTlbs (s : State) (p : TlbEntry → Bool) : State :=
  { s with cells := s.cells.map (fun (e : Nat × Cell) => (e.1, { e.2 with tlb := e.2.tlb.filter (fun t => !p t) })),
           walkNow := [], dieTlb := s.dieTlb.map (fun (e : Nat × List TlbEntry) => (e.1, e.2.filter (fun t => !p t))) }

/-- The page that an XLINV names: its first address and its size; none for every page (R166). -/
def invPage (v : Word) : Option (Nat × Nat) :=
  let va := bits v 51 16 * 2 ^ 16
  match v.toNat % 8 with
  | 0 => some (va, 2 ^ 16)
  | 1 => some (va / 2 ^ 21 * 2 ^ 21, 2 ^ 21)
  | 2 => some (va / 2 ^ 30 * 2 ^ 30, 2 ^ 30)
  | 3 => some (va / 2 ^ 35 * 2 ^ 35, 2 ^ 35)
  | _ => none

/-- Whether an address lies in the page. -/
def inPage (p : Option (Nat × Nat)) (va : Nat) : Bool :=
  match p with
  | none => true
  | some (a, n) => decide (a ≤ va) && decide (va < a + n)

/-- Whether a cached translation overlaps the page. -/
def TlbEntry.overlaps (p : Option (Nat × Nat)) (t : TlbEntry) : Bool :=
  match p with
  | none => true
  | some (a, n) => decide (a < t.va + 2 ^ t.bits) && decide (t.va < a + n)

/-- One word of KIND 2 written (R13, R166). -/
def State.ssPutDie (s : State) (d off : Nat) (v : Word) : State :=
  if 0x80000 ≤ off && off < 0x82800 && off % 16 = 0 then
    let e := (off - 0x80000) / 0x100
    let m := off % 0x100 / 0x10
    if m < 8 && ((edgeDies e).1 == d || (edgeDies e).2 == d) then s.writeLnkctl d e m v else s
  else if d = 16 && off = 0 then ({ s with xlV := bit v 0, xlRoot := BitVec.ofNat 28 (bits v 47 20) }).dropTlbs (fun _ => true)
  else if d = 16 && off = 8 then s.dropTlbs (fun t => t.overlaps (invPage v))
  else s

/-- A WRITEBACK of a run of words: the status and the state after; any word refused, nothing is written. -/
def State.ssWrite (s : State) (a : SsAddr) (ws : List Word) : BitVec 8 × State :=
  match a.size with
  | none => (0x12, s)
  | some size =>
    if size < a.off + 8 * ws.length then (0x12, s)
    else
      match a.kind with
      | 0 =>
        if !(a.blk = 10 && decide (a.off + 8 * ws.length ≤ 0x200)) && !s.cellStopped (cellKey a.die a.unit) then (0x11, s)
        else (0, s.ssWriteCell (cellKey a.die a.unit) a.blk a.off ws)
      | 2 =>
        if ws.zipIdx.all (fun x => s.dieWritable a.die (a.off + 8 * x.2)) then
          (0, ws.zipIdx.foldl (fun s x => s.ssPutDie a.die (a.off + 8 * x.2) x.1) s)
        else (0x11, s)
      | _ => (0x11, s)

/-- Whether an access in flight may still use a translation of a page (R166), the writes of engines and the held stores of sequencers
and units among them (R167). -/
def State.usesPage (s : State) (p : Option (Nat × Nat)) : Bool :=
  let seqUses (x : Seq) : Bool := x.slots.any (fun i => match i.item with | .store _ _ _ _ _ va => inPage p va.toNat | _ => false)
  s.cells.any (fun e => e.2.tensors.any (fun t => t.elems.any (fun x => inPage p x.2.2.toNat)) ||
    e.2.vcmds.any (fun v => v.addrs.any (fun x => inPage p x.2.2.toNat)) ||
    e.2.cbuf.any (fun h => h.2.kind ≠ 1 && (h.2.seq.isNone || inPage p h.2.va.toNat)) ||
    seqUses e.2.k || seqUses e.2.l || seqUses e.2.c || seqUses e.2.s) ||
  s.pairs.any (fun e => e.2.unacked.any (fun r => inPage p r.va.toNat)) ||
  s.replicas.any (fun r => inPage p r.va.toNat) || !s.inWrites.isEmpty || !s.redWrites.isEmpty || !s.redHeld.isEmpty

end Sys2Proof.Machine
end

