-- ==== Sys2Proof/Machine/Exchange.lean ====
section
/-! DEFINITION. Irregular exchange (R209 to R226): posts, the arbiters and their calendar, the phases, completion, failover and loss; and
the chunks that arrive from other packages, exchange data among them (R204, R224). -/

namespace Sys2Proof.Machine

/-! ### Members, arbiters and messages -/

/-- A message from agent k to a package: to a die of its own over the mesh (R17), or to another through the fabric. -/
def State.sendX (s : State) (k : Nat) (pkg : BitVec 19) (dst : Nat) (m : XMsg) : State :=
  if pkg = s.pkgId then s.sendMsg k dst (s.userOf k) m else { s with netOut := s.netOut ++ [.exchange pkg m] }

/-- The messages here, those on the mesh with them. -/
def State.allX (s : State) : List XMsg := s.xmsgs ++ s.xnet.map (fun x => x.2)

/-- The package of a member. -/
def Post.pkgOf (p : Sys2Proof.Post) (i : Nat) : BitVec 19 := p.memtab.getD i 0

/-- The place of an arbiter of an exchange, by its role (R212). -/
def arbiterPlace (xid : Nat) (standby : Bool) : Nat := 16 + (xid + if standby then 1 else 0) % 4

/-- Package and place of the primary and of the standby (R212). -/
def arbiters (p : Sys2Proof.Post) : (BitVec 19 × Nat) × (BitVec 19 × Nat) :=
  ((Post.pkgOf p 0, arbiterPlace p.xid false), (Post.pkgOf p (p.nmem - 1), arbiterPlace p.xid true))

/-- The slot of an exchange here, by the arbiter's role, with its key. -/
def State.slotOf (s : State) (xid : Nat) (standby : Bool) : Option (Nat × XSlot) := s.xslots.find? (fun x => x.2.xid == xid && x.2.standby == standby)

/-- The rim die that takes a place on this package: the first in service from there, modulo 4, other than one taken (R212). -/
def State.arbiterDie (s : State) (place : Nat) (taken : Option Nat) : Nat :=
  (((List.range 4).map (fun i => 16 + (place + i) % 4)).find? (fun d => s.dieUp d && taken != some d)).getD place

/-- The rim die of an arbiter on this package: that of the slot the exchange holds, or the one R212 gives; a standby beside its primary avoids the
primary's. -/
def State.roleDie (s : State) (p : Sys2Proof.Post) (standby : Bool) : Nat :=
  match s.slotOf p.xid standby with
  | some (key, _) => 16 + key / 16
  | none =>
    let first := (s.slotOf p.xid false).elim (s.arbiterDie (arbiterPlace p.xid false) none) (fun x => 16 + x.1 / 16)
    if standby then s.arbiterDie (arbiterPlace p.xid true) (if Post.pkgOf p 0 = Post.pkgOf p (p.nmem - 1) then some first else none) else first

/-- A member here by exchange and index, not complete. -/
def State.member? (s : State) (xid i : Nat) : Option Member := s.members.find? (fun m => m.post.xid == xid && m.post.member == i && !m.done)

/-- The state with a member changed, the first that is not complete. -/
def State.modMember (s : State) (xid i : Nat) (f : Member → Member) : State :=
  { s with members := modFirst (fun m => m.post.xid == xid && m.post.member == i && !m.done) f s.members }

/-- The cell that a member's group holds (R187). -/
def State.memberCell (s : State) (m : Member) : Option Nat :=
  (s.launch? m.launch).bind (fun l => (l.bound.find? (fun e => e.1 == m.group)).map (fun e => e.2))

/-- The agent that translates an address of a member's tables; none while its group is not bound and the address names its scratchpad
(R226). -/
def State.memberAgent (s : State) (m : Member) (va : Word) : Option Nat :=
  if inLocal va.toNat then s.memberCell m else some (64 * rimOf m.post.eng)

/-- Drops the message of the step: one on its way here, or one that has just arrived from another package. -/
def State.dropX (s : State) : State := if s.site.x.isSome then s else { s with xmsgs := s.xmsgs.eraseIdx s.site.n }

/-- The message of the step stays: one that has just arrived is kept here. -/
def State.keepX (s : State) : State :=
  match s.site.x with
  | some m => { s with xmsgs := s.xmsgs ++ [m] }
  | none => s

/-- A message put on its way within the package. -/
def State.sendOne (s : State) (m : XMsg) : State := { s with xmsgs := s.xmsgs ++ [m] }

/-- The message of the step. -/
def State.theX (s : State) : Option XMsg := s.site.x.or (s.xmsgs[s.site.n]?)

/-! ### `dpost`, `dgrant`, `xstat` (R210, R211, R220, R221) -/

/-- A post block checked by itself (R210, R211). -/
def postBad (w : List Word) : Bool :=
  let w0 := w.getD 0 0
  let n := bits w0 36 24
  n = 0 || 4096 < n || n ≤ bits w0 48 37 || bits w0 63 53 != 0 || bits (w.getD 1 0) 63 52 != 0 || bits (w.getD 2 0) 63 52 != 0 ||
  bits (w.getD 3 0) 63 52 != 0 || bits (w.getD 4 0) 63 52 != 0 || bits (w.getD 5 0) 63 48 != 0 || bits (w.getD 6 0) 63 52 != 0 ||
  bits (w.getD 7 0) 63 15 != 0 || (w.getD 1 0).toNat % 8 != 0 || (w.getD 2 0).toNat % 8 != 0 || (w.getD 3 0).toNat % 16 != 0 ||
  (w.getD 4 0).toNat % 64 != 0 || (w.getD 6 0).toNat % 16 != 0

/-- The exchange slots of an arbiter. -/
def State.slotsOf (s : State) (rim : Nat) : Nat := s.xslots.countP (fun x => 16 + x.1 / 16 == rim)

/-- Whether posting cannot start (R209, R347): an arbiter of the exchange on this package has every slot taken by other exchanges. A post that is already on
its way then waits at the arbiter (DEDUCED, log entry 164). -/
def State.postFull (s : State) (xid n : Nat) (tab : List (BitVec 19)) : Bool :=
  let p : Sys2Proof.Post := { xid := xid, nmem := n, member := 0, eng := 0, memtab := tab, mtsig := 0, demand := [], rlen := 0, home := s.pkgId }
  let ((a, _), (b, _)) := arbiters p
  (a == s.pkgId && (s.slotOf xid false).isNone && decide (16 ≤ s.slotsOf (s.roleDie p false))) ||
  (b == s.pkgId && (s.slotOf xid true).isNone && decide (16 ≤ s.slotsOf (s.roleDie p true)))

/-- Members of this group for an exchange. -/
def State.mineFor (s : State) (xid : Nat) (m : Member) : Bool :=
  m.post.xid == xid && m.launch == s.hereBound.launch && m.group == s.hereBound.group

/-- The block of a `dgrant` or an `xstat`: its XID. -/
def blockXid (ea : Word) : M Nat :=
  if ea.toNat % 64 ≠ 0 then collFault ea
  else do
    let w ← readWords ea 1
    pure (bits (w.getD 0 0) 23 0)

/-- `dpost` (R211). -/
def execDpost (t : BitVec 4) (a : BitVec 5) : State → Out :=
  issue { t := t, who := collSeqs, checks := checkSrc a } (do
    let ea ← readReg a
    if ea.toNat % 64 ≠ 0 then collFault ea
    else do
      let w ← readWords ea 8
      let s ← get
      let w0 := w.getD 0 0
      let xid := bits w0 23 0
      let n := bits w0 36 24
      let eng := bits w0 52 49
      if postBad w || !s.dieUp (rimOf eng) || s.members.any (fun m => s.mineFor xid m && !m.done) then collFault ea
      else do
        let tab ← readWords (w.getD 1 0) n
        let dem ← readWords (w.getD 2 0) n
        let s ← get
        if tab.any (fun e => bits e 63 19 ≠ 0) || dem.any (fun e => bits e 63 48 ≠ 0) then collFault ea
        else if s.postFull xid n (tab.map (fun e => e.truncate 19)) then waitFor 12 0
        else if !s.storesDone s.here s.site.seq then stallNow
        else do
          let p : Sys2Proof.Post :=
            { xid := xid, nmem := n, member := bits w0 48 37, eng := eng, memtab := tab.map (fun e => e.truncate 19),
              mtsig := crc64 crcInit (tab.flatMap (fun e => leBytes 8 e.toNat)), demand := dem.map (fun e => e.toNat), rlen := bits (w.getD 5 0) 47 0, home := s.pkgId }
          let m : Member :=
            { post := p, launch := s.hereBound.launch, group := s.hereBound.group, cell := s.here, seq := s.site.seq, pc := s.curSeq.pc,
              srctab := w.getD 3 0, rbase := w.getD 4 0, grtab := w.getD 6 0, ctr := (w.getD 7 0).truncate 14, ctrEn := bit (w.getD 7 0) 14 }
          wordsRead
          modify (fun s =>
            let (x, y) := arbiters p
            (({ s with members := s.members.filter (fun o => !s.mineFor xid o) ++ [m] } : State).sendX s.here x.1 (s.roleDie p false) (.post x.2 false false p)).sendX
              s.here y.1 (s.roleDie p true) (.post y.2 true false p))
          pure .seq)

/-- Words stored for the sequencer whose turn it is, in order, those for other dies as its stores leave it (R17, R184): a failing one raises STORE_FAULT or
UNCORRECTABLE with its address. -/
def writeWords : List (Word × Word) → M Unit
  | [] => pure ()
  | (ea, v) :: l => do
    let (pa, repl) ← xlate ea true
    let s ← get
    let q := s.site.seq
    if s.fenced then stallNow
    else if repl then do
      set (s.sendReplica { pa := pa, op := .write (leBytes 8 v.toNat), cell := s.here, seq := q, cls := .relaxed, pc := s.curSeq.pc, va := ea })
      writeWords l
    else if homeDie pa ≠ s.here / 64 then
      match s.request (s.here / 64) (homeDie pa) pa (.write (leBytes 8 v.toNat)) s.here q .relaxed s.curSeq.pc ea with
      | none => stallNow
      | some (_, s1) => do
        set s1
        writeWords l
    else
      let (s1, r) := s.engineWrite s.here pa repl (leBytes 8 v.toNat) q .none s.curSeq.pc ea
      match r with
      | .done => do
        set s1
        writeWords l
      | .bad => raise tcUncorrectable ea
      | .full => stallNow

/-- The words of a grant table: GRANTED of every source, and RECEIVED as 0 while the exchange goes on (R220). -/
def grantWords (m : Member) (g : List Nat) : List (Word × Word) :=
  g.zipIdx.flatMap (fun x =>
    let at' := m.grtab + BitVec.ofNat 64 (16 * x.2)
    (at', BitVec.ofNat 64 (x.1 % 2 ^ 48)) :: (if m.done then [] else [(at' + 8, 0)]))

/-- `dgrant` (R220). -/
def execDgrant (t : BitVec 4) (d a : BitVec 5) : State → Out :=
  issue { t := t, who := collSeqs, checks := do checkDst d; checkSrc a } (do
    let ea ← readReg a
    let xid ← blockXid ea
    let s ← get
    match s.members.find? (s.mineFor xid) with
    | none => collFault ea
    | some m =>
      match m.granted.or (if m.done then some (List.replicate m.post.nmem 0) else none) with
      | none => waitFor 12 0
      | some g => do
        writeWords (grantWords m g)
        wordsRead
        writeReg d (BitVec.ofNat 64 (g.foldl (fun x y => x + y) 0))
        pure .seq)

/-- The status that a member reports: the first of the causes met in the order of R221. -/
def Member.status (m : Member) : Nat := ([5, 3, 7, 2, 1, 6].find? (fun c => m.causes.contains c)).getD 0

/-- `xstat` (R221). -/
def execXstat (t : BitVec 4) (d a : BitVec 5) : State → Out :=
  issue { t := t, who := collSeqs, checks := do checkDst d; checkSrc a } (do
    let ea ← readReg a
    let xid ← blockXid ea
    wordsRead
    let s ← get
    writeReg d (match s.members.find? (s.mineFor xid) with
      | none => 0
      | some m => BitVec.ofNat 64 (m.status + (if m.done then 8 else 0) + (if m.failover then 16 else 0) + at_ (min m.unsent (2 ^ 48 - 1)) 16))
    pure .seq)

/-! ### The decomposition (R214, R215) -/

/-- An element of a matrix. -/
def cellOf (m : List (List Nat)) (i j : Nat) : Nat := (m.getD i []).getD j 0

/-- Demand fitted to the areas, and the offsets of every source, receiver by receiver (R214): column r of both. -/
def fitColumn (d : Nat → Nat) (rlen n : Nat) : List (Nat × Nat) :=
  ((List.range n).foldl (fun (acc : List (Nat × Nat) × Nat) i =>
    let dd := min (d i) (rlen - acc.2)
    (acc.1 ++ [(dd, acc.2)], acc.2 + (dd + 63) / 64 * 64)) ([], 0)).1

/-- The untaken receiver with the largest remnant, the lowest on a tie (R215). -/
def pickReceiver (row : List Nat) (taken : List Nat) : Option Nat :=
  (row.zipIdx.foldl (fun (best : Option (Nat × Nat)) x =>
    if x.1 = 0 || taken.contains x.2 then best
    else match best with
      | none => some x
      | some b => if b.1 < x.1 then some x else some b) none).map (fun b => b.2)

/-- The pairs of a phase: senders in ascending order. -/
def pairsOf (m : List (List Nat)) : List (Nat × Nat) :=
  (m.zipIdx.foldl (fun (acc : List (Nat × Nat) × List Nat) x =>
    match pickReceiver x.1 acc.2 with
    | none => acc
    | some r => (acc.1 ++ [(x.2, r)], acc.2 ++ [r])) ([], [])).1

/-- A matrix less q in the cells of the pairs. -/
def lessBy (m : List (List Nat)) (ps : List (Nat × Nat)) (q : Nat → Nat → Nat) : List (List Nat) :=
  m.zipIdx.map (fun x => match ps.find? (fun p => p.1 == x.2) with
    | none => x.1
    | some p => setAt x.1 p.2 (cellOf m p.1 p.2 - q p.1 p.2))

/-- Phases while demand is left; `whole` for the deferred entries. The phase that would exceed a limit is not begun. -/
def phasesOf (whole : Bool) : Nat → List (List Nat) → Nat → Nat → List Grant × Nat
  | 0, _, ph, _ => ([], ph)
  | fuel + 1, m, ph, count =>
    let ps := pairsOf m
    if ps.isEmpty || 65536 < count + ps.length || 65536 ≤ ph then ([], ph)
    else
      let q := ps.foldl (fun x p => min x (cellOf m p.1 p.2)) 0x400000
      let amount (i j : Nat) : Nat := if whole then cellOf m i j else q
      let (rest, last) := phasesOf whole fuel (lessBy m ps amount) (ph + 1) (count + ps.length)
      (ps.map (fun p => ⟨p.1, p.2, ph + 1, amount p.1 p.2⟩) ++ rest, last)

/-- The calendar of a demand that fits, with its number of phases. -/
def calendarOf (dd : List (List Nat)) : List Grant × Nat :=
  let big := dd.map (fun r => r.map (fun x => if x < 0x10000 then 0 else x))
  let small := dd.map (fun r => r.map (fun x => if x < 0x10000 then x else 0))
  let (g1, n1) := phasesOf false 65537 big 0 0
  if (big.flatten.foldl (fun x y => x + y) 0) != (g1.foldl (fun x g => x + g.bytes) 0) then (g1, n1)
  else
    let (g2, n2) := phasesOf true 65537 small n1 g1.length
    (g1 ++ g2, n2)

/-- Fitted demand and offsets of an exchange from its posts in member order: dd and offset by sender. -/
def fitAll (ps : List Sys2Proof.Post) : List (List Nat) × List (List Nat) :=
  let n := ps.length
  let cols := (List.range n).map (fun r => fitColumn (fun i => ((ps.map (fun p => p.demand)).getD i []).getD r 0) ((ps.map (fun p => p.rlen)).getD r 0) n)
  let by' (f : Nat × Nat → Nat) : List (List Nat) := (List.range n).map (fun i => cols.map (fun c => f (c.getD i (0, 0))))
  (by' (fun x => x.1), by' (fun x => x.2))

/-! ### The arbiter (R213, R216, R217) -/

/-- The state with a slot written. -/
def State.setX (s : State) (key : Nat) (x : XSlot) : State := { s with xslots := NatMap.ins s.xslots key x }

/-- A completion notice with a status sent by an arbiter to every member, where its post came from (R213, R219). -/
def State.finishAll (s : State) (rim : Nat) (x : XSlot) (st : Nat) : State :=
  x.posts.foldl (fun s p => s.sendX (64 * rim) p.home (rimOf p.eng) (.finish x.xid p.member st)) s

/-- Whether a member waits for an exchange to come: its post is still held back from an arbiter (R226). -/
def State.postHeld (s : State) (standby : Bool) (m : Member) : Bool :=
  s.allX.any (fun x => match x with | .post _ st _ p => st == standby && p == m.post | _ => false)

/-- The slots of an exchange that has run to its end are given up once no notice of it is left here and every member here is complete, or posts anew
(R209). -/
def State.freeSlots (s : State) (xid : Nat) : State :=
  let left := s.allX.any (fun m => match m with | .finish x _ _ => x == xid | _ => false)
  let ended (standby : Bool) : Bool := !left && s.members.all (fun m => m.post.xid != xid || m.done || s.postHeld standby m)
  { s with xslots := s.xslots.filter (fun x => !(x.2.xid == xid && (x.2.st == 4 || !s.dieUp (16 + x.1 / 16)) && ended x.2.standby)) }

/-- An exchange that has run to its end: the active arbiter tells every member. -/
def State.endExchange (s : State) (key : Nat) (x : XSlot) (st : Nat) : State :=
  let s1 := s.setX key { x with st := 4, openPh := 0 }
  (if x.active then s1.finishAll (16 + key / 16) x st else s1).freeSlots x.xid

/-- Whether every grant of a phase has been acknowledged. -/
def XSlot.phaseDone (x : XSlot) (ph : Nat) : Bool :=
  x.calendar.all (fun g => g.phase != ph || x.acks.contains (ph, g.snd, g.rcv))

/-- The highest phase that is acknowledged with every phase before it. -/
def XSlot.closedUpTo (x : XSlot) : Nat → Nat → Nat
  | 0, c => c
  | fuel + 1, c => if c < x.nphase && x.phaseDone (c + 1) then x.closedUpTo fuel (c + 1) else c

/-- Phase CLOSED + 1 opens, or the exchange ends (R217, R219). -/
def State.openNext (s : State) (key : Nat) (x : XSlot) : State :=
  if x.nphase ≤ x.closed then s.endExchange key x 0
  else if !x.active then s.setX key x
  else
    let ph := x.closed + 1
    let senders := ((x.calendar.filter (fun g => g.phase == ph)).map (fun g => g.snd)).eraseDups
    (x.posts.filter (fun p => senders.contains p.member)).foldl (fun s p =>
      s.sendX (64 * (16 + key / 16)) p.home (rimOf p.eng) (.phase x.xid x.epoch ph p.member)) (s.setX key { x with openPh := ph })

/-- The first post that disagrees with the others (R213). -/
def disagreeing : List Sys2Proof.Post → Option Nat
  | [] => none
  | p :: ps => ((p :: ps).zipIdx.find? (fun (q, i) => q.nmem != p.nmem || q.mtsig != p.mtsig || q.member != i)).map (fun (q, _) => q.member)

/-- Every member's row of the calendar, with what it is granted and the offsets, sent to it (R217). -/
def State.sendRows (s : State) (rim : Nat) (x : XSlot) : State :=
  let offs := (fitAll x.posts).2
  x.posts.foldl (fun s p =>
    let i := p.member
    let granted := (List.range x.nmem).map (fun j => (x.calendar.filter (fun g => g.snd == j && g.rcv == i)).foldl (fun a g => a + g.bytes) 0)
    s.sendX (64 * rim) p.home (rimOf p.eng) (.row x.xid i x.nphase granted (offs.map (fun o => o.getD i 0)) (x.calendar.filter (fun g => g.snd == i)) (offs.getD i []))) s

/-- A formed exchange (R213): refused for a mismatch, or decomposed, the rows sent and the first phase opened. -/
def State.form (s : State) (key : Nat) (x : XSlot) : State :=
  let ps := sortBy (fun (a b : Sys2Proof.Post) => decide (a.member ≤ b.member)) x.posts
  let x0 := { x with posts := ps, mtsig := ((ps.head?).map (fun p => p.mtsig)).getD 0 }
  match disagreeing ps with
  | some i =>
    let die := 16 + key / 16
    let s1 := if x.active then s.bbox die (bbEvent s.cycle 0x0B 0 0 0 (key % 16) 3 (BitVec.ofNat 64 x.xid) (BitVec.ofNat 64 i)) else s
    s1.endExchange key x0 7
  | none =>
    let (cal, n) := calendarOf (fitAll ps).1
    let x1 := { x0 with st := 3, calendar := cal, nphase := n }
    (if x.active then s.sendRows (16 + key / 16) x1 else s).openNext key x1

/-- Whether an exchange can be formed (R213): a post of every index that some post counts is there. -/
def XSlot.complete (x : XSlot) : Bool :=
  x.posts.any (fun p => (List.range p.nmem).all (fun i => x.posts.any (fun q => q.member == i)))

/-- The XIDs whose posts wait at an arbiter for a slot (R209). -/
def State.waitingPosts (s : State) (rim : Nat) : List Nat :=
  s.xmsgs.filterMap (fun m => match m with
    | .post _ st true p => if s.roleDie p st = rim && (s.slotOf p.xid st).isNone then some p.xid else none
    | _ => none)

/-- The lowest free slot of an arbiter. -/
def State.freeX (s : State) (rim : Nat) : Option Nat :=
  ((List.range 16).map (fun k => xKey rim k)).find? (fun k => !s.xslots.any (fun x => x.1 == k))

/-- A post that must wait at its arbiter. -/
def State.keepPost (s : State) (rim : Nat) (standby : Bool) (p : Sys2Proof.Post) : State :=
  if s.site.x.isSome then { s with xmsgs := s.xmsgs ++ [.post rim standby true p] }
  else { s with xmsgs := setAt s.xmsgs s.site.n (.post rim standby true p) }

/-- A member that posts after the standby has taken over hears of it (R223). -/
def State.tellTakeover (s : State) (key : Nat) (x : XSlot) (p : Sys2Proof.Post) : State :=
  if x.standby && x.active then s.sendX (64 * (16 + key / 16)) p.home (rimOf p.eng) (.takeover x.xid (some p.member) none x.cost) else s

/-- POST_ARRIVAL (R209, R213, R215, R226). -/
def execPostArrival (s : State) : Out :=
  match s.theX with
  | some (.post place standby _ p) =>
    let rim := s.roleDie p standby
    if !s.dieUp rim then .next s.dropX
    else
      match s.slotOf p.xid standby with
      | some (key, x) =>
        if x.st ≠ 1 then .next (s.keepPost place standby p)
        else
          let x1 := { x with posts := x.posts ++ [p] }
          let s1 := s.dropX.setX key x1
          .next (if x1.complete then (s1.tellTakeover key x1 p).form key x1 else s1.tellTakeover key x1 p)
      | none =>
        match s.freeX rim with
        | none => .next (s.keepPost place standby p)
        | some key =>
          if (s.waitingPosts rim).any (fun i => i < p.xid) then .next (s.keepPost place standby p)
          else
            let x : XSlot := { xid := p.xid, nmem := p.nmem, st := 1, standby := standby, active := !standby, posts := [p], mtsig := p.mtsig, beat := s.cycle }
            let s1 := s.dropX.setX key x
            .next (if x.complete then s1.form key x else s1)
  | _ => .next s

/-- An acknowledgement taken by the arbiter of a role (R217): the last of a phase closes it; an arbiter whose die is out of service does nothing (R223). -/
def State.takeAck (s : State) (standby : Bool) (xid ph snd rcv : Nat) : State :=
  match s.slotOf xid standby with
  | none => s
  | some (key, x) =>
    let x1 := { x with acks := if x.acks.contains (ph, snd, rcv) then x.acks else x.acks ++ [(ph, snd, rcv)] }
    let c := x1.closedUpTo (x1.nphase + 1) x1.closed
    let x2 := { x1 with closed := c }
    if !s.dieUp (16 + key / 16) then s
    else if x.st ≠ 3 || c = x.closed || (c < x.openPh && x.active) then s.setX key x2
    else s.openNext key x2

/-- GRANT_ACK (R217): the grant's bytes performed, its acknowledgement goes to an arbiter; there it is taken. -/
def execGrantAck (s : State) : Out :=
  match s.theX with
  | some (.acked standby xid ph snd rcv) => .next (s.dropX.takeAck standby xid ph snd rcv)
  | some (.ack pkg rim xid ph snd rcv) =>
    let o := Owner.grant xid ph snd rcv
    let standby := rim != arbiterPlace xid false
    let sending := s.transfers.any (fun t => t.owner == o)
    if s.site.x.isSome then .next (s.takeAck standby xid ph snd rcv)
    else if s.outstanding o || (sending && !s.site.yes) then .next s
    else
      let st := s.site.word.toNat % 8
      let s0 := if sending then
          (let s1 := { s with transfers := s.transfers.filter (fun t => t.owner != o) }
           if st = 0 then s1 else s1.report o (BitVec.ofNat 3 st))
        else s
      let s1 := s0.dropX
      if pkg ≠ s.pkgId then .next { s1 with netOut := s1.netOut ++ [.exchange pkg (.ack pkg rim xid ph snd rcv)] }
      else
        match s1.slotOf xid standby with
        | none => .next s1
        | some (key, _) =>
          let src := ((s1.member? xid snd).map (fun m => rimOf m.post.eng)).getD (16 + key / 16)
          .next (s1.sendMsg (64 * src) (16 + key / 16) none (.acked standby xid ph snd rcv))
  | _ => .next s

/-! ### The sender's engine (R217, R218) -/

/-- What reads for a member. -/
def memberReader (m : Member) (k : Nat) (o : Owner) : Reader :=
  { kOf := fun _ => k, die := rimOf m.post.eng, seq := m.seq, owner := o, user := some m.launch }

/-- A stretch read for a member (R17); it waits while the member's group is not bound and the address names its scratchpad. -/
def State.memberFetch (s : State) (m : Member) (o : Owner) (va : Word) (ps : List Piece) : Fetch :=
  match s.memberAgent m va with
  | none => .wait
  | some k => s.fetch (memberReader m k o) 0 0 none .nowhere ps

/-- The launch and group through whose local window an address of a member goes (R226). -/
def Member.window (m : Member) (va : Word) : Option (Nat × Nat) := if inLocal va.toNat then some (m.launch, m.group) else none

/-- CALENDAR_ROW (R217, R218): the row is kept and SRCTAB is read whole; what will not be sent is counted. -/
def execCalendarRow (s : State) : Out :=
  match s.theX with
  | some (.row xid i n granted _ row rowOffs) =>
    match (s.member? xid i).filter (fun m => m.sources.isNone) with
    | none => .next s.dropX
    | some m =>
      let size := 16 * m.post.nmem
      match s.memberFetch m (.table xid i) m.srctab (piecesOf (.run m.srctab) (.run 0) (size + 1) 0 size) with
      | .wait => .next s.keepX
      | .sent s1 => .next s1.keepX
      | .got s1 mv st =>
        let bs := mv.flatMap (fun x => x.2.2)
        let ws := (List.range (2 * m.post.nmem)).map (fun j => BitVec.ofNat 64 (ofLe ((bs.drop (8 * j)).take 8)))
        let (src, bad) := if st = 0 then
            ((List.range m.post.nmem).map (fun j => ((ws.getD (2 * j) 0) &&& 0xFFFFFFFFFFFFF, bits (ws.getD (2 * j + 1) 0) 47 0)), none)
          else (List.replicate m.post.nmem ((0 : Word), 0), some st)
        let left := src.zipIdx.map (fun x => x.1.2 - ((row.filter (fun g => g.rcv == x.2)).foldl (fun a g => a + g.bytes) 0))
        let miss := left.foldl (fun a b => a + b) 0
        .next (s1.dropX.modMember xid i (fun m => { m with
          granted := some granted, row := row, rowOffs := rowOffs, sources := some src, nphase := n, unsent := miss,
          causes := m.causes ++ (if miss = 0 then [] else [6]) ++ (match bad with | none => [] | some st => [st.toNat]) }))
  | _ => .next s

/-- The translations that a grant to a receiver needs, one for each 64 KiB page of its area; the status of the first that fails (R226). -/
def State.grantPages (s : State) (k : Nat) (va : Word) (len : Nat) : State × BitVec 3 :=
  let page := va.toNat / 0x10000
  (List.range ((va.toNat + len - 1) / 0x10000 + 1 - page)).foldl (fun (acc : State × BitVec 3) i =>
    if acc.2 ≠ 0 then acc
    else
      let at' := if i = 0 then va else BitVec.ofNat 64 (0x10000 * (page + i))
      match acc.1.translate k at' true with
      | .error x => (acc.1.noteWalk k at', x.status)
      | .ok (_, _, s1) => (s1, 0)) (s, 0)

/-- The bytes of a stretch that a receiver on this package takes from a rim die (R224): each 1 MiB chunk of a phase from a sender once, written under an
owner; none while it has to wait; the status of a receive address that fails, of any byte of the whole grant (`goff`, `glen`): such a grant writes
nothing (R226). -/
def State.receiveX (s0 : State) (rim : Nat) (m : Member) (ph snd goff glen : Nat) (off : Nat) (bs : List Byte) (o : Owner) : Option (State × BitVec 3) :=
  if m.got.contains (ph, snd, off) || bs.isEmpty then some (s0, 0)
  else
    let va := m.rbase + BitVec.ofNat 64 off
    match s0.memberAgent m va with
    | none => none
    | some k =>
      let ps := piecesOf (.run 0) (.run va) (bs.length + 1) 0 bs.length
      let (s, st0) := s0.grantPages k (m.rbase + BitVec.ofNat 64 goff) glen
      let (s1, mv, st) := ps.foldl (fun (acc : State × Moves × BitVec 3) p =>
        if acc.2.2 ≠ 0 then acc
        else
          match acc.1.translate k p.dst true with
          | .error x => (acc.1.noteWalk k p.dst, acc.2.1, x.status)
          | .ok (pa, repl, s1) => (s1, acc.2.1 ++ [(p.pos, (if repl then pa + replFlag else pa), (bs.drop p.pos).take p.n)], acc.2.2)) (s, [], st0)
      if st ≠ 0 then some (s1.modMember m.post.xid m.post.member (fun m => { m with causes := m.causes ++ [st.toNat] }), st)
      else
        let s2 := s1.modMember m.post.xid m.post.member (fun m => { m with
          got := m.got.filter (fun g => g.1 == ph || g.2.1 != snd) ++ [(ph, snd, off)],
          received := NatMap.put 0 m.received snd (NatMap.get 0 m.received snd + bs.length) })
        some (s2.sendWrites (64 * rim) (some m.launch) o (mv.map (fun x => (x.2.1, x.2.2))) (m.window va), 0)

/-- A list cut into stretches of at most 1 MiB, each with its place. -/
def cutMiB : Nat → Nat → List Byte → List (Nat × List Byte)
  | 0, _, _ => []
  | _ + 1, _, [] => []
  | fuel + 1, off, b :: bs => (off, (b :: bs).take miB) :: cutMiB fuel (off + miB) ((b :: bs).drop miB)

/-- One grant sent (R217, R218): the source bytes below ALEN read, the receiver on this package served, or chunks put on the fabric; then
both arbiters are to be told. None while it has to wait; whether it has been sent. -/
def State.sendGrant (s : State) (m : Member) (g : Grant) : Option (State × Bool) :=
  let xid := m.post.xid
  let (base, alen) := (m.sources.getD []).getD g.rcv (0, 0)
  let c := ((m.row.filter (fun x => x.rcv == g.rcv && decide (x.phase < g.phase))).map (fun x => x.bytes)).foldl (fun a b => a + b) 0
  let n := min (c + g.bytes) alen - c
  let src := base + BitVec.ofNat 64 c
  let dst := m.rowOffs.getD g.rcv 0 + c
  let o := Owner.grant xid g.phase g.snd g.rcv
  let acks (s : State) : Option (State × Bool) :=
    let (x, y) := arbiters m.post
    some ((s.sendOne (.ack x.1 x.2 xid g.phase g.snd g.rcv)).sendOne (.ack y.1 y.2 xid g.phase g.snd g.rcv), true)
  let fail (s : State) (st : BitVec 3) (missing : Nat) : State :=
    s.modMember xid m.post.member (fun m => { m with causes := m.causes ++ [st.toNat], unsent := m.unsent + missing })
  if n = 0 then acks s
  else
    match s.memberFetch m o src (cutPieces (!s.badWords.isEmpty) (piecesOf (.run src) (.run 0) (n + 1) 0 n)) with
    | .wait => none
    | .sent s1 => some (s1, false)
    | .got s1 mv st =>
      let bs := if st = 1 then [] else mv.flatMap (fun x => x.2.2)
      let s2 := if st = 0 then s1 else fail s1 st (n - bs.length)
      let dstPkg := Post.pkgOf m.post g.rcv
      if bs.isEmpty then acks s2
      else if dstPkg = s.pkgId then
        (match s2.member? xid g.rcv with
         | none => acks s2
         | some r =>
           match (cutMiB (bs.length / miB + 2) dst bs).foldl (fun (acc : Option (State × BitVec 3)) x =>
               match acc with
               | none => none
               | some (s, st) =>
                 if st ≠ 0 then some (s, st)
                 else match s.member? xid g.rcv with
                   | none => some (s, st)
                   | some r => s.receiveX (rimOf m.post.eng) r g.phase g.snd dst bs.length x.1 x.2 o) (if (s2.memberAgent r (r.rbase + BitVec.ofNat 64 dst)).isNone then none else some (s2, 0)) with
           | none => none
           | some (s3, 0) => acks s3
           | some (s3, st) => acks (fail s3 st bs.length))
      else
        match s2.portFor dstPkg.toNat with
        | none => (acks (fail s2 3 bs.length)).map (fun x => (x.1.losePackage dstPkg.toNat .none, true))
        | some port => acks ((cutMiB (bs.length / miB + 2) dst bs).foldl (fun s x =>
            s.sendChunk dstPkg.toNat port x.1 x.2 (.exchange xid g.phase g.snd g.rcv dst bs.length) o) s2)

/-- PHASE_OPEN (R217, R223): an opening of an older epoch is ignored; the row must have come. A phase has one grant of a sender at most (R215). -/
def execPhaseOpen (s : State) : Out :=
  match s.theX with
  | some (.phase xid epoch ph i) =>
    match s.member? xid i with
    | none => .next s.dropX
    | some m =>
      if epoch < m.epoch then .next s.dropX
      else if m.sources.isNone || !s.dieUp (rimOf m.post.eng) then .next s.keepX
      else
        let s1 := s.modMember xid i (fun m => { m with epoch := epoch })
        match m.row.find? (fun g => g.phase == ph) with
        | none => .next s1.dropX
        | some g =>
          match s1.sendGrant m g with
          | none => .next s.keepX
          | some (s2, false) => .next s2.keepX
          | some (s2, true) => .next s2.dropX
  | _ => .next s

/-! ### Completion (R219) -/

/-- RECEIVED on its way into a member's grant table; none while it has to wait. -/
def State.writeReceived (s : State) (m : Member) : Option State :=
  (List.range m.post.nmem).foldl (fun acc i =>
    acc.bind (fun s =>
      let va := m.grtab + BitVec.ofNat 64 (16 * i + 8)
      match s.memberAgent m va with
      | none => none
      | some k => some (s.engineBytes (rimOf m.post.eng) k va (leBytes 8 (NatMap.get 0 m.received i)) (.received m.post.xid m.post.member) (m.window va)))) (some s)

/-- EXCHANGE_COMPLETION_NOTICE (R219, R213, R225): RECEIVED is written, then the status, then the counter; the end of one that has run waits for the
member's row. -/
def execExchangeCompletionNotice (s : State) : Out :=
  match s.theX with
  | some (.finish xid i st) =>
    match s.member? xid i with
    | none => .next (s.dropX.freeSlots xid)
    | some m =>
      if st = 0 && m.sources.isNone then .next s.keepX
      else if st ≠ 5 && !m.closing then
        match s.writeReceived m with
        | none => .next s.keepX
        | some s1 => .next (s1.keepX.modMember xid i (fun m => { m with closing := true }))
      else if s.outstanding (.received xid i) then .next s.keepX
      else
        let s2 := s.dropX.modMember xid i (fun m => { m with causes := if st = 0 then m.causes else m.causes ++ [st], done := true })
        let s3 := if m.ctrEn then
            s2.sendInc (64 * rimOf m.post.eng) (some m.launch) m.ctr 1 (foldWord 6 s.pkgId.toNat (rimOf m.post.eng) m.post.member m.nphase)
          else s2
        .next (s3.freeSlots xid)
  | _ => .next s

/-! ### Standby and failover (R223) -/

/-- 10 µs and 30 µs in cycles. -/
def beatTime : Nat := 22500
def beatLimit : Nat := 67500

/-- Arrival of a heartbeat at the standby. -/
def State.beatHere (s : State) (xid : Nat) : State :=
  { s with xslots := s.xslots.map (fun (x : Nat × XSlot) => if x.2.xid = xid && x.2.standby then (x.1, { x.2 with beat := s.cycle }) else x) }

/-- HEARTBEAT_SEND (R223). -/
def execHeartbeatSend (s : State) : Out :=
  match s.site.x with
  | some (.heartbeat xid) => .next (s.beatHere xid)
  | _ =>
    match s.xslots.find? (fun x => x.1 == xKey s.site.rim s.site.n) with
    | none => .next s
    | some (key, x) =>
      if x.standby || !x.active || x.alone || s.cycle < x.beat + beatTime || !s.dieUp (16 + key / 16) then .next s
      else
        let s1 := s.setX key { x with beat := s.cycle }
        match x.posts with
        | [] => .next s1
        | p :: _ =>
          let dstPkg := Post.pkgOf p (p.nmem - 1)
          .next (if dstPkg = s.pkgId then
              (match s1.slotOf x.xid true with
               | none => s1
               | some (k2, _) => if k2 / 16 = key / 16 then s1.beatHere x.xid else s1.sendMsg (64 * (16 + key / 16)) (16 + k2 / 16) none (.heartbeat x.xid))
            else { s1 with netOut := s1.netOut ++ [.exchange dstPkg (.heartbeat x.xid)] })

/-- HEARTBEAT_TIMEOUT (R223): the standby takes over. -/
def execHeartbeatTimeout (s : State) : Out :=
  match s.xslots.find? (fun x => x.1 == xKey s.site.rim s.site.n) with
  | none => .next s
  | some (key, x) =>
    if !x.standby || x.active || s.cycle < x.beat + beatLimit || !s.dieUp (16 + key / 16) then .next s
    else
      let cost := s.cycle - x.beat
      let rim := 16 + key / 16
      let x1 := { x with epoch := 1, active := true, cost := cost }
      let s1 := (s.setX key x1).bbox (16 + key / 16) (bbEvent s.cycle 0x0B 1 0 0 (key % 16) 3 (BitVec.ofNat 64 x.xid) 0)
      match x.posts with
      | [] => .next s1
      | p :: _ =>
        let s2 := x.posts.foldl (fun s p => s.tellTakeover key x1 p) s1
        let (a, _) := arbiters p
        let s3 := s2.sendX (64 * rim) a.1 (((s2.slotOf x.xid false).map (fun y => 16 + y.1 / 16)).getD rim) (.takeover x.xid none (some a.2) cost)
        .next (if x.st = 3 then (s3.sendRows rim x1).openNext key x1
          else if x.st = 4 then
            (if (disagreeing x.posts).isSome then s3.finishAll rim x1 7 else (s3.sendRows rim x1).finishAll rim x1 0).freeSlots x.xid
          else s3)

/-- TAKEOVER_NOTICE (R223, R426). -/
def execTakeoverNotice (s : State) : Out :=
  match s.theX with
  | some (.takeover xid (some i) _ cost) =>
    match s.member? xid i with
    | none => .next s.dropX
    | some m =>
      let s1 := s.dropX.modMember xid i (fun m => { m with epoch := 1, failover := true })
      .next (if s.members.any (fun o => o.post.xid == xid && o.launch == m.launch && o.failover) then s1 else s1.corrected m.launch cost)
  | some (.takeover xid none _ _) =>
    let s1 := s.dropX
    .next { s1 with xslots := s1.xslots.map (fun (x : Nat × XSlot) =>
      if x.2.xid = xid && !x.2.standby then (x.1, { x.2 with active := false }) else x) }
  | _ => .next s

/-- ARBITER_LOST (R223): the primary goes on alone; with both lost every member ends with status 3. -/
def execArbiterLost (s : State) : Out :=
  match s.xslots.find? (fun x => x.1 == xKey s.site.rim s.site.n) with
  | none => .next s
  | some (key, x) =>
    let lost (o : Nat × XSlot) : Bool := o.2.xid != x.xid || !s.dieUp (16 + o.1 / 16)
    if s.site.yes then
      if !s.xslots.all lost then .next s
      else
        -- no arbiter is left to tell its members: those here hear of it at once
        .next (x.posts.foldl (fun s p => if p.home = s.pkgId then s.sendOne (.finish x.xid p.member 3) else { s with netOut := s.netOut ++ [.exchange p.home (.finish x.xid p.member 3)] })
          { s with xslots := s.xslots.filter (fun o => o.2.xid != x.xid) })
    else if x.standby || !x.active || x.alone || s.xslots.any (fun o => o.2.standby && !lost o) then .next s
    else .next ((s.setX key { x with alone := true }).bbox (16 + key / 16) (bbEvent s.cycle 0x0B 2 0 0 (key % 16) 3 (BitVec.ofNat 64 x.xid) 0))

/-! ### Chunks from other packages (R204, R224) -/

/-- A chunk placed: exchange data at the receiver's area, anything else at its address. -/
def State.placeAny (s : State) (c : Chunk) (n : Nat) : State :=
  match c.kind with
  | .exchange xid ph snd rcv goff glen =>
    match s.member? xid rcv with
    | none => s
    | some m =>
      match s.receiveX 16 m ph snd goff glen c.va.toNat c.bytes (.chunk n) with
      | none => s
      | some (s1, st) => if st = 0 then s1 else s1.report (.chunk n) st
  | _ => s.placeChunk c n

/-- Whether exchange data must wait for the receiving group to be bound (R226). -/
def State.chunkWaits (s : State) : Bool :=
  match s.site.chunk.kind with
  | .exchange xid _ _ rcv _ _ =>
    match s.member? xid rcv with
    | none => false
    | some m => (s.memberAgent m (m.rbase + s.site.chunk.va)).isNone
  | _ => false

/-- FABRIC_CHUNK (R204, R205, R224). -/
def execFabricChunk (s : State) : Out := if s.chunkWaits then .next s else .next (s.takeChunk State.placeAny)

/-- What exchanges do when a launch completes (R225): after a fault or a cancellation those that its members had open are lost. -/
def State.endMembers (s : State) (key : Nat) (failed : Bool) : State :=
  let open' := ((s.members.filter (fun m => m.launch == key && !m.done)).map (fun m => m.post.xid)).eraseDups
  let s1 := if failed then open'.foldl State.loseExchange s else s
  { s1 with members := s1.members.filter (fun m => m.launch != key || !m.done) }

end Sys2Proof.Machine
end

