-- ==== Sys2Proof/Machine/Host.lean ====
section
/-! DEFINITION. The Ustex command streams (R28 to R38): packets and their order, completion records, signals, levels, regions (R44 to R49),
the state space by packet (R40, R166), and the black-box readout (R41, R267, R268). -/

namespace Sys2Proof

open Machine

/-! ### Packets (R29, R30) -/

def Packet.type (p : Packet) : Nat := bits p.w0 7 0
def Packet.stream (p : Packet) : Nat := bits p.w0 11 8
def Packet.f (p : Packet) : Bool := bit p.w0 12
def Packet.nocomp (p : Packet) : Bool := bit p.w0 13
def Packet.len (p : Packet) : Nat := bits p.w0 31 16
def Packet.sq (p : Packet) : BitVec 16 := BitVec.ofNat 16 (bits p.w0 47 32)

/-- A word of a packet's body. -/
def Packet.at' (p : Packet) (i : Nat) : Word := p.body.getD i 0

/-- OP of a REGION. -/
def Packet.regionOp (p : Packet) : Nat := bits (p.at' 0) 1 0

/-- OP of a SIGNAL, CMP of a WAITSIG. -/
def Packet.op (p : Packet) : Nat := bits (p.at' 0) 13 12

/-- KIND of a RESET. -/
def Packet.resetKind (p : Packet) : Nat := bits (p.at' 0) 3 0

/-- State address and byte count of a READBACK or WRITEBACK. -/
def Packet.state (p : Packet) : Nat := bits (p.at' 0) 47 0
def Packet.count (p : Packet) : Nat := bits (p.at' 1) 15 0

/-- Whether a state range is aligned and its count allowed (R30). -/
def Packet.rangeOk (p : Packet) : Bool :=
  decide (p.state % 8 = 0) && decide (p.count % 8 = 0) && decide (8 ≤ p.count) && decide (p.count ≤ 4096)

/-- Whether a packet of a listed type is well formed (R30). A BBOXREAD with a COUNT of 0 or above 128 is not (DESIGN CHOICE, log entry 129). -/
def Packet.good (p : Packet) : Bool :=
  decide (p.body.length = p.len) &&
  match p.type with
  | 0x01 => decide (p.len = 2) && decide (bits (p.at' 0) 51 0 % 64 = 0)
  | 0x02 => decide (p.regionOp ≠ 3) && decide (p.len = if p.regionOp = 2 then 2 else 34) && decide (bits (p.at' 1) 51 0 % 256 = 0)
  | 0x03 => decide (p.len = 4)
  | 0x04 => decide (p.len = 2) && decide (p.op ≠ 3)
  | 0x05 => decide (p.len = 2) && decide (p.op ≠ 3)
  | 0x06 => decide (p.len = 1) && decide (bits (p.at' 0) 1 0 ≠ 3)
  | 0x07 => decide (p.len = 1)
  | 0x08 => decide (p.len = 2) && p.rangeOk
  | 0x09 => p.rangeOk && decide (p.len = 2 + p.count / 8)
  | 0x0A => decide (p.len = 1) && decide (bits (p.at' 0) 4 0 < 20) && decide (1 ≤ bits (p.at' 0) 39 32) && decide (bits (p.at' 0) 39 32 ≤ 128)
  | 0x0B => decide (p.len = 1) && decide (p.resetKind < 3) && !(p.resetKind = 1 && decide (20 ≤ bits (p.at' 0) 12 8))
  | _ => false

/-- Packets that take no part in the order of their stream (R35). -/
def Packet.immediate (p : Packet) : Bool := p.type == 0x0A || p.type == 0x0B

/-- Packets that let a later one start only once they have completed (R35). -/
def Packet.blocking (p : Packet) : Bool := p.type == 0x02 || p.type == 0x05 || p.type == 0x06 || p.type == 0x07 || p.type == 0x09

/-- Packets that wait for every earlier one: F set, and DETLEVEL (R29, R35). -/
def Packet.waitsAll (p : Packet) : Bool := p.f || p.type == 0x06

/-- Whether a WAITSIG is satisfied by a value (R30). -/
def Packet.holds (p : Packet) (v : Word) : Bool :=
  match p.op with
  | 0 => decide ((p.at' 1).toNat ≤ v.toNat)
  | 1 => v == p.at' 1
  | _ => (v &&& p.at' 1) == p.at' 1

/-- SIGID of a packet. -/
def Packet.sigId (p : Packet) : Nat := bits (p.at' 0) 11 0

/-- Address and image of a REGION packet. -/
def Packet.rcb (p : Packet) : Nat := bits (p.at' 1) 51 0
def Packet.image (p : Packet) : List Word := (List.range 32).map (fun i => p.at' (2 + i))

/-- The data of a WRITEBACK. -/
def Packet.data (p : Packet) : List Word := (List.range (p.count / 8)).map (fun i => p.at' (2 + i))

/-- Which register of rim die 0's translation control a WRITEBACK reaches: 1 XLROOT, 2 XLINV, 0 none (R166). -/
def Packet.xlTarget (p : Packet) : Nat :=
  let a := ssAddr p.state
  if a.die = 16 && a.kind = 2 then (if a.off = 0 then 1 else if a.off = 8 then 2 else 0) else 0

end Sys2Proof

namespace Sys2Proof.Machine

/-! ### Streams -/

/-- A stream. -/
def State.streamAt (s : State) (n : Nat) : Stream := NatMap.get {} s.streams n

/-- The state with a stream replaced. -/
def State.setStream (s : State) (n : Nat) (x : Stream) : State := { s with streams := NatMap.put {} s.streams n x }

/-- The state with a packet of a stream changed. -/
def State.modPkt (s : State) (n serial : Nat) (f : StreamPkt → StreamPkt) : State :=
  let x := s.streamAt n
  s.setStream n { x with pkts := x.pkts.map (fun (p : StreamPkt) => if p.serial = serial then f p else p) }

/-- A packet that has started. -/
def State.begin' (s : State) (n serial : Nat) : State := s.modPkt n serial (fun p => if p.started then p else { p with started := true, at? := s.cycle })

/-- The packet that is the next of a stream to start, if its order lets it (R35); a blocking packet that has started and not completed is
found again. -/
def Stream.next? (x : Stream) : Option StreamPkt :=
  let l := x.pkts.filter (fun p => !p.packet.immediate)
  match l.find? (fun p => !p.started || p.packet.blocking) with
  | none => none
  | some p => if p.packet.waitsAll && (l.head?.map (fun h => h.serial)) != some p.serial then none else some p

/-- Whether a package reset is running (R42). -/
def State.packageReset (s : State) : Bool := s.running.any (fun r => r.pkt.packet.resetKind == 2)

/-- The next packet of the stream of the step, if it is of the kind that the step takes; none starts ahead of an immediate packet that has been accepted
(R35), nor during a package reset (R42), nor in a package that is held in reset (R26). -/
def State.nextPkt (s : State) (is : Packet → Bool) : Option StreamPkt :=
  let x := s.streamAt s.site.stream
  (x.next?).filter (fun p => is p.packet && (p.started || (!s.packageReset && s.bringUp ≠ 0 && !x.pkts.any (fun o => o.packet.immediate && !o.started))))

/-- An immediate packet of the stream of the step that has not been taken up (R35). -/
def State.immediatePkt (s : State) (is : Packet → Bool) : Option StreamPkt :=
  (s.streamAt s.site.stream).pkts.find? (fun p => !p.started && p.packet.immediate && is p.packet)

/-! ### Completion records (R28, R31) -/

/-- The words of a record as it is sent (R31): the 32-byte header, then the payload. -/
def Record.words (r : Record) : List Word :=
  [BitVec.ofNat 64 (r.type.toNat + at_ (r.stream % 16) 8 + at_ r.status.toNat 16 + at_ r.sq.toNat 32 + at_ (r.payload.length % 2 ^ 16) 48),
   r.cookie, r.value, r.extra] ++ r.payload

/-- A record sent through the Ustex port. -/
def State.sendRecord (s : State) (r : Record) : State := { s with portOut := s.portOut ++ [.record r.words] }

/-- A record given to a stream: sent, or waiting while 256 are not acknowledged; kept among the last 256 to answer duplicates with. -/
def State.giveRecord (s : State) (n : Nat) (r : Record) : State :=
  let x := { s.streamAt n with stored := r :: (s.streamAt n).stored.take 255 }
  if x.records.length < 256 then (s.sendRecord r).setStream n { x with records := x.records ++ [r] }
  else s.setStream n { x with waiting := x.waiting ++ [r] }

/-- A packet completes: it leaves its stream, and its record is sent unless NOCOMP suppresses it. -/
def State.complete (s : State) (n : Nat) (p : StreamPkt) (status : BitVec 8) (value extra : Word) (payload : List Word) : State :=
  let x := s.streamAt n
  let s1 := s.setStream n { x with pkts := x.pkts.filter (fun o => o.serial != p.serial) }
  if status = 0 && p.packet.nocomp then s1
  else s1.giveRecord n ⟨BitVec.ofNat 8 p.packet.type, n, status, p.sq, p.packet.w1, value, extra, payload, s.cycle, false⟩

/-- A packet that completes with a status alone. -/
def State.finish (s : State) (n : Nat) (p : StreamPkt) (status : BitVec 8) : State := s.complete n p status 0 0 []

/-- 50 µs in cycles (R28). -/
def recordTime : Nat := 112500

/-- Whether the Ustex port carries frames (R27). -/
def State.ustexUp (s : State) : Bool := decide ((NatMap.get {} s.ports 32).stage = .active)

/-- A stream that accepts a packet under a number: the records of an earlier packet of that number answer no duplicate any more (R28). -/
def Stream.renumber (x : Stream) (sq : BitVec 16) : Stream :=
  let age (r : Record) : Record := if r.sq = sq then { r with old := true } else r
  { x with stored := x.stored.filter (fun r => r.sq != sq), records := x.records.map age, waiting := x.waiting.map age }

/-- The record of a packet sent again in answer to a duplicate of it (R17, R28). -/
def State.answerAgain (s : State) (n : Nat) (sq : BitVec 16) : State :=
  let x := s.streamAt n
  let again (r : Record) : Record := { r with sentAt := s.cycle }
  let is (r : Record) : Bool := r.sq == sq && !r.old
  if x.records.any is then
    (x.records.filter is).foldl State.sendRecord
      (s.setStream n { x with records := x.records.map (fun (r : Record) => if is r then again r else r) })
  else
    match x.stored.find? (fun r => r.sq == sq) with
    | none => s
    | some r =>
      if x.waiting.any is then s
      else if x.records.length < 256 then (s.sendRecord r).setStream n { x with records := x.records ++ [again r] }
      else s.setStream n { x with waiting := x.waiting ++ [r] }

/-- PACKET_ACCEPT (R28, R30, R41): the next in sequence is accepted and acknowledged unless 256 have not started; a duplicate is acknowledged and has its
record sent again; a packet of no listed type completes with BAD_PACKET. A package held in reset by step 1 of R26 takes BBOXREAD alone. -/
def execPacketAccept (s : State) : Out :=
  let p := s.site.packet
  let n := p.stream
  let x := s.streamAt n
  let diff := p.sq - x.last
  let ack (s : State) : State := { s with portOut := s.portOut ++ [.ack n p.sq] }
  if !s.ustexUp || (s.bringUp = 0 && p.type ≠ 0x0A) then .next s
  else if diff = 1 then
    if 256 ≤ x.pkts.countP (fun o => !o.started) then .next s
    else
      let o : StreamPkt := { sq := p.sq, serial := s.serial, packet := p }
      let s1 := ({ s with serial := s.serial + 1 } : State).setStream n { x.renumber p.sq with last := p.sq, pkts := x.pkts ++ [o] }
      .next (if 1 ≤ p.type && p.type ≤ 0x0B then ack s1 else (ack s1).finish n o 0x10)
  else if diff = 0 || 0x8000 ≤ diff.toNat then .next ((ack s).answerAgain n p.sq)
  else .next s

/-- COMPLETION_RECORD_ACK (R28): Site: stream, q the SEQ; yes: the presence record, word its RESETS. -/
def execCompletionRecordAck (s : State) : Out :=
  if s.site.yes then
    .next (match s.presence with
      | none => s
      | some r => if (r.payload.getD 7 0).toNat % 2 ^ 32 = s.site.word.toNat then { s with presence := none } else s)
  else
    let x := s.streamAt s.site.stream
    if !x.records.any (fun r => r.sq == s.site.q) then .next s
    else
      let l := dropFirst (fun (r : Record) => r.sq == s.site.q) x.records
      let more := (x.waiting.take (256 - l.length)).map (fun (r : Record) => { r with sentAt := s.cycle })
      .next (more.foldl State.sendRecord (s.setStream s.site.stream { x with records := l ++ more, waiting := x.waiting.drop (256 - l.length) }))

/-- RECORD_RESEND_TIMEOUT (R28). -/
def execRecordResendTimeout (s : State) : Out :=
  let again (r : Record) : Record := if r.sentAt + recordTime ≤ s.cycle then { r with sentAt := s.cycle } else r
  let late (r : Record) : Bool := decide (r.sentAt + recordTime ≤ s.cycle)
  if s.site.yes then .next ((s.presence.toList.filter late).foldl State.sendRecord { s with presence := s.presence.map again })
  else
    let x := s.streamAt s.site.stream
    .next ((x.records.filter (fun r => r.sq == s.site.q && late r)).foldl State.sendRecord
      (s.setStream s.site.stream { x with records := x.records.map (fun (r : Record) => if r.sq = s.site.q then again r else r) }))

/-! ### Signals (R37) -/

/-- A signal. -/
def State.signalAt (s : State) (i : Nat) : Word := NatMap.get 0 s.signals i

/-- Every pending WAITSIG on a signal tested (R37). -/
def State.retest (s : State) (i : Nat) : State :=
  let v := s.signalAt i
  s.streams.foldl (fun s e =>
    (e.2.pkts.filter (fun p => p.started && p.packet.type == 0x05 && p.packet.sigId == i && p.packet.holds v)).foldl
      (fun s p => s.complete e.1 p 0 v 0 []) s) s

/-- A signal changed and the waits on it tested. -/
def State.setSignal (s : State) (i : Nat) (v : Word) : State := ({ s with signals := NatMap.put 0 s.signals i v } : State).retest i

/-- A SIGNAL packet of an OP: it takes effect when it starts. -/
def State.signalPkt (s : State) (op : Nat) (f : Word → Word → Word) : State :=
  match s.nextPkt (fun p => p.type == 0x04 && (p.op == op || (op == 0 && !p.good))) with
  | none => s
  | some p =>
    let n := s.site.stream
    if !p.packet.good then s.finish n p 0x10
    else
      let i := p.packet.sigId
      (s.setSignal i (f (s.signalAt i) (p.packet.at' 1))).finish n p 0

/-- SIGNAL_SET (R37). -/
def execSignalSet (s : State) : Out := .next (s.signalPkt 0 (fun _ v => v))

/-- SIGNAL_ADD (R37). -/
def execSignalAdd (s : State) : Out := .next (s.signalPkt 1 (fun x v => x + v))

/-- SIGNAL_OR (R37). -/
def execSignalOr (s : State) : Out := .next (s.signalPkt 2 (fun x v => x ||| v))

/-- WAITSIG (R37). -/
def execWaitsig (s : State) : Out :=
  match s.nextPkt (fun p => p.type == 0x05) with
  | none => .next s
  | some p =>
    let n := s.site.stream
    if !p.packet.good then .next (s.finish n p 0x10)
    else
      let v := s.signalAt p.packet.sigId
      .next (if p.packet.holds v then s.complete n p 0 v 0 [] else s.begin' n p.serial)

/-- WAITSIG_TIMEOUT (R30, R32). -/
def execWaitsigTimeout (s : State) : Out :=
  let n := s.site.stream
  match (s.streamAt n).pkts.find? (fun p => p.started && p.packet.type == 0x05 && p.sq == s.site.q) with
  | none => .next s
  | some p =>
    let t := bits (p.packet.at' 0) 63 32
    if t ≠ 0 && p.at? + t * 2250 ≤ s.cycle then .next (s.complete n p 0x13 (s.signalAt p.packet.sigId) 0 []) else .next s

/-! ### Levels and fences (R36, R38) -/

/-- DETLEVEL (R38). -/
def execDetlevel (s : State) : Out :=
  match s.nextPkt (fun p => p.type == 0x06) with
  | none => .next s
  | some p =>
    let n := s.site.stream
    if !p.packet.good then .next (s.finish n p 0x10)
    else .next ((s.setStream n { s.streamAt n with level := bits (p.packet.at' 0) 1 0 }).finish n p 0)

/-- Whether every packet that a FENCE waits for has completed (R36). -/
def State.fenceDone (s : State) (n : Nat) (p : StreamPkt) : Bool :=
  let earlier (x : Stream) : Bool := x.pkts.any (fun o => decide (o.serial < p.serial) && !o.packet.immediate)
  !earlier (s.streamAt n) && (!bit (p.packet.at' 0) 0 || !s.streams.any (fun e => earlier e.2))

/-- FENCE (R36). -/
def execFencePacket (s : State) : Out :=
  match s.nextPkt (fun p => p.type == 0x07) with
  | none => .next s
  | some p =>
    let n := s.site.stream
    if !p.packet.good then .next (s.finish n p 0x10)
    else if s.fenceDone n p then .next (s.finish n p 0)
    else .next (s.begin' n p.serial)

/-! ### Device memory as the host reaches it (R33) -/

/-- Translation on behalf of the host: from rim die 16; no cell's local window. -/
def State.hostXlate (s : State) (va : Word) (wr : Bool) : Except XErr (Nat × Bool × State) :=
  if inLocal va.toNat then .error .fault else s.translate 1024 va wr

/-- A run of virtual addresses cut at 64 KiB. -/
def pageRuns : Nat → Word → Nat → List (Word × Nat)
  | 0, _, _ => []
  | _ + 1, _, 0 => []
  | fuel + 1, va, n + 1 =>
    let m := min (n + 1) (0x10000 - va.toNat % 0x10000)
    (va, m) :: pageRuns fuel (va + BitVec.ofNat 64 m) (n + 1 - m)

/-- The runs of a range. -/
def runsOf (va : Word) (n : Nat) : List (Word × Nat) := pageRuns (n / 0x10000 + 2) va n

/-- How the ranges that a packet names stand (R52): 1 where one fails translation, else 2 where a word is uncorrectable, else 3 where a
home is lost. -/
def State.rangesStatus (s : State) (l : List (Word × Nat)) : BitVec 8 × State :=
  let (s1, f, b, u) := (l.flatMap (fun x => runsOf x.1 x.2)).foldl (fun (acc : State × Bool × Bool × Bool) r =>
    let (s, f, b, u) := acc
    match s.hostXlate r.1 false with
    | .error .fault => (s.noteWalk 1024 r.1, true, b, u)
    | .error .bad => (s.noteWalk 1024 r.1, f, true, u)
    | .ok (pa, repl, s1) => (s1, f, b || s.badRead (if repl then pa % 2 ^ 36 else pa) r.2, u || !s.reaches 16 (homeDie pa))) (s, false, false, false)
  (if f then 1 else if b then 2 else if u then 3 else 0, s1)

/-- Whether a home of some range, asked for from a cycle on, is still tried (R19). -/
def State.rangesTrying (s : State) (k die since : Nat) (l : List (Word × Nat)) : Bool :=
  (l.flatMap (fun x => runsOf x.1 x.2)).any (fun r => s.tryingAt k die r.1 false since)

/-- The bytes of a range that can be read. -/
def State.hostBytes (s : State) (va : Word) (n : Nat) : List Byte :=
  (runsOf va n).flatMap (fun r => match s.hostXlate r.1 false with | .ok (pa, _, _) => s.bytesAt pa r.2 | .error _ => List.replicate r.2 0)

/-- The words of a range that can be read. -/
def State.hostWords (s : State) (va : Word) (n : Nat) : List Word :=
  let bs := s.hostBytes va (8 * n)
  (List.range n).map (fun i => BitVec.ofNat 64 (ofLe ((bs.drop (8 * i)).take 8)))

/-- A run of bytes within one page written for the host or a management core, tried from a cycle on: status, the state after; none while the commit buffer
is full, or its home is still tried (R19). -/
def State.hostPut (s : State) (since : Nat) (va : Word) (bs : List Byte) (o : Owner := .engine) : Option (BitVec 8 × State) :=
  match s.hostXlate va true with
  | .error x => some (x.status.zeroExtend 8, s.noteWalk 1024 va)
  | .ok (pa, repl, s1) =>
    if s1.trying 16 (if repl then 16 else homeDie pa) since then none
    else if !s1.reaches 16 (if repl then 16 else homeDie pa) then some (3, s)
    else if repl then some (0, s1.applyReplicas pa bs)
    else
      let (s2, bad, full) := s1.writeRun pa bs { kind := 2, owner := o }
      if full then none
      else match bad with
        | some a => some (2, s2.logBad (homeDie a * 64) a 7)
        | none => some (0, s2)

/-! ### Regions (R44 to R49) -/

/-- Launches of a region that have not completed. -/
def State.launchesUnder (s : State) (a : Nat) : Bool := s.launches.any (fun l => l.region == a)

/-- The checks of an RCB image (R47). -/
def imageBad (img : List Word) : Bool :=
  bits (img.getD 4 0) 17 16 = 3 || bits (img.getD 8 0) 15 0 != 0 || bits (img.getD 9 0) 15 0 != 0 || bits (img.getD 11 0) 5 0 != 0

/-- The image as it is written to memory (R49). -/
def imageBytes (img : List Word) (consumed : Nat) : List Byte := (setAt img 3 (BitVec.ofNat 64 consumed)).flatMap (fun w => leBytes 8 w.toNat)

/-- Parent that an image names. -/
def imageParent (img : List Word) : Nat := bits (img.getD 0 0) 51 0

/-- A REGION packet of one operation; `act`, given the cycle from which it waits, answers its status and the state after. -/
def State.regionPkt (s : State) (op : Nat) (act : Packet → Nat → State → Option (BitVec 8 × State)) : State :=
  match s.nextPkt (fun p => p.type == 0x02 && (p.regionOp == op || (op == 0 && p.regionOp == 3))) with
  | none => s
  | some p =>
    let n := s.site.stream
    if !p.packet.good then s.finish n p 0x10
    else
      match act p.packet (if p.started then p.at? else s.cycle) s with
      | none => s.begin' n p.serial
      | some (st, s1) => s1.finish n p st

/-- REGION_CREATE (R44, R47, R49). -/
def execRegionCreate (s : State) : Out := .next (s.regionPkt 0 (fun p t s =>
  let img := p.image
  let par := imageParent img
  if imageBad img then some (0x10, s)
  else if (s.region? p.rcb).isSome || (par ≠ 0 && ((s.region? par).isNone || decide (8 ≤ (s.regionPath 8 par).length))) then some (0x11, s)
  else if 4096 ≤ s.regions.length then some (0x12, s)
  else
    match s.hostPut t (BitVec.ofNat 64 p.rcb) (imageBytes img 0) with
    | none => none
    | some (0, s1) => some (0, { s1 with regions := s1.regions ++ [{ addr := p.rcb, rcb := img.take 12 }] })
    | some (st, _) => some (st, s)))

/-- REGION_MODIFY (R47, R48, R49). -/
def execRegionModify (s : State) : Out := .next (s.regionPkt 1 (fun p t s =>
  let img := p.image
  if imageBad img then some (0x10, s)
  else
    match s.region? p.rcb with
    | none => some (0x11, s)
    | some r =>
      if imageParent img ≠ r.parent then some (0x11, s)
      else
        match s.hostPut t (BitVec.ofNat 64 p.rcb) (imageBytes img r.consumed) with
        | none => none
        | some (0, s1) => some (0, s1.modRegion p.rcb (fun r => { r with rcb := img.take 12 }))
        | some (st, _) => some (st, s)))

/-- REGION_DESTROY (R47). -/
def execRegionDestroy (s : State) : Out := .next (s.regionPkt 2 (fun p _ s =>
  if (s.region? p.rcb).isNone || s.regions.any (fun r => r.parent == p.rcb) || s.launchesUnder p.rcb then some (0x11, s)
  else some (0, { s with regions := s.regions.filter (fun r => r.addr != p.rcb) })))

/-! ### The state space by packet (R40, R166) -/

/-- A frozen box thaws when its newest event has been returned (R267). -/
def BlackBox.thaw (b : BlackBox) : BlackBox := if b.frozen then { b with frozen := false, dropped := 0 } else b

/-- Whether a READBACK of a box's state returns its newest event. -/
def BlackBox.returnsNewest (b : BlackBox) (off bytes : Nat) : Bool :=
  let at' := 0x1000 + 32 * ((b.head + b.events.length + 4095) % 4096)
  !b.events.isEmpty && decide (off ≤ at') && decide (at' + 32 ≤ off + bytes)

/-- READBACK (R40, R33). -/
def execReadback (s : State) : Out :=
  match s.nextPkt (fun p => p.type == 0x08) with
  | none => .next s
  | some p =>
    let n := s.site.stream
    if !p.packet.good then .next (s.finish n p 0x10)
    else
      let a := ssAddr p.packet.state
      let (st, ws) := s.ssRead a (p.packet.count / 8)
      let s1 := match s.ssBad a (p.packet.count / 8) with
        | some o => if st = 2 then s.logBad (cellKey a.die a.unit) (if a.blk = 7 then spAddr (cellKey a.die a.unit) o else p.packet.state - a.off + o) 7 else s
        | none => s
      let b := NatMap.get {} s.boxes a.die
      let s2 := if a.kind = 4 && st = 0 && b.returnsNewest a.off p.packet.count then { s1 with boxes := NatMap.put {} s1.boxes a.die b.thaw } else s1
      .next (s2.complete n p st 0 0 ws)

/-- Whether a run of words of a scratchpad finds too little room in the commit buffer for those that are locked (R122, R123). -/
def State.ssWaits (s : State) (p : Packet) : Bool :=
  let a := ssAddr p.state
  let k := cellKey a.die a.unit
  let held := ((List.range p.data.length).filter (fun i => s.wordHeld (spAddr k (a.off + 8 * i)))).length
  a.kind == 0 && a.blk == 7 && held != 0 && decide (((List.range 512).filter (fun e => !(s.cellAt k).cbuf.any (fun x => x.1 == e + 512))).length < held)

/-- A WRITEBACK of a class carried out; one to XLINV completes only when no access uses the old translation. -/
def State.writebackPkt (s : State) (cls : Nat) : State :=
  match s.nextPkt (fun p => p.type == 0x09 && (if p.good then p.xlTarget == cls else cls == 0)) with
  | none => s
  | some p =>
    let n := s.site.stream
    if !p.packet.good then s.finish n p 0x10
    else if s.ssWaits p.packet then s
    else
      let (st, s1) := s.ssWrite (ssAddr p.packet.state) p.packet.data
      if st = 0 && cls = 2 && s1.usesPage (invPage (p.packet.at' 2)) then s1.begin' n p.serial
      else s1.finish n p st

/-- WRITEBACK (R40). -/
def execWriteback (s : State) : Out := .next (s.writebackPkt 0)

/-- XLROOT (R166). -/
def execXlroot (s : State) : Out := .next (s.writebackPkt 1)

/-- XLINV (R166). -/
def execXlinv (s : State) : Out := .next (s.writebackPkt 2)

/-- BBOXREAD (R41, R267, R268). -/
def execBboxread (s : State) : Out :=
  match s.immediatePkt (fun p => p.type == 0x0A) with
  | none => .next s
  | some p =>
    let n := s.site.stream
    if !p.packet.good then .next (s.finish n p 0x10)
    else
      let w := p.packet.at' 0
      let d := bits w 4 0
      let start := bits w 27 16
      let b := NatMap.get {} s.boxes d
      let es := (b.events.drop start).take (bits w 39 32)
      let value := BitVec.ofNat 64 (b.events.length % 4096 + (if b.frozen then 2 ^ 12 else 0))
      let s1 := if !es.isEmpty && start + es.length = b.events.length then { s with boxes := NatMap.put {} s.boxes d b.thaw } else s
      .next (s1.complete n p 0 value 0 (es.flatMap (fun e => [e.w0, e.w1, e.w2, e.w3])))

end Sys2Proof.Machine
end

