-- ==== Sys2Proof/Machine/Launches.lean ====
section
/-! DEFINITION. Launches from their packet to their completion record (R38, R50 to R57, R60, R66), and COPYH (R33). -/

namespace Sys2Proof.Machine

/-! ### The LCB (R50) -/

/-- A word of an LCB. -/
def Launch.word (l : Launch) (i : Nat) : Word := l.lcb.getD i 0

/-- CODELEN and CONSTLEN of sequencer q. -/
def lcbCode (w : List Word) (q : Nat) : Nat := bits (w.getD 8 0) (16 * q + 15) (16 * q)
def lcbPool (w : List Word) (q : Nat) : Nat := bits (w.getD 9 0) (16 * q + 15) (16 * q)

/-- The place of the pool within a section: the next 8-byte boundary after the code (R51). -/
def poolAt (codeLen : Nat) : Nat := (4 * codeLen + 7) / 8 * 8

/-- A section's address and length. -/
def lcbSection (w : List Word) (q : Nat) : Word × Nat := (w.getD (4 + q) 0 &&& 0xFFFFFFFFFFFFF, poolAt (lcbCode w q) + 8 * lcbPool w q)

/-- Addresses and counts of the template and format images. -/
def lcbTemplates (w : List Word) : Word × Nat := (w.getD 10 0 &&& 0xFFFFFFFFFFFFF, bits (w.getD 10 0) 63 56)
def lcbFormats (w : List Word) : Word × Nat := (w.getD 11 0 &&& 0xFFFFFFFFFFFFF, bits (w.getD 11 0) 63 56)

/-- Every range that a bind loads. -/
def lcbRanges (w : List Word) : List (Word × Nat) :=
  [lcbSection w 0, lcbSection w 1, lcbSection w 2, lcbSection w 3, ((lcbTemplates w).1, 128 * (lcbTemplates w).2), ((lcbFormats w).1, 8 * (lcbFormats w).2)]

/-- Lengths beyond what a cell holds (R52). -/
def lcbTooLong (w : List Word) : Bool :=
  (List.range 4).any (fun q => decide (16384 < lcbCode w q) || decide (4096 < lcbPool w q)) || decide (64 < (lcbTemplates w).2) || decide (64 < (lcbFormats w).2)

/-- Reserved bits and alignment (R52). -/
def lcbMalformed (w : List Word) : Bool :=
  let hi (i : Nat) : Bool := bits (w.getD i 0) 63 52 != 0
  hi 0 || bits (w.getD 1 0) 63 34 != 0 || hi 3 || hi 4 || hi 5 || hi 6 || hi 7 || bits (w.getD 10 0) 55 52 != 0 || bits (w.getD 11 0) 55 52 != 0 ||
  bits (w.getD 12 0) 63 8 != 0 || (w.drop 13).any (fun x => x != 0) ||
  (List.range 4).any (fun q => (lcbSection w q).1.toNat % 8 != 0) || (lcbTemplates w).1.toNat % 128 != 0 || (lcbFormats w).1.toNat % 8 != 0

def lcbGroups (w : List Word) : Nat := bits (w.getD 1 0) 31 0

/-- The eligible list (R60). -/
def State.eligible (s : State) (mask : Nat) (array : Bool) : List Nat :=
  ((List.range 16).filter (fun d => mask.testBit d)).flatMap (fun d => ((List.range 56).map (fun c => cellKey d c)).filter (s.cellFit array))

/-! ### Start (R52, R53) -/

/-- The first failing check of a launch, the LCB's words given (R52): none where all pass; and the state with the walks that the checks took (R166). -/
def State.launchCheck (s0 : State) (w : List Word) (stream : Nat) : Option (BitVec 8) × State :=
  let region := bits (w.getD 0 0) 51 0
  let (st, s) := s0.rangesStatus (lcbRanges w)
  let level := max (bits (s.effWord region 3 4) 17 16) (s.streamAt stream).level
  let e := s.eligible (bits (s.effWord region 5 6) 15 0) (lcbArray w)
  (if st ≠ 0 then some st
   else if (s.region? region).isNone then some 0x11
   else if lcbTooLong w then some 0x12
   else if lcbMalformed w then some 0x10
   else if e.isEmpty then some 0x11
   else if (lcbGang w || level = 2) && decide (e.length < lcbGroups w) then some 0x11
   else none, s)

/-- The launch that a LAUNCH packet opens, with the effective values of its region (R46, R54). Its number is State.launchNum, which counts from 0 at
reset (DESIGN CHOICE, log entry 91). -/
def State.newLaunch (s : State) (w : List Word) (n : Nat) (p : StreamPkt) : Launch :=
  let region := bits (w.getD 0 0) 51 0
  let save := s.effWord region 6 7
  { key := s.launchKey, num := s.launchNum, stream := n, pkt := p, sigEn := bit (p.packet.at' 1) 12, sigId := bits (p.packet.at' 1) 11 0,
    lcbAddr := p.packet.at' 0 &&& 0xFFFFFFFFFFFFF, lcb := w, region := region,
    level := max (bits (s.effWord region 3 4) 17 16) (s.streamAt n).level, fdom := bits (s.effWord region 2 4) 15 8, seed := s.effWord region 4 5,
    keep := bit save 0, preempt := bit save 1, saveSlots := bits save 15 8, saveArea := s.effWord region 6 8 &&& 0xFFFFFFFFFFFFF,
    elig := s.eligible (bits (s.effWord region 5 6) 15 0) (lcbArray w), groups := lcbGroups w, ageAt := s.cycle,
    ht := ((s.region? region).map (fun r => [r.word 9, r.word 10, r.word 11])).getD [],
    prioOf := s.effectiveAt region 1, slotsOf := s.effectiveAt region 6,
    budgets := (s.regionPath 8 region).map (fun r => (r.addr, s.effectiveAt r.addr 0)) }

/-- LAUNCH (R52, R53, R33). -/
def execLaunch (s : State) : Out :=
  match s.nextPkt (fun p => p.type == 0x01) with
  | none => .next s
  | some p =>
    let n := s.site.stream
    let lcbAddr := p.packet.at' 0 &&& 0xFFFFFFFFFFFFF
    if !p.packet.good then .next (s.finish n p 0x10)
    else if s.rangesTrying 1024 16 (p.tryAt.getD s.cycle) ((lcbAddr, 128) :: lcbRanges (s.hostWords lcbAddr 16)) then
      .next (s.modPkt n p.serial (fun x => { x with tryAt := x.tryAt.or (some s.cycle) }))
    else
      let (st, s0) := s.rangesStatus [(lcbAddr, 128)]
      if st ≠ 0 then .next (s0.finish n p st)
      else
        let w := s0.hostWords lcbAddr 16
        match s0.launchCheck w n with
        | (some st, s1) => .next (s1.finish n p st)
        | (none, s1) =>
          if lcbGroups w = 0 then
            let i := bits (p.packet.at' 1) 11 0
            .next ((if bit (p.packet.at' 1) 12 then s1.setSignal i (s1.signalAt i + 1) else s1).finish n p 0)
          else if 1024 ≤ s1.launches.length then .next s
          else
            let s2 := s1.begin' n p.serial
            .next { s2 with launches := s2.launches ++ [s1.newLaunch w n p], launchNum := s2.launchNum + 1, launchKey := s2.launchKey + 1 }

/-! ### Completion (R56, R57, R33) -/

/-- Whether no group of a launch is pending or bound, and no hash-tree update of it waits. -/
def State.launchOver (s : State) (l : Launch) : Bool :=
  l.bound.isEmpty && l.saved.isEmpty && decide (l.groups ≤ l.next) && !s.hashReqs.any (fun h => h.launch == l.key)

/-- STATUS of a completed launch (R56). -/
def LaunchStatus.code : LaunchStatus → BitVec 8
  | .running => 0
  | .faulted => 0x14
  | .cancelled => 7

/-- A launch completes: its collectives and exchanges end, its signal counts, its record is sent (R56, R33, R206, R208, R225). -/
def State.completeLaunch (s : State) (l : Launch) : State :=
  let failed := l.status ≠ .running
  let s1 := (s.endCollectives l.key failed).endMembers l.key failed
  let l1 := (s1.launch? l.key).getD l
  let s2 := { s1 with
    launches := s1.launches.filter (fun o => o.key != l.key), barriers := s1.barriers.filter (fun b => b.launch != l.key),
    regions := s1.regions.map (fun (r : Region) => { r with slots := r.slots.filter (fun x => x.2 != l.key) }) }
  let s3 := if l.sigEn then s2.setSignal l.sigId (s2.signalAt l.sigId + 1) else s2
  let value := match l1.firstBind with | some c => BitVec.ofNat 64 (l1.lastEnd - c) | none => 0
  s3.complete l.stream l.pkt l.status.code value (BitVec.ofNat 64 (l1.corrected + at_ l1.cost 16)) []

/-- Every launch that is over completes. -/
def State.settleLaunches (s : State) : State :=
  s.launches.foldl (fun s l => match s.launch? l.key with
    | none => s
    | some l1 => if s.launchOver l1 then s.completeLaunch l1 else s) s

/-! ### COPYH (R33) -/

/-- The direction's packet taken up; a count of 0 completes at once. -/
def State.copyhStart (s : State) (dir : Nat) : State :=
  match s.nextPkt (fun p => p.type == 0x03 && (bits (p.at' 0) 0 0 == dir)) with
  | none => s
  | some p =>
    let n := s.site.stream
    if !p.packet.good then s.finish n p 0x10
    else if bits (p.packet.at' 3) 39 0 = 0 then s.complete n p 0 (if bit (p.packet.at' 0) 1 then crcInit else 0) 0 []
    else
      let s1 := s.begin' n p.serial
      { s1 with copyhs := s1.copyhs ++ [{ stream := n, pkt := { p with started := true, at? := s.cycle } }] }

/-- COPYH_HOST_TO_DEVICE (R33). -/
def execCopyhHostToDevice (s : State) : Out := .next (s.copyhStart 0)

/-- COPYH_DEVICE_TO_HOST (R33). -/
def execCopyhDeviceToHost (s : State) : Out := .next (s.copyhStart 1)

/-- The pieces of a COPYH in device memory. -/
def State.copyhPieces (s : State) (p : Packet) (n : Nat) : List Piece :=
  let va := p.at' 2 &&& 0xFFFFFFFFFFFFF
  cutPieces (!s.badWords.isEmpty) (piecesOf (.run va) (.run va) (n + 1) 0 n)

/-- Device bytes read piece by piece: the state, what was read, the failing status with its address. -/
def State.copyhRead (s : State) (ps : List Piece) : State × List (Nat × List Byte) × Option (BitVec 3 × Word) :=
  ps.foldl (fun (acc : State × List (Nat × List Byte) × Option (BitVec 3 × Word)) p =>
    if acc.2.2.isSome then acc
    else
      match acc.1.hostXlate p.src false with
      | .error x => (acc.1.noteWalk 1024 p.src, acc.2.1, some (x.status, p.src))
      | .ok (pa, repl, s1) =>
        match s1.engineRead 16 pa repl p.n with
        | .lost => (s1, acc.2.1, some (3, p.src))
        | .bad => (s1.logBad (homeDie pa * 64) pa 7, acc.2.1, some (2, p.src))
        | .ok bs => (s1, acc.2.1 ++ [(p.pos, bs)], none)) (s, [], none)

/-- Where the first piece of a COPYH of n bytes to an address fails, and how: an uncorrectable word that the transfer covers only in part stays (R425). -/
def State.copyhFails (s : State) (va : Word) (n : Nat) (ps : List Piece) : Option (Nat × BitVec 3 × Word) :=
  let partBad (s : State) (pa : Nat) (p : Piece) : Bool := s.badWords.any (fun w => eccTouches pa p.n w &&
    !(decide (va.toNat + pa ≤ p.dst.toNat + w) && decide (p.dst.toNat + w + eccSize w ≤ va.toNat + n + pa)))
  (ps.find? (fun p =>
    match s.hostXlate p.dst true with
    | .error _ => true
    | .ok (pa, repl, s1) => !s1.reaches 16 (if repl then 16 else homeDie pa) || (!repl && partBad s1 pa p))).map (fun p =>
      (p.pos, (match s.hostXlate p.dst true with
        | .error x => x.status
        | .ok (pa, repl, s1) => if !s1.reaches 16 (if repl then 16 else homeDie pa) then 3 else 2), p.dst))

/-- Bytes of a COPYH written to the device in runs of neighbouring pieces; none while a commit buffer is full. -/
def State.copyhWrite (s : State) (since : Nat) (o : Owner) (va : Word) (runs : List (Nat × List Byte)) : Option State :=
  (runs.flatMap (fun r => (runsOf (va + BitVec.ofNat 64 r.1) r.2.length).zipIdx.map (fun x =>
      (x.1.1, (r.2.drop (x.1.1.toNat - (va.toNat + r.1))).take x.1.2)))).foldl (fun acc x =>
    acc.bind (fun s => (s.hostPut since x.1 x.2 o).map (fun y => y.2))) (some s)

/-- COPYH_COMPLETE (R33, R42): the bytes move and, once those held on locked words are performed too (R180), the packet completes. A copy that faults has moved a part of the bytes before the address
that is left open (log entry 5); one that a RESET stopped, the whole MiB units that the step names. Site: n the transfer, word the units
moved by a stopped one. -/
def execCopyhComplete (s : State) : Out :=
  match s.copyhs[s.site.n]? with
  | none => .next s
  | some c =>
    let p := c.pkt.packet
    let va := p.at' 2 &&& 0xFFFFFFFFFFFFF
    let count := bits (p.at' 3) 39 0
    let n := if c.stopped then min (miB * s.site.word.toNat) (count / miB * miB) else count
    let ps := s.copyhPieces p n
    let o := Owner.host c.pkt.serial
    let endWith (s : State) (st : BitVec 3) (at' crc : Word) : State :=
      let s1 := { s with copyhs := s.copyhs.eraseIdx s.site.n }
      let st8 : BitVec 8 := if c.stopped then 7 else st.zeroExtend 8
      s1.complete c.stream c.pkt st8 crc (if st8 = 1 || st8 = 2 then at' else 0) []
    if let some (st, at', crc) := c.result then (if s.outstanding o then .next s else .next (endWith s st at' crc))
    else if ps.any (fun x => s.tryingAt 1024 16 x.src (bits (p.at' 0) 0 0 = 0) c.pkt.at?) then .next s
    else
    let key := keyOf ((List.range 4).map p.at') c.pkt.serial
    let sum (bs : List Byte) : Word := if bit (p.at' 0) 1 then crc64 crcInit bs else 0
    let done (s : State) (st : BitVec 3) (at' : Word) (moved : List Byte) : State :=
      if s.outstanding o then { s with copyhs := setAt s.copyhs s.site.n { c with result := some (st, at', sum moved) } } else endWith s st at' (sum moved)
    if bits (p.at' 0) 0 0 = 0 then
      let data := (p.host.take n) ++ List.replicate (n - p.host.length) 0
      match s.copyhFails va n ps with
      | none =>
        (match s.copyhWrite c.pkt.at? o va [(0, data)] with
         | none => .next s
         | some s1 => .next (done s1 0 0 data))
      | some (pos, st, at') =>
        let kept := (ps.filter (fun x => x.pos + x.n ≤ pos && Config.partWritten key x.pos)).map (fun x => (x.pos, (data.drop x.pos).take x.n))
        match s.copyhWrite c.pkt.at? o va kept with
        | none => .next s
        | some s1 => .next (done (s1.noteWalk 1024 at') st at' (kept.flatMap (fun x => x.2)))
    else
      let (s1, l, fault) := s.copyhRead ps
      let kept := match fault with | none => l | some _ => l.filter (fun x => Config.partWritten key x.1)
      let host := p.at' 1
      let s2 := { s1 with hostOut := s1.hostOut ++ kept.map (fun x => (host + BitVec.ofNat 64 x.1, x.2)) }
      let moved := kept.flatMap (fun x => x.2)
      match fault with
      | none => .next (done s2 0 0 moved)
      | some (st, at') => .next (done s2 st at' moved)

end Sys2Proof.Machine
end

