-- ==== Sys2Proof/Machine/Resets.lean ====
section
/-! DEFINITION. RESET (R42): what each kind stops, when it completes, the order of several; the end of a die reset (R20, R185). -/

namespace Sys2Proof.Machine

/-- KIND, stream and die of a RESET. -/
def ResetReq.kind (r : ResetReq) : Nat := r.pkt.packet.resetKind
def ResetReq.target (r : ResetReq) : Nat := bits (r.pkt.packet.at' 0) 7 4
def ResetReq.die (r : ResetReq) : Nat := bits (r.pkt.packet.at' 0) 12 8

/-- The event of a reset or of a bring-up step on a die (R266 type 0x0F). -/
def State.resetEvent (s : State) (die code : Nat) : State := s.bbox die (bbEvent s.cycle 0x0F code 0 0 0 0 0 0)

/-- A stream reset (R42 kind 0): its packets that have not started and its pending WAITSIGs complete CANCELLED, its launches and its COPYHs stop,
its level and its next SEQ return to 0. -/
def State.stopStream (s : State) (n : Nat) : State :=
  let gone := (s.streamAt n).pkts.filter (fun p => !p.packet.immediate && (!p.started || p.packet.type == 0x05))
  let s1 := gone.foldl (fun s p => s.finish n p 7) s
  let s2 := s1.setStream n { s1.streamAt n with level := 0, last := 0xFFFF }
  let s3 := { s2 with copyhs := s2.copyhs.map (fun (c : Copyh) => if c.stream = n then { c with stopped := true } else c) }
  ((s3.launches.filter (fun l => l.stream == n)).foldl (fun s l => s.stopLaunch l.key .cancelled (noMoreBinds .cancelled)) s3).settleLaunches

/-- A die reset begins (R42 kind 1): every launch with a group on the die is cancelled; loads of the die read primaries until its replicas are
copied again (R185). -/
def State.stopDie (s : State) (d : Nat) : State :=
  let s1 := { s with replWait := if d < 16 then s.replWait ++ [d] else s.replWait }
  ((s1.launches.filter (fun l => l.bound.any (fun e => e.2 / 64 == d))).foldl
    (fun s l => s.stopLaunch l.key .cancelled (noMoreBinds .cancelled)) s1).settleLaunches

/-- What a RESET does as it begins. -/
def State.beginReset (s : State) (r : ResetReq) : State :=
  match r.kind with
  | 0 => (s.resetEvent 16 0).stopStream r.target
  | 1 => (s.resetEvent r.die 1).stopDie r.die
  | _ => (List.range 16).foldl State.stopStream (s.resetEvent 16 2)

/-- Whether a stream holds no packet accepted before a serial number, immediate ones apart. -/
def State.streamEmpty (s : State) (n serial : Nat) : Bool :=
  (s.streamAt n).pkts.all (fun p => p.packet.immediate || decide (serial ≤ p.serial))

/-- RESETs taken as far as they go: a kind 0 that is done completes, and the next begins (R42). -/
def State.settleResets : Nat → State → State
  | 0, s => s
  | fuel + 1, s =>
    match s.running with
    | none =>
      (match s.pending with
       | [] => s
       | r :: rs => State.settleResets fuel (({ s with running := some r, pending := rs } : State).beginReset r))
    | some r =>
      if r.kind = 0 && s.streamEmpty r.target r.pkt.serial then
        State.settleResets fuel (({ s with running := none } : State).finish r.stream r.pkt 0)
      else s

/-- What follows whenever a group, a copy or a packet is done: launches that are over complete, and RESETs that wait for them. -/
def State.settle (s : State) : State := State.settleResets (2 * s.pending.length + 2) s.settleLaunches

/-- A RESET packet of a kind taken up (R35, R42); with none there, one that runs is looked at again. -/
def State.takeReset (s : State) (kind : Nat) : State :=
  match s.immediatePkt (fun p => p.type == 0x0B && (p.resetKind == kind || (kind == 0 && !p.good))) with
  | none => s.settle
  | some p =>
    let n := s.site.stream
    if !p.packet.good then s.finish n p 0x10
    else if s.packageReset && kind < 2 then s.finish n p 7
    else
      let s1 := s.begin' n p.serial
      ({ s1 with pending := s1.pending ++ [{ stream := n, pkt := p }] } : State).settle

/-- RESET_STREAM (R42). -/
def execResetStream (s : State) : Out := .next (s.takeReset 0)

/-- RESET_DIE (R42). -/
def execResetDie (s : State) : Out := .next (s.takeReset 1)

/-- RESET_PACKAGE (R42). -/
def execResetPackage (s : State) : Out := .next (s.takeReset 2)

/-! ### The end of a die reset (R42, R20, R185) -/

/-- The pages that a table at a level maps as replicated: physical address and size. -/
def State.replicatedPages (s : State) : Nat → Nat → List (Nat × Nat)
  | 0, _ => []
  | level + 1, table =>
    if table % tableSize level ≠ 0 || !paMapped table then []
    else
      (List.range (tableSize level / 8)).flatMap (fun i =>
        let e := ofLe (s.bytesAt (table + 8 * i) 8)
        let addr := e / 256 % 2 ^ 40 * 256
        if s.badRead (table + 8 * i) 8 || !e.testBit 0 then []
        else if e.testBit 1 then (if e.testBit 3 && s.leafOk addr (pageBits level) true then [(addr, 2 ^ pageBits level)] else [])
        else s.replicatedPages level addr)

/-- A page's bytes copied to another place, but for the ECC words that are uncorrectable where they are read (R425: withheld). -/
def State.copyPage (s : State) (src dst n : Nat) : State :=
  if s.badWords.isEmpty then s.poke dst (s.bytesAt src n)
  else (List.range (n / 32)).foldl (fun s i =>
    if s.badRead (src + 32 * i) 32 then s.logBad (homeDie dst * 64) (src + 32 * i) 7 else s.poke (dst + 32 * i) (s.bytesAt (src + 32 * i) 32)) s

/-- Every mapped replicated page copied from the primary onto a die (R185). -/
def State.copyReplicas (s : State) (d : Nat) : State :=
  if s.xlV then (s.replicatedPages 4 (s.xlRoot.toNat * 2 ^ 20)).foldl (fun s p => s.copyPage (p.1 % 2 ^ 36) (p.1 % 2 ^ 36 + d * 2 ^ 36) p.2) s
  else s

/-- A cell's scratchpad and tagged store zeroed (R42, R55). -/
def State.zeroStores (s : State) (k : Nat) : State :=
  let s1 := s.zeroRange (spAddr k 0) 0x400000
  { s1 with badWords := s1.badWords.filter (fun w => !eccCovers (spAddr k 0) 0x400000 w) }.modCell k (fun c => { c with lines := [], entries := [], badLines := [] })

/-- Whether some cell of a die holds a group. -/
def State.dieBusy (s : State) (d : Nat) : Bool := s.cells.any (fun e => e.1 / 64 == d && e.2.bound.isSome)

/-- DIE_RESET_COMPLETE (R42): once the stopped work has finished, the die's stores are zeroed, its pairs synchronise afresh, and it is back in
service (Site yes) or has left it. -/
def execDieResetComplete (s : State) : Out :=
  let d := s.site.die
  match s.running with
  | none => .next s
  | some r =>
    if r.kind ≠ 1 || r.die ≠ d || s.dieBusy d then .next s
    else
      let s1 := if d < 16 then (List.range 56).foldl (fun s c => s.zeroStores (cellKey d c)) s else s
      let s2 := s1.resyncDie d
      let s3 := if s.site.yes then { (if d < 16 then s2.copyReplicas d else s2) with oosDies := s2.oosDies.filter (fun e => e != d) }.rerouteAll
                else ({ s2 with oosDies := s2.oosDies.filter (fun e => e != d) ++ [d] } : State).rerouteAll.replaceAll
      .next (({ s3 with replWait := s3.replWait.filter (fun e => e != d), running := none } : State).finish r.stream r.pkt 0).settle

end Sys2Proof.Machine
end

