-- ==== Sys2Proof/Machine/Placement.lean ====
section
/-! DEFINITION. The decisions of the management cores (R43, R61 to R69, R230): placement, the choice of the next group, pre-emption, budgets
and aging. -/

namespace Sys2Proof.Machine

/-- The groups of a launch that a decision looks at next: a pre-empted one first (R71), else the next in index order (R62), or all that bind
together (R65). -/
def Launch.heads (l : Launch) : List Nat :=
  match l.saved with
  | x :: _ => [x.group]
  | [] => if l.together then List.range l.groups else if l.next < l.groups then [l.next] else []

/-- Whether a record for a group of a launch waits for the dispatch hardware. -/
def State.recordWaits (s : State) (key : Nat) : Bool := s.slots.any (fun r => r.2.fresh && r.2.v && r.2.launch == key)

/-- Whether a decision may bind a group of a launch: running, within budget (R68), a group pending, no record on its way. -/
def State.wantsCell (s : State) (l : Launch) : Bool :=
  decide (l.status = .running) && l.pending && !s.overBudget l && !s.recordWaits l.key

/-- Every head re-placed that has to be; groups at D0 have no assigned cell. -/
def State.replaceHeads (s : State) : State :=
  (s.launches.filter (fun l => l.level != 0 && s.wantsCell l)).foldl (fun s l => l.heads.foldl (fun s g => s.replaceGroup l.key g) s) s

/-- Whether a cell holds no group and none is on its way to it. -/
def State.cellIdle (s : State) (k : Nat) : Bool := (s.cellAt k).bound.isNone && !(s.slotAt k).v && !(s.slotAt k).fresh

/-- Whether a D2 launch other than the one of the key has bound and keeps a die for itself (R230). -/
def State.dieReserved (s : State) (key d : Nat) : Bool :=
  s.launches.any (fun o => o.key != key && o.level == 2 && (o.firstBind.isSome || s.recordWaits o.key) && o.elig.any (fun k => k / 64 == d))

/-- Whether a group of another launch is bound on a die, or on its way there. -/
def State.othersOn (s : State) (key d : Nat) : Bool :=
  s.cells.any (fun e => e.1 / 64 == d && e.2.bound.any (fun b => b.launch != key)) ||
  s.slots.any (fun r => r.1 / 64 == d && r.2.v && r.2.fresh && r.2.launch != key)

/-- Whether a die is being reset: it takes no group until its reset is complete (R42). -/
def State.resetting (s : State) (d : Nat) : Bool := s.running.any (fun r => r.kind == 1 && r.die == d)

/-- Whether a group of a launch may bind on a cell now. -/
def State.usable (s : State) (l : Launch) (k : Nat) : Bool :=
  s.cellIdle k && s.cellFit l.array k && !s.dieReserved l.key (k / 64) && !s.resetting (k / 64)

/-- Groups bound on a die or on their way there. -/
def State.dieLoad (s : State) (d : Nat) : Nat :=
  s.cells.countP (fun e => e.1 / 64 == d && e.2.bound.isSome) + s.slots.countP (fun r => r.1 / 64 == d && r.2.v && r.2.fresh)

/-- The idle cell that R63 takes at D0, those of a list counted as taken. -/
def State.pickFree (s : State) (l : Launch) (taken : List Nat) : Option Nat :=
  let free := l.elig.filter (fun k => s.usable l k && !taken.contains k)
  let load (d : Nat) : Nat := s.dieLoad d + taken.countP (fun k => k / 64 == d)
  free.foldl (fun best k => match best with
    | none => some k
    | some b => if load (k / 64) < load (b / 64) then some k else best) none

/-- Cells for n groups at D0, one after another; none where E has too few. -/
def State.pickMany (s : State) (l : Launch) : Nat → List Nat → Option (List Nat)
  | 0, taken => some taken
  | n + 1, taken =>
    match s.pickFree l taken with
    | none => none
    | some k => s.pickMany l n (taken ++ [k])

/-- The groups of a launch that can bind now, with their cells; none where nothing can. Groups that are to bind together but that R64 has re-placed
onto one cell wait (DESIGN CHOICE, log entry 108). -/
def State.plan (s : State) (l : Launch) : List (Nat × Nat) :=
  if !s.wantsCell l then []
  else if l.level = 0 then l.heads.zip ((s.pickMany l l.heads.length []).getD [])
  else
    let p := l.heads.map (fun g => (g, (l.place g).1))
    let ks := p.map (fun x => x.2)
    let clear := l.level != 2 || !((ks ++ l.elig).map (fun k => k / 64)).any (s.othersOn l.key)
    if clear && ks.all (s.usable l) && decide ks.Nodup then p else []

/-! ### The choice (R66, R69) -/

/-- The dispatch priority of a launch (R66). -/
def State.dispatchPriority (s : State) (l : Launch) : Nat := min 7 (s.priority l + l.age)

/-- A launch has waited the 70 ms of R73. -/
def Launch.overdue (l : Launch) : Bool := decide (7 ≤ l.age)

/-- Whether a launch is served before another (R66): the higher dispatch priority; among equals one that is overdue, the longest first (R73, log
entry 137); else the earlier started. -/
def State.servedBefore (s : State) (l b : Launch) : Bool :=
  if s.dispatchPriority b ≠ s.dispatchPriority l then decide (s.dispatchPriority b < s.dispatchPriority l)
  else l.overdue && (!b.overdue || decide (l.ageAt < b.ageAt))

/-- The launch that a decision serves: of those that satisfy a test, the first in the order of R66, in the list's order of start among equals. -/
def State.bestLaunch (s : State) (ok : Launch → Bool) : Option Launch :=
  (s.launches.filter ok).foldl (fun best l => match best with
    | none => some l
    | some b => if s.servedBefore l b then some l else best) none

/-- The cells that a launch may take its groups to now. -/
def Launch.wants (l : Launch) : List Nat := if l.level = 0 then l.elig else l.heads.map (fun g => (l.place g).1)

/-- Whether a launch that binds all its groups together, is overdue and comes before another keeps a cell free for itself (R65, R73, log entry 137). -/
def State.keptBack (s : State) (l : Launch) (k : Nat) : Bool :=
  s.launches.any (fun o => o.key != l.key && o.overdue && o.together && s.wantsCell o && !s.servedBefore l o &&
    (if o.level = 2 then o.elig.any (fun e => e / 64 == k / 64) else o.wants.contains k))

/-- What a launch can bind now without a cell that is kept for another. -/
def State.planFor (s : State) (l : Launch) : List (Nat × Nat) := if (s.plan l).any (fun p => s.keptBack l p.2) then [] else s.plan l

/-- The record of a group for a cell that will be idle (R58). -/
def State.writeRecord (s : State) (l : Launch) (g k : Nat) : State :=
  let old := s.slotAt k
  let saved := l.saved.find? (fun x => x.group == g)
  s.setSlot k { v := true, pre := false, rst := saved.isSome, stream := l.stream, dpri := s.dispatchPriority l, level := l.level, launch := l.key,
                num := l.num, group := g, lcb := l.lcbAddr, slot := (saved.map (fun x => l.saveArea + BitVec.ofNat 64 (x.index * 0x800000))).getD 0,
                binds := old.binds, fresh := true }

/-- A cell whose group a pending launch may have pre-empted (R69): in the order of the cells it waits for. -/
def State.victim (s : State) (l : Launch) : Option (Nat × Launch × Nat × Nat) :=
  l.wants.findSome? (fun k =>
    match s.preemptSlot k with
    | some (o, owner, i) =>
      if o.key != l.key && decide (s.priority o + 2 ≤ s.priority l) && s.cellFit l.array k then some (k, o, owner, i) else none
    | none => none)

/-- A pre-emption that lets a launch in (R59, R69): where it has one group for the cell and that is not to be restored, the record names it as the
successor; else the cell is to become idle. -/
def State.preemptFor (s : State) (l : Launch) (k : Nat) (o : Launch) (owner i : Nat) : State :=
  match l.heads, l.saved with
  | [g], [] =>
    let s1 := s.orderPreempt k o owner i 0
    let r := s1.slotAt k
    (s1.writeRecord l g k).setSlot k { (s1.writeRecord l g k).slotAt k with pre := true, slot := r.slot, reason := r.reason }
  | _, _ => s.orderPreempt k o owner i 0

/-- DISPATCH_DECISION (R66, R69): the next group that can bind has its record written; where none can, a pre-emption that R69 allows; nothing
while power holds dispatch back (R24). -/
def execDispatchDecision (s : State) : Out :=
  let s0 := s.settle
  if s0.powerHold then .next s0
  else
    let s1 := s0.replaceHeads
    match s1.bestLaunch (fun l => !(s1.planFor l).isEmpty) with
    | some l => .next ((s1.planFor l).foldl (fun s p => s.writeRecord l p.1 p.2) s1)
    | none =>
      match s1.bestLaunch (fun l => s1.wantsCell l && (s1.victim l).isSome) with
      | none => .next s1
      | some l =>
        match s1.victim l with
        | none => .next s1
        | some (k, o, owner, i) => .next (s1.preemptFor l k o owner i)

/-! ### Budgets (R67, R68) and aging (R66) -/

/-- The time of a bound group charged to its launch's region and every ancestor. -/
def State.chargeCell (s : State) (k : Nat) : State :=
  match (s.cellAt k).bound with
  | none => s
  | some b =>
    let dt := s.cycle - (s.cellAt k).chargedAt
    let s1 := s.modCell k (fun c => { c with chargedAt := s.cycle })
    match s.launch? b.launch with
    | none => s1
    | some l => (s.regionPath 8 l.region).foldl (fun s r => s.modRegion r.addr (fun x => { x with charged := x.charged + dt })) s1

/-- CONSUMED written into the memory image of a region; dropped where it cannot be (R49). -/
def State.writeConsumed (s : State) (a : Nat) : State :=
  match s.region? a with
  | none => s
  | some r =>
    match s.hostPut s.cycle (BitVec.ofNat 64 (a + 24)) (leBytes 8 r.consumed) with
    | some (0, s1) => s1
    | _ => s

/-- Every bound cell. -/
def State.boundCells (s : State) : List Nat := (s.cells.filter (fun e => e.2.bound.isSome)).map (fun e => e.1)

/-- 1 ms and 10 ms in cycles (R25). -/
def msCycles : Nat := 2250000

/-- BUDGET_UPDATE (R67, R68): every 1 ms. -/
def execBudgetUpdate (s : State) : Out :=
  if s.cycle < s.budgetAt + msCycles then .next s
  else
    let s1 := s.boundCells.foldl State.chargeCell { s with budgetAt := s.cycle }
    let s2 := (s1.regions.map (fun r => r.addr)).foldl State.writeConsumed s1
    .next (s2.boundCells.foldl (fun s k =>
      match s.preemptSlot k with
      | some (l, owner, i) => if s.overBudget l then s.orderPreempt k l owner i 1 else s
      | none => s) s2)

/-- AGING_TICK (R66): a full 10 ms with a pending group and no bind; at age 7 the tick stands still, so that `ageAt` keeps the order of the waits (R73). -/
def execAgingTick (s : State) : Out :=
  match s.launch? s.site.n with
  | none => .next s
  | some l =>
    if l.pending && decide (l.age < 7) && decide (l.ageAt + 10 * msCycles ≤ s.cycle) then
      .next (s.modLaunch l.key (fun l => { l with age := min 7 (l.age + 1), ageAt := l.ageAt + 10 * msCycles }))
    else .next s

end Sys2Proof.Machine
end

