-- ==== Sys2Proof/Machine/SaveSlot.lean ====
section
/-! DEFINITION. The save slot (R262 to R264): what a save writes and what a restore makes of it. -/

namespace Sys2Proof.Machine

/-! ### Reading device memory for a cell (R54, R261) -/

/-- A run within one page read for a cell, or the cause and address of the failure. -/
def State.loadRun (s : State) (k : Nat) (va : Word) (n : Nat) : State × Except (BitVec 8 × Word) (List Byte) :=
  match s.translate k va false with
  | .error .fault => (s.noteWalk k va, .error (tcLoad, va))
  | .error .bad => (s.noteWalk k va, .error (tcUncorrectable, va))
  | .ok (pa, repl, s1) =>
    match s1.engineRead (k / 64) pa repl n with
    | .lost => (s1, .error (tcLoad, va))
    | .ok bs => (s1, .ok bs)
    | .bad =>
      let at' := if repl then s1.replica (k / 64) pa else pa
      let low := (s1.badWords.filter (eccTouches at' n)).foldl (fun m w => min m (max w at')) (at' + n)
      (s1.logBad k low 8, .error (tcUncorrectable, va + BitVec.ofNat 64 (low - at')))

/-- A range read for a cell. -/
def State.loadBytes (s : State) (k : Nat) (va : Word) (n : Nat) : State × Except (BitVec 8 × Word) (List Byte) :=
  (runsOf va n).foldl (fun (acc : State × Except (BitVec 8 × Word) (List Byte)) r =>
    match acc with
    | (s, .error e) => (s, .error e)
    | (s, .ok bs) =>
      match s.loadRun k r.1 r.2 with
      | (s1, .error e) => (s1, .error e)
      | (s1, .ok more) => (s1, .ok (bs ++ more))) (s, .ok [])

/-- Several ranges read for a cell, in order. -/
def State.loadAll (s : State) (k : Nat) : List (Word × Nat) → State × Except (BitVec 8 × Word) (List (List Byte))
  | [] => (s, .ok [])
  | r :: rs =>
    match s.loadBytes k r.1 r.2 with
    | (s1, .error e) => (s1, .error e)
    | (s1, .ok bs) =>
      match s1.loadAll k rs with
      | (s2, .error e) => (s2, .error e)
      | (s2, .ok l) => (s2, .ok (bs :: l))

/-- Bytes as numbers of n bytes each. -/
def numbersOf (n : Nat) : Nat → List Byte → List Nat
  | 0, _ => []
  | m + 1, bs => ofLe (bs.take n) :: numbersOf n m (bs.drop n)

/-- Bytes as words. -/
def wordList (bs : List Byte) : List Word := (numbersOf 8 (bs.length / 8) bs).map (BitVec.ofNat 64)

/-! ### The image of a context (R262) -/

/-- A word of a block of a cell as a save finds it: one under an uncorrectable error gives a value that the manual does not state. -/
def State.savedWord (s : State) (k blk off : Nat) : Word :=
  if (s.ssBad ⟨k / 64, 0, k % 64, blk, off⟩ 1).isSome then Config.unstated (s.free + blk * 2 ^ 22 + off) else s.ssCell k blk off

/-- n words of a block. -/
def State.savedWords (s : State) (k blk off n : Nat) : List Word := (List.range n).map (fun i => s.savedWord k blk (off + 8 * i))

/-- A list of words filled up with zeros. -/
def padTo (n : Nat) (l : List Word) : List Word := l ++ List.replicate (n - l.length) 0

/-- TCAUSE of a pending trap. -/
def TrapRec.causeWord (t : TrapRec) : Word := BitVec.ofNat 64 (t.cause.toNat + (if t.defer then 2 ^ 8 else 0))

/-- A copy record (R264). -/
def Copy.record (c : Copy) : List Word :=
  BitVec.ofNat 64 (c.done + at_ c.tag.toNat 40 + 2 ^ 46 + at_ c.seq.num 47 + (if c.remq then 2 ^ 49 else 0)) :: (List.range 15).map (fld c.f)

/-- A packed tag entry (R264). -/
def TagEntry.packed (e : TagEntry) : Word :=
  BitVec.ofNat 64 (e.line.toNat + at_ e.count.toNat 45 + (if e.v then 2 ^ 53 else 0) + (if e.pin then 2 ^ 54 else 0) + at_ e.status.toNat 55)

/-- The tag entry of a packed one. -/
def unpackTag (w : Word) : TagEntry :=
  { line := BitVec.ofNat 45 (bits w 44 0), count := BitVec.ofNat 8 (bits w 52 45), v := bit w 53, pin := bit w 54, status := BitVec.ofNat 3 (bits w 57 55) }

/-- Everything of a slot but its header: offset and words of each part. -/
def State.slotParts (s : State) (k : Nat) : List (Nat × List Word) :=
  let c := s.cellAt k
  (List.range 4).map (fun i => (0x1000 + 0x2000 * i, s.savedWords k i 0 1024)) ++
  [(0x9000, s.savedWords k 4 0x10000 4096),
   (0x11000, s.savedWords k 10 0 1536),
   (0x14000, padTo 512 (padTo 256 (c.remq.flatMap (fun b => padTo 16 (b.take 16))) ++ [BitVec.ofNat 64 c.remq.length])),
   (0x15000, padTo 512 (c.pend.flatMap (fun t => [t.causeWord, t.pc, BitVec.ofNat 64 t.seq.num, t.val]))),
   (0x16000, s.savedWords k 9 0x40000 3584),
   (0x1D000, padTo 1024 (c.copies.flatMap Copy.record)),
   (0x20000, (List.range 16384).map (fun i => (c.entry i).packed)),
   (0x40000, s.savedWords k 9 0 32768),
   (0x80000, s.savedWords k 7 0 524288)] ++
  ((c.entries.filter (fun e => e.2.v)).map (fun e => (0x480000 + 128 * e.1, s.savedWords k 8 (128 * e.1) 16)))

/-- Bytes of a list of parts. -/
def partsBytes (l : List (Nat × List Word)) : Nat := l.foldl (fun n p => n + 8 * p.2.length) 0

/-- The header (R263). -/
def State.slotHeader (s : State) (k : Nat) (l : Launch) (g reason bytes : Nat) : List Word :=
  let c := s.cellAt k
  let acq := (s.quadAt (quadOf k)).acq.getLsbD (k % 4)
  padTo 512 [BitVec.ofNat 64 (1 + at_ l.num.toNat 16 + at_ (g % 2 ^ 32) 32), l.lcbAddr,
    BitVec.ofNat 64 (reason + (if c.tin then 4 else 0) + (if acq then 8 else 0) + at_ c.pend.length 4 + at_ c.copies.length 9),
    BitVec.ofNat 64 s.cycle, BitVec.ofNat 64 bytes]

/-- Parts written at a slot: a page that cannot be written is left as it is; none while a commit buffer is full. -/
def State.writeParts (s : State) (since : Nat) (slot : Word) (l : List (Nat × List Word)) : Option State :=
  (l.flatMap (fun p =>
    let bs := p.2.flatMap (fun w => leBytes 8 w.toNat)
    (runsOf (slot + BitVec.ofNat 64 p.1) bs.length).map (fun r => (r.1, (bs.drop (r.1 - slot - BitVec.ofNat 64 p.1).toNat).take r.2)))).foldl
    (fun acc x => acc.bind (fun s => (s.hostPut since x.1 x.2).map (fun y => y.2))) (some s)

/-! ### A context out of its image (R261) -/

/-- What `wrsys` cannot write of K, from the words of its block: the handler's state and the controller (R401). -/
def Cell.restoreK (c : Cell) (w : List Word) (kEnded : Bool) : Cell :=
  let at' (off : Nat) : Word := wordAt w (off / 8)
  { c with
    tin := bit (at' 0x128) 0, kWasEnded := kEnded,
    rlc := { iter := (at' 0x600).truncate 32, total := BitVec.ofNat 32 (bits (at' 0x600) 63 32), norm := at' 0x608, prev := at' 0x610, norm0 := at' 0x618,
             exit := (at' 0x620).truncate 8, level := (at' 0x628).truncate 2, st := (at' 0x630).truncate 2, held := bit (at' 0x630) 2,
             stagc := BitVec.ofNat 16 (bits (at' 0x630) 31 16), block := at' 0x638,
             copy := (List.range 32).foldl (fun m i => NatMap.put 0 m i (at' (0x700 + 8 * i))) [] } }

/-- What `wrsys` cannot write of C (R357). -/
def Cell.restoreC (c : Cell) (w : List Word) : Cell :=
  let at' (off : Nat) : Word := wordAt w (off / 8)
  { c with vcount := (at' 0x500).truncate 16, vconsa := (at' 0x508).truncate 16, vconsb := BitVec.ofNat 16 (bits (at' 0x508) 31 16) }

/-- PBSTATE, the ended state and the branch that led to the program counter, per sequencer. -/
def Cell.restoreSeq (c : Cell) (q : SeqId) (w : List Word) (ended : Bool) (from? : Option Word) : Cell :=
  c.modSeq q (fun x => { x with pb := pbOf ((wordAt w 30).truncate 16), ended := ended, from? := from? })

/-- An arrival region from its record. -/
def arrivalOf (w : List Word) : Arrival :=
  let w0 := wordAt w 0
  { base := w0.truncate 22, armed := bit w0 22, ready := bit w0 23, past := bit w0 24, len := (wordAt w 1).truncate 23,
    expect := (wordAt w 2).truncate 32, arrived := BitVec.ofNat 32 (bits (wordAt w 2) 63 32), ctr := (wordAt w 3).truncate 14, ctrEn := bit (wordAt w 3) 14 }

/-- Tags, statistics, arrival regions and sequence regions from BLOCK 10. -/
def Cell.restoreStats (c : Cell) (w : List Word) : Cell :=
  let each {α : Type} (n : Nat) (f : NatMap α → Nat → NatMap α) : NatMap α := (List.range n).foldl f []
  { c with
    tags := each 64 (fun m i => NatMap.put 0 m i ((wordAt w i).truncate 4)),
    amax := (wordAt w 64).truncate 32, nancnt := (wordAt w 65).truncate 32, flags := (wordAt w 66).truncate 6,
    hist := each 64 (fun m i => NatMap.put 0 m i ((wordAt w (96 + i / 2) >>> (32 * (i % 2))).truncate 32)),
    regions := each 64 (fun m i => NatMap.put {} m i (arrivalOf (w.drop (512 + 4 * i)))),
    seqNext := each 256 (fun m i => NatMap.put 0 m i ((wordAt w (1024 + i)).truncate 32)) }

/-- A copy issued again from its record; what the record does not hold comes from the copy that was stopped. -/
def copyOf (w : List Word) (old : Copy) (id cycle : Nat) : Copy :=
  let w0 := wordAt w 0
  { old with id := id, seq := seqOfNum (bits w0 48 47), tag := BitVec.ofNat 6 (bits w0 45 40), remq := bit w0 49, f := (w.drop 1).take 15,
             done := bits w0 39 0, stopped := false, inSlot := false, sent := false, raised := false, issued := cycle }

/-- What the pushes restored with a context have seen: everything issued before the restore at a cycle (R324). -/
def seenAll (cycle : Nat) : NatMap Nat := (List.range 4).map (fun q => (q, cycle))

/-- Reservations for the tokens of copies (R94). -/
def reservedFor (l : List Copy) : NatMap Nat := (l.flatMap (fun c => c.tokens)).foldl (fun m t => NatMap.put 0 m t (NatMap.get 0 m t + 1)) []

/-- The sizes of the parts in the order of the slot, lines apart: offset and bytes. -/
def slotMap : List (Nat × Nat) :=
  [(0, 0x1000), (0x1000, 0x2000), (0x3000, 0x2000), (0x5000, 0x2000), (0x7000, 0x2000), (0x9000, 0x8000), (0x11000, 0x3000), (0x14000, 0x1000),
   (0x15000, 0x1000), (0x16000, 0x7000), (0x1D000, 0x2000), (0x20000, 0x20000), (0x40000, 0x40000), (0x80000, 0x400000)]

/-- The pending traps of a slot, oldest first. -/
def pendingOf (w : List Word) (n : Nat) : List TrapRec :=
  (List.range n).map (fun i =>
    let r := w.drop (4 * i)
    ⟨(wordAt r 0).truncate 8, bit (wordAt r 0) 8, wordAt r 1, seqOfNum (bits (wordAt r 2) 1 0), wordAt r 3⟩)

/-- A cell just bound, overwritten from its slot: `p` holds the parts of `slotMap`. -/
def State.applySlot (s : State) (k : Nat) (x : Saved) (p : List (List Word)) : State :=
  let part (i : Nat) : List Word := p.getD i []
  let h2 := wordAt (part 0) 2
  let ncopy := bits h2 15 9
  let s1 := (List.range 4).foldl (fun s i => s.ssWriteCell k i 0 (part (i + 1))) s
  let s2 := (((s1.ssWriteCell k 4 0x10000 (part 5)).ssWriteCell k 9 0x40000 (part 9)).ssWriteCell k 9 0 (part 12)).ssWriteCell k 7 0 (part 13)
  let first := (s2.cellAt k).nextId
  let copies := (x.copies.take ncopy).zipIdx.map (fun (o, i) => copyOf ((part 10).drop (16 * i)) o (first + i) s.cycle)
  s2.modCell k (fun c =>
    let c1 := (allSeqs.foldl (fun (c : Cell) q => c.restoreSeq q (part (q.num + 1)) (x.ended.getD q.num false) (x.froms.getD q.num none)) c)
    let c2 := ((c1.restoreK (part 1) x.kEnded).restoreC (part 3)).restoreStats (part 6)
    { c2 with
      remq := (List.range (min (wordAt (part 7) 256).toNat 16)).map (fun i => ((part 7).drop (16 * i)).take 16),
      pend := pendingOf (part 8) (bits h2 8 4),
      entries := ((part 11).zipIdx.map (fun (v, i) => (i, unpackTag v))).filter (fun e => e.2 != {}),
      copies := copies, nextId := first + copies.length, tokRes := reservedFor copies,
      remBusy := (copies.find? (fun o => o.remq)).map (fun o => o.id),
      joined := x.joined, below := x.below, seen := x.seen,
      qAt := (List.range 8).map (fun n => (n, List.replicate (c2.queue n).length (seenAll s.cycle))),
      tokAt := (List.range 8).map (fun n => (n, List.replicate (c2.tokVal n) (seenAll s.cycle))) })

end Sys2Proof.Machine
end

