-- ==== Sys2Proof/Machine/Groups.lean ====
section
/-! DEFINITION. Groups on their cells (R54 to R59, R78, R84, R259 to R261): bind, pre-emption, save, restore, end; a cell that leaves
service. -/

namespace Sys2Proof.Machine

/-! ### Bind (R54, R55, R259) -/

/-- A cell after register hygiene (R259): the tagged store stays where R55 keeps it; what belongs to no group stays. -/
def Cell.hygiene (c : Cell) (keep : Bool) : Cell :=
  { oos := c.oos, tlb := c.tlb, cbuf := c.cbuf, nextId := c.nextId, vfree := c.vfree, vlast := c.vlast,
    lines := if keep then c.lines else [], entries := if keep then c.entries else [], badLines := if keep then c.badLines else [] }

/-- Numbers as a map from their places. -/
def listMap {w : Nat} (l : List Nat) : NatMap (BitVec w) := (l.zipIdx.map (fun (v, i) => (i, BitVec.ofNat w v))).filter (fun e => e.2 != 0)

/-- A sequencer as a bind leaves it: its section loaded, g1 to g3 written (R54). -/
def Seq.start (sect : List Byte) (codeLen constLen : Nat) (stage : NatMap Word) (args g count : Word) : Seq :=
  { code := listMap (numbersOf 4 codeLen sect), codeLen := codeLen, pool := listMap (numbersOf 8 constLen (sect.drop (poolAt codeLen))),
    constLen := constLen, ended := decide (codeLen = 0), stage := stage, g := NatMap.put 0 (NatMap.put 0 (NatMap.put 0 [] 1 args) 2 g) 3 count }

/-- A cell with the images of a launch loaded and its initial registers (R54 steps 3 and 4). -/
def Cell.load (c : Cell) (l : Launch) (g : Nat) (imgs : List (List Byte)) : Cell :=
  let img (i : Nat) : List Byte := imgs.getD i []
  let templates : NatMap Word := listMap (numbersOf 8 (16 * (lcbTemplates l.lcb).2) (img 4))
  let start (q : Nat) : Seq :=
    Seq.start (img q) (lcbCode l.lcb q) (lcbPool l.lcb q) templates (l.word 3 &&& 0xFFFFFFFFFFFFF) (BitVec.ofNat 64 g) (BitVec.ofNat 64 l.groups)
  let seed := jmix64 l.seed (BitVec.ofNat 64 g)
  { c with
    k := start 0, l := start 1, c := start 2, s := start 3, templates := templates, formats := listMap ((numbersOf 8 (lcbFormats l.lcb).2 (img 5)).map (fun x => (fmtWord (BitVec.ofNat 64 x)).toNat)),
    srseed := seed, vrkey := seed, leasemax := if bits (l.word 12) 7 0 = 0 then 64 else BitVec.ofNat 8 (bits (l.word 12) 7 0) }

/-- A launch that binds a group: pending no more, its age back at 0 (R66); its first bind counts from here (R33, R230). -/
def Launch.binds (l : Launch) (g k cycle : Nat) : Launch :=
  { l with bound := l.bound ++ [(g, k)], next := max l.next (if l.saved.any (fun x => x.group == g) then 0 else g + 1),
           saved := l.saved.filter (fun x => x.group != g), age := 0, ageAt := cycle, firstBind := l.firstBind.or (some cycle),
           ref? := if l.level = 2 then l.ref?.or (some cycle) else none }

/-- The translations cached on the dies of a D2 launch dropped at its first bind (R230). -/
def State.clearTlbs (s : State) (l : Launch) : State :=
  let on (d : Nat) : Bool := l.elig.any (fun k => k / 64 == d)
  { s with cells := s.cells.map (fun (e : Nat × Cell) => (e.1, if on (e.1 / 64) then { e.2 with tlb := [] } else e.2)),
           dieTlb := s.dieTlb.filter (fun e => !on e.1) }

/-- A group bound to a cell (R54): hygiene, stores, images, registers, start; whether the images could be read. -/
def State.bindGroup (s : State) (k : Nat) (l : Launch) (g : Nat) : State × Bool :=
  let s0 := if l.level = 2 && l.firstBind.isNone then s.settleBarriers.clearTlbs l else s.settleBarriers
  let keep := l.keep && decide ((s0.cellAt k).lastStream = some l.stream)
  let s1 := if keep then s0 else s0.zeroStores k
  let s2 := s1.modCell k (fun c => { c.hygiene keep with bound := some ⟨l.key, g, l.level, l.stream⟩, lastStream := some l.stream, chargedAt := s.cycle })
  let s3 := s2.setSlot k { s2.slotAt k with fresh := false, tryAt := none, binds := (s2.slotAt k).binds + 1 }
  let s4 := s3.modLaunch l.key (fun l => l.binds g k s.cycle)
  match s4.loadAll k (lcbRanges l.lcb) with
  | (s5, .error (cause, va)) => (s5.unhandled k ⟨cause, false, allOnes, .K, va⟩, false)
  | (s5, .ok imgs) => (s5.modCell k (fun c => c.load l g imgs), true)

/-- The record of a cell without a group. -/
def State.clearSlot (s : State) (k : Nat) : State := s.setSlot k { binds := (s.slotAt k).binds }

/-- The record of a cell whose bind, save or restore waits for a home that cannot be reached (R19). -/
def State.slotTries (s : State) (k : Nat) : State := s.setSlot k { s.slotAt k with tryAt := (s.slotAt k).tryAt.or (some s.cycle) }

/-- Every record of a launch that waits dropped: its groups stay pending (R59 last row, R64); a pre-emption that the record also orders stays. -/
def State.dropRecords (s : State) (key : Nat) : State :=
  (s.slots.filter (fun r => r.2.fresh && r.2.v && r.2.launch == key)).foldl
    (fun s r => if r.2.pre then s.setSlot r.1 { r.2 with v := false } else s.clearSlot r.1) s

/-- The records of a launch that bind in one cycle: all of a D2 launch's initial groups, in index order (R230), as long as none of them ends the
launch (R54, R56). -/
def State.bindAll (s : State) (l : Launch) : State :=
  (sortBy (fun a b => decide (a.2.group ≤ b.2.group)) (s.slots.filter (fun r => r.2.fresh && r.2.v && r.2.launch == l.key))).foldl
    (fun s r => match s.launch? l.key with
      | none => s
      | some l1 => if l1.status = .running then (s.bindGroup r.1 l1 r.2.group).1 else s.clearSlot r.1) s

/-- Whether every record of a launch that waits names a cell that can take it. -/
def State.recordsFit (s : State) (l : Launch) : Bool :=
  s.slots.all (fun r => !(r.2.fresh && r.2.v && r.2.launch == l.key) || (s.cellFit l.array r.1 && !s.resetting (r.1 / 64)))

/-- BIND (R54, R59, R62, R65). -/
def execBind (s : State) : Out :=
  let k := s.here
  let r := s.slotAt k
  if !r.fresh || !r.v || r.rst || r.pre || (s.cellAt k).bound.isSome then .next s
  else
    match s.launch? r.launch with
    | none => .next (s.clearSlot k)
    | some l =>
      if l.status ≠ .running || !s.recordsFit l then .next (s.dropRecords l.key)
      else if s.rangesTrying k (k / 64) (r.tryAt.getD s.cycle) (lcbRanges l.lcb) then .next (s.slotTries k)
      else if l.level = 2 && l.next = 0 then .next (s.bindAll l).settleBarriers
      else if r.group ≠ l.next then .next s
      else .next (s.bindGroup k l r.group).1.settleBarriers

/-! ### Pre-emption (R59, R260) -/

/-- PRE_EMPTION (R59): the group stops as a trap does; a trap being taken goes first (R248). -/
def execPreEmption (s : State) : Out :=
  let k := s.here
  if (s.slotAt k).fresh && (s.slotAt k).pre && (s.cellAt k).bound.isSome then .next (s.stopForPreempt k) else .next s

/-- Whether nothing of a cell waits in its check slots, and its commands of the collective engines have been taken up. -/
def State.slotsClear (s : State) (k : Nat) (chains : Bool) : Bool :=
  allSeqs.all (fun q => ((s.cellAt k).seq q).slots.isEmpty && s.storesDone k q) &&
  (!chains || !s.engines.any (fun g => g.2.arming.any (fun a => a.poster.cell == k && a.poster.tag.isSome)))

/-- The writes for the scratchpad of a cell that come through the local window of its group (R187, R226). -/
def State.windowIn (k key group : Nat) (w : InWrite) : Bool := inSp w.pa && spCell w.pa == k && w.win == some (key, group)
def State.windowRed (k key group : Nat) (w : RedWrite) : Bool := inSp w.pa && spCell w.pa == k && w.win == some (key, group)

/-- Writes for a group's scratchpad wait while it is not bound (R187, R199, R226). -/
def State.park (s : State) (k key group : Nat) : State :=
  let reds := (s.redHeld ++ s.redWrites).filter (State.windowRed k key group)
  let s1 := (s.redHeld.filter (State.windowRed k key group)).foldl State.unholdRed s
  { s1 with parkedIn := s.parkedIn ++ (s.inWrites.filter (State.windowIn k key group)).map (fun w => (key, group, w)),
            parkedRed := s.parkedRed ++ reds.map (fun w => (key, group, w)),
            inWrites := s.inWrites.filter (fun w => !State.windowIn k key group w),
            redWrites := s.redWrites.filter (fun w => !State.windowRed k key group w), redHeld := s.redHeld.filter (fun w => !State.windowRed k key group w) }

/-- They go on, to the cell that the group is bound to now. -/
def State.unpark (s : State) (k key group : Nat) : State :=
  let mine (x : Nat × Nat) : Bool := x.1 == key && x.2 == group
  let here (pa : Nat) : Nat := spAddr k (spOff pa)
  { s with inWrites := s.inWrites ++ (s.parkedIn.filter (fun x => mine (x.1, x.2.1))).map (fun x => { x.2.2 with pa := here x.2.2.pa }),
           redWrites := s.redWrites ++ (s.parkedRed.filter (fun x => mine (x.1, x.2.1))).map (fun x => { x.2.2 with parts := x.2.2.parts.map (fun p => (here p.1, p.2)) }),
           parkedIn := s.parkedIn.filter (fun x => !mine (x.1, x.2.1)), parkedRed := s.parkedRed.filter (fun x => !mine (x.1, x.2.1)) }

/-- Whether a save may begin (R260): copies stopped, check slots and commit buffer empty, and no write of the group on its way over the mesh to its
scratchpad. -/
def State.maySave (s : State) (k : Nat) : Bool :=
  let b := (s.cellAt k).bound.getD ⟨0, 0, 0, 0⟩
  s.drained k && s.slotsClear k true && (s.cellAt k).cbuf.isEmpty && (s.cellAt k).copies.all (fun c => c.stopped) &&
  !s.inWrites.any (fun w => w.net != 0 && State.windowIn k b.launch b.group w) && !s.redWrites.any (fun w => w.net != 0 && State.windowRed k b.launch b.group w)

/-- The lease given up by a cell, with its requests (R78). -/
def State.dropLease (s : State) (k : Nat) : State :=
  let q := quadOf k
  let s1 := s.modQuad q (fun x => { x with acq := x.acq &&& ~~~ BitVec.ofNat 4 (2 ^ (k % 4)) })
  if (s1.quadAt q).held && (s1.quadAt q).holder.toNat == k % 4 then s1.modQuad q (fun x => { x with held := false }.withdraw (k % 4))
  else s1.modQuad q (fun x => x.withdraw (k % 4))

/-- Whether a read is one of a cell's engines or sequencers. -/
def Owner.ofCell (k : Nat) : Owner → Bool
  | .copy c _ => c == k
  | .tensor c _ => c == k
  | .vector c _ => c == k
  | .words c _ => c == k
  | .fill c _ => c == k
  | _ => false

/-- A cell without its group, and without what it has read of other dies. -/
def State.unbind (s : State) (k : Nat) : State :=
  { s with asks := s.asks.filter (fun a => !a.owner.ofCell k) }.modCell k (fun c => { c with bound := none, stop := none, tin := false, pend := [], remq := [], remBusy := none, joined := none, below := none })

/-- Region and number of the save slot that a record names. -/
def State.slotOwner (s : State) (l : Launch) (slot : Word) : Option (Nat × Nat) :=
  s.regions.findSome? (fun r => (r.slots.find? (fun x => x.2 == l.key && l.saveArea + BitVec.ofNat 64 (x.1 * 0x800000) == slot)).map (fun x => (r.addr, x.1)))

/-- A save slot free again. -/
def State.freeSlotOf (s : State) (l : Launch) (slot : Word) : State :=
  match s.slotOwner l slot with
  | none => s
  | some (a, i) => s.modRegion a (fun r => { r with slots := r.slots.filter (fun x => x.1 != i) })

/-- What the device keeps of a group besides its slot. -/
def State.savedGroup (s : State) (k : Nat) (l : Launch) (g : Nat) (slot : Word) : Saved :=
  let c := s.cellAt k
  let (owner, index) := (s.slotOwner l slot).getD (0, 0)
  { group := g, owner := owner, index := index, ended := allSeqs.map (fun q => (c.seq q).ended), kEnded := c.kWasEnded,
    froms := allSeqs.map (fun q => (c.seq q).from?), joined := c.joined, below := c.below, seen := c.seen, copies := c.copies }

/-- CONSUMED written for a launch's region and its ancestors (R67). -/
def State.writePath (s : State) (a : Nat) : State := ((s.regionPath 8 a).map (fun r => r.addr)).foldl State.writeConsumed s

/-- CONTEXT_SAVE (R260): the context goes to the slot, the lease is released, the group is pending again (R71). -/
def execContextSave (s : State) : Out :=
  let k := s.here
  let r := s.slotAt k
  match (s.cellAt k).bound with
  | none => .next s
  | some b =>
    match s.launch? b.launch with
    | none => .next s
    | some l =>
      if !r.pre || (s.cellAt k).stop ≠ some .preempt || !s.maySave k then .next s
      else
        let parts := s.slotParts k
        let bytes := 0x1000 + partsBytes parts
        match s.writeParts (r.tryAt.getD s.cycle) r.slot ((0, s.slotHeader k l b.group r.reason bytes) :: parts) with
        | none => .next (s.slotTries k)
        | some s1 =>
          let x := s.savedGroup k l b.group r.slot
          let s2 := (({ s1 with free := s1.free + 2 ^ 26 } : State).bboxCell k 0x0C 0 r.slot (BitVec.ofNat 64 bytes)).chargeCell k
          let s3 := ((s2.dropLease k).park k l.key b.group).unbind k
          let back (o : Launch) : Launch :=
            { o with bound := o.bound.filter (fun e => e.1 != b.group), saved := sortBy (fun a b => decide (a.group ≤ b.group)) (o.saved ++ [x]) }
          let s4 := s3.modLaunch l.key (fun o => o.waitsFrom (back o) s.cycle)
          .next (((if r.v then s4.setSlot k { r with pre := false, tryAt := none } else s4.clearSlot k).settleBarriers).settle)

/-! ### Restore (R261) -/

/-- A restore that cannot be made: the group ends as by an unhandled trap (R54, R263). -/
def State.failRestore (s : State) (k : Nat) (cause : BitVec 8) (va : Word) : State := s.unhandled k ⟨cause, false, allOnes, .K, va⟩

/-- A group restored from its slot, on a cell that has just loaded its launch's images. -/
def State.restoreGroup (s : State) (k : Nat) (l : Launch) (x : Saved) (slot : Word) : State :=
  match s.loadAll k (slotMap.map (fun p => (slot + BitVec.ofNat 64 p.1, p.2))) with
  | (s1, .error (cause, va)) => s1.failRestore k cause va
  | (s1, .ok bs) =>
    let p := bs.map wordList
    let h := p.getD 0 []
    if bits (wordAt h 0) 15 0 ≠ 1 || wordAt h 1 ≠ l.lcbAddr then
      ({ s1 with free := s1.free + 2 } : State).failRestore k ((Config.unstated s1.free).truncate 8) (Config.unstated (s1.free + 1))
    else
      let s2 := s1.applySlot k x p
      let valid := ((s2.cellAt k).entries.filter (fun e => e.2.v)).map (fun e => e.1)
      match s2.loadAll k (valid.map (fun i => (slot + BitVec.ofNat 64 (0x480000 + 128 * i), 128))) with
      | (s3, .error (cause, va)) => s3.failRestore k cause va
      | (s3, .ok ls) =>
        let s4 := s3.modCell k (fun c => { c with lines := (valid.zip ls).foldl (fun m y => NatMap.put 0 m y.1 (BitVec.ofNat 1024 (ofLe y.2))) [], badLines := [] })
        let s5 := s4.modCell k (fun c => if c.tin then c else match c.pend with
          | [] => c
          | t :: ts => { c with pend := ts, stop := some (.trap t s.cycle) })
        let s6 := if bit (wordAt h 2) 3 then
            s5.modQuad (quadOf k) (fun q => { q.request (k % 4) with acq := q.acq ||| BitVec.ofNat 4 (2 ^ (k % 4)) })
          else s5
        ((s6.freeSlotOf l slot).unpark k l.key x.group).bboxCell k 0x0C 1 slot (wordAt h 4)

/-- RESTORE (R59, R71, R261). -/
def execRestore (s : State) : Out :=
  let k := s.here
  let r := s.slotAt k
  if !r.fresh || !r.v || !r.rst || r.pre || (s.cellAt k).bound.isSome then .next s
  else
    match s.launch? r.launch with
    | none => .next (s.clearSlot k)
    | some l =>
      match l.saved.find? (fun x => x.group == r.group) with
      | none => .next (s.dropRecords l.key)
      | some x =>
        if l.status ≠ .running || !s.recordsFit l then .next (s.dropRecords l.key)
        else if s.rangesTrying k (k / 64) (r.tryAt.getD s.cycle) (lcbRanges l.lcb ++ slotMap.map (fun p => (r.slot + BitVec.ofNat 64 p.1, p.2))) then .next (s.slotTries k)
        else
          let (s1, ok) := s.bindGroup k l r.group
          .next (if ok then (s1.restoreGroup k l x r.slot).settleBarriers else s1.settleBarriers)

/-! ### The end of a group (R56, R427, R78) -/

/-- Whether everything that a stopped or ended group handed to engines has finished (R56, R258, R427). -/
def State.workOver (s : State) (k : Nat) (running : Bool) : Bool :=
  s.drained k && (s.cellAt k).copies.isEmpty && s.slotsClear k running

/-- Whether the group of a cell is over: every sequencer ended with nothing queued, or stopped for good. -/
def State.groupOver (s : State) (k : Nat) : Bool :=
  let c := s.cellAt k
  match c.stop with
  | none => !c.tin && c.pend.isEmpty && c.remq.isEmpty && c.remBusy.isNone && allSeqs.all (fun q => (c.seq q).ended) && s.workOver k true
  | some .machineCheck => s.workOver k false
  | some .cancelled => s.workOver k false
  | some .faulted => s.workOver k false
  | some _ => false

/-- GROUP_END (R56): the cell is free, the lease released after its last matrix command (R78), CONSUMED is written (R67). -/
def execGroupEnd (s : State) : Out :=
  let k := s.here
  match (s.cellAt k).bound with
  | none => .next s
  | some b =>
    if !s.groupOver k then .next s
    else
      match s.launch? b.launch with
      | none => .next ((s.dropLease k).unbind k).settle
      | some l =>
        let s1 := (s.chargeCell k).writePath l.region
        let r := s1.slotAt k
        let s1' := if r.pre then s1.freeSlotOf l r.slot else s1
        let s2 := if r.v && r.fresh then s1'.setSlot k { r with pre := false, slot := if r.pre then 0 else r.slot } else s1'.clearSlot k
        let s3 := (((s2.dropLease k).park k l.key b.group).unbind k).modLaunch l.key (fun o =>
          { o with bound := o.bound.filter (fun e => e.1 != b.group), ended := o.ended ++ [b.group], lastEnd := s.cycle })
        .next (s3.settleBarriers).settle

/-! ### Leaving service (R84) -/

/-- CELL_LEAVES_SERVICE (R84, R258): a bound group takes a machine check; groups that wait for the cell are re-placed (R64). -/
def execCellLeavesService (s : State) : Out :=
  let k := s.here
  let s1 := if (s.cellAt k).bound.isSome then s.machineCheck k 0x14 0 0 else s
  .next (s1.modCell k (fun c => { c with oos := true })).replaceAll.settle

end Sys2Proof.Machine
end

