-- ==== Sys2Proof/Machine/HashTree.lean ====
section
/-! DEFINITION. The page hash tree (R240 to R242). -/

namespace Sys2Proof.Machine

/-- One level of the tree from the level below (R240). -/
def nodesAbove : List Word → List Word
  | a :: b :: l => jmix64 (jmix64 0 a) b :: nodesAbove l
  | [a] => [jmix64 (jmix64 0 a) 0]
  | [] => []

/-- The levels of a tree from its leaves up to the root. -/
def treeLevels : Nat → List Word → List (List Word)
  | 0, _ => []
  | fuel + 1, l => l :: (if l.length ≤ 1 then [] else treeLevels fuel (nodesAbove l))

/-- A leaf (R240): 0 and an event where the page fails translation; a page that cannot be read has a leaf that the manual does not state. -/
def State.leaf (s : State) (region : Nat) (va : Word) : State × Word :=
  match s.hostXlate va false with
  | .error _ => ((s.noteWalk 1024 va).bbox 16 (bbEvent s.cycle 0x0D 1 0 0 0 0 va (BitVec.ofNat 64 region)), 0)
  | .ok (pa, repl, s1) =>
    let at' := if repl then pa % 2 ^ 36 else pa
    if s1.badRead at' 0x10000 then (s1.logBad 1024 at' 8, Config.unstated (2 ^ 200 + va.toNat))
    else (s1, crc64 crcInit (s1.bytesAt at' 0x10000))

/-- Every leaf of a range. -/
def State.leaves (s : State) (region : Nat) (base : Word) (n : Nat) : State × List Word :=
  (List.range n).foldl (fun (acc : State × List Word) i =>
    let (s1, v) := acc.1.leaf region (base + BitVec.ofNat 64 (0x10000 * i))
    (s1, acc.2 ++ [v])) (s, [])

/-- Words written in device memory, a page that cannot be written left out; none while a commit buffer is full. -/
def State.putWords (s : State) (since : Nat) (va : Word) (l : List Word) : Option State := s.writeParts since va [(0, l)]

/-- Whether a cell still has a write on its way that its group issued (R242). -/
def State.cellWrites (s : State) (k : Nat) : Bool :=
  let c := s.cellAt k
  c.vcmds.any (fun v => !v.addrs.isEmpty) || c.tensors.any (fun t => !t.load) || c.copies.any (fun x => !x.stopped) ||
  (s.quadAt (quadOf k)).cmds.any (fun o => o.cell == k) || !allSeqs.all (fun q => s.storesDone k q)

/-- Whether bytes that an engine moves for a launch are on their way: those of a posted exchange and of a stopped copy among them. -/
def State.moving (s : State) (key : Nat) : Bool :=
  let of (o : Owner) : Bool := s.ownerLaunch o == some key
  s.inWrites.any (fun w => of w.owner) || s.redWrites.any (fun w => of w.owner) || s.redHeld.any (fun w => of w.owner) ||
  s.transfers.any (fun t => of t.owner) || s.cells.any (fun c => c.2.cbuf.any (fun e => of e.2.owner))

/-- Whether every store and engine write of a launch has been performed (R242). -/
def State.writesDone (s : State) (key : Nat) : Bool :=
  (match s.launch? key with
   | none => true
   | some l => l.bound.all (fun e => !s.cellWrites e.2)) &&
  !s.engines.any (fun g => g.2.fired.any (fun e => e.poster.launch == key && e.done.isNone)) && !s.moving key

/-- What of an update ends later than the launch's inputs fix, a late event (R233, R242): KIND 9, of the phase that holds its groups (log entry 174). -/
def State.lateHash (s : State) (h : HashReq) (due : Nat) : State :=
  if h.level ≠ 2 then s
  else s.lateFor h.launch ((((s.launch? h.launch).map (fun l => l.bound.map (fun e => e.2))).getD []).headD 1024) due 9

/-- The update that is made next: in the order of triggers, by launch number where two fall together (R242). -/
def State.nextHash (s : State) : Option HashReq :=
  s.hashReqs.foldl (fun best h => match best with
    | none => some h
    | some b => if h.cycle < b.cycle || (h.cycle = b.cycle && h.num < b.num) then some h else best) none

/-- HASH_TREE_TIMER (R242): every 2^20 cycles from the reference at D2; the trigger that comes later is a late event (R233). -/
def execHashTreeTimer (s : State) : Out :=
  match s.launch? s.site.n with
  | none => .next s
  | some l =>
    match l.ref? with
    | none => .next s
    | some r =>
      let due := r + 2 ^ 20 * (l.ticks + 1)
      if l.level ≠ 2 || bits (l.ht.getD 1 0) 31 0 = 0 || s.cycle < due then .next s
      else .next ((((s.lateFor l.key ((l.bound.map (fun e => e.2)).headD 1024) due 9).modLaunch l.key (fun l => { l with ticks := l.ticks + 1 }))).triggerHash l.key true due)

/-- An update that is done: it leaves the list, the count rises, and its launch goes on unless another update holds it. -/
def State.doneHash (s : State) (h : HashReq) : State :=
  let s1 := ({ s with hashReqs := (dropFirst (fun x => x == h) s.hashReqs).map (fun (x : HashReq) => { x with looked := max x.looked s.cycle }) } : State).modRegion h.region (fun r => { r with updates := r.updates + 1 })
  s1.modLaunch h.launch (fun l => { l with holdHash := s1.hashReqs.any (fun x => x.launch == h.launch) })

/-- The cycles that hashing a range takes: each die hashes the pages homed on it at 512 bytes a cycle (R242). -/
def State.hashTime (s : State) (base : Word) (n : Nat) : Nat :=
  let homes := (List.range n).filterMap (fun i =>
    match s.hostXlate (base + BitVec.ofNat 64 (0x10000 * i)) false with
    | .error _ => none
    | .ok (pa, repl, _) => some (homeDie (if repl then pa % 2 ^ 36 else pa)))
  128 * (homes.map (fun d => homes.count d)).foldl max 0

/-- HASH_TREE_UPDATE (R240 to R242): the leaves, the nodes level by level, the header last. At D2 the wait for the launch's writes is looked at every
cycle, and the groups are held for the time that hashing takes from the cycle at which it is over; a look or an end that comes later is a late event. -/
def execHashTreeUpdate (s : State) : Out :=
  match s.nextHash with
  | none => .next s
  | some h =>
    let base := h.ht.getD 0 0 &&& 0xFFFFFFFFFFFFF
    let n := bits (h.ht.getD 1 0) 31 0
    if !s.writesDone h.launch then .next { s with hashReqs := modFirst (fun x => x == h) (fun x => { x with looked := max x.looked s.cycle }) s.hashReqs }
    else if h.level = 2 && h.ready.isNone then
      let s1 := s.lateHash h (h.looked + 1)
      .next { s1 with hashReqs := modFirst (fun x => x == h) (fun x => { x with ready := some (s.cycle + s.hashTime base n) }) s.hashReqs }
    else if s.cycle < h.ready.getD 0 then .next s
    else
      let nodesAt := h.ht.getD 2 0 &&& 0xFFFFFFFFFFFFF
      let (s1, leaves) := s.leaves h.region base n
      let levels := treeLevels 34 leaves
      let root := (levels.getLast?.getD []).headD 0
      let updates := ((s.region? h.region).map (fun r => r.updates)).getD 0 + 1
      let header := padTo 8 [updates, root, BitVec.ofNat 64 (levels.length + (if h.timer then 32 else 0)), BitVec.ofNat 64 h.num.toNat]
      let since := h.tryAt.getD s.cycle
      match (s1.putWords since (nodesAt + 64) levels.flatten).bind (fun s => s.putWords since nodesAt header) with
      | none => .next { s with hashReqs := modFirst (fun x => x == h) (fun x => { x with tryAt := some since }) s.hashReqs }
      | some s2 => .next ((s2.lateHash h (h.ready.getD s.cycle)).doneHash h).settle

end Sys2Proof.Machine
end

