-- ==== Sys2Proof/Machine/BringUp.lean ====
section
/-! DEFINITION. Power, bring-up and the training of the ports (R23 to R27, R34, R42 kind 2). -/

namespace Sys2Proof.Machine

/-! ### Ports (R23, R27) -/

/-- A port; 32 is the Ustex port. -/
def State.portAt (s : State) (p : Nat) : Port := NatMap.get {} s.ports p

/-- The state with a port replaced. -/
def State.setPort (s : State) (p : Nat) (x : Port) : State := { s with ports := NatMap.put {} s.ports p x }

/-- A port that enters a stage. -/
def State.enter (s : State) (p : Nat) (stage : PortStage) : State := s.setPort p { s.portAt p with stage := stage, since := s.cycle }

/-- A port that begins at LOCK, no lane locked. -/
def State.enterLock (s : State) (p : Nat) : State := s.setPort p { stage := .lock, since := s.cycle }

/-- Every record that no one has acknowledged sent again, once the Ustex port carries frames again (R28). -/
def State.resendRecords (s : State) : State :=
  let again (r : Record) : Record := { r with sentAt := s.cycle }
  { s with portOut := s.portOut ++ ((s.streams.flatMap (fun e => e.2.records)) ++ s.presence.toList).map (fun r => PortOut.record r.words), streams := s.streams.map (fun (e : Nat × Stream) => (e.1, { e.2 with records := e.2.records.map again })), presence := s.presence.map again }

/-- Whether a port has come to an end of its training: it carries traffic, or it has failed a stage and is out of service. -/
def State.portSettled (s : State) (p : Nat) : Bool := decide ((s.portAt p).stage = .active) || decide ((s.portAt p).stage = .waiting)

/-- The byte of an edge in the presence record (R34). -/
def State.edgeByte (s : State) (e : Nat) : Nat := ((List.range 8).filter (s.modUp e)).foldl (fun n m => n + 2 ^ m) 0

/-- The eight payload words of the presence record (R34). -/
def State.presenceWords (s : State) : List Word :=
  let mask (n : Nat) (p : Nat → Bool) : Nat := ((List.range n).filter p).foldl (fun x i => x + 2 ^ i) 0
  [BitVec.ofNat 64 (mask 20 s.dieUp + at_ s.pkgId.toNat 20), BitVec.ofNat 64 (mask 32 s.portUp)] ++
  (List.range 5).map (fun w => BitVec.ofNat 64 (((List.range 8).map (fun i => at_ (s.edgeByte (8 * w + i)) (8 * i))).foldl (· + ·) 0)) ++
  [s.resets.zeroExtend 64]

/-- The package reports itself; a package reset is then done, its RESET without a record (R34, R42). -/
def State.report' (s : State) : State :=
  let r : Record := ⟨0x80, 0, 0, 0, 0, 0, 0, s.presenceWords, s.cycle, false⟩
  let s1 := { s.resetEvent 16 7 with presence := some r, bringUp := 3, portOut := s.portOut ++ [PortOut.record r.words] }
  match s1.running with
  | some q =>
    if q.kind = 2 && q.began then
      (({ s1 with running := none } : State).setStream q.stream { s1.streamAt q.stream with
        pkts := (s1.streamAt q.stream).pkts.filter (fun p => p.serial != q.pkt.serial) }).settle
    else s1
  | none => s1

/-- Steps 6 and 7 of the bring-up as the ports allow (R26): the scale-out ports begin when the Ustex port carries frames; when all have
settled the package reports itself; each step's event (R266) stands in the box of rim die 0 as the step ends (log entry 140). -/
def State.settlePorts (s : State) : State :=
  if s.bringUp = 1 && s.ustexUp then { (List.range 32).foldl State.enterLock (s.resetEvent 16 6) with bringUp := 2 }
  else if s.bringUp = 2 && s.ustexUp && (List.range 32).all s.portSettled then s.report'
  else s

/-- The lanes that a port needs in LOCK: four of the Ustex port, eight of a scale-out port. -/
def lanesOf (p : Nat) : Nat := if p = 32 then 4 else 8

/-- 10 ms, 1 ms and 100 ms in cycles (R27). -/
def lockTime : Nat := 22500000
def confirmTime : Nat := 2250000
def holdoffTime : Nat := 225000000

/-- The timeout of a stage (R27). -/
def stageTime : PortStage → Nat
  | .lock => lockTime
  | .align => lockTime
  | _ => confirmTime

/-- A stage that has failed or timed out: the port returns to LOCK after 100 ms (R27). -/
def State.failPort (s : State) (p : Nat) : State := (s.enter p .waiting).settlePorts

/-- Whether a port is in a stage and its time is not up. -/
def State.inStage (s : State) (p : Nat) (stage : PortStage) : Bool :=
  decide (p ≤ 32) && decide ((s.portAt p).stage = stage) && decide (s.cycle ≤ (s.portAt p).since + stageTime stage)

/-- LANE_LOCK (R27): LOCK passes once every lane that it needs is locked. -/
def execLaneLock (s : State) : Out :=
  let p := s.site.port
  let x := s.portAt p
  if !s.inStage p .lock || lanesOf p ≤ s.site.lane then .next s
  else
    let lanes := if x.lanes.contains s.site.lane then x.lanes else x.lanes ++ [s.site.lane]
    let s1 := s.setPort p { x with lanes := lanes }
    .next (if lanes.length = lanesOf p then s1.enter p .align else s1)

/-- Whether lanes 0 and 1 of the Ustex port are locked: enough at the end of the window (R27); a scale-out port has one rate only (R23). -/
def State.halfRate (s : State) (p : Nat) : Bool := decide (p = 32) && (s.portAt p).lanes.contains 0 && (s.portAt p).lanes.contains 1

/-- LOCK_WINDOW_END (R27). -/
def execLockWindowEnd (s : State) : Out :=
  let p := s.site.port
  if (s.portAt p).stage ≠ .lock || s.cycle < (s.portAt p).since + lockTime then .next s
  else if s.halfRate p then .next ((s.setPort p { s.portAt p with half := true, lanes := [0, 1] }).enter p .align)
  else .next (s.failPort p)

/-- ALIGN_COMPLETE (R27). -/
def execAlignComplete (s : State) : Out := if s.inStage s.site.port .align then .next (s.enter s.site.port .negotiate) else .next s

/-- CAPABILITY_WORD (R27): the sides exchange their words, the device's with its package identifier; a partner without RS(544,514) fails the stage. -/
def execCapabilityWord (s : State) : Out :=
  let p := s.site.port
  if !s.inStage p .negotiate then .next s
  else
    let s1 := { s with portOut := s.portOut ++ [PortOut.capability p s.pkgId] }
    if s.site.yes then .next (s1.enter p .confirm) else .next (s1.failPort p)

/-- CONFIRM_TEST_FRAMES (R27): no uncorrectable codeword, and the port carries frames. -/
def execConfirmTestFrames (s : State) : Out :=
  let p := s.site.port
  if !s.inStage p .confirm then .next s
  else if !s.site.yes then .next (s.failPort p)
  else
    let s1 := s.enter p .active
    .next (if p = 32 then s1.resendRecords else s1).settlePorts

/-- TRAINING_STAGE_TIMEOUT (R27). -/
def execTrainingStageTimeout (s : State) : Out :=
  let p := s.site.port
  let x := s.portAt p
  let late := decide (x.since + stageTime x.stage ≤ s.cycle)
  match x.stage with
  | .lock => if late && !s.halfRate p then .next (s.failPort p) else .next s
  | .align => if late then .next (s.failPort p) else .next s
  | .negotiate => if late then .next (s.failPort p) else .next s
  | .confirm => if late then .next (s.failPort p) else .next s
  | _ => .next s

/-- RETRAIN_HOLDOFF_EXPIRY (R27). -/
def execRetrainHoldoffExpiry (s : State) : Out :=
  let x := s.portAt s.site.port
  if x.stage = .waiting && x.since + holdoffTime ≤ s.cycle then .next (s.enterLock s.site.port) else .next s

/-- LOSS_OF_LOCK (R27, R23): an active port begins again at LOCK; a scale-out port is out of service until it is active again. -/
def execLossOfLock (s : State) : Out :=
  if (s.portAt s.site.port).stage = .active then .next (s.enterLock s.site.port) else .next s

/-! ### Bring-up (R26) -/

/-- Step 3: every link module trains, to the width that the step names; both directions take it. -/
def State.trainLinks (s : State) (env : BringUp) : State :=
  (List.range 320).foldl (fun s i =>
    let e := i / 8
    let m := i % 8
    let w : Nat := ((env.links.find? (fun x => x.1 == (e, m))).map (fun x => x.2.toNat)).getD 3
    (s.setModule e m 1 0).setModule e m (if w == 0 then 0 else 2) w) s

/-- The routes that pairs have once the links have trained (R16): no event, since none has changed. -/
def State.settleRoutes (s : State) : State :=
  allPairs.foldl (fun s p =>
    match s.routeOf p.1 p.2 with
    | none => s.modPair p.1 p.2 (fun x => { x with cut := some s.cycle })
    | some true => s.modPair p.1 p.2 (fun x => { x with colFirst := true })
    | some false => s) s

/-- Steps 2 to 5, and the Ustex port at LOCK for step 6: cores boot, links train, stacks train, pairs synchronise. A die has no path to rim die 0 where
neither of the pair's two routes does, R14's and R16's (DESIGN CHOICE, log entry 166). -/
def State.bootSteps (s : State) (env : BringUp) : State :=
  let booted := (List.range 20).filter (fun d => !env.failedDies.contains d)
  let s1 := booted.foldl (fun s d => s.resetEvent d 2) { s with oosDies := (List.range 20).filter (fun d => env.failedDies.contains d) }
  let s2 := [3, 4, 5].foldl (fun s step => s.resetEvent 16 step) (s1.trainLinks env)
  let lost := booted.filter (fun d => !s2.reaches d 16)
  let lostHbm := (List.range 16).filter (fun d => env.hbmFailed.contains d)
  let s3 := { s2 with oosDies := (List.range 20).filter (fun d => s2.oosDies.contains d || lost.contains d || lostHbm.contains d), pairs := [],
                      pkgId := env.pkgId, bringUp := 1 }
  (if (List.range 40).all s3.edgeUp && s3.oosDies.isEmpty then s3 else s3.settleRoutes).enterLock 32

/-- The quad without what a reset clears: a persistent fault of a path is in the part itself. -/
def Quad.afterReset (q : Quad) : Quad :=
  { mainXor := q.mainXor, mirrXor := q.mirrXor, convMainXor := q.convMainXor, convMirrXor := q.convMirrXor, transient := q.transient }

/-- A package reset from which bring-up runs (R42): what it keeps is the standby domain, the streams' packets and records, and what has
left the package; HBM is undefined (log entry 3). -/
def State.restart (s : State) : State :=
  { (State.reset : State) with
    agenda := s.agenda, site := s.site, free := s.free, hbmGen := s.hbmGen + 1, boxes := s.boxes, powerHold := s.powerHold,
    quads := (s.quads.map (fun e => (e.1, e.2.afterReset))).filter (fun e => e.2 != {}),
    streams := s.streams, serial := s.serial, hostOut := s.hostOut, portOut := s.portOut, eccCount := s.eccCount, netOut := s.netOut, presence := s.presence, pkgId := s.pkgId,
    resets := s.resets + 1, running := s.running.map (fun r => { r with began := true }), pending := s.pending,
    badWords := [] }

/-- Whether a package reset has stopped everything that it has to. -/
def State.quiet (s : State) : Bool :=
  match s.running with
  | none => false
  | some r => r.kind = 2 && !r.began && (List.range 16).all (fun n => s.streamEmpty n r.pkt.serial) && s.boundCells.isEmpty && s.copyhs.isEmpty

/-- POWER_ON (R26, R24): power-on begins at step 1, a package reset at step 2; neither leaves reset while the coolant is out of range. Step 1's event
stands alone where it fails: the cause that BBOXREAD finds, for which the Ustex port trains (R41; log entry 140). -/
def execPowerOn (s : State) : Out :=
  if s.quiet && s.bringUp ≠ 0 then .next (if s.site.env.coolantOk then s.restart.bootSteps s.site.env else s)
  else if s.bringUp ≠ 0 then .next s
  else
    let s1 := s.resetEvent 16 1
    if s.site.env.railsOk && s.site.env.coolantOk then .next (s1.bootSteps s.site.env) else .next (s1.enterLock 32)

/-! ### Power and temperature (R24, R25) -/

/-- POWER_LIMIT_EXCEEDED (R24): above 10,000 W for more than 1 ms, no new group is dispatched. -/
def execPowerLimitExceeded (s : State) : Out := .next { s with powerHold := true }

/-- POWER_BELOW_LIMIT (R24). -/
def execPowerBelowLimit (s : State) : Out := .next { s with powerHold := false }

/-- The cells of the package. -/
def allCells : List Nat := (List.range 16).flatMap (fun d => (List.range 56).map (cellKey d))

/-- POWER_EMERGENCY (R24, R258): a machine check on every cell, every box frozen. Site: n watts, word the temperature, die. -/
def execPowerEmergency (s : State) : Out :=
  let s1 := s.bbox 16 (bbEvent s.cycle 0x0E 0 0 0 0 0 (BitVec.ofNat 64 s.site.n) s.site.word)
  let s2 := (allCells.filter s1.cellUp).foldl (fun s k => s.machineCheck k 0 0 0) s1
  .next ((List.range 20).foldl State.freeze s2).settle

/-- STANDBY_POWER_LOSS (R25, R267): the boxes are lost. -/
def execStandbyPowerLoss (s : State) : Out := .next { s with boxes := [] }

end Sys2Proof.Machine
end

