-- ==== Sys2Proof/Machine/Rlc.lean ====
section
/-! DEFINITION. The refinement loop controller (R400 to R407). -/

namespace Sys2Proof.Machine

/-! ### The RLC block (R400) -/

/-- A field of a captured block. -/
def Rlc.fld (r : Rlc) (w hi lo : Nat) : Nat := bits (r.copyWord w) hi lo

/-- A rung of the ladder. -/
def Rlc.rung (r : Rlc) (i : Nat) : BitVec 6 := BitVec.ofNat 6 (r.fld 3 (8 * i + 5) (8 * i))

/-- The checks of a block (R403), with the number of words that K's code has. -/
def rlcBad (s : State) (codeLen : Nat) (w : Nat → Word) : Bool :=
  let nan (i : Nat) : Bool := (fp64.decode (w i).toNat).isNan
  bits (w 0) 63 14 != 0 || bits (w 1) 63 14 != 0 || bits (w 2) 63 14 != 0 || (w 3 &&& ~~~ (0x37_3F3F_3F3F : Word)) != 0 ||
  bits (w 8) 31 16 != 0 || bits (w 9) 63 20 != 0 || bits (w 10) 63 52 != 0 || bits (w 13) 63 22 != 0 ||
  (List.range 18).any (fun i => w (14 + i) != 0) ||
  bits (w 3) 34 32 == 0 || decide (4 < bits (w 3) 34 32) || decide (bits (w 3) 34 32 ≤ bits (w 3) 37 36) || bits (w 8) 63 32 == 0 ||
  (List.range 4).any (fun i => bits (w 13) (2 * i + 1) (2 * i) == 3) ||
  (if bit (w 9) 0 then bits (w 10) 2 0 != 0 || !s.cidUp (bits (w 9) 19 6) else bits (w 9) 5 1 == 0 || decide (23 < bits (w 9) 5 1)) ||
  nan 4 || nan 5 || nan 6 || nan 7 ||
  (List.range 3).any (fun i => decide (codeLen ≤ bits (w i) 13 0))

/-- Changes the controller. -/
def modRlc (f : Rlc → Rlc) : M Unit := modCur (fun c => { c with rlc := f c.rlc })

/-- `rlstart` and `rlstep` raise ILLEGAL_OP in a handler and covered by a `pred`, which does not skip them (R402). -/
def notInHandler : M Unit := do
  let s ← get
  if s.cur.tin || s.curSeq.pb.rem != 0 then raise tcIllegalOp 0 else pure ()

/-- `rlstart` (R403). -/
def execRlstart (t : BitVec 4) (a : BitVec 5) : State → Out :=
  issue { t := t, skips := false, who := [.K], checks := do checkSrc a; notInHandler } (do
    let ea ← readReg a
    let s ← get
    if s.cur.rlc.st ≠ 0 || s.cur.rlc.held then raise tcIllegalOp 0
    else if ea.toNat % 64 ≠ 0 then raise tcMisaligned ea
    else do
      let ws ← readWords ea 32
      wordsRead
      let w (i : Nat) : Word := ws.getD i 0
      if rlcBad s s.curSeq.codeLen w then raise tcRlcExit 0x20
      else do
        let copy := (List.range 32).foldl (fun m i => NatMap.put 0 m i (w i)) []
        let r : Rlc := { st := 1, block := ea, copy := copy, level := BitVec.ofNat 2 (bits (w 3) 37 36) }
        modCur (fun c => { c with rlc := r, fmtbase := r.rung r.level.toNat })
        pure (.branch (BitVec.ofNat 64 (bits (w 0) 13 0))))

/-! ### The norm test (R405) -/

/-- Whether a value is greater than another: an exact comparison, false with a NaN. -/
def Val.gt (a b : Val) : Bool := b.lt a

/-- What the norm test decides: the next iteration, or an exit with its code and its action. -/
inductive NormEnd where
  | next
  | leave (code action : Nat)
deriving DecidableEq, Repr

/-- The controller after a norm, and what the test decides (R405). RHODIV = +∞ disables divergence by size (R400). -/
def Rlc.norm1 (r : Rlc) (nu : Word) : Rlc × NormEnd :=
  let v (x : Word) : Val := fp64.decode x.toNat
  let first := r.total == 0
  let r1 := { r with prev := r.norm, norm := nu, norm0 := if first then nu else r.norm0, iter := r.iter + 1, total := r.total + 1 }
  let slow := (v nu).gt ((v (r.copyWord 6)).mul (v r1.prev))
  let r2 := { r1 with stagc := if r1.total.toNat ≤ 1 then r1.stagc else if slow then r1.stagc + 1 else 0 }
  let act (i : Nat) : Nat := r.fld 13 (2 * i + 1) (2 * i)
  let mstag := r.fld 8 15 0
  let tol := (v (r.copyWord 4)).mul (v (r.copyWord 5))
  let div := (v (r.copyWord 7)) != Val.inf false && (v nu).gt ((v (r.copyWord 7)).mul (v r2.norm0))
  (r2,
   if (v nu).isNan || (v nu).isInf || div then .leave 3 (act 2)
   else if (v nu).lt tol || (v nu).eq tol then .leave 1 (act 0)
   else if mstag ≠ 0 && mstag ≤ r2.stagc.toNat then .leave 2 (act 1)
   else if r2.iter.toNat = r.fld 8 63 32 then .leave 4 (act 3)
   else .next)

/-- Whether a wider rung is left. -/
def Rlc.canEscalate (r : Rlc) : Bool := decide (r.level.toNat + 1 < r.fld 3 34 32)

/-- The controller one rung up, its iterations counted afresh (R405). -/
def Rlc.escalate (r : Rlc) : Rlc := { r with level := r.level + 1, iter := 0, stagc := 0, st := 1, held := false }

/-- A cell whose controller goes one rung up, FMTBASE with it. -/
def Cell.escalate (c : Cell) : Cell := { c with rlc := c.rlc.escalate, fmtbase := c.rlc.rung (c.rlc.level.toNat + 1) }

/-- The word index where a step begins. -/
def Rlc.stepAt (r : Rlc) (i : Nat) : Word := BitVec.ofNat 64 (r.fld i 13 0)

/-- Where RETURN continues. -/
def Rlc.retPc (r : Rlc) : Word := BitVec.ofNat 64 (r.fld 13 21 8)

/-- Whether the cell is stopping for something that a trap of K raised now does not replace (R247, R248). -/
def State.stopsOthers (s : State) : Bool :=
  match s.cur.stop with
  | none => false
  | some (.trap t since) => !(decide (since = s.cycle) && !t.defer && decide (0 < t.seq.num))
  | some _ => true

/-- An exit of the loop (R405); a TRAP is raised after the `rlstep` has retired, with RPCK = RETPC; while another stop is under way it has no effect
and the `rlstep` runs again (R247). -/
def rlcLeave (code action : Nat) : M Flow := do
  let s ← get
  let r := s.cur.rlc
  if action = 2 && r.canEscalate then do
    modCur Cell.escalate
    pure (.branch (r.stepAt 0))
  else if action = 0 then do
    modRlc (fun r => { r with exit := BitVec.ofNat 8 code, st := 0 })
    pure (.branch r.retPc)
  else if s.stopsOthers then holdWith (fun s => s.precise tcRlcExit 0)
  else do
    let e : BitVec 8 := BitVec.ofNat 8 (if action = 2 then code + 8 else code)
    modRlc (fun r => { r with exit := e, st := 0, held := true })
    modify (fun s => s.precise tcRlcExit (e.zeroExtend 64))
    pure (.branch r.retPc)

/-- The norm that `rlstep` obtains in STATE 3 (R404), from a register or by an `ldacq`, and whether its source was lost. -/
def rlcNorm : M (Word × Bool) := do
  let s ← get
  let r := s.cur.rlc
  if r.fld 9 0 0 = 0 then
    (if s.awaitsStore (r.fld 9 5 1) then stallNow else pure (s.curSeq.greg (r.fld 9 5 1), false))
  else do
    let thr := r.copyWord 11 + (r.total.zeroExtend 64) * r.copyWord 12
    let lost ← if s.curSeq.access.isNone then waitCounter (r.fld 9 19 6) thr else pure false
    if lost then pure (0x7FF8000000000000, true)
    else do
      let ea := r.copyWord 10
      let (pa, repl) ← xlate ea false
      let s ← get
      if s.forwards pa 8 then stallNow
      else do
        let v ← loadValue ea 8 pa repl
        pure (v, false)

/-- `rlstep` (R404). -/
def execRlstep (t : BitVec 4) : State → Out :=
  issue { t := t, skips := false, who := [.K], checks := notInHandler } (do
    let s ← get
    let r := s.cur.rlc
    match r.st.toNat with
    | 0 => raise tcIllegalOp 0
    | 1 => do
      modRlc (fun r => { r with st := 2 })
      pure (.branch (r.stepAt 1))
    | 2 => do
      modRlc (fun r => { r with st := 3 })
      pure (.branch (r.stepAt 2))
    | _ => do
      let (nu, lost) ← rlcNorm
      let (r1, e) := r.norm1 nu
      modRlc (fun _ => r1)
      match e with
      | .next => do
        modRlc (fun r => { r with st := 1 })
        pure (.branch (r.stepAt 0))
      | .leave code action => rlcLeave (if lost then code + 16 else code) action)

/-- The word of `rlstat` (R406). -/
def Rlc.statWord (r : Rlc) : Word :=
  BitVec.ofNat 64 (r.exit.toNat + at_ r.st.toNat 8 + (if r.held then 2 ^ 10 else 0) + at_ r.level.toNat 11 + at_ r.iter.toNat 32)

/-- `rlstat` (R406). -/
def execRlstat (t : BitVec 4) (d : BitVec 5) : State → Out :=
  issue { t := t, who := [.K], checks := checkDst d } (do
    let s ← get
    writeReg d s.cur.rlc.statWord
    pure .seq)

/-- `rlesc` (R406). -/
def execRlesc (t : BitVec 4) (d : BitVec 5) : State → Out :=
  issue { t := t, who := [.K], checks := checkDst d } (do
    let s ← get
    let r := s.cur.rlc
    if (r.st ≠ 0 || r.held) && r.canEscalate then do
      modCur Cell.escalate
      writeReg d (r.stepAt 0)
    else writeReg d allOnes
    pure .seq)

/-- `rlabort` (R406). -/
def execRlabort (t : BitVec 4) : State → Out :=
  issue { t := t, who := [.K] } (do
    modRlc (fun r => if r.st ≠ 0 then { r with exit := 5, st := 0 } else { r with held := false })
    pure .seq)

end Sys2Proof.Machine
end

