-- ==== Sys2Proof/Machine/Scalar.lean ====
section
/-! DEFINITION. The scalar, control, queue, token and system instructions (chapter 13, R295 to R320). -/

namespace Sys2Proof.Machine

/-! ### Integer functions (R298) -/

/-- The shift amount y and 63. -/
def shamt (y : Word) : Nat := y.toNat % 64

/-- The high word of the signed product. -/
def mulHigh (x y : Word) : Word := BitVec.ofInt 64 (x.toInt * y.toInt / 2 ^ 64)

/-- The high word of the unsigned product. -/
def mulHighZ (x y : Word) : Word := BitVec.ofNat 64 (x.toNat * y.toNat / 2 ^ 64)

/-- The number of leading zero bits. -/
def countLead (x : Word) : Word := if x = 0 then 64 else BitVec.ofNat 64 (63 - x.toNat.log2)

/-- The number of trailing zero bits. -/
def countTrail (x : Word) : Word := if x = 0 then 64 else BitVec.ofNat 64 (x &&& -x).toNat.log2

/-- The number of one bits. -/
def countOnes (x : Word) : Word := BitVec.ofNat 64 ((List.range 64).countP x.getLsbD)

/-- The bytes in reverse order. -/
def byteSwap (x : Word) : Word := BitVec.ofNat 64 (ofLe (leBytes 8 x.toNat).reverse)

/-- `bfx` (R300): position and length come from y. -/
def bitExtract (x y : Word) : Word :=
  let len := y.toNat / 64 % 64 + 1
  let f := x.toNat / 2 ^ (y.toNat % 64) % 2 ^ len
  if y.getLsbD 12 then sx f len else BitVec.ofNat 64 f

/-- `bfi` (R300): the field of x placed into old. -/
def bitInsert (x y old : Word) : Word :=
  let m : Word := BitVec.ofNat 64 (2 ^ (y.toNat / 64 % 64 + 1) - 1) <<< (y.toNat % 64)
  (old &&& ~~~m) ||| ((x <<< (y.toNat % 64)) &&& m)

/-- Division by zero raises DIV_ZERO (R299). -/
def divide (f : Word → Word → Word) (x y : Word) : M Word := if y = 0 then raise tcDivZero 0 else pure (f x y)

/-- The sign-extended 12-bit immediate. -/
def imm12 (i : BitVec 12) : Word := i.signExtend 64

/-- `add` (R298). -/
def execAdd (t : BitVec 4) (d a b : BitVec 5) : State → Out :=
  twoSource t d a b (fun x y => pure (x + y))

/-- `sub` (R298). -/
def execSub (t : BitVec 4) (d a b : BitVec 5) : State → Out :=
  twoSource t d a b (fun x y => pure (x - y))

/-- `and` (R298). -/
def execAnd (t : BitVec 4) (d a b : BitVec 5) : State → Out :=
  twoSource t d a b (fun x y => pure (x &&& y))

/-- `or` (R298). -/
def execOr (t : BitVec 4) (d a b : BitVec 5) : State → Out :=
  twoSource t d a b (fun x y => pure (x ||| y))

/-- `xor` (R298). -/
def execXor (t : BitVec 4) (d a b : BitVec 5) : State → Out :=
  twoSource t d a b (fun x y => pure (x ^^^ y))

/-- `andn` (R298). -/
def execAndn (t : BitVec 4) (d a b : BitVec 5) : State → Out :=
  twoSource t d a b (fun x y => pure (x &&& ~~~y))

/-- `sll` (R298). -/
def execSll (t : BitVec 4) (d a b : BitVec 5) : State → Out :=
  twoSource t d a b (fun x y => pure (x <<< shamt y))

/-- `srl` (R298). -/
def execSrl (t : BitVec 4) (d a b : BitVec 5) : State → Out :=
  twoSource t d a b (fun x y => pure (x >>> shamt y))

/-- `sra` (R298). -/
def execSra (t : BitVec 4) (d a b : BitVec 5) : State → Out :=
  twoSource t d a b (fun x y => pure (x.sshiftRight (shamt y)))

/-- `rol` (R298). -/
def execRol (t : BitVec 4) (d a b : BitVec 5) : State → Out :=
  twoSource t d a b (fun x y => pure (x.rotateLeft (shamt y)))

/-- `mul` (R298). -/
def execMul (t : BitVec 4) (d a b : BitVec 5) : State → Out :=
  twoSource t d a b (fun x y => pure (x * y))

/-- `mulh` (R298). -/
def execMulh (t : BitVec 4) (d a b : BitVec 5) : State → Out :=
  twoSource t d a b (fun x y => pure (mulHigh x y))

/-- `mulhz` (R298). -/
def execMulhz (t : BitVec 4) (d a b : BitVec 5) : State → Out :=
  twoSource t d a b (fun x y => pure (mulHighZ x y))

/-- `min` (R298). -/
def execMin (t : BitVec 4) (d a b : BitVec 5) : State → Out :=
  twoSource t d a b (fun x y => pure (if x.slt y then x else y))

/-- `max` (R298). -/
def execMax (t : BitVec 4) (d a b : BitVec 5) : State → Out :=
  twoSource t d a b (fun x y => pure (if x.slt y then y else x))

/-- `minz` (R298). -/
def execMinz (t : BitVec 4) (d a b : BitVec 5) : State → Out :=
  twoSource t d a b (fun x y => pure (if x.ult y then x else y))

/-- `maxz` (R298). -/
def execMaxz (t : BitVec 4) (d a b : BitVec 5) : State → Out :=
  twoSource t d a b (fun x y => pure (if x.ult y then y else x))

/-- `mix` (R298). -/
def execMix (t : BitVec 4) (d a b : BitVec 5) : State → Out :=
  twoSource t d a b (fun x y => pure (jmix64 x y))

/-- `bfx` (R300). -/
def execBfx (t : BitVec 4) (d a b : BitVec 5) : State → Out :=
  twoSource t d a b (fun x y => pure (bitExtract x y))

/-- `div` (R299). -/
def execDiv (t : BitVec 4) (d a b : BitVec 5) : State → Out :=
  twoSource t d a b (divide (fun x y => x.sdiv y))

/-- `divz` (R299). -/
def execDivz (t : BitVec 4) (d a b : BitVec 5) : State → Out :=
  twoSource t d a b (divide (fun x y => x / y))

/-- `rem` (R299). -/
def execRem (t : BitVec 4) (d a b : BitVec 5) : State → Out :=
  twoSource t d a b (divide (fun x y => x.srem y))

/-- `remz` (R299). -/
def execRemz (t : BitVec 4) (d a b : BitVec 5) : State → Out :=
  twoSource t d a b (divide (fun x y => x % y))

/-- `clz` (R298). -/
def execClz (t : BitVec 4) (d a : BitVec 5) : State → Out :=
  oneSource t d a countLead

/-- `ctz` (R298). -/
def execCtz (t : BitVec 4) (d a : BitVec 5) : State → Out :=
  oneSource t d a countTrail

/-- `popc` (R298). -/
def execPopc (t : BitVec 4) (d a : BitVec 5) : State → Out :=
  oneSource t d a countOnes

/-- `bswap` (R298). -/
def execBswap (t : BitVec 4) (d a : BitVec 5) : State → Out :=
  oneSource t d a byteSwap

/-- `addi` (R301). -/
def execAddi (t : BitVec 4) (d a : BitVec 5) (i : BitVec 12) : State → Out :=
  oneSource t d a (fun x => x + imm12 i)

/-- `andi` (R301). -/
def execAndi (t : BitVec 4) (d a : BitVec 5) (i : BitVec 12) : State → Out :=
  oneSource t d a (fun x => x &&& imm12 i)

/-- `ori` (R301). -/
def execOri (t : BitVec 4) (d a : BitVec 5) (i : BitVec 12) : State → Out :=
  oneSource t d a (fun x => x ||| imm12 i)

/-- `xori` (R301). -/
def execXori (t : BitVec 4) (d a : BitVec 5) (i : BitVec 12) : State → Out :=
  oneSource t d a (fun x => x ^^^ imm12 i)

/-- `slli` (R301). -/
def execSlli (t : BitVec 4) (d a : BitVec 5) (n : BitVec 6) : State → Out :=
  oneSource t d a (fun x => x <<< n.toNat)

/-- `srli` (R301). -/
def execSrli (t : BitVec 4) (d a : BitVec 5) (n : BitVec 6) : State → Out :=
  oneSource t d a (fun x => x >>> n.toNat)

/-- `srai` (R301). -/
def execSrai (t : BitVec 4) (d a : BitVec 5) (n : BitVec 6) : State → Out :=
  oneSource t d a (fun x => x.sshiftRight n.toNat)

/-- `roli` (R301). -/
def execRoli (t : BitVec 4) (d a : BitVec 5) (n : BitVec 6) : State → Out :=
  oneSource t d a (fun x => x.rotateLeft n.toNat)

/-- `bfi` (R300, R295): d is read after a and b, and names no port. -/
def execBfi (t : BitVec 4) (d a b : BitVec 5) : State → Out :=
  issue { t := t, checks := do checkNoPort d; checkSrc a; checkSrc b } (do
    let x ← readReg a
    let y ← readReg b
    let old ← readReg d
    writeReg d (bitInsert x y old)
    pure .seq)

/-- `pcmp` (R304). -/
def execPcmp (t : BitVec 4) (d a b : BitVec 5) (c : BitVec 3) : State → Out :=
  issue { t := t, checks := do checkPredDst d; checkSrc a; checkSrc b } (do
    let x ← readReg a
    let y ← readReg b
    writePred d.toNat (condHolds c x y)
    pure .seq)

/-- `pcmpi` (R304): compares with sx(imm11, 11); p0 as destination raises ILLEGAL_REG. -/
def execPcmpi (t : BitVec 4) (p c : BitVec 3) (a : BitVec 5) (i : BitVec 11) : State → Out :=
  issue { t := t, checks := do checkPredDst (p.zeroExtend 5); checkSrc a } (do
    let x ← readReg a
    writePred p.toNat (condHolds c x (i.signExtend 64))
    pure .seq)

/-- `li` (R302). -/
def execLi (t : BitVec 4) (d : BitVec 5) (i : BitVec 17) : State → Out := noSource t d (pure (i.signExtend 64))

/-- `lis` (R302, R295): reads and writes d. -/
def execLis (t : BitVec 4) (d : BitVec 5) (i : BitVec 17) : State → Out :=
  issue { t := t, checks := checkNoPort d } (do
    let x ← readReg d
    writeReg d ((x <<< 17) ||| i.zeroExtend 64)
    pure .seq)

/-- `ldc` (R303): an index at or above CONSTLEN raises LOAD_FAULT. -/
def execLdc (t : BitVec 4) (d : BitVec 5) (i : BitVec 12) : State → Out :=
  noSource t d (do
    let s ← get
    if s.curSeq.constLen ≤ i.toNat then raise tcLoad (i.zeroExtend 64) else pure (NatMap.get 0 s.curSeq.pool i.toNat))

/-- `pred` (R307): the next n + 1 instructions become a predicate block. -/
def execPred (t : BitVec 4) (p n : BitVec 3) (pat : BitVec 8) : State → Out :=
  issue { t := t, cover := false } (do
    let v ← readPred p.toNat
    modSq (fun x => { x with pc := x.pc + 1, from? := none, pb := ⟨n.toNat + 1, v, pat⟩ })
    pure .keep)

/-- The target of a B-format branch (R270). -/
def branchTo (i : BitVec 17) : M Flow := do
  let s ← get
  pure (.branch (s.curSeq.pc + i.signExtend 64))

/-- `bt` (R309). -/
def execBt (t : BitVec 4) (p : BitVec 3) (i : BitVec 17) : State → Out :=
  issue { t := t, cover := false } (do
    let v ← readPred p.toNat
    if v then branchTo i else pure .seq)

/-- `bf` (R309). -/
def execBf (t : BitVec 4) (p : BitVec 3) (i : BitVec 17) : State → Out :=
  issue { t := t, cover := false } (do
    let v ← readPred p.toNat
    if v then pure .seq else branchTo i)

/-- `jmp` (R309). -/
def execJmp (t : BitVec 4) (i : BitVec 17) : State → Out := issue { t := t, cover := false } (branchTo i)

/-- `call` (R309): the link is the next word index; a link field of 24 to 31 raises ILLEGAL_REG. -/
def execCall (t : BitVec 4) (a : BitVec 5) (i : BitVec 17) : State → Out :=
  issue { t := t, cover := false, checks := checkNoPort a } (do
    let s ← get
    writeReg a (s.curSeq.pc + 1)
    branchTo i)

/-- `jr` (R310): the target is computed before d is written. -/
def execJr (t : BitVec 4) (d a : BitVec 5) (i : BitVec 12) : State → Out :=
  issue { t := t, cover := false, checks := do checkNoPort d; checkSrc a } (do
    let x ← readReg a
    let s ← get
    writeReg d (s.curSeq.pc + 1)
    pure (.branch (x + imm12 i)))

/-- `loop` (R311). -/
def execLoop (t : BitVec 4) (n : BitVec 2) (a : BitVec 5) (i : BitVec 12) : State → Out :=
  issue { t := t, cover := false, checks := checkSrc a } (do
    let x ← readReg a
    modSq (fun z => z.setLoop n.toNat ((x + imm12 i).truncate 32))
    pure .seq)

/-- The counted branch of R312; `rot` says what a taken one also does. -/
def loopBranch (n : BitVec 2) (i : BitVec 17) (rot : M Unit) : M Flow := do
  let s ← get
  let v := s.curSeq.loopCnt n.toNat
  if 1 < v.toNat then do
    modSq (fun z => z.setLoop n.toNat (v - 1))
    rot
    branchTo i
  else do
    modSq (fun z => z.setLoop n.toNat 0)
    pure .seq

/-- Rotation of rows and masks (R97, R312). -/
def rotateRegs : M Unit := modCur (fun c => { c with vrb := c.vrb + 254, mrb := c.mrb + 7 })

/-- `bloop` (R312). -/
def execBloop (t : BitVec 4) (n : BitVec 2) (i : BitVec 17) : State → Out :=
  issue { t := t, cover := false } (loopBranch n i (pure ()))

/-- `bloop.rot` (R312): C only, and a taken one rotates. -/
def execBloopRot (t : BitVec 4) (n : BitVec 2) (i : BitVec 17) : State → Out :=
  issue { t := t, cover := false, who := [.C] } (loopBranch n i rotateRegs)

/-- A queue number that the sequencer may name (R314): its producer too when `prod`. -/
def checkQueue (a : BitVec 5) (prod : Bool) : M Unit := do
  let s ← get
  match portOf a with
  | none => raise tcIllegalReg (regVal a)
  | some n =>
    if (queueEnds n).2 = s.site.seq || (prod && decide ((queueEnds n).1 = s.site.seq)) then pure () else raise tcIllegalReg (regVal a)

/-- A counter number that the sequencer may name (R314, R273). -/
def checkToken (a : BitVec 5) (prod cons : Bool) : M Unit := do
  let s ← get
  if a.toNat < 8 && ((prod && decide ((tokenEnds a.toNat).1 = s.site.seq)) || (cons && decide ((tokenEnds a.toNat).2 = s.site.seq))) then pure ()
  else raise tcIllegalReg (regVal a)

/-- `qlen` (R314). -/
def execQlen (t : BitVec 4) (d a : BitVec 5) : State → Out :=
  issue { t := t, checks := do checkDst d; checkQueue a true } (do
    let s ← get
    let n := a.toNat - 24
    let own := if (queueEnds n).2 = s.site.seq then 0 else s.cur.pushesInSlots n
    writeReg d (BitVec.ofNat 64 ((s.cur.queue n).length + own))
    pure .seq)

/-- `qpeek` (R314): blocks while the queue is empty. -/
def execQpeek (t : BitVec 4) (d a : BitVec 5) : State → Out :=
  issue { t := t, checks := do checkDst d; checkQueue a false } (do
    let s ← get
    match s.cur.queue (a.toNat - 24) with
    | [] => waitFor 5 (a.toNat - 24)
    | v :: _ => do
      writeReg d v
      pure .seq)

/-- `tokcnt` (R314): the consumer sees the value, the producer value and reservations. -/
def execTokcnt (t : BitVec 4) (d a : BitVec 5) : State → Out :=
  issue { t := t, checks := do checkDst d; checkToken a true true } (do
    let s ← get
    let own := if (tokenEnds a.toNat).2 = s.site.seq then 0 else s.cur.tokRsv a.toNat
    writeReg d (BitVec.ofNat 64 (s.cur.tokVal a.toNat + own))
    pure .seq)

/-- `tokadd` (R314): one signal, and the value at issue. -/
def execTokadd (t : BitVec 4) (d a : BitVec 5) : State → Out :=
  issue { t := t, checks := do checkDst d; checkToken a true false } (do
    let s ← get
    signalToken a.toNat
    writeReg d (BitVec.ofNat 64 (s.cur.tokVal a.toNat))
    pure .seq)

/-- `tokwait` (R314): one wait, and the value at issue. -/
def execTokwait (t : BitVec 4) (d a : BitVec 5) : State → Out :=
  issue { t := t, checks := do checkDst d; checkToken a false true } (do
    let s ← get
    takeToken a.toNat
    writeReg d (BitVec.ofNat 64 (s.cur.tokVal a.toNat))
    pure .seq)

/-! ### Predicates and select (R305, R306) -/

/-- A `pcomb` form of two predicates. -/
def predTwo (t : BitVec 4) (d a b : BitVec 5) (f : Bool → Bool → Bool) : State → Out :=
  issue { t := t, checks := do checkPredDst d; checkPred a; checkPred b } (do
    let x ← readPred a.toNat
    let y ← readPred b.toNat
    writePred d.toNat (f x y)
    pure .seq)

/-- A `pcomb` form of one predicate. -/
def predOne (t : BitVec 4) (d a : BitVec 5) (f : Bool → Bool) : State → Out :=
  issue { t := t, checks := do checkPredDst d; checkPred a } (do
    let x ← readPred a.toNat
    writePred d.toNat (f x)
    pure .seq)

/-- `pand` (R305). -/
def execPand (t : BitVec 4) (d a b : BitVec 5) : State → Out := predTwo t d a b (fun x y => x && y)

/-- `por` (R305). -/
def execPor (t : BitVec 4) (d a b : BitVec 5) : State → Out := predTwo t d a b (fun x y => x || y)

/-- `pxor` (R305). -/
def execPxor (t : BitVec 4) (d a b : BitVec 5) : State → Out := predTwo t d a b (fun x y => x != y)

/-- `pnot` (R305). -/
def execPnot (t : BitVec 4) (d a : BitVec 5) : State → Out := predOne t d a (fun x => !x)

/-- `pmov` (R305). -/
def execPmov (t : BitVec 4) (d a : BitVec 5) : State → Out := predOne t d a (fun x => x)

/-- `csel` (R306): both sources are read. -/
def execCsel (t : BitVec 4) (d a b : BitVec 5) (p : BitVec 3) : State → Out :=
  twoSource t d a b (fun x y => do
    let v ← readPred p.toNat
    pure (if v then x else y))

/-! ### System forms (R315 to R319) -/

/-- `nop`: its token bits only (R315). -/
def execNop (t : BitVec 4) : State → Out := issue { t := t } (pure .seq)

/-- The sequencers, stopped copies and pending traps of a group that `end` in a handler ends (R251): of the copies, those that the trap stops. -/
def endGroup (c : Cell) : Cell :=
  let fin (x : Seq) : Seq := { x with ended := true, blocked := none }
  { c with copies := c.copies.map (fun x => if x.handler then x else { x with cancelled := true }), k := fin c.k, l := fin c.l, c := fin c.c, s := fin c.s, pend := [], tin := false }

/-- `end` (R316): the sequencer stops; in a handler it ends the whole group. -/
def execEndInsn (t : BitVec 4) : State → Out :=
  issue { t := t } (do
    let s ← get
    if s.cur.tin then modCur endGroup else modSq (fun x => { x with ended := true })
    pure .seq)

/-- `resume` (R251, R318): PRIV outside a handler; its tokens act before the sequencers restart. -/
def execResume (t : BitVec 4) : State → Out :=
  issue { t := t, who := [.K], signal := false } (do
    let s ← get
    if !s.cur.tin then raise tcPriv 0
    else do
      eachM signalToken (signalsOf t .K)
      modify (fun s => s.resumeFrom s.here)
      pure .keep)

/-- `yield` (R318, R72): the group's own pre-emption where R69 allows it, otherwise nothing. -/
def execYield (t : BitVec 4) : State → Out :=
  issue { t := t, who := [.K] } (do
    let s ← get
    match s.preemptSlot s.here with
    | none => pure .seq
    | some (l, r, i) => do
      set ((s.orderPreempt s.here l r i 2).stopForPreempt s.here)
      pure .seq)

/-- `cycle` (R315). -/
def execCycle (t : BitVec 4) (d : BitVec 5) : State → Out :=
  noSource t d (do
    let s ← get
    pure (BitVec.ofNat 64 s.cycle))

/-- `bbox` (R315): word 0 of the die's black-box state, read live. -/
def execBbox (t : BitVec 4) (d : BitVec 5) : State → Out :=
  noSource t d (do
    let s ← get
    pure (NatMap.get {} s.boxes s.site.die).word0)

/-- `trap` (R317). -/
def execTrap (t : BitVec 4) (i : BitVec 9) : State → Out := issue { t := t } (raise tcTrapInsn (i.zeroExtend 64))

/-- `break` (R317). -/
def execBreakInsn (t : BitVec 4) (i : BitVec 9) : State → Out := issue { t := t } (raise tcBreak (i.zeroExtend 64))

/-- The offset of a system register (R273). -/
def sysOff (x : BitVec 9) : Nat := 0x100 + 8 * x.toNat

/-- The sequencer names a register that exists on it (R273). -/
def checkSysReg (x : BitVec 9) : M Unit := do
  let s ← get
  if 0x1E0 ≤ x.toNat || (sysRead s s.here s.site.seq (sysOff x)).isNone then raise tcIllegalReg (x.zeroExtend 64) else pure ()

/-- `rdsys` (R319). -/
def execRdsys (t : BitVec 4) (d : BitVec 5) (x : BitVec 9) : State → Out :=
  issue { t := t, checks := do checkDst d; checkSysReg x } (do
    let s ← get
    writeReg d ((sysRead s s.here s.site.seq (sysOff x)).getD 0)
    pure .seq)

/-- `wrsys` (R319): PRIV for a read-only register, and for a handler's outside a handler. -/
def execWrsys (t : BitVec 4) (a : BitVec 5) (x : BitVec 9) : State → Out :=
  issue { t := t, checks := do checkSrc a; checkSysReg x } (do
    let s ← get
    if sysReadOnly (sysOff x) || (sysHandlerOnly (sysOff x) && !s.cur.tin) then raise tcPriv 0
    else do
      let v ← readReg a
      modCur (fun c => sysWrite c s.site.seq (sysOff x) v)
      pure .seq)

/-- A word that is not an instruction (R275 row 1): ILLEGAL_OP with TVAL 0 and no effect; row 1 applies to a covered word too. -/
def execUndefinedEncoding (s : State) : Out :=
  if s.mayIssue then runM (raise tcIllegalOp 0) s else .next s

end Sys2Proof.Machine
end

