-- ==== Sys2Proof/Machine/VecCtl.lean ====
section
/-! DEFINITION. Vector control (R384). -/

namespace Sys2Proof.Machine

/-- `vfence`: later vector commands start only after every earlier one completes. -/
def execVfence (t : BitVec 4) : State → Out :=
  issue { t := t, who := [.C] } (do
    modCur (fun c => { c with vfenced := !c.vcmds.isEmpty })
    pure .seq)

/-- Blocks while a vector command is in flight (R384): KIND 4, INDEX 0. -/
def vecIdle : M Unit := do
  let s ← get
  if s.cur.vcmds.isEmpty then pure () else waitFor 4 0

/-- `vwait`. -/
def execVwait (t : BitVec 4) : State → Out :=
  issue { t := t, who := [.C] } (do
    vecIdle
    pure .seq)

/-- `vbusy`: commands issued and not completed. -/
def execVbusy (t : BitVec 4) (d : BitVec 5) : State → Out :=
  issue { t := t, who := [.C], checks := checkDst d } (do
    let s ← get
    writeReg d (BitVec.ofNat 64 s.cur.vcmds.length)
    pure .seq)

/-- `vdone`: commands completed since bind. -/
def execVdone (t : BitVec 4) (d : BitVec 5) : State → Out :=
  issue { t := t, who := [.C], checks := checkDst d } (do
    let s ← get
    writeReg d s.cur.vdone
    pure .seq)

/-- `vrb`: VRB in bits 7:0, MRB in bits 10:8. -/
def execVrb (t : BitVec 4) (d : BitVec 5) : State → Out :=
  issue { t := t, who := [.C], checks := checkDst d } (do
    let s ← get
    writeReg d (BitVec.ofNat 64 (s.cur.vrb.toNat + at_ s.cur.mrb.toNat 8))
    pure .seq)

/-- `vstat`: waits as `vwait`, returns the sticky flags, clears those set in g[a]. -/
def execVstat (t : BitVec 4) (d a : BitVec 5) : State → Out :=
  issue { t := t, who := [.C], checks := do checkDst d; checkSrc a } (do
    let m ← readReg a
    vecIdle
    let s ← get
    writeReg d (s.cur.flags.zeroExtend 64)
    modCur (fun c => { c with flags := s.cur.flags &&& ~~~ (m.truncate 6) })
    pure .seq)

end Sys2Proof.Machine
end

