-- ==== Sys2Proof/Machine/Dispatch.lean ====
section
/-! DEFINITION. The one dispatch of the machine: one arm per constructor of Instr, each one call of its meaning. -/

namespace Sys2Proof.Machine

def exec (i : Instr) (s : State) : Host.Outcome State Fault Refusal :=
  match i with
  | .add t d a b => Sys2Proof.Machine.execAdd t d a b s
  | .sub t d a b => Sys2Proof.Machine.execSub t d a b s
  | .and t d a b => Sys2Proof.Machine.execAnd t d a b s
  | .or t d a b => Sys2Proof.Machine.execOr t d a b s
  | .xor t d a b => Sys2Proof.Machine.execXor t d a b s
  | .andn t d a b => Sys2Proof.Machine.execAndn t d a b s
  | .sll t d a b => Sys2Proof.Machine.execSll t d a b s
  | .srl t d a b => Sys2Proof.Machine.execSrl t d a b s
  | .sra t d a b => Sys2Proof.Machine.execSra t d a b s
  | .rol t d a b => Sys2Proof.Machine.execRol t d a b s
  | .mul t d a b => Sys2Proof.Machine.execMul t d a b s
  | .mulh t d a b => Sys2Proof.Machine.execMulh t d a b s
  | .mulhz t d a b => Sys2Proof.Machine.execMulhz t d a b s
  | .div t d a b => Sys2Proof.Machine.execDiv t d a b s
  | .divz t d a b => Sys2Proof.Machine.execDivz t d a b s
  | .rem t d a b => Sys2Proof.Machine.execRem t d a b s
  | .remz t d a b => Sys2Proof.Machine.execRemz t d a b s
  | .min t d a b => Sys2Proof.Machine.execMin t d a b s
  | .max t d a b => Sys2Proof.Machine.execMax t d a b s
  | .minz t d a b => Sys2Proof.Machine.execMinz t d a b s
  | .maxz t d a b => Sys2Proof.Machine.execMaxz t d a b s
  | .clz t d a => Sys2Proof.Machine.execClz t d a s
  | .ctz t d a => Sys2Proof.Machine.execCtz t d a s
  | .popc t d a => Sys2Proof.Machine.execPopc t d a s
  | .bswap t d a => Sys2Proof.Machine.execBswap t d a s
  | .mix t d a b => Sys2Proof.Machine.execMix t d a b s
  | .bfx t d a b => Sys2Proof.Machine.execBfx t d a b s
  | .bfi t d a b => Sys2Proof.Machine.execBfi t d a b s
  | .addi t d a imm => Sys2Proof.Machine.execAddi t d a imm s
  | .andi t d a imm => Sys2Proof.Machine.execAndi t d a imm s
  | .ori t d a imm => Sys2Proof.Machine.execOri t d a imm s
  | .xori t d a imm => Sys2Proof.Machine.execXori t d a imm s
  | .slli t d a sf => Sys2Proof.Machine.execSlli t d a sf s
  | .srli t d a sf => Sys2Proof.Machine.execSrli t d a sf s
  | .srai t d a sf => Sys2Proof.Machine.execSrai t d a sf s
  | .roli t d a sf => Sys2Proof.Machine.execRoli t d a sf s
  | .pcmp t d a b c => Sys2Proof.Machine.execPcmp t d a b c s
  | .pcmpi t p c a imm => Sys2Proof.Machine.execPcmpi t p c a imm s
  | .li t d imm => Sys2Proof.Machine.execLi t d imm s
  | .lis t d imm => Sys2Proof.Machine.execLis t d imm s
  | .ldc t d imm => Sys2Proof.Machine.execLdc t d imm s
  | .pred t p n q => Sys2Proof.Machine.execPred t p n q s
  | .bt t p imm => Sys2Proof.Machine.execBt t p imm s
  | .bf t p imm => Sys2Proof.Machine.execBf t p imm s
  | .jmp t imm => Sys2Proof.Machine.execJmp t imm s
  | .call t a imm => Sys2Proof.Machine.execCall t a imm s
  | .jr t d a imm => Sys2Proof.Machine.execJr t d a imm s
  | .loop t n a imm => Sys2Proof.Machine.execLoop t n a imm s
  | .bloop t n imm => Sys2Proof.Machine.execBloop t n imm s
  | .bloopRot t n imm => Sys2Proof.Machine.execBloopRot t n imm s
  | .qlen t d a => Sys2Proof.Machine.execQlen t d a s
  | .qpeek t d a => Sys2Proof.Machine.execQpeek t d a s
  | .tokcnt t d a => Sys2Proof.Machine.execTokcnt t d a s
  | .tokadd t d a => Sys2Proof.Machine.execTokadd t d a s
  | .tokwait t d a => Sys2Proof.Machine.execTokwait t d a s
  | .ldo t d a z sf c o => Sys2Proof.Machine.execLdo t d a z sf c o s
  | .sto t d a z c o => Sys2Proof.Machine.execSto t d a z c o s
  | .ldx t d a z sf o => Sys2Proof.Machine.execLdx t d a z sf o s
  | .stx t d a z o => Sys2Proof.Machine.execStx t d a z o s
  | .lds t d a z sf o => Sys2Proof.Machine.execLds t d a z sf o s
  | .sts t d a z o => Sys2Proof.Machine.execSts t d a z o s
  | .tld t d a n q => Sys2Proof.Machine.execTld t d a n q s
  | .tst t d a n q => Sys2Proof.Machine.execTst t d a n q s
  | .atomSwap t d a b z c => Sys2Proof.Machine.execAtomSwap t d a b z c s
  | .atomAdd t d a b z c => Sys2Proof.Machine.execAtomAdd t d a b z c s
  | .atomAnd t d a b z c => Sys2Proof.Machine.execAtomAnd t d a b z c s
  | .atomOr t d a b z c => Sys2Proof.Machine.execAtomOr t d a b z c s
  | .atomXor t d a b z c => Sys2Proof.Machine.execAtomXor t d a b z c s
  | .atomMax t d a b z c => Sys2Proof.Machine.execAtomMax t d a b z c s
  | .atomMaxz t d a b z c => Sys2Proof.Machine.execAtomMaxz t d a b z c s
  | .atomCas t d a b z c => Sys2Proof.Machine.execAtomCas t d a b z c s
  | .fenceSc t c => Sys2Proof.Machine.execFenceSc t c s
  | .fenceAcq t c => Sys2Proof.Machine.execFenceAcq t c s
  | .fenceRel t c => Sys2Proof.Machine.execFenceRel t c s
  | .ldacq t d a z sf c o => Sys2Proof.Machine.execLdacq t d a z sf c o s
  | .strel t d a z c o => Sys2Proof.Machine.execStrel t d a z c o s
  | .waitany t d a => Sys2Proof.Machine.execWaitany t d a s
  | .waitall t d a => Sys2Proof.Machine.execWaitall t d a s
  | .ffr t d a => Sys2Proof.Machine.execFfr t d a s
  | .tagclr t a => Sys2Proof.Machine.execTagclr t a s
  | .tagrd t d a => Sys2Proof.Machine.execTagrd t d a s
  | .tagst t a b => Sys2Proof.Machine.execTagst t a b s
  | .tagstArm t a b => Sys2Proof.Machine.execTagstArm t a b s
  | .tlook t d a => Sys2Proof.Machine.execTlook t d a s
  | .tfill t a b => Sys2Proof.Machine.execTfill t a b s
  | .trd t d a b sf z => Sys2Proof.Machine.execTrd t d a b sf z s
  | .tinv t a => Sys2Proof.Machine.execTinv t a s
  | .tstat t d a => Sys2Proof.Machine.execTstat t d a s
  | .patchr t a n f => Sys2Proof.Machine.execPatchr t a n f s
  | .patch t n f v => Sys2Proof.Machine.execPatch t n f v s
  | .go t n g => Sys2Proof.Machine.execGo t n g s
  | .vadd t a b => Sys2Proof.Machine.execVadd t a b s
  | .vsub t a b => Sys2Proof.Machine.execVsub t a b s
  | .vmul t a b => Sys2Proof.Machine.execVmul t a b s
  | .vmulh t a b => Sys2Proof.Machine.execVmulh t a b s
  | .vand t a b => Sys2Proof.Machine.execVand t a b s
  | .vor t a b => Sys2Proof.Machine.execVor t a b s
  | .vxor t a b => Sys2Proof.Machine.execVxor t a b s
  | .vandn t a b => Sys2Proof.Machine.execVandn t a b s
  | .vsll t a b => Sys2Proof.Machine.execVsll t a b s
  | .vsrl t a b => Sys2Proof.Machine.execVsrl t a b s
  | .vsra t a b => Sys2Proof.Machine.execVsra t a b s
  | .vmin t a b => Sys2Proof.Machine.execVmin t a b s
  | .vmax t a b => Sys2Proof.Machine.execVmax t a b s
  | .vminz t a b => Sys2Proof.Machine.execVminz t a b s
  | .vmaxz t a b => Sys2Proof.Machine.execVmaxz t a b s
  | .vabs t a b => Sys2Proof.Machine.execVabs t a b s
  | .vneg t a b => Sys2Proof.Machine.execVneg t a b s
  | .vpopc t a b => Sys2Proof.Machine.execVpopc t a b s
  | .vclz t a b => Sys2Proof.Machine.execVclz t a b s
  | .vsel t a b => Sys2Proof.Machine.execVsel t a b s
  | .vfadd t a b => Sys2Proof.Machine.execVfadd t a b s
  | .vfsub t a b => Sys2Proof.Machine.execVfsub t a b s
  | .vfmul t a b => Sys2Proof.Machine.execVfmul t a b s
  | .vfma t a b => Sys2Proof.Machine.execVfma t a b s
  | .vfms t a b => Sys2Proof.Machine.execVfms t a b s
  | .vfnma t a b => Sys2Proof.Machine.execVfnma t a b s
  | .vfdiv t a b => Sys2Proof.Machine.execVfdiv t a b s
  | .vfsqrt t a b => Sys2Proof.Machine.execVfsqrt t a b s
  | .vfmin t a b => Sys2Proof.Machine.execVfmin t a b s
  | .vfmax t a b => Sys2Proof.Machine.execVfmax t a b s
  | .vfabs t a b => Sys2Proof.Machine.execVfabs t a b s
  | .vfneg t a b => Sys2Proof.Machine.execVfneg t a b s
  | .vfcpsgn t a b => Sys2Proof.Machine.execVfcpsgn t a b s
  | .vscaleb t a b => Sys2Proof.Machine.execVscaleb t a b s
  | .vgetexp t a b => Sys2Proof.Machine.execVgetexp t a b s
  | .vgetman t a b => Sys2Proof.Machine.execVgetman t a b s
  | .vfclass t a b => Sys2Proof.Machine.execVfclass t a b s
  | .vaddx t a b => Sys2Proof.Machine.execVaddx t a b s
  | .vsubx t a b => Sys2Proof.Machine.execVsubx t a b s
  | .vmulx t a b => Sys2Proof.Machine.execVmulx t a b s
  | .vdwadd t a b => Sys2Proof.Machine.execVdwadd t a b s
  | .vdwaddf t a b => Sys2Proof.Machine.execVdwaddf t a b s
  | .vdwmul t a b => Sys2Proof.Machine.execVdwmul t a b s
  | .vdwmulf t a b => Sys2Proof.Machine.execVdwmulf t a b s
  | .vdwnorm t a b => Sys2Proof.Machine.execVdwnorm t a b s
  | .vdwcvt t a b => Sys2Proof.Machine.execVdwcvt t a b s
  | .vcvt t a b => Sys2Proof.Machine.execVcvt t a b s
  | .vquant t a b => Sys2Proof.Machine.execVquant t a b s
  | .vdequant t a b => Sys2Proof.Machine.execVdequant t a b s
  | .vqscale t a b => Sys2Proof.Machine.execVqscale t a b s
  | .vpack t a b => Sys2Proof.Machine.execVpack t a b s
  | .vunpack t a b => Sys2Proof.Machine.execVunpack t a b s
  | .vcmp t a b => Sys2Proof.Machine.execVcmp t a b s
  | .vmand t a b => Sys2Proof.Machine.execVmand t a b s
  | .vmor t a b => Sys2Proof.Machine.execVmor t a b s
  | .vmxor t a b => Sys2Proof.Machine.execVmxor t a b s
  | .vmnot t a b => Sys2Proof.Machine.execVmnot t a b s
  | .vmpush t a b => Sys2Proof.Machine.execVmpush t a b s
  | .vminv t a b => Sys2Proof.Machine.execVminv t a b s
  | .vmpopm t a b => Sys2Proof.Machine.execVmpopm t a b s
  | .vmcnt t a b => Sys2Proof.Machine.execVmcnt t a b s
  | .vmov t a b => Sys2Proof.Machine.execVmov t a b s
  | .vbcast t a b => Sys2Proof.Machine.execVbcast t a b s
  | .vext t a b => Sys2Proof.Machine.execVext t a b s
  | .vperm t a b => Sys2Proof.Machine.execVperm t a b s
  | .vrot t a b => Sys2Proof.Machine.execVrot t a b s
  | .vslide t a b => Sys2Proof.Machine.execVslide t a b s
  | .vzip t a b => Sys2Proof.Machine.execVzip t a b s
  | .vunzip t a b => Sys2Proof.Machine.execVunzip t a b s
  | .vredsum t a b => Sys2Proof.Machine.execVredsum t a b s
  | .vredsumx t a b => Sys2Proof.Machine.execVredsumx t a b s
  | .vredmax t a b => Sys2Proof.Machine.execVredmax t a b s
  | .vredmin t a b => Sys2Proof.Machine.execVredmin t a b s
  | .vredand t a b => Sys2Proof.Machine.execVredand t a b s
  | .vredor t a b => Sys2Proof.Machine.execVredor t a b s
  | .vprefix t a b => Sys2Proof.Machine.execVprefix t a b s
  | .vgather t a b => Sys2Proof.Machine.execVgather t a b s
  | .vscatter t a b => Sys2Proof.Machine.execVscatter t a b s
  | .vscatc t a b => Sys2Proof.Machine.execVscatc t a b s
  | .visect t a b => Sys2Proof.Machine.execVisect t a b s
  | .vcompress t a b => Sys2Proof.Machine.execVcompress t a b s
  | .vexpand t a b => Sys2Proof.Machine.execVexpand t a b s
  | .vrsqe t a b => Sys2Proof.Machine.execVrsqe t a b s
  | .vrcpe t a b => Sys2Proof.Machine.execVrcpe t a b s
  | .vexp2 t a b => Sys2Proof.Machine.execVexp2 t a b s
  | .vlog2 t a b => Sys2Proof.Machine.execVlog2 t a b s
  | .vamax t a b => Sys2Proof.Machine.execVamax t a b s
  | .vhist t a b => Sys2Proof.Machine.execVhist t a b s
  | .vstatrd t a b => Sys2Proof.Machine.execVstatrd t a b s
  | .vstatclr t a b => Sys2Proof.Machine.execVstatclr t a b s
  | .vrand t a b => Sys2Proof.Machine.execVrand t a b s
  | .vseed t a b => Sys2Proof.Machine.execVseed t a b s
  | .vfence t => Sys2Proof.Machine.execVfence t s
  | .vwait t => Sys2Proof.Machine.execVwait t s
  | .vbusy t d => Sys2Proof.Machine.execVbusy t d s
  | .vdone t d => Sys2Proof.Machine.execVdone t d s
  | .vrb t d => Sys2Proof.Machine.execVrb t d s
  | .vstat t d a => Sys2Proof.Machine.execVstat t d a s
  | .remq t d a b => Sys2Proof.Machine.execRemq t d a b s
  | .remqt t d a b => Sys2Proof.Machine.execRemqt t d a b s
  | .grow t d a => Sys2Proof.Machine.execGrow t d a s
  | .barArrive t d a l => Sys2Proof.Machine.execBarArrive t d a l s
  | .barWait t d a l => Sys2Proof.Machine.execBarWait t d a l s
  | .barSync t d a l => Sys2Proof.Machine.execBarSync t d a l s
  | .barPhase t d a l => Sys2Proof.Machine.execBarPhase t d a l s
  | .qppost t a b => Sys2Proof.Machine.execQppost t a b s
  | .ctrrd t d a => Sys2Proof.Machine.execCtrrd t d a s
  | .ctrrdSig t d a => Sys2Proof.Machine.execCtrrdSig t d a s
  | .ctradd t d a b => Sys2Proof.Machine.execCtradd t d a b s
  | .ctraddClr t d a => Sys2Proof.Machine.execCtraddClr t d a s
  | .ctrwait t d a b => Sys2Proof.Machine.execCtrwait t d a b s
  | .dpost t a => Sys2Proof.Machine.execDpost t a s
  | .dgrant t d a => Sys2Proof.Machine.execDgrant t d a s
  | .xstat t d a => Sys2Proof.Machine.execXstat t d a s
  | .rlstart t a => Sys2Proof.Machine.execRlstart t a s
  | .rlstep t => Sys2Proof.Machine.execRlstep t s
  | .rlstat t d => Sys2Proof.Machine.execRlstat t d s
  | .rlesc t d => Sys2Proof.Machine.execRlesc t d s
  | .rlabort t => Sys2Proof.Machine.execRlabort t s
  | .leaseAcq t => Sys2Proof.Machine.execLeaseAcq t s
  | .leaseRel t => Sys2Proof.Machine.execLeaseRel t s
  | .leaseStat t d => Sys2Proof.Machine.execLeaseStat t d s
  | .nop t => Sys2Proof.Machine.execNop t s
  | .endInsn t => Sys2Proof.Machine.execEndInsn t s
  | .resume t => Sys2Proof.Machine.execResume t s
  | .yield t => Sys2Proof.Machine.execYield t s
  | .cycle t d => Sys2Proof.Machine.execCycle t d s
  | .bbox t d => Sys2Proof.Machine.execBbox t d s
  | .trap t imm => Sys2Proof.Machine.execTrap t imm s
  | .breakInsn t imm => Sys2Proof.Machine.execBreakInsn t imm s
  | .rdsys t d x => Sys2Proof.Machine.execRdsys t d x s
  | .wrsys t a x => Sys2Proof.Machine.execWrsys t a x s
  | .pand t d a b => Sys2Proof.Machine.execPand t d a b s
  | .por t d a b => Sys2Proof.Machine.execPor t d a b s
  | .pxor t d a b => Sys2Proof.Machine.execPxor t d a b s
  | .pnot t d a => Sys2Proof.Machine.execPnot t d a s
  | .pmov t d a => Sys2Proof.Machine.execPmov t d a s
  | .csel t d a b p => Sys2Proof.Machine.execCsel t d a b p s
  | .packetAccept => Sys2Proof.Machine.execPacketAccept s
  | .launch => Sys2Proof.Machine.execLaunch s
  | .regionCreate => Sys2Proof.Machine.execRegionCreate s
  | .regionModify => Sys2Proof.Machine.execRegionModify s
  | .regionDestroy => Sys2Proof.Machine.execRegionDestroy s
  | .copyhHostToDevice => Sys2Proof.Machine.execCopyhHostToDevice s
  | .copyhDeviceToHost => Sys2Proof.Machine.execCopyhDeviceToHost s
  | .signalSet => Sys2Proof.Machine.execSignalSet s
  | .signalAdd => Sys2Proof.Machine.execSignalAdd s
  | .signalOr => Sys2Proof.Machine.execSignalOr s
  | .waitsig => Sys2Proof.Machine.execWaitsig s
  | .waitsigTimeout => Sys2Proof.Machine.execWaitsigTimeout s
  | .detlevel => Sys2Proof.Machine.execDetlevel s
  | .fencePacket => Sys2Proof.Machine.execFencePacket s
  | .readback => Sys2Proof.Machine.execReadback s
  | .writeback => Sys2Proof.Machine.execWriteback s
  | .xlroot => Sys2Proof.Machine.execXlroot s
  | .xlinv => Sys2Proof.Machine.execXlinv s
  | .downSet => Sys2Proof.Machine.execDownSet s
  | .downClear => Sys2Proof.Machine.execDownClear s
  | .linkDrainEnd => Sys2Proof.Machine.execLinkDrainEnd s
  | .bboxread => Sys2Proof.Machine.execBboxread s
  | .resetStream => Sys2Proof.Machine.execResetStream s
  | .resetDie => Sys2Proof.Machine.execResetDie s
  | .resetPackage => Sys2Proof.Machine.execResetPackage s
  | .completionRecordAck => Sys2Proof.Machine.execCompletionRecordAck s
  | .recordResendTimeout => Sys2Proof.Machine.execRecordResendTimeout s
  | .laneLock => Sys2Proof.Machine.execLaneLock s
  | .lockWindowEnd => Sys2Proof.Machine.execLockWindowEnd s
  | .alignComplete => Sys2Proof.Machine.execAlignComplete s
  | .capabilityWord => Sys2Proof.Machine.execCapabilityWord s
  | .confirmTestFrames => Sys2Proof.Machine.execConfirmTestFrames s
  | .trainingStageTimeout => Sys2Proof.Machine.execTrainingStageTimeout s
  | .retrainHoldoffExpiry => Sys2Proof.Machine.execRetrainHoldoffExpiry s
  | .lossOfLock => Sys2Proof.Machine.execLossOfLock s
  | .flitCrcFailure => Sys2Proof.Machine.execFlitCrcFailure s
  | .errorWindowEnd => Sys2Proof.Machine.execErrorWindowEnd s
  | .retrainComplete => Sys2Proof.Machine.execRetrainComplete s
  | .meshRequest => Sys2Proof.Machine.execMeshRequest s
  | .meshResponse => Sys2Proof.Machine.execMeshResponse s
  | .resendTimeout => Sys2Proof.Machine.execResendTimeout s
  | .holdMessageTimer => Sys2Proof.Machine.execHoldMessageTimer s
  | .holdMessage => Sys2Proof.Machine.execHoldMessage s
  | .resyncMessage => Sys2Proof.Machine.execResyncMessage s
  | .powerOn => Sys2Proof.Machine.execPowerOn s
  | .powerLimitExceeded => Sys2Proof.Machine.execPowerLimitExceeded s
  | .powerEmergency => Sys2Proof.Machine.execPowerEmergency s
  | .standbyPowerLoss => Sys2Proof.Machine.execStandbyPowerLoss s
  | .dispatchDecision => Sys2Proof.Machine.execDispatchDecision s
  | .bind => Sys2Proof.Machine.execBind s
  | .preEmption => Sys2Proof.Machine.execPreEmption s
  | .contextSave => Sys2Proof.Machine.execContextSave s
  | .restore => Sys2Proof.Machine.execRestore s
  | .groupEnd => Sys2Proof.Machine.execGroupEnd s
  | .budgetUpdate => Sys2Proof.Machine.execBudgetUpdate s
  | .agingTick => Sys2Proof.Machine.execAgingTick s
  | .cellLeavesService => Sys2Proof.Machine.execCellLeavesService s
  | .growWindowClose => Sys2Proof.Machine.execGrowWindowClose s
  | .leaseGrant => Sys2Proof.Machine.execLeaseGrant s
  | .leaseIdleTimeout => Sys2Proof.Machine.execLeaseIdleTimeout s
  | .remoteQueueIssue => Sys2Proof.Machine.execRemoteQueueIssue s
  | .checkSlotRelease => Sys2Proof.Machine.execCheckSlotRelease s
  | .residueFailure => Sys2Proof.Machine.execResidueFailure s
  | .mma => Sys2Proof.Machine.execMma s
  | .mmaz => Sys2Proof.Machine.execMmaz s
  | .mmabsr => Sys2Proof.Machine.execMmabsr s
  | .mmaseed => Sys2Proof.Machine.execMmaseed s
  | .mhad => Sys2Proof.Machine.execMhad s
  | .mdrain => Sys2Proof.Machine.execMdrain s
  | .mraster => Sys2Proof.Machine.execMraster s
  | .mzero => Sys2Proof.Machine.execMzero s
  | .mload => Sys2Proof.Machine.execMload s
  | .commandCompare => Sys2Proof.Machine.execCommandCompare s
  | .arbitrationDone => Sys2Proof.Machine.execArbitrationDone s
  | .rerunDone => Sys2Proof.Machine.execRerunDone s
  | .drainUnitCompare => Sys2Proof.Machine.execDrainUnitCompare s
  | .vectorCommandStart => Sys2Proof.Machine.execVectorCommandStart s
  | .vectorCommandComplete => Sys2Proof.Machine.execVectorCommandComplete s
  | .tensorAccessComplete => Sys2Proof.Machine.execTensorAccessComplete s
  | .tfillComplete => Sys2Proof.Machine.execTfillComplete s
  | .cpysigDestinationCheck => Sys2Proof.Machine.execCpysigDestinationCheck s
  | .copyBoundaryStop => Sys2Proof.Machine.execCopyBoundaryStop s
  | .copyComplete => Sys2Proof.Machine.execCopyComplete s
  | .entryArm => Sys2Proof.Machine.execEntryArm s
  | .entryWrite => Sys2Proof.Machine.execEntryWrite s
  | .entryWriteReduce => Sys2Proof.Machine.execEntryWriteReduce s
  | .entrySignal => Sys2Proof.Machine.execEntrySignal s
  | .entryComplete => Sys2Proof.Machine.execEntryComplete s
  | .counterIncrement => Sys2Proof.Machine.execCounterIncrement s
  | .oneSidedWrite => Sys2Proof.Machine.execOneSidedWrite s
  | .reducingWriteArrival => Sys2Proof.Machine.execReducingWriteArrival s
  | .fabricChunk => Sys2Proof.Machine.execFabricChunk s
  | .fabricChunkTimeout => Sys2Proof.Machine.execFabricChunkTimeout s
  | .lossNotice => Sys2Proof.Machine.execLossNotice s
  | .postArrival => Sys2Proof.Machine.execPostArrival s
  | .calendarRow => Sys2Proof.Machine.execCalendarRow s
  | .phaseOpen => Sys2Proof.Machine.execPhaseOpen s
  | .grantAck => Sys2Proof.Machine.execGrantAck s
  | .exchangeCompletionNotice => Sys2Proof.Machine.execExchangeCompletionNotice s
  | .heartbeatSend => Sys2Proof.Machine.execHeartbeatSend s
  | .heartbeatTimeout => Sys2Proof.Machine.execHeartbeatTimeout s
  | .takeoverNotice => Sys2Proof.Machine.execTakeoverNotice s
  | .systemArrivalNotice => Sys2Proof.Machine.execSystemArrivalNotice s
  | .trapEntry => Sys2Proof.Machine.execTrapEntry s
  | .waitBoundExpiry => Sys2Proof.Machine.execWaitBoundExpiry s
  | .cycleBoundExpiry => Sys2Proof.Machine.execCycleBoundExpiry s
  | .hashTreeTimer => Sys2Proof.Machine.execHashTreeTimer s
  | .hashTreeUpdate => Sys2Proof.Machine.execHashTreeUpdate s
  | .replicaUpdate => Sys2Proof.Machine.execReplicaUpdate s
  | .timestampLeaseRecall => Sys2Proof.Machine.execTimestampLeaseRecall s
  | .undefinedEncoding => Sys2Proof.Machine.execUndefinedEncoding s
  | .powerBelowLimit => Sys2Proof.Machine.execPowerBelowLimit s
  | .copyhComplete => Sys2Proof.Machine.execCopyhComplete s
  | .dieResetComplete => Sys2Proof.Machine.execDieResetComplete s
  | .arbiterLost => Sys2Proof.Machine.execArbiterLost s

end Sys2Proof.Machine
end

