-- ==== Sys2Proof/Machine/Step.lean ====
section
/-! DEFINITION. One step of the package: the next turn of the agenda, the fetch of a sequencer (R90), and an instruction
placed where the next step fetches. -/

namespace Sys2Proof.Machine

/-- A sequencer's turn: nothing while it may not issue; FETCH_FAULT at or beyond CODELEN (R90, R245); otherwise the
instruction at its program counter, or the fate of a word that is none (R275 row 1). -/
def stepSeq (s : State) : Host.Outcome State Fault Refusal :=
  let x := s.curSeq
  if !s.mayIssue then .next s
  else if x.codeLen ≤ x.pc.toNat then .next (s.precise tcFetch (x.from?.getD allOnes))
  else
    match decodeWord (NatMap.get 0 x.code x.pc.toNat) with
    | .ok i => exec i s
    | .error _ => exec .undefinedEncoding s

/-- A turn, after the time that passes before it. -/
def takeTurn (a : Act) (s : State) : Host.Outcome State Fault Refusal :=
  match a with
  | .idle => .next s
  | .upset u => .next (s.upset u)
  | .seq die cell q => if die < 16 && cell < 56 then stepSeq { s with site := { die := die, cell := cell, seq := q } } else .fault .noSuchAgent
  | .ev i at' =>
    if !at'.wf || (i.atComputeDie && decide (16 ≤ at'.die)) then .fault .noSuchAgent
    else if i.isEvent then exec i { s with site := at' }
    else .next s

/-- One step: the first turn of the agenda is taken. With none, the sequencer that moved last moves again a cycle later. -/
def step (s : State) : Host.Outcome State Fault Refusal :=
  match s.agenda with
  | [] => takeTurn (.seq s.site.die s.site.cell s.site.seq) { s with cycle := s.cycle + 1 }
  | t :: rest => takeTurn t.act { s with agenda := rest, cycle := s.cycle + t.dt }

/-- A sequencer that R276 permits to execute a word: by its major opcode. -/
def seqFor (w : Nat) : SeqId :=
  let major := w / 2 ^ 22 % 64
  if major = 0x19 then (if w.testBit 6 then .S else .L)
  else if major = 0x20 || major = 0x21 || major = 0x27 || (major = 0x11 && w.testBit 21) then .C
  else .K

/-- s with an instruction stored where the very next step fetches: at the program counter of a sequencer of cell 0 of die 0
that may execute it; that cell holds a group, and the next turn is that sequencer's. -/
def State.withFetchWord (s : State) (_nbits w : Nat) : State :=
  let q := seqFor w
  let s1 := s.modCell 0 (fun c =>
    { c with
      bound := some (c.bound.getD ⟨0, 0, 0, 0⟩), stop := none, tin := false }.modSeq q (fun x =>
        { x with tried := none, code := NatMap.put 0 x.code x.pc.toNat (BitVec.ofNat 32 w), codeLen := max x.codeLen (x.pc.toNat + 1), ended := false,
                 pb := {}, access := none }))
  { s1 with agenda := ⟨1, .seq 0 0 q⟩ :: s.agenda }

end Sys2Proof.Machine
end

