-- ==== Sys2Proof/Safety.lean ====
section
/-! DEFINITION. What a state must satisfy that no step may break: the form of memory and the bounds that the manual gives. -/

namespace Sys2Proof.Machine

/-- Memory has its canonical form. -/
def MemOk (s : State) : Prop := Memory.wf s.hbmGen s.mem = true

/-- An action of the agenda names agents that the package has. -/
def Act.wf : Act → Bool
  | .seq die cell _ => decide (die < 16) && decide (cell < 56)
  | .ev i a => a.wf && (!i.atComputeDie || decide (a.die < 16))
  | .upset _ => true
  | .idle => true

/-! ### When an instruction issues, what it reads and what it leaves

These say in plain functions of the state what R91 to R94, R107, R271 and R275 say of every instruction. The claims are stated in them. -/

/-- A source field names a register that does not wait for a store of the sequencer (R171, log entry 181), or a queue that the sequencer consumes and that
holds an entry (R91, R271). -/
def State.readable (s : State) (r : BitVec 5) : Bool :=
  match portOf r with
  | none => !s.awaitsStore r.toNat
  | some n => decide ((queueEnds n).2 = s.site.seq) && !(s.cur.queue n).isEmpty

/-- The value of a source field: the register, 0 for g0, or the head of the queue (R271). -/
def State.source (s : State) (r : BitVec 5) : Word :=
  match portOf r with
  | none => s.curSeq.greg r.toNat
  | some n => (s.cur.queue n).headD 0

/-- The state after a source field has been read: a port's entry has left its queue (R92). -/
def State.afterRead (s : State) (r : BitVec 5) : State :=
  match portOf r with
  | none => s
  | some n => s.modCell s.here (fun c => c.setQueue n (c.queue n).tail)

/-- A destination field names a register, or a queue that the sequencer produces and that has room (R91, R92). -/
def State.writable (s : State) (d : BitVec 5) : Bool :=
  match portOf d with
  | none => true
  | some n => decide ((queueEnds n).1 = s.site.seq) && decide ((s.cur.queue n).length + s.cur.pushesInSlots n < 16)

/-- The state after a result has been written: a register other than g0, or a push that waits in a check slot (R107, R271). -/
def State.afterWrite (s : State) (d : BitVec 5) (v : Word) : State :=
  match portOf d with
  | none => s.modSeq (fun x => x.setG d.toNat v)
  | some n => s.modSeq (fun x => { x with slots := x.slots ++ [s.cur.slotOf s.site.seq (.push n v) s.cycle] })

/-- The check slots that a result takes. -/
def pushes (d : BitVec 5) : Nat := if (portOf d).isSome then 1 else 0

/-- The state after one token has been taken (R94). -/
def State.tokenTaken (s : State) (k : Nat) : State := s.modCell s.here (fun c => c.takeUnit k)

/-- The state after one signal: the unit is reserved, and the token waits in a check slot (R94, R107). -/
def State.tokenGiven (s : State) (k : Nat) : State :=
  (s.modCell s.here (fun c => { c with tokRes := NatMap.put 0 c.tokRes k (c.tokRsv k + 1) })).modSeq
    (fun x => { x with slots := x.slots ++ [s.cur.slotOf s.site.seq (.token k) s.cycle] })

/-- A sequencer after it has retired an instruction (R92, R308). -/
def Seq.retired (f : Flow) (x : Seq) : Seq :=
  match f with
  | .seq => { x with pc := x.pc + 1, from? := none, blocked := none, access := none, tried := none, pb := x.pb.next }
  | .branch t => { x with pc := t, from? := some x.pc, blocked := none, access := none, tried := none, pb := x.pb.next }
  | .keep => { x with blocked := none, access := none, tried := none }

/-- The state after retirement: waits taken, signals given, the sequencer on its way (R94, R308). -/
def State.completed (s : State) (t : BitVec 4) (f : Flow) : State :=
  ((signalsOf t s.site.seq).foldl State.tokenGiven ((waitsOf t s.site.seq).foldl State.tokenTaken s)).modSeq (Seq.retired f)

/-- The same for an instruction whose signals are not given at retirement: a command's (R94), or `resume`'s. -/
def State.completedQuiet (s : State) (t : BitVec 4) (f : Flow) : State :=
  ((waitsOf t s.site.seq).foldl State.tokenTaken s).modSeq (Seq.retired f)

/-- No unfinished `vmcnt` of C will write the predicate (R296, R371). -/
def State.predFree (s : State) (n : Nat) : Bool := !(s.site.seq == .C && s.cur.predWait.contains n)

/-- An instruction is ready to retire in this step: its sequencer may issue and is one that may execute it, no predicate block skips
it or forbids it, its tokens are there, and `own` check slots beside those of its signals are free (R94, R107, R275, R276, R307). -/
structure Ready (s : State) (t : BitVec 4) (cover : Bool) (who : List SeqId) (own : Nat) : Prop where
  issues  : s.mayIssue = true
  block   : s.curSeq.pb.rem = 0 ∨ (cover = true ∧ s.curSeq.pb.executes = true)
  who     : who.contains s.site.seq = true
  waits   : ∀ k ∈ waitsOf t s.site.seq, s.cur.tokVal k ≠ 0
  signals : ∀ k ∈ signalsOf t s.site.seq, s.cur.tokVal k + s.cur.tokRsv k < 255
  slots   : s.curSeq.slots.length + own + (signalsOf t s.site.seq).length ≤ 32

end Sys2Proof.Machine
end

