-- ==== Sys2Proof/Certificates/Slice0/Obligations.lean ====
section
/-! DEFINITION. The statements about this model: what each instruction and each event of the device does, what it leaves as it
was, how words decode, and what every step keeps. -/

open Sys2Proof Sys2Proof.Machine

/-! ### Scalar instructions -/

/-- R298, R300: the two-source functions of `alu` that never trap, each beside its value. -/
def aluTwo : List ((BitVec 4 → BitVec 5 → BitVec 5 → BitVec 5 → Instr) × (Word → Word → Word)) :=
  [(.add, fun x y => BitVec.ofNat 64 (x.toNat + y.toNat)),
   (.sub, fun x y => BitVec.ofInt 64 ((x.toNat : Int) - y.toNat)),
   (.and, fun x y => x &&& y),
   (.or, fun x y => x ||| y),
   (.xor, fun x y => x ^^^ y),
   (.andn, fun x y => x &&& ~~~y),
   (.sll, fun x y => BitVec.ofNat 64 (x.toNat * 2 ^ (y.toNat % 64))),
   (.srl, fun x y => BitVec.ofNat 64 (x.toNat / 2 ^ (y.toNat % 64))),
   (.sra, fun x y => BitVec.ofInt 64 (x.toInt / 2 ^ (y.toNat % 64))),
   (.rol, fun x y => (x <<< (y.toNat % 64)) ||| (x >>> (64 - y.toNat % 64))),
   (.mul, fun x y => BitVec.ofNat 64 (x.toNat * y.toNat)),
   (.mulh, fun x y => BitVec.ofInt 64 (x.toInt * y.toInt / 2 ^ 64)),
   (.mulhz, fun x y => BitVec.ofNat 64 (x.toNat * y.toNat / 2 ^ 64)),
   (.min, fun x y => BitVec.ofInt 64 (min x.toInt y.toInt)),
   (.max, fun x y => BitVec.ofInt 64 (max x.toInt y.toInt)),
   (.minz, fun x y => BitVec.ofNat 64 (min x.toNat y.toNat)),
   (.maxz, fun x y => BitVec.ofNat 64 (max x.toNat y.toNat)),
   (.mix, jmix64),
   (.bfx, bitExtract)]

/-- R298, R300, R295: an `alu` instruction of two sources that is ready, whose sources hold values and whose destination has room,
retires with its function's value in d (a register, discarded for g0, or a push for a port). -/
def Obligations.AluTwoSourceResult : Prop :=
  ∀ p ∈ aluTwo, ∀ (t : BitVec 4) (d a b : BitVec 5) (s : State),
    Ready s t true allSeqs (pushes d) → s.readable a = true → (s.afterRead a).readable b = true → s.writable d = true →
    exec (p.1 t d a b) s =
      .next ((((s.afterRead a).afterRead b).afterWrite d (p.2 (s.source a) ((s.afterRead a).source b))).completed t .seq)

/-- R299: the four divisions, each beside its value for a divisor other than 0. -/
def divTwo : List ((BitVec 4 → BitVec 5 → BitVec 5 → BitVec 5 → Instr) × (Word → Word → Word)) :=
  [(.div, fun x y => BitVec.ofInt 64 (x.toInt.tdiv y.toInt)),
   (.divz, fun x y => BitVec.ofNat 64 (x.toNat / y.toNat)),
   (.rem, fun x y => BitVec.ofInt 64 (x.toInt.tmod y.toInt)),
   (.remz, fun x y => BitVec.ofNat 64 (x.toNat % y.toNat))]

/-- R299: the quotient is truncated toward zero and the remainder has the sign of the dividend; a divisor of 0 raises DIV_ZERO with
TVAL 0 precisely, nothing is popped and d is not written. -/
def Obligations.DivideResult : Prop :=
  ∀ p ∈ divTwo, ∀ (t : BitVec 4) (d a b : BitVec 5) (s : State),
    Ready s t true allSeqs (pushes d) → s.readable a = true → (s.afterRead a).readable b = true → s.writable d = true →
    exec (p.1 t d a b) s =
      if (s.afterRead a).source b = 0 then .next (s.precise tcDivZero 0)
      else .next ((((s.afterRead a).afterRead b).afterWrite d (p.2 (s.source a) ((s.afterRead a).source b))).completed t .seq)

/-- R298, R301: the one-source forms and the immediate forms as functions of the source. -/
def aluOne : List ((BitVec 4 → BitVec 5 → BitVec 5 → Instr) × (Word → Word)) :=
  [(.clz, countLead), (.ctz, countTrail), (.popc, countOnes), (.bswap, byteSwap)]

/-- R301: `addi`, `andi`, `ori`, `xori` with their 12-bit immediate. -/
def aluImm : List ((BitVec 4 → BitVec 5 → BitVec 5 → BitVec 12 → Instr) × (Word → Word → Word)) :=
  [(.addi, fun x y => BitVec.ofNat 64 (x.toNat + y.toNat)), (.andi, fun x y => x &&& y), (.ori, fun x y => x ||| y), (.xori, fun x y => x ^^^ y)]

/-- R301: the shifts by an amount of 0 to 63. -/
def aluShift : List ((BitVec 4 → BitVec 5 → BitVec 5 → BitVec 6 → Instr) × (Word → Nat → Word)) :=
  [(.slli, fun x n => BitVec.ofNat 64 (x.toNat * 2 ^ n)), (.srli, fun x n => BitVec.ofNat 64 (x.toNat / 2 ^ n)),
   (.srai, fun x n => BitVec.ofInt 64 (x.toInt / 2 ^ n)), (.roli, fun x n => (x <<< n) ||| (x >>> (64 - n)))]

/-- R298, R301: the one-source and immediate forms retire with their value in d. -/
def Obligations.OneSourceResult : Prop :=
  ∀ (t : BitVec 4) (d a : BitVec 5) (i : BitVec 12) (n : BitVec 6) (s : State),
    Ready s t true allSeqs (pushes d) → s.readable a = true → s.writable d = true →
    (∀ p ∈ aluOne, exec (p.1 t d a) s = .next (((s.afterRead a).afterWrite d (p.2 (s.source a))).completed t .seq)) ∧
    (∀ p ∈ aluImm, exec (p.1 t d a i) s =
      .next (((s.afterRead a).afterWrite d (p.2 (s.source a) (BitVec.ofInt 64 i.toInt))).completed t .seq)) ∧
    (∀ p ∈ aluShift, exec (p.1 t d a n) s = .next (((s.afterRead a).afterWrite d (p.2 (s.source a) n.toNat)).completed t .seq))

/-- R298, R300: what `clz`, `ctz`, `popc` and `bswap` count and move, bit by bit; `bfx` extracts the field at pos of len bits, sign-extended when SGN is 1;
`bfi` replaces the field of g[d] and keeps its other bits. -/
def Obligations.BitFunctions : Prop :=
  (∀ x : Word, ∃ n, n ≤ 64 ∧ countLead x = BitVec.ofNat 64 n ∧
    (∀ i, 64 - n ≤ i → x.getLsbD i = false) ∧ (n < 64 → x.getLsbD (63 - n) = true)) ∧
  (∀ x : Word, ∃ n, n ≤ 64 ∧ countTrail x = BitVec.ofNat 64 n ∧
    (∀ i, i < n → x.getLsbD i = false) ∧ (n < 64 → x.getLsbD n = true)) ∧
  (countOnes 0 = 0 ∧ ∀ (x : Word) (i : Nat), i < 64 → x.getLsbD i = false → countOnes (x ||| BitVec.ofNat 64 (2 ^ i)) = countOnes x + 1) ∧
  (∀ (x : Word) (i j : Nat), i < 8 → j < 8 → (byteSwap x).getLsbD (8 * i + j) = x.getLsbD (8 * (7 - i) + j)) ∧
  (∀ (x y old : Word) (i : Nat), i < 64 →
    let pos := (y.extractLsb' 0 6).toNat
    let len := (y.extractLsb' 6 6).toNat + 1
    (bitExtract x y).getLsbD i =
      (if i < len then decide (pos + i < 64) && x.getLsbD (pos + i)
       else y.getLsbD 12 && decide (pos + len - 1 < 64) && x.getLsbD (pos + len - 1)) ∧
    (bitInsert x y old).getLsbD i = (if pos ≤ i ∧ i < pos + len then x.getLsbD (i - pos) else old.getLsbD i))

/-- R302, R303, R300, R295: `li`, `lis`, `ldc` and `bfi` write their value; an `ldc` at or above CONSTLEN raises LOAD_FAULT with TVAL = idx;
`lis` and `bfi` raise ILLEGAL_REG on a port. A register that holds the value of a store not yet performed is read only after it (the model's choice, log entry
181), and an `lis` of one is a turn without effect. -/
def Obligations.ConstantsAndInsert : Prop :=
  ∀ (t : BitVec 4) (d a b : BitVec 5) (i17 : BitVec 17) (i12 : BitVec 12) (s : State), Ready s t true allSeqs (pushes d) →
    (s.writable d = true →
      exec (.li t d i17) s = .next ((s.afterWrite d (BitVec.ofInt 64 i17.toInt)).completed t .seq) ∧
      exec (.ldc t d i12) s =
        (if i12.toNat < s.curSeq.constLen then .next ((s.afterWrite d (NatMap.get 0 s.curSeq.pool i12.toNat)).completed t .seq)
         else .next (s.precise tcLoad (BitVec.ofNat 64 i12.toNat)))) ∧
    (24 ≤ d.toNat ∨ s.awaitsStore d.toNat = false → exec (.lis t d i17) s =
      (if d.toNat < 24 then .next ((s.afterWrite d (BitVec.ofNat 64 ((s.source d).toNat * 2 ^ 17) ||| BitVec.ofNat 64 i17.toNat)).completed t .seq)
       else .next (s.precise tcIllegalReg (BitVec.ofNat 64 d.toNat)))) ∧
    (d.toNat < 24 → s.awaitsStore d.toNat = true → exec (.lis t d i17) s = .next s) ∧
    (s.readable a = true → (s.afterRead a).readable b = true → (24 ≤ d.toNat ∨ ((s.afterRead a).afterRead b).awaitsStore d.toNat = false) →
      exec (.bfi t d a b) s =
        (if d.toNat < 24 then
          .next ((((s.afterRead a).afterRead b).afterWrite d (bitInsert (s.source a) ((s.afterRead a).source b) (s.source d))).completed t .seq)
         else .next (s.precise tcIllegalReg (BitVec.ofNat 64 d.toNat))))

/-- R272: the eight compare conditions, as the table gives them. -/
def condTable (c : BitVec 3) (x y : Word) : Bool :=
  [decide (x = y), decide (x ≠ y), decide (x.toInt < y.toInt), decide (y.toInt ≤ x.toInt), decide (x.toNat < y.toNat), decide (y.toNat ≤ x.toNat),
   decide (x &&& y ≠ 0), decide (x &&& y = 0)].getD c.toNat false

/-- R304, R272, R271: `pcmp` and `pcmpi` write the condition to the predicate and nothing else; a destination that is not p1 to p7 raises
ILLEGAL_REG. -/
def Obligations.CompareResult : Prop :=
  ∀ (t : BitVec 4) (d a b : BitVec 5) (p c : BitVec 3) (i : BitVec 11) (s : State), Ready s t true allSeqs 0 → s.readable a = true →
    ((s.afterRead a).readable b = true →
      (1 ≤ d.toNat → d.toNat ≤ 7 → s.predFree d.toNat = true → exec (.pcmp t d a b c) s =
        .next ((((s.afterRead a).afterRead b).modSeq (fun x =>
          x.setPred d.toNat (condTable c (s.source a) ((s.afterRead a).source b)))).completed t .seq)) ∧
      ((d.toNat = 0 ∨ 8 ≤ d.toNat) → exec (.pcmp t d a b c) s = .next (s.precise tcIllegalReg (BitVec.ofNat 64 d.toNat)))) ∧
    (p ≠ 0 → s.predFree p.toNat = true → exec (.pcmpi t p c a i) s =
      .next (((s.afterRead a).modSeq (fun x => x.setPred p.toNat (condTable c (s.source a) (BitVec.ofInt 64 i.toInt)))).completed t .seq)) ∧
    (p = 0 → exec (.pcmpi t p c a i) s = .next (s.precise tcIllegalReg 0))

/-- R305: the functions of two predicates. -/
def predPairs : List ((BitVec 4 → BitVec 5 → BitVec 5 → BitVec 5 → Instr) × (Bool → Bool → Bool)) :=
  [(.pand, fun x y => x && y), (.por, fun x y => x || y), (.pxor, fun x y => xor x y)]

/-- R305: the functions of one predicate. -/
def predOnes : List ((BitVec 4 → BitVec 5 → BitVec 5 → Instr) × (Bool → Bool)) := [(.pnot, fun x => !x), (.pmov, fun x => x)]

/-- R271, R307, R311: the register files. g0 and p0 keep their values, a written register reads back, every other one is left. -/
def RegisterFiles : Prop :=
  ∀ (x : Seq) (n m : Nat) (v : Word) (b : Bool) (l : BitVec 32), m < 8 →
    ((x.setG n v).greg 0 = 0 ∧ (n ≠ 0 → (x.setG n v).greg n = v) ∧ ∀ j, j ≠ n → (x.setG n v).greg j = x.greg j) ∧
    ((x.setPred m b).pred 0 = true ∧ (m ≠ 0 → (x.setPred m b).pred m = b) ∧ ∀ j, j ≠ m → (x.setPred m b).pred j = x.pred j) ∧
    ((x.setLoop n l).loopCnt n = l ∧ ∀ j, j ≠ n → (x.setLoop n l).loopCnt j = x.loopCnt j)

/-- R307, R308: `pred` opens a block of count instructions under the predicate's value at its issue; a covered instruction whose pattern bit
differs from that value is skipped: it only retires. -/
def PredicateBlock : Prop :=
  (∀ (t : BitVec 4) (p n : BitVec 3) (pat : BitVec 8) (s : State), Ready s t false allSeqs 0 → s.predFree p.toNat = true →
    exec (.pred t p n pat) s = .next ((s.modSeq (fun x =>
      { x with pc := x.pc + 1, from? := none, pb := ⟨n.toNat + 1, s.curSeq.pred p.toNat, pat⟩ })).completed t .keep)) ∧
  (∀ (g : Gate) (body : M Flow) (s : State), s.mayIssue = true → g.cover = true → g.skips = true → s.curSeq.pb.rem ≠ 0 →
    s.curSeq.pb.pat.getLsbD 0 ≠ s.curSeq.pb.pv → issue g body s = .next (s.modSeq (Seq.retired .seq))) ∧
  (∀ (g : Gate) (body : M Flow) (s : State), s.mayIssue = true → g.cover = false → s.curSeq.pb.rem ≠ 0 →
    issue g body s = .next (s.precise tcIllegalOp 0)) ∧
  (∀ p : PbState, (1 < p.rem → p.next.rem = p.rem - 1 ∧ p.next.pv = p.pv ∧ ∀ i, p.next.pat.getLsbD i = p.pat.getLsbD (i + 1)) ∧
    (p.rem ≤ 1 → p.next = {}))

/-- R271, R305 to R308, R311: the registers and predicates keep what is written to them; the predicate block; the `pcomb` forms write their function of predicates to p1 to p7, and `csel` writes the source that its predicate selects; both
of its sources are read. -/
def Obligations.RegistersAndPredicates : Prop :=
  RegisterFiles ∧ PredicateBlock ∧ ∀ (t : BitVec 4) (d a b : BitVec 5) (p : BitVec 3) (s : State),
    (Ready s t true allSeqs 0 → 1 ≤ d.toNat → d.toNat ≤ 7 → a.toNat ≤ 7 →
      s.predFree d.toNat = true → s.predFree a.toNat = true →
      (b.toNat ≤ 7 → s.predFree b.toNat = true → ∀ q ∈ predPairs, exec (q.1 t d a b) s =
        .next ((s.modSeq (fun x => x.setPred d.toNat (q.2 (s.curSeq.pred a.toNat) (s.curSeq.pred b.toNat)))).completed t .seq)) ∧
      (∀ q ∈ predOnes, exec (q.1 t d a) s = .next ((s.modSeq (fun x => x.setPred d.toNat (q.2 (s.curSeq.pred a.toNat)))).completed t .seq))) ∧
    (Ready s t true allSeqs 0 → (d.toNat = 0 ∨ 8 ≤ d.toNat) →
      (∀ q ∈ predPairs, exec (q.1 t d a b) s = .next (s.precise tcIllegalReg (BitVec.ofNat 64 d.toNat))) ∧
      (∀ q ∈ predOnes, exec (q.1 t d a) s = .next (s.precise tcIllegalReg (BitVec.ofNat 64 d.toNat)))) ∧
    (Ready s t true allSeqs 0 → 1 ≤ d.toNat → d.toNat ≤ 7 → 8 ≤ a.toNat →
      (∀ q ∈ predPairs, exec (q.1 t d a b) s = .next (s.precise tcIllegalReg (BitVec.ofNat 64 a.toNat))) ∧
      (∀ q ∈ predOnes, exec (q.1 t d a) s = .next (s.precise tcIllegalReg (BitVec.ofNat 64 a.toNat)))) ∧
    (Ready s t true allSeqs 0 → 1 ≤ d.toNat → d.toNat ≤ 7 → a.toNat ≤ 7 → 8 ≤ b.toNat →
      ∀ q ∈ predPairs, exec (q.1 t d a b) s = .next (s.precise tcIllegalReg (BitVec.ofNat 64 b.toNat))) ∧
    (Ready s t true allSeqs (pushes d) → s.readable a = true → (s.afterRead a).readable b = true → s.writable d = true →
      s.predFree p.toNat = true → exec (.csel t d a b p) s =
        .next ((((s.afterRead a).afterRead b).afterWrite d
          (if s.curSeq.pred p.toNat then s.source a else (s.afterRead a).source b)).completed t .seq))

/-- R270: the target of a branch, relative to its own word index. -/
def Sys2Proof.Machine.State.jumpTarget (s : State) (i : BitVec 17) : Word := s.curSeq.pc + BitVec.ofInt 64 i.toInt

/-- R309, R310: every branch goes to its target or to the next word, and writes its link. -/
def Obligations.BranchResult : Prop :=
  ∀ (t : BitVec 4) (p : BitVec 3) (d a : BitVec 5) (i : BitVec 17) (j : BitVec 12) (s : State), Ready s t false allSeqs 0 →
    (s.predFree p.toNat = true →
      exec (.bt t p i) s = .next (s.completed t (if s.curSeq.pred p.toNat then .branch (s.jumpTarget i) else .seq)) ∧
      exec (.bf t p i) s = .next (s.completed t (if s.curSeq.pred p.toNat then .seq else .branch (s.jumpTarget i)))) ∧
    exec (.jmp t i) s = .next (s.completed t (.branch (s.jumpTarget i))) ∧
    exec (.call t d i) s =
      (if d.toNat < 24 then .next ((s.modSeq (fun x => x.setG d.toNat (x.pc + 1))).completed t (.branch (s.jumpTarget i)))
       else .next (s.precise tcIllegalReg (BitVec.ofNat 64 d.toNat))) ∧
    (s.readable a = true → exec (.jr t d a j) s =
      (if d.toNat < 24 then
        .next (((s.afterRead a).modSeq (fun x => x.setG d.toNat (x.pc + 1))).completed t (.branch (s.source a + BitVec.ofInt 64 j.toInt)))
       else .next (s.precise tcIllegalReg (BitVec.ofNat 64 d.toNat))))

/-- R311, R312, R97, R98: `loop` writes its counter; `bloop` counts down and is taken above 1, and leaves 0 otherwise; a taken `bloop.rot`
also rotates rows and masks; a `bloop.rot` on another sequencer than C raises ILLEGAL_OP with TVAL 1, taken or not. -/
def Obligations.LoopResult : Prop :=
  ∀ (t : BitVec 4) (n : BitVec 2) (a : BitVec 5) (i : BitVec 17) (j : BitVec 12) (s : State),
    (Ready s t false allSeqs 0 →
      (s.readable a = true → exec (.loop t n a j) s =
        .next (((s.afterRead a).modSeq (fun x => x.setLoop n.toNat ((s.source a + BitVec.ofInt 64 j.toInt).extractLsb' 0 32))).completed t .seq)) ∧
      exec (.bloop t n i) s =
        (if 1 < (s.curSeq.loopCnt n.toNat).toNat then
          .next ((s.modSeq (fun x => x.setLoop n.toNat (x.loopCnt n.toNat - 1))).completed t (.branch (s.jumpTarget i)))
         else .next ((s.modSeq (fun x => x.setLoop n.toNat 0)).completed t .seq))) ∧
    (Ready s t false [.C] 0 → exec (.bloopRot t n i) s =
      (if 1 < (s.curSeq.loopCnt n.toNat).toNat then
        .next (((s.modSeq (fun x => x.setLoop n.toNat (x.loopCnt n.toNat - 1))).modCell s.here (fun c =>
          { c with vrb := BitVec.ofNat 8 (c.vrb.toNat + 254), mrb := BitVec.ofNat 3 (c.mrb.toNat + 7) })).completed t (.branch (s.jumpTarget i)))
       else .next ((s.modSeq (fun x => x.setLoop n.toNat 0)).completed t .seq))) ∧
    (s.mayIssue = true → s.curSeq.pb.rem = 0 → s.site.seq ≠ .C → exec (.bloopRot t n i) s = .next (s.precise 0x01 1))

/-- R314: `qlen`, `qpeek` and `tokcnt` report and change nothing but d; `tokadd` signals once and `tokwait` waits once, and both write the count
at issue, and block while the counter is full, or has too few; any other sequencer raises ILLEGAL_REG. -/
def Obligations.QueueAndTokenForms : Prop :=
  ∀ (t : BitVec 4) (d a : BitVec 5) (s : State), Ready s t true allSeqs (pushes d) → s.writable d = true →
    (∀ n, a.toNat = 24 + n →
      ((queueEnds n).2 = s.site.seq → exec (.qlen t d a) s =
        .next ((s.afterWrite d (BitVec.ofNat 64 (s.cur.queue n).length)).completed t .seq)) ∧
      ((queueEnds n).1 = s.site.seq → exec (.qlen t d a) s =
        .next ((s.afterWrite d (BitVec.ofNat 64 ((s.cur.queue n).length + s.cur.pushesInSlots n))).completed t .seq)) ∧
      ((queueEnds n).1 ≠ s.site.seq → (queueEnds n).2 ≠ s.site.seq →
        exec (.qlen t d a) s = .next (s.precise tcIllegalReg (BitVec.ofNat 64 a.toNat))) ∧
      ((queueEnds n).2 = s.site.seq → ∀ v vs, s.cur.queue n = v :: vs → exec (.qpeek t d a) s = .next ((s.afterWrite d v).completed t .seq)) ∧
      ((queueEnds n).2 = s.site.seq → s.cur.queue n = [] → exec (.qpeek t d a) s = .next (s.blockOn 5 n)) ∧
      ((queueEnds n).2 ≠ s.site.seq → exec (.qpeek t d a) s = .next (s.precise tcIllegalReg (BitVec.ofNat 64 a.toNat)))) ∧
    (a.toNat < 8 →
      ((tokenEnds a.toNat).2 = s.site.seq → exec (.tokcnt t d a) s =
        .next ((s.afterWrite d (BitVec.ofNat 64 (s.cur.tokVal a.toNat))).completed t .seq)) ∧
      ((tokenEnds a.toNat).1 = s.site.seq → exec (.tokcnt t d a) s =
        .next ((s.afterWrite d (BitVec.ofNat 64 (s.cur.tokVal a.toNat + s.cur.tokRsv a.toNat))).completed t .seq)) ∧
      ((tokenEnds a.toNat).1 = s.site.seq →
        s.cur.tokVal a.toNat + s.cur.tokRsv a.toNat + (if a.toNat ∈ signalsOf t s.site.seq then 2 else 1) ≤ 255 →
        s.curSeq.slots.length + 1 + pushes d + (signalsOf t s.site.seq).length ≤ 32 → exec (.tokadd t d a) s =
        .next (((s.tokenGiven a.toNat).afterWrite d (BitVec.ofNat 64 (s.cur.tokVal a.toNat))).completed t .seq)) ∧
      ((tokenEnds a.toNat).2 = s.site.seq → (if a.toNat ∈ waitsOf t s.site.seq then 2 else 1) ≤ s.cur.tokVal a.toNat →
        exec (.tokwait t d a) s =
        .next (((s.tokenTaken a.toNat).afterWrite d (BitVec.ofNat 64 (s.cur.tokVal a.toNat))).completed t .seq)) ∧
      ((tokenEnds a.toNat).1 = s.site.seq →
        255 < s.cur.tokVal a.toNat + s.cur.tokRsv a.toNat + (if a.toNat ∈ signalsOf t s.site.seq then 2 else 1) →
        exec (.tokadd t d a) s = .next (s.blockOn 1 a.toNat)) ∧
      ((tokenEnds a.toNat).2 = s.site.seq → s.cur.tokVal a.toNat < (if a.toNat ∈ waitsOf t s.site.seq then 2 else 1) →
        exec (.tokwait t d a) s = .next (s.blockOn 1 a.toNat)) ∧
      ((tokenEnds a.toNat).1 ≠ s.site.seq → exec (.tokadd t d a) s = .next (s.precise tcIllegalReg (BitVec.ofNat 64 a.toNat))) ∧
      ((tokenEnds a.toNat).2 ≠ s.site.seq → exec (.tokwait t d a) s = .next (s.precise tcIllegalReg (BitVec.ofNat 64 a.toNat)))) ∧
    (a.toNat < 8 → (tokenEnds a.toNat).1 ≠ s.site.seq → (tokenEnds a.toNat).2 ≠ s.site.seq →
      exec (.tokcnt t d a) s = .next (s.precise tcIllegalReg (BitVec.ofNat 64 a.toNat))) ∧
    (a.toNat < 24 → exec (.qlen t d a) s = .next (s.precise tcIllegalReg (BitVec.ofNat 64 a.toNat)) ∧
      exec (.qpeek t d a) s = .next (s.precise tcIllegalReg (BitVec.ofNat 64 a.toNat))) ∧
    (8 ≤ a.toNat → exec (.tokcnt t d a) s = .next (s.precise tcIllegalReg (BitVec.ofNat 64 a.toNat)) ∧
      exec (.tokadd t d a) s = .next (s.precise tcIllegalReg (BitVec.ofNat 64 a.toNat)) ∧
      exec (.tokwait t d a) s = .next (s.precise tcIllegalReg (BitVec.ofNat 64 a.toNat)))

/-! ### System instructions and registers -/

/-- R315, R316, R318, R251, R69, R70, R72: `nop` only acts on tokens; `end` ends its sequencer, or in a handler the whole group, with the copies that the trap
stops cancelled and the pending traps discarded; `yield` has no effect at D2, without PREEMPT or without a free save slot, and else orders the group's own
pre-emption into the lowest free slot, with the `yield` retired; `cycle` and `bbox` read. -/
def Obligations.SystemForms : Prop :=
  ∀ (t : BitVec 4) (d : BitVec 5) (s : State),
    (Ready s t true allSeqs 0 →
      exec (.nop t) s = .next (s.completed t .seq) ∧
      (s.cur.tin = false → exec (.endInsn t) s = .next ((s.modSeq (fun x => { x with ended := true })).completed t .seq)) ∧
      (s.cur.tin = true → ∃ u, exec (.endInsn t) s = .next u ∧ (∀ q ∈ allSeqs, (u.cur.seq q).ended = true) ∧ u.cur.tin = false ∧ u.cur.pend = [] ∧
        u.cur.copies = s.cur.copies.map (fun x => if x.handler then x else { x with cancelled := true }) ∧
        u.cur.bound = s.cur.bound ∧ u.launches = s.launches ∧ u.mem = s.mem ∧ u.cur.queues = s.cur.queues)) ∧
    (Ready s t true [.K] 0 → ∀ b, s.cur.bound = some b → ∀ l, s.launch? b.launch = some l → ∀ r, s.region? l.slotsOf = some r →
      (2 ≤ l.level ∨ l.preempt = false ∨ (∀ i, i < l.saveSlots → ∃ e ∈ r.slots, e.1 = i) → exec (.yield t) s = .next (s.completed t .seq)) ∧
      (∀ i, i < l.saveSlots → l.level < 2 → l.preempt = true → l.status = .running → (s.slotAt s.here).pre = false → s.cur.stop = none →
        (∀ e ∈ r.slots, e.1 ≠ i) → (∀ j, j < i → ∃ e ∈ r.slots, e.1 = j) →
        ∃ u, exec (.yield t) s = .next u ∧ u.curSeq.pc = s.curSeq.pc + 1 ∧ u.curSeq.g = s.curSeq.g ∧ u.cur.stop = some .preempt ∧
          (u.slotAt s.here).pre = true ∧ (u.slotAt s.here).v = false ∧ (u.slotAt s.here).slot = l.saveArea + BitVec.ofNat 64 (i * 0x800000) ∧
          (∀ r1, u.region? l.slotsOf = some r1 → r1.slots = r.slots ++ [(i, l.key)]) ∧
          ((∀ pc n, s.cur.joined ≠ some (.grow pc n)) → u.launches = s.launches) ∧ u.mem = s.mem ∧ u.cur.queues = s.cur.queues)) ∧
    (Ready s t true allSeqs (pushes d) → s.writable d = true →
      exec (.cycle t d) s = .next ((s.afterWrite d (BitVec.ofNat 64 s.cycle)).completed t .seq) ∧
      (let b := NatMap.get {} s.boxes s.site.die
       exec (.bbox t d) s = .next ((s.afterWrite d (BitVec.ofNat 64 (b.head + b.events.length * 2 ^ 12 + (if b.frozen then 2 ^ 25 else 0)))).completed t .seq)))

/-- R249, R320, R340, R357, R401: every system register by its offset, with the sequencer that has it (none: every one) and what it reads: its
fields at their places, its reserved bits 0. RLCOPY, 0x700 to 0x7FF of K, stands beside the table. -/
def sysTable : List (Nat × Option SeqId × (State → Cell → SeqId → Nat)) :=
  [(0x100, some .K, fun _ c _ => c.tvecEntry.toNat + (if c.tvecEn then 2 ^ 14 else 0)),
   (0x108, some .K, fun _ c _ => c.tcause.toNat + (if c.tdefer then 2 ^ 8 else 0)),
   (0x110, some .K, fun _ c _ => c.tpc.toNat), (0x118, some .K, fun _ c _ => c.tseq.toNat), (0x120, some .K, fun _ c _ => c.tval.toNat),
   (0x128, none, fun _ c q => (if q = .K ∧ c.tin = true then 1 else 0) + 2 * c.pend.length),
   (0x130, some .K, fun _ c _ => c.rpck.toNat), (0x138, some .K, fun _ c _ => c.rpcl.toNat), (0x140, some .K, fun _ c _ => c.rpcc.toNat),
   (0x148, some .K, fun _ c _ => c.rpcs.toNat), (0x150, some .K, fun _ c _ => c.tsavea.toNat), (0x158, some .K, fun _ c _ => c.tsaveb.toNat),
   (0x180, none, fun _ c q => (c.seq q).waitBound.toNat), (0x188, none, fun s _ _ => s.cycle % 2 ^ 64),
   (0x200, some .C, fun _ c _ => c.vrb.toNat), (0x208, some .C, fun _ c _ => c.mrb.toNat), (0x210, some .C, fun _ c _ => c.fmtbase.toNat),
   (0x218, some .C, fun _ c _ => c.srseed.toNat), (0x220, some .C, fun _ c _ => c.srbase.toNat), (0x228, some .C, fun _ c _ => c.leasemax.toNat),
   (0x300, some .K, fun _ c _ => c.tpbk.toNat), (0x308, none, fun _ c q => ((c.seq q).loopCnt 0).toNat), (0x310, none, fun _ c q => ((c.seq q).loopCnt 1).toNat),
   (0x318, none, fun _ c q => ((c.seq q).loopCnt 2).toNat), (0x320, none, fun _ c q => ((c.seq q).loopCnt 3).toNat),
   (0x400, none, fun _ c q => (c.seq q).trdMiss.toNat), (0x500, some .C, fun _ c _ => c.vcount.toNat),
   (0x508, some .C, fun _ c _ => c.vconsa.toNat + c.vconsb.toNat * 2 ^ 16), (0x510, some .C, fun _ c _ => c.vrkey.toNat), (0x518, some .C, fun _ c _ => c.vrctr.toNat),
   (0x600, some .K, fun _ c _ => c.rlc.iter.toNat + c.rlc.total.toNat * 2 ^ 32), (0x608, some .K, fun _ c _ => c.rlc.norm.toNat),
   (0x610, some .K, fun _ c _ => c.rlc.prev.toNat), (0x618, some .K, fun _ c _ => c.rlc.norm0.toNat), (0x620, some .K, fun _ c _ => c.rlc.exit.toNat),
   (0x628, some .K, fun _ c _ => c.rlc.level.toNat),
   (0x630, some .K, fun _ c _ => c.rlc.st.toNat + (if c.rlc.held then 4 else 0) + c.rlc.stagc.toNat * 2 ^ 16), (0x638, some .K, fun _ c _ => c.rlc.block.toNat)]

/-- R249, R320, R340, R357: the registers that `wrsys` may write, whether only in a handler, and what a register of 64 bits keeps of the value written: its
own bits; VRB bit 0 is written as 0, LEASEMAX 0 as 1, a REM of TPBK above 8 as 0. -/
def sysWritable : List (Nat × Bool × (Word → Nat)) :=
  [(0x100, false, fun v => v.toNat % 2 ^ 15), (0x108, true, fun v => v.toNat % 2 ^ 9), (0x110, true, fun v => v.toNat), (0x118, true, fun v => v.toNat % 4),
   (0x120, true, fun v => v.toNat), (0x130, true, fun v => v.toNat), (0x138, true, fun v => v.toNat), (0x140, true, fun v => v.toNat), (0x148, true, fun v => v.toNat),
   (0x150, false, fun v => v.toNat), (0x158, false, fun v => v.toNat), (0x180, false, fun v => v.toNat % 2 ^ 32), (0x200, false, fun v => v.toNat % 256 / 2 * 2),
   (0x208, false, fun v => v.toNat % 8), (0x210, false, fun v => v.toNat % 64), (0x218, false, fun v => v.toNat), (0x220, false, fun v => v.toNat % 2 ^ 24),
   (0x228, false, fun v => max 1 (v.toNat % 256)),
   (0x300, true, fun v => v.toNat / 256 % 256 * 256 + v.toNat / 16 % 2 * 16 + (if 8 < v.toNat % 16 then 0 else v.toNat % 16)),
   (0x400, false, fun v => v.toNat % 2 ^ 32), (0x510, false, fun v => v.toNat), (0x518, false, fun v => v.toNat)]

/-- R319, R249: `rdsys` reads a register that exists on its sequencer, and `wrsys` writes one of those that may be written, so that it reads back as the value's
own bits and no other register changes; a read-only register, and a handler's register outside a handler, raise PRIV on a write; an arg
that names no register of the sequencer raises ILLEGAL_REG. -/
def Obligations.SystemRegisters : Prop :=
  ∀ (t : BitVec 4) (d a : BitVec 5) (x : BitVec 9) (s : State),
    let off := 0x100 + 8 * x.toNat
    let q := s.site.seq
    let isCopy := decide (q = .K) && decide (0x700 ≤ off) && decide (off < 0x800)
    (Ready s t true allSeqs (pushes d) → s.writable d = true →
      (∀ r ∈ sysTable, r.1 = off → (r.2.1 = none ∨ r.2.1 = some q) →
        exec (.rdsys t d x) s = .next ((s.afterWrite d (BitVec.ofNat 64 (r.2.2 s s.cur q))).completed t .seq)) ∧
      (isCopy = true → exec (.rdsys t d x) s = .next ((s.afterWrite d (NatMap.get 0 s.cur.rlc.copy ((off - 0x700) / 8))).completed t .seq)) ∧
      ((∀ r ∈ sysTable, r.1 = off → r.2.1 ≠ none ∧ r.2.1 ≠ some q) → isCopy = false →
        exec (.rdsys t d x) s = .next (s.precise tcIllegalReg (BitVec.ofNat 64 x.toNat)))) ∧
    (Ready s t true allSeqs 0 → s.readable a = true →
      (∀ r ∈ sysTable, r.1 = off → (r.2.1 = none ∨ r.2.1 = some q) →
        (∀ w ∈ sysWritable, w.1 = off →
          (w.2.1 = true → s.cur.tin = false → exec (.wrsys t a x) s = .next (s.precise tcPriv 0)) ∧
          (w.2.1 = false ∨ s.cur.tin = true → ∃ u, exec (.wrsys t a x) s = .next u ∧ u.curSeq.pc = s.curSeq.pc + 1 ∧ u.mem = s.mem ∧
            r.2.2 u u.cur q = w.2.2 (s.source a) ∧ (∀ r1 ∈ sysTable, r1.1 ≠ off → r1.2.2 u u.cur q = r1.2.2 s s.cur q) ∧ u.curSeq.g = s.curSeq.g)) ∧
        ((∀ w ∈ sysWritable, w.1 ≠ off) → exec (.wrsys t a x) s = .next (s.precise tcPriv 0))) ∧
      (isCopy = true → exec (.wrsys t a x) s = .next (s.precise tcPriv 0)) ∧
      ((∀ r ∈ sysTable, r.1 = off → r.2.1 ≠ none ∧ r.2.1 ≠ some q) → isCopy = false →
        exec (.wrsys t a x) s = .next (s.precise tcIllegalReg (BitVec.ofNat 64 x.toNat))))

/-- R317, R275 row 1, R245, R246: `trap` and `break` raise their cause with the immediate as TVAL, and a word that is no instruction raises ILLEGAL_OP
with TVAL 0; the stop begins with TPC the instruction's own word, and neither registers nor memory change. -/
def Obligations.TrapInstructions : Prop :=
  (∀ (t : BitVec 4) (i : BitVec 9) (s : State), Ready s t true allSeqs 0 →
    exec (.trap t i) s = .next (s.precise 0x0E (BitVec.ofNat 64 i.toNat)) ∧
    exec (.breakInsn t i) s = .next (s.precise 0x0F (BitVec.ofNat 64 i.toNat))) ∧
  (∀ s : State, s.mayIssue = true → exec .undefinedEncoding s = .next (s.precise 0x01 0)) ∧
  (∀ (s : State) (c : BitVec 8) (v : Word), s.cur.stop = none →
    (s.precise c v).cur.stop = some (.trap ⟨c, false, s.curSeq.pc, s.site.seq, v⟩ s.cycle) ∧
    (s.precise c v).curSeq = { s.curSeq with blocked := none, access := none, tried := none } ∧
    (∀ k, k ≠ s.here → (s.precise c v).cellAt k = s.cellAt k) ∧
    (∀ pa, (s.precise c v).byteAt pa = s.byteAt pa) ∧ (s.precise c v).cur.queues = s.cur.queues ∧ (s.precise c v).cur.tok = s.cur.tok)

/-- R251, R316, R248, R406: `resume` outside a handler raises PRIV; in a handler it leaves it, restarts every sequencer that has not ended at its RPC,
gives K back its predicate block, its ended state, the branch that a repeated FETCH_FAULT names and what it had joined, restarts stopped copies, and takes the oldest pending trap at once. -/
def Obligations.ResumeReturns : Prop :=
  ∀ (t : BitVec 4) (s : State), Ready s t true [.K] 0 →
    (s.cur.tin = false → exec (.resume t) s = .next (s.precise tcPriv 0)) ∧
    (s.cur.tin = true → ∃ u, exec (.resume t) s = .next u ∧
      u.cur.tin = false ∧ u.cur.k.pc = s.cur.rpck ∧ u.cur.k.ended = s.cur.kWasEnded ∧
      u.cur.k.pb = pbOf s.cur.tpbk ∧
      u.cur.l.pc = (if s.cur.l.ended then s.cur.l.pc else s.cur.rpcl) ∧ u.cur.c.pc = (if s.cur.c.ended then s.cur.c.pc else s.cur.rpcc) ∧
      u.cur.s.pc = (if s.cur.s.ended then s.cur.s.pc else s.cur.rpcs) ∧
      u.cur.l.ended = s.cur.l.ended ∧ u.cur.c.ended = s.cur.c.ended ∧ u.cur.s.ended = s.cur.s.ended ∧
      (∀ b, s.cur.below = some b → u.cur.joined = b.joined ∧ u.cur.k.from? = (if s.cur.rpck = b.pc then b.from? else none)) ∧
      (∀ c ∈ u.cur.copies, c.stopped = false) ∧ u.cur.rlc.held = false ∧
      u.cur.k.g = s.cur.k.g ∧ u.cur.k.p = s.cur.k.p ∧ u.cur.k.lc = s.cur.k.lc ∧ u.cur.queues = s.cur.queues ∧
      (∀ pa, u.byteAt pa = s.byteAt pa) ∧
      (s.cur.pend = [] → u.cur.stop = s.cur.stop ∧ u.cur.pend = []) ∧
      (∀ r rs, s.cur.pend = r :: rs → u.cur.stop = some (.trap r s.cycle) ∧ u.cur.pend = rs))

/-! ### Memory instructions -/

/-- The bytes that a load at pa takes from its place in memory, under the stores of its own sequencer that are on their way (R107, R122). -/
def Sys2Proof.Machine.State.loadSees (s : State) (pa at' n : Nat) : Word :=
  BitVec.ofNat 64 (ofLe ((s.ownStores s.here s.site.seq).foldl (overlay pa) (s.bytesAt at' n)))

/-- A register that a load of n bytes at pa has written, noted where the value came from a store of its own that is not performed (log entry 181). -/
def Sys2Proof.Machine.State.noted (s : State) (d : BitVec 5) (pa n : Nat) : State :=
  if s.forwards pa n = true ∧ d.toNat < 24 then s.modSeq (fun x => { x with fwd := x.fwd ++ [d.toNat] }) else s

/-- The state in which an access of the sequencer to va has left for its home die (R17): it waits for the answer; as it was where 256 are unanswered. -/
def Sys2Proof.Machine.State.asks' (s s1 : State) (pa : Nat) (op : MemOp) (cls : StoreClass) (va : Word) : State :=
  match s1.request (s.here / 64) (homeDie pa) pa op s.here s.site.seq cls s.curSeq.pc va with
  | none => s
  | some (q, s2) => s2.modSeq (fun x => { x with access := some (.waiting (homeDie pa) q), blocked := none })

/-- R330, R331, R164, R166, R168, R17, R19, R183: what a virtual load of n bytes at offset off does: misaligned, it traps; its page unreadable, it traps with
its walk counted; at home on its own die it reads, extends and retires, or raises UNCORRECTABLE; to another die it is sent, once no store of its own to the
place is on its way, and the answer completes it in the same way. The model's choice: a load is performed as it issues (log entry 12), an ordered one waits
for ordered stores, and one that is not relaxed for a store that it would be given before it is performed, as a turn without effect (log entries 13, 181). -/
def LoadGoes (i : Instr) (t : BitVec 4) (d a : BitVec 5) (n off : Nat) (sg : Bool) (cls : LoadClass) (s : State) : Prop :=
  let s1 := s.afterRead a
  let ea := s.source a + BitVec.ofNat 64 off
  (ea.toNat % n ≠ 0 → exec i s = .next (s.precise tcMisaligned ea)) ∧
  (ea.toNat % n = 0 →
    (cls = .ordered → s1.orderedPending = true → exec i s = .next s) ∧
    (¬ (cls = .ordered ∧ s1.orderedPending = true) →
      (s1.translate s1.here ea false = .error .fault → exec i s = .next ((s.noteWalk s.here ea).precise tcLoad ea)) ∧
      (s1.translate s1.here ea false = .error .bad → exec i s = .next ((s.noteWalk s.here ea).precise tcUncorrectable ea)) ∧
      (∀ pa repl s2, s1.translate s1.here ea false = .ok (pa, repl, s2) → cls ≠ .relaxed → s2.forwards pa n = true → exec i s = .next s) ∧
      (∀ pa repl s2, s1.translate s1.here ea false = .ok (pa, repl, s2) → cls = .relaxed ∨ s2.forwards pa n = false →
        let at' := if repl then s2.replica (s2.here / 64) pa else pa
        let bad := s2.badRead at' n || s2.heldBad s2.here s2.site.seq pa n
        (homeDie at' = s2.here / 64 →
          (bad = true → exec i s = .next (s.precise tcUncorrectable ea)) ∧
          (bad = false → exec i s =
            .next ((((s2.noteLease at').afterWrite d (extendLoad sg n (s2.loadSees pa at' n))).noted d pa n).completed t .seq))) ∧
        (homeDie at' ≠ s2.here / 64 →
          (s2.curSeq.access = none → s2.overlapsOwn pa n = true → exec i s = .next s) ∧
          (s2.curSeq.access = none → s2.overlapsOwn pa n = false → ∀ pa0 r0 s0, s.translate s.here ea false = .ok (pa0, r0, s0) →
            exec i s = .next (s.asks' s0 pa0 (.read n) .relaxed ea)) ∧
          (∀ dst q, s2.curSeq.access = some (.waiting dst q) → exec i s = .next s) ∧
          (s2.curSeq.access = some (.answered .uncorrectable) → exec i s = .next (s.precise tcUncorrectable ea)) ∧
          (∀ v, s2.curSeq.access = some (.answered (.value v)) →
            exec i s = .next (((s2.afterWrite d (extendLoad sg n v)).noted d pa n).completed t .seq)) ∧
          (s2.curSeq.access = some .lost → exec i s = .next (s.precise tcLoad ea))))))

/-- R329, R330: `ldo`, `ldx` and `ldacq`, at every size, signedness and offset. The model's choice: loads are performed as they issue (log entry 12), and the
ordering waits are turns without effect that no bound counts (log entries 13, 181). -/
def Obligations.VirtualLoads : Prop :=
  ∀ (t : BitVec 4) (d a : BitVec 5) (z : BitVec 2) (sg : BitVec 1) (c : BitVec 2) (o7 : BitVec 7) (o9 : BitVec 9) (o6 : BitVec 6) (s : State),
    Ready s t true allSeqs (pushes d) → s.readable a = true → s.writable d = true →
    LoadGoes (.ldo t d a z sg c o7) t d a (2 ^ z.toNat) (o7.toNat * 2 ^ z.toNat) (sg == 1) .ordered s ∧
    LoadGoes (.ldx t d a z sg o9) t d a (2 ^ z.toNat) (o9.toNat * 2 ^ z.toNat) (sg == 1) .relaxed s ∧
    LoadGoes (.ldacq t d a z sg c o6) t d a (2 ^ z.toNat) (o6.toNat * 2 ^ z.toNat) (sg == 1) .acquire s

/-- What a store forgets once the sequencer's earlier stores are performed: the `fence rel` before it, and which registers hold values of such stores. -/
def Sys2Proof.Machine.State.settled (s : State) : State :=
  if s.storesDone s.here s.site.seq then s.modSeq (fun x => { x with relFence := false, fwd := [] }) else s

/-- R330, R122, R123, R166: what a virtual store does: misaligned, it traps; an ordered one waits for earlier ordered stores, a release for every earlier
store; a page that it may not write traps, its walk counted; an ordered or release store waits for a word that a lock or a held write covers, a relaxed one
for an entry of the commit buffer; else it leaves through a check slot with the low bytes of the data register, popped after the base. The model's choice:
the INDEX of a locked word's flag (log entry 11), the ordering waits as turns without effect, that of a store after `fence rel` among them (log entry 13). -/
def StoreGoes (i : Instr) (t : BitVec 4) (d a : BitVec 5) (n off : Nat) (cls : StoreClass) (s : State) : Prop :=
  let s1 := (s.afterRead a).afterRead d
  let ea := s.source a + BitVec.ofNat 64 off
  (ea.toNat % n ≠ 0 → exec i s = .next (s.precise tcMisaligned ea)) ∧
  (ea.toNat % n = 0 →
    ((cls = .ordered ∧ s1.orderedPending = true) ∨ (cls = .release ∧ s1.storesDone s1.here s1.site.seq = false) → exec i s = .next s) ∧
    (¬ ((cls = .ordered ∧ s1.orderedPending = true) ∨ (cls = .release ∧ s1.storesDone s1.here s1.site.seq = false)) →
      (s1.translate s1.here ea true = .error .fault → exec i s = .next ((s.noteWalk s.here ea).precise tcStore ea)) ∧
      (s1.translate s1.here ea true = .error .bad → exec i s = .next ((s.noteWalk s.here ea).precise tcUncorrectable ea)) ∧
      (∀ pa repl s2, s1.translate s1.here ea true = .ok (pa, repl, s2) → s2.fenced = true → exec i s = .next s) ∧
      (∀ pa repl s2, s1.translate s1.here ea true = .ok (pa, repl, s2) → s2.fenced = false →
        (s2.wordHeld pa = true → cls ≠ .relaxed → exec i s = .next (s.blockOn 0 (spOff pa / 64))) ∧
        (s2.wordHeld pa = true → cls = .relaxed → (s2.cellAt (spCell pa)).freeEntry = none → exec i s = .next (s.blockOn 7 0)) ∧
        (s2.wordHeld pa = false ∨ (cls = .relaxed ∧ (s2.cellAt (spCell pa)).freeEntry.isSome = true) →
          exec i s = .next ((s2.settled.modSeq (fun x => { x with slots := x.slots ++
            [⟨.store pa (leBytes n ((s.afterRead a).source d).toNat) cls repl x.pc ea, .store pa (leBytes n ((s.afterRead a).source d).toNat) cls repl x.pc ea, s2.cycle, []⟩] })).completed t .seq)))))

/-- R332, R171, R409: `fence.sc` holds the sequencer until its earlier stores are performed and then only retires; `fence.rel` retires, and the stores and
atomics after it wait for the earlier stores; `fence.acq` only retires, but waits for a store that an earlier load was given before it is performed. The
model's choice: loads are performed in program order (log entry 12), and a wait is a turn without effect (log entry 13). -/
def FenceForms : Prop :=
  ∀ (t : BitVec 4) (c : BitVec 2) (s : State), Ready s t true allSeqs 0 →
    exec (.fenceRel t c) s = .next ((s.modSeq (fun x => { x with relFence := true })).completed t .seq) ∧
    (s.curSeq.fwd = [] ∨ s.storesDone s.here s.site.seq = true → exec (.fenceAcq t c) s = .next (s.completed t .seq)) ∧
    (s.curSeq.fwd ≠ [] → s.storesDone s.here s.site.seq = false → exec (.fenceAcq t c) s = .next s) ∧
    (s.storesDone s.here s.site.seq = true → exec (.fenceSc t c) s = .next (s.completed t .seq)) ∧
    (s.storesDone s.here s.site.seq = false → exec (.fenceSc t c) s = .next s)

/-- R329, R330, R332, R171: `sto`, `stx` and `strel`, at every size and offset, and the three fences. The model's choice: loads performed as they issue, the
flag INDEX of a locked word, and the ordering waits as turns without effect (log entries 11, 12, 13). -/
def Obligations.StoresAndFences : Prop :=
  FenceForms ∧ ∀ (t : BitVec 4) (d a : BitVec 5) (z : BitVec 2) (c : BitVec 2) (o7 : BitVec 7) (o9 : BitVec 9) (o6 : BitVec 6) (s : State),
    Ready s t true allSeqs 1 → s.readable a = true → (s.afterRead a).readable d = true →
    StoreGoes (.sto t d a z c o7) t d a (2 ^ z.toNat) (o7.toNat * 2 ^ z.toNat) .ordered s ∧
    StoreGoes (.stx t d a z o9) t d a (2 ^ z.toNat) (o9.toNat * 2 ^ z.toNat) .relaxed s ∧
    StoreGoes (.strel t d a z c o6) t d a (2 ^ z.toNat) (o6.toNat * 2 ^ z.toNat) .release s

/-- R330: `lds` and `sts` reach the scratchpad of their own cell at an untranslated offset, and fault where the access does not lie wholly below
0x40_0000. The model's choice: an `lds` is performed as it issues (log entry 12), a register given an unperformed store's bytes is noted (log entry 181), an
`sts` after `fence rel` waits as a turn without effect (log entry 13). -/
def Obligations.LocalLoadsAndStores : Prop :=
  ∀ (t : BitVec 4) (d a : BitVec 5) (z : BitVec 2) (sg : BitVec 1) (o : BitVec 9) (s : State), s.readable a = true → s.here / 64 < 16 →
    let n := 2 ^ z.toNat
    let ea := s.source a + BitVec.ofNat 64 (o.toNat * n)
    let pa := spAddr s.here ea.toNat
    (Ready s t true allSeqs (pushes d) → s.writable d = true →
      (ea.toNat % n ≠ 0 → exec (.lds t d a z sg o) s = .next (s.precise tcMisaligned ea)) ∧
      (ea.toNat % n = 0 →
        (0x400000 < ea.toNat + n → exec (.lds t d a z sg o) s = .next (s.precise tcLoad ea)) ∧
        (ea.toNat + n ≤ 0x400000 → (s.badRead pa n || (s.afterRead a).heldBad s.here s.site.seq pa n) = true →
          exec (.lds t d a z sg o) s = .next (s.precise tcUncorrectable ea)) ∧
        (ea.toNat + n ≤ 0x400000 → (s.badRead pa n || (s.afterRead a).heldBad s.here s.site.seq pa n) = false →
          exec (.lds t d a z sg o) s =
            .next ((((s.afterRead a).afterWrite d (extendLoad (sg == 1) n ((s.afterRead a).loadSees pa pa n))).noted d pa n).completed t .seq)))) ∧
    (Ready s t true allSeqs 1 → (s.afterRead a).readable d = true →
      (ea.toNat % n ≠ 0 → exec (.sts t d a z o) s = .next (s.precise tcMisaligned ea)) ∧
      (ea.toNat % n = 0 →
        (0x400000 < ea.toNat + n → exec (.sts t d a z o) s = .next (s.precise tcStore ea)) ∧
        (ea.toNat + n ≤ 0x400000 → s.fenced = true → exec (.sts t d a z o) s = .next s) ∧
        (ea.toNat + n ≤ 0x400000 → s.fenced = false → s.wordHeld pa = true → s.cur.freeEntry = none → exec (.sts t d a z o) s = .next (s.blockOn 7 0)) ∧
        (ea.toNat + n ≤ 0x400000 → s.fenced = false → s.wordHeld pa = false ∨ s.cur.freeEntry.isSome = true →
          exec (.sts t d a z o) s = .next ((((s.afterRead a).afterRead d).settled.modSeq (fun x => { x with slots := x.slots ++
            [⟨.store pa (leBytes n ((s.afterRead a).source d).toNat) .relaxed false x.pc ea,
              .store pa (leBytes n ((s.afterRead a).source d).toNat) .relaxed false x.pc ea, s.cycle, []⟩] })).completed t .seq))))

/-- R333: the new value of an atomic on w-bit numbers, by operation; none where a `cas` fails. -/
def atomTable (op w old y c : Nat) : Option Nat :=
  [some y, some ((old + y) % 2 ^ w), some (old &&& y), some (old ||| y), some (old ^^^ y),
   some (if (BitVec.ofNat w old).toInt < (BitVec.ofNat w y).toInt then y else old), some (max old y),
   if old = c then some y else none].getD op none

/-- R333, R171, R122, R17, R19, R184: what an atomic at home on its own die does to memory and to d, what it waits for, and how the answer of another home
completes it; it issues once its result has room (its signals have, as it is ready). The model's choice: the INDEX of a locked word's flag (log entry 11)
and the ordering waits as turns without effect (log entry 13). -/
def AtomGoes (i : Instr) (op : Nat) (t : BitVec 4) (d a b : BitVec 5) (z : BitVec 1) (c : Word) (s : State) : Prop :=
  let n := if z = 1 then 8 else 4
  let s1 := (s.afterRead a).afterRead b
  let ea := s.source a
  let y := (s.afterRead a).source b
  (ea.toNat % n ≠ 0 → exec i s = .next (s.precise tcMisaligned ea)) ∧
  (ea.toNat % n = 0 → s1.curSeq.access = none → s1.orderedPending = true ∨ s1.fenced = true → exec i s = .next s) ∧
  (ea.toNat % n = 0 → s1.curSeq.access ≠ none ∨ (s1.orderedPending = false ∧ s1.fenced = false) →
    (s1.translate s1.here ea true = .error .fault → exec i s = .next ((s.noteWalk s.here ea).precise tcStore ea)) ∧
    (s1.translate s1.here ea true = .error .bad → exec i s = .next ((s.noteWalk s.here ea).precise tcUncorrectable ea)) ∧
    (∀ pa repl s2, s1.translate s1.here ea true = .ok (pa, repl, s2) → s2.curSeq.access = none → s2.overlapsOwn pa n = true →
      exec i s = .next (if s2.wordHeld pa then s.blockOn 0 (spOff pa / 64) else s)) ∧
    (∀ pa s2, s1.translate s1.here ea true = .ok (pa, false, s2) → s2.overlapsOwn pa n = false → homeDie pa = s2.here / 64 →
      (s2.wordHeld pa = true → exec i s = .next (s.blockOn 0 (spOff pa / 64))) ∧
      (s2.wordHeld pa = false → s2.badRead pa n = true → exec i s = .next (s.precise tcUncorrectable ea)) ∧
      (s2.wordHeld pa = false → s2.badRead pa n = false →
        let old := ofLe (s2.bytesAt pa n)
        let s3 := match atomTable op (8 * n) old (y.toNat % 2 ^ (8 * n)) (c.toNat % 2 ^ (8 * n)) with
          | some v => s2.poke pa (leBytes n v)
          | none => s2
        exec i s = .next ((s3.afterWrite d (BitVec.ofNat 64 old)).completed t .seq))) ∧
    (∀ pa repl s2, s1.translate s1.here ea true = .ok (pa, repl, s2) → (repl = true ∨ homeDie pa ≠ s2.here / 64) →
      (s2.curSeq.access = none → s2.overlapsOwn pa n = false → repl = false → ∀ pa0 r0 s0, s.translate s.here ea true = .ok (pa0, r0, s0) →
        exec i s = .next (s.asks' s0 pa0 (.atomic op n y c) .ordered ea)) ∧
      (s2.curSeq.access = none → s2.overlapsOwn pa n = false → repl = true → ∀ pa0 r0 s0, s.translate s.here ea true = .ok (pa0, r0, s0) →
        exec i s = .next ((s0.sendReplica { pa := pa0, op := .atomic op n y c, cell := s.here, seq := s.site.seq, cls := .ordered, pc := s.curSeq.pc, va := ea }).modSeq
          (fun x => { x with access := some (.waiting replicaDst 0), blocked := none }))) ∧
      (∀ dst q, s2.curSeq.access = some (.waiting dst q) → exec i s = .next s) ∧
      (s2.curSeq.access = some (.answered .uncorrectable) → exec i s = .next (s.precise tcUncorrectable ea)) ∧
      (∀ v, s2.curSeq.access = some (.answered (.value v)) → exec i s = .next ((s2.afterWrite d v).completed t .seq)) ∧
      (s2.curSeq.access = some .lost → exec i s = .next (s.precise tcStore ea))))

/-- R333: the seven atomics with two operands, each with its operation number. -/
def atomForms : List ((BitVec 4 → BitVec 5 → BitVec 5 → BitVec 5 → BitVec 1 → BitVec 2 → Instr) × Nat) :=
  [(.atomSwap, 0), (.atomAdd, 1), (.atomAnd, 2), (.atomOr, 3), (.atomXor, 4), (.atomMax, 5), (.atomMaxz, 6)]

/-- R333, R295: every atomic, and `cas` with its comparand from d; a `cas` whose d is a port raises ILLEGAL_REG. The model's choice: KIND 0 with the word's
number for a locked word (log entry 11), and the ordering waits as turns without effect (log entry 13). -/
def Obligations.Atomics : Prop :=
  ∀ (t : BitVec 4) (d a b : BitVec 5) (z : BitVec 1) (c : BitVec 2) (s : State), s.readable a = true → (s.afterRead a).readable b = true →
    (Ready s t true allSeqs (pushes d) → s.writable d = true → ∀ p ∈ atomForms, AtomGoes (p.1 t d a b z c) p.2 t d a b z 0 s) ∧
    (Ready s t true allSeqs 0 → d.toNat < 24 → ((s.afterRead a).afterRead b).readable d = true → AtomGoes (.atomCas t d a b z c) 7 t d a b z (s.curSeq.greg d.toNat) s) ∧
    (Ready s t true allSeqs 0 → 24 ≤ d.toNat → exec (.atomCas t d a b z c) s = .next (s.precise tcIllegalReg (BitVec.ofNat 64 d.toNat)))

/-! ### Tags, the tagged store, tensor accesses -/

/-- The lowest tag of a mask that satisfies p (R336). -/
def IsLowest (m : Word) (p : Nat → Bool) (i : Nat) : Prop :=
  i < 64 ∧ m.getLsbD i = true ∧ p i = true ∧ ∀ j, j < i → ¬ (m.getLsbD j = true ∧ p j = true)

/-- No tag of a mask satisfies p. -/
def NoneOf (m : Word) (p : Nat → Bool) : Prop := ∀ j, j < 64 → ¬ (m.getLsbD j = true ∧ p j = true)

/-- R336: the waits and reads of tags. `waitany` gives the lowest done tag and blocks while there is none, `waitall` gives the mask of non-zero
statuses and blocks while one is not done, `ffr` never blocks; `tagrd` gives done and status, and TAG_FAULT from 64 on. -/
def Obligations.TagReads : Prop :=
  ∀ (t : BitVec 4) (d a : BitVec 5) (s : State), Ready s t true allSeqs (pushes d) → s.readable a = true → s.writable d = true →
    let m := s.source a
    let s1 := s.afterRead a
    (∀ i, IsLowest m s.cur.tagDone i → exec (.waitany t d a) s = .next ((s1.afterWrite d (BitVec.ofNat 64 i)).completed t .seq)) ∧
    (m = 0 → exec (.waitany t d a) s = .next ((s1.afterWrite d 64).completed t .seq)) ∧
    (m ≠ 0 → NoneOf m s.cur.tagDone → ∀ i, IsLowest m (fun _ => true) i → exec (.waitany t d a) s = .next (s.blockOn 2 i)) ∧
    (NoneOf m (fun i => !s.cur.tagDone i) → ∃ r, exec (.waitall t d a) s = .next ((s1.afterWrite d r).completed t .seq) ∧
      ∀ i, i < 64 → r.getLsbD i = (m.getLsbD i && s.cur.tagStatus i != 0)) ∧
    (∀ i, IsLowest m (fun i => !s.cur.tagDone i) i → exec (.waitall t d a) s = .next (s.blockOn 2 i)) ∧
    (∀ i, IsLowest m s.cur.tagDone i → exec (.ffr t d a) s = .next ((s1.afterWrite d (BitVec.ofNat 64 i)).completed t .seq)) ∧
    (NoneOf m s.cur.tagDone → exec (.ffr t d a) s = .next ((s1.afterWrite d 64).completed t .seq)) ∧
    (m.toNat < 64 → exec (.tagrd t d a) s = .next ((s1.afterWrite d (BitVec.ofNat 64 (s.cur.tagWord m.toNat).toNat)).completed t .seq)) ∧
    (64 ≤ m.toNat → exec (.tagrd t d a) s = .next (s.precise tcTag m))

/-- R336, R197: `tagclr` clears the tags of its mask and no other; `tagst` waits for the sequencer's earlier stores and sets one tag done with its status;
`tagst.arm` arms a region from a good record and clears its tag, and refuses a record at a bad place, of a bad form, or with an uncorrectable word. The model's choice: the wait is a turn without effect (log entry 13), and
BASE and LEN must be multiples of 8 (log entry 17). -/
def Obligations.TagWrites : Prop :=
  ∀ (t : BitVec 4) (a b : BitVec 5) (s : State), Ready s t true allSeqs 0 → s.readable a = true →
    (let m := s.source a
     ∃ u, exec (.tagclr t a) s = .next u ∧ u.curSeq.pc = s.curSeq.pc + 1 ∧
      (∀ i, u.cur.tagWord i = if m.getLsbD i then 0 else s.cur.tagWord i) ∧ ∀ pa, u.byteAt pa = s.byteAt pa) ∧
    ((s.afterRead a).readable b = true →
      let n := s.source a
      let v := (s.afterRead a).source b
      let s2 := (s.afterRead a).afterRead b
      (64 ≤ n.toNat → exec (.tagst t a b) s = .next (s.precise tcTag n) ∧ exec (.tagstArm t a b) s = .next (s.precise tcTag n)) ∧
      (n.toNat < 64 →
        (s2.storesDone s2.here s2.site.seq = false → exec (.tagst t a b) s = .next s) ∧
        (s2.storesDone s2.here s2.site.seq = true → exec (.tagst t a b) s =
          .next ((s2.modCell s2.here (fun c => c.setTag n.toNat (BitVec.ofNat 3 v.toNat))).completed t .seq)) ∧
        ((v.toNat % 32 ≠ 0 ∨ 0x400000 - 31 ≤ v.toNat) → exec (.tagstArm t a b) s = .next (s.precise tcTag v)) ∧
        (v.toNat % 32 = 0 → v.toNat < 0x400000 - 31 → s2.badRead (spAddr s2.here v.toNat) 32 = true →
          exec (.tagstArm t a b) s = .next (s.precise tcUncorrectable v)) ∧
        (v.toNat % 32 = 0 → v.toNat < 0x400000 - 31 → s2.badRead (spAddr s2.here v.toNat) 32 = false →
          (armRecord (s2.seenBytes s2.here s2.site.seq (spAddr s2.here v.toNat) 32) = none →
            exec (.tagstArm t a b) s = .next (s.precise tcTag v)) ∧
          (∀ r, armRecord (s2.seenBytes s2.here s2.site.seq (spAddr s2.here v.toNat) 32) = some r →
            exec (.tagstArm t a b) s =
              .next ((s2.modCell s2.here (fun c => { (c.clearTag n.toNat) with regions := NatMap.put {} c.regions n.toNat r })).completed t .seq)))))

/-- R339, R338, R105, R106: the five instructions of the tagged store. `tlook` gives the slot of the line or 0xFFFF_FFFF; `tstat` gives word 1 of the
entry; `tinv` drops V, PIN and COUNT; `trd` gives 0 and counts a miss on an invalid entry, extends its bytes and counts down on a valid one, and
raises MISALIGNED on a bad offset; of two reads of the last count in one cycle the later sequencer in the order K, L, C, S waits; `tfill` claims the entry and
starts a fill, and waits for a fill in flight and for its own stores to a line of another die. The model's choice: the line's bytes as they stand at issue
(log entry 14), and the order of two last reads in one cycle (log entry 154). -/
def Obligations.TaggedStore : Prop :=
  ∀ (t : BitVec 4) (d a b : BitVec 5) (sg : BitVec 1) (z : BitVec 2) (s : State), s.readable a = true →
    let x := s.source a
    let s1 := s.afterRead a
    let i := x.toNat % 2 ^ 14
    (Ready s t true allSeqs (pushes d) → s.writable d = true →
      exec (.tstat t d a) s = .next ((s1.afterWrite d (s.cur.entry i).word1).completed t .seq) ∧
      (∃ v, exec (.tlook t d a) s = .next ((s1.afterWrite d (BitVec.ofNat 64 v)).completed t .seq) ∧
        (v = 0xFFFFFFFF ∨ ∃ w, w < 4 ∧ v = 4 * lineSet x + w ∧ ((s.cur.entry v).v || (s.cur.entry v).fill) = true ∧ (s.cur.entry v).line = x.extractLsb' 7 45) ∧
        (∀ w, w < 4 → ((s.cur.entry (4 * lineSet x + w)).v || (s.cur.entry (4 * lineSet x + w)).fill) = true →
          (s.cur.entry (4 * lineSet x + w)).line = x.extractLsb' 7 45 → v ≤ 4 * lineSet x + w)) ∧
      (s1.readable b = true →
        let off := s1.source b
        let s2 := s1.afterRead b
        let e := s.cur.entry i
        let n := 2 ^ z.toNat
        ((127 < off.toNat ∨ off.toNat % n ≠ 0) → exec (.trd t d a b sg z) s = .next (s.precise tcMisaligned off)) ∧
        (off.toNat ≤ 127 → off.toNat % n = 0 →
          (e.fill = true → exec (.trd t d a b sg z) s = .next s) ∧
          (e.fill = false → e.v = false → exec (.trd t d a b sg z) s =
            .next (((s2.modSeq (fun y => { y with trdMiss := satInc y.trdMiss })).afterWrite d 0).completed t .seq)) ∧
          (e.fill = false → e.v = true → e.pin = false → e.count = 1 → s2.trdAhead i = true → exec (.trd t d a b sg z) s = .next s) ∧
          (e.fill = false → e.v = true → (e.pin = true ∨ e.count ≠ 1 ∨ s2.trdAhead i = false) → (16 * i + off.toNat / 8) ∈ s.cur.badLines →
            exec (.trd t d a b sg z) s = .next (s.precise tcUncorrectable (BitVec.ofNat 64 (e.line.toNat * 128 + off.toNat)))) ∧
          (e.fill = false → e.v = true → (e.pin = true ∨ e.count ≠ 1 ∨ s2.trdAhead i = false) → (16 * i + off.toNat / 8) ∉ s.cur.badLines → exec (.trd t d a b sg z) s =
            (let v := (NatMap.get 0 s.cur.lines i).toNat / 2 ^ (8 * off.toNat) % 2 ^ (8 * n)
             .next (((s2.modCell s2.here (fun c => c.setEntry i (if e.pin then e else { e with count := e.count - 1, v := e.count != 1 }))).afterWrite d
               (if sg = 1 then sx v (8 * n) else BitVec.ofNat 64 v)).completed t .seq)))))) ∧
    (Ready s t true allSeqs 0 →
      ((s.cur.entry i).fill = true → exec (.tinv t a) s = .next s) ∧
      ((s.cur.entry i).fill = false → exec (.tinv t a) s =
        .next ((s1.modCell s1.here (fun c => c.setEntry i { c.entry i with v := false, pin := false, count := 0 })).completed t .seq)) ∧
      (s1.readable b = true →
        let s2 := s1.afterRead b
        ((s.cur.entry i).fill = true ∨ s2.fillWaits (s1.source b) = true → exec (.tfill t a b) s = .next s) ∧
        ((s.cur.entry i).fill = false → s2.fillWaits (s1.source b) = false → ∃ u f, exec (.tfill t a b) s = .next u ∧
          u.cur.fills = s.cur.fills ++ [f] ∧ u.curSeq.pc = s.curSeq.pc + 1 ∧ f.slot = i ∧ f.issued = s.cycle ∧ f.line = (s2.fillRead i (s1.source b)).1 ∧ f.status = (s2.fillRead i (s1.source b)).2.1 ∧
          u.cur.entry i = { line := (s1.source b).extractLsb' 7 45, count := x.extractLsb' 16 8, v := false, pin := x.extractLsb' 16 8 == 0, fill := true,
                            status := (s.cur.entry i).status } ∧
          (∀ j, j ≠ i → u.cur.entry j = s.cur.entry j) ∧ u.cur.lines = s.cur.lines ∧ ∀ pa, u.byteAt pa = s.byteAt pa)))

/-- R334, R284: `tld` and `tst` wait for a row of their queue; with a good record whose elements all translate, the command enters the cell with
its elements, its tokens reserved and a check slot taken, and `tst` pops its row at issue. A record at a bad place, of a bad form or with an uncorrectable
word, and the lowest element that is misaligned, traps; one whose page forbids the access traps with its walk counted. Memory is not touched at issue. The
model's choice: the check slot (log entry 27); a coordinate register that awaits a store is read after it (log entry 181). -/
def Obligations.TensorIssue : Prop :=
  ∀ (t : BitVec 4) (d a : BitVec 5) (n : BitVec 3) (q : BitVec 2) (p : BitVec 1) (s : State), s.readable d = true → 1 ≤ n.toNat → a.toNat + n.toNat ≤ 24 →
    let s1 := s.afterRead d
    (∀ i, i < n.toNat → s1.awaitsStore (a.toNat + i) = false) →
    let cs := (List.range n.toNat).map (fun i => (s.curSeq.greg (a.toNat + i)).toInt)
    (Ready s t true [.L] 1 →
      (8 ≤ (s.cur.vqRows q.toNat).length + s.cur.rowsDue q.toNat → exec (.tld t d a n q) s = .next (s.blockOn 4 q.toNat)) ∧
      ((s.cur.vqRows q.toNat).length + s.cur.rowsDue q.toNat < 8 →
        (∀ c v, readShape (s.source d) tcLoad s1 = .error (.trap c v) → exec (.tld t d a n q) s = .next (s.precise c v)) ∧
        (∀ r, readShape (s.source d) tcLoad s1 = .ok (r, s1) →
          (∀ c v, tensorElems r cs false (512 >>> r.esize) 0 s1 = .error (.trap c v) → exec (.tld t d a n q) s = .next (s.precise c v)) ∧
          (∀ f, tensorElems r cs false (512 >>> r.esize) 0 s1 = .error (.hold f) → exec (.tld t d a n q) s = .next (f s)) ∧
        ∀ es s2, tensorElems r cs false (512 >>> r.esize) 0 s1 = .ok (es, s2) →
        ∃ u x, exec (.tld t d a n q) s = .next u ∧ u.cur.tensors = s.cur.tensors ++ [x] ∧ x.load = true ∧ x.queue = q.toNat ∧ x.elems = es ∧
          x.esize = r.esize ∧ x.lat = s1.slowest es false ∧ x.tokens = signalsOf t .L ∧ x.id = s.cur.nextId ∧ u.curSeq.pc = s.curSeq.pc + 1 ∧ u.cur.vq = s.cur.vq ∧
          u.curSeq.slots = s.curSeq.slots ++ [⟨.command s.cur.nextId, .command s.cur.nextId, s.cycle, []⟩] ∧
          (∀ k ∈ signalsOf t .L, u.cur.tokRsv k = s.cur.tokRsv k + 1) ∧ ∀ pa, u.byteAt pa = s.byteAt pa))) ∧
    (Ready s t true [.S] 1 →
      (s.cur.vqRows (4 + p.toNat) = [] → exec (.tst t d a n p) s = .next (s.blockOn 4 (4 + p.toNat))) ∧
      (∀ row rest, s.cur.vqRows (4 + p.toNat) = row :: rest →
        (∀ c v, readShape (s.source d) tcStore s1 = .error (.trap c v) → exec (.tst t d a n p) s = .next (s.precise c v)) ∧
        (∀ r, readShape (s.source d) tcStore s1 = .ok (r, s1) →
          (∀ c v, tensorElems r cs true (512 >>> r.esize) 0 s1 = .error (.trap c v) → exec (.tst t d a n p) s = .next (s.precise c v)) ∧
          (∀ f, tensorElems r cs true (512 >>> r.esize) 0 s1 = .error (.hold f) → exec (.tst t d a n p) s = .next (f s)) ∧
        ∀ es s2, tensorElems r cs true (512 >>> r.esize) 0 s1 = .ok (es, s2) →
        ∃ u x, exec (.tst t d a n p) s = .next u ∧ u.cur.tensors = s.cur.tensors ++ [x] ∧ x.load = false ∧ x.row = row ∧ x.elems = es ∧ x.lat = s1.slowest es false ∧
          x.tokens = signalsOf t .S ∧ u.cur.vqRows (4 + p.toNat) = rest ∧ u.curSeq.pc = s.curSeq.pc + 1 ∧
          u.curSeq.slots = s.curSeq.slots ++ [⟨.command s.cur.nextId, .command s.cur.nextId, s.cycle, []⟩] ∧
          (∀ k ∈ signalsOf t .S, u.cur.tokRsv k = s.cur.tokRsv k + 1) ∧ ∀ pa, u.byteAt pa = s.byteAt pa)))

/-! ### Templates and GO -/

/-- R277, R278, R279: patch words and `patchr` write one field of the sequencer's own staging copy; an empty template raises TEMPLATE_FAULT with field 15. -/
def Obligations.PatchWords : Prop :=
  ∀ (t : BitVec 4) (a : BitVec 5) (n : BitVec 6) (f : BitVec 4) (v : BitVec 16) (s : State), Ready s t true allSeqs 0 → f ≠ 15 →
    (engineEmpty (s.cur.engineWord n.toNat) = true →
      exec (.patch t n f v) s = .next (s.precise tcTemplate (BitVec.ofNat 64 (n.toNat + 15 * 256))) ∧
      (s.readable a = true → exec (.patchr t a n f) s = .next (s.precise tcTemplate (BitVec.ofNat 64 (n.toNat + 15 * 256))))) ∧
    (engineEmpty (s.cur.engineWord n.toNat) = false →
      exec (.patch t n f v) s =
        .next ((s.modSeq (fun x => { x with stage := NatMap.put 0 x.stage (16 * n.toNat + 1 + f.toNat) (BitVec.ofInt 64 v.toInt) })).completed t .seq) ∧
      (s.readable a = true → exec (.patchr t a n f) s =
        .next (((s.afterRead a).modSeq (fun x => { x with stage := NatMap.put 0 x.stage (16 * n.toNat + 1 + f.toNat) (s.source a) })).completed t .seq)))

/-- R277, R119, R74, R122, R156, R143, R335: GO of a matrix template whose checks pass, with the quad's lease held and room at the array, places one command
with the staged fields, clears its tag unless NOTAG, advances SRBASE, and loads the staging copy afresh; before, it waits for its own stores to the words that it
reads, for the lease, for a held store of its own, and for room. The model's choice: the wait for its own stores as a turn without effect (log entry 42), KIND
0 with its INDEX for a lock, a walk, an arbitration and a full array (log entry 11), and the steps of an `mraster` of INT8 operands (log entry 169). -/
def Obligations.GoMatrix : Prop :=
  ∀ (t : BitVec 4) (n g : BitVec 6) (s : State), Ready s t true allSeqs 1 → checkGo n.toNat s = .ok ((), s) → (s.cur.engineWord n.toNat).toNat = 1 →
    let f := s.curSeq.staged n.toNat
    let q := quadOf s.here
    let words := wordsOf (s.fetches s.here f ((s.cur.fmtEntry f).getD 0))
    ((s.quadAt q).oos = true → exec (.go t n g) s = .next (s.precise tcArray (BitVec.ofNat 64 (q % 16)))) ∧
    ((s.quadAt q).oos = false → s.slotOn s.here .C words = true → exec (.go t n g) s = .next s) ∧
    ((s.quadAt q).oos = false → s.slotOn s.here .C words = false → (s.quadAt q).mayUse (s.here % 4) s.cur.leaseLimit = false →
      exec (.go t n g) s = .next (s.waitLease s.here (fld f 14).toNat)) ∧
    ((s.quadAt q).oos = false → s.slotOn s.here .C words = false → (s.quadAt q).mayUse (s.here % 4) s.cur.leaseLimit = true → ∀ w, s.heldOn s.here .C words = some w →
      exec (.go t n g) s = .next (s.blockOn 0 w)) ∧
    ((s.quadAt q).oos = false → s.slotOn s.here .C words = false → (s.quadAt q).mayUse (s.here % 4) s.cur.leaseLimit = true → s.heldOn s.here .C words = none →
      (((s.quadAt q).arb || (s.quadAt q).walking || decide (16 ≤ (s.quadAt q).inFlight)) = true → exec (.go t n g) s = .next (s.blockOn 0 0)) ∧
      (((s.quadAt q).arb || (s.quadAt q).walking || decide (16 ≤ (s.quadAt q).inFlight)) = false →
        (∀ k ∈ commandSignals t f .C, s.cur.tokVal k + s.cur.tokRsv k < 255) →
        ∃ u c, exec (.go t n g) s = .next u ∧ (u.quadAt q).cmds = (s.quadAt q).cmds ++ [c] ∧
          c.cell = s.here ∧ c.id = s.cur.nextId ∧ c.f = f ∧ c.tag = g ∧ c.st = 0 ∧ c.issued = s.cycle ∧ c.locks = words ∧ c.srbase = s.cur.srbase ∧ c.srseed = s.cur.srseed ∧
          c.fmt = (s.cur.fmtEntry f).getD 0 ∧ c.tokens = commandSignals t f .C ∧ (u.quadAt q).count = satInc (s.quadAt q).count ∧
          u.cur.tagWord g.toNat = (if fNoTag f then s.cur.tagWord g.toNat else 0) ∧ u.cur.nextId = s.cur.nextId + 1 ∧
          u.cur.srbase = s.cur.srbase + BitVec.ofNat 24 (srSteps f ((s.cur.fmtEntry f).getD 0)) * srStep ∧
          (∀ i, i < 16 → NatMap.get 0 u.curSeq.stage (16 * n.toNat + i) = NatMap.get 0 s.cur.templates (16 * n.toNat + i)) ∧
          u.curSeq.pc = s.curSeq.pc + 1 ∧ (∀ k ∈ commandSignals t f .C, u.cur.tokRsv k = s.cur.tokRsv k + 1) ∧ ∀ pa, u.byteAt pa = s.byteAt pa))

/-- R277, R282, R341, R342, R335, R187, R190, R107: GO of a copy template enters a copy with the staged fields; GO of a collective template posts its chain for the
engine that f0 names, behind a check slot, or waits while that engine cannot start to arm it; both clear their tag unless NOTAG and load the staging copy afresh; a failing field raises TEMPLATE_FAULT with its number. The model's choice: the check slot of a posted chain (log entry 56) and the
flag KIND 6 with a counter's number while the engine cannot arm (log entry 150). -/
def Obligations.GoCopyAndCollective : Prop :=
  ∀ (t : BitVec 4) (n g : BitVec 6) (s : State), Ready s t true allSeqs 1 →
    let f := s.curSeq.staged n.toNat
    let sig := commandSignals t f s.site.seq
    (∀ c v, checkGo n.toNat s = .error (.trap c v) → exec (.go t n g) s = .next (s.precise c v)) ∧
    (checkGo n.toNat s = .ok ((), s) → (∀ k ∈ sig, s.cur.tokVal k + s.cur.tokRsv k < 255) →
      ((s.cur.engineWord n.toNat).toNat = 2 →
        (64 ≤ s.cur.copies.length → exec (.go t n g) s = .next (s.blockOn 8 0)) ∧
        (s.cur.copies.length < 64 → ∃ u c, exec (.go t n g) s = .next u ∧ u.cur.copies = s.cur.copies ++ [c] ∧ c.f = f ∧ c.tag = g ∧
          c.seq = s.site.seq ∧ c.id = s.cur.nextId ∧ c.done = 0 ∧ c.tokens = sig ∧
          u.cur.tagWord g.toNat = (if fNoTag f then s.cur.tagWord g.toNat else 0) ∧
          (∀ i, i < 16 → NatMap.get 0 u.curSeq.stage (16 * n.toNat + i) = NatMap.get 0 s.cur.templates (16 * n.toNat + i)) ∧
          u.curSeq.pc = s.curSeq.pc + 1 ∧ ∀ pa, u.byteAt pa = s.byteAt pa)) ∧
      ((s.cur.engineWord n.toNat).toNat = 3 →
        let e := bits (fld f 0) 3 0
        let x : Arming := { addr := fld f 1 &&& 0xFFFFFFFFFFFFF, poster := { newPoster s s.here s.site.seq s.curSeq.pc (some g.toNat) (fNoTag f) sig with
          id := s.cur.nextId, bound := fld f 14, issued := s.cycle } }
        (s.storesDone s.here s.site.seq = false → exec (.go t n g) s = .next s) ∧
        (s.storesDone s.here s.site.seq = true → ∀ cid, s.postWaits e x = some cid → exec (.go t n g) s = .next (s.blockOn 6 cid)) ∧
        (s.storesDone s.here s.site.seq = true → s.postWaits e x = none → ∃ u, exec (.go t n g) s = .next u ∧
          u.cur.chains = s.cur.chains ++ [(e, x)] ∧ u.engines = s.engines ∧ u.cur.nextId = s.cur.nextId + 1 ∧
          u.curSeq.slots = s.curSeq.slots ++ [⟨.command s.cur.nextId, .command s.cur.nextId, s.cycle, []⟩] ∧
          u.cur.tagWord g.toNat = (if fNoTag f then s.cur.tagWord g.toNat else 0) ∧
          (∀ i, i < 16 → NatMap.get 0 u.curSeq.stage (16 * n.toNat + i) = NatMap.get 0 s.cur.templates (16 * n.toNat + i)) ∧
          u.curSeq.pc = s.curSeq.pc + 1 ∧ ∀ pa, u.byteAt pa = s.byteAt pa)))

/-! ### Vector instructions -/

/-- R286: every vector instruction beside the operation that it names. -/
def vopTable : List ((BitVec 4 → BitVec 5 → BitVec 5 → Instr) × VOp) :=
  [(.vadd, .vadd), (.vsub, .vsub), (.vmul, .vmul), (.vmulh, .vmulh), (.vand, .vand), (.vor, .vor), (.vxor, .vxor),
   (.vandn, .vandn), (.vsll, .vsll), (.vsrl, .vsrl), (.vsra, .vsra), (.vmin, .vmin), (.vmax, .vmax), (.vminz, .vminz),
   (.vmaxz, .vmaxz), (.vabs, .vabs), (.vneg, .vneg), (.vpopc, .vpopc), (.vclz, .vclz), (.vsel, .vsel), (.vfadd, .vfadd),
   (.vfsub, .vfsub), (.vfmul, .vfmul), (.vfma, .vfma), (.vfms, .vfms), (.vfnma, .vfnma), (.vfdiv, .vfdiv), (.vfsqrt, .vfsqrt),
   (.vfmin, .vfmin), (.vfmax, .vfmax), (.vfabs, .vfabs)] ++
  [(.vfneg, .vfneg), (.vfcpsgn, .vfcpsgn), (.vscaleb, .vscaleb), (.vgetexp, .vgetexp), (.vgetman, .vgetman),
   (.vfclass, .vfclass), (.vaddx, .vaddx), (.vsubx, .vsubx), (.vmulx, .vmulx), (.vdwadd, .vdwadd), (.vdwaddf, .vdwaddf),
   (.vdwmul, .vdwmul), (.vdwmulf, .vdwmulf), (.vdwnorm, .vdwnorm), (.vdwcvt, .vdwcvt), (.vcvt, .vcvt), (.vquant, .vquant),
   (.vdequant, .vdequant), (.vqscale, .vqscale), (.vpack, .vpack), (.vunpack, .vunpack), (.vcmp, .vcmp), (.vmand, .vmand),
   (.vmor, .vmor), (.vmxor, .vmxor), (.vmnot, .vmnot), (.vmpush, .vmpush), (.vminv, .vminv), (.vmpopm, .vmpopm),
   (.vmcnt, .vmcnt), (.vmov, .vmov)] ++
  [(.vbcast, .vbcast), (.vext, .vext), (.vperm, .vperm), (.vrot, .vrot), (.vslide, .vslide), (.vzip, .vzip), (.vunzip, .vunzip),
   (.vredsum, .vredsum), (.vredsumx, .vredsumx), (.vredmax, .vredmax), (.vredmin, .vredmin), (.vredand, .vredand),
   (.vredor, .vredor), (.vprefix, .vprefix), (.vgather, .vgather), (.vscatter, .vscatter), (.vscatc, .vscatc),
   (.visect, .visect), (.vcompress, .vcompress), (.vexpand, .vexpand), (.vrsqe, .vrsqe), (.vrcpe, .vrcpe), (.vexp2, .vexp2),
   (.vlog2, .vlog2), (.vamax, .vamax), (.vhist, .vhist), (.vstatrd, .vstatrd), (.vstatclr, .vstatclr), (.vrand, .vrand),
   (.vseed, .vseed)]

/-- R350, R351, R354, R143: a vector instruction whose words pass their checks, with room in the unit's queue, places one command of its operation with
words A and B, the row mapping and SRBASE of its issue, its tokens reserved and a check slot taken; a failing check is its trap, and a full queue makes C
wait. A memory command's index row and addresses are read at issue, and its faults are raised there. No row, mask or memory byte changes at issue. The model's
choice: the check slot (log entry 27). -/
def Obligations.VectorIssue : Prop :=
  ∀ p ∈ vopTable, ∀ (t : BitVec 4) (a b : BitVec 5) (s : State), Ready s t true [.C] 1 → s.readable a = true → (s.afterRead a).readable b = true →
    let s1 := (s.afterRead a).afterRead b
    let v := vcmdOf p.2 (s.source a) ((s.afterRead a).source b) s1
    let full := decide (16 ≤ s.cur.vcmds.countP (fun w => w.started.isNone)) || (p.2.isMem && !s.cur.vcmds.isEmpty)
    (∀ c x, checkVCmd v s1 = .error (.trap c x) → exec (p.1 t a b) s = .next (s.precise c x)) ∧
    (checkVCmd v s1 = .ok ((), s1) → full = true → exec (p.1 t a b) s = .next s) ∧
    (checkVCmd v s1 = .ok ((), s1) → full = false → p.2.isMem = true →
      (∀ c x, captureMem v s1 = .error (.trap c x) → exec (p.1 t a b) s = .next (s.precise c x)) ∧
      (∀ f, captureMem v s1 = .error (.hold f) → exec (p.1 t a b) s = .next (f s))) ∧
    (checkVCmd v s1 = .ok ((), s1) → full = false → ∀ v1 s2, (if p.2.isMem then captureMem v else pure v) s1 = .ok (v1, s2) →
      ∃ u w, exec (p.1 t a b) s = .next u ∧ u.cur.vcmds = s.cur.vcmds ++ [w] ∧
        w = { v1 with tokens := signalsOf t .C } ∧ v1.op = p.2 ∧ v1.a = s.source a ∧ v1.b = (s.afterRead a).source b ∧
        v1.vrb = s.cur.vrb ∧ v1.mrb = s.cur.mrb ∧ v1.srbase = s.cur.srbase ∧ v1.pc = s.curSeq.pc ∧ v1.fenced = s.cur.vfenced ∧
        u.cur.vfenced = false ∧ u.cur.nextId = s.cur.nextId + 1 ∧ u.curSeq.pc = s.curSeq.pc + 1 ∧
        u.curSeq.slots = s.curSeq.slots ++ [⟨.command s.cur.nextId, .command s.cur.nextId, s.cycle, []⟩] ∧
        u.cur.srbase = (if v.rnd = 4 && v.roundsOnce then s.cur.srbase + srStep else s.cur.srbase) ∧
        u.cur.predWait = (if p.2 = .vmcnt then bits v.b 2 0 :: s.cur.predWait else s.cur.predWait) ∧
        (∀ k ∈ signalsOf t .C, u.cur.tokRsv k = s.cur.tokRsv k + 1) ∧
        u.cur.rows = s.cur.rows ∧ u.cur.masks = s.cur.masks ∧ u.cur.mstack = s.cur.mstack ∧ ∀ pa, u.byteAt pa = s.byteAt pa)

/-- R384: `vfence` marks the next command to wait for every earlier one; `vwait` blocks while a command is in flight; `vbusy`, `vdone` and `vrb` read;
`vstat` waits, returns the sticky flags and clears those that g[a] names. -/
def Obligations.VectorControl : Prop :=
  ∀ (t : BitVec 4) (d a : BitVec 5) (s : State),
    (Ready s t true [.C] 0 →
      exec (.vfence t) s = .next ((s.modCell s.here (fun c => { c with vfenced := !c.vcmds.isEmpty })).completed t .seq) ∧
      (s.cur.vcmds = [] → exec (.vwait t) s = .next (s.completed t .seq)) ∧
      (s.cur.vcmds ≠ [] → exec (.vwait t) s = .next (s.blockOn 4 0))) ∧
    (Ready s t true [.C] (pushes d) → s.writable d = true →
      exec (.vbusy t d) s = .next ((s.afterWrite d (BitVec.ofNat 64 s.cur.vcmds.length)).completed t .seq) ∧
      exec (.vdone t d) s = .next ((s.afterWrite d s.cur.vdone).completed t .seq) ∧
      exec (.vrb t d) s = .next ((s.afterWrite d (BitVec.ofNat 64 (s.cur.vrb.toNat + s.cur.mrb.toNat * 2 ^ 8))).completed t .seq) ∧
      (s.readable a = true →
        (s.cur.vcmds ≠ [] → exec (.vstat t d a) s = .next (s.blockOn 4 0)) ∧
        (s.cur.vcmds = [] → exec (.vstat t d a) s =
          .next ((((s.afterRead a).afterWrite d (BitVec.ofNat 64 s.cur.flags.toNat)).modCell s.here
            (fun c => { c with flags := s.cur.flags &&& ~~~ BitVec.ofNat 6 (s.source a).toNat })).completed t .seq))))

/-! ### Leases, counters, barriers, groups, the refinement loop -/

/-- R323, R74, R76, R78: `lease acq` requests for its cell and is in force, ARRAY_UNAVAILABLE with the array out of service; `lease rel` ends what is in
force, LEASE_VIOLATION without; a cell that does not hold the lease withdraws its request; `lease stat` reads word 0 of the record. -/
def Obligations.LeaseInstructions : Prop :=
  ∀ (t : BitVec 4) (d : BitVec 5) (s : State),
    let q := quadOf s.here
    let c := s.here % 4
    let x := s.quadAt q
    (Ready s t true [.C] 0 →
      (x.oos = true → exec (.leaseAcq t) s = .next (s.precise tcArray (BitVec.ofNat 64 (q % 16)))) ∧
      (x.oos = false → ∃ u, exec (.leaseAcq t) s = .next u ∧ u.curSeq.pc = s.curSeq.pc + 1 ∧ (u.quadAt q).acq.getLsbD c = true ∧
        (∀ i, i ≠ c → (u.quadAt q).acq.getLsbD i = x.acq.getLsbD i ∧ (u.quadAt q).req.getLsbD i = x.req.getLsbD i) ∧
        (x.acq.getLsbD c = false → (u.quadAt q).req.getLsbD c = true ∧ c ∈ (u.quadAt q).reqOrder) ∧
        (u.quadAt q).held = x.held ∧ (u.quadAt q).holder = x.holder ∧ (u.quadAt q).cmds = x.cmds) ∧
      (x.acq.getLsbD c = false → exec (.leaseRel t) s = .next (s.precise tcLease 0)) ∧
      (x.acq.getLsbD c = true → ∃ u, exec (.leaseRel t) s = .next u ∧ u.curSeq.pc = s.curSeq.pc + 1 ∧ (u.quadAt q).acq.getLsbD c = false ∧
        (∀ i, i ≠ c → (u.quadAt q).acq.getLsbD i = x.acq.getLsbD i ∧ (u.quadAt q).req.getLsbD i = x.req.getLsbD i) ∧
        (¬ (x.held = true ∧ x.holder.toNat = c) → (u.quadAt q).req.getLsbD c = false) ∧
        (u.quadAt q).held = x.held ∧ (u.quadAt q).holder = x.holder ∧ (u.quadAt q).cmds = x.cmds)) ∧
    (Ready s t true [.C] (pushes d) → s.writable d = true →
      exec (.leaseStat t d) s = .next ((s.afterWrite d (s.leaseWord q)).completed t .seq))

/-- R347, R195, R203, R193: the counter instructions reach their counter over the mesh: a bad CID raises COLL_FAULT, the request carries the counter's number and what to
do, and the answer completes the instruction; `ctradd` and `ctradd.clr` first wait for the sequencer's stores. The model's choice: the cause and TVAL of a lost
request (log entry 128) and that wait as a turn without effect (log entry 13). -/
def CounterGoes (i : Instr) (t : BitVec 4) (d a : BitVec 5) (s1 s : State) (sel rel : Bool) (op : MemOp) (fault : BitVec 8) : Prop :=
  let v := s.source a
  let cid := v.toNat % 2 ^ 14
  let ok := decide (v.toNat < (if sel then 2 ^ 15 else 2 ^ 14)) && s.cidUp cid
  (ok = false → exec i s = .next (s.precise tcColl v)) ∧
  (ok = true →
    (∀ r, s.curSeq.access = some (.answered (.value r)) → exec i s = .next ((s1.afterWrite d r).completed t .seq)) ∧
    (s.curSeq.access = some .lost → exec i s = .next (s.precise fault v)) ∧
    (∀ dst q, s.curSeq.access = some (.waiting dst q) → exec i s = .next s) ∧
    (s.curSeq.access = none → rel = true → s1.storesDone s1.here s1.site.seq = false → exec i s = .next s) ∧
    (s.curSeq.access = none → (rel = true → s1.storesDone s1.here s1.site.seq = true) →
      ∀ q s2, s.request (s.here / 64) (16 + cid / 4096) cid op s.here s.site.seq .ordered s.curSeq.pc v = some (q, s2) →
        exec i s = .next (s2.modSeq (fun x => { x with access := some (.waiting (16 + cid / 4096) q), blocked := none }))))

/-- R347, R348, R195, R190: `ctrrd`, `ctrrd.sig`, `ctradd`, `ctradd.clr` over the mesh; `ctrwait` waits for the threshold, or ends with 5 on LOST; `qppost` posts its
chain for the engine behind a check slot, waits while the engine cannot start to arm it, and raises COLL_FAULT on a bad engine or address. The model's choice: the
cause and TVAL of a lost request (log entry 128), the chain's check slot (log entry 56), `qppost`'s flag (log entry 150), `ctrwait`'s reading of the counter as it
stands (log entry 63), and the ordering waits as turns without effect (log entry 13). -/
def Obligations.CounterInstructions : Prop :=
  ∀ (t : BitVec 4) (d a b : BitVec 5) (s : State), s.readable a = true →
    let v := s.source a
    let s1 := s.afterRead a
    let y := s1.source b
    let s2 := s1.afterRead b
    let cid : BitVec 14 := v.extractLsb' 0 14
    (Ready s t true [.K, .S] (pushes d) → s.writable d = true →
      CounterGoes (.ctrrd t d a) t d a s1 s true false (.ctrRead cid (if v.getLsbD 14 then 1 else 0)) tcLoad ∧
      CounterGoes (.ctrrdSig t d a) t d a s1 s false false (.ctrRead cid 2) tcLoad ∧
      CounterGoes (.ctraddClr t d a) t d a s1 s false true (.ctrClear cid) tcStore ∧
      (s1.readable b = true →
        CounterGoes (.ctradd t d a b) t d a s2 s false true
          (.ctrAdd cid y (foldWord 5 s.pkgId.toNat (s.here / 64) (s.here % 64) y.toNat)) tcStore ∧
        (v.toNat < 2 ^ 14 → s.cidUp v.toNat = true →
          ((s.counterAt v.toNat).lost = true → exec (.ctrwait t d a b) s = .next ((s2.afterWrite d 5).completed t .seq)) ∧
          ((s.counterAt v.toNat).lost = false → y.toNat ≤ (s.counterAt v.toNat).value.toNat →
            exec (.ctrwait t d a b) s = .next ((s2.afterWrite d 0).completed t .seq)) ∧
          ((s.counterAt v.toNat).lost = false → (s.counterAt v.toNat).value.toNat < y.toNat →
            exec (.ctrwait t d a b) s = .next (s.blockOn 6 v.toNat))))) ∧
    (Ready s t true [.K, .S] 0 → s1.readable b = true →
      let bad := decide (16 ≤ v.toNat) || !s.dieUp (16 + v.toNat / 4) || y.toNat % 64 != 0 || decide (2 ^ 52 ≤ y.toNat)
      (bad = true → exec (.qppost t a b) s = .next (s.precise tcColl y)) ∧
      let x : Arming := { addr := y, poster := { newPoster s s.here s.site.seq s.curSeq.pc none true [] with id := s.cur.nextId } }
      (bad = false → s2.storesDone s2.here s2.site.seq = false → exec (.qppost t a b) s = .next s) ∧
      (bad = false → s2.storesDone s2.here s2.site.seq = true → ∀ c, s2.postWaits v.toNat x = some c → exec (.qppost t a b) s = .next (s.blockOn 6 c)) ∧
      (Ready s t true [.K, .S] 1 → bad = false → s2.storesDone s2.here s2.site.seq = true → s2.postWaits v.toNat x = none →
        ∃ u, exec (.qppost t a b) s = .next u ∧ u.cur.chains = s.cur.chains ++ [(v.toNat, x)] ∧ u.engines = s.engines ∧ u.cur.nextId = s.cur.nextId + 1 ∧
          ⟨.command s.cur.nextId, .command s.cur.nextId, s.cycle, []⟩ ∈ u.curSeq.slots ∧ u.curSeq.pc = s.curSeq.pc + 1 ∧ ∀ pa, u.byteAt pa = s.byteAt pa))

/-- R325: some member of an instance's launch has not joined: one bound in its scope, or at package and system level one of the groups below the count that has not
ended. -/
def Missing (o : Launch) (b : Barrier) : Prop :=
  (b.level < 3 ∧ ∃ e ∈ o.bound, scopeAt b.level e.2 = b.scope ∧ e.1 ∉ b.joined) ∨
  (3 ≤ b.level ∧ (b.joined.filter (fun g => !o.ended.contains g)).length + o.ended.length < o.groups)

/-- R325, R239, R327, R328: the open generation of an instance is still awaited: its launch has been stopped, nobody or not everybody has joined it, its time at
D2 has not come, or a package has not sent its notice. -/
def Sys2Proof.Machine.State.awaits (s : State) (b : Barrier) : Prop :=
  ∀ o, s.launch? b.launch = some o → o.status ≠ .running ∨ b.joined = [] ∨ Missing o b ∨
    (b.level < 4 ∧ o.level = 2 ∧ ∃ c, b.due = some c ∧ s.cycle < c) ∨
    (b.level = 4 ∧ b.sent = b.gen ∧ ∃ p ∈ b.table, ∀ n ∈ s.notices, ¬ (n.bid = b.scope ∧ n.gen = b.gen ∧ n.crc = b.crc ∧ n.pkg = p))

/-- The cell has no work in flight: no engine, vector or matrix command, and every store of its sequencers is performed (R324). -/
def Sys2Proof.Machine.State.cellQuiet (s : State) : Prop :=
  s.cur.vcmds = [] ∧ s.cur.tensors = [] ∧ s.cur.copies = [] ∧ s.cur.fills = [] ∧ s.cur.chains = [] ∧ (∀ m ∈ (s.quadAt (quadOf s.here)).cmds, m.cell ≠ s.here) ∧
  (∀ g ∈ s.engines, ∀ x ∈ g.2.arming, x.poster.cell ≠ s.here) ∧ (∀ q ∈ allSeqs, (s.cur.seq q).slots = [] ∧ s.heldStore s.here q = false) ∧
  (∀ e ∈ s.pairs, ∀ r ∈ e.2.unacked, r.cell ≠ s.here) ∧ (∀ r ∈ s.replicas, r.cell ≠ s.here)

/-- An instruction has retired with a value in d: a register, or a push. -/
def Sys2Proof.Machine.State.retiredWith (s : State) (d : BitVec 5) (v : Word) (u : State) : Prop :=
  u.curSeq.pc = s.curSeq.pc + 1 ∧ u.curSeq.blocked = none ∧ u.mem = s.mem ∧ (d.toNat ≠ 0 → d.toNat < 24 → u.curSeq.greg d.toNat = v) ∧
  (24 ≤ d.toNat → ∃ x ∈ u.curSeq.slots, x.item = .push (d.toNat - 24) v)

/-- R324, R325, R326, R327, R239: below system level `bar.arrive` joins the open generation of its group's instance, which completes with the last member, at D2 a fixed time
later; it writes the generation's number. `bar.wait` writes the number of the generation last joined once that is complete, 0 where none was joined, and blocks before.
`bar.sync` arrives and leaves with its generation, and `bar.phase` so once the cell's work ordered before it is done; no generation of a launch that has been
stopped completes. At system level the arrive reads a good system record; a bad one raises COLL_FAULT. The model's choice: which work of another sequencer is
ordered before the `bar` (log entry 179), and what a join becomes whose instruction stops (log entry 70). -/
def Obligations.Barriers : Prop :=
  ∀ (t : BitVec 4) (d a : BitVec 5) (l : BitVec 3) (s : State) (bd : Bound) (o : Launch), Ready s t true [.K] (pushes d) → s.writable d = true →
    s.cur.bound = some bd → s.launch? bd.launch = some o →
    let n := l.toNat
    ((∀ b ∈ s.barriers, s.awaits b) → (n < 4 ∨ (n = 4 ∧ s.readable a = true)) → ∀ m scope gen, s.cur.joined = some (.barrier s.curSeq.pc m scope gen) →
      gen.toNat < (s.barrierAt bd.launch m scope).gen.toNat →
      (∃ u, exec (.barSync t d a l) s = .next u ∧ s.retiredWith d gen u ∧ u.cur.joined = none) ∧
      (∃ u, exec (.barPhase t d a l) s = .next u ∧ s.retiredWith d gen u ∧ u.cur.joined = none)) ∧
    ((∀ b ∈ s.barriers, s.awaits b) → n < 4 →
      let scope := scopeAt n s.here
      let b := s.barrierAt bd.launch n scope
      let b1 := { b with joined := b.joined ++ [bd.group] }
      let last := o.joins.find? (fun e => e.1 == 8 * bd.group + n)
      let open' := ∃ e, last = some e ∧ (s.barrierAt bd.launch n e.2.1).gen.toNat ≤ e.2.2.toNat
      (last = none → ∃ u, exec (.barWait t d a l) s = .next u ∧ s.retiredWith d 0 u) ∧
      (∀ e, last = some e →
        (e.2.2.toNat < (s.barrierAt bd.launch n e.2.1).gen.toNat → ∃ u, exec (.barWait t d a l) s = .next u ∧ s.retiredWith d e.2.2 u) ∧
        ((s.barrierAt bd.launch n e.2.1).gen.toNat ≤ e.2.2.toNat → exec (.barWait t d a l) s = .next (s.blockOn 9 n))) ∧
      (s.storesDone s.here .K = true → open' → exec (.barArrive t d a l) s = .next (s.blockOn 9 n)) ∧
      (s.storesDone s.here .K = false → exec (.barArrive t d a l) s = .next (s.blockOn 9 n) ∧
        (s.cur.joined = none → exec (.barSync t d a l) s = .next (s.blockOn 9 n))) ∧
      (s.workDone s.cycle = false → s.cur.joined = none → exec (.barPhase t d a l) s = .next ((s.noteJoin (.drain s.curSeq.pc s.cycle)).blockOn 9 n)) ∧
      (∀ since, s.cur.joined = some (.drain s.curSeq.pc since) → s.workDone since = false → exec (.barPhase t d a l) s = .next (s.blockOn 9 n)) ∧
      (s.cellQuiet → ∀ since, s.workDone since = true) ∧
      (s.storesDone s.here .K = true → ¬ open' → b.gen.toNat + 1 < 2 ^ 64 →
        (Missing o b1 →
          (∃ u, exec (.barArrive t d a l) s = .next u ∧ s.retiredWith d b.gen u ∧ (u.barrierAt bd.launch n scope).gen = b.gen ∧
            (u.barrierAt bd.launch n scope).joined = b1.joined) ∧
          (s.cur.joined = none → ∃ u, exec (.barSync t d a l) s = .next u ∧ u.curSeq.pc = s.curSeq.pc ∧ u.cur.joined = some (.barrier s.curSeq.pc n scope b.gen) ∧
            (u.barrierAt bd.launch n scope).gen = b.gen ∧ (u.barrierAt bd.launch n scope).joined = b1.joined)) ∧
        (¬ Missing o b1 → o.status = .running → o.level = 2 → b.due = none → ∃ u, exec (.barArrive t d a l) s = .next u ∧ s.retiredWith d b.gen u ∧
          (u.barrierAt bd.launch n scope).gen = b.gen ∧
          (u.barrierAt bd.launch n scope).due = some (s.cycle + (if n = 0 then 16 else if n = 1 then 48 else if n = 2 then 192 else 640))) ∧
        (o.status ≠ .running → ∃ u, exec (.barArrive t d a l) s = .next u ∧ s.retiredWith d b.gen u ∧ (u.barrierAt bd.launch n scope).gen = b.gen) ∧
        (¬ Missing o b1 → o.status = .running → o.level ≠ 2 →
          (∃ u, exec (.barArrive t d a l) s = .next u ∧ s.retiredWith d b.gen u ∧ (u.barrierAt bd.launch n scope).gen = b.gen + 1 ∧
            (u.barrierAt bd.launch n scope).joined = []) ∧
          (s.cur.joined = none → (∃ u, exec (.barSync t d a l) s = .next u ∧ s.retiredWith d b.gen u ∧ u.cur.joined = none ∧
              (u.barrierAt bd.launch n scope).gen = b.gen + 1) ∧
            (s.workDone s.cycle = true → ∃ u, exec (.barPhase t d a l) s = .next u ∧ s.retiredWith d b.gen u ∧ u.cur.joined = none ∧
              (u.barrierAt bd.launch n scope).gen = b.gen + 1)) ∧
          (∀ since, s.cur.joined = some (.drain s.curSeq.pc since) → s.workDone since = true → ∃ u, exec (.barPhase t d a l) s = .next u ∧
            s.retiredWith d b.gen u ∧ u.cur.joined = none ∧ (u.barrierAt bd.launch n scope).gen = b.gen + 1)))) ∧
    (n = 4 → s.readable a = true →
      let ea := s.source a
      (ea.toNat % 16 ≠ 0 → exec (.barArrive t d a l) s = .next (s.precise tcColl ea) ∧ exec (.barWait t d a l) s = .next (s.precise tcColl ea)) ∧
      (ea.toNat % 16 = 0 → ∀ w s2, readWords ea 2 (s.afterRead a) = .ok (w, s2) →
        let w0 := (w.getD 0 0).toNat
        let w1 := w.getD 1 0
        let k := w0 / 2 ^ 24 % 2 ^ 20
        ((k = 0 ∨ 524288 < k ∨ 2 ^ 44 ≤ w0 ∨ w1.toNat % 8 ≠ 0 ∨ 2 ^ 52 ≤ w1.toNat) →
          exec (.barArrive t d a l) s = .next (s.precise tcColl ea) ∧ exec (.barWait t d a l) s = .next (s.precise tcColl ea)) ∧
        (0 < k → k ≤ 524288 → w0 < 2 ^ 44 → w1.toNat % 8 = 0 → w1.toNat < 2 ^ 52 → ∀ tab s3, readWords w1 k s2 = .ok (tab, s3) →
          (tab.any (fun e => decide (2 ^ 19 ≤ e.toNat)) = true ∨ tab.any (fun e => e.toNat == s.pkgId.toNat) = false → exec (.barArrive t d a l) s = .next (s.precise tcColl ea)) ∧
          (tab.any (fun e => decide (2 ^ 19 ≤ e.toNat)) = false → tab.any (fun e => e.toNat == s.pkgId.toNat) = true → (∀ b ∈ s3.barriers, s3.awaits b) →
            s3.storesDone s.here .K = true → o.joins.find? (fun e => e.1 == 8 * bd.group + 4) = none →
            ∃ u, exec (.barArrive t d a l) s = .next u ∧ s.retiredWith d (s.barrierAt bd.launch 4 (w0 % 2 ^ 24)).gen u))))

/-- R81, R83, R322: `remq` and `remqt` push their block to the target group's queue and write 0, write 7 where the group is gone, and where the push would wait `remq`
blocks and `remqt` writes all ones. The block stands in a check slot, and comes to the queue when the slot is released. The model's choice: each form waits for the
sender's stores first (log entry 165), and the whole block is checked for uncorrectable words before its engine word (log entry 167). -/
def Obligations.RemoteQueuePush : Prop :=
  ∀ (t : BitVec 4) (d a b : BitVec 5) (s : State), Ready s t true [.K] (pushes d) → s.readable a = true → (s.afterRead a).readable b = true →
    s.writable d = true →
    let g := s.source a
    let s2 := (s.afterRead a).afterRead b
    (∀ c v, readPushBlock ((s.afterRead a).source b) s2 = .error (.trap c v) →
      exec (.remq t d a b) s = .next (s.precise c v) ∧ exec (.remqt t d a b) s = .next (s.precise c v)) ∧
    (∀ ws, readPushBlock ((s.afterRead a).source b) s2 = .ok (ws, s2) →
      (s2.pushTarget g = .gone → exec (.remq t d a b) s = .next ((s2.afterWrite d 7).completed t .seq) ∧
        exec (.remqt t d a b) s = .next ((s2.afterWrite d 7).completed t .seq)) ∧
      (s2.pushTarget g = .wait → exec (.remq t d a b) s = .next (s.blockOn 8 (g.toNat % 2 ^ 16)) ∧
        exec (.remqt t d a b) s = .next ((s2.afterWrite d 0xFFFFFFFFFFFFFFFF).completed t .seq)) ∧
      (∀ k, s2.pushTarget g = .cell k →
        (s2.storesDone s2.here s2.site.seq = false → exec (.remq t d a b) s = .next s ∧ exec (.remqt t d a b) s = .next s) ∧
        (s2.storesDone s2.here s2.site.seq = true → Ready s t true [.K] (pushes d + 1) →
          let item : Item := .block s.hereBound.launch g.toNat ws
          let s3 := s2.modSeq (fun x => { x with slots := x.slots ++ [⟨item, item, s.cycle, []⟩] })
          exec (.remq t d a b) s = .next ((s3.afterWrite d 0).completed t .seq) ∧ exec (.remqt t d a b) s = .next ((s3.afterWrite d 0).completed t .seq))))

/-- R321, R79, R80: at D0 a `grow` applies at once and returns the count as it was before, or all ones where it is refused; above D0 it joins its window, and returns the count once the
window has applied it, at D2 8,192 cycles after it issued. The model's choice: a `grow` by 0 of a launch with GANG = 1 returns the count (log entry 130). -/
def Obligations.Grow : Prop :=
  ∀ (t : BitVec 4) (d a : BitVec 5) (s : State) (l : Launch), Ready s t true [.K] (pushes d) → s.readable a = true → s.writable d = true →
    s.launch? s.hereBound.launch = some l →
    (l.level = 0 → exec (.grow t d a) s =
      .next ((((s.afterRead a).modLaunch s.hereBound.launch (fun _ => Launch.waitsFrom l (l.grow (s.source a)).1 s.cycle)).afterWrite d
        (l.grow (s.source a)).2).completed t .seq)) ∧
    (l.level ≠ 0 → (∀ n, s.cur.joined ≠ some (.grow s.curSeq.pc n)) → exec (.grow t d a) s = .next (s.gatherGrow (s.source a))) ∧
    (l.level ≠ 0 → ∀ n, s.cur.joined = some (.grow s.curSeq.pc n) → ∀ v, s.growResult n = some v →
      ∃ u, exec (.grow t d a) s = .next u ∧ u.curSeq.pc = s.curSeq.pc + 1 ∧ u.cur.joined = none ∧
        (d.toNat ≠ 0 → d.toNat < 24 → u.curSeq.greg d.toNat = v)) ∧
    (l.level ≠ 0 → ∀ n, s.cur.joined = some (.grow s.curSeq.pc n) → s.growResult n = none → exec (.grow t d a) s = .next (s.blockOn 12 0)) ∧
    (∀ x : Word, (x = 0 → (l.grow x).2 = BitVec.ofNat 64 l.groups ∧ (l.grow x).1 = l) ∧
      (x ≠ 0 → x.toNat < 2 ^ 32 → bit (l.lcb.getD 1 0) 32 = false → l.groups + x.toNat < 2 ^ 32 →
        (l.grow x).1.groups = l.groups + x.toNat ∧ (l.grow x).2 = BitVec.ofNat 64 l.groups) ∧
      (x ≠ 0 → (2 ^ 32 ≤ x.toNat ∨ bit (l.lcb.getD 1 0) 32 = true ∨ 2 ^ 32 ≤ l.groups + x.toNat) → l.grow x = (l, 0xFFFFFFFFFFFFFFFF)))

/-- R405: what the norm test makes of a norm, and which exit it takes: diverged before converged before stagnated before the last iteration, each with its code and
the action that the block gives it, or none. Every comparison is exact, and false with a NaN. -/
def NormTest : Prop :=
  ∀ (r : Rlc) (nu : Word),
    let r1 := (r.norm1 nu).1
    let e := (r.norm1 nu).2
    let v (x : Word) : Val := fp64.decode x.toNat
    let rho := v (r.copyWord 7)
    let div := (v nu).isNan = true ∨ (v nu).isInf = true ∨ (rho ≠ .inf false ∧ (rho.mul (v r1.norm0)).lt (v nu) = true)
    let conv := let tol := (v (r.copyWord 4)).mul (v (r.copyWord 5)); (v nu).lt tol = true ∨ (v nu).eq tol = true
    let stag := bits (r.copyWord 8) 15 0 ≠ 0 ∧ bits (r.copyWord 8) 15 0 ≤ r1.stagc.toNat
    let act (i : Nat) : Nat := bits (r.copyWord 13) (2 * i + 1) (2 * i)
    r1.prev = r.norm ∧ r1.norm = nu ∧ r1.norm0 = (if r.total = 0 then nu else r.norm0) ∧ r1.iter = r.iter + 1 ∧ r1.total = r.total + 1 ∧
    r1.stagc = (if r1.total.toNat ≤ 1 then r.stagc else if ((v (r.copyWord 6)).mul (v r.norm)).lt (v nu) then r.stagc + 1 else 0) ∧
    r1.st = r.st ∧ r1.level = r.level ∧ r1.exit = r.exit ∧ r1.held = r.held ∧ r1.block = r.block ∧ r1.copy = r.copy ∧
    (div → e = .leave 3 (act 2)) ∧ (¬ div → conv → e = .leave 1 (act 0)) ∧ (¬ div → ¬ conv → stag → e = .leave 2 (act 1)) ∧
    (¬ div → ¬ conv → ¬ stag → r1.iter.toNat = bits (r.copyWord 8) 63 32 → e = .leave 4 (act 3)) ∧
    (¬ div → ¬ conv → ¬ stag → r1.iter.toNat ≠ bits (r.copyWord 8) 63 32 → e = .next)

/-- R405: what an `rlstep` with a norm does, s0 being the state with the norm read: the next iteration at step 1; RETURN; ESCALATE one rung up, which keeps the exit
code (R424); TRAP, also for ESCALATE on the top rung with 8 added, after the `rlstep` has retired and with K at RETPC; `add` is added to the code. -/
def RlcTest (t : BitVec 4) (s s0 : State) (nu : Word) (add : Nat) : Prop :=
  let r1 := (s.cur.rlc.norm1 nu).1
  let more := r1.level.toNat + 1 < bits (r1.copyWord 3) 34 32
  match (s.cur.rlc.norm1 nu).2 with
  | .next => exec (.rlstep t) s = .next ((s0.modCell s.here (fun c => { c with rlc := { r1 with st := 1 } })).completed t
      (.branch (BitVec.ofNat 64 (bits (r1.copyWord 0) 13 0))))
  | .leave code action =>
    (action = 0 → exec (.rlstep t) s = .next ((s0.modCell s.here (fun c => { c with rlc := { r1 with exit := BitVec.ofNat 8 (code + add), st := 0 } })).completed t
      (.branch (BitVec.ofNat 64 (bits (r1.copyWord 13) 21 8))))) ∧
    (action = 2 → more → exec (.rlstep t) s = .next ((s0.modCell s.here (fun c => { c with
      rlc := { r1 with level := r1.level + 1, iter := 0, stagc := 0, st := 1, held := false }, fmtbase := r1.rung (r1.level.toNat + 1) })).completed t
      (.branch (BitVec.ofNat 64 (bits (r1.copyWord 0) 13 0))))) ∧
    ((action = 1 ∨ (action = 2 ∧ ¬ more)) → s.cur.stop = none → ∃ u, exec (.rlstep t) s = .next u ∧
      let x : BitVec 8 := BitVec.ofNat 8 (code + add + (if action = 2 then 8 else 0))
      u.cur.rlc = { r1 with exit := x, st := 0, held := true } ∧ u.curSeq.pc = BitVec.ofNat 64 (bits (r1.copyWord 13) 21 8) ∧
      u.cur.stop = some (.trap ⟨tcRlcExit, false, s.curSeq.pc, s.site.seq, x.zeroExtend 64⟩ s.cycle))

/-- R403, R404, R405, R406, R402: `rlstart` loads a good block, sets the level of RUNG0 and branches to step 1; `rlstep` goes from step 1 to 2 and from 2 to 3, and after step 3 tests the
norm, which stands in a register of K or, once its counter has reached the threshold of the iteration, in memory, or is a NaN with 16 added to the code where the
counter is lost: another iteration, RETURN, ESCALATE or TRAP; outside a running loop, in a handler and covered by a `pred` both raise ILLEGAL_OP; `rlstat`
reads, `rlesc` goes one rung up where one is left and keeps the exit code, `rlabort` ends the loop with code 5. The model's choice: what RLEXIT holds after an
escalation, from R424's words on one run (log entry 65), and the waits for a store as turns without effect (log entries 13, 181). -/
def Obligations.RefinementLoop : Prop :=
  NormTest ∧ ∀ (t : BitVec 4) (d a : BitVec 5) (s : State),
    let r := s.cur.rlc
    (s.mayIssue = true → s.site.seq = .K → (s.cur.tin = true ∨ s.curSeq.pb.rem ≠ 0) → exec (.rlstep t) s = .next (s.precise tcIllegalOp 0) ∧
      (a.toNat < 24 ∨ s.readable a = true → exec (.rlstart t a) s = .next (s.precise tcIllegalOp 0))) ∧
    (Ready s t false [.K] 0 → s.cur.tin = false →
      (r.st = 0 → exec (.rlstep t) s = .next (s.precise tcIllegalOp 0)) ∧
      (r.st = 1 → exec (.rlstep t) s = .next ((s.modCell s.here (fun c => { c with rlc := { c.rlc with st := 2 } })).completed t
        (.branch (BitVec.ofNat 64 (bits (r.copyWord 1) 13 0))))) ∧
      (r.st = 2 → exec (.rlstep t) s = .next ((s.modCell s.here (fun c => { c with rlc := { c.rlc with st := 3 } })).completed t
        (.branch (BitVec.ofNat 64 (bits (r.copyWord 2) 13 0))))) ∧
      (r.st = 3 → r.fld 9 0 0 = 1 → s.curSeq.access = none → ∀ thr, thr = r.copyWord 11 + r.total.zeroExtend 64 * r.copyWord 12 →
        (s.counterAt (r.fld 9 19 6)).lost = false → ((s.counterAt (r.fld 9 19 6)).value.toNat < thr.toNat → exec (.rlstep t) s = .next (s.blockOn 6 (r.fld 9 19 6))) ∧
        (thr.toNat ≤ (s.counterAt (r.fld 9 19 6)).value.toNat → ∀ pa s1, s.translate s.here (r.copyWord 10) false = .ok (pa, false, s1) → homeDie pa = s.here / 64 →
          (s1.forwards pa 8 = true → exec (.rlstep t) s = .next s) ∧
          (s1.forwards pa 8 = false →
            ((s1.badRead pa 8 || s1.heldBad s1.here s1.site.seq pa 8) = true → exec (.rlstep t) s = .next (s.precise tcUncorrectable (r.copyWord 10))) ∧
            ((s1.badRead pa 8 || s1.heldBad s1.here s1.site.seq pa 8) = false → RlcTest t s (s1.noteLease pa) (s1.loadSees pa pa 8) 0))) ∧
        (thr.toNat ≤ (s.counterAt (r.fld 9 19 6)).value.toNat → s.translate s.here (r.copyWord 10) false = .error .fault →
          exec (.rlstep t) s = .next ((s.noteWalk s.here (r.copyWord 10)).precise tcLoad (r.copyWord 10)))) ∧
      (r.st = 3 → r.fld 9 0 0 = 1 → s.curSeq.access = none → (s.counterAt (r.fld 9 19 6)).lost = true → RlcTest t s s 0x7FF8000000000000 16) ∧
      (r.st = 3 → r.fld 9 0 0 = 0 → s.awaitsStore (r.fld 9 5 1) = false → RlcTest t s s (s.curSeq.greg (r.fld 9 5 1)) 0) ∧
      (s.readable a = true →
        ((r.st ≠ 0 ∨ r.held = true) → exec (.rlstart t a) s = .next (s.precise tcIllegalOp 0)) ∧
        (r.st = 0 → r.held = false → (s.source a).toNat % 64 ≠ 0 → exec (.rlstart t a) s = .next (s.precise tcMisaligned (s.source a))) ∧
        (r.st = 0 → r.held = false → (s.source a).toNat % 64 = 0 → (s.afterRead a).translate s.here (s.source a) false = .error .fault →
          exec (.rlstart t a) s = .next ((s.noteWalk s.here (s.source a)).precise tcLoad (s.source a))) ∧
        (r.st = 0 → r.held = false → (s.source a).toNat % 64 = 0 → ∀ ws s2, readWords (s.source a) 32 (s.afterRead a) = .ok (ws, s2) →
          (rlcBad (s.afterRead a) s.curSeq.codeLen (fun i => ws.getD i 0) = true → exec (.rlstart t a) s = .next (s.precise tcRlcExit 0x20)) ∧
          (rlcBad (s.afterRead a) s.curSeq.codeLen (fun i => ws.getD i 0) = false →
            ∃ u, exec (.rlstart t a) s = .next u ∧ u.curSeq.pc = BitVec.ofNat 64 (bits (ws.getD 0 0) 13 0) ∧ u.cur.rlc.st = 1 ∧ u.cur.rlc.total = 0 ∧
              u.cur.rlc.block = s.source a ∧ u.cur.rlc.exit = 0 ∧ u.cur.rlc.level = BitVec.ofNat 2 (bits (ws.getD 3 0) 37 36) ∧
              (∀ i, i < 32 → u.cur.rlc.copyWord i = ws.getD i 0) ∧
              u.cur.fmtbase = BitVec.ofNat 6 (bits (ws.getD 3 0) (8 * bits (ws.getD 3 0) 37 36 + 5) (8 * bits (ws.getD 3 0) 37 36)))))) ∧
    (Ready s t true [.K] 0 → exec (.rlabort t) s = .next ((s.modCell s.here (fun c => { c with
      rlc := if c.rlc.st ≠ 0 then { c.rlc with exit := 5, st := 0 } else { c.rlc with held := false } })).completed t .seq)) ∧
    (Ready s t true [.K] (pushes d) → s.writable d = true →
      exec (.rlstat t d) s = .next ((s.afterWrite d (BitVec.ofNat 64 (r.exit.toNat + r.st.toNat * 2 ^ 8 + (if r.held then 2 ^ 10 else 0) +
        r.level.toNat * 2 ^ 11 + r.iter.toNat * 2 ^ 32))).completed t .seq) ∧
      ((r.st = 0 ∧ r.held = false) ∨ r.fld 3 34 32 ≤ r.level.toNat + 1 →
        exec (.rlesc t d) s = .next ((s.afterWrite d 0xFFFFFFFFFFFFFFFF).completed t .seq)) ∧
      ((r.st ≠ 0 ∨ r.held = true) → r.level.toNat + 1 < r.fld 3 34 32 →
        exec (.rlesc t d) s = .next (((s.modCell s.here (fun c => { c with
          rlc := { c.rlc with level := c.rlc.level + 1, iter := 0, stagc := 0, st := 1, held := false },
          fmtbase := c.rlc.rung (c.rlc.level.toNat + 1) })).afterWrite d (BitVec.ofNat 64 (bits (r.copyWord 0) 13 0))).completed t .seq)))

/-- R211, R212, R216, R220, R221: `dpost` of a good block makes its group a member and sends its post to the primary and the standby arbiter; a block that is misaligned, malformed or
already posted, or names an engine out of service, raises COLL_FAULT, and where an arbiter here has no slot left the instruction blocks; `dgrant` waits for the grant or the end, writes the grant table, zeros where nothing was granted, and returns the sum; `xstat` returns the member's status word. The model's choice: what 'posting cannot start' means (log entry 164), and the wait for the sequencer's stores as a turn
without effect (log entry 13). -/
def Obligations.ExchangeInstructions : Prop :=
  ∀ (t : BitVec 4) (d a : BitVec 5) (s : State), s.readable a = true →
    let ea := s.source a
    let s1 := s.afterRead a
    (Ready s t true [.K, .S] 0 →
      (ea.toNat % 64 ≠ 0 → exec (.dpost t a) s = .next (s.precise tcColl ea)) ∧
      (ea.toNat % 64 = 0 → ∀ w s2, readWords ea 8 s1 = .ok (w, s2) →
        let xid := bits (w.getD 0 0) 23 0
        let n := bits (w.getD 0 0) 36 24
        ((postBad w = true ∨ s2.dieUp (rimOf (bits (w.getD 0 0) 52 49)) = false ∨ s2.members.any (fun m => s2.mineFor xid m && !m.done) = true) →
          exec (.dpost t a) s = .next (s.precise tcColl ea)) ∧
        (postBad w = false → s2.dieUp (rimOf (bits (w.getD 0 0) 52 49)) = true → s2.members.any (fun m => s2.mineFor xid m && !m.done) = false →
          ∀ tab s3, readWords (w.getD 1 0) n s2 = .ok (tab, s3) → ∀ dem s4, readWords (w.getD 2 0) n s3 = .ok (dem, s4) →
            let bad := tab.any (fun e => bits e 63 19 ≠ 0) || dem.any (fun e => bits e 63 48 ≠ 0)
            let full := s4.postFull xid n (tab.map (fun e => e.truncate 19))
            (bad = true → exec (.dpost t a) s = .next (s.precise tcColl ea)) ∧
            (bad = false → full = true → exec (.dpost t a) s = .next (s.blockOn 12 0)) ∧
            (bad = false → full = false → s4.storesDone s4.here s4.site.seq = false → exec (.dpost t a) s = .next s) ∧
            (bad = false → full = false → s4.storesDone s4.here s4.site.seq = true →
            ∃ u m, exec (.dpost t a) s = .next u ∧ u.curSeq.pc = s.curSeq.pc + 1 ∧ m ∈ u.members ∧ m.post.xid = xid ∧ m.post.nmem = n ∧
              m.post.member = bits (w.getD 0 0) 48 37 ∧ m.post.demand = dem.map (fun e => e.toNat) ∧ m.done = false ∧
              m.cell = s.here ∧ u.allX.length + u.netOut.length = s.allX.length + s.netOut.length + 2)))) ∧
    (Ready s t true [.K, .S] (pushes d) → s.writable d = true →
      (ea.toNat % 64 ≠ 0 → exec (.dgrant t d a) s = .next (s.precise tcColl ea) ∧ exec (.xstat t d a) s = .next (s.precise tcColl ea)) ∧
      (ea.toNat % 64 = 0 → ∀ w s2, readWords ea 1 s1 = .ok (w, s2) →
        let m? := s2.members.find? (s2.mineFor (bits (w.getD 0 0) 23 0))
        (m? = none → exec (.dgrant t d a) s = .next (s.precise tcColl ea) ∧ exec (.xstat t d a) s = .next ((s2.afterWrite d 0).completed t .seq)) ∧
        (∀ m, m? = some m →
          exec (.xstat t d a) s = .next ((s2.afterWrite d (BitVec.ofNat 64 (m.status + (if m.done then 8 else 0) + (if m.failover then 16 else 0) +
            min m.unsent (2 ^ 48 - 1) * 2 ^ 16))).completed t .seq) ∧
          (m.granted = none → m.done = false → exec (.dgrant t d a) s = .next (s.blockOn 12 0)) ∧
          (∀ g, (m.granted = some g ∨ (m.granted = none ∧ m.done = true ∧ g = List.replicate m.post.nmem 0)) → ∀ s3, writeWords (grantWords m g) s2 = .ok ((), s3) →
            ∃ u, exec (.dgrant t d a) s = .next u ∧ u.curSeq.pc = s.curSeq.pc + 1 ∧
              (∀ pa, u.byteAt pa = s3.byteAt pa) ∧
              (d.toNat ≠ 0 → d.toNat < 24 → u.curSeq.greg d.toNat = BitVec.ofNat 64 (g.foldl (fun x y => x + y) 0))))))

/-! ### Events of the host interface -/

/-- An event or an instruction answers a next state, and of that state P holds. -/
def Goes (i : Instr) (s : State) (P : State → Prop) : Prop := ∃ u, exec i s = .next u ∧ P u

/-- A packet of stream n completes (R28, R31, R33): it leaves its stream, and its record goes to the host, or waits behind 256 that are not
acknowledged; NOCOMP suppresses a record of status 0. -/
def Completes (n : Nat) (p : StreamPkt) (status : BitVec 8) (value extra : Word) (payload : List Word) (s u : State) : Prop :=
  let x := s.streamAt n
  let y := u.streamAt n
  let r : Record := ⟨BitVec.ofNat 8 p.packet.type, n, status, p.sq, p.packet.w1, value, extra, payload, s.cycle, false⟩
  y.pkts = x.pkts.filter (fun o => o.serial != p.serial) ∧
  (if status = 0 ∧ p.packet.nocomp = true then y.records = x.records ∧ y.waiting = x.waiting
   else if x.records.length < 256 then y.records = x.records ++ [r] ∧ y.waiting = x.waiting
   else y.records = x.records ∧ y.waiting = x.waiting ++ [r])

/-- A packet of stream n has started at this cycle and not completed (R35). -/
def Starts (n : Nat) (p : StreamPkt) (s u : State) : Prop :=
  (u.streamAt n).pkts = (s.streamAt n).pkts.map (fun o => if o.serial = p.serial ∧ o.started = false then { o with started := true, at? := s.cycle } else o)

/-- The types of packet that an event takes up, and with them the operation of a SIGNAL, a REGION or a COPYH (R30). -/
def packetEvents : List (Instr × (Packet → Bool)) :=
  [(.signalSet, fun p => p.type == 4), (.waitsig, fun p => p.type == 5), (.detlevel, fun p => p.type == 6), (.fencePacket, fun p => p.type == 7),
   (.readback, fun p => p.type == 8), (.writeback, fun p => p.type == 9), (.launch, fun p => p.type == 1),
   (.regionCreate, fun p => p.type == 2 && (p.regionOp == 0 || p.regionOp == 3)), (.regionModify, fun p => p.type == 2 && p.regionOp == 1),
   (.regionDestroy, fun p => p.type == 2 && p.regionOp == 2), (.copyhHostToDevice, fun p => p.type == 3 && bits (p.at' 0) 0 0 == 0),
   (.copyhDeviceToHost, fun p => p.type == 3 && bits (p.at' 0) 0 0 == 1)]

/-- R28, R30, R41: the next packet in sequence is accepted and acknowledged while fewer than 256 have not started (BBOXREAD alone while a failure of step 1
of R26 holds the package in reset), and no record of an earlier packet of its number answers a duplicate from then on; a duplicate is acknowledged and has its record sent again, and a packet of no listed type completes with BAD_PACKET; an acknowledged record leaves its stream and the ones that wait follow; a record of 50 µs is
sent again; a packet whose turn it is and which breaks a rule of its type completes with BAD_PACKET (0x10), VALUE and EXTRA 0. -/
def Obligations.PacketsAndRecords : Prop := ∀ s : State,
  let p := s.site.packet
  let y := s.streamAt p.stream
  let x := s.streamAt s.site.stream
  let age (r : Record) : Record := if r.sq = p.sq then { r with old := true } else r
  let takes : Prop := s.ustexUp = true ∧ (s.bringUp ≠ 0 ∨ p.type = 0x0A)
  (takes → p.sq = y.last + 1 → y.pkts.countP (fun o => !o.started) < 256 → Goes .packetAccept s (fun u =>
    (u.streamAt p.stream).last = p.sq ∧ u.serial = s.serial + 1 ∧ (u.portOut.take (s.portOut.length + 1)) = s.portOut ++ [.ack p.stream p.sq] ∧
    (if 1 ≤ p.type ∧ p.type ≤ 0x0B then (u.streamAt p.stream).pkts = y.pkts ++ [{ sq := p.sq, serial := s.serial, packet := p }] ∧ (u.streamAt p.stream).records = y.records.map age
     else Completes p.stream { sq := p.sq, serial := s.serial, packet := p } 0x10 0 0 [] (s.setStream p.stream (y.renumber p.sq)) u))) ∧
  (takes → p.sq = y.last ∨ 0x8000 ≤ (p.sq - y.last).toNat → Goes .packetAccept s (fun u =>
    (u.portOut.take (s.portOut.length + 1)) = s.portOut ++ [.ack p.stream p.sq] ∧ (u.streamAt p.stream).last = y.last ∧ (u.streamAt p.stream).pkts = y.pkts ∧ u.serial = s.serial ∧
    (∀ r ∈ y.records, (if r.sq = p.sq ∧ r.old = false then { r with sentAt := s.cycle } else r) ∈ (u.streamAt p.stream).records))) ∧
  (s.site.yes = false → x.records.any (fun r => r.sq == s.site.q) = true → Goes .completionRecordAck s (fun u =>
    let l := x.records.eraseP (fun r => r.sq == s.site.q)
    (u.streamAt s.site.stream).records.take l.length = l ∧
    (u.streamAt s.site.stream).records.length = l.length + min (256 - l.length) x.waiting.length ∧
    (u.streamAt s.site.stream).waiting = x.waiting.drop (256 - l.length))) ∧
  (∀ r, s.presence = some r → s.site.yes = true → (r.payload.getD 7 0).toNat % 2 ^ 32 = s.site.word.toNat →
    exec .completionRecordAck s = .next { s with presence := none }) ∧
  (s.site.yes = false → Goes .recordResendTimeout s (fun u => ∀ r ∈ x.records,
    (if r.sq = s.site.q ∧ r.sentAt + 112500 ≤ s.cycle then { r with sentAt := s.cycle } else r) ∈ (u.streamAt s.site.stream).records)) ∧
  (∀ r, s.presence = some r → s.site.yes = true → r.sentAt + 112500 ≤ s.cycle →
    exec .recordResendTimeout s =
      .next { s with presence := some { r with sentAt := s.cycle }, portOut := s.portOut ++ [.record { r with sentAt := s.cycle }.words] }) ∧
  (∀ e ∈ packetEvents, ∀ q, s.nextPkt e.2 = some q → q.packet.good = false → Goes e.1 s (Completes s.site.stream q 0x10 0 0 [] s))

/-- R37, R38, R36: SIGNAL writes, adds to or ORs into its signal and completes, and every started WAITSIG that its value satisfies is gone; WAITSIG
completes with the signal's value, starts otherwise, and ends with TIMEOUT (0x13) at its limit in microseconds; DETLEVEL sets its
stream's level; FENCE completes when what it waits for has completed. -/
def Obligations.SignalsLevelsAndFences : Prop := ∀ s : State,
  let n := s.site.stream
  (∀ p, s.nextPkt (fun q => q.type == 4) = some p → p.packet.good = true →
    let v := s.signalAt p.packet.sigId
    let y := p.packet.at' 1
    ∀ e ∈ [(Instr.signalSet, 0, y), (.signalAdd, 1, v + y), (.signalOr, 2, v ||| y)], p.packet.op = e.2.1 → Goes e.1 s (fun u =>
      u.signalAt p.packet.sigId = e.2.2 ∧ (∀ j, j < 4096 → j ≠ p.packet.sigId → u.signalAt j = s.signalAt j) ∧
      (∀ m, m < 16 → ∀ o ∈ (u.streamAt m).pkts, o.started = true → o.packet.type = 5 → o.packet.sigId = p.packet.sigId → o.packet.holds e.2.2 = false) ∧
      (s.streams.all (fun z => z.2.pkts.all (fun o => !(o.packet.type == 5))) = true → Completes n p 0 0 0 [] s u))) ∧
  (∀ p, s.nextPkt (fun q => q.type == 5) = some p → p.packet.good = true → Goes .waitsig s (fun u =>
    if p.packet.holds (s.signalAt p.packet.sigId) = true then Completes n p 0 (s.signalAt p.packet.sigId) 0 [] s u else Starts n p s u)) ∧
  (∀ o, (s.streamAt n).pkts.find? (fun o => o.started && o.packet.type == 5 && o.sq == s.site.q) = some o →
    bits (o.packet.at' 0) 63 32 ≠ 0 → o.at? + bits (o.packet.at' 0) 63 32 * 2250 ≤ s.cycle →
    Goes .waitsigTimeout s (Completes n o 0x13 (s.signalAt o.packet.sigId) 0 [] s)) ∧
  (∀ p, s.nextPkt (fun q => q.type == 6) = some p → p.packet.good = true → Goes .detlevel s (fun u =>
    (u.streamAt n).level = bits (p.packet.at' 0) 1 0 ∧ Completes n p 0 0 0 [] s u)) ∧
  (∀ p, s.nextPkt (fun q => q.type == 7) = some p → p.packet.good = true → Goes .fencePacket s (fun u =>
    let earlier := fun (o : StreamPkt) => decide (o.serial < p.serial) && !(o.packet.type == 0x0A || o.packet.type == 0x0B)
    if (s.streamAt n).pkts.any earlier = false ∧ (bit (p.packet.at' 0) 0 = true → s.streams.any (fun z => z.2.pkts.any earlier) = false)
    then Completes n p 0 0 0 [] s u else Starts n p s u))

/-- R44, R47, R49: each REGION packet reports its first failing condition and changes no region then; otherwise the region is created with an RCB
written to its address, modified, or destroyed. -/
def Obligations.RegionPackets : Prop := ∀ s : State,
  let n := s.site.stream
  (∀ p, s.nextPkt (fun q => q.type == 2) = some p → p.packet.good = true → p.packet.regionOp = 0 →
    let img := p.packet.image
    let a := p.packet.rcb
    let stands := (s.region? a).isSome = true ∨ (imageParent img ≠ 0 ∧ ((s.region? (imageParent img)).isNone = true ∨ 8 ≤ (s.regionPath 8 (imageParent img)).length))
    (imageBad img = true → Goes .regionCreate s (fun u => Completes n p 0x10 0 0 [] s u ∧ u.regions = s.regions ∧ u.mem = s.mem)) ∧
    (imageBad img = false → stands → Goes .regionCreate s (fun u => Completes n p 0x11 0 0 [] s u ∧ u.regions = s.regions ∧ u.mem = s.mem)) ∧
    (imageBad img = false → ¬ stands → 4096 ≤ s.regions.length →
      Goes .regionCreate s (fun u => Completes n p 0x12 0 0 [] s u ∧ u.regions = s.regions ∧ u.mem = s.mem)) ∧
    (imageBad img = false → ¬ stands → s.regions.length < 4096 → ∀ st s1, s.hostPut (if p.started then p.at? else s.cycle) (BitVec.ofNat 64 a) (imageBytes img 0) = some (st, s1) →
      Goes .regionCreate s (fun u => Completes n p st 0 0 [] s u ∧
        (if st = 0 then u.regions = s.regions ++ [{ addr := a, rcb := img.take 12 }] ∧ u.mem = s1.mem else u.regions = s.regions ∧ u.mem = s.mem)))) ∧
  (∀ p, s.nextPkt (fun q => q.type == 2) = some p → p.packet.good = true → p.packet.regionOp = 1 →
    let img := p.packet.image
    let a := p.packet.rcb
    (imageBad img = true → Goes .regionModify s (fun u => Completes n p 0x10 0 0 [] s u ∧ u.regions = s.regions ∧ u.mem = s.mem)) ∧
    (imageBad img = false → s.region? a = none → Goes .regionModify s (fun u => Completes n p 0x11 0 0 [] s u ∧ u.regions = s.regions)) ∧
    (imageBad img = false → ∀ r, s.region? a = some r →
      (imageParent img ≠ r.parent → Goes .regionModify s (fun u => Completes n p 0x11 0 0 [] s u ∧ u.regions = s.regions)) ∧
      (imageParent img = r.parent → ∀ st s1, s.hostPut (if p.started then p.at? else s.cycle) (BitVec.ofNat 64 a) (imageBytes img r.consumed) = some (st, s1) →
        Goes .regionModify s (fun u => Completes n p st 0 0 [] s u ∧
          (if st = 0 then u.region? a = some { r with rcb := img.take 12 } ∧ u.mem = s1.mem else u.regions = s.regions ∧ u.mem = s.mem))))) ∧
  (∀ p, s.nextPkt (fun q => q.type == 2) = some p → p.packet.good = true → p.packet.regionOp = 2 →
    let a := p.packet.rcb
    Goes .regionDestroy s (fun u =>
      if (s.region? a).isNone = true ∨ s.regions.any (fun r => r.parent == a) = true ∨ s.launches.any (fun l => l.region == a) = true
      then Completes n p 0x11 0 0 [] s u ∧ u.regions = s.regions
      else Completes n p 0 0 0 [] s u ∧ u.region? a = none ∧ (∀ r ∈ s.regions, r.addr ≠ a → r ∈ u.regions)))

/-- R33, R40, R41, R166, R267, R268: READBACK returns the words of a range with its status; WRITEBACK to a stopped cell's scratchpad leaves its data
there, and waits for room for those of its words that commands still hold; a WRITEBACK to XLROOT is refused while a launch is open, and otherwise sets V and ROOT and drops every cached translation; one to
XLINV drops those of its page and completes once no access uses them; BBOXREAD returns the events and thaws a box whose newest it returns. -/
def Obligations.StateAccessPackets : Prop := ∀ s : State,
  let n := s.site.stream
  (∀ p, s.nextPkt (fun q => q.type == 8) = some p → p.packet.good = true →
    let a := ssAddr p.packet.state
    let r := s.ssRead a (p.packet.count / 8)
    let b := NatMap.get {} s.boxes a.die
    Goes .readback s (fun u => Completes n p r.1 0 0 r.2 s u ∧ u.mem = s.mem ∧ u.cells = s.cells ∧
      (a.kind = 4 → r.1 = 0 → b.returnsNewest a.off p.packet.count = true → (NatMap.get {} u.boxes a.die).frozen = false ∧
        (NatMap.get {} u.boxes a.die).events = b.events))) ∧
  (∀ p, s.nextPkt (fun q => q.type == 9) = some p → p.packet.good = true →
    let a := ssAddr p.packet.state
    let r := s.ssWrite a p.packet.data
    (p.packet.xlTarget = 0 → s.ssWaits p.packet = true → exec .writeback s = .next s) ∧
    (p.packet.xlTarget = 0 → s.ssWaits p.packet = false → Goes .writeback s (fun u => Completes n p r.1 0 0 [] s u ∧ (r.1 ≠ 0 → u.mem = s.mem ∧ u.cells = s.cells ∧ u.links = s.links) ∧
      (r.1 = 0 → a.kind = 0 → a.blk = 7 → (∀ i, i < p.packet.count / 8 → s.wordHeld (spAddr (cellKey a.die a.unit) (a.off + 8 * i)) = false) →
        (List.range (p.packet.count / 8)).map (fun i => u.ssWord { a with off := a.off + 8 * i }) = p.packet.data))) ∧
    (p.packet.xlTarget = 1 → Goes .xlroot s (fun u =>
      if s.launches.isEmpty = true then Completes n p 0 0 0 [] s u ∧ u.xlV = bit (p.packet.at' 2) 0 ∧ u.xlRoot = BitVec.ofNat 28 (bits (p.packet.at' 2) 47 20) ∧
        (∀ e ∈ u.cells, e.2.tlb = []) ∧ (∀ e ∈ u.dieTlb, e.2 = [])
      else Completes n p 0x11 0 0 [] s u ∧ u.xlV = s.xlV ∧ u.xlRoot = s.xlRoot ∧ u.cells = s.cells)) ∧
    (p.packet.xlTarget = 2 → Goes .xlinv s (fun u =>
      (if r.2.usesPage (invPage (p.packet.at' 2)) = true then Starts n p s u else Completes n p 0 0 0 [] s u) ∧
      (∀ e ∈ u.cells, ∀ t ∈ e.2.tlb, t.overlaps (invPage (p.packet.at' 2)) = false) ∧
      (∀ e ∈ u.dieTlb, ∀ t ∈ e.2, t.overlaps (invPage (p.packet.at' 2)) = false)))) ∧
  (∀ p, s.immediatePkt (fun q => q.type == 0x0A) = some p →
    let w := p.packet.at' 0
    let b := NatMap.get {} s.boxes (bits w 4 0)
    let es := (b.events.drop (bits w 27 16)).take (bits w 39 32)
    (p.packet.good = false → Goes .bboxread s (Completes n p 0x10 0 0 [] s)) ∧
    (p.packet.good = true → Goes .bboxread s (fun u =>
      Completes n p 0 (BitVec.ofNat 64 (b.events.length % 4096 + (if b.frozen = true then 4096 else 0))) 0 (es.flatMap (fun e => [e.w0, e.w1, e.w2, e.w3])) s u ∧
      (NatMap.get {} u.boxes (bits w 4 0)).events = b.events ∧
      (NatMap.get {} u.boxes (bits w 4 0)).frozen = (b.frozen && !(decide (0 < es.length) && decide (bits w 27 16 + es.length = b.events.length))))))

/-- R33, R50 to R54, R46, R38: LAUNCH reports the first failing check of its LCB and opens no launch then; one of no groups completes at once and
counts its signal; any other starts, and the launch takes the next number, the higher level of its region and its stream, and the eligible
cells. COPYH of no bytes completes at once, any other starts and at its end has moved its bytes, waits for those held on locked words (R180), and reports their CRC; a stopped one that
has moved nothing is CANCELLED. -/
def Obligations.LaunchAndCopyPackets : Prop := ∀ s : State,
  let n := s.site.stream
  (∀ p, s.nextPkt (fun q => q.type == 1) = some p → p.packet.good = true →
    let a := p.packet.at' 0 &&& 0xFFFFFFFFFFFFF
    let r := s.rangesStatus [(a, 128)]
    let w := r.2.hostWords a 16
    let tries := s.rangesTrying 1024 16 (p.tryAt.getD s.cycle) ((a, 128) :: lcbRanges (s.hostWords a 16))
    (tries = true → Goes .launch s (fun u => u.launches = s.launches ∧ (u.streamAt n).pkts.map (fun o => o.serial) = (s.streamAt n).pkts.map (fun o => o.serial))) ∧
    (tries = false → r.1 ≠ 0 → Goes .launch s (fun u => Completes n p r.1 0 0 [] s u ∧ u.launches = s.launches)) ∧
    (tries = false → r.1 = 0 → ∀ st, (r.2.launchCheck w n).1 = some st → Goes .launch s (fun u => Completes n p st 0 0 [] s u ∧ u.launches = s.launches)) ∧
    (tries = false → r.1 = 0 → (r.2.launchCheck w n).1 = none → lcbGroups w = 0 → Goes .launch s (fun u =>
      (∀ o ∈ (u.streamAt n).pkts, o.serial ≠ p.serial) ∧ u.launches = s.launches ∧ u.launchNum = s.launchNum ∧
      (bit (p.packet.at' 1) 12 = true → u.signalAt (bits (p.packet.at' 1) 11 0) = s.signalAt (bits (p.packet.at' 1) 11 0) + 1))) ∧
    (tries = false → r.1 = 0 → (r.2.launchCheck w n).1 = none → lcbGroups w ≠ 0 → s.launches.length < 1024 → Goes .launch s (fun u =>
      Starts n p s u ∧ u.launchNum = s.launchNum + 1 ∧ u.launches.take s.launches.length = s.launches ∧
      ∀ l ∈ u.launches.drop s.launches.length, l.num = s.launchNum ∧ l.stream = n ∧ l.lcb = w ∧ l.groups = bits (w.getD 1 0) 31 0 ∧
        l.region = bits (w.getD 0 0) 51 0 ∧ l.level = max (bits (s.effWord l.region 3 4) 17 16) (s.streamAt n).level ∧
        l.seed = s.effWord l.region 4 5 ∧ l.next = 0 ∧ l.bound = [] ∧ l.status = .running ∧
        (∀ k ∈ l.elig, s.cellUp k = true ∧ (bits (s.effWord l.region 5 6) 15 0).testBit (k / 64) = true)))) ∧
  (∀ e ∈ [(Instr.copyhHostToDevice, 0), (.copyhDeviceToHost, 1)], ∀ p,
    s.nextPkt (fun q => q.type == 3 && (bits (q.at' 0) 0 0 == e.2)) = some p → p.packet.good = true →
    Goes e.1 s (fun u => if bits (p.packet.at' 3) 39 0 = 0
      then Completes n p 0 (if bit (p.packet.at' 0) 1 = true then 0xFFFFFFFFFFFFFFFF else 0) 0 [] s u ∧ u.copyhs = s.copyhs
      else Starts n p s u ∧ u.copyhs = s.copyhs ++ [{ stream := n, pkt := { p with started := true, at? := s.cycle } }])) ∧
  (∀ c, s.copyhs[s.site.n]? = some c →
    let p := c.pkt.packet
    let count := bits (p.at' 3) 39 0
    let sum := fun (bs : List Byte) => if bit (p.at' 0) 1 = true then crc64 0xFFFFFFFFFFFFFFFF bs else 0
    let ps := s.copyhPieces p count
    let o := Owner.host c.pkt.serial
    let overWith (st : BitVec 8) (x : List Byte) (u : State) : Prop := u.copyhs = s.copyhs.eraseIdx s.site.n ∧ Completes c.stream c.pkt st (sum x) 0 [] s u
    (c.result = none → ps.any (fun x => s.tryingAt 1024 16 x.src (bits (p.at' 0) 0 0 = 0) c.pkt.at?) = false →
      (c.stopped = false → bits (p.at' 0) 0 0 = 0 → p.host.length = count → s.copyhFails (p.at' 2 &&& 0xFFFFFFFFFFFFF) count ps = none →
        ∀ s1, s.copyhWrite c.pkt.at? o (p.at' 2 &&& 0xFFFFFFFFFFFFF) [(0, p.host)] = some s1 → Goes .copyhComplete s (fun u =>
          u.mem = s1.mem ∧ u.hostOut = s.hostOut ∧ (s1.outstanding o = false → overWith 0 p.host u) ∧
          (s1.outstanding o = true → u.copyhs = setAt s.copyhs s.site.n { c with result := some (0, 0, sum p.host) } ∧ u.streams = s.streams))) ∧
      (c.stopped = false → bits (p.at' 0) 0 0 = 1 → s.outstanding o = false → (s.copyhRead ps).2.2 = none → Goes .copyhComplete s (fun u =>
        let l := (s.copyhRead ps).2.1
        u.mem = s.mem ∧ u.hostOut = s.hostOut ++ l.map (fun x => (p.at' 1 + BitVec.ofNat 64 x.1, x.2)) ∧ overWith 0 (l.flatMap (fun x => x.2)) u))) ∧
    (c.result = none → c.stopped = true → s.site.word = 0 → s.outstanding o = false → Goes .copyhComplete s (fun u =>
      u.mem = s.mem ∧ u.hostOut = s.hostOut ∧ overWith 7 [] u)) ∧
    (∀ st at' crc, c.result = some (st, at', crc) →
      (s.outstanding o = true → exec .copyhComplete s = .next s) ∧
      (s.outstanding o = false → c.stopped = false → Goes .copyhComplete s (fun u => u.mem = s.mem ∧ u.copyhs = s.copyhs.eraseIdx s.site.n ∧
        Completes c.stream c.pkt (st.zeroExtend 8) crc (if st = 1 ∨ st = 2 then at' else 0) [] s u))))

/-- No RESET runs or waits (R42). -/
def Sys2Proof.Machine.State.noReset (s : State) : Prop := s.running = none ∧ s.pending = []

/-- R54, R58 to R66, R69, R71, R78, R84, R259 to R261: a decision writes the records of the groups that it places, or orders one pre-emption; a bind gives the
cell its group with the launch's images and initial registers; a pre-emption stops the cell; a save leaves the group pending and the
cell free; a restore takes the group up again; a group that is over leaves its cell free; a cell that leaves service has its
group machine-checked. -/
def Obligations.GroupsOnCells : Prop := ∀ s : State,
  let k := s.here
  let r := s.slotAt k
  (s.noReset → s.settle.powerHold = true → exec .dispatchDecision s = .next s.settle) ∧
  (s.noReset → s.settle.powerHold = false →
    let t := s.settle.replaceHeads
    (∀ l, t.bestLaunch (fun l => !(t.planFor l).isEmpty) = some l → ((t.planFor l).map (fun p => p.2)).Nodup → Goes .dispatchDecision s (fun u =>
      ∀ p ∈ t.planFor l, let y := u.slotAt p.2
        y.v = true ∧ y.fresh = true ∧ y.pre = false ∧ y.launch = l.key ∧ y.num = l.num ∧ y.group = p.1 ∧ y.level = l.level ∧ y.stream = l.stream ∧
        y.lcb = l.lcbAddr ∧ y.dpri = min 7 (t.priority l + l.age) ∧ y.rst = l.saved.any (fun x => x.group == p.1) ∧ y.binds = (t.slotAt p.2).binds)) ∧
    (t.bestLaunch (fun l => !(t.planFor l).isEmpty) = none → ∀ l, t.bestLaunch (fun l => t.wantsCell l && (t.victim l).isSome) = some l →
      ∀ c o, t.victim l = some (c, o) → Goes .dispatchDecision s (fun u =>
        (u.slotAt c).pre = true ∧ (u.slotAt c).v = (l.saved.isEmpty && l.heads.length == 1) ∧ ((u.slotAt c).v = true → (u.slotAt c).launch = l.key ∧ [(u.slotAt c).group] = l.heads) ∧ (u.slotAt c).fresh = true ∧ (u.slotAt c).reason = 0 ∧ t.priority o.1 + 2 ≤ t.priority l))) ∧
  (r.fresh = true → r.v = true → r.rst = false → r.pre = false → s.cur.bound = none → ∀ l, s.launch? r.launch = some l →
    l.status = .running → s.recordsFit l = true → s.rangesTrying k (k / 64) (r.tryAt.getD s.cycle) (lcbRanges l.lcb) = false → (l.level ≠ 2 ∨ l.next ≠ 0) → r.group = l.next → (s.bindGroup k l r.group).2 = true →
    Goes .bind s (fun u => u.cur.bound = some ⟨l.key, r.group, l.level, l.stream⟩ ∧ u.cur.stop = none ∧ u.cur.tin = false ∧
      u.cur.srseed = jmix64 l.seed (BitVec.ofNat 64 r.group) ∧
      u.cur.leasemax = (if (l.word 12).toNat % 256 = 0 then 64 else (l.word 12).truncate 8) ∧
      (u.slotAt k).fresh = false ∧ (u.slotAt k).binds = r.binds + 1 ∧
      ∀ q ∈ allSeqs, let x := u.cur.seq q
        x.pc = 0 ∧ x.greg 1 = l.word 3 &&& 0xFFFFFFFFFFFFF ∧ x.greg 2 = BitVec.ofNat 64 r.group ∧ x.greg 3 = BitVec.ofNat 64 l.groups ∧
        (∀ i, i < 24 → 4 ≤ i → x.greg i = 0) ∧ x.slots = [] ∧ x.codeLen = lcbCode l.lcb q.num ∧ x.ended = decide (x.codeLen = 0))) ∧
  (r.fresh = true → r.pre = true → s.cur.bound.isSome = true → Goes .preEmption s (fun u =>
    u.cur.stop = s.cur.stop.or (some .preempt) ∧ u.cur.bound = s.cur.bound ∧ u.mem = s.mem)) ∧
  (∀ b, s.cur.bound = some b → ∀ l, s.launch? b.launch = some l → s.noReset → r.pre = true → s.cur.stop = some .preempt → s.maySave k = true →
    ∀ s1, s.writeParts (r.tryAt.getD s.cycle) r.slot ((0, s.slotHeader k l b.group r.reason (0x1000 + partsBytes (s.slotParts k))) :: s.slotParts k) = some s1 →
    Goes .contextSave s (fun u => u.cur.bound = none ∧ u.cur.stop = none ∧ (u.slotAt k).pre = false ∧
      ((u.launch? b.launch).any (fun o => o.saved.any (fun x => x.group == b.group) && !(o.bound.any (fun e => e.1 == b.group)))) = true)) ∧
  (r.fresh = true → r.v = true → r.rst = true → r.pre = false → s.cur.bound = none → ∀ l, s.launch? r.launch = some l →
    ∀ x, l.saved.find? (fun x => x.group == r.group) = some x → l.status = .running → s.recordsFit l = true →
    s.rangesTrying k (k / 64) (r.tryAt.getD s.cycle) (lcbRanges l.lcb ++ slotMap.map (fun y => (r.slot + BitVec.ofNat 64 y.1, y.2))) = false → (s.bindGroup k l r.group).2 = true →
    Goes .restore s (fun u => u.cur.bound = some ⟨l.key, r.group, l.level, l.stream⟩ ∧ (u.slotAt k).fresh = false ∧ (u.slotAt k).binds = r.binds + 1 ∧
      (∀ e, ((s.bindGroup k l r.group).1.loadAll k (slotMap.map (fun y => (r.slot + BitVec.ofNat 64 y.1, y.2)))).2 = .error e → u.cur.stop = some .faulted))) ∧
  (∀ b, s.cur.bound = some b → ∀ l, s.launch? b.launch = some l → s.noReset → s.groupOver k = true → Goes .groupEnd s (fun u =>
    u.cur.bound = none ∧ u.cur.stop = none ∧ (u.slotAt k).v = (r.v && r.fresh) ∧ (u.slotAt k).pre = false ∧ (u.slotAt k).binds = r.binds ∧
    (∀ o ∈ u.launches, o.key = b.launch → s.launches.countP (fun y => y.key == b.launch) = 1 →
      b.group ∈ o.ended ∧ (o.bound.any (fun e => e.1 == b.group)) = false ∧ o.lastEnd = s.cycle))) ∧
  (s.noReset → Goes .cellLeavesService s (fun u => u.cur.oos = true ∧
    (s.cur.bound.isSome = true → u.cur.stop = some .machineCheck ∧ u.cur.bound = s.cur.bound ∧ (NatMap.get {} u.boxes (k / 64)).frozen = true)))

/-- R66 to R68, R79, R80, R240 to R242: a launch with a pending group ages by one for each full 10 ms, up to 7; every millisecond the time of each bound group is
charged to its region and every ancestor; the oldest window of grows that has ended is applied; at D2 every 2^20 cycles an update of the hash tree
is triggered and its launch held; the update that is next waits for its launch's writes, and then, at D2 once its pages are hashed at 512 bytes a cycle on each die, writes nodes and header, is counted, and lets
its launch go. -/
def Obligations.SchedulerEvents : Prop := ∀ s : State,
  (∀ l, s.launch? s.site.n = some l → 7 ≤ l.age → exec .agingTick s = .next s) ∧
  (∀ l, s.launch? s.site.n = some l → (l.next < l.groups ∨ l.saved ≠ []) → l.age < 7 → l.ageAt + 22500000 ≤ s.cycle →
    Goes .agingTick s (fun u => u.launch? l.key = some { l with age := min 7 (l.age + 1), ageAt := l.ageAt + 22500000 })) ∧
  (s.budgetAt + 2250000 ≤ s.cycle → Goes .budgetUpdate s (fun u => u.budgetAt = s.cycle ∧
    (∀ k ∈ s.boundCells, (u.cellAt k).chargedAt = s.cycle) ∧
    (∀ k ∈ s.boundCells, s.boundCells = [k] → ∀ b, (s.cellAt k).bound = some b → ∀ l, s.launch? b.launch = some l →
      ((s.regionPath 8 l.region).map (fun r => r.addr)).Nodup → ∀ r ∈ s.regionPath 8 l.region,
        (u.region? r.addr).map (fun y => y.charged) = some (r.charged + (s.cycle - (s.cellAt k).chargedAt))))) ∧
  (∀ l, s.launch? s.site.n = some l →
    let pending := l.grows.filter (fun r => r.result.isNone)
    ∀ r ∈ pending, l.status = .running → (∀ y ∈ pending, r.window < y.window ∨ y = r) → l.windowBase + 4096 * (r.window + 1) ≤ s.cycle → pending.count r = 1 →
      Goes .growWindowClose s (fun u => (u.launch? l.key).any (fun o =>
        let none := decide (r.amount = 0)
        let no := decide (2 ^ 32 ≤ r.amount.toNat) || bit (l.word 1) 32 || decide (2 ^ 32 ≤ l.groups + r.amount.toNat)
        decide (o.groups = if none || no then l.groups else l.groups + r.amount.toNat) &&
        o.grows.all (fun y => y.serial != r.serial || y.result == some (if !none && no then 0xFFFFFFFFFFFFFFFF else BitVec.ofNat 64 l.groups))) = true)) ∧
  (∀ l, s.launch? s.site.n = some l → ∀ c, l.ref? = some c → l.level = 2 → bits (l.ht.getD 1 0) 31 0 ≠ 0 → c + 2 ^ 20 * (l.ticks + 1) ≤ s.cycle →
    Goes .hashTreeTimer s (fun u =>
      u.hashReqs = s.hashReqs ++ [{ region := l.region, launch := l.key, timer := true, cycle := c + 2 ^ 20 * (l.ticks + 1), looked := c + 2 ^ 20 * (l.ticks + 1),
                                    num := l.num, level := l.level, ht := l.ht }] ∧
      (u.launch? l.key).any (fun o => decide (o.ticks = l.ticks + 1) && o.holdHash) = true ∧
      (s.cycle = c + 2 ^ 20 * (l.ticks + 1) → u.launch? l.key = some { l with ticks := l.ticks + 1, holdHash := true }))) ∧
  (∀ h, s.nextHash = some h → s.writesDone h.launch = false → Goes .hashTreeUpdate s (fun u =>
    u.mem = s.mem ∧ u.regions = s.regions ∧ u.launches = s.launches ∧ { h with looked := max h.looked s.cycle } ∈ u.hashReqs)) ∧
  (∀ h, s.nextHash = some h → s.writesDone h.launch = true → h.level = 2 → h.ready = none → s.hashReqs.count h = 1 → Goes .hashTreeUpdate s (fun u =>
    u.mem = s.mem ∧ u.regions = s.regions ∧ (s.cycle ≤ h.looked + 1 → u.launches = s.launches) ∧ u.hashReqs.length = s.hashReqs.length ∧
    { h with ready := some (s.cycle + s.hashTime (h.ht.getD 0 0 &&& 0xFFFFFFFFFFFFF) (bits (h.ht.getD 1 0) 31 0)) } ∈ u.hashReqs)) ∧
  (∀ h, s.nextHash = some h → s.writesDone h.launch = true → (h.level ≠ 2 ∨ h.ready.isSome = true) → h.ready.getD 0 ≤ s.cycle → s.noReset →
    let r := s.leaves h.region (h.ht.getD 0 0 &&& 0xFFFFFFFFFFFFF) (bits (h.ht.getD 1 0) 31 0)
    let levels := treeLevels 34 r.2
    let nodesAt := h.ht.getD 2 0 &&& 0xFFFFFFFFFFFFF
    let header := [((s.region? h.region).map (fun r => r.updates)).getD 0 + 1, (levels.getLast?.getD []).headD 0,
      BitVec.ofNat 64 (levels.length + (if h.timer then 32 else 0)), BitVec.ofNat 64 h.num.toNat, 0, 0, 0, 0]
    ∀ s2, (r.1.putWords (h.tryAt.getD s.cycle) (nodesAt + 64) levels.flatten).bind (fun x => x.putWords (h.tryAt.getD s.cycle) nodesAt header) = some s2 → Goes .hashTreeUpdate s (fun u =>
      u.hashReqs = (s.hashReqs.erase h).map (fun x => { x with looked := max x.looked s.cycle }) ∧ (u.region? h.region).map (fun y => y.updates) = (s.region? h.region).map (fun y => y.updates + 1) ∧
      (∀ l, s.launch? h.launch = some l → s.launches = [l] → l.bound ≠ [] → (h.level ≠ 2 ∨ h.ready = some s.cycle) → u.mem = s2.mem ∧ u.launch? h.launch = some { l with holdHash := (s.hashReqs.erase h).any (fun y => y.launch == h.launch) }))) ∧
  (∀ a b c d e : Word, treeLevels 34 [a, b, c, d, e] =
    let n := fun (x y : Word) => jmix64 (jmix64 0 x) y
    [[a, b, c, d, e], [n a b, n c d, n e 0], [n (n a b) (n c d), n (n e 0) 0], [n (n (n a b) (n c d)) (n (n e 0) 0)]])

/-! ### Events of links, the mesh, ports and power -/

/-- Both directions of a module read a state and a width (R13). -/
def ModuleIs (e m : Nat) (st width : BitVec 2) (u : State) : Prop :=
  (u.linkAt (edgeDies e).1 e m).st = st ∧ (u.linkAt (edgeDies e).1 e m).width = width ∧
  (u.linkAt (edgeDies e).2 e m).st = st ∧ (u.linkAt (edgeDies e).2 e m).width = width

/-- R11 to R13: flits received fill a window of 2^WINLOG, at whose end the count clears; a CRC failure is counted, and the fourth failed retry of one flit or
ERRTHR failures in a window begin a retrain; in a drain a failure only counts; a retrain ends on all lanes where it may, else on the low half, else on the high half, else down; DOWN drains an
active module and, cleared in both directions, lets a module that is down train anew. -/
def Obligations.LinkModules : Prop := ∀ s : State,
  let d := s.site.die
  let e := s.site.edge
  let m := s.site.mod
  let a := (edgeDies e).1
  let l0 := s.linkAt d e m
  let window := 2 ^ (if l0.winLog.toNat < 16 then 16 else if 40 < l0.winLog.toNat then 40 else l0.winLog.toNat)
  let l : Link := if l0.flits + s.site.n < window then { l0 with flits := l0.flits + s.site.n } else { l0 with errCnt := 0, flits := (l0.flits + s.site.n) % window }
  let tries := if s.site.yes = true then l.tries + 1 else 0
  let count := min (l.errCnt.toNat + 1) 0xFF
  (l.st = 2 → ((edgeDies e).1 = d ∨ (edgeDies e).2 = d) →
    (tries < 4 → (l.errThr = 0 ∨ count < l.errThr.toNat) → Goes .flitCrcFailure s (fun u =>
      u = s.setLink d e m { l with errCnt := BitVec.ofNat 8 count, retry := BitVec.ofNat 32 (min (l.retry.toNat + 1) 0xFFFFFFFF), tries := tries })) ∧
    ((4 ≤ tries ∨ (l.errThr ≠ 0 ∧ l.errThr.toNat ≤ count)) → Goes .flitCrcFailure s (fun u => ModuleIs e m 1 0 u ∧
      (u.linkAt d e m).errCnt = 0 ∧ (u.linkAt d e m).full = false ∧ (u.linkAt d e m).retrain = BitVec.ofNat 8 (min (l.retrain.toNat + 1) 0xFF)))) ∧
  (l.st = 3 → ((edgeDies e).1 = d ∨ (edgeDies e).2 = d) → exec .flitCrcFailure s = .next (s.setLink d e m
    { l with errCnt := BitVec.ofNat 8 count, retry := if 4 ≤ tries then l.retry else BitVec.ofNat 32 (min (l.retry.toNat + 1) 0xFFFFFFFF), tries := tries })) ∧
  (exec .errorWindowEnd s = .next (s.setLink d e m l)) ∧
  ((s.linkAt a e m).st = 1 → Goes .retrainComplete s (fun u =>
    if (s.linkAt a e m).full = true ∧ s.site.yes = true then ModuleIs e m 2 3 u
    else if s.site.yes2 = true then ModuleIs e m 2 1 u
    else if s.site.yes3 = true then ModuleIs e m 2 2 u else ModuleIs e m 0 0 u)) ∧
  (e < 40 → m < 8 → (a = d ∨ (edgeDies e).2 = d) → l.down = false → Goes .downSet s (fun u => (u.linkAt d e m).down = true ∧
    (l.st ≠ 0 → ModuleIs e m 3 l.width u))) ∧
  (e < 40 → m < 8 → (a = d ∨ (edgeDies e).2 = d) → l.down = true → l.st = 0 →
    (s.linkAt a e m).down = false ∨ a = d → (s.linkAt (edgeDies e).2 e m).down = false ∨ (edgeDies e).2 = d → Goes .downClear s (fun u =>
      (u.linkAt d e m).down = false ∧ ModuleIs e m 1 0 u ∧ (u.linkAt d e m).full = true)) ∧
  ((s.linkAt a e m).st = 3 → Goes .linkDrainEnd s (ModuleIs e m 0 0))

/-- A request that stores. -/
def storeOp : MemOp → Bool
  | .write _ => true
  | _ => false

/-- A request whose answer an instruction waits for: a read, an atomic, a counter's. -/
def askOp : MemOp → Bool
  | .write _ => false
  | .carry _ => false
  | _ => true

/-- R17 to R20, R123, R175, R184: the next request of a pair is applied once and its response stored, a duplicate applies nothing; a response acknowledges
its request, lets one that waited for a number follow, and answers the access that waits; after 20 µs every unacknowledged request is sent again and one sent eight times is lost; a request held
by a lock has its timer restarted each 10 µs; a resynchronised pair starts afresh; an update of a replicated page reaches every replica; a
lease of 1 µs is recalled. -/
def Obligations.MeshProtocol : Prop := ∀ s : State,
  let src := s.site.src
  let dst := s.site.dst
  let p := s.pairAt src dst
  let q := s.site.q
  let more (l : List MeshReq) (u : State) : Prop := (u.pairAt src dst).unacked.take l.length = l ∧ (s.chunksIn = [] →
    (u.pairAt src dst).unacked.length = max l.length (min 256 (l.length + p.backlog.length)))
  (∀ r, p.unacked.find? (fun r => r.q == q) = some r → s.reaches src dst = true → p.waiting = [] →
    (q = p.last + 1 → s.mustWait r = false → Goes .meshRequest s (fun u =>
      (u.pairAt src dst).last = q ∧ (u.pairAt src dst).waiting = [] ∧ (u.pairAt src dst).resp = (q, (s.applyReq r).1) :: p.resp.take 255 ∧
      (u.pairAt src dst).unacked = p.unacked ∧ u.mem = (s.applyReq r).2.mem ∧ u.cells = (s.applyReq r).2.cells)) ∧
    (q = p.last + 1 → s.mustWait r = true → Goes .meshRequest s (fun u =>
      (u.pairAt src dst).last = q ∧ (u.pairAt src dst).waiting = [q] ∧ (u.pairAt src dst).resp = p.resp ∧ u.mem = s.mem ∧ u.cells = s.cells)) ∧
    (q ≠ p.last + 1 → exec .meshRequest s = .next s)) ∧
  (∀ r, p.unacked.find? (fun r => r.q == q) = some r → ∀ b, p.resp.find? (fun r => r.1 == q) = some b → s.reaches dst src = true →
    p.waiting.contains r.q = false → Goes .meshResponse s (fun u => more (p.unacked.filter (fun x => x.q != q)) u ∧ (u.pairAt src dst).last = p.last ∧ u.mem = s.mem ∧
      (storeOp r.op = true → b.2 ≠ .uncorrectable → u.cells = s.cells) ∧
      (askOp r.op = true → ((s.cellAt r.cell).seq r.seq).access = some (.waiting dst q) → ((u.cellAt r.cell).seq r.seq).access = some (.answered b.2)))) ∧
  (p.unacked.any (fun r => decide (r.sent + 45000 ≤ s.cycle)) = true → Goes .resendTimeout s (fun u =>
    more ((p.unacked.filter (fun r => decide (r.sends < 8))).map (fun (r : MeshReq) => { r with sends := r.sends + 1, sent := s.cycle })) u ∧
    (∀ r ∈ p.unacked, 8 ≤ r.sends → askOp r.op = true → ((s.cellAt r.cell).seq r.seq).access = some (.waiting dst r.q) →
      ((u.cellAt r.cell).seq r.seq).access = some .lost))) ∧
  (Goes .holdMessageTimer s (fun u => (∀ x ∈ s.holds, x ∈ u.holds) ∧ ∀ e ∈ s.pairs, e.1 % 32 = s.site.die → e.2.heldAt + 22500 ≤ s.cycle →
    ∀ r ∈ e.2.unacked, e.2.waiting.contains r.q = true → inSp r.pa = true → spCell r.pa = s.here → (e.1 / 32, s.site.die, r.q) ∈ u.holds)) ∧
  (s.holds.contains (src, dst, q) = true → Goes .holdMessage s (fun u => u.holds = s.holds.erase (src, dst, q) ∧
    (u.pairAt src dst).unacked = p.unacked.map (fun r => if r.q = q then { r with sent := s.cycle } else r))) ∧
  (s.resyncs.contains (s.site.die, src) = true → s.chunksIn = [] → Goes .resyncMessage s (fun u => u.resyncs = s.resyncs.erase (s.site.die, src) ∧
    (u.pairAt s.site.die src).next = 0 ∧ (u.pairAt s.site.die src).unacked = [] ∧
    (u.pairAt src s.site.die).last = 0xFFFF ∧ (u.pairAt src s.site.die).resp = [] ∧ (u.pairAt src s.site.die).waiting = [])) ∧
  (∀ r, s.replicas[s.site.n]? = some r → (s.replicas.take s.site.n).any (fun o => o.cell == r.cell && o.seq == r.seq) = false →
    r.net = 0 → s.badWords = [] →
    (∀ bs, r.op = .write bs → Goes .replicaUpdate s (fun u => u.replicas = s.replicas.eraseIdx s.site.n ∧ u.replNum = s.replNum + 1 ∧
      (r.pa % 2 ^ 36 + bs.length ≤ 2 ^ 36 → ∀ y, y < 16 → s.dieUp y = true → ∀ i, i < bs.length →
        u.byteAt (r.pa % 2 ^ 36 + y * 2 ^ 36 + i) = bs.getD i 0))) ∧
    (∀ op n y c, r.op = .atomic op n y c → Goes .replicaUpdate s (fun u => u.replicas = s.replicas.eraseIdx s.site.n ∧ u.replNum = s.replNum + 1 ∧
      (((s.cellAt r.cell).seq r.seq).access = some (.waiting replicaDst 0) →
        ((u.cellAt r.cell).seq r.seq).access = some (.answered (.value (BitVec.ofNat 64 (ofLe (s.bytesAt r.pa n))))))))) ∧
  (∀ t, (s.leases.find? (fun e => e.1 == s.site.n)) = some t → t.2 + 2250 ≤ s.cycle →
    exec .timestampLeaseRecall s = .next { s with leases := s.leases.filter (fun e => e.1 != s.site.n) })

/-- Port p is in a stage that began at this cycle (R27). -/
def EntersStage (p : Nat) (stage : PortStage) (s u : State) : Prop := (u.portAt p).stage = stage ∧ (u.portAt p).since = s.cycle

/-- The longest time of each stage of training, in cycles (R27). -/
def stageLimit : PortStage → Nat
  | .lock => 22500000
  | .align => 22500000
  | _ => 2250000

/-- R23, R25, R27, R267: each event of a port moves it from one stage of its training to the next, or to LOCK after 100 ms where a stage fails; loss of lock begins
again; loss of standby power loses the black boxes; above the power limit no group is dispatched; a power emergency machine-checks every cell in service
and freezes every box. -/
def Obligations.PortsAndPower : Prop := ∀ s : State,
  let p := s.site.port
  let x := s.portAt p
  let late := x.since + stageLimit x.stage ≤ s.cycle
  let intime := s.cycle ≤ x.since + stageLimit x.stage
  let half := p = 32 ∧ x.lanes.contains 0 = true ∧ x.lanes.contains 1 = true
  (p ≤ 32 → x.stage = .lock → intime → s.site.lane < (if p = 32 then 4 else 8) → Goes .laneLock s (fun u =>
    let lanes := if x.lanes.contains s.site.lane = true then x.lanes else x.lanes ++ [s.site.lane]
    (u.portAt p).lanes = lanes ∧ (if lanes.length = (if p = 32 then 4 else 8) then EntersStage p .align s u else (u.portAt p).stage = .lock ∧ (u.portAt p).since = x.since))) ∧
  (x.stage = .lock → late → s.bringUp ≠ 1 → Goes .lockWindowEnd s (fun u =>
    if half then EntersStage p .align s u ∧ (u.portAt p).half = true ∧ (u.portAt p).lanes = [0, 1] else EntersStage p .waiting s u)) ∧
  (p ≤ 32 → x.stage = .align → intime → Goes .alignComplete s (EntersStage p .negotiate s)) ∧
  (p ≤ 32 → x.stage = .negotiate → intime → s.bringUp ≠ 1 → Goes .capabilityWord s (EntersStage p (if s.site.yes = true then .confirm else .waiting) s)) ∧
  (p ≤ 32 → x.stage = .confirm → intime → (s.bringUp ≠ 1 ∨ p = 32) → Goes .confirmTestFrames s (EntersStage p (if s.site.yes = true then .active else .waiting) s)) ∧
  (x.stage = .confirm → intime → p = 32 → s.site.yes = true → s.bringUp = 1 → Goes .confirmTestFrames s (fun u => u.bringUp = 2 ∧ ∀ i, i < 32 → EntersStage i .lock s u)) ∧
  (x.stage = .align ∨ x.stage = .negotiate ∨ x.stage = .confirm ∨ (x.stage = .lock ∧ ¬ half) → late → s.bringUp ≠ 1 →
    Goes .trainingStageTimeout s (EntersStage p .waiting s)) ∧
  (x.stage = .waiting → x.since + 225000000 ≤ s.cycle → Goes .retrainHoldoffExpiry s (fun u => EntersStage p .lock s u ∧ (u.portAt p).lanes = [])) ∧
  (x.stage = .active → Goes .lossOfLock s (fun u => EntersStage p .lock s u ∧ (u.portAt p).lanes = [])) ∧
  (exec .powerLimitExceeded s = .next { s with powerHold := true }) ∧
  (exec .powerBelowLimit s = .next { s with powerHold := false }) ∧
  (exec .standbyPowerLoss s = .next { s with boxes := [] }) ∧
  (s.noReset → Goes .powerEmergency s (fun u => (∀ k ∈ allCells, s.cellUp k = true → (u.cellAt k).stop = some .machineCheck) ∧
    (∀ d, d < 20 → (NatMap.get {} u.boxes d).frozen = true)))

/-- What RESET leaves of a stream (R42): nothing that has not started and no WAITSIG, its level and SEQ at their start, its launches and COPYHs stopped. -/
def StreamStopped (m : Nat) (u : State) : Prop :=
  (u.streamAt m).level = 0 ∧ (u.streamAt m).last = 0xFFFF ∧
  (∀ o ∈ (u.streamAt m).pkts, o.packet.immediate = true ∨ (o.started = true ∧ o.packet.type ≠ 5)) ∧
  (∀ l ∈ u.launches, l.stream = m → l.status ≠ .running) ∧ (∀ c ∈ u.copyhs, c.stream = m → c.stopped = true)

/-- R20, R24, R26, R41, R42, R185: power-on with good rails and coolant brings the package up to where the Ustex port trains, and otherwise leaves all as it was but
that port; a package reset counts, loses every register and keeps the black boxes, and waits for the coolant; RESET of a stream, a die or the package stops what it names; the end of a die reset zeroes the die's scratchpads
and takes the die into service or out of it. -/
def Obligations.ResetsAndBringUp : Prop := ∀ s : State,
  let n := s.site.stream
  let env := s.site.env
  (s.bringUp = 0 → (env.railsOk = false ∨ env.coolantOk = false) → Goes .powerOn s (fun u => u.bringUp = 0 ∧ EntersStage 32 .lock s u ∧
    (∀ p, p < 32 → u.portAt p = s.portAt p) ∧ u.cells = s.cells ∧ u.pairs = s.pairs ∧ u.links = s.links)) ∧
  (s.bringUp = 0 → env.railsOk = true → env.coolantOk = true → Goes .powerOn s (fun u => u.bringUp = 1 ∧ EntersStage 32 .lock s u ∧ u.pkgId = env.pkgId ∧
    (∀ a, a < 20 → ∀ b, b < 20 → (u.pairAt a b).unacked = [] ∧ (u.pairAt a b).next = 0 ∧ (u.pairAt a b).last = 0xFFFF) ∧
    (∀ d ∈ env.failedDies ++ env.hbmFailed.filter (fun d => decide (d < 16)), d < 20 → u.oosDies.contains d = true) ∧
    (∀ e, e < 40 → ∀ m, m < 8 → env.links.all (fun x => x.1 != (e, m)) = true → ModuleIs e m 2 3 u))) ∧
  (s.quiet = true → s.bringUp ≠ 0 → env.coolantOk = false → exec .powerOn s = .next s) ∧
  (s.quiet = true → s.bringUp ≠ 0 → env.coolantOk = true → Goes .powerOn s (fun u => u.bringUp = 1 ∧ u.resets = s.resets + 1 ∧ u.mem = [] ∧ u.hbmGen = s.hbmGen + 1 ∧ u.cells = [] ∧
    u.launches = [] ∧ u.regions = [] ∧ u.signals = [] ∧ u.slots = [] ∧ u.streams = s.streams ∧ u.pkgId = env.pkgId ∧
    (∀ d, d < 20 → (NatMap.get {} u.boxes d).frozen = (NatMap.get {} s.boxes d).frozen))) ∧
  (s.noReset → ∀ p, s.immediatePkt (fun q => q.type == 0x0B) = some p →
    (p.packet.good = false → Goes .resetStream s (Completes n p 0x10 0 0 [] s)) ∧
    (p.packet.good = true → (s.launches.map (fun l => l.key)).Nodup →
      (p.packet.resetKind = 0 → Goes .resetStream s (fun u => StreamStopped (bits (p.packet.at' 0) 7 4) u ∧
        ((s.streamAt (bits (p.packet.at' 0) 7 4)).pkts = [p] → bits (p.packet.at' 0) 7 4 = n → u.running = none ∧ (u.streamAt n).pkts = []))) ∧
      (p.packet.resetKind = 1 → Goes .resetDie s (fun u =>
        (∀ l ∈ u.launches, l.bound.any (fun e => e.2 / 64 == bits (p.packet.at' 0) 12 8) = true → l.status ≠ .running) ∧
        (bits (p.packet.at' 0) 12 8 < 16 → u.replWait.contains (bits (p.packet.at' 0) 12 8) = true) ∧ u.running.any (fun r => r.kind == 1) = true)) ∧
      (p.packet.resetKind = 2 → Goes .resetPackage s (fun u => (∀ m, m < 16 → StreamStopped m u) ∧ u.running.any (fun r => r.kind == 2) = true)))) ∧
  (∀ r, s.running = some r → r.kind = 1 → r.die = s.site.die → s.dieBusy s.site.die = false → s.pending = [] → s.chunksIn = [] → Goes .dieResetComplete s (fun u =>
    u.running = none ∧ u.replWait.contains s.site.die = false ∧ u.oosDies.contains s.site.die = !s.site.yes ∧
    (∀ o ∈ (u.streamAt r.stream).pkts, o.serial ≠ r.pkt.serial) ∧
    (∀ e, e < 20 → e ≠ s.site.die → (u.pairAt s.site.die e).unacked = [] ∧ (u.pairAt s.site.die e).next = 0 ∧ (u.pairAt e s.site.die).last = 0xFFFF ∧
      (u.pairAt e s.site.die).resp = []) ∧
    (s.launches = [] → s.site.die < 16 → ∀ e ∈ u.mem, ∀ c, c < 56 →
      ¬ (spAddr (64 * s.site.die + c) 0 ≤ e.1 ∧ e.1 < spAddr (64 * s.site.die + c) 0 + 0x400000))))

/-! ### Events of a cell -/

/-- A flag word (R257). -/
def waitedFlag (kind index unit cycles : Nat) : Word :=
  BitVec.ofNat 64 (kind % 16 + index % 2 ^ 16 * 2 ^ 4 + unit * 2 ^ 20 + min (cycles / 256) (2 ^ 32 - 1) * 2 ^ 32)

/-- How many vector commands wait before one that has not started, the POS of its flag word (R257). -/
def waitBefore (c : Cell) (v : VCmd) : Nat :=
  if v.started.isSome = true then 0 else ((c.vcmds.takeWhile (fun o => o.id != v.id)).filter (fun o => o.started.isNone)).length

/-- A machine check on the cell of the step (R108, R258). -/
def MachineChecked (s u : State) : Prop :=
  u.cur.stop = some .machineCheck ∧ (∀ q ∈ allSeqs, (u.cur.seq q).slots = []) ∧ u.cur.pend = [] ∧
  (NatMap.get {} u.boxes (s.here / 64)).frozen = true ∧ u.mem = s.mem

/-- R107, R108, R122, R254, R255, R257, R258: nine cycles after it entered, the oldest item of a check slot leaves it where the telltale agrees: a push reaches
its queue, a token its counter, a store its home or the commit buffer of a locked word (ordered ones wait for the lock), and no byte outside the store changes; a
mismatch or a residue failure is a machine check, which
empties every check slot and freezes the box; a pushed block reaches the remote queue of its group, a command its engine; a wait that reaches WAITBOUND traps
precisely, and a command that reaches its bound raises a deferred CYCLE_BOUND once, with the flag that it awaits. The model's choices: the flag that a copy awaits
is log entry 173, the cycle from which the bound of a queued command counts entry 172, and the wait of an ordered store for a locked word entry 13. -/
def Obligations.CheckSlotsAndBounds : Prop := ∀ s : State,
  let k := s.here
  (∀ x, s.curSeq.slots.head? = some x → x.at? + 9 ≤ s.cycle → s.cur.stop ≠ some .machineCheck →
    let rest := s.curSeq.slots.tail
    (x.item ≠ x.tell → Goes .checkSlotRelease s (MachineChecked s)) ∧
    (x.item = x.tell →
      (∀ n v, x.item = .push n v → Goes .checkSlotRelease s (fun u =>
        u.cur.queue n = s.cur.queue n ++ [v] ∧ u.curSeq.slots = rest ∧ u.mem = s.mem)) ∧
      (∀ n, x.item = .token n → Goes .checkSlotRelease s (fun u =>
        u.cur.tokVal n = s.cur.tokVal n + 1 ∧ u.cur.tokRsv n = s.cur.tokRsv n - 1 ∧ u.curSeq.slots = rest ∧ u.mem = s.mem)) ∧
      (∀ key g ws l, x.item = .block key g ws → s.launch? key = some l →
        (∀ e, l.bound.find? (fun e => e.1 == g) = some e →
          ((s.cellAt e.2).stop = some .preempt → exec .checkSlotRelease s = .next s) ∧
          ((s.cellAt e.2).stop = none → Goes .checkSlotRelease s (fun u =>
            (u.cellAt e.2).remq = (s.cellAt e.2).remq ++ [ws] ∧ u.curSeq.slots = rest ∧ u.mem = s.mem))) ∧
        (l.bound.find? (fun e => e.1 == g) = none →
          (l.saved.any (fun y => y.group == g) = true → exec .checkSlotRelease s = .next s) ∧
          (l.saved.any (fun y => y.group == g) = false → Goes .checkSlotRelease s (fun u =>
            (∀ c, (u.cellAt c).remq = (s.cellAt c).remq) ∧ u.curSeq.slots = rest ∧ u.mem = s.mem)))) ∧
      (∀ id, x.item = .command id → Goes .checkSlotRelease s (fun u => u.curSeq.slots = rest ∧ u.mem = s.mem ∧
        u.cur.chains = s.cur.chains.filter (fun y => y.2.poster.id != id) ∧ (∀ c ∈ u.cur.vcmds, c.id = id → c.inSlot = false) ∧
        (∀ c ∈ u.cur.copies, c.id = id → c.inSlot = false) ∧ (∀ c ∈ u.cur.tensors, c.id = id → c.inSlot = false) ∧
        (∀ c ∈ (u.quadAt (quadOf k)).cmds, c.cell = k → c.id = id → c.inSlot = false))) ∧
      (∀ pa bs cls repl pc va, x.item = .store pa bs cls repl pc va →
        (repl = true → Goes .checkSlotRelease s (fun u => u.curSeq.slots = rest ∧ u.mem = s.mem ∧
          u.replicas.map (fun r => { r with net := 0 }) = s.replicas.map (fun r => { r with net := 0 }) ++ [{ pa := pa, op := .write bs, cell := k, seq := s.site.seq, cls := cls, pc := pc, va := va, net := 0, born := x.at? }])) ∧
        (repl = false → homeDie pa ≠ k / 64 → (s.pairAt (k / 64) (homeDie pa)).unacked.length < 256 → Goes .checkSlotRelease s (fun u =>
          u.curSeq.slots = rest ∧ u.mem = s.mem ∧ (u.pairAt (k / 64) (homeDie pa)).next = (s.pairAt (k / 64) (homeDie pa)).next + 1 ∧
          ((u.pairAt (k / 64) (homeDie pa)).unacked.map (fun r => (r.q, r.pa, r.op))) =
            (s.pairAt (k / 64) (homeDie pa)).unacked.map (fun r => (r.q, r.pa, r.op)) ++ [((s.pairAt (k / 64) (homeDie pa)).next, pa, .write bs)])) ∧
        (repl = false → homeDie pa = k / 64 → s.wordHeld pa = false → Goes .checkSlotRelease s (fun u => u.curSeq.slots = rest ∧
          (s.badWords = [] → ∀ i, i < bs.length → u.byteAt (pa + i) = bs.getD i 0) ∧
          (∀ a, a < pa ∨ pa + bs.length ≤ a → u.byteAt a = s.byteAt a))) ∧
        (repl = false → homeDie pa = k / 64 → s.wordHeld pa = true → cls ≠ .relaxed → exec .checkSlotRelease s = .next s) ∧
        (repl = false → homeDie pa = k / 64 → s.wordHeld pa = true → cls = .relaxed → (s.cellAt (spCell pa)).freeEntry.isSome = true → Goes .checkSlotRelease s (fun u =>
          u.mem = s.mem ∧ (u.cellAt (spCell pa)).cbuf.length = (s.cellAt (spCell pa)).cbuf.length + 1))))) ∧
  (Goes .residueFailure s (MachineChecked s)) ∧
  (∀ b, s.curSeq.blocked = some b → s.mayIssue = true → s.curSeq.waitBound ≠ 0 → s.curSeq.waitBound.toNat * 256 ≤ s.cycle - b.since →
    exec .waitBoundExpiry s = .next (s.precise tcWaitBound (waitedFlag b.kind b.index (4 + s.site.seq.num) (s.cycle - b.since)))) ∧
  (s.cur.bound.isSome = true → s.cur.stop = none → s.cur.tin = false →
    (∀ v, s.cur.vcmds.find? (fun v => v.id == s.site.n) = some v → v.raised = false → v.op.usesB = false → bits v.b 31 0 ≠ 0 →
      let since := if v.started.isSome = true then v.headSince else if waitBefore s.cur v = 0 then max v.issued s.cur.vlast else v.issued
      bits v.b 31 0 ≤ s.cycle - max since v.again → Goes .cycleBoundExpiry s (fun u =>
        u.cur.stop = some (.trap ⟨0x08, true, v.pc, .C, (match (if waitBefore s.cur v = 0 then s.cur.stepWait v else none) with | some n => waitedFlag 4 n 1 | none => waitedFlag 13 0 1)
          (s.cycle - max since v.again) + BitVec.ofNat 64 (min (waitBefore s.cur v) 255 * 2 ^ 24)⟩ s.cycle) ∧ ∀ o ∈ u.cur.vcmds, o.id = s.site.n → o.raised = true)) ∧
    (s.cur.vcmds.find? (fun v => v.id == s.site.n) = none →
      (∀ x, s.cur.copies.find? (fun x => x.id == s.site.n) = some x → x.raised = false → fld x.f 14 ≠ 0 →
        s.redHeld.any (fun w => w.owner == .copy k s.site.n) = false → (fld x.f 14).toNat ≤ s.cycle - max x.issued x.again → Goes .cycleBoundExpiry s (fun u =>
          u.cur.stop = some (.trap ⟨0x08, true, x.pc, x.seq, waitedFlag 13 x.tag.toNat 2 (s.cycle - max x.issued x.again)⟩ s.cycle))) ∧
      (s.cur.copies.find? (fun x => x.id == s.site.n) = none →
        (∀ m, (s.quadAt (quadOf k)).cmds.find? (fun o => o.cell == k && o.id == s.site.n && o.ofWalk.isNone) = some m → m.raised = false → m.tagged = false →
          m.st ≠ 0 → m.waits = false → m.op < 5 → s.cur.cbuf = [] → (∀ o ∈ (s.quadAt (quadOf k)).cmds, o.op ≠ 5) → fld m.f 14 ≠ 0 →
          (fld m.f 14).toNat ≤ s.cycle - max m.headSince m.again → Goes .cycleBoundExpiry s (fun u =>
            u.cur.stop = some (.trap ⟨0x08, true, m.pc, .C, waitedFlag 13 m.tag.toNat 0 (s.cycle - max m.headSince m.again)⟩ s.cycle))) ∧
        ((s.quadAt (quadOf k)).cmds.find? (fun o => o.cell == k && o.id == s.site.n && o.ofWalk.isNone) = none → (∀ g ∈ s.engines, g.2.arming = []) →
          ∀ x, s.cur.chains.find? (fun x => x.2.poster.cell == k && x.2.poster.id == s.site.n) = some x → x.2.poster.raised = false →
            ∀ t, x.2.poster.tag = some t → x.2.poster.bound ≠ 0 → x.2.poster.bound.toNat ≤ s.cycle - max x.2.poster.issued x.2.poster.again →
              Goes .cycleBoundExpiry s (fun u => u.cur.stop = some (.trap ⟨0x08, true, x.2.poster.pc, x.2.poster.seq,
                waitedFlag 13 t.toNat 3 (s.cycle - max x.2.poster.issued x.2.poster.again)⟩ s.cycle))))))

/-- R247, R250, R253, R56, R265: a trap whose cell has not drained is not taken; the drain is noted, and 32 cycles later the trap reaches its handler: TCAUSE, TPC,
TSEQ, TVAL, the four RPCs and all of TPBK are written, IN is 1, and K stands at TVEC.ENTRY with its block and its ended state put by; with no handler, or inside
one, the group ends, an event of type 0x01 is written in the die's black box, its copies are cancelled and the launch becomes FAULTED. That the drain is noted by
an event of its own is the model's choice (log entry 25), and what a covered trap leaves of PBSTATE is entry 18. -/
def Obligations.TrapEntry : Prop := ∀ s : State,
  let k := s.here
  let c := s.cur
  ∀ r c0, s.cur.stop = some (.trap r c0) →
    (s.drained k = false → exec .trapEntry s = .next s) ∧
    (s.drained k = true → c.drainAt = none → Goes .trapEntry s (fun u => u.cur = { c with drainAt := some s.cycle } ∧ u.mem = s.mem ∧ u.boxes = s.boxes ∧ u.launches = s.launches)) ∧
    ∀ d, s.drained k = true → c.drainAt = some d →
    (s.cycle < d + 32 → exec .trapEntry s = .next s) ∧
    (d + 32 ≤ s.cycle →
    let resume := fun (q : SeqId) => if r.seq = q ∧ r.defer = false ∧ (r.cause = 0x0E ∨ r.cause = 0x0F) then (c.seq q).pc + 1 else (c.seq q).pc
    (c.tvecEn = true → c.tin = false → Goes .trapEntry s (fun u => u.mem = s.mem ∧ u.boxes = s.boxes ∧ u.launches = s.launches ∧
      u.cur.tcause = r.cause ∧ u.cur.tdefer = r.defer ∧ u.cur.tpc = r.pc ∧ u.cur.tseq.toNat = r.seq.num ∧ u.cur.tval = r.val ∧
      u.cur.rpck = resume .K ∧ u.cur.rpcl = resume .L ∧ u.cur.rpcc = resume .C ∧ u.cur.rpcs = resume .S ∧
      u.cur.tpbk = c.k.pb.pat ++ 0#3 ++ BitVec.ofBool c.k.pb.pv ++ BitVec.ofNat 4 c.k.pb.rem ∧ u.cur.drainAt = none ∧ u.cur.kWasEnded = c.k.ended ∧
      u.cur.below = some ⟨c.k.pc, c.k.from?, c.joined⟩ ∧ u.cur.joined = none ∧ u.cur.k.blocked = none ∧ u.cur.k.slots = c.k.slots ∧ u.cur.tin = true ∧ u.cur.stop = none ∧ u.cur.k.pc = c.tvecEntry.zeroExtend 64 ∧ u.cur.k.pb = {} ∧ u.cur.k.ended = false ∧
      u.cur.k.g = c.k.g ∧ u.cur.k.p = c.k.p ∧ u.cur.k.lc = c.k.lc ∧ u.cur.l = c.l ∧ u.cur.c = c.c ∧ u.cur.s = c.s ∧
      u.cur.tsavea = c.tsavea ∧ u.cur.tsaveb = c.tsaveb ∧ u.cur.pend = c.pend)) ∧
    ((c.tvecEn = false ∨ c.tin = true) → Goes .trapEntry s (fun u => u.mem = s.mem ∧ u.cur.stop = some .faulted ∧ u.cur.tin = false ∧ u.cur.pend = [] ∧
      u.cur.remq = [] ∧ (∀ x ∈ u.cur.copies, x.cancelled = true) ∧
      (let box := NatMap.get {} s.boxes (k / 64)
       let after := NatMap.get {} u.boxes (k / 64)
       (box.frozen = false → bbEvent s.cycle 0x01 r.cause.toNat (s.boundIds k).1 (s.boundIds k).2 (k % 64) 0 r.pc r.val ∈ after.events) ∧
       (box.frozen = true → after.events = box.events ∧ after.frozen = true)) ∧
      (∀ b, c.bound = some b → ∀ l, s.launch? b.launch = some l → l.status = .running → (u.launch? b.launch).any (fun o => o.status == .faulted) = true))))

/-! ### Events of leases, remote queues and system barriers -/

/-- Whether cell c of quad q requests its lease and has a group (R76). -/
def Sys2Proof.Machine.State.asksLease (s : State) (q c : Nat) : Bool :=
  decide (c < 4) && (s.quadAt q).req.getLsbD c && (s.cellAt (cellKey (q / 16) (4 * (q % 16) + c))).bound.isSome

/-- Cell c of quad q has been given the lease (R75, R77). -/
def GivenTo (q c : Nat) (s u : State) : Prop :=
  (u.quadAt q).held = true ∧ (u.quadAt q).holder.toNat = c ∧ (u.quadAt q).count = 0 ∧ (u.quadAt q).grants = (s.quadAt q).grants + 1 ∧
  (u.quadAt q).cmds = (s.quadAt q).cmds ∧ u.mem = s.mem

/-- R74 to R78, R82, R283, R327: a free lease goes to the next requester, in the order of arrival where all are at D0 and in rotation from the last holder
otherwise; a holder that is gone, done (outside a trap), or has had its LEASEMAX commands while another requests, or has been idle for 8,192 cycles while another
requests, passes it; a block at the head of a remote queue becomes a copy or a collective command of its group, and one whose fields fail their
checks becomes none; a system arrival is kept, and one with another table checksum raises a deferred COLL_FAULT in every group that takes part. -/
def Obligations.LeasesAndRemoteQueues : Prop := ∀ s : State,
  let q := quadKey s.site.die s.site.quad
  let x := s.quadAt q
  let h := x.holder.toNat
  let key := fun (c : Nat) => cellKey (q / 16) (4 * (q % 16) + c)
  let d0 := ∀ c, c < 4 → s.asksLease q c = true → s.levelOf (key c) = 0
  let gone := (s.cellAt (key h)).bound = none ∧ ∀ o ∈ x.cmds, o.cell ≠ key h
  let idle := x.acq.getLsbD h = false ∧ x.waitingOf (key h) = false ∧ s.goWaits (key h) = false ∧ s.inTrap (key h) = false
  let others := ∃ c ∈ [0, 1, 2, 3], c ≠ h ∧ x.req.getLsbD c = true
  let full := others ∧ (s.cellAt (key h)).leaseLimit ≤ x.count.toNat
  (x.oos = false → x.held = false →
    ((∀ c, c < 4 → s.asksLease q c = false) → exec .leaseGrant s = .next s) ∧
    (∀ c, c < 4 → s.asksLease q c = true →
      (d0 → x.reqOrder.find? (fun o => s.asksLease q o) = some c → Goes .leaseGrant s (GivenTo q c s)) ∧
      (¬ d0 → (∀ o, o < 4 → s.asksLease q o = true → (c + 3 - h) % 4 ≤ (o + 3 - h) % 4) → Goes .leaseGrant s (GivenTo q c s)))) ∧
  (x.oos = false → x.held = true →
    (¬ (gone ∨ idle ∨ full) → exec .leaseGrant s = .next s) ∧
    (gone ∨ idle ∨ full → (∀ c, c < 4 → s.asksLease q c = true → c = h) → x.acq.getLsbD h = false → s.goWaits (key h) = false →
      Goes .leaseGrant s (fun u => (u.quadAt q).held = false ∧ (u.quadAt q).req.getLsbD h = false)) ∧
    (∀ c, c < 4 → c ≠ h → c ∈ x.reqOrder → s.asksLease q c = true →
      (gone ∨ idle ∨ full → Goes .leaseGrant s (fun u => GivenTo q (u.quadAt q).holder.toNat s u ∧ (u.quadAt q).holder.toNat ≠ h)) ∧
      (x.waitingOf (key h) = false → 8192 ≤ s.cycle - x.idleSince → Goes .leaseIdleTimeout s (fun u =>
        GivenTo q (u.quadAt q).holder.toNat s u ∧ (u.quadAt q).holder.toNat ≠ h)))) ∧
  (s.cur.bound.isSome = true → s.cur.stop = none → s.cur.tin = false → s.cur.remBusy = none → ∀ w, s.cur.remq.head? = some w →
    let f := w.drop 1
    let e := bits (fld f 0) 3 0
    let g := (Config.unstated (w.foldl (fun n x => n * 2 ^ 64 + x.toNat) 1)).toNat % 64
    (∀ k ∈ pushedTokens f, s.cur.tokVal k + s.cur.tokRsv k < 255) →
    (w.getD 0 0 = 2 → s.cur.copies.length < 64 →
      (s.copyCheck s.here none f = none → Goes .remoteQueueIssue s (fun u => u.cur.remq = s.cur.remq.tail ∧ u.cur.remBusy = some s.cur.nextId ∧
        u.cur.copies.length = s.cur.copies.length + 1 ∧ u.cur.copies.take s.cur.copies.length = s.cur.copies ∧
        (∀ c ∈ u.cur.copies.drop s.cur.copies.length, c.id = s.cur.nextId ∧ c.f = f ∧ c.remq = true ∧ c.seq = .K ∧ c.done = 0 ∧ c.tokens = pushedTokens f) ∧
        (∀ k ∈ pushedTokens f, u.cur.tokRsv k = s.cur.tokRsv k + 1) ∧ u.mem = s.mem)) ∧
      ((s.copyCheck s.here none f).isSome = true → Goes .remoteQueueIssue s (fun u => u.cur.remq = s.cur.remq.tail ∧ u.cur.remBusy = none ∧
        u.cur.copies = s.cur.copies ∧ u.mem = s.mem ∧
        u.cur.k.slots.map (fun x => x.item) = s.cur.k.slots.map (fun x => x.item) ++ (pushedTokens f).map (fun k => Item.token k) ∧
        ((fld f 12).getLsbD 14 = false → u.incs = s.incs) ∧
        ((fld f 12).getLsbD 14 = true → u.incs.length = s.incs.length + 1 ∧ (u.incs.getLast?.map (fun i => (i.cid, i.amount))) = some ((fld f 12).extractLsb' 0 14, 1))))) ∧
    (w.getD 0 0 = 3 → s.collFail f = none →
      s.postWaits e { addr := fld f 1 &&& 0xFFFFFFFFFFFFF, poster := s.blockPoster s.here g f } = none → Goes .remoteQueueIssue s (fun u => u.cur.remq = s.cur.remq.tail ∧ u.cur.remBusy = some s.cur.nextId ∧
        (u.engineAt e).arming.length = (s.engineAt e).arming.length + 1 ∧ (u.engineAt e).arming.take (s.engineAt e).arming.length = (s.engineAt e).arming ∧
        (∀ a ∈ (u.engineAt e).arming.drop (s.engineAt e).arming.length, a.addr = fld f 1 ∧ a.chained = false ∧ a.poster.cell = s.here ∧
          a.poster.id = s.cur.nextId ∧ a.poster.bound = fld f 14 ∧ a.poster.issued = s.cycle ∧ a.poster.tokens = pushedTokens f) ∧ u.mem = s.mem))) ∧
  (let n : Notice := ⟨s.site.n, s.site.word, s.site.word2, s.site.chunk.srcPkg⟩
   ((∀ b ∈ s.barriers, ¬ (b.level = 4 ∧ b.scope = n.bid ∧ b.gen = n.gen ∧ b.joined ≠ [])) →
     exec .systemArrivalNotice s = .next { s with notices := s.notices ++ [n] }) ∧
   (∀ b, s.barriers.find? (fun b => b.level == 4 && b.scope == n.bid && b.gen == n.gen && !b.joined.isEmpty) = some b →
     (n.crc = b.crc → (∀ m ∈ s.notices, m.bid = n.bid → m.gen = n.gen → m.crc = b.crc) → Goes .systemArrivalNotice s (fun u => u.cells = s.cells ∧ u.mem = s.mem ∧
       ∀ l, s.launch? b.launch = some l → l.status = .running → s.barriers = [b] → b.sent = b.gen → b.allIn l = true →
         (∀ p ∈ b.table, p = n.pkg ∨ s.notices.any (fun m => m.bid == n.bid && m.gen == n.gen && m.crc == n.crc && m.pkg == p) = true) →
         s.genDone b.launch 4 b.scope b.gen = false ∧ (b.gen.toNat < 2 ^ 64 - 1 → u.genDone b.launch 4 b.scope b.gen = true))) ∧
     (n.crc ≠ b.crc → b.clash ≠ b.gen → ∀ l, s.launch? b.launch = some l → (l.bound.map (fun e => e.2)).Nodup → (∀ e ∈ l.bound, (s.cellAt e.2).pend.length < 16) → Goes .systemArrivalNotice s (fun u =>
       (s.barriers = [b] → b.allIn l = false → n ∈ u.notices) ∧
       ∀ e ∈ l.bound, (s.cellAt e.2).bound.isSome = true → (s.cellAt e.2).stop = none → (s.cellAt e.2).tin = false →
         (u.cellAt e.2).stop = some (.trap ⟨0x15, true, (s.cellAt e.2).k.pc, .K, b.addr⟩ s.cycle)))))

/-! ### Events of the matrix unit -/

/-- The commands that compute a tile, each beside its operation number (R280, R387). -/
def matStarts : List (Instr × Nat) := [(.mma, 0), (.mmaz, 1), (.mmabsr, 2), (.mmaseed, 3), (.mhad, 4), (.mzero, 7), (.mload, 8)]

/-- The operations that read c from the tile (R392 to R395). -/
def takesC (op : Nat) : Bool := op == 0 || op == 2 || op == 3

/-- R119, R112 to R114, R236, R237, R392 to R396: the next command of the array starts: both paths hold its result bytes and the tile and memory keep theirs; each
element is the exact sum of c and the products, rounded once; `mzero` gives zeros and `mload` the bytes at its operand; with INT32
accumulators the sum is taken modulo 2^32 or clamped; NaN, infinities and an exact zero as the tables say. A drain starts with both
converters' bytes at the addresses that R396 gives. -/
def Obligations.MatrixStarts : Prop := ∀ s : State,
  let q := quadKey s.site.die s.site.quad
  let x := s.quadAt q
  (∀ e ∈ matStarts,
    (nextToStart x.cmds = none → exec e.1 s = .next s) ∧
    (∀ c, nextToStart x.cmds = some c →
      (c.op ≠ e.2 ∨ c.inSlot = true ∨ x.arb = true ∨ x.tileBusy c = true → exec e.1 s = .next s) ∧
      (c.op = e.2 → c.inSlot = false → x.arb = false → x.tileBusy c = false → (s.levelOf c.cell = 2 → x.declaredStart c ≤ s.cycle) →
        Goes e.1 s (fun u => (u.cellAt c.cell).rows = (s.cellAt c.cell).rows ∧ u.mem = s.mem ∧ (u.quadAt q).cmds.length = x.cmds.length ∧
          (u.quadAt q).nextStart = (if s.levelOf c.cell = 2 then x.declaredStart c else s.cycle) + intervalOf c.f c.fmt ∧
          ∃ d ∈ (u.quadAt q).cmds, d.cell = c.cell ∧ d.id = c.id ∧ d.f = c.f ∧ d.fmt = c.fmt ∧ d.tag = c.tag ∧ d.locks = c.locks ∧ d.st = 1 ∧
            (s.badWords = [] → (s.cellAt c.cell).badRows = [] → (∀ o ∈ (s.cellAt c.cell).vcmds, o.started = none) → d.bad = false ∧
              (x.mainXor = [] → x.mirrXor = [] → d.main = s.matrixBytes c ∧ d.mirror = s.matrixBytes c)))))) ∧
  (∀ c, nextToStart x.cmds = some c → c.op = 5 → c.inSlot = false → x.arb = false → x.tileBusy c = false → (s.levelOf c.cell = 2 → x.declaredStart c ≤ s.cycle) →
    (s.cellAt c.cell).badRows = [] → (∀ o ∈ (s.cellAt c.cell).vcmds, o.started = none) → Goes .mdrain s (fun u =>
      let out := (c.drainOut ((s.cellAt c.cell).regionRows c.f c.fmt)).1
      (u.cellAt c.cell).rows = (s.cellAt c.cell).rows ∧ u.mem = s.mem ∧
      ∃ d ∈ (u.quadAt q).cmds, d.cell = c.cell ∧ d.id = c.id ∧ d.st = 1 ∧ d.dests = out.map (fun y => y.1) ∧
        (x.convMainXor = [] → x.convMirrXor = [] → d.main = out.map (fun y => y.2) ∧ d.mirror = d.main))) ∧
  (∀ c ∈ x.cmds, c.op ≠ 5 → c.op ≠ 6 → ∀ i, i < tM c.f → ∀ j, j < tN c.f →
    let w := accBytes c.fmt
    let v := s.asIssued c.cell
    let piece := ((s.matrixBytes c).drop (w * (i * tN c.f + j))).take w
    let cv := if takesC c.op = true then mfVal (fmtAcc c.fmt) 0 (((s.cellAt c.cell).regionCodes c.f c.fmt i).getD j 0) else Val.num false 0 0
    let products := ((v.rowA c.cell c.f c.fmt i).zip (v.colB c.cell c.f c.fmt j)).filterMap (fun y => y.1.map (fun a => a.mul y.2))
    (c.op = 7 → piece = List.replicate w 0) ∧
    (c.op = 8 → piece = s.bytesAt (spAddr c.cell (tEaddr c.f 1 + i * tEstride c.f 5 + w * j)) w) ∧
    (c.op ≤ 4 → piece = leBytes w (accRound c.fmt (rsrDraw (c.srseed ^^^ (fmtSalt c.fmt <<< 48)) c.srbase (128 * tTile c.f + tRow0 c.f + i) (tCol0 c.f + j))
      (exactSum (fmtRnd c.fmt) (cv :: products))))) ∧
  (∀ (ps : List (Int × Int)) (e : Word) (r : Nat) (cv : Int), fmtAcc e = 12 →
    let t := cv + (ps.map (fun p => p.1 * p.2)).sum
    (accRound e r (exactSum (fmtRnd e) (ofInt cv :: ps.map (fun p => (ofInt p.1).mul (ofInt p.2)))) : Int) =
      (if fmtSat e = true then max (-2147483648) (min 2147483647 t) else t) % 4294967296) ∧
  (∀ (xs : List Val) (m : Nat),
    (.nan ∈ xs → exactSum m xs = .nan) ∧
    (.nan ∉ xs → .inf true ∈ xs → .inf false ∈ xs → exactSum m xs = .nan) ∧
    (∀ n : Bool, .nan ∉ xs → .inf n ∈ xs → .inf (!n) ∉ xs → exactSum m xs = .inf n) ∧
    (xs ≠ [] → (∀ y ∈ xs, y = .num true 0 0) → exactSum m xs = .num true 0 0) ∧
    ((∀ y ∈ xs, y = .num true 0 0 ∨ y = .num false 0 0) → (.num false 0 0) ∈ xs → exactSum m xs = .num (m == 3) 0 0))

/-- Byte i of vector row r of a cell (R96). -/
def Sys2Proof.Machine.Cell.rowByte (c : Cell) (r i : Nat) : Byte := (NatMap.get 0 c.rows r).extractLsb' (8 * i) 8

/-- The result bytes of command c, in the region of its tile (R392), and every other byte of the cell's rows as before. -/
def Committed (c : MCmd) (bs : List Byte) (s u : State) : Prop :=
  let n := tN c.f * accBytes c.fmt
  let lo := tCol0 c.f * accBytes c.fmt
  let r0 := 128 * tTile c.f + tRow0 c.f
  ∀ r, r < 512 → ∀ i, i < 512 → (u.cellAt c.cell).rowByte r i =
    if r0 ≤ r ∧ r < r0 + tM c.f ∧ lo ≤ i ∧ i < lo + n then bs.getD ((r - r0) * n + (i - lo)) 0 else (s.cellAt c.cell).rowByte r i

/-- Command c has left the array with a status in its tag, unless it sets none (R119), or bytes that its locks let go could end an arrival region. -/
def LeftArray (q : Nat) (c : MCmd) (status : BitVec 3) (s u : State) : Prop :=
  (∀ d ∈ (u.quadAt q).cmds, ¬ (d.cell = c.cell ∧ d.id = c.id)) ∧
  (c.ofWalk = none → (s.cellAt c.cell).stop ≠ some .machineCheck → c.noTag = false → (s.cellAt c.cell).regions = [] →
    (u.cellAt c.cell).tagDone c.tag.toNat = true ∧ (u.cellAt c.cell).tagStatus c.tag.toNat = status)

/-- R119, R125 to R130, R132, R396 to R399, R428: two equal signatures commit the main path's bytes in the tile, set the tag to 0 and let the command go; an
uncorrectable word completes it with status 2 and no commit; unequal ones stop the quad until the arbiter's result is committed and the accused
path has run again, at which a transient fault is counted and a persistent one takes the array out of service; a drain's last unit leaves the
commit buffer for memory; a walk sends its next command once a place is free, and ends after its last; an arbitration that is settled, not before the arbiter's
time, leaves the quad closed, and no other command is compared, for the rerun of the paths that it accuses, which takes a path's time. The signature word of a full
last unit takes an entry beyond the 512 by log entry 146 (the model's choice); the bytes of a unit are without the stored signature by entry 132. -/
def Obligations.MatrixCommits : Prop := ∀ s : State,
  let q := quadKey s.site.die s.site.quad
  let x := s.quadAt q
  (x.rerunning = true → exec .commandCompare s = .next s ∧ exec .drainUnitCompare s = .next s) ∧
  (∀ c, x.head = some c → x.oos = false → x.rerunning = false → c.st = 1 → (s.levelOf c.cell = 2 → c.due + tM c.f ≤ s.cycle) → tRow0 c.f + tM c.f ≤ 128 →
    (tCol0 c.f + tN c.f) * accBytes c.fmt ≤ 512 → (s.cellAt c.cell).badRows = [] → c.op ≠ 5 →
    (c.bad = true → Goes .commandCompare s (fun u => LeftArray q c 2 s u ∧ (u.cellAt c.cell).rows = (s.cellAt c.cell).rows)) ∧
    (c.bad = false → c.half ≠ none → x.stageBad c = none → c.clash = [] → c.main.length = tM c.f * (tN c.f * accBytes c.fmt) →
      (crc64 crcInit c.main = crc64 crcInit c.mirror → Goes .commandCompare s (fun u => LeftArray q c 0 s u ∧ Committed c c.main s u ∧
        (fCtrEn c.f = true → c.ofWalk = none → (s.cellAt c.cell).stop ≠ some .machineCheck → u.incs.take s.incs.length = s.incs ∧
          (u.incs.drop s.incs.length).any (fun i => i.cid == (fld c.f 12).truncate 14 && i.amount == 1) = true))) ∧
      (crc64 crcInit c.main ≠ crc64 crcInit c.mirror → Goes .commandCompare s (fun u => (u.quadAt q).arb = true ∧
        (∃ d ∈ (u.quadAt q).cmds, d.cell = c.cell ∧ d.id = c.id ∧ d.st = 2) ∧ (u.cellAt c.cell).rows = (s.cellAt c.cell).rows ∧ u.mem = s.mem)))) ∧
  (∀ c, x.head = some c → x.oos = false → x.rerunning = false → c.op = 5 → c.st = 1 → (s.levelOf c.cell = 2 → c.due ≤ s.cycle) →
    (c.bad = true → Goes .drainUnitCompare s (fun u => LeftArray q c 2 s u)) ∧
    (c.bad = false → c.unit < c.units → s.unitPlaced c = true →
      (crc64 crcInit ((c.unitBytes c.unit c.main).map (fun y => y.2)) ≠ crc64 crcInit ((c.unitBytes c.unit c.mirror).map (fun y => y.2)) →
        Goes .drainUnitCompare s (fun u => (u.quadAt q).arb = true ∧ u.mem = s.mem)) ∧
      (c.unit + 1 = c.units → c.ofWalk = none → c.reruns = [] → s.badWords = [] → ((s.cellAt c.cell).cbuf.map (fun y => y.1)).Pairwise (fun a b => a < b) → (∀ o ∈ x.cmds, o.locks = [] ∧ o.part = false) →
        (∀ y ∈ (s.cellAt c.cell).cbuf, y.2.kind = 1 ∧ y.2.bad = 0 ∧ y.2.sig = true ∧ y.2.cmd = c.id ∧ c.storeWords.contains y.2.word = true) →
        (∀ y ∈ c.storeWords, (s.cellAt c.cell).cbuf.any (fun h => h.2.word == y) = true) →
        (∀ y ∈ c.dests, y < 0x400000) → c.dests.Nodup → ((s.cellAt c.cell).cbuf.map (fun y => y.2.word)).Nodup → (tSigen c.f = true → tSiga c.f + 8 ≤ 0x400000 ∧ ∀ y ∈ c.dests, y + 1 ≤ tSiga c.f ∨ tSiga c.f + 8 ≤ y) →
        crc64 crcInit ((c.unitBytes c.unit c.main).map (fun y => y.2)) = crc64 crcInit ((c.unitBytes c.unit c.mirror).map (fun y => y.2)) →
        Goes .drainUnitCompare s (fun u => LeftArray q c 0 s u ∧
          (∀ y ∈ c.unitBytes c.unit c.main, u.byteAt (spAddr c.cell y.1) = y.2) ∧
          (tSigen c.f = true → u.bytesAt (spAddr c.cell (tSiga c.f)) 8 = leBytes 8 (crc64 crcInit c.main).toNat) ∧
          (u.cellAt c.cell).cbuf = [])))) ∧
  (∀ c, x.cmds.find? (fun c => c.st == 2) = some c → s.cycle < c.arbAt + s.arbCycles c + (if c.op = 5 then 0 else tM c.f) → exec .arbitrationDone s = .next s) ∧
  (∀ c, x.cmds.find? (fun c => c.st == 2) = some c → c.arbAt + s.arbCycles c ≤ s.cycle → c.op = 5 → (s.cellAt c.cell).badRows = [] →
    (∀ o ∈ (s.cellAt c.cell).vcmds, o.started = none) → Goes .arbitrationDone s (fun u => (u.quadAt q).arbcnt = x.arbcnt + 1)) ∧
  (∀ c, x.cmds.find? (fun c => c.st == 2) = some c → c.arbAt + s.arbCycles c + tM c.f ≤ s.cycle → c.op ≠ 5 → tRow0 c.f + tM c.f ≤ 128 →
    (tCol0 c.f + tN c.f) * accBytes c.fmt ≤ 512 → (s.cellAt c.cell).badRows = [] → s.badWords = [] → c.clash = [] → (∀ o ∈ (s.cellAt c.cell).vcmds, o.started = none) →
    let r := s.matrixBytes c
    let m := decide (crc64 crcInit r ≠ crc64 crcInit c.main)
    let k := decide (crc64 crcInit r ≠ crc64 crcInit c.mirror)
    Goes .arbitrationDone s (fun u => Committed c r s u ∧ (u.quadAt q).arbcnt = x.arbcnt + 1 ∧ (u.quadAt q).accused.getLsbD 0 = m ∧ (u.quadAt q).accused.getLsbD 1 = k ∧
      (u.quadAt q).arb = x.arb ∧
      (c.ofWalk = none → (s.cellAt c.cell).regions = [] → (s.cellAt c.cell).stop ≠ some .machineCheck → c.noTag = false →
        (u.cellAt c.cell).tagDone c.tag.toNat = true ∧ (u.cellAt c.cell).tagStatus c.tag.toNat = 0))) ∧
  (∀ c r rest, x.cmds.find? (fun c => c.st == 3) = some c → c.reruns = r :: rest →
    let last := x.rerunEnd c (MCmd.rerunCycles { c with unit := r.unit })
    (s.cycle < last → exec .rerunDone s = .next s) ∧
    (last ≤ s.cycle → rest ≠ [] → Goes .rerunDone s (fun u => ∃ d ∈ (u.quadAt q).cmds, d.cell = c.cell ∧ d.id = c.id ∧ d.st = 3 ∧ d.reruns = rest))) ∧
  (∀ c r, x.cmds.find? (fun c => c.st == 3) = some c → c.reruns = [r] → x.rerunEnd c (MCmd.rerunCycles { c with unit := r.unit }) ≤ s.cycle → c.op ≠ 5 →
    let sig := crc64 crcInit c.arbiter
    let main := decide (r.accused % 2 = 1)
    let mirr := decide (2 ≤ r.accused)
    let mainOk := decide (crc64 crcInit (withFaults x.mainXor c.arbiter) = sig)
    let mirrOk := decide (crc64 crcInit (withFaults x.mirrXor c.arbiter) = sig)
    Goes .rerunDone s (fun u => ((∀ d ∈ x.cmds, d.cell = c.cell ∧ d.id = c.id ∨ d.st ≠ 2 ∧ d.reruns = []) → (u.quadAt q).arb = false) ∧
      (u.quadAt q).mainTrans = (if main && mainOk then satInc x.mainTrans else x.mainTrans) ∧
      (u.quadAt q).mirrTrans = (if mirr && mirrOk then satInc x.mirrTrans else x.mirrTrans) ∧
      (u.quadAt q).mainPers = (x.mainPers || (main && !mainOk)) ∧ (u.quadAt q).mirrPers = (x.mirrPers || (mirr && !mirrOk)) ∧
      (if (main && !mainOk) || (mirr && !mirrOk) then (u.quadAt q).oos = true ∧ (u.quadAt q).held = false ∧ (u.quadAt q).acq = 0 else (u.quadAt q).oos = x.oos) ∧
      (∀ d ∈ (u.quadAt q).cmds, ¬ (d.cell = c.cell ∧ d.id = c.id)))) ∧
  (∀ h, x.cmds.find? (fun c => c.op == 6 && !c.tagged) = some h → h.inSlot = false →
    (h.walk = [] → (∀ o ∈ x.cmds, o.cell = h.cell → o.ofWalk = some h.id → o.tagged = true) → h.ofWalk = none → h.owed = [] →
      x.cmds.countP (fun o => o.same h) = 1 → Goes .mraster s (LeftArray q h (if h.bad = true then 2 else 0) s)) ∧
    (∀ e, h.walk.head? = some e → x.arb = true ∨ 16 ≤ x.inFlight → exec .mraster s = .next s) ∧
    (∀ e, h.walk.head? = some e → x.arb = false → x.inFlight < 16 → s.badWords = [] → x.cmds.countP (fun o => o.same h) = 1 → Goes .mraster s (fun u =>
      (u.quadAt q).cmds.length = x.cmds.length + 1 ∧ u.mem = s.mem ∧ (u.cellAt h.cell).rows = (s.cellAt h.cell).rows ∧
      ∃ c ∈ (u.quadAt q).cmds, c.cell = h.cell ∧ c.id = (s.cellAt h.cell).nextId ∧ c.noTag = true ∧ c.tokens = [] ∧ c.ofWalk = some h.id ∧ c.entry = e.1 ∧
        c.issued = (if s.levelOf h.cell = 2 then x.placeFrom (max h.issued h.entered) else s.cycle) ∧
        c.op = (if h.pos % 2 = 0 then 1 else 5) ∧ tTile c.f = (tTile h.f ^^^ (h.pos / 2 % 2)) ∧ tRow0 c.f = tRow0 h.f ∧ tCol0 c.f = tCol0 h.f ∧
        tM c.f = tM h.f ∧ tN c.f = tN h.f ∧
        (h.pos % 2 = 0 → tEaddr c.f 1 = (tEaddr h.f 1 + bits e.2 15 0 * tM h.f * tEstride h.f 5) % 2 ^ 22 ∧
          tEaddr c.f 2 = (tEaddr h.f 2 + bits e.2 31 16 * tN h.f * tEstride h.f 6) % 2 ^ 22) ∧
        (h.pos % 2 = 1 → tSigen c.f = tSigen h.f ∧ (tSigen h.f = true → tSiga c.f = (tSiga h.f + 8 * (h.pos / 2)) % 2 ^ 22) ∧ tDstride c.f = tDstride h.f ∧
          dType c.f c.fmt = dType h.f h.fmt ∧ fCtrEn c.f = fCtrEn h.f ∧
          (fCtrEn h.f = true → (fCid c.f).toNat = bits (fld h.f 12) 13 10 * 1024 + (bits (fld h.f 12) 9 0 + bits e.2 57 48) % 1024)))))

/-! ### Events of the vector unit and of tensor accesses -/

/-- R358: integer operations of the vector unit on lanes of w bits without saturation; sg: the type is signed. -/
def vecInt : List (VOp × (Bool → Nat → Nat → Nat → Nat → Nat)) :=
  [(.vadd, fun _ w x y _ => (x + y) % 2 ^ w), (.vsub, fun _ w x y _ => (x + 2 ^ w - y) % 2 ^ w), (.vmul, fun _ w x y _ => x * y % 2 ^ w),
   (.vmulh, fun sg w x y _ => (intVal w sg x * intVal w sg y / 2 ^ w % 2 ^ w).toNat),
   (.vand, fun _ _ x y _ => x &&& y), (.vor, fun _ _ x y _ => x ||| y), (.vxor, fun _ _ x y _ => x ^^^ y), (.vandn, fun _ _ x y _ => x - (x &&& y)),
   (.vsll, fun _ w x y _ => x * 2 ^ (y % w) % 2 ^ w), (.vsrl, fun _ w x y _ => x / 2 ^ (y % w)),
   (.vsra, fun _ w x y _ => (intVal w true x / 2 ^ (y % w) % 2 ^ w).toNat),
   (.vmin, fun _ w x y _ => if intVal w true x ≤ intVal w true y then x else y), (.vmax, fun _ w x y _ => if intVal w true x ≤ intVal w true y then y else x),
   (.vminz, fun _ _ x y _ => min x y), (.vmaxz, fun _ _ x y _ => max x y),
   (.vabs, fun _ w x _ _ => (intVal w true x).natAbs % 2 ^ w), (.vneg, fun _ w x _ _ => (2 ^ w - x) % 2 ^ w),
   (.vpopc, fun _ w x _ _ => ((List.range w).filter (fun i => x.testBit i)).length), (.vclz, fun _ w x _ _ => if x = 0 then w else w - 1 - x.log2),
   (.vsel, fun _ _ x y z => if z ≠ 0 then x else y)]

/-- R358: those that clamp the exact result to the type with sat = 1. -/
def vecClamp : List (VOp × (Int → Int → Int)) := [(.vadd, fun x y => x + y), (.vsub, fun x y => x - y), (.vmul, fun x y => x * y)]

/-- An integer clamped to a type of w bits (R358). -/
def clampTo (sg : Bool) (w : Nat) (e : Int) : Nat :=
  ((if sg = true then max (-(2 ^ (w - 1))) (min (2 ^ (w - 1) - 1) e) else max 0 (min (2 ^ w - 1) e)) % 2 ^ w).toNat

/-- 2^e as an exact number. -/
def ratTwo (e : Int) : Rat := if 0 ≤ e then ((2 ^ e.toNat : Nat) : Rat) else 1 / ((2 ^ (-e).toNat : Nat) : Rat)

/-- The exact number that a finite value stands for. -/
def ratOf : Val → Rat
  | .num n m e _ => (if n = true then -1 else 1) * (m : Rat) * ratTwo e
  | _ => 0

/-- The bits are the exact number q rounded once to a format (R140, R359). -/
def RoundsOf (f : Fmt) (mode : Nat) (sat : Bool) (r : Nat) (q : Rat) (out : Nat) : Prop :=
  ∃ (n : Bool) (m : Nat) (e : Int), ratOf (.num n m e) = q ∧ out = roundTo f mode sat r (.num n m e) % 2 ^ f.width

/-- The bits are the rounding of a number of which m places, with whether more follow, are known: m * 2^e, and less than one place above it (R140). -/
def RoundsFrom (f : Fmt) (mode : Nat) (sat : Bool) (r : Nat) (known : Rat → Rat → Bool → Prop) (neg : Bool) (out : Nat) : Prop :=
  ∃ (m : Nat) (e : Int) (st : Bool), 2 ^ 64 ≤ m ∧ known ((m : Rat) * ratTwo e) (((m + 1 : Nat) : Rat) * ratTwo e) st ∧ out = roundTo f mode sat r (.num neg m e st) % 2 ^ f.width

/-- The floating operations of R359, R360 and R381. -/
def vecFloat : List VOp := [.vfadd, .vfsub, .vfmul, .vfma, .vfms, .vfnma, .vfdiv, .vfsqrt, .vfmin, .vfmax, .vfabs, .vfneg, .vfcpsgn, .vscaleb, .vgetexp, .vgetman,
  .vfclass, .vexp2, .vlog2, .vrsqe, .vrcpe]

/-- R359, R360, R381: what a lane with the operands x, y, z receives: the exact result rounded once, and the specials. -/
def FloatLane (op : VOp) (f : Fmt) (mode : Nat) (sat : Bool) (r x y z out : Nat) : Prop :=
  let a := f.decode x
  let b := f.decode y
  let c := f.decode z
  let rd := fun q => RoundsOf f mode sat r q out
  let top := 2 ^ (f.eb + f.mb)
  let num := fun (v : Val) => v.isFinite = true
  (op = .vfadd → (num a → num b → rd (ratOf a + ratOf b)) ∧ (a.isNan = true ∨ b.isNan = true → out = f.nanBits)) ∧
  (op = .vfsub → (num a → num b → rd (ratOf a - ratOf b)) ∧ (a.isNan = true ∨ b.isNan = true → out = f.nanBits)) ∧
  (op = .vfmul → (num a → num b → rd (ratOf a * ratOf b)) ∧ (a.isNan = true ∨ b.isNan = true → out = f.nanBits)) ∧
  (op = .vfma → num a → num b → num c → rd (ratOf a * ratOf b + ratOf c)) ∧
  (op = .vfms → num a → num b → num c → rd (ratOf a * ratOf b - ratOf c)) ∧
  (op = .vfnma → num a → num b → num c → rd (ratOf c - ratOf a * ratOf b)) ∧
  (op = .vfdiv →
    (num a → num b → ratOf a ≠ 0 → ratOf b ≠ 0 →
      RoundsFrom f mode sat r (fun lo hi st => lo * (ratOf b).abs ≤ (ratOf a).abs ∧ (ratOf a).abs < hi * (ratOf b).abs ∧ (st = false ↔ lo * (ratOf b).abs = (ratOf a).abs))
        (a.isNeg != b.isNeg) out) ∧
    (num a → num b → ratOf a ≠ 0 → ratOf b = 0 → out = f.ovf sat (a.isNeg != b.isNeg)) ∧ (num a → num b → ratOf a = 0 → ratOf b = 0 → out = f.nanBits)) ∧
  (op = .vfsqrt →
    (num a → 0 < ratOf a → RoundsFrom f mode sat r (fun lo hi st => lo * lo ≤ ratOf a ∧ ratOf a < hi * hi ∧ (st = false ↔ lo * lo = ratOf a)) false out) ∧
    (num a → ratOf a < 0 → out = f.nanBits)) ∧
  (op = .vfmin → (num a → num b → ratOf a < ratOf b → out = roundTo f 1 false 0 a % 2 ^ f.width) ∧ (num a → num b → ratOf b < ratOf a → out = roundTo f 1 false 0 b % 2 ^ f.width) ∧
    (a.isNan = true ∨ b.isNan = true → out = f.nanBits)) ∧
  (op = .vfmax → (num a → num b → ratOf a < ratOf b → out = roundTo f 1 false 0 b % 2 ^ f.width) ∧ (num a → num b → ratOf b < ratOf a → out = roundTo f 1 false 0 a % 2 ^ f.width) ∧
    (a.isNan = true ∨ b.isNan = true → out = f.nanBits)) ∧
  (op = .vfabs → out = (if a.isNan = true then f.nanBits else x % top)) ∧
  (op = .vfneg → out = (if a.isNan = true then f.nanBits else x % top + (if a.isNeg = true then 0 else top))) ∧
  (op = .vfcpsgn → out = (if a.isNan = true then f.nanBits else x % top + (if top ≤ y % (2 * top) then top else 0))) ∧
  (op = .vscaleb → num a → rd (ratOf a * ratTwo (max (-1048576) (min 1048576 (intVal f.width true y))))) ∧
  (op = .vgetexp → ∀ n m e, a = .num n m e → (m = 0 → out = f.ovf sat true) ∧ (m ≠ 0 → rd (((m.log2 : Int) + e : Int) : Rat))) ∧
  (op = .vgetman → ∀ n m e, a = .num n m e → m ≠ 0 → rd (ratOf a * ratTwo (-((m.log2 : Int) + e)))) ∧
  (op = .vfclass → (a = .nan → out = 0x100) ∧ (a = .inf true → out = 0x01) ∧ (a = .inf false → out = 0x80) ∧
    (∀ n m e, a = .num n m e → out = (if m = 0 then (if n = true then 0x08 else 0x10) else if m < 2 ^ f.mb then (if n = true then 0x04 else 0x20) else (if n = true then 0x02 else 0x40)))) ∧
  (op = .vexp2 → (a.isNan = true → out = f.nanBits) ∧ (∀ k : Int, num a → ratOf a = (k : Rat) → -4096 < k → k < 4096 → rd (ratTwo k))) ∧
  (op = .vlog2 → (a.isNan = true ∨ (num a ∧ ratOf a < 0) → out = f.nanBits) ∧ (num a → ratOf a = 0 → out = f.ovf sat true) ∧
    (∀ k : Int, num a → ratOf a = ratTwo k → rd (k : Rat))) ∧
  (op = .vrsqe → (a.isNan = true ∨ (num a ∧ ratOf a < 0) → out = f.nanBits) ∧ (num a → ratOf a = 0 → out = f.ovf false a.isNeg)) ∧
  (op = .vrcpe → (a.isNan = true → out = f.nanBits) ∧ (num a → ratOf a = 0 → out = f.ovf false a.isNeg))

/-- R372: lane i of a movement's result; x and y give the lanes of the operands, b is word B, n the lane count and w the lane width. -/
def vecMove : List (VOp × (Nat → Nat → Word → (Nat → Nat) → (Nat → Nat) → Nat → Nat)) :=
  [(.vmov, fun _ _ _ x _ i => x i), (.vbcast, fun w _ b _ _ _ => b.toNat % 2 ^ w), (.vext, fun _ _ b x _ _ => x (bits b 8 0)),
   (.vrot, fun _ n b x _ i => x ((i + bits b 8 0) % n)),
   (.vslide, fun _ n b x y i => if i + bits b 9 0 < n then x (i + bits b 9 0) else y (i + bits b 9 0 - n)),
   (.vperm, fun w n _ x y i => if w = 8 then x (i / 256 * 256 + y i) else x (y i % n)),
   (.vzip, fun _ n b x y i => if i % 2 = 0 then x (bits b 0 0 * (n / 2) + i / 2) else y (bits b 0 0 * (n / 2) + (i - 1) / 2)),
   (.vunzip, fun _ n b x y i => if 2 * i + bits b 0 0 < n then x (2 * i + bits b 0 0) else y (2 * i + bits b 0 0 - n))]

/-- What command w, begun as v, writes into register reg: lanes off to off + lanes - 1 of n bits where the mask g names them, each as P says (R353). -/
def RowGets (v w : VCmd) (g : MaskBits) (reg n lanes off : Nat) (P : Nat → Nat → Prop) : Prop :=
  ∃ y ∈ w.writes, y.row = v.phys reg ∧ ∀ j, j < lanes → laneAt n y.bits (off + j) = (if g.getLsbD j = true then 2 ^ n - 1 else 0) ∧
    (g.getLsbD j = true → P j (laneAt n y.val (off + j)))

/-- R358 to R383: what a command of one row, alone in the unit, has formed of its operand rows, family by family: integers, floating lanes, exact pairs,
double words, conversion and quantisation, comparison, movement, reductions and scans of integers, compaction and random numbers. -/
def VecResult (v w : VCmd) (c : Cell) : Prop :=
  let g := v.governing c
  let t := v.ty
  let n := tyBits t
  let lanes := tyLanes t
  let sg := decide (t < 4)
  let f := tyFmt t
  let x := fun j => laneAt n (c.row (v.phys v.va)) j
  let y := fun j => laneAt n (c.row (v.phys v.vb)) j
  let z := fun j => laneAt n (c.row (v.phys v.vc)) j
  let on := (List.range lanes).filter (fun j => g.getLsbD j)
  (∀ e ∈ vecInt, v.op = e.1 → t < 8 → v.sat = false → RowGets v w g v.vd n lanes 0 (fun j r => r = e.2 sg n (x j) (y j) (z j))) ∧
  (∀ e ∈ vecClamp, v.op = e.1 → t < 8 → v.sat = true → RowGets v w g v.vd n lanes 0 (fun j r => r = clampTo sg n (e.2 (intVal n sg (x j)) (intVal n sg (y j))))) ∧
  (v.op ∈ vecFloat → 8 ≤ t → t < 12 → RowGets v w g v.vd n lanes 0 (fun j r =>
    FloatLane v.op f (if v.op = .vrsqe ∨ v.op = .vrcpe then 0 else v.rnd) v.sat (v.draw (v.phys v.vd) j) (x j) (y j) (z j) r)) ∧
  (v.op = .vaddx ∨ v.op = .vsubx ∨ v.op = .vmulx → t = 8 ∨ t = 9 → ∃ hi lo : Nat → Nat,
    RowGets v w g v.vd n lanes 0 (fun j r => r = hi j) ∧ RowGets v w g (v.vd + 1) n lanes 0 (fun j r => r = lo j) ∧
    ∀ j, j < lanes → g.getLsbD j = true → (f.decode (x j)).isFinite = true → (f.decode (y j)).isFinite = true →
      let a := ratOf (f.decode (x j))
      let b := ratOf (f.decode (y j))
      let q := if v.op = .vaddx then a + b else if v.op = .vsubx then a - b else a * b
      RoundsOf f v.rnd false (v.draw (v.phys v.vd) j) q (hi j) ∧
      ((f.decode (hi j)).isFinite = true → if q = ratOf (f.decode (hi j)) then lo j = 0 else
        RoundsOf f v.rnd false (v.draw (v.phys (v.vd + 1)) j) (q - ratOf (f.decode (hi j))) (lo j))) ∧
  (v.op = .vdwcvt → bits v.b 1 0 = 0 → t = 8 ∨ t = 9 → RowGets v w g v.vd n lanes 0 (fun j r =>
    let xl := f.decode (laneAt n (c.row (v.phys (v.va + 1))) j)
    (f.decode (x j)).isFinite = true → xl.isFinite = true → RoundsOf f 0 false 0 (ratOf (f.decode (x j)) + ratOf xl) r)) ∧
  (v.op = .vdwnorm → t = 8 ∨ t = 9 → ∃ hi lo h : Nat → Nat,
    RowGets v w g v.vd n lanes 0 (fun j r => r = hi j) ∧ RowGets v w g (v.vd + 1) n lanes 0 (fun j r => r = lo j) ∧
    ∀ j, j < lanes → g.getLsbD j = true →
      let xh := f.decode (x j)
      let xl := f.decode (laneAt n (c.row (v.phys (v.va + 1))) j)
      xh.isFinite = true → xl.isFinite = true → RoundsOf f 0 false 0 (ratOf xh + ratOf xl) (h j) ∧
      ((f.decode (h j)).isFinite = true → hi j = roundTo f 1 false 0 (f.decode (h j)) % 2 ^ f.width ∧
        ∃ l, RoundsOf f 0 false 0 (ratOf xh + ratOf xl - ratOf (f.decode (h j))) l ∧ ((f.decode l).isFinite = true → lo j = roundTo f 1 false 0 (f.decode l) % 2 ^ f.width))) ∧
  (v.op = .vcvt → t < 14 → v.srcTy < 14 → (v.cvtPart + 1) * (4096 / max (tyBits v.srcTy) n) ≤ 4096 / min (tyBits v.srcTy) n →
    let ws := tyBits v.srcTy
    let l := 4096 / max ws n
    let from' := if ws < n then v.cvtPart * l else 0
    let to' := if n < ws then v.cvtPart * l else 0
    RowGets v w g v.vd n l to' (fun j r => r = toType t v.rnd v.sat (v.draw (v.phys v.vd) (to' + j)) (tyVal v.srcTy (laneAt ws (c.row (v.phys v.va)) (from' + j))) % 2 ^ n)) ∧
  (v.op = .vquant → 12 ≤ t → v.srcTy = 9 ∨ v.srcTy = 10 →
    let l := tyLanes v.srcTy
    let grain := v.qGrain
    let vals := fun i => (List.range grain).map (fun j => (tyFmt v.srcTy).decode (laneAt (tyBits v.srcTy) (c.row (v.phys v.va)) (i * grain + j)))
    let quant := fun i => quantGrain t v.qMx v.qSplit v.rnd (fun j => v.draw (v.phys v.vd) (v.qPart * l + i * grain + j)) (vals i)
    let wb := if t = 15 then 4 else 8
    let hb := if v.qMx = true then 8 else 16
    (v.qPart + 1) * l * wb ≤ 4096 → (v.qPart + 1) * (l / grain) * hb ≤ 4096 →
    (∃ o ∈ w.writes, o.row = v.phys v.vd ∧ ∀ i, i < l / grain → ∀ j, j < grain → laneAt wb o.val (v.qPart * l + i * grain + j) = (quant i).codes.getD j 0 % 2 ^ wb) ∧
    (∃ o ∈ w.writes, o.row = v.phys v.vc ∧ ∀ i, i < l / grain → laneAt hb o.val (v.qPart * (l / grain) + i) = (quant i).head % 2 ^ hb)) ∧
  (v.op = .vdequant → t = 9 ∨ t = 10 → v.srcTy = 12 ∨ v.srcTy = 13 → v.qMx = true → RowGets v w g v.vd n lanes 0 (fun j r =>
    let head := laneAt 8 (c.row (v.phys v.vb)) (v.qPart * (lanes / v.qGrain) + j / v.qGrain)
    let e := (if v.srcTy = 12 then e4m3 else e5m2).decode (laneAt 8 (c.row (v.phys v.va)) (v.qPart * lanes + j))
    if head = 255 ∨ e.isFinite = false then r = f.nanBits else RoundsOf f v.rnd v.sat (v.draw (v.phys v.vd) j) (ratOf e * ratTwo ((head : Int) - 127)) r)) ∧
  (v.op = .vpack → t < 8 → g = BitVec.allOnes 512 → RowGets v w g v.vd n lanes 0 (fun j r =>
    let e := laneAt (2 * n) (c.row (v.phys (if j < lanes / 2 then v.va else v.vb))) (j % (lanes / 2))
    r = (if v.sat = true then clampTo sg n (intVal (2 * n) (bit v.b 0) e) else e % 2 ^ n))) ∧
  (v.op = .vunpack → t < 8 → t % 4 ≠ 0 → RowGets v w g v.vd n lanes 0 (fun j r =>
    r = (intVal (n / 2) sg (laneAt (n / 2) (c.row (v.phys v.va)) (bits v.b 0 0 * lanes + j)) % 2 ^ n).toNat)) ∧
  (v.op = .vcmp → t < 8 → ∀ j, j < lanes → w.stat.getLsbD j = (g.getLsbD j &&
    (match bits v.b 2 0 with
     | 0 => x j == y j
     | 1 => x j != y j
     | 2 => decide (intVal n sg (x j) < intVal n sg (y j))
     | 3 => decide (intVal n sg (y j) ≤ intVal n sg (x j))
     | 4 => (x j &&& y j) != 0
     | 5 => (x j &&& y j) == 0
     | 6 => decide (x j < y j)
     | _ => decide (y j ≤ x j)))) ∧
  (v.op = .vcmp → 8 ≤ t → t < 12 → ∀ j, j < lanes →
    let a := f.decode (x j)
    let b := f.decode (y j)
    (a.isNan = true ∨ b.isNan = true → w.stat.getLsbD j = (g.getLsbD j && (bits v.b 2 0 == 1 || bits v.b 2 0 == 6))) ∧
    (a.isFinite = true → b.isFinite = true → w.stat.getLsbD j = (g.getLsbD j &&
      (match bits v.b 2 0 with
       | 0 => decide (ratOf a = ratOf b)
       | 1 => decide (ratOf a ≠ ratOf b)
       | 2 => decide (ratOf a < ratOf b)
       | 3 => decide (ratOf b ≤ ratOf a)
       | 4 => decide (ratOf a ≤ ratOf b)
       | 5 => decide (ratOf b < ratOf a)
       | 6 => false
       | _ => true)))) ∧
  (∀ e ∈ vecMove, v.op = e.1 → RowGets v w g v.vd n lanes 0 (fun j r => r = e.2 n lanes v.b x y j)) ∧
  (v.op = .vredsum → t < 8 → v.sat = false → ∃ o ∈ w.writes, o.row = v.phys v.vd ∧ laneAt n o.bits 0 = 2 ^ n - 1 ∧ laneAt n o.val 0 = (on.map x).sum % 2 ^ n) ∧
  (v.op = .vredand → t < 8 → ∃ o ∈ w.writes, o.row = v.phys v.vd ∧ ∀ i, i < n → (laneAt n o.val 0).testBit i = on.all (fun j => (x j).testBit i)) ∧
  (v.op = .vredor → t < 8 → ∃ o ∈ w.writes, o.row = v.phys v.vd ∧ ∀ i, i < n → (laneAt n o.val 0).testBit i = on.any (fun j => (x j).testBit i)) ∧
  (v.op = .vredmax → 4 ≤ t → t < 8 → ∃ o ∈ w.writes, o.row = v.phys v.vd ∧ laneAt n o.val 0 = (on.map x).foldl max 0) ∧
  (v.op = .vredmin → 4 ≤ t → t < 8 → ∃ o ∈ w.writes, o.row = v.phys v.vd ∧ laneAt n o.val 0 = (on.map x).foldl min (2 ^ n - 1)) ∧
  (v.op = .vprefix → bits v.b 1 0 = 0 → t < 8 → v.sat = false → RowGets v w g v.vd n lanes 0 (fun j r =>
    r = ((on.filter (fun i => decide (i < j) || (decide (i = j) && !bit v.b 2))).map x).sum % 2 ^ n)) ∧
  (v.op = .vcompress → w.ctr = BitVec.ofNat 64 on.length ∧ ∃ o ∈ w.writes, o.row = v.phys v.vd ∧ ∀ i, i < lanes →
    laneAt n o.bits i = (if i < on.length then 2 ^ n - 1 else 0) ∧ (i < on.length → laneAt n o.val i = x (on.getD i 0))) ∧
  (v.op = .vexpand → RowGets v w g v.vd n lanes 0 (fun j r => r = x (on.filter (fun i => decide (i < j))).length)) ∧
  (v.op = .vrand → t < 8 → RowGets v w g v.vd n lanes 0 (fun j r => r = (jmix64 c.vrkey ((c.vrctr <<< 16) ||| BitVec.ofNat 64 j)).toNat % 2 ^ n)) ∧
  (v.op = .vrand → 8 ≤ t → t < 12 → RowGets v w g v.vd n lanes 0 (fun j r =>
    RoundsOf f 1 false 0 ((((jmix64 c.vrkey ((c.vrctr <<< 16) ||| BitVec.ofNat 64 j)).toNat / 2 ^ (64 - (f.mb + 1)) : Nat) : Rat) * ratTwo (-((f.mb : Int) + 1))) r))

/-- R98, R369 to R371, R383: what the start of a command does to the mask stack, and what it keeps of the masks it reads. -/
def MaskStart (v w : VCmd) (c u : Cell) : Prop :=
  let g := v.governing c
  let ma := c.maskOf (v.physMask (v.va % 16))
  let mb := c.maskOf (v.physMask (v.vb % 16))
  (v.op = .vmand → w.stat = ((ma &&& mb) &&& g).zeroExtend 4096) ∧
  (v.op = .vmor → w.stat = ((ma ||| mb) &&& g).zeroExtend 4096) ∧
  (v.op = .vmxor → w.stat = ((ma ^^^ mb) &&& g).zeroExtend 4096) ∧
  (v.op = .vmnot → w.stat = (~~~ma &&& g).zeroExtend 4096) ∧
  (v.op = .vmcnt → w.ctr = BitVec.ofNat 64 ((List.range (tyLanes v.ty)).filter (fun i => (ma &&& g).getLsbD i)).length) ∧
  (v.op = .vmpush → u.mstack = ((if v.mstk = true then ma &&& c.stackTop else ma) :: c.mstack).take 16 ∧ w.flags = (if 16 ≤ c.mstack.length then 0x10 else 0)) ∧
  (v.op = .vminv → (c.mstack = [] → u.mstack = [] ∧ w.flags = 0x20) ∧
    (∀ top rest, c.mstack = top :: rest → u.mstack = (rest.headD (BitVec.allOnes 512) &&& ~~~top) :: rest)) ∧
  (v.op = .vmpopm → u.mstack = c.mstack.drop 1 ∧ w.flags = (if c.mstack = [] then 0x20 else 0) ∧
    (v.vd.testBit 4 = true → v.physMask (v.vd % 16) ≠ 0 → u.maskOf (v.physMask (v.vd % 16)) = c.stackTop)) ∧
  (v.op ≠ .vmpush → v.op ≠ .vminv → v.op ≠ .vmpopm → u.mstack = c.mstack ∧ u.masks = c.masks) ∧
  (v.op = .vrand → u.vrctr = c.vrctr + 1 ∧ u.vrkey = c.vrkey) ∧ (v.op = .vseed → u.vrkey = v.b ∧ u.vrctr = 0) ∧
  (v.op ≠ .vrand → v.op ≠ .vseed → u.vrkey = c.vrkey ∧ u.vrctr = c.vrctr)

/-- R149, R150, R382: what a statistics command, alone in the unit, leaves: AMAX, the histogram with NANCNT, the row of the statistics, or what it clears. -/
def StatsDone (v : VCmd) (c u : Cell) : Prop :=
  let vals := v.xs.flatMap (fun r => ((List.range (tyLanes v.ty)).filter (fun j => v.mask.getLsbD j)).map (fun j => (tyFmt v.ty).decode (laneAt (tyBits v.ty) r j)))
  let size := fun (x : Val) => roundTo fp32 2 false 0 x.abs
  (v.op = .vamax → 8 ≤ v.ty → v.ty < 14 → c.amax ≤ u.amax ∧ (∀ x ∈ vals, x.isNan = false → size x ≤ u.amax.toNat) ∧
    (u.amax = c.amax ∨ ∃ x ∈ vals, x.isNan = false ∧ u.amax.toNat = size x) ∧ u.hist = c.hist ∧ u.nancnt = c.nancnt) ∧
  (v.op = .vhist → 8 ≤ v.ty → v.ty < 14 → u.amax = c.amax ∧ u.nancnt = Nat.repeat satInc (vals.filter (fun x => x.isNan)).length c.nancnt ∧
    ∀ b, b < 64 → NatMap.get 0 u.hist b = Nat.repeat satInc (vals.filter (fun x => !x.isNan && histBin x == b)).length (NatMap.get 0 c.hist b)) ∧
  (v.op = .vstatclr → u.amax = (if bit v.b 0 = true then 0 else c.amax) ∧ u.nancnt = (if bit v.b 1 = true then 0 else c.nancnt) ∧
    u.hist = (if bit v.b 2 = true then [] else c.hist) ∧ u.flags = ((c.flags &&& ~~~BitVec.ofNat 6 (bits v.b 8 3)) ||| v.flags)) ∧
  (v.op = .vstatrd → v.qd = false → c.badRows = [] → v.clash = [] →
    let row := u.row (v.phys v.vd)
    row.extractLsb' 0 32 = c.amax ∧ row.extractLsb' 64 32 = c.nancnt ∧ row.extractLsb' 128 6 = c.flags ∧
    ∀ b, b < 64 → row.extractLsb' (2048 + 32 * b) 32 = NatMap.get 0 c.hist b)

/-- n bytes at pa on the step's own die, without trouble (R132, R183, R184): what lies on another die is asked for first (R17). -/
def Sys2Proof.Machine.State.plainAt (s : State) (pa n : Nat) : Bool :=
  decide (pa < replFlag) && decide (homeDie pa = s.here / 64) && !s.badRead pa n

/-- The vector command that the event names, once all its rows have begun and, at D2, its declared cycle has come (R232, R351). -/
def Sys2Proof.Machine.State.vecDue (s : State) : Option VCmd :=
  (s.cur.vcmds.find? (fun v => v.id == s.site.n)).filter (fun v =>
    v.started.isSome && decide (v.rows ≤ v.steps) && (s.levelOf s.here != 2 || decide (v.due ≤ s.cycle)))

/-- Command v, none of whose elements failed, has left the vector unit (R351, R356). -/
def VectorDone (v : VCmd) (s u : State) : Prop :=
  (∀ o ∈ u.cur.vcmds, o.id ≠ v.id) ∧ u.cur.vdone = s.cur.vdone + 1 ∧
  (s.cur.stop ≠ some .machineCheck → s.cur.stop ≠ some .cancelled → u.cur.c.slots.map (fun x => x.item) = s.cur.c.slots.map (fun x => x.item) ++ v.tokens.map (fun k => Item.token k))

/-- R96, R102, R132, R334, R339, R351 to R383: a vector command starts when the earlier ones allow it and takes the row steps it can; the
operations of each family give their function of the operand lanes in each lane that the governing mask names: integers wrapped or clamped, floating results the
exact number rounded once, exact pairs, double words, conversion and quantisation, comparison, movement, reductions and scans, compaction, random numbers; the mask
stack acts at the start; at completion the rows it writes take its lanes and no other row changes, and the statistics act; an uncorrectable row, or a lost element,
raises a deferred trap; a gather fills lanes from memory, a scatter writes them, those on other dies by requests (R17); a `tld` pushes its row, a `tst` writes its
elements and completes once they are performed, a fill makes its entry valid. The vector command that starts has left its check slot: log entry 141 (DEDUCED). -/
def Obligations.VectorAndTensorEvents : Prop := ∀ s : State,
  let k := s.here
  let c := s.cur
  ((∀ v ∈ c.vcmds, v.started.isSome = true ∧ v.rows ≤ v.steps) → exec .vectorCommandStart s = .next s) ∧
  (∀ v, c.vcmds.head? = some v → v.started = none → v.steps = 0 → (v.op.isRed = false ∨ bit v.b 0 = false) → v.inSlot = false → (s.levelOf k = 2 → c.vfree ≤ s.cycle) →
    (v.qa || v.qb || v.qc || v.qd) = false → (∀ o ∈ c.vcmds.tail, o.id ≠ v.id) → Goes .vectorCommandStart s (fun u =>
      u.mem = s.mem ∧ u.cur.rows = c.rows ∧ u.cur.vq = c.vq ∧ u.cur.vcmds.length = c.vcmds.length ∧
      ∀ w ∈ u.cur.vcmds, w.id = v.id → w.op = v.op ∧ w.a = v.a ∧ w.b = v.b ∧ w.started = some s.cycle ∧ w.steps = v.rows ∧ w.mask = v.governing c ∧
        MaskStart v w c u.cur ∧ (c.vcmds = [v] → v.writes = [] → v.xs = [] → (s.quadAt (quadOf k)).cmds = [] → v.rows = 1 → VecResult v w c))) ∧
  (∀ v, s.vecDue = some v → ∀ ea, v.bad = some ea → Goes .vectorCommandComplete s (fun u =>
      (∀ o ∈ u.cur.vcmds, o.id ≠ v.id) ∧ u.cur.rows = c.rows ∧ u.mem = s.mem ∧
      (c.bound.isSome = true → c.stop = none → c.tin = false → u.cur.stop = some (.trap ⟨tcUncorrectable, true, v.pc, .C, ea⟩ s.cycle)))) ∧
  (∀ v, s.vecDue = some v → v.bad = none → v.late = none → v.lost = none → v.op.isMem = false → v.op.isStat = false → s.outstanding (.vector k v.id) = false →
      Goes .vectorCommandComplete s (fun u => VectorDone v s u ∧ u.mem = s.mem ∧ u.cur.flags = c.flags ||| v.flags ∧
        (c.badRows = [] → v.clash = [] → (v.writes.map (fun y => y.row)).Nodup → (∀ y ∈ v.writes, y.row < 1000) →
          (∀ y ∈ v.writes, u.cur.row y.row = (c.row y.row &&& ~~~y.bits) ||| (y.val &&& y.bits)) ∧
          (∀ r, r < 512 → (∀ y ∈ v.writes, y.row ≠ r) → u.cur.row r = c.row r)) ∧
        (v.op = .vcmp → u.cur.maskOf (v.physMask (v.vd % 16)) = (if v.physMask (v.vd % 16) = 0 then BitVec.allOnes 512 else v.stat.truncate 512)) ∧
        (v.op = .vmcnt → bits v.b 2 0 ≠ 0 → u.cur.c.pred (bits v.b 2 0) =
          (if bits v.b 4 3 = 0 then v.ctr.toNat != 0 else if bits v.b 4 3 = 1 then v.ctr.toNat == 0 else v.ctr.toNat == tyLanes v.ty)))) ∧
  (∀ v, s.vecDue = some v → v.bad = none → v.late = none → v.lost = none → v.op.isStat = true → v.acted = false → c.vcmds = [v] → s.outstanding (.vector k v.id) = false →
      Goes .vectorCommandComplete s (fun u => VectorDone v s u ∧ u.mem = s.mem ∧ StatsDone v c u.cur)) ∧
  (∀ v, s.vecDue = some v → v.bad = none → v.sent = false → s.elemsClear k v = true → v.ty < 12 → v.addrs ≠ [] →
    (∀ e ∈ v.addrs, e.2.1 < replFlag ∧ homeDie e.2.1 ≠ k / 64 ∧ s.asked (.vector k v.id) e.1 = false) → (v.addrs.map (fun e => e.1)).Nodup →
    (v.op = .vgather → Goes .vectorCommandComplete s (fun u => u.mem = s.mem ∧ u.cur.vcmds = c.vcmds ∧ u.asks.take s.asks.length = s.asks ∧
      (u.asks.drop s.asks.length).map (fun a => (a.owner, a.idx, a.pa, a.n)) = v.addrs.map (fun e => (Owner.vector k v.id, e.1, e.2.1, tyBits v.ty / 8)))) ∧
    (v.op = .vscatter → Goes .vectorCommandComplete s (fun u => u.mem = s.mem ∧ (∀ o ∈ u.cur.vcmds, o.id = v.id → o.sent = true) ∧ u.inWrites.take s.inWrites.length = s.inWrites ∧
      (u.inWrites.drop s.inWrites.length).map (fun w => (w.owner, w.pa, w.bytes)) =
        v.addrs.map (fun e => (Owner.vector k v.id, e.2.1, leBytes (tyBits v.ty / 8) (laneAt (tyBits v.ty) (v.xs.headD 0) e.1)))))) ∧
  (∀ v, s.vecDue = some v → v.bad = none → v.op = .vgather → v.sent = false → s.elemsClear k v = true → s.outstanding (.vector k v.id) = false → c.badRows = [] → v.clash = [] → v.ty < 12 → (v.addrs.map (fun e => e.1)).Nodup →
      let n := tyBits v.ty / 8
      (∀ e ∈ v.addrs, e.1 < tyLanes v.ty) → (∀ e ∈ v.addrs, s.plainAt e.2.1 n = true) → Goes .vectorCommandComplete s (fun u => VectorDone v s u ∧ u.mem = s.mem ∧
        (∀ e ∈ v.addrs, laneAt (8 * n) (u.cur.row (v.phys v.vd)) e.1 = ofLe (s.bytesAt e.2.1 n)) ∧
        (∀ j, j < tyLanes v.ty → (∀ e ∈ v.addrs, e.1 ≠ j) → laneAt (8 * n) (u.cur.row (v.phys v.vd)) j = laneAt (8 * n) (c.row (v.phys v.vd)) j) ∧
        (∀ r, r < 512 → r ≠ v.phys v.vd → u.cur.row r = c.row r))) ∧
  (∀ v, s.vecDue = some v → v.bad = none → v.op = .vscatter → v.sent = false → s.elemsClear k v = true → s.outstanding (.vector k v.id) = false → v.ty < 12 → s.badWords = [] → (v.addrs.map (fun e => e.1)).Nodup → (v.addrs.map (fun e => e.2.1)).Nodup →
      let n := tyBits v.ty / 8
      (∀ e ∈ v.addrs, s.plainAt e.2.1 n = true) → (∀ e ∈ v.addrs, s.wordHeld e.2.1 = false) → (∀ e ∈ v.addrs, e.2.1 % n = 0) →
      Goes .vectorCommandComplete s (fun u => VectorDone v s u ∧ u.cur.rows = c.rows ∧
        (∀ e ∈ v.addrs, u.bytesAt e.2.1 n = leBytes n (laneAt (8 * n) (v.xs.headD 0) e.1)) ∧
        (∀ a : Nat, (∀ e ∈ v.addrs, a < e.2.1 ∨ e.2.1 + n ≤ a) → u.byteAt a = s.byteAt a))) ∧
  (∀ x, c.tensors.find? (fun x => x.id == s.site.n) = some x → x.inSlot = false → x.load = false → x.sent = true → s.outstanding (.tensor k x.id) = false →
    (s.levelOf k = 2 → x.issued + tensorTime x ≤ s.cycle) → Goes .tensorAccessComplete s (fun u => u.mem = s.mem ∧ (∀ o ∈ u.cur.tensors, o.id ≠ x.id) ∧
      (x.late = none → x.lost = none → u.cur.stop = c.stop) ∧
      (c.bound.isSome = true → c.stop = none → c.tin = false →
        (∀ va, x.late = some va → u.cur.stop = some (.trap ⟨tcUncorrectable, true, x.pc, .S, va⟩ s.cycle)) ∧
        (∀ va, x.late = none → x.lost = some va → u.cur.stop = some (.trap ⟨tcStore, true, x.pc, .S, va⟩ s.cycle))))) ∧
  (∀ x, c.tensors.find? (fun x => x.id == s.site.n) = some x → x.inSlot = false → x.sent = false → (s.levelOf k = 2 → x.issued + tensorTime x ≤ s.cycle) →
    (x.elems.map (fun e => e.1)).Nodup → (∀ e ∈ x.elems, (e.1 + 1) * 2 ^ x.esize ≤ 512) → (∀ e ∈ x.elems, s.plainAt e.2.1 (2 ^ x.esize) = true) →
    (x.load = true → (∀ e ∈ x.elems, s.forkClear k .L e.2.1 (2 ^ x.esize) = true) → Goes .tensorAccessComplete s (fun u =>
      u.mem = s.mem ∧ (∀ o ∈ u.cur.tensors, o.id ≠ x.id) ∧ (u.cur.vqRows x.queue).length = (c.vqRows x.queue).length + 1 ∧
      (u.cur.vqRows x.queue).take (c.vqRows x.queue).length = c.vqRows x.queue ∧ ∀ r, (u.cur.vqRows x.queue).getLast? = some r →
        (∀ e ∈ x.elems, laneAt (8 * 2 ^ x.esize) r e.1 = ofLe (s.bytesAt e.2.1 (2 ^ x.esize))) ∧
        (∀ j, j < 512 / 2 ^ x.esize → (∀ e ∈ x.elems, e.1 ≠ j) → laneAt (8 * 2 ^ x.esize) r j = 0))) ∧
    (x.load = false → (∀ e ∈ x.elems, s.forkClear k .S e.2.1 (2 ^ x.esize) = true) → s.badWords = [] → (x.elems.map (fun e => e.2.1)).Nodup →
      (∀ e ∈ x.elems, s.wordHeld e.2.1 = false) → (∀ e ∈ x.elems, e.2.1 % 2 ^ x.esize = 0) → Goes .tensorAccessComplete s (fun u =>
        (∀ o ∈ u.cur.tensors, o.id = x.id → o.sent = true) ∧ (∀ e ∈ x.elems, u.bytesAt e.2.1 (2 ^ x.esize) = leBytes (2 ^ x.esize) (laneAt (8 * 2 ^ x.esize) x.row e.1)) ∧
        (∀ a : Nat, (∀ e ∈ x.elems, a < e.2.1 ∨ e.2.1 + 2 ^ x.esize ≤ a) → u.byteAt a = s.byteAt a)))) ∧
  (∀ f, c.fills.find? (fun f => f.slot == s.site.n) = some f → (s.levelOf k = 2 → f.issued + f.lat + 64 ≤ s.cycle) →
    let filled := fun (status : BitVec 3) (line : Line) (u : State) =>
      u.mem = s.mem ∧ (∀ o ∈ u.cur.fills, o.slot ≠ f.slot) ∧ (u.cur.entry f.slot).fill = false ∧ (u.cur.entry f.slot).v = (status == 0) ∧
      (u.cur.entry f.slot).status = status ∧ (u.cur.entry f.slot).line = (c.entry f.slot).line ∧ (∀ i, i ≠ f.slot → u.cur.entry i = c.entry i) ∧
      NatMap.get 0 u.cur.lines f.slot = (if status = 0 then line else NatMap.get 0 c.lines f.slot)
    (s.asks.find? (fun a => a.owner == .fill k f.slot) = none → Goes .tfillComplete s (filled f.status f.line)) ∧
    (∀ a, s.asks.find? (fun a => a.owner == .fill k f.slot) = some a →
      (a.back = false → exec .tfillComplete s = .next s) ∧
      (∀ bs, a.back = true → a.ans = some (.ok bs) → Goes .tfillComplete s (filled 0 (BitVec.ofNat 1024 (ofLe bs)))) ∧
      (a.back = true → a.ans = some .bad → Goes .tfillComplete s (filled 2 0)) ∧
      (a.back = true → a.ans = some .lost ∨ a.ans = none → Goes .tfillComplete s (filled 3 0))))

/-! ### Events of copies and of writes on their way -/

/-- The physical address of a virtual one that the step's cell has in its translation buffer, or reaches without changing it (R158 to R162); none on
a replicated page. -/
def Sys2Proof.Machine.State.plainVa (s : State) (va : Word) (write : Bool) : Option Nat :=
  match s.translate s.here va write with
  | .ok (pa, false, u) => if u = s then some pa else none
  | _ => none

/-- The copy that the event names, if its engine may still read its stream (R346). -/
def Sys2Proof.Machine.State.copyReady (s : State) : Option Copy :=
  (s.cur.copies.find? (fun x => x.id == s.site.n)).filter (fun c => !c.inSlot && !c.sent && !c.stopped && c.verdict.isNone)

/-- A piece of a stream whose bytes can be read and put on their way within the package. -/
def Sys2Proof.Machine.State.pieceOk (s : State) (c : Copy) (p : Piece) : Bool :=
  match s.plainVa p.src false, s.plainVa p.dst true with
  | some a, some b => s.plainAt a p.n && s.forkClear s.here c.seq a p.n && s.forkClear s.here c.seq b p.n
  | _, _ => false

/-- The writes that a stretch of a plain copy puts on their way: to each destination the bytes at its source. -/
def Sys2Proof.Machine.State.pieceWrites (s : State) (o : Owner) (ps : List Piece) : List InWrite :=
  ps.map (fun p => { pa := (s.plainVa p.dst true).getD 0, bytes := s.bytesAt ((s.plainVa p.src false).getD 0) p.n, owner := o })

/-- The writes on their way, the reducing writes and the increments, without the numbers under which requests carry them and the cycles declared for them. -/
def Sys2Proof.Machine.State.writes (s : State) : List InWrite := s.inWrites.map (fun w => { w with net := 0 })
def Sys2Proof.Machine.State.reduces (s : State) : List RedWrite := s.redWrites.map (fun w => { w with id := 0, net := 0 })
def Sys2Proof.Machine.State.counts (s : State) : List Inc := s.incs.map (fun i => { i with net := 0, decl := none })

/-- The bytes of writes, each with its address, in order. -/
def bytesOf (l : List InWrite) : List (Nat × Byte) := l.flatMap (fun w => w.bytes.zipIdx.map (fun b => (w.pa + b.2, b.1)))

/-- The bytes of the writes l are on their way for their owner, in that order, after those that were: in writes that each lie in one 64-byte word (R168,
R198). -/
def Sent (o : Owner) (l : List InWrite) (s u : State) : Prop :=
  u.writes.take s.writes.length = s.writes ∧ bytesOf (u.writes.drop s.writes.length) = bytesOf l ∧
  ∀ w ∈ u.writes.drop s.writes.length, w.owner = o ∧ w.bytes ≠ [] ∧ w.pa % 64 + w.bytes.length ≤ 64

/-- R200: the combination of two elements by the integer operations of a reducing write. -/
def redInt (red old x : Nat) : Nat :=
  if red = 0 then (old + x) % 2 ^ 32
  else if red = 1 then (old + x) % 2 ^ 64
  else if red = 5 then (if (BitVec.ofNat 32 old).toInt < (BitVec.ofNat 32 x).toInt then x else old)
  else if (BitVec.ofNat 64 old).toInt < (BitVec.ofNat 64 x).toInt then x else old

/-- R131, R198 to R201, R243, R247, R335, R342, R346: a copy puts its bytes on their way, each destination with the bytes of its source; with all of them performed it
writes its checksum where one is asked for and then its tag, with the status; what lies on another die is asked for first; stopped by a trap it moves up to its next
1 MiB boundary; `cpysig` sends all its bytes to be staged and writes them where their crc64 is f9 and none, status 4, where it is not. A write that arrives at an unlocked word is performed and changes no other byte; at a
locked one it is held; a reducing write combines element by element, a sequenced one only in its turn. -/
def Obligations.CopiesAndArrivingWrites : Prop := ∀ s : State,
  let k := s.here
  let c := s.cur
  let o := Owner.copy k s.site.n
  (∀ x, s.copyReady = some x → cOp x.f = 0 → cSshape x.f = false → cDshape x.f = false → s.badWords = [] → (∀ a ∈ s.asks, a.owner ≠ o) →
    let ps := piecesOf x.srcSide x.dstSide (x.total - x.done + 1) x.done x.total
    (x.done < x.total → x.cancelled = false → ((c.stop = none ∧ (c.tin = false ∨ x.handler = true)) ∨ x.total ≤ x.done + 0x100000) →
      ∀ p, ps.head? = some p → ∀ a, s.plainVa p.src false = some a → a < replFlag → homeDie a ≠ k / 64 → s.forkClear k x.seq a p.n = true → Goes .copyComplete s (fun u =>
        u.mem = s.mem ∧ u.cur.copies = c.copies ∧ (u.asks[s.asks.length]?).map (fun q => (q.owner, q.idx, q.pa, q.n)) = some (o, p.pos, a, p.n))) ∧
    (x.done < x.total → x.cancelled = false → ((c.stop = none ∧ (c.tin = false ∨ x.handler = true)) ∨ x.total ≤ x.done + 0x100000) → (∀ p ∈ ps, s.pieceOk x p = true) → Goes .copyComplete s (fun u =>
      u.mem = s.mem ∧ Sent o (s.pieceWrites o ps) s u ∧
      (∀ y ∈ u.cur.copies, y.id = x.id → y.sent = true ∧ y.verdict = none ∧ y.crc = crc64 x.crc ((s.pieceWrites o ps).flatMap (fun w => w.bytes)))))) ∧
  (∀ x, s.copyReady = some x → cOp x.f = 0 → cSshape x.f = false → cDshape x.f = false → s.badWords = [] → x.done + 0x100000 < x.total → (∀ a ∈ s.asks, a.owner ≠ o) →
    x.cancelled = false → (c.stop = some .preempt ∨ (∃ r n, c.stop = some (.trap r n)) ∨ (c.stop = none ∧ c.tin = true ∧ x.handler = false)) → x.done + 0x100000 < x.total →
    let ps := piecesOf x.srcSide x.dstSide 0x100001 x.done (x.done + 0x100000)
    (∀ p ∈ ps, s.pieceOk x p = true) → exec .copyComplete s = .next s ∧ Goes .copyBoundaryStop s (fun u =>
      u.mem = s.mem ∧ Sent o (s.pieceWrites o ps) s u ∧
      (∀ y ∈ u.cur.copies, y.id = x.id → y.sent = false ∧ y.stopped = true ∧ y.done = x.done + 0x100000))) ∧
  (∀ x, s.copyReady = some x → cOp x.f = 5 → s.badWords = [] → 0 < x.total → x.cancelled = false →
    let ps := piecesOf x.srcSide x.dstSide (x.total + 1) 0 x.total
    cSshape x.f = false → cDshape x.f = false → (∀ p ∈ ps, s.pieceOk x p = true) →
    exec .copyComplete s = .next s ∧
    (x.staged = false → (∀ a ∈ s.asks, a.owner ≠ o) → (∀ w ∈ s.inWrites, w.owner ≠ o) → Goes .cpysigDestinationCheck s (fun u =>
      u.mem = s.mem ∧ Sent o ((s.pieceWrites o ps).map (fun w => { w with stage := true })) s u ∧ (∀ w ∈ u.writes.drop s.writes.length, w.stage = true) ∧
      (∀ y ∈ u.cur.copies, y.id = x.id → y.sent = false ∧ y.staged = true ∧ y.crc = crc64 crcInit ((s.pieceWrites o ps).flatMap (fun w => w.bytes))))) ∧
    (x.staged = true → s.pairs.any (fun p => p.2.unacked.any (fun r => r.owner == o) || p.2.backlog.any (fun r => r.owner == o)) = false →
      (x.crc = fld x.f 9 → Goes .cpysigDestinationCheck s (fun u => u.mem = s.mem ∧
        u.inWrites = s.inWrites.map (fun w => if w.owner = o then { w with stage := false } else w) ∧ (∀ y ∈ u.cur.copies, y.id = x.id → y.sent = true ∧ y.verdict = none))) ∧
      (x.crc ≠ fld x.f 9 → Goes .cpysigDestinationCheck s (fun u => u.mem = s.mem ∧
        u.inWrites = s.inWrites.filter (fun w => w.owner != o) ∧ (∀ y ∈ u.cur.copies, y.id = x.id → y.sent = true ∧ y.verdict = some 4))))) ∧
  (∀ x, c.copies.find? (fun x => x.id == s.site.n) = some x → x.inSlot = false → x.sent = true → s.outstanding o = false →
    s.transfers.any (fun t => t.owner == o) = false →
    (cReq x.f = true → x.summed = false → x.verdict = none → ∀ pa, s.plainVa (cCsaddr x.f) true = some pa → s.forkClear k x.seq pa 8 = true →
      Goes .copyComplete s (fun u => u.mem = s.mem ∧ Sent o [{ pa := pa, bytes := leBytes 8 x.crc.toNat, owner := o }] s u)) ∧
    ((cReq x.f = false ∨ x.summed = true ∨ x.verdict.isSome = true) → (s.levelOf k = 2 → x.due ≤ s.cycle) → Goes .copyComplete s (fun u =>
      u.mem = s.mem ∧ (∀ y ∈ u.cur.copies, y.id ≠ x.id) ∧ (c.remBusy = some x.id → u.cur.remBusy = none) ∧
      (c.stop ≠ some .machineCheck →
        (fNoTag x.f = false → u.cur.tagDone x.tag.toNat = true ∧ u.cur.tagStatus x.tag.toNat = x.verdict.getD 0) ∧
        (u.cur.seq x.seq).slots.map (fun y => y.item) =
          (c.seq x.seq).slots.map (fun y => y.item) ++ (if c.stop = some .cancelled then [] else x.tokens.map (fun t => Item.token t)) ∧
        (fCtrEn x.f = true → u.incs.length = s.incs.length + 1))))) ∧
  (∀ w, s.inWrites[s.site.n]? = some w → w.net ≠ 0 ∨ w.stage = true → exec .oneSidedWrite s = .next s) ∧
  (∀ w, s.inWrites[s.site.n]? = some w → w.net = 0 → w.stage = false → s.elementAhead w = false → w.pa < replFlag → s.badWords = [] → w.bytes ≠ [] →
    (s.wordHeld w.pa = false → Goes .oneSidedWrite s (fun u => u.inWrites = s.inWrites.eraseIdx s.site.n ∧ u.bytesAt w.pa w.bytes.length = w.bytes ∧
      (∀ a, a < w.pa ∨ w.pa + w.bytes.length ≤ a → u.byteAt a = s.byteAt a))) ∧
    (s.wordHeld w.pa = true → (s.cellAt (spCell w.pa)).freeEntry.isSome = true → Goes .oneSidedWrite s (fun u =>
      u.inWrites = s.inWrites.eraseIdx s.site.n ∧ u.mem = s.mem ∧ (u.cellAt (spCell w.pa)).cbuf.length = (s.cellAt (spCell w.pa)).cbuf.length + 1)) ∧
    (s.wordHeld w.pa = true → (s.cellAt (spCell w.pa)).freeEntry = none → exec .oneSidedWrite s = .next s)) ∧
  (∀ w, s.redWrites[s.site.n]? = some w → w.net = 0 → s.badWords = [] →
    (w.span ≠ 0 → (w.span ≤ w.sq ∨ (inSp w.pa = true ∧ 255 < w.sreg)) → Goes .reducingWriteArrival s (fun u =>
      u.mem = s.mem ∧ u.redWrites = s.redWrites.eraseIdx s.site.n)) ∧
    (∀ p, w.parts.head? = some p → w.parts.length = 1 → p.1 < replFlag → [0, 1, 5, 6].contains w.red = true →
      let n := if w.red = 0 ∨ w.red = 5 then 4 else 8
      p.2.length = n → p.1 % n = 0 → s.wordHeld p.1 = false →
      (w.span = 0 ∨ (w.sq < w.span ∧ w.sq = s.seqNextOf w.pa w.sreg ∧ (inSp w.pa = true → w.sreg ≤ 255) ∧ (∀ h ∈ s.redHeld, sameRegion h w = false)) →
        Goes .reducingWriteArrival s (fun u =>
          u.redWrites = s.redWrites.eraseIdx s.site.n ∧ u.bytesAt p.1 n = leBytes n (redInt w.red (ofLe (s.bytesAt p.1 n)) (ofLe p.2)) ∧
          (∀ a, a < p.1 ∨ p.1 + n ≤ a → u.byteAt a = s.byteAt a) ∧
          (w.span ≠ 0 → w.span < 2 ^ 32 → (inSp w.pa = false → w.sreg < 4096) → u.seqNextOf w.pa w.sreg = (w.sq + 1) % w.span))) ∧
      (w.span ≠ 0 → w.sq < w.span → w.sq ≠ s.seqNextOf w.pa w.sreg → (inSp w.pa = true → w.sreg ≤ 255 ∧ (s.cellAt (spCell w.pa)).freeEntry.isSome = true) →
        (inSp w.pa = false → s.redHeld = []) → Goes .reducingWriteArrival s (fun u =>
          u.redWrites = s.redWrites.eraseIdx s.site.n ∧ u.mem = s.mem ∧ u.redHeld = s.redHeld ++ [{ w with since := w.since.or (some s.cycle) }] ∧ u.seqNextOf w.pa w.sreg = s.seqNextOf w.pa w.sreg))))

/-! ### Events of collectives and of irregular exchanges -/

/-- The physical address of a virtual one for an agent, where its translation leaves no more than a count of walks (R158 to R162, R166); none on a replicated page. -/
def Sys2Proof.Machine.State.agentVa (s : State) (k : Nat) (va : Word) (write : Bool) : Option Nat :=
  match s.translate k va write with
  | .ok (pa, false, u) => if u = { s with walks := u.walks, walkNow := u.walkNow } then some pa else none
  | _ => none

/-- The bytes that the answer to a read of an owner has brought, where they are good (R17, R132). -/
def Sys2Proof.Machine.State.gotFor (s : State) (o : Owner) (idx : Nat) : Option (List Byte) :=
  (s.asks.find? (fun a => a.owner == o && a.idx == idx)).bind (fun a => if a.back = true then (match a.ans with | some (.ok bs) => some bs | _ => none) else none)

/-- The eight words of an entry in its 64 bytes. -/
def wordsIn (bs : List Byte) : List Word := (List.range 8).map (fun i => BitVec.ofNat 64 (ofLe ((bs.drop (8 * i)).take 8)))

/-- The chains of an engine once the first has given way to what follows it (R190). -/
def chainsAfter (more rest : List Arming) (now : Nat) : List Arming :=
  match more ++ rest with
  | [] => []
  | a :: l => { a with since := max a.since now } :: l

/-- Bits hi to lo of word i of an entry. -/
def entryField (w : List Word) (i hi lo : Nat) : Nat := (w.getD i 0).toNat / 2 ^ lo % 2 ^ (hi + 1 - lo)

/-- R188, R189: the entries that no engine arms, by their words and the level of their launch; the element sizes are those of R200. -/
def malformedEntry (level : Nat) (w : List Word) : Prop :=
  let f := entryField w
  let size := [4, 8, 4, 8, 2].getD (f 0 7 4 % 5) 1
  f 0 1 0 = 3 ∨ (f 0 1 0 ≠ 1 ∧ f 0 7 4 ≠ 0) ∨ (f 0 1 0 = 1 ∧ 9 < f 0 7 4) ∨
  f 0 3 2 ≠ 0 ∨ f 0 63 56 ≠ 0 ∨ f 1 63 52 ≠ 0 ∨ f 2 63 52 ≠ 0 ∨ f 5 15 15 ≠ 0 ∨ f 6 55 16 ≠ 0 ∨ f 6 63 60 ≠ 0 ∨ f 7 63 52 ≠ 0 ∨ f 7 5 0 ≠ 0 ∨
  (f 0 1 0 = 1 ∧ (f 3 39 0 % size ≠ 0 ∨ f 1 51 0 % size ≠ 0 ∨ f 2 51 0 % size ≠ 0 ∨
    (f 4 63 32 ≠ 0 ∧ (f 4 63 32 ≤ f 4 31 0 ∨ 0x100000 < f 3 39 0 ∨ (0xFFFFFFFC00000 ≤ f 2 51 0 ∧ 255 < f 0 39 28))) ∨
    (level ≠ 0 ∧ [2, 3, 4, 7, 8, 9].contains (f 0 7 4) = true ∧ f 4 63 32 = 0)))

/-- The agent that translates an address of a posting group's entry: the cell it is bound to for the local window, the engine's rim die otherwise (R187). -/
def Sys2Proof.Machine.State.entryAgentOf (s : State) (p : Poster) (eng : Nat) (va : Word) : Option Nat :=
  if va.toNat < 0xFFFFFFFC00000 ∨ 2 ^ 52 ≤ va.toNat then some (64 * (16 + eng / 4)) else s.posterCell p

/-- The fired entry that the event names, if its engine may execute it now: among the first 16, those before it begun (R190). -/
def Sys2Proof.Machine.State.entryReady (s : State) : Option Entry :=
  let g := s.engineAt s.site.eng
  let before := g.fired.takeWhile (fun x => x.id != s.site.n)
  (g.fired.find? (fun e => e.id == s.site.n)).filter (fun e => !e.sent && e.done.isNone && e.eng == s.site.eng && s.dieUp (16 + e.eng / 4) &&
    decide (before.length < 16) && before.all (fun x => x.sent || x.done.isSome))

/-- Whether an entry's destination is another package (R188). -/
def Sys2Proof.Machine.State.goesAway (s : State) (e : Entry) : Prop := entryField e.w 0 8 8 = 1 ∧ entryField e.w 0 27 9 ≠ s.pkgId.toNat

/-- A piece of an entry's data has come from its home, and on this package its destination can be written now. -/
def Sys2Proof.Machine.State.entryPieceOk (s : State) (e : Entry) (away : Bool) (p : Piece) : Bool :=
  (s.gotFor (.entry e.eng e.id) p.pos).isSome && (away ||
    (match s.entryAgentOf e.poster e.eng p.dst with
     | none => false
     | some j => (s.agentVa j p.dst true).any (fun b => s.forkClear j e.poster.seq b p.n)))

/-- The runs of bytes that an entry's pieces put on their way: to each destination the bytes of its source. -/
def Sys2Proof.Machine.State.entryRuns (s : State) (e : Entry) (ps : List Piece) : List (Nat × List Byte) :=
  ps.map (fun p => (((s.entryAgentOf e.poster e.eng p.dst).bind (fun j => s.agentVa j p.dst true)).getD 0, (s.gotFor (.entry e.eng e.id) p.pos).getD []))

/-- R187 to R196, R203 to R206: an engine reads the first entry of its first chain at its home, writes its DONE 0 and arms it: it fires at once or waits for its
counter, and the chain goes on with NEXT; a malformed entry stops the chain with COLL_FAULT. A fired WRITE or WRITE_REDUCE asks for its bytes and puts them on
their way, a SIGNAL none; to another package they leave as chunks, the last with the increment. Complete, an entry has STATUS and DONE written and, once they are
performed, increments its counter. An increment changes VALUE and ORDSIG and fires the entries that it satisfies, in order of
arming. A chunk is taken once; one without acknowledgement for 50 µs takes the next port, and after 8 sends its entry ends with status 3. A loss ends every
entry of the collective with status 5 and sets LOST on their counters. -/
def Obligations.Collectives : Prop := ∀ s : State,
  let eng := s.site.eng
  let die := 16 + eng / 4
  let g := s.engineAt eng
  (∀ a, g.arming.head? = some a → a.net ≠ 0 ∨ s.dieUp die = false → exec .entryArm s = .next s) ∧
  (∀ a, g.arming.head? = some a → a.net = 0 → s.dieUp die = true → a.addr.toNat < 2 ^ 52 → ∀ k, s.entryAgentOf a.poster eng a.addr = some k →
    (a.entry = none → s.asked (.chain eng) 0 = false → ∀ pa, s.agentVa k a.addr false = some pa → pa < replFlag → homeDie pa ≠ die → s.forkClear k a.poster.seq pa 64 = true →
      Goes .entryArm s (fun u => u.mem = s.mem ∧ u.engines = s.engines ∧
        (u.asks[s.asks.length]?).map (fun q => (q.owner, q.idx, q.pa, q.n)) = some (.chain eng, 0, pa, 64))) ∧
    (a.entry = none → s.badWords = [] → ∀ bs, s.gotFor (.chain eng) 0 = some bs →
      let w := wordsIn bs
      (malformedEntry a.poster.level w → ∀ j, s.posterCell a.poster = some j → Goes .entryArm s (fun u =>
        u.mem = s.mem ∧ (u.engineAt eng).arming = chainsAfter [] (g.arming.drop 1) s.cycle ∧ (u.engineAt eng).armed = g.armed ∧ (u.engineAt eng).fired = g.fired ∧
        (∀ t, a.poster.tag = some t → a.poster.noTag = false → (s.cellAt j).stop ≠ some .machineCheck →
          (u.cellAt j).tagDone t.toNat = true ∧ (u.cellAt j).tagStatus t.toNat = 1) ∧
        ((s.cellAt j).bound.isSome = true → (s.cellAt j).stop = none → (s.cellAt j).tin = false →
          (u.cellAt j).stop = some (.trap ⟨tcColl, true, a.poster.pc, a.poster.seq, a.addr⟩ s.cycle)))) ∧
      (¬ malformedEntry a.poster.level w → (a.chained = true → s.stillArmed a = false) → ∀ qa, s.agentVa k (a.addr + 55) true = some qa → qa < replFlag → Goes .entryArm s (fun u =>
        u.mem = s.mem ∧ Sent (.chain eng) [{ pa := qa, bytes := [BitVec.ofNat 8 (entryField w 6 58 56)], owner := .chain eng }] s u ∧
        (u.engineAt eng).arming = { a with entry := some (w.set 6 (w.getD 6 0 &&& ~~~(BitVec.ofNat 64 (2 ^ 59)))) } :: g.arming.drop 1 ∧
        (u.engineAt eng).armed = g.armed ∧ (u.engineAt eng).fired = g.fired))) ∧
    (∀ w, a.entry = some w →
      let f := entryField w
      let wc := f 5 13 0
      let c := s.counterAt wc
      let e : Entry := { addr := a.addr, w := w, poster := a.poster, eng := eng, due := s.cycle }
      (s.outstanding (.chain eng) = true → exec .entryArm s = .next s) ∧
      (s.outstanding (.chain eng) = false →
        (f 5 14 14 = 1 → s.cidUp wc = true → c.lost = false → c.value.toNat < f 5 63 16 → (s.engineAt (wc / 1024)).armed.length < 4096) →
        (a.poster.level = 2 → s.armDue k a w ≤ s.cycle) → Goes .entryArm s (fun u => u.mem = s.mem ∧
        (u.engineAt eng).arming = chainsAfter (if w.getD 7 0 = 0 then [] else [{ a with addr := w.getD 7 0, chained := true, entry := none }]) (g.arming.drop 1) s.cycle ∧
        (w.getD 7 0 = 0 → ∀ t j, a.poster.tag = some t → s.posterCell a.poster = some j → a.poster.noTag = false → (s.cellAt j).stop ≠ some .machineCheck →
          (u.cellAt j).tagDone t.toNat = true ∧ (u.cellAt j).tagStatus t.toNat = 0) ∧
        (a.lost.contains (f 3 63 40) = true → (u.engineAt eng).fired = g.fired ++ [{ e with id := g.nextId, done := some 5, sent := true }]) ∧
        (a.lost.contains (f 3 63 40) = false → f 5 14 14 = 1 → s.cidUp wc = true → c.lost = false → c.value.toNat < f 5 63 16 →
          (u.engineAt (wc / 1024)).armed = (s.engineAt (wc / 1024)).armed ++ [e] ∧ (u.engineAt eng).fired = g.fired) ∧
        (a.lost.contains (f 3 63 40) = false → f 5 14 14 = 0 ∨ (s.cidUp wc = true ∧ c.lost = false ∧ f 5 63 16 ≤ c.value.toNat) → (f 6 14 14 = 1 → s.cidUp (f 6 13 0) = true) →
          (u.engineAt eng).fired = g.fired ++ [{ e with id := g.nextId }] ∧ (u.engineAt eng).armed = g.armed) ∧
        (a.lost.contains (f 3 63 40) = false → f 5 14 14 = 1 → s.cidUp wc = true → c.lost = true →
          (u.engineAt eng).fired = g.fired ++ [{ e with id := g.nextId, done := some 5, sent := true }]) ∧
        (a.lost.contains (f 3 63 40) = false → f 5 14 14 = 1 → s.cidUp wc = false →
          (u.engineAt eng).fired = g.fired ++ [{ e with id := g.nextId, done := some 3, sent := true }]))))) ∧
  (∀ e, s.entryReady = some e → s.badWords = [] →
    let f := entryField e.w
    let o := Owner.entry eng e.id
    let ps := piecesOf (.run (e.w.getD 1 0)) (.run (e.w.getD 2 0)) (f 3 39 0 + 1) 0 (f 3 39 0)
    let isLocal := 0xFFFFFFFC00000 < (e.w.getD 1 0).toNat + f 3 39 0 ∨ (0xFFFFFFFC00000 < (e.w.getD 2 0).toNat + f 3 39 0 ∧ ¬ s.goesAway e)
    let placed := isLocal → (s.launch? e.poster.launch).isSome = true ∧ (s.posterCell e.poster).isSome = true
    let incAway := f 6 14 14 = 1 ∧ f 6 15 15 = 1 ∧ s.goesAway e
    let inc : Inc := { cid := BitVec.ofNat 14 (f 6 13 0), amount := BitVec.ofNat 64 (max 1 (f 0 55 40)), fold := BitVec.ofNat 64 (2 ^ 60 + s.pkgId.toNat * 2 ^ 41 + die % 32 * 2 ^ 36 + f 0 39 28 * 2 ^ 24 + f 4 31 0 % 2 ^ 24) }
    (f 3 39 0 = 0 → ¬ incAway → (f 0 1 0 = 0 → Goes .entryWrite s (fun u => u.mem = s.mem ∧ u.inWrites = s.inWrites ∧ ∀ x ∈ (u.engineAt eng).fired, x.id = e.id → x.sent = true)) ∧
      (f 0 1 0 = 1 → Goes .entryWriteReduce s (fun u => u.mem = s.mem ∧ u.redWrites = s.redWrites ∧ ∀ x ∈ (u.engineAt eng).fired, x.id = e.id → x.sent = true))) ∧
    (f 0 1 0 = 2 → ¬ incAway → Goes .entrySignal s (fun u => u.mem = s.mem ∧ u.inWrites = s.inWrites ∧ u.transfers = s.transfers ∧
      ∀ x ∈ (u.engineAt eng).fired, x.id = e.id → x.sent = true ∧ x.due = e.due + 16)) ∧
    (f 0 1 0 = 2 → incAway → e.carried = false → (∀ t ∈ s.transfers, t.owner ≠ o) → ∀ port, s.portFor (f 0 27 9) = some port → Goes .entrySignal s (fun u => u.mem = s.mem ∧ u.inWrites = s.inWrites ∧
      u.transfers = s.transfers ++ [{ pkg := BitVec.ofNat 19 (f 0 27 9), num := NatMap.get 0 s.chunkOut (f 0 27 9), port := port, va := 0, bytes := [], kind := .write, sends := 1, sent := s.cycle, owner := o, inc := some inc }] ∧ ∀ x ∈ (u.engineAt eng).fired, x.id = e.id → x.sent = true ∧ x.carried = true)) ∧
    (f 3 39 0 ≠ 0 → ¬ s.goesAway e → placed → ∀ p, ps.head? = some p → s.asked o p.pos = false → ∀ k a, s.entryAgentOf e.poster eng p.src = some k →
      s.agentVa k p.src false = some a → a < replFlag → homeDie a ≠ die → s.forkClear k e.poster.seq a p.n = true → f 0 1 0 = 0 → Goes .entryWrite s (fun u =>
        u.mem = s.mem ∧ u.engines = s.engines ∧ (u.asks[s.asks.length]?).map (fun q => (q.owner, q.idx, q.pa, q.n)) = some (o, p.pos, a, p.n))) ∧
    (f 3 39 0 ≠ 0 → ¬ s.goesAway e → placed → (∀ p ∈ ps, s.entryPieceOk e false p = true) →
      (f 0 1 0 = 0 → Goes .entryWrite s (fun u => u.mem = s.mem ∧ Sent o ((s.entryRuns e ps).map (fun x => { pa := x.1, bytes := x.2, owner := o })) s u ∧
        ∀ x ∈ (u.engineAt eng).fired, x.id = e.id → x.sent = true ∧ x.done = none)) ∧
      (f 0 1 0 = 1 → Goes .entryWriteReduce s (fun u => u.mem = s.mem ∧
        u.reduces.map (fun w => { w with win := none }) = s.reduces.map (fun w => { w with win := none }) ++
          [{ id := 0, parts := joinRuns (s.entryRuns e ps), red := f 0 7 4, sreg := f 0 39 28, sq := f 4 31 0, span := f 4 63 32, owner := o }] ∧
        ∀ x ∈ (u.engineAt eng).fired, x.id = e.id → x.sent = true ∧ x.done = none))) ∧
    (f 3 39 0 ≠ 0 → s.goesAway e → f 0 1 0 = 0 → placed → (∀ t ∈ s.transfers, t.owner ≠ o) →
      (0xFFFFFFFC00000 ≤ (e.w.getD 2 0).toNat → (e.w.getD 2 0).toNat < 2 ^ 52 → ¬ incAway → Goes .entryWrite s (fun u => u.mem = s.mem ∧ u.transfers = s.transfers ∧
        ∀ x ∈ (u.engineAt eng).fired, x.id = e.id → x.sent = true ∧ x.done = some 1)) ∧
      ((e.w.getD 2 0).toNat < 0xFFFFFFFC00000 → (∀ p ∈ ps, s.entryPieceOk e true p = true) → (∀ p ∈ ps, ∀ bs, s.gotFor o p.pos = some bs → bs.length = p.n) →
        (∀ port, s.portFor (f 0 27 9) = some port → Goes .entryWrite s (fun u => u.mem = s.mem ∧ u.inWrites = s.inWrites ∧
          (u.transfers.take s.transfers.length) = s.transfers ∧ s.transfers.length < u.transfers.length ∧
          (∀ t ∈ u.transfers.drop s.transfers.length, t.pkg = BitVec.ofNat 19 (f 0 27 9) ∧ t.port = port ∧ t.sends = 1 ∧ t.sent = s.cycle ∧ t.owner = o) ∧
          (u.transfers.getLast?.bind (fun t => t.inc)) = (if f 6 14 14 = 1 ∧ f 6 15 15 = 1 then some inc else none) ∧
          (u.transfers.drop s.transfers.length).flatMap (fun t => t.bytes) = ps.flatMap (fun p => (s.gotFor o p.pos).getD []))) ∧
        (s.portFor (f 0 27 9) = none → Goes .entryWrite s (fun u => u.mem = s.mem ∧ (∀ t ∈ u.transfers, t ∈ s.transfers) ∧
          ∀ x ∈ (u.engineAt eng).fired, x.id = e.id → x.sent = true ∧ x.done = some 3))))) ∧
  (∀ e, g.fired.find? (fun e => e.id == s.site.n) = some e → e.eng = eng →
    let f := entryField e.w
    let incAway := f 6 14 14 = 1 ∧ f 6 15 15 = 1 ∧ s.goesAway e
    let st : BitVec 3 := e.done.getD 0
    let inc : Inc := { cid := BitVec.ofNat 14 (f 6 13 0), amount := BitVec.ofNat 64 (max 1 (f 0 55 40)), fold := BitVec.ofNat 64 (2 ^ 60 + s.pkgId.toNat * 2 ^ 41 + die % 32 * 2 ^ 36 + f 0 39 28 * 2 ^ 24 + f 4 31 0 % 2 ^ 24) }
    (e.told = false → e.sent = true → s.outstanding (.entry eng e.id) = false → s.transfers.any (fun t => t.owner == .entry eng e.id) = false →
      (incAway → e.carried = true) → (e.poster.level = 2 → e.due ≤ s.cycle) → ∀ k, s.entryAgentOf e.poster eng e.addr = some k → e.addr.toNat < 2 ^ 52 →
      ∀ qa, s.agentVa k (e.addr + 55) true = some qa → qa < replFlag → Goes .entryComplete s (fun u =>
        u.mem = s.mem ∧ u.incs = s.incs ∧ Sent (.status eng e.id) [{ pa := qa, bytes := [BitVec.ofNat 8 (8 + st.toNat)], owner := .status eng e.id }] s u ∧
        ∀ x ∈ (u.engineAt eng).fired, x.id = e.id → x.told = true ∧ x.done = some st)) ∧
    (e.told = true → s.outstanding (.status eng e.id) = true → exec .entryComplete s = .next s) ∧
    (e.told = true → s.outstanding (.status eng e.id) = false → Goes .entryComplete s (fun u =>
        u.mem = s.mem ∧ u.netOut = s.netOut ∧ (u.engineAt eng).fired = g.fired.filter (fun x => x.id != e.id) ∧
        (f 6 14 14 = 0 ∨ incAway → u.incs = s.incs) ∧ (f 6 14 14 = 1 → ¬ incAway → u.counts = s.counts ++ [inc])))) ∧
  (∀ i, s.incs[s.site.n]? = some i → i.net ≠ 0 ∨ (∃ d, i.decl = some d ∧ s.cycle < d.2.2) → exec .counterIncrement s = .next s) ∧
  (∀ i, s.incs[s.site.n]? = some i → i.net = 0 → (∀ d, i.decl = some d → d.2.2 ≤ s.cycle) →
    let c := s.counterAt i.cid.toNat
    let h := s.engineAt (i.cid.toNat / 1024)
    let met (e : Entry) : Bool := decide (entryField e.w 5 13 0 = i.cid.toNat) && decide (entryField e.w 5 63 16 ≤ (c.value + i.amount).toNat)
    (s.cidUp i.cid.toNat = true → Goes .counterIncrement s (fun u =>
      u.mem = s.mem ∧ u.incs = s.incs.eraseIdx s.site.n ∧
      u.counterAt i.cid.toNat = { c with value := c.value + i.amount, ordsig := jmix64 c.ordsig i.fold } ∧
      (∀ n, n < 0x4000 → n ≠ i.cid.toNat → u.counterAt n = s.counterAt n) ∧
      (c.lost = false → (u.engineAt (i.cid.toNat / 1024)).armed = h.armed.filter (fun e => !met e) ∧
        ∀ x, x < 16 → (u.engineAt x).fired.map (fun e => e.addr) = (s.engineAt x).fired.map (fun e => e.addr) ++
          (h.armed.filter (fun e => met e && e.eng == x)).map (fun e => e.addr)))) ∧
    (s.cidUp i.cid.toNat = false → Goes .counterIncrement s (fun u =>
      u.mem = s.mem ∧ u.incs = s.incs.eraseIdx s.site.n ∧ u.counters = s.counters ∧ u.engines = s.engines))) ∧
  (let c := s.site.chunk
   let p := c.srcPkg.toNat
   let step := c.num - NatMap.get 0xFFFF s.chunkLast p
   let ps := piecesOf (.run 0) (.run c.va) (c.bytes.length + 1) 0 c.bytes.length
   (c.kind = .write → step = 1 → s.chunksIn = [] → c.bytes ≠ [] → c.va.toNat + c.bytes.length ≤ 0xFFFFFFFC00000 →
     (∀ q ∈ ps, (s.agentVa 1024 q.dst true).isSome = true) → Goes .fabricChunk s (fun u =>
       u.mem = s.mem ∧ NatMap.get 0xFFFF u.chunkLast p = c.num ∧ u.chunksIn.map (fun x => (x.pkg, x.num, x.status)) = [(c.srcPkg, c.num, 0)] ∧
       Sent (.chunk s.chunkNext) (ps.map (fun q => { pa := (s.agentVa 1024 q.dst true).getD 0, bytes := (c.bytes.drop q.pos).take q.n, owner := .chunk s.chunkNext })) s u)) ∧
   (c.kind = .write → step ≠ 1 → Goes .fabricChunk s (fun u =>
     u.mem = s.mem ∧ u.inWrites = s.inWrites ∧ u.chunksIn = s.chunksIn ∧ u.chunkLast = s.chunkLast ∧
     (∀ r, (NatMap.get [] s.chunkResp p).find? (fun r => r.1 == c.num) = some r → step = 0 ∨ 0x8000 ≤ step.toNat → u.netOut = s.netOut ++ [.ack c.srcPkg c.num r.2]) ∧
     ((NatMap.get [] s.chunkResp p).find? (fun r => r.1 == c.num) = none → u = s)))) ∧
  (∀ t, s.transfers[s.site.n]? = some t → s.unreached = [] → s.site.yes = false →
    let same (x : Transfer) : Bool := x.pkg == t.pkg && x.owner == t.owner
    let next := ((List.range 32).map (fun i => (t.port + 1 + i) % 32)).find? s.portUp
    (s.cycle < t.sent + 112500 → s.portUp t.port = true → exec .fabricChunkTimeout s = .next s) ∧
    (t.sent + 112500 ≤ s.cycle ∨ s.portUp t.port = false →
      (t.sends < 8 → ∀ p, next = some p → Goes .fabricChunkTimeout s (fun u => u.mem = s.mem ∧ u.engines = s.engines ∧
        u.transfers = (s.transfers.take s.site.n).filter (fun x => !same x) ++
          (s.transfers.drop s.site.n).map (fun x => if same x then { x with port := p, sends := x.sends + 1, sent := s.cycle } else x))) ∧
      (8 ≤ t.sends ∨ next = none → ∀ e, t.owner = .entry eng e → Goes .fabricChunkTimeout s (fun u => u.mem = s.mem ∧
        (∀ x ∈ u.transfers, x.owner ≠ t.owner) ∧
        (∀ x, g.fired.find? (fun y => y.id == e) = some x → x.done = none → ∀ y, (u.engineAt eng).fired.find? (fun y => y.id == e) = some y → y.done = some 3))))) ∧
  (s.site.yes = false → Goes .lossNotice s (fun u => u.mem = s.mem ∧ ∀ x, x < 16 →
    (∀ e ∈ (u.engineAt x).armed, entryField e.w 3 63 40 ≠ s.site.n) ∧ (∀ e ∈ (u.engineAt x).fired, entryField e.w 3 63 40 = s.site.n → e.done.isSome = true) ∧
    (∀ e ∈ (s.engineAt x).armed, entryField e.w 3 63 40 = s.site.n →
      (entryField e.w 5 14 14 = 1 → (u.counterAt (entryField e.w 5 13 0)).lost = true) ∧
      (entryField e.w 6 14 14 = 1 → ¬ (entryField e.w 6 15 15 = 1 ∧ s.goesAway e) → (u.counterAt (entryField e.w 6 13 0)).lost = true)))) ∧
  (s.site.yes = true → Goes .lossNotice s (fun u => u.mem = s.mem ∧ (∀ x ∈ u.xslots, x.2.xid ≠ s.site.n) ∧
    ∀ m ∈ u.members, m.post.xid = s.site.n → m.done = true))

/-- R214: the offset of sender i in a receiver's area of r bytes, where the senders before it have demand d. -/
def areaOffset (d : Nat → Nat) (r : Nat) : Nat → Nat
  | 0 => 0
  | i + 1 => areaOffset d r i + (min (d i) (r - areaOffset d r i) + 63) / 64 * 64

/-- R215: phases numbered from 1 in order; in each, every sender and every receiver at most once, the senders ascending; a phase with a demand of 64 KiB or more has one
quantum of at most 4 MiB, a later one moves deferred demand whole; and together they grant the fitted demand dd, where no limit has cut them short. -/
def goodCalendar (n : Nat) (dd : Nat → Nat → Nat) (cal : List Grant) (phases : Nat) : Prop :=
  (∀ g ∈ cal, g.snd < n ∧ g.rcv < n ∧ 1 ≤ g.phase ∧ g.phase ≤ phases ∧ 0 < g.bytes ∧ (0x10000 ≤ dd g.snd g.rcv → g.bytes ≤ 0x400000) ∧
    (dd g.snd g.rcv < 0x10000 → g.bytes = dd g.snd g.rcv)) ∧
  cal.Pairwise (fun g h => g.phase < h.phase ∨ (g.phase = h.phase ∧ g.snd < h.snd ∧ g.rcv ≠ h.rcv)) ∧
  (cal.length + n ≤ 65536 → phases < 65536 → ∀ i, i < n → ∀ j, j < n →
    (cal.filter (fun g => g.snd == i && g.rcv == j)).foldl (fun a g => a + g.bytes) 0 = dd i j)

/-- The bytes that the answers to an owner's reads of some pieces have brought, where all of them are back and good. -/
def Sys2Proof.Machine.State.gotAll (s : State) (o : Owner) (ps : List Piece) : Option (List Byte) :=
  if ps.all (fun p => (s.gotFor o p.pos).isSome) then some (ps.flatMap (fun p => (s.gotFor o p.pos).getD [])) else none

/-- The messages that are left when the one of the step has been taken. -/
def Sys2Proof.Machine.State.xRest (s : State) : List XMsg := if s.site.x.isSome then s.xmsgs else s.xmsgs.eraseIdx s.site.n

/-- The messages of exchanges after a step, here or on the mesh, in any order: those of l, and those that were on the mesh. -/
def Sys2Proof.Machine.State.sends (u s : State) (l : List XMsg) : Prop := (u.xmsgs ++ u.xnet.map (fun x => x.2)).Perm (l ++ s.xnet.map (fun x => x.2))

/-- The end of an exchange told to every member whose post an arbiter holds. -/
def noticesOf (xid : Nat) (ps : List Post) (st : Nat) : List XMsg := ps.map (fun p => .finish xid p.member st)

/-- The openings of a phase for the members that send in it. -/
def openingsOf (x : XSlot) (epoch ph : Nat) : List XMsg :=
  (x.posts.filter (fun p => x.calendar.any (fun g => g.phase == ph && g.snd == p.member))).map (fun p => .phase x.xid epoch ph p.member)

/-- Whether a message is a member's row of a calendar. -/
def isRowOf (x : XSlot) (i : Nat) (m : XMsg) : Bool :=
  match m with
  | .row xid j n _ _ row _ => xid == x.xid && j == i && n == x.nphase && row == x.calendar.filter (fun g => g.snd == i)
  | _ => false

/-- Members of an exchange on this package that are not complete, by index. -/
def Sys2Proof.Machine.State.openMembers (s : State) (xid i : Nat) : Nat :=
  s.members.countP (fun m => m.post.xid == xid && m.post.member == i && !m.done)

/-- R213: a post of every index that one of the posts counts. -/
def allPosted (ps : List Post) : Prop := ∃ p ∈ ps, ∀ i, i < p.nmem → ∃ q ∈ ps, q.member = i

/-- A piece of a member's table or source on another die is asked for over the mesh (R10, R17): the agent that translates it, and its home. -/
def Sys2Proof.Machine.State.asksAway (s : State) (m : Member) (o : Owner) (p : Piece) (a : Nat) : Prop :=
  s.asked o p.pos = false ∧ (∃ k, s.memberAgent m p.src = some k ∧ s.agentVa k p.src false = some a ∧ s.forkClear k m.seq a p.n = true) ∧ homeDie a ≠ 16 + m.post.eng / 4

/-- R209, R212 to R220, R223 to R226: posts collect at an arbiter, and once one of every index has come it decomposes the demand, sends the rows and opens phase 1, or refuses a
mismatch with status 7; SRCTAB and the source bytes are asked for at their homes, and a row is kept with the lengths of SRCTAB; an opened phase sends its grants below ALEN, and
once their bytes are performed the acknowledgement goes to both arbiters, which close a phase and open the next, or end the exchange; at its end a member writes RECEIVED and,
once that is performed, counts; heartbeats, and the standby that takes over after 30 µs without one. Messages between dies travel over the mesh. -/
def Obligations.IrregularExchange : Prop := ∀ s : State,
  (∀ place sb w p, s.theX = some (.post place sb w p) → s.dieUp (s.roleDie p sb) = true → NatMap.rising s.xslots = true →
    (∀ key x, s.slotOf p.xid sb = some (key, x) → x.st ≠ 1 → Goes .postArrival s (fun u =>
      u.mem = s.mem ∧ u.xslots = s.xslots ∧ .post place sb true p ∈ u.xmsgs)) ∧
    (∀ key x, s.slotOf p.xid sb = some (key, x) → x.st = 1 → ¬ allPosted (x.posts ++ [p]) → (p.home = s.pkgId ∨ ¬ (sb = true ∧ x.active = true)) → Goes .postArrival s (fun u =>
      u.mem = s.mem ∧ u.slotOf p.xid sb = some (key, { x with posts := x.posts ++ [p] }) ∧
      u.sends s (s.xRest ++ (if sb = true ∧ x.active = true then [.takeover p.xid (some p.member) none x.cost] else [])))) ∧
    (∀ key x, s.slotOf p.xid sb = some (key, x) → x.st = 1 → allPosted (x.posts ++ [p]) → x.active = !sb →
      let ps := x.posts ++ [p]
      let post (i : Nat) : Post := (ps.find? (fun q => q.member == i)).getD p
      (∀ q ∈ ps, q.home = s.pkgId) →
      (((∃ q ∈ ps, q.nmem ≠ p.nmem ∨ q.mtsig ≠ p.mtsig) ∨ ¬ ps.Pairwise (fun a b => a.member ≠ b.member)) →
        Goes .postArrival s (fun u => u.mem = s.mem ∧ (sb = true → u.sends s s.xRest) ∧ (sb = false → u.sends s (s.xRest ++ noticesOf p.xid ps 7)) ∧
          ∀ y, u.slotOf p.xid sb = some (key, y) → y.st = 4)) ∧
      ((∀ q ∈ ps, q.nmem = x.nmem ∧ q.mtsig = p.mtsig ∧ q.member < x.nmem ∧ q.memtab = p.memtab ∧ q.xid = p.xid) → ps.Pairwise (fun a b => a.member ≠ b.member) → x.closed = 0 →
        let d (i j : Nat) : Nat := (post i).demand.getD j 0
        let off (i j : Nat) : Nat := areaOffset (fun i => d i j) (post j).rlen i
        let dd (i j : Nat) : Nat := min (d i j) ((post j).rlen - off i j)
        Goes .postArrival s (fun u => u.mem = s.mem ∧ ∀ y, u.slotOf p.xid sb = some (key, y) →
          goodCalendar x.nmem dd y.calendar y.nphase ∧
          (let row (i : Nat) : XMsg := .row x.xid i y.nphase
             ((List.range x.nmem).map (fun j => (y.calendar.filter (fun g => g.snd == j && g.rcv == i)).foldl (fun a g => a + g.bytes) 0))
             ((List.range x.nmem).map (fun j => off j i)) (y.calendar.filter (fun g => g.snd == i)) ((List.range x.nmem).map (fun j => off i j))
           (sb = true → u.sends s s.xRest ∧ (0 < y.nphase → y.st = 3 ∧ y.openPh = x.openPh)) ∧
           (sb = false → 0 < y.nphase → y.st = 3 ∧ y.openPh = 1 ∧ u.sends s (s.xRest ++ (List.range x.nmem).map row ++
             ((y.calendar.filter (fun g => g.phase == 1)).map (fun g => XMsg.phase x.xid x.epoch 1 g.snd)))) ∧
           (sb = false → y.nphase = 0 → y.st = 4 ∧ u.sends s (s.xRest ++ (List.range x.nmem).map row ++ (List.range x.nmem).map (fun i => XMsg.finish x.xid i 0))))))) ∧
    (s.slotOf p.xid sb = none → s.freeX (s.roleDie p sb) = none → Goes .postArrival s (fun u =>
      u.mem = s.mem ∧ u.xslots = s.xslots ∧ .post place sb true p ∈ u.xmsgs)) ∧
    (s.slotOf p.xid sb = none → ∀ key, s.freeX (s.roleDie p sb) = some key →
      ((∃ i ∈ s.waitingPosts (s.roleDie p sb), i < p.xid) → Goes .postArrival s (fun u => u.mem = s.mem ∧ u.xslots = s.xslots ∧ .post place sb true p ∈ u.xmsgs)) ∧
      ((∀ i ∈ s.waitingPosts (s.roleDie p sb), p.xid ≤ i) → 1 < p.nmem → Goes .postArrival s (fun u =>
        u.mem = s.mem ∧ u.xmsgs = s.xRest ∧ u.slotOf p.xid sb =
          some (key, { xid := p.xid, nmem := p.nmem, st := 1, standby := sb, active := !sb, posts := [p], mtsig := p.mtsig, beat := s.cycle }))))) ∧
  (∀ xid i n granted offs row rowOffs, s.theX = some (.row xid i n granted offs row rowOffs) → ∀ m, s.member? xid i = some m → s.badWords = [] →
    let ps := piecesOf (.run m.srctab) (.run 0) (16 * m.post.nmem + 1) 0 (16 * m.post.nmem)
    let o := Owner.table xid i
    (m.sources.isSome = true → Goes .calendarRow s (fun u => u.mem = s.mem ∧ u.xmsgs = s.xRest ∧ u.members = s.members)) ∧
    (m.sources = none → ∀ p a, ps.head? = some p → s.asksAway m o p a → Goes .calendarRow s (fun u => u.mem = s.mem ∧ u.members = s.members ∧
      .row xid i n granted offs row rowOffs ∈ u.xmsgs ∧ (u.asks[s.asks.length]?).map (fun q => (q.owner, q.idx, q.pa, q.n)) = some (o, p.pos, a, p.n))) ∧
    (m.sources = none → (s.memberAgent m m.srctab).isSome = true → ∀ bs, s.gotAll o ps = some bs →
    let ws := (List.range (2 * m.post.nmem)).map (fun j => ofLe ((bs.drop (8 * j)).take 8))
    let alen (j : Nat) : Nat := ws.getD (2 * j + 1) 0 % 2 ^ 48
    let ungr := ((List.range m.post.nmem).map (fun j => alen j - (row.filter (fun g => g.rcv == j)).foldl (fun a g => a + g.bytes) 0)).foldl (fun a b => a + b) 0
    Goes .calendarRow s (fun u => u.mem = s.mem ∧ u.xmsgs = s.xRest ∧ u.asked o 0 = false ∧ u.member? xid i = some { m with
      granted := some granted, row := row, rowOffs := rowOffs, nphase := n, unsent := ungr, causes := m.causes ++ (if ungr = 0 then [] else [6]),
      sources := some ((List.range m.post.nmem).map (fun j => (BitVec.ofNat 64 (ws.getD (2 * j) 0 % 2 ^ 52), alen j))) }))) ∧
  (∀ xid epoch ph i, s.theX = some (.phase xid epoch ph i) → ∀ m, s.member? xid i = some m →
    (epoch < m.epoch → Goes .phaseOpen s (fun u => u.mem = s.mem ∧ u.xmsgs = s.xRest ∧ u.members = s.members ∧ u.inWrites = s.inWrites)) ∧
    (∀ src, m.sources = some src → m.epoch ≤ epoch → s.badWords = [] → s.dieUp (16 + m.post.eng / 4) = true → m.post.xid = xid → ∀ g, m.row.filter (fun x => x.phase == ph) = [g] →
      m.post.memtab.getD g.rcv 0 = s.pkgId →
      let c := ((m.row.filter (fun x => x.rcv == g.rcv && decide (x.phase < ph))).map (fun x => x.bytes)).foldl (fun a b => a + b) 0
      let n := min (c + g.bytes) (src.getD g.rcv (0, 0)).2 - c
      let va := (src.getD g.rcv (0, 0)).1 + BitVec.ofNat 64 c
      let o := Owner.grant xid ph g.snd g.rcv
      let from' := piecesOf (.run va) (.run 0) (n + 1) 0 n
      let acks : List XMsg := [.ack (m.post.memtab.getD 0 0) (16 + xid % 4) xid ph g.snd g.rcv,
        .ack (m.post.memtab.getD (m.post.nmem - 1) 0) (16 + (xid + 1) % 4) xid ph g.snd g.rcv]
      (n = 0 → Goes .phaseOpen s (fun u => u.mem = s.mem ∧ u.inWrites = s.inWrites ∧ u.xmsgs = s.xRest ++ acks)) ∧
      (0 < n → ∀ p a, from'.head? = some p → s.asksAway m o p a → Goes .phaseOpen s (fun u => u.mem = s.mem ∧ u.inWrites = s.inWrites ∧
        .phase xid epoch ph i ∈ u.xmsgs ∧ (u.asks[s.asks.length]?).map (fun q => (q.owner, q.idx, q.pa, q.n)) = some (o, p.pos, a, p.n))) ∧
      (0 < n → n ≤ 0x100000 → (s.memberAgent m va).isSome = true → ∀ bs, s.gotAll o from' = some bs → bs.length = n →
        ∀ r, s.member? xid g.rcv = some r → r.post.xid = xid → r.post.member = g.rcv →
        let at' := m.rowOffs.getD g.rcv 0 + c
        let dest := r.rbase + BitVec.ofNat 64 at'
        let ps := piecesOf (.run 0) (.run dest) (n + 1) 0 n
        r.got.contains (ph, g.snd, at') = false → (∀ p ∈ ps, p.dst.toNat < 0xFFFFFFFC00000 ∧ (s.agentVa (64 * (16 + r.post.eng / 4)) p.dst true).isSome = true) →
        dest.toNat < 0xFFFFFFFC00000 → Goes .phaseOpen s (fun u => u.mem = s.mem ∧ u.xmsgs = s.xRest ++ acks ∧
          Sent o (ps.map (fun p => { pa := (s.agentVa (64 * (16 + r.post.eng / 4)) p.dst true).getD 0, bytes := (bs.drop p.pos).take p.n, owner := o })) s u ∧
          ∀ y, u.member? xid g.rcv = some y → NatMap.get 0 y.received g.snd = NatMap.get 0 r.received g.snd + n)))) ∧
  (∀ pkg rim xid ph snd rcv, s.theX = some (.ack pkg rim xid ph snd rcv) → s.site.x = none →
    let o := Owner.grant xid ph snd rcv
    let sb := decide (rim ≠ 16 + xid % 4)
    (s.outstanding o = true → exec .grantAck s = .next s) ∧
    (s.outstanding o = false → s.transfers.any (fun t => t.owner == o) = false →
      (pkg ≠ s.pkgId → Goes .grantAck s (fun u => u.mem = s.mem ∧ u.xmsgs = s.xRest ∧ u.netOut = s.netOut ++ [.exchange pkg (.ack pkg rim xid ph snd rcv)])) ∧
      (pkg = s.pkgId → (s.slotOf xid sb).isSome = true → Goes .grantAck s (fun u => u.mem = s.mem ∧ u.sends s (s.xRest ++ [.acked sb xid ph snd rcv]))))) ∧
  (∀ sb xid ph snd rcv, s.theX = some (.acked sb xid ph snd rcv) → NatMap.rising s.xslots = true → ∀ key x, s.slotOf xid sb = some (key, x) →
      let x1 := { x with acks := if x.acks.contains (ph, snd, rcv) then x.acks else x.acks ++ [(ph, snd, rcv)] }
      let whole (n : Nat) : Bool := x.calendar.all (fun g => g.phase != n || x1.acks.contains (n, g.snd, g.rcv))
      (s.dieUp (16 + key / 16) = false → Goes .grantAck s (fun u => u.mem = s.mem ∧ u.xmsgs = s.xRest ∧ u.xslots = s.xslots)) ∧
      (s.dieUp (16 + key / 16) = true → x.st = 3 →
      ((x.nphase ≤ x.closed ∨ whole (x.closed + 1) = false) → Goes .grantAck s (fun u => u.mem = s.mem ∧ u.xmsgs = s.xRest ∧ u.slotOf xid sb = some (key, x1))) ∧
      (x.closed + 1 < x.nphase → whole (x.closed + 1) = true → whole (x.closed + 2) = false → x.active = true → x.openPh ≤ x.closed + 1 →
        (∀ p ∈ x.posts, p.home = s.pkgId) → Goes .grantAck s (fun u =>
        u.mem = s.mem ∧ u.slotOf xid sb = some (key, { x1 with closed := x.closed + 1, openPh := x.closed + 2 }) ∧
        u.sends s (s.xRest ++ openingsOf x x.epoch (x.closed + 2)))) ∧
      (x.closed + 1 = x.nphase → whole x.nphase = true → x.active = true → x.openPh ≤ x.nphase → (∀ p ∈ x.posts, p.home = s.pkgId) → Goes .grantAck s (fun u =>
        u.mem = s.mem ∧ u.sends s (s.xRest ++ noticesOf xid x.posts 0))))) ∧
  (∀ xid i st, s.theX = some (.finish xid i st) → ∀ m, s.member? xid i = some m → m.post.eng < 16 →
    let inc : Inc := { cid := m.ctr, amount := 1, fold := BitVec.ofNat 64 (6 * 2 ^ 60 + s.pkgId.toNat * 2 ^ 41 + (16 + m.post.eng / 4) * 2 ^ 36 + m.post.member % 2 ^ 12 * 2 ^ 24 + m.nphase % 2 ^ 24) }
    let o := Owner.received xid i
    (st = 0 → m.sources = none → s.site.x = none → exec .exchangeCompletionNotice s = .next s) ∧
    (st ≠ 5 → m.closing = false → (st = 0 → m.sources.isSome = true) → m.grtab.toNat % 16 = 0 → m.post.xid = xid → m.post.member = i →
      ∀ k pa : Nat → Nat, (∀ j, j < m.post.nmem → s.memberAgent m (m.grtab + BitVec.ofNat 64 (16 * j + 8)) = some (k j) ∧
        s.agentVa (k j) (m.grtab + BitVec.ofNat 64 (16 * j + 8)) true = some (pa j)) → Goes .exchangeCompletionNotice s (fun u =>
          u.mem = s.mem ∧ .finish xid i st ∈ u.xmsgs ∧ u.incs = s.incs ∧ u.member? xid i = some { m with closing := true } ∧
          bytesOf (u.writes.drop s.writes.length) = (List.range m.post.nmem).flatMap (fun j => (leBytes 8 (NatMap.get 0 m.received j)).zipIdx.map (fun b => (pa j + b.2, b.1))) ∧
          (∀ w ∈ u.writes.drop s.writes.length, w.owner = o) ∧ u.writes.take s.writes.length = s.writes)) ∧
    (m.closing = true → (st = 0 → m.sources.isSome = true) → s.site.x = none → s.outstanding o = true → exec .exchangeCompletionNotice s = .next s) ∧
    ((st = 5 ∨ m.closing = true) → (st = 0 → m.sources.isSome = true) → s.outstanding o = false → Goes .exchangeCompletionNotice s (fun u =>
      u.mem = s.mem ∧ u.xmsgs = s.xRest ∧ u.openMembers xid i + 1 = s.openMembers xid i ∧ u.counts = (if m.ctrEn then s.counts ++ [inc] else s.counts) ∧
      s.members.map (fun y => y.post) = u.members.map (fun y => y.post) ∧
      { m with causes := if st = 0 then m.causes else m.causes ++ [st], done := true } ∈ u.members))) ∧
  (∀ x, (s.xslots.find? (fun x => x.1 == 16 * (s.site.rim - 16) + s.site.n)).map (fun x => x.2) = some x → s.site.rim < 20 → 16 ≤ s.site.rim → s.site.n < 16 →
    NatMap.rising s.xslots = true →
    let key := 16 * (s.site.rim - 16) + s.site.n
    let now (u : State) : Option XSlot := (u.xslots.find? (fun x => x.1 == key)).map (fun x => x.2)
    let atHome := ∀ p ∈ x.posts, p.home = s.pkgId ∧ p.memtab.getD 0 0 = s.pkgId ∧ p.memtab.getD (p.nmem - 1) 0 = s.pkgId ∧ p.xid = x.xid
    let up := s.dieUp s.site.rim = true
    (up → s.site.x = none → x.standby = false → x.active = true → x.alone = false →
      (s.cycle < x.beat + 22500 → exec .heartbeatSend s = .next s) ∧
      (x.beat + 22500 ≤ s.cycle → atHome → x.posts ≠ [] → Goes .heartbeatSend s (fun u =>
        u.mem = s.mem ∧ now u = some { x with beat := s.cycle } ∧ ∀ key' y, s.slotOf x.xid true = some (key', y) →
          if key' / 16 = key / 16 then u.sends s s.xmsgs ∧ ∀ z, u.slotOf x.xid true = some (key', z) → z.beat = s.cycle else u.sends s (s.xmsgs ++ [.heartbeat x.xid])))) ∧
    (up → x.standby = true → x.active = false →
      (s.cycle < x.beat + 67500 → exec .heartbeatTimeout s = .next s) ∧
      (x.beat + 67500 ≤ s.cycle → atHome → x.posts ≠ [] →
        let cost := s.cycle - x.beat
        let notices : List XMsg := x.posts.map (fun p => .takeover x.xid (some p.member) none cost) ++
          [.takeover x.xid none (some (16 + x.xid % 4)) cost]
        (x.st ≠ 3 → x.st ≠ 4 → Goes .heartbeatTimeout s (fun u => u.mem = s.mem ∧ now u = some { x with epoch := 1, active := true, cost := cost } ∧ u.sends s (s.xmsgs ++ notices))) ∧
        (x.st = 3 → x.closed < x.nphase → Goes .heartbeatTimeout s (fun u =>
          u.mem = s.mem ∧ now u = some { x with epoch := 1, active := true, cost := cost, openPh := x.closed + 1 } ∧
          ∃ rows : List XMsg, rows.length = x.posts.length ∧ (∀ p ∈ x.posts, rows.any (isRowOf x p.member) = true) ∧
            u.sends s (s.xmsgs ++ notices ++ rows ++ openingsOf x 1 (x.closed + 1)))) ∧
        (x.st = 4 → Goes .heartbeatTimeout s (fun u => u.mem = s.mem ∧
          ((disagreeing x.posts).isSome = true → u.sends s (s.xmsgs ++ notices ++ noticesOf x.xid x.posts 7)) ∧
          (disagreeing x.posts = none → ∃ rows : List XMsg, rows.length = x.posts.length ∧ (∀ p ∈ x.posts, rows.any (isRowOf x p.member) = true) ∧
            u.sends s (s.xmsgs ++ notices ++ rows ++ noticesOf x.xid x.posts 0)))))) ∧
    (s.site.yes = false → x.standby = false → x.active = true → x.alone = false →
      (∀ y ∈ s.xslots, y.2.xid = x.xid → y.2.standby = true → s.dieUp (16 + y.1 / 16) = false) → Goes .arbiterLost s (fun u =>
      u.mem = s.mem ∧ u.xmsgs = s.xmsgs ∧ now u = some { x with alone := true })) ∧
    (s.site.yes = true → (∀ y ∈ s.xslots, y.2.xid = x.xid → s.dieUp (16 + y.1 / 16) = false) → atHome → Goes .arbiterLost s (fun u =>
      u.mem = s.mem ∧ (∀ y ∈ u.xslots, y.2.xid ≠ x.xid) ∧ u.xmsgs = s.xmsgs ++ noticesOf x.xid x.posts 3))) ∧
  (∀ xid i rim cost, s.theX = some (.takeover xid i rim cost) →
    (∀ j, i = some j → ∀ m, s.member? xid j = some m → Goes .takeoverNotice s (fun u =>
      u.mem = s.mem ∧ u.xmsgs = s.xRest ∧ u.member? xid j = some { m with epoch := 1, failover := true } ∧
      ∀ l, s.launch? m.launch = some l → ∀ y, u.launch? m.launch = some y → y.corrected =
        (if ∃ o ∈ s.members, o.post.xid = xid ∧ o.launch = m.launch ∧ o.failover = true then l.corrected else min (l.corrected + 1) 0xFFFF))) ∧
    (i = none → Goes .takeoverNotice s (fun u => u.mem = s.mem ∧ u.xmsgs = s.xRest ∧
      ∀ x ∈ u.xslots, x.2.xid = xid → x.2.standby = false → x.2.active = false)))

/-! ### The whole machine -/

/-- A turn of sequencer q of a cell whose word decodes runs what it decodes to: at its turn the agenda's next entry is taken, time passes, and a
sequencer that may issue executes the instruction at its program counter; at or beyond CODELEN it raises FETCH_FAULT, and a word that is no instruction
has the fate of one (R90, R93, R245, R275 row 1); an event acts at its site. The agenda is the model's own (log entry 1). -/
def Obligations.StepRunsDecoded : Prop :=
  ∀ (s : State) (d : Nat) (die cell : Nat) (q : SeqId) (rest : List Turn), s.agenda = ⟨d, .seq die cell q⟩ :: rest → die < 16 → cell < 56 →
    let s1 : State := { s with agenda := rest, cycle := s.cycle + d, site := { die := die, cell := cell, seq := q } }
    let x := s1.curSeq
    (s1.mayIssue = true → x.pc.toNat < x.codeLen →
      (∀ i, decodeWord (NatMap.get 0 x.code x.pc.toNat) = .ok i → i.wf = true → step s = exec i s1) ∧
      (∀ r, decodeWord (NatMap.get 0 x.code x.pc.toNat) = .error r → step s = .next (s1.precise 0x01 0))) ∧
    (s1.mayIssue = true → x.codeLen ≤ x.pc.toNat → step s = .next (s1.precise tcFetch (x.from?.getD (BitVec.allOnes 64)))) ∧
    (s1.mayIssue = false → step s = .next s1) ∧
    (∀ (i : Instr) (a : Site) (u : State), u.agenda = ⟨d, .ev i a⟩ :: rest → i.isEvent = true → a.wf = true → (i.atComputeDie = true → a.die < 16) →
      step u = exec i { u with agenda := rest, cycle := u.cycle + d, site := a })

/-- R270, R272, R273, R302, R307, R329, R330, R332 to R336: words of the manual's own examples, each beside the instruction that it stands for. -/
def Obligations.DecodedWords : Prop :=
  decodeWord 0x020A0024 = .ok (.li 0 5 0x24) ∧
  decodeWord 0x02DB0B00 = .ok (.pred 0 3 3 0x0B) ∧
  decodeWord 0x05485C02 = .ok (.ldx 0 4 5 3 0 2) ∧
  decodeWord 0x06C00000 = .ok (.fenceSc 0 0) ∧
  decodeWord 0x07485001 = .ok (.waitall 0 4 5) ∧
  decodeWord 0x06885318 = .ok (.atomAdd 0 4 5 6 1 0)

/-- R270 to R275: decoding reads back every well-formed instruction that has an encoding, with every field at every value, and only such an instruction
comes out of a word. -/
def Obligations.DecodeEncode : Prop :=
  (∀ (i : Instr) (w : BitVec 32), i.wf = true → encode i = some w → decodeWord w = .ok i) ∧
  (∀ (i : Instr) (w : BitVec 32), decodeWord w = .ok i → i.wf = true ∧ i.isEvent = false ∧ encode i = some w)

/-- Every step of the machine keeps memory in its canonical form: addresses strictly rising, and no entry equal to what its address reads as unlisted. The form is
the model's own (log entries 2 and 3). -/
def Obligations.StepKeepsMemory : Prop :=
  ∀ s u : State, MemOk s → step s = .next u → MemOk u

/-- R13, R26, R28, R42, R77, R128, R193, R249, R259, R265: after reset nothing is bound, listed, armed, held or in flight, every register reads 0 or the value of its table (p0 true, WAITBOUND
0x0004_0000, m0 all ones, ERRTHR 16, WINLOG 24), each stream next expects SEQ 0, no message leaves, the modules and ports wait and the device is not brought up; memory has its canonical form.
That unwritten memory reads 0 is the model's choice (log entry 2), and so are the zeros of rows, masks, general registers and counters that the manual gives no reset value (log entry 133). -/
def Obligations.ResetState : Prop :=
  MemOk State.reset ∧ State.reset.mem = [] ∧ State.reset.cycle = 0 ∧ State.reset.launches = [] ∧ State.reset.regions = [] ∧ State.reset.bringUp = 0 ∧
  State.reset.xlV = false ∧ State.reset.resets = 0 ∧
  (∀ k q n, ((State.reset.cellAt k).seq q).greg n = 0 ∧ ((State.reset.cellAt k).seq q).pc = 0 ∧ ((State.reset.cellAt k).seq q).loopCnt n = 0) ∧
  (∀ k n, (State.reset.cellAt k).queue n = [] ∧ (State.reset.cellAt k).tokVal n = 0 ∧ (State.reset.cellAt k).row n = 0 ∧ (State.reset.cellAt k).tagWord n = 0) ∧
  (∀ k, (State.reset.cellAt k).bound = none ∧ (State.reset.cellAt k).tin = false ∧ (State.reset.cellAt k).tvecEn = false ∧ (State.reset.cellAt k).tcause = 0 ∧
    (State.reset.cellAt k).srbase = 0 ∧ (State.reset.cellAt k).oos = false) ∧
  (∀ q, (State.reset.quadAt q).held = false ∧ (State.reset.quadAt q).cmds = [] ∧ (State.reset.quadAt q).arbcnt = 0 ∧ (State.reset.quadAt q).oos = false) ∧
  (∀ c, (State.reset.counterAt c).value = 0 ∧ (State.reset.counterAt c).lost = false) ∧
  (∀ k, (State.reset.slotAt k).v = false) ∧ (∀ pa, State.reset.byteAt pa = 0) ∧
  (∀ k q n, ((State.reset.cellAt k).seq q).waitBound = 0x00040000 ∧ ((State.reset.cellAt k).seq q).pred n = decide (n = 0) ∧ ((State.reset.cellAt k).seq q).codeLen = 0 ∧
    ((State.reset.cellAt k).seq q).slots = [] ∧ ((State.reset.cellAt k).seq q).trdMiss = 0) ∧
  (∀ k n, (State.reset.cellAt k).maskOf n = (if n = 0 then BitVec.allOnes 512 else 0) ∧ (State.reset.cellAt k).mstack = [] ∧ (State.reset.cellAt k).vrb = 0 ∧
    (State.reset.cellAt k).mrb = 0 ∧ (State.reset.cellAt k).fmtbase = 0 ∧ (State.reset.cellAt k).rlc.st = 0 ∧ (State.reset.cellAt k).vcmds = [] ∧ (State.reset.cellAt k).copies = []) ∧
  (∀ n, NatMap.get 0 State.reset.signals n = 0) ∧
  (∀ n, (State.reset.streamAt n).last + 1 = 0 ∧ (State.reset.streamAt n).pkts = [] ∧ (State.reset.streamAt n).records = [] ∧ (State.reset.streamAt n).stored = []) ∧
  (∀ die edge m, let l := State.reset.linkAt die edge m
    l.errThr = 16 ∧ l.winLog = 24 ∧ l.down = false ∧ l.st = 0 ∧ l.errCnt = 0 ∧ l.retry = 0 ∧ l.retrain = 0) ∧
  (∀ n, (State.reset.engineAt n).arming = [] ∧ (State.reset.engineAt n).armed = [] ∧ (State.reset.engineAt n).fired = []) ∧
  (∀ p, (NatMap.get {} State.reset.ports p).stage = .off) ∧
  (∀ d, let b := NatMap.get {} State.reset.boxes d
    b.events = [] ∧ b.frozen = false ∧ b.dropped = 0) ∧
  State.reset.hostOut = [] ∧ State.reset.netOut = [] ∧ State.reset.portOut = [] ∧ State.reset.transfers = [] ∧ State.reset.members = [] ∧ State.reset.xslots = [] ∧
  State.reset.barriers = [] ∧ State.reset.oosDies = []

/-- The instructions that write predicates, loop counts and memory. -/
def writesPreds : Instr → Bool
  | .pcmp .. | .pcmpi .. | .pand .. | .por .. | .pxor .. | .pnot .. | .pmov .. => true
  | _ => false
def writesLoops : Instr → Bool
  | .loop .. | .bloop .. | .bloopRot .. => true
  | _ => false
def isAtomic : Instr → Bool
  | .atomSwap .. | .atomAdd .. | .atomAnd .. | .atomOr .. | .atomXor .. | .atomMax .. | .atomMaxz .. | .atomCas .. => true
  | _ => false
def isDgrant : Instr → Bool
  | .dgrant .. => true
  | _ => false
def isWrsys : Instr → Bool
  | .wrsys .. => true
  | _ => false

/-- The bytes that an atomic's word stores to: those of its operand at the address in field a, as the meaning translates it (R333). -/
def Sys2Proof.Machine.State.atomStores (s : State) (w : BitVec 32) (a : Nat) : Bool :=
  let ra : BitVec 5 := w.extractLsb' 12 5
  let rb : BitVec 5 := w.extractLsb' 7 5
  let n := if w.getLsbD 3 then 8 else 4
  match ((s.afterRead ra).afterRead rb).translate s.here (s.source ra) true with
  | .ok (pa, _, _) => decide (pa ≤ a) && decide (a < pa + n)
  | .error _ => false

/-- The words of `dgrant`'s grant table: those that its member's grants give, at GRTAB, each at the address that its word's translation gives once those before it
are written (R220). -/
def Sys2Proof.Machine.State.grantStores (s : State) (w : BitVec 32) (a : Nat) : Prop :=
  let ra : BitVec 5 := w.extractLsb' 12 5
  ∃ ws s2 m, readWords (s.source ra) 1 (s.afterRead ra) = .ok (ws, s2) ∧ s2.members.find? (s2.mineFor (bits (ws.getD 0 0) 23 0)) = some m ∧
    ∃ g, (m.granted = some g ∨ (m.granted = none ∧ g = List.replicate m.post.nmem 0)) ∧
    ∃ before p after s3 pa repl s4, grantWords m g = before ++ p :: after ∧ writeWords before s2 = .ok ((), s3) ∧ s3.translate s3.here p.1 true = .ok (pa, repl, s4) ∧
      pa ≤ a ∧ a < pa + 8

/-- What an encoded instruction leaves as it was, whatever its form: of every other cell the registers of its sequencers, its rows, masks and stack; of the other
sequencers of its own cell the general registers, predicates and loop counts; of its own all registers but the one in field d of its word (bits 21 to 17), the
predicates and loop counts unless it is one of those that write them; vector rows, masks, the accumulator tiles among the rows (R96), the mask stack; the registers
of a taken trap; every byte of memory but those that an atomic stores to, and those of the grant table that `dgrant` writes (R246, R270, R271, R333, R220). -/
def Obligations.Frame : Prop :=
  ∀ (i : Instr) (w : BitVec 32) (s u : State), encode i = some w → exec i s = .next u →
    (∀ k, k ≠ s.here → (∀ q, let x := (s.cellAt k).seq q
        let y := (u.cellAt k).seq q
        y.g = x.g ∧ y.p = x.p ∧ y.lc = x.lc ∧ y.pc = x.pc) ∧
      (u.cellAt k).rows = (s.cellAt k).rows ∧ (u.cellAt k).masks = (s.cellAt k).masks ∧ (u.cellAt k).mstack = (s.cellAt k).mstack) ∧
    (∀ q, q ≠ s.site.seq → (u.cur.seq q).g = (s.cur.seq q).g ∧ (u.cur.seq q).p = (s.cur.seq q).p ∧ (u.cur.seq q).lc = (s.cur.seq q).lc) ∧
    (∀ n, n ≠ (w.extractLsb' 17 5).toNat → u.curSeq.greg n = s.curSeq.greg n) ∧
    (writesPreds i = false → u.curSeq.p = s.curSeq.p) ∧
    (writesLoops i = false → u.curSeq.lc = s.curSeq.lc) ∧
    (u.cur.rows = s.cur.rows ∧ u.cur.masks = s.cur.masks ∧ u.cur.mstack = s.cur.mstack) ∧
    (isWrsys i = false → u.cur.tcause = s.cur.tcause ∧ u.cur.tdefer = s.cur.tdefer ∧ u.cur.tpc = s.cur.tpc ∧ u.cur.tseq = s.cur.tseq ∧ u.cur.tval = s.cur.tval ∧
      u.cur.tvecEntry = s.cur.tvecEntry ∧ u.cur.tvecEn = s.cur.tvecEn ∧ u.cur.leasemax = s.cur.leasemax) ∧
    (∀ a, ¬ (isAtomic i = true ∧ s.atomStores w a = true) → ¬ (isDgrant i = true ∧ s.grantStores w a) → u.byteAt a = s.byteAt a)
end

