-- ==== Sys2Proof/Laws/Maps.lean ====
section
/-! SUPPORT. Laws of sparse maps and of memory: a read after a write, and the canonical form that every memory operation keeps. -/

namespace Sys2Proof.Machine

/-! ### Sparse maps -/

@[simp] theorem NatMap.get_ins_same {α : Type} (d : α) (m : NatMap α) (k : Nat) (v : α) : NatMap.get d (NatMap.ins m k v) k = v := by
  induction m with
  | nil => simp [NatMap.ins, NatMap.get]
  | cons e m ih =>
    obtain ⟨a, w⟩ := e
    simp only [NatMap.ins]
    split
    · simp [NatMap.get]
    · split
      · simp [NatMap.get]
      · rename_i h; simp [NatMap.get, ih, Ne.symm h]

theorem NatMap.get_ins_other {α : Type} (d : α) (m : NatMap α) {k j : Nat} (v : α) (h : j ≠ k) :
    NatMap.get d (NatMap.ins m k v) j = NatMap.get d m j := by
  induction m with
  | nil => simp [NatMap.ins, NatMap.get, Ne.symm h]
  | cons e m ih =>
    obtain ⟨a, w⟩ := e
    simp only [NatMap.ins]
    split
    · simp [NatMap.get, Ne.symm h]
    · split
      · rename_i hk; subst hk; simp [NatMap.get, Ne.symm h]
      · simp [NatMap.get, ih]

@[simp] theorem NatMap.get_del_same {α : Type} (d : α) (m : NatMap α) (k : Nat) : NatMap.get d (NatMap.del m k) k = d := by
  induction m with
  | nil => rfl
  | cons e m ih =>
    obtain ⟨a, w⟩ := e
    by_cases h : a = k <;> simp_all [NatMap.del, NatMap.get]

theorem NatMap.get_del_other {α : Type} (d : α) (m : NatMap α) {k j : Nat} (h : j ≠ k) :
    NatMap.get d (NatMap.del m k) j = NatMap.get d m j := by
  induction m with
  | nil => rfl
  | cons e m ih =>
    obtain ⟨a, w⟩ := e
    by_cases ha : a = k
    · subst ha; simp_all [NatMap.del, NatMap.get, Ne.symm h]
    · simp_all [NatMap.del, NatMap.get]

@[simp] theorem NatMap.get_put_same {α : Type} [DecidableEq α] (d : α) (m : NatMap α) (k : Nat) (v : α) :
    NatMap.get d (NatMap.put d m k v) k = v := by
  unfold NatMap.put
  split <;> simp_all

theorem NatMap.get_put_other {α : Type} [DecidableEq α] (d : α) (m : NatMap α) {k j : Nat} (v : α) (h : j ≠ k) :
    NatMap.get d (NatMap.put d m k v) j = NatMap.get d m j := by
  unfold NatMap.put
  split
  · exact NatMap.get_del_other d m h
  · exact NatMap.get_ins_other d m v h

/-- Keys rising is the pairwise order of the entries. -/
theorem NatMap.rising_iff {α : Type} (m : NatMap α) : NatMap.rising m = true ↔ m.Pairwise (fun a b => a.1 < b.1) := by
  induction m with
  | nil => simp [NatMap.rising]
  | cons e m ih =>
    cases m with
    | nil => simp [NatMap.rising]
    | cons f m =>
      obtain ⟨a, v⟩ := e
      obtain ⟨b, w⟩ := f
      rw [NatMap.rising, Bool.and_eq_true, ih, decide_eq_true_iff]
      constructor
      · rintro ⟨h, hp⟩
        refine List.pairwise_cons.2 ⟨fun x hx => ?_, hp⟩
        rcases List.mem_cons.1 hx with rfl | hx
        · exact h
        · exact lt_trans h ((List.pairwise_cons.1 hp).1 x hx)
      · intro hp
        obtain ⟨h, hp⟩ := List.pairwise_cons.1 hp
        exact ⟨h (b, w) List.mem_cons_self, hp⟩

theorem NatMap.mem_ins {α : Type} (m : NatMap α) (k : Nat) (v : α) (e : Nat × α) (h : e ∈ NatMap.ins m k v) : e = (k, v) ∨ e ∈ m := by
  induction m with
  | nil => simpa [NatMap.ins] using h
  | cons f m ih =>
    obtain ⟨a, w⟩ := f
    simp only [NatMap.ins] at h
    split at h
    · simpa using h
    · split at h
      · rcases List.mem_cons.1 h with h | h
        · exact .inl h
        · exact .inr (List.mem_cons_of_mem _ h)
      · rcases List.mem_cons.1 h with h | h
        · exact .inr (h ▸ List.mem_cons_self)
        · rcases ih h with h | h
          · exact .inl h
          · exact .inr (List.mem_cons_of_mem _ h)

theorem NatMap.rising_ins {α : Type} (m : NatMap α) (k : Nat) (v : α) (h : NatMap.rising m = true) : NatMap.rising (NatMap.ins m k v) = true := by
  rw [NatMap.rising_iff] at h ⊢
  induction m with
  | nil => simp [NatMap.ins]
  | cons f m ih =>
    obtain ⟨a, w⟩ := f
    obtain ⟨h1, h2⟩ := List.pairwise_cons.1 h
    simp only [NatMap.ins]
    split
    · rename_i hk
      refine List.pairwise_cons.2 ⟨fun x hx => ?_, h⟩
      rcases List.mem_cons.1 hx with rfl | hx
      · exact hk
      · exact lt_trans hk (h1 x hx)
    · split
      · rename_i hk; subst hk
        exact List.pairwise_cons.2 ⟨h1, h2⟩
      · refine List.pairwise_cons.2 ⟨fun x hx => ?_, ih h2⟩
        rcases NatMap.mem_ins m k v x hx with rfl | hx
        · show a < k; omega
        · exact h1 x hx

theorem NatMap.rising_filter {α : Type} (m : NatMap α) (p : Nat × α → Bool) (h : NatMap.rising m = true) : NatMap.rising (m.filter p) = true := by
  rw [NatMap.rising_iff] at h ⊢
  exact h.filter p

theorem NatMap.rising_put {α : Type} [DecidableEq α] (d : α) (m : NatMap α) (k : Nat) (v : α) (h : NatMap.rising m = true) :
    NatMap.rising (NatMap.put d m k v) = true := by
  unfold NatMap.put NatMap.del
  split
  · exact NatMap.rising_filter m _ h
  · exact NatMap.rising_ins m k v h

/-! ### Memory -/

@[simp] theorem Memory.read_write_same (gen : Nat) (m : List Host.Cell) (pa : Nat) (b : Byte) : Memory.read gen (Memory.write gen m pa b) pa = b :=
  NatMap.get_put_same _ _ _ _

theorem Memory.read_write_other (gen : Nat) (m : List Host.Cell) {pa pb : Nat} (b : Byte) (h : pb ≠ pa) :
    Memory.read gen (Memory.write gen m pa b) pb = Memory.read gen m pb := by
  simp only [Memory.read, Memory.write, NatMap.put]
  split
  · exact NatMap.get_del_other _ _ h
  · exact NatMap.get_ins_other _ _ _ h

theorem Memory.wf_filter (gen : Nat) (m : List Host.Cell) (p : Host.Cell → Bool) (h : Memory.wf gen m = true) : Memory.wf gen (m.filter p) = true := by
  simp only [Memory.wf, Bool.and_eq_true, List.all_eq_true] at h ⊢
  exact ⟨NatMap.rising_filter m p h.1, fun e he => h.2 e (List.mem_filter.1 he).1⟩

/-- A write keeps the canonical form. -/
theorem Memory.wf_write (gen : Nat) (m : List Host.Cell) (pa : Nat) (b : Byte) (h : Memory.wf gen m = true) :
    Memory.wf gen (Memory.write gen m pa b) = true := by
  unfold Memory.write NatMap.put
  split
  · exact Memory.wf_filter gen m _ h
  · rename_i hb
    simp only [Memory.wf, Bool.and_eq_true, List.all_eq_true] at h ⊢
    refine ⟨NatMap.rising_ins m pa b h.1, fun e he => ?_⟩
    rcases NatMap.mem_ins m pa b e he with rfl | he
    · simpa using hb
    · exact h.2 e he

theorem Memory.wf_writes (gen : Nat) (bs : List Byte) : ∀ (m : List Host.Cell) (pa : Nat), Memory.wf gen m = true →
    Memory.wf gen (Memory.writes gen m pa bs) = true := by
  induction bs with
  | nil => intro m pa h; exact h
  | cons b bs ih => intro m pa h; exact ih _ _ (Memory.wf_write gen m pa b h)

theorem Memory.wf_writesBut (gen : Nat) (bad : List Nat) (bs : List Byte) : ∀ (m : List Host.Cell) (pa : Nat), Memory.wf gen m = true →
    Memory.wf gen (Memory.writesBut gen m bad pa bs) = true := by
  induction bs with
  | nil => intro m pa h; exact h
  | cons b bs ih =>
    intro m pa h
    refine ih _ _ ?_
    split
    · exact h
    · exact Memory.wf_write gen m pa b h

/-- A byte outside a run is not changed by writing the run. -/
theorem Memory.read_writes_other (gen : Nat) (bs : List Byte) : ∀ (m : List Host.Cell) (pa x : Nat), (x < pa ∨ pa + bs.length ≤ x) →
    Memory.read gen (Memory.writes gen m pa bs) x = Memory.read gen m x := by
  induction bs with
  | nil => intro m pa x _; rfl
  | cons b bs ih =>
    intro m pa x h
    simp only [List.length_cons] at h
    rw [Memory.writes, ih _ _ _ (by omega), Memory.read_write_other _ _ _ (by omega)]

/-- A byte of a run that has been written reads as it was written. -/
theorem Memory.read_writes_same (gen : Nat) (bs : List Byte) : ∀ (m : List Host.Cell) (pa i : Nat) (h : i < bs.length),
    Memory.read gen (Memory.writes gen m pa bs) (pa + i) = bs[i] := by
  induction bs with
  | nil => intro m pa i h; simp at h
  | cons b bs ih =>
    intro m pa i h
    cases i with
    | zero => rw [Memory.writes, Memory.read_writes_other _ _ _ _ _ (by omega)]; simp
    | succ i =>
      have := ih (Memory.write gen m pa b) (pa + 1) i (by simpa using h)
      rw [show pa + 1 + i = pa + (i + 1) by omega] at this
      simpa [Memory.writes] using this

/-! ### The package's memory -/

@[simp] theorem State.poke_hbmGen (s : State) (pa : Nat) (bs : List Byte) : (s.poke pa bs).hbmGen = s.hbmGen := by
  unfold State.poke; split <;> rfl

/-- A write at its home keeps the canonical form. -/
theorem State.poke_wf (s : State) (pa : Nat) (bs : List Byte) (h : Memory.wf s.hbmGen s.mem = true) :
    Memory.wf (s.poke pa bs).hbmGen (s.poke pa bs).mem = true := by
  unfold State.poke
  split
  · exact Memory.wf_writes _ _ _ _ h
  · exact Memory.wf_writesBut _ _ _ _ _ h

theorem State.zeroRange_wf (s : State) (pa n : Nat) (h : Memory.wf s.hbmGen s.mem = true) :
    Memory.wf (s.zeroRange pa n).hbmGen (s.zeroRange pa n).mem = true := Memory.wf_filter _ _ _ h

/-- With no uncorrectable word, a write at its home changes the bytes it covers and no other. -/
theorem State.byteAt_poke (s : State) (pa x : Nat) (bs : List Byte) (h : s.badWords = []) :
    (s.poke pa bs).byteAt x = if pa ≤ x ∧ x < pa + bs.length then bs.getD (x - pa) 0 else s.byteAt x := by
  simp only [State.poke, h, List.isEmpty_nil, if_true, State.byteAt]
  split
  · rename_i hx
    have := Memory.read_writes_same s.hbmGen bs s.mem pa (x - pa) (by omega)
    rw [show pa + (x - pa) = x by omega] at this
    rw [this, List.getD_eq_getElem?_getD, List.getElem?_eq_getElem (by omega)]; rfl
  · exact Memory.read_writes_other _ _ _ _ _ (by omega)

end Sys2Proof.Machine
end

