-- ==== Sys2Proof/Laws/State.lean ====
section
/-! SUPPORT. What each update of the state leaves as it was, field by field, and what it reads back. No later proof
unfolds a record update. -/

namespace Sys2Proof.Machine

/-! ### `setCell` -/

@[simp] theorem State.setCell_agenda (s : State) (k : Nat) (c : Cell) : (s.setCell k c).agenda = s.agenda := rfl
@[simp] theorem State.setCell_site (s : State) (k : Nat) (c : Cell) : (s.setCell k c).site = s.site := rfl
@[simp] theorem State.setCell_free (s : State) (k : Nat) (c : Cell) : (s.setCell k c).free = s.free := rfl
@[simp] theorem State.setCell_cycle (s : State) (k : Nat) (c : Cell) : (s.setCell k c).cycle = s.cycle := rfl
@[simp] theorem State.setCell_mem (s : State) (k : Nat) (c : Cell) : (s.setCell k c).mem = s.mem := rfl
@[simp] theorem State.setCell_hbmGen (s : State) (k : Nat) (c : Cell) : (s.setCell k c).hbmGen = s.hbmGen := rfl
@[simp] theorem State.setCell_badWords (s : State) (k : Nat) (c : Cell) : (s.setCell k c).badWords = s.badWords := rfl
@[simp] theorem State.setCell_eccCount (s : State) (k : Nat) (c : Cell) : (s.setCell k c).eccCount = s.eccCount := rfl
@[simp] theorem State.setCell_quads (s : State) (k : Nat) (c : Cell) : (s.setCell k c).quads = s.quads := rfl
@[simp] theorem State.setCell_slots (s : State) (k : Nat) (c : Cell) : (s.setCell k c).slots = s.slots := rfl
@[simp] theorem State.setCell_links (s : State) (k : Nat) (c : Cell) : (s.setCell k c).links = s.links := rfl
@[simp] theorem State.setCell_pairs (s : State) (k : Nat) (c : Cell) : (s.setCell k c).pairs = s.pairs := rfl
@[simp] theorem State.setCell_ports (s : State) (k : Nat) (c : Cell) : (s.setCell k c).ports = s.ports := rfl
@[simp] theorem State.setCell_streams (s : State) (k : Nat) (c : Cell) : (s.setCell k c).streams = s.streams := rfl
@[simp] theorem State.setCell_signals (s : State) (k : Nat) (c : Cell) : (s.setCell k c).signals = s.signals := rfl
@[simp] theorem State.setCell_serial (s : State) (k : Nat) (c : Cell) : (s.setCell k c).serial = s.serial := rfl
@[simp] theorem State.setCell_copyhs (s : State) (k : Nat) (c : Cell) : (s.setCell k c).copyhs = s.copyhs := rfl
@[simp] theorem State.setCell_hostOut (s : State) (k : Nat) (c : Cell) : (s.setCell k c).hostOut = s.hostOut := rfl
@[simp] theorem State.setCell_portOut (s : State) (k : Nat) (c : Cell) : (s.setCell k c).portOut = s.portOut := rfl
@[simp] theorem State.setCell_presence (s : State) (k : Nat) (c : Cell) : (s.setCell k c).presence = s.presence := rfl
@[simp] theorem State.setCell_regions (s : State) (k : Nat) (c : Cell) : (s.setCell k c).regions = s.regions := rfl
@[simp] theorem State.setCell_launches (s : State) (k : Nat) (c : Cell) : (s.setCell k c).launches = s.launches := rfl
@[simp] theorem State.setCell_launchNum (s : State) (k : Nat) (c : Cell) : (s.setCell k c).launchNum = s.launchNum := rfl
@[simp] theorem State.setCell_launchKey (s : State) (k : Nat) (c : Cell) : (s.setCell k c).launchKey = s.launchKey := rfl
@[simp] theorem State.setCell_barriers (s : State) (k : Nat) (c : Cell) : (s.setCell k c).barriers = s.barriers := rfl
@[simp] theorem State.setCell_notices (s : State) (k : Nat) (c : Cell) : (s.setCell k c).notices = s.notices := rfl
@[simp] theorem State.setCell_engines (s : State) (k : Nat) (c : Cell) : (s.setCell k c).engines = s.engines := rfl
@[simp] theorem State.setCell_counters (s : State) (k : Nat) (c : Cell) : (s.setCell k c).counters = s.counters := rfl
@[simp] theorem State.setCell_incs (s : State) (k : Nat) (c : Cell) : (s.setCell k c).incs = s.incs := rfl
@[simp] theorem State.setCell_inWrites (s : State) (k : Nat) (c : Cell) : (s.setCell k c).inWrites = s.inWrites := rfl
@[simp] theorem State.setCell_redWrites (s : State) (k : Nat) (c : Cell) : (s.setCell k c).redWrites = s.redWrites := rfl
@[simp] theorem State.setCell_redHeld (s : State) (k : Nat) (c : Cell) : (s.setCell k c).redHeld = s.redHeld := rfl
@[simp] theorem State.setCell_redNext (s : State) (k : Nat) (c : Cell) : (s.setCell k c).redNext = s.redNext := rfl
@[simp] theorem State.setCell_netNext (s : State) (k : Nat) (c : Cell) : (s.setCell k c).netNext = s.netNext := rfl
@[simp] theorem State.setCell_chunksIn (s : State) (k : Nat) (c : Cell) : (s.setCell k c).chunksIn = s.chunksIn := rfl
@[simp] theorem State.setCell_chunkNext (s : State) (k : Nat) (c : Cell) : (s.setCell k c).chunkNext = s.chunkNext := rfl
@[simp] theorem State.setCell_chunkResp (s : State) (k : Nat) (c : Cell) : (s.setCell k c).chunkResp = s.chunkResp := rfl
@[simp] theorem State.setCell_homeNext (s : State) (k : Nat) (c : Cell) : (s.setCell k c).homeNext = s.homeNext := rfl
@[simp] theorem State.setCell_transfers (s : State) (k : Nat) (c : Cell) : (s.setCell k c).transfers = s.transfers := rfl
@[simp] theorem State.setCell_chunkOut (s : State) (k : Nat) (c : Cell) : (s.setCell k c).chunkOut = s.chunkOut := rfl
@[simp] theorem State.setCell_chunkLast (s : State) (k : Nat) (c : Cell) : (s.setCell k c).chunkLast = s.chunkLast := rfl
@[simp] theorem State.setCell_netOut (s : State) (k : Nat) (c : Cell) : (s.setCell k c).netOut = s.netOut := rfl
@[simp] theorem State.setCell_unreached (s : State) (k : Nat) (c : Cell) : (s.setCell k c).unreached = s.unreached := rfl
@[simp] theorem State.setCell_parkedIn (s : State) (k : Nat) (c : Cell) : (s.setCell k c).parkedIn = s.parkedIn := rfl
@[simp] theorem State.setCell_parkedRed (s : State) (k : Nat) (c : Cell) : (s.setCell k c).parkedRed = s.parkedRed := rfl
@[simp] theorem State.setCell_members (s : State) (k : Nat) (c : Cell) : (s.setCell k c).members = s.members := rfl
@[simp] theorem State.setCell_xslots (s : State) (k : Nat) (c : Cell) : (s.setCell k c).xslots = s.xslots := rfl
@[simp] theorem State.setCell_xmsgs (s : State) (k : Nat) (c : Cell) : (s.setCell k c).xmsgs = s.xmsgs := rfl
@[simp] theorem State.setCell_xnet (s : State) (k : Nat) (c : Cell) : (s.setCell k c).xnet = s.xnet := rfl
@[simp] theorem State.setCell_asks (s : State) (k : Nat) (c : Cell) : (s.setCell k c).asks = s.asks := rfl
@[simp] theorem State.setCell_replicas (s : State) (k : Nat) (c : Cell) : (s.setCell k c).replicas = s.replicas := rfl
@[simp] theorem State.setCell_replNum (s : State) (k : Nat) (c : Cell) : (s.setCell k c).replNum = s.replNum := rfl
@[simp] theorem State.setCell_replWait (s : State) (k : Nat) (c : Cell) : (s.setCell k c).replWait = s.replWait := rfl
@[simp] theorem State.setCell_leases (s : State) (k : Nat) (c : Cell) : (s.setCell k c).leases = s.leases := rfl
@[simp] theorem State.setCell_holds (s : State) (k : Nat) (c : Cell) : (s.setCell k c).holds = s.holds := rfl
@[simp] theorem State.setCell_resyncs (s : State) (k : Nat) (c : Cell) : (s.setCell k c).resyncs = s.resyncs := rfl
@[simp] theorem State.setCell_xlV (s : State) (k : Nat) (c : Cell) : (s.setCell k c).xlV = s.xlV := rfl
@[simp] theorem State.setCell_xlRoot (s : State) (k : Nat) (c : Cell) : (s.setCell k c).xlRoot = s.xlRoot := rfl
@[simp] theorem State.setCell_walks (s : State) (k : Nat) (c : Cell) : (s.setCell k c).walks = s.walks := rfl
@[simp] theorem State.setCell_dieTlb (s : State) (k : Nat) (c : Cell) : (s.setCell k c).dieTlb = s.dieTlb := rfl
@[simp] theorem State.setCell_walkNow (s : State) (k : Nat) (c : Cell) : (s.setCell k c).walkNow = s.walkNow := rfl
@[simp] theorem State.setCell_boxes (s : State) (k : Nat) (c : Cell) : (s.setCell k c).boxes = s.boxes := rfl
@[simp] theorem State.setCell_hashReqs (s : State) (k : Nat) (c : Cell) : (s.setCell k c).hashReqs = s.hashReqs := rfl
@[simp] theorem State.setCell_oosDies (s : State) (k : Nat) (c : Cell) : (s.setCell k c).oosDies = s.oosDies := rfl
@[simp] theorem State.setCell_pkgId (s : State) (k : Nat) (c : Cell) : (s.setCell k c).pkgId = s.pkgId := rfl
@[simp] theorem State.setCell_resets (s : State) (k : Nat) (c : Cell) : (s.setCell k c).resets = s.resets := rfl
@[simp] theorem State.setCell_bringUp (s : State) (k : Nat) (c : Cell) : (s.setCell k c).bringUp = s.bringUp := rfl
@[simp] theorem State.setCell_powerHold (s : State) (k : Nat) (c : Cell) : (s.setCell k c).powerHold = s.powerHold := rfl
@[simp] theorem State.setCell_budgetAt (s : State) (k : Nat) (c : Cell) : (s.setCell k c).budgetAt = s.budgetAt := rfl
@[simp] theorem State.setCell_running (s : State) (k : Nat) (c : Cell) : (s.setCell k c).running = s.running := rfl
@[simp] theorem State.setCell_pending (s : State) (k : Nat) (c : Cell) : (s.setCell k c).pending = s.pending := rfl

/-! ### `modCell` -/

@[simp] theorem State.modCell_agenda (s : State) (k : Nat) (f : Cell → Cell) : (s.modCell k f).agenda = s.agenda := rfl
@[simp] theorem State.modCell_site (s : State) (k : Nat) (f : Cell → Cell) : (s.modCell k f).site = s.site := rfl
@[simp] theorem State.modCell_free (s : State) (k : Nat) (f : Cell → Cell) : (s.modCell k f).free = s.free := rfl
@[simp] theorem State.modCell_cycle (s : State) (k : Nat) (f : Cell → Cell) : (s.modCell k f).cycle = s.cycle := rfl
@[simp] theorem State.modCell_mem (s : State) (k : Nat) (f : Cell → Cell) : (s.modCell k f).mem = s.mem := rfl
@[simp] theorem State.modCell_hbmGen (s : State) (k : Nat) (f : Cell → Cell) : (s.modCell k f).hbmGen = s.hbmGen := rfl
@[simp] theorem State.modCell_badWords (s : State) (k : Nat) (f : Cell → Cell) : (s.modCell k f).badWords = s.badWords := rfl
@[simp] theorem State.modCell_eccCount (s : State) (k : Nat) (f : Cell → Cell) : (s.modCell k f).eccCount = s.eccCount := rfl
@[simp] theorem State.modCell_quads (s : State) (k : Nat) (f : Cell → Cell) : (s.modCell k f).quads = s.quads := rfl
@[simp] theorem State.modCell_slots (s : State) (k : Nat) (f : Cell → Cell) : (s.modCell k f).slots = s.slots := rfl
@[simp] theorem State.modCell_links (s : State) (k : Nat) (f : Cell → Cell) : (s.modCell k f).links = s.links := rfl
@[simp] theorem State.modCell_pairs (s : State) (k : Nat) (f : Cell → Cell) : (s.modCell k f).pairs = s.pairs := rfl
@[simp] theorem State.modCell_ports (s : State) (k : Nat) (f : Cell → Cell) : (s.modCell k f).ports = s.ports := rfl
@[simp] theorem State.modCell_streams (s : State) (k : Nat) (f : Cell → Cell) : (s.modCell k f).streams = s.streams := rfl
@[simp] theorem State.modCell_signals (s : State) (k : Nat) (f : Cell → Cell) : (s.modCell k f).signals = s.signals := rfl
@[simp] theorem State.modCell_serial (s : State) (k : Nat) (f : Cell → Cell) : (s.modCell k f).serial = s.serial := rfl
@[simp] theorem State.modCell_copyhs (s : State) (k : Nat) (f : Cell → Cell) : (s.modCell k f).copyhs = s.copyhs := rfl
@[simp] theorem State.modCell_hostOut (s : State) (k : Nat) (f : Cell → Cell) : (s.modCell k f).hostOut = s.hostOut := rfl
@[simp] theorem State.modCell_portOut (s : State) (k : Nat) (f : Cell → Cell) : (s.modCell k f).portOut = s.portOut := rfl
@[simp] theorem State.modCell_presence (s : State) (k : Nat) (f : Cell → Cell) : (s.modCell k f).presence = s.presence := rfl
@[simp] theorem State.modCell_regions (s : State) (k : Nat) (f : Cell → Cell) : (s.modCell k f).regions = s.regions := rfl
@[simp] theorem State.modCell_launches (s : State) (k : Nat) (f : Cell → Cell) : (s.modCell k f).launches = s.launches := rfl
@[simp] theorem State.modCell_launchNum (s : State) (k : Nat) (f : Cell → Cell) : (s.modCell k f).launchNum = s.launchNum := rfl
@[simp] theorem State.modCell_launchKey (s : State) (k : Nat) (f : Cell → Cell) : (s.modCell k f).launchKey = s.launchKey := rfl
@[simp] theorem State.modCell_barriers (s : State) (k : Nat) (f : Cell → Cell) : (s.modCell k f).barriers = s.barriers := rfl
@[simp] theorem State.modCell_notices (s : State) (k : Nat) (f : Cell → Cell) : (s.modCell k f).notices = s.notices := rfl
@[simp] theorem State.modCell_engines (s : State) (k : Nat) (f : Cell → Cell) : (s.modCell k f).engines = s.engines := rfl
@[simp] theorem State.modCell_counters (s : State) (k : Nat) (f : Cell → Cell) : (s.modCell k f).counters = s.counters := rfl
@[simp] theorem State.modCell_incs (s : State) (k : Nat) (f : Cell → Cell) : (s.modCell k f).incs = s.incs := rfl
@[simp] theorem State.modCell_inWrites (s : State) (k : Nat) (f : Cell → Cell) : (s.modCell k f).inWrites = s.inWrites := rfl
@[simp] theorem State.modCell_redWrites (s : State) (k : Nat) (f : Cell → Cell) : (s.modCell k f).redWrites = s.redWrites := rfl
@[simp] theorem State.modCell_redHeld (s : State) (k : Nat) (f : Cell → Cell) : (s.modCell k f).redHeld = s.redHeld := rfl
@[simp] theorem State.modCell_redNext (s : State) (k : Nat) (f : Cell → Cell) : (s.modCell k f).redNext = s.redNext := rfl
@[simp] theorem State.modCell_netNext (s : State) (k : Nat) (f : Cell → Cell) : (s.modCell k f).netNext = s.netNext := rfl
@[simp] theorem State.modCell_chunksIn (s : State) (k : Nat) (f : Cell → Cell) : (s.modCell k f).chunksIn = s.chunksIn := rfl
@[simp] theorem State.modCell_chunkNext (s : State) (k : Nat) (f : Cell → Cell) : (s.modCell k f).chunkNext = s.chunkNext := rfl
@[simp] theorem State.modCell_chunkResp (s : State) (k : Nat) (f : Cell → Cell) : (s.modCell k f).chunkResp = s.chunkResp := rfl
@[simp] theorem State.modCell_homeNext (s : State) (k : Nat) (f : Cell → Cell) : (s.modCell k f).homeNext = s.homeNext := rfl
@[simp] theorem State.modCell_transfers (s : State) (k : Nat) (f : Cell → Cell) : (s.modCell k f).transfers = s.transfers := rfl
@[simp] theorem State.modCell_chunkOut (s : State) (k : Nat) (f : Cell → Cell) : (s.modCell k f).chunkOut = s.chunkOut := rfl
@[simp] theorem State.modCell_chunkLast (s : State) (k : Nat) (f : Cell → Cell) : (s.modCell k f).chunkLast = s.chunkLast := rfl
@[simp] theorem State.modCell_netOut (s : State) (k : Nat) (f : Cell → Cell) : (s.modCell k f).netOut = s.netOut := rfl
@[simp] theorem State.modCell_unreached (s : State) (k : Nat) (f : Cell → Cell) : (s.modCell k f).unreached = s.unreached := rfl
@[simp] theorem State.modCell_parkedIn (s : State) (k : Nat) (f : Cell → Cell) : (s.modCell k f).parkedIn = s.parkedIn := rfl
@[simp] theorem State.modCell_parkedRed (s : State) (k : Nat) (f : Cell → Cell) : (s.modCell k f).parkedRed = s.parkedRed := rfl
@[simp] theorem State.modCell_members (s : State) (k : Nat) (f : Cell → Cell) : (s.modCell k f).members = s.members := rfl
@[simp] theorem State.modCell_xslots (s : State) (k : Nat) (f : Cell → Cell) : (s.modCell k f).xslots = s.xslots := rfl
@[simp] theorem State.modCell_xmsgs (s : State) (k : Nat) (f : Cell → Cell) : (s.modCell k f).xmsgs = s.xmsgs := rfl
@[simp] theorem State.modCell_xnet (s : State) (k : Nat) (f : Cell → Cell) : (s.modCell k f).xnet = s.xnet := rfl
@[simp] theorem State.modCell_asks (s : State) (k : Nat) (f : Cell → Cell) : (s.modCell k f).asks = s.asks := rfl
@[simp] theorem State.modCell_replicas (s : State) (k : Nat) (f : Cell → Cell) : (s.modCell k f).replicas = s.replicas := rfl
@[simp] theorem State.modCell_replNum (s : State) (k : Nat) (f : Cell → Cell) : (s.modCell k f).replNum = s.replNum := rfl
@[simp] theorem State.modCell_replWait (s : State) (k : Nat) (f : Cell → Cell) : (s.modCell k f).replWait = s.replWait := rfl
@[simp] theorem State.modCell_leases (s : State) (k : Nat) (f : Cell → Cell) : (s.modCell k f).leases = s.leases := rfl
@[simp] theorem State.modCell_holds (s : State) (k : Nat) (f : Cell → Cell) : (s.modCell k f).holds = s.holds := rfl
@[simp] theorem State.modCell_resyncs (s : State) (k : Nat) (f : Cell → Cell) : (s.modCell k f).resyncs = s.resyncs := rfl
@[simp] theorem State.modCell_xlV (s : State) (k : Nat) (f : Cell → Cell) : (s.modCell k f).xlV = s.xlV := rfl
@[simp] theorem State.modCell_xlRoot (s : State) (k : Nat) (f : Cell → Cell) : (s.modCell k f).xlRoot = s.xlRoot := rfl
@[simp] theorem State.modCell_walks (s : State) (k : Nat) (f : Cell → Cell) : (s.modCell k f).walks = s.walks := rfl
@[simp] theorem State.modCell_dieTlb (s : State) (k : Nat) (f : Cell → Cell) : (s.modCell k f).dieTlb = s.dieTlb := rfl
@[simp] theorem State.modCell_walkNow (s : State) (k : Nat) (f : Cell → Cell) : (s.modCell k f).walkNow = s.walkNow := rfl
@[simp] theorem State.modCell_boxes (s : State) (k : Nat) (f : Cell → Cell) : (s.modCell k f).boxes = s.boxes := rfl
@[simp] theorem State.modCell_hashReqs (s : State) (k : Nat) (f : Cell → Cell) : (s.modCell k f).hashReqs = s.hashReqs := rfl
@[simp] theorem State.modCell_oosDies (s : State) (k : Nat) (f : Cell → Cell) : (s.modCell k f).oosDies = s.oosDies := rfl
@[simp] theorem State.modCell_pkgId (s : State) (k : Nat) (f : Cell → Cell) : (s.modCell k f).pkgId = s.pkgId := rfl
@[simp] theorem State.modCell_resets (s : State) (k : Nat) (f : Cell → Cell) : (s.modCell k f).resets = s.resets := rfl
@[simp] theorem State.modCell_bringUp (s : State) (k : Nat) (f : Cell → Cell) : (s.modCell k f).bringUp = s.bringUp := rfl
@[simp] theorem State.modCell_powerHold (s : State) (k : Nat) (f : Cell → Cell) : (s.modCell k f).powerHold = s.powerHold := rfl
@[simp] theorem State.modCell_budgetAt (s : State) (k : Nat) (f : Cell → Cell) : (s.modCell k f).budgetAt = s.budgetAt := rfl
@[simp] theorem State.modCell_running (s : State) (k : Nat) (f : Cell → Cell) : (s.modCell k f).running = s.running := rfl
@[simp] theorem State.modCell_pending (s : State) (k : Nat) (f : Cell → Cell) : (s.modCell k f).pending = s.pending := rfl

/-! ### `modSeqOf` -/

@[simp] theorem State.modSeqOf_agenda (s : State) (k : Nat) (q : SeqId) (f : Seq → Seq) : (s.modSeqOf k q f).agenda = s.agenda := rfl
@[simp] theorem State.modSeqOf_site (s : State) (k : Nat) (q : SeqId) (f : Seq → Seq) : (s.modSeqOf k q f).site = s.site := rfl
@[simp] theorem State.modSeqOf_free (s : State) (k : Nat) (q : SeqId) (f : Seq → Seq) : (s.modSeqOf k q f).free = s.free := rfl
@[simp] theorem State.modSeqOf_cycle (s : State) (k : Nat) (q : SeqId) (f : Seq → Seq) : (s.modSeqOf k q f).cycle = s.cycle := rfl
@[simp] theorem State.modSeqOf_mem (s : State) (k : Nat) (q : SeqId) (f : Seq → Seq) : (s.modSeqOf k q f).mem = s.mem := rfl
@[simp] theorem State.modSeqOf_hbmGen (s : State) (k : Nat) (q : SeqId) (f : Seq → Seq) : (s.modSeqOf k q f).hbmGen = s.hbmGen := rfl
@[simp] theorem State.modSeqOf_badWords (s : State) (k : Nat) (q : SeqId) (f : Seq → Seq) : (s.modSeqOf k q f).badWords = s.badWords := rfl
@[simp] theorem State.modSeqOf_eccCount (s : State) (k : Nat) (q : SeqId) (f : Seq → Seq) : (s.modSeqOf k q f).eccCount = s.eccCount := rfl
@[simp] theorem State.modSeqOf_quads (s : State) (k : Nat) (q : SeqId) (f : Seq → Seq) : (s.modSeqOf k q f).quads = s.quads := rfl
@[simp] theorem State.modSeqOf_slots (s : State) (k : Nat) (q : SeqId) (f : Seq → Seq) : (s.modSeqOf k q f).slots = s.slots := rfl
@[simp] theorem State.modSeqOf_links (s : State) (k : Nat) (q : SeqId) (f : Seq → Seq) : (s.modSeqOf k q f).links = s.links := rfl
@[simp] theorem State.modSeqOf_pairs (s : State) (k : Nat) (q : SeqId) (f : Seq → Seq) : (s.modSeqOf k q f).pairs = s.pairs := rfl
@[simp] theorem State.modSeqOf_ports (s : State) (k : Nat) (q : SeqId) (f : Seq → Seq) : (s.modSeqOf k q f).ports = s.ports := rfl
@[simp] theorem State.modSeqOf_streams (s : State) (k : Nat) (q : SeqId) (f : Seq → Seq) : (s.modSeqOf k q f).streams = s.streams := rfl
@[simp] theorem State.modSeqOf_signals (s : State) (k : Nat) (q : SeqId) (f : Seq → Seq) : (s.modSeqOf k q f).signals = s.signals := rfl
@[simp] theorem State.modSeqOf_serial (s : State) (k : Nat) (q : SeqId) (f : Seq → Seq) : (s.modSeqOf k q f).serial = s.serial := rfl
@[simp] theorem State.modSeqOf_copyhs (s : State) (k : Nat) (q : SeqId) (f : Seq → Seq) : (s.modSeqOf k q f).copyhs = s.copyhs := rfl
@[simp] theorem State.modSeqOf_hostOut (s : State) (k : Nat) (q : SeqId) (f : Seq → Seq) : (s.modSeqOf k q f).hostOut = s.hostOut := rfl
@[simp] theorem State.modSeqOf_portOut (s : State) (k : Nat) (q : SeqId) (f : Seq → Seq) : (s.modSeqOf k q f).portOut = s.portOut := rfl
@[simp] theorem State.modSeqOf_presence (s : State) (k : Nat) (q : SeqId) (f : Seq → Seq) : (s.modSeqOf k q f).presence = s.presence := rfl
@[simp] theorem State.modSeqOf_regions (s : State) (k : Nat) (q : SeqId) (f : Seq → Seq) : (s.modSeqOf k q f).regions = s.regions := rfl
@[simp] theorem State.modSeqOf_launches (s : State) (k : Nat) (q : SeqId) (f : Seq → Seq) : (s.modSeqOf k q f).launches = s.launches := rfl
@[simp] theorem State.modSeqOf_launchNum (s : State) (k : Nat) (q : SeqId) (f : Seq → Seq) : (s.modSeqOf k q f).launchNum = s.launchNum := rfl
@[simp] theorem State.modSeqOf_launchKey (s : State) (k : Nat) (q : SeqId) (f : Seq → Seq) : (s.modSeqOf k q f).launchKey = s.launchKey := rfl
@[simp] theorem State.modSeqOf_barriers (s : State) (k : Nat) (q : SeqId) (f : Seq → Seq) : (s.modSeqOf k q f).barriers = s.barriers := rfl
@[simp] theorem State.modSeqOf_notices (s : State) (k : Nat) (q : SeqId) (f : Seq → Seq) : (s.modSeqOf k q f).notices = s.notices := rfl
@[simp] theorem State.modSeqOf_engines (s : State) (k : Nat) (q : SeqId) (f : Seq → Seq) : (s.modSeqOf k q f).engines = s.engines := rfl
@[simp] theorem State.modSeqOf_counters (s : State) (k : Nat) (q : SeqId) (f : Seq → Seq) : (s.modSeqOf k q f).counters = s.counters := rfl
@[simp] theorem State.modSeqOf_incs (s : State) (k : Nat) (q : SeqId) (f : Seq → Seq) : (s.modSeqOf k q f).incs = s.incs := rfl
@[simp] theorem State.modSeqOf_inWrites (s : State) (k : Nat) (q : SeqId) (f : Seq → Seq) : (s.modSeqOf k q f).inWrites = s.inWrites := rfl
@[simp] theorem State.modSeqOf_redWrites (s : State) (k : Nat) (q : SeqId) (f : Seq → Seq) : (s.modSeqOf k q f).redWrites = s.redWrites := rfl
@[simp] theorem State.modSeqOf_redHeld (s : State) (k : Nat) (q : SeqId) (f : Seq → Seq) : (s.modSeqOf k q f).redHeld = s.redHeld := rfl
@[simp] theorem State.modSeqOf_redNext (s : State) (k : Nat) (q : SeqId) (f : Seq → Seq) : (s.modSeqOf k q f).redNext = s.redNext := rfl
@[simp] theorem State.modSeqOf_netNext (s : State) (k : Nat) (q : SeqId) (f : Seq → Seq) : (s.modSeqOf k q f).netNext = s.netNext := rfl
@[simp] theorem State.modSeqOf_chunksIn (s : State) (k : Nat) (q : SeqId) (f : Seq → Seq) : (s.modSeqOf k q f).chunksIn = s.chunksIn := rfl
@[simp] theorem State.modSeqOf_chunkNext (s : State) (k : Nat) (q : SeqId) (f : Seq → Seq) : (s.modSeqOf k q f).chunkNext = s.chunkNext := rfl
@[simp] theorem State.modSeqOf_chunkResp (s : State) (k : Nat) (q : SeqId) (f : Seq → Seq) : (s.modSeqOf k q f).chunkResp = s.chunkResp := rfl
@[simp] theorem State.modSeqOf_homeNext (s : State) (k : Nat) (q : SeqId) (f : Seq → Seq) : (s.modSeqOf k q f).homeNext = s.homeNext := rfl
@[simp] theorem State.modSeqOf_transfers (s : State) (k : Nat) (q : SeqId) (f : Seq → Seq) : (s.modSeqOf k q f).transfers = s.transfers := rfl
@[simp] theorem State.modSeqOf_chunkOut (s : State) (k : Nat) (q : SeqId) (f : Seq → Seq) : (s.modSeqOf k q f).chunkOut = s.chunkOut := rfl
@[simp] theorem State.modSeqOf_chunkLast (s : State) (k : Nat) (q : SeqId) (f : Seq → Seq) : (s.modSeqOf k q f).chunkLast = s.chunkLast := rfl
@[simp] theorem State.modSeqOf_netOut (s : State) (k : Nat) (q : SeqId) (f : Seq → Seq) : (s.modSeqOf k q f).netOut = s.netOut := rfl
@[simp] theorem State.modSeqOf_unreached (s : State) (k : Nat) (q : SeqId) (f : Seq → Seq) : (s.modSeqOf k q f).unreached = s.unreached := rfl
@[simp] theorem State.modSeqOf_parkedIn (s : State) (k : Nat) (q : SeqId) (f : Seq → Seq) : (s.modSeqOf k q f).parkedIn = s.parkedIn := rfl
@[simp] theorem State.modSeqOf_parkedRed (s : State) (k : Nat) (q : SeqId) (f : Seq → Seq) : (s.modSeqOf k q f).parkedRed = s.parkedRed := rfl
@[simp] theorem State.modSeqOf_members (s : State) (k : Nat) (q : SeqId) (f : Seq → Seq) : (s.modSeqOf k q f).members = s.members := rfl
@[simp] theorem State.modSeqOf_xslots (s : State) (k : Nat) (q : SeqId) (f : Seq → Seq) : (s.modSeqOf k q f).xslots = s.xslots := rfl
@[simp] theorem State.modSeqOf_xmsgs (s : State) (k : Nat) (q : SeqId) (f : Seq → Seq) : (s.modSeqOf k q f).xmsgs = s.xmsgs := rfl
@[simp] theorem State.modSeqOf_xnet (s : State) (k : Nat) (q : SeqId) (f : Seq → Seq) : (s.modSeqOf k q f).xnet = s.xnet := rfl
@[simp] theorem State.modSeqOf_asks (s : State) (k : Nat) (q : SeqId) (f : Seq → Seq) : (s.modSeqOf k q f).asks = s.asks := rfl
@[simp] theorem State.modSeqOf_replicas (s : State) (k : Nat) (q : SeqId) (f : Seq → Seq) : (s.modSeqOf k q f).replicas = s.replicas := rfl
@[simp] theorem State.modSeqOf_replNum (s : State) (k : Nat) (q : SeqId) (f : Seq → Seq) : (s.modSeqOf k q f).replNum = s.replNum := rfl
@[simp] theorem State.modSeqOf_replWait (s : State) (k : Nat) (q : SeqId) (f : Seq → Seq) : (s.modSeqOf k q f).replWait = s.replWait := rfl
@[simp] theorem State.modSeqOf_leases (s : State) (k : Nat) (q : SeqId) (f : Seq → Seq) : (s.modSeqOf k q f).leases = s.leases := rfl
@[simp] theorem State.modSeqOf_holds (s : State) (k : Nat) (q : SeqId) (f : Seq → Seq) : (s.modSeqOf k q f).holds = s.holds := rfl
@[simp] theorem State.modSeqOf_resyncs (s : State) (k : Nat) (q : SeqId) (f : Seq → Seq) : (s.modSeqOf k q f).resyncs = s.resyncs := rfl
@[simp] theorem State.modSeqOf_xlV (s : State) (k : Nat) (q : SeqId) (f : Seq → Seq) : (s.modSeqOf k q f).xlV = s.xlV := rfl
@[simp] theorem State.modSeqOf_xlRoot (s : State) (k : Nat) (q : SeqId) (f : Seq → Seq) : (s.modSeqOf k q f).xlRoot = s.xlRoot := rfl
@[simp] theorem State.modSeqOf_walks (s : State) (k : Nat) (q : SeqId) (f : Seq → Seq) : (s.modSeqOf k q f).walks = s.walks := rfl
@[simp] theorem State.modSeqOf_dieTlb (s : State) (k : Nat) (q : SeqId) (f : Seq → Seq) : (s.modSeqOf k q f).dieTlb = s.dieTlb := rfl
@[simp] theorem State.modSeqOf_walkNow (s : State) (k : Nat) (q : SeqId) (f : Seq → Seq) : (s.modSeqOf k q f).walkNow = s.walkNow := rfl
@[simp] theorem State.modSeqOf_boxes (s : State) (k : Nat) (q : SeqId) (f : Seq → Seq) : (s.modSeqOf k q f).boxes = s.boxes := rfl
@[simp] theorem State.modSeqOf_hashReqs (s : State) (k : Nat) (q : SeqId) (f : Seq → Seq) : (s.modSeqOf k q f).hashReqs = s.hashReqs := rfl
@[simp] theorem State.modSeqOf_oosDies (s : State) (k : Nat) (q : SeqId) (f : Seq → Seq) : (s.modSeqOf k q f).oosDies = s.oosDies := rfl
@[simp] theorem State.modSeqOf_pkgId (s : State) (k : Nat) (q : SeqId) (f : Seq → Seq) : (s.modSeqOf k q f).pkgId = s.pkgId := rfl
@[simp] theorem State.modSeqOf_resets (s : State) (k : Nat) (q : SeqId) (f : Seq → Seq) : (s.modSeqOf k q f).resets = s.resets := rfl
@[simp] theorem State.modSeqOf_bringUp (s : State) (k : Nat) (q : SeqId) (f : Seq → Seq) : (s.modSeqOf k q f).bringUp = s.bringUp := rfl
@[simp] theorem State.modSeqOf_powerHold (s : State) (k : Nat) (q : SeqId) (f : Seq → Seq) : (s.modSeqOf k q f).powerHold = s.powerHold := rfl
@[simp] theorem State.modSeqOf_budgetAt (s : State) (k : Nat) (q : SeqId) (f : Seq → Seq) : (s.modSeqOf k q f).budgetAt = s.budgetAt := rfl
@[simp] theorem State.modSeqOf_running (s : State) (k : Nat) (q : SeqId) (f : Seq → Seq) : (s.modSeqOf k q f).running = s.running := rfl
@[simp] theorem State.modSeqOf_pending (s : State) (k : Nat) (q : SeqId) (f : Seq → Seq) : (s.modSeqOf k q f).pending = s.pending := rfl

/-! ### `modSeq` -/

@[simp] theorem State.modSeq_agenda (s : State) (f : Seq → Seq) : (s.modSeq f).agenda = s.agenda := rfl
@[simp] theorem State.modSeq_site (s : State) (f : Seq → Seq) : (s.modSeq f).site = s.site := rfl
@[simp] theorem State.modSeq_free (s : State) (f : Seq → Seq) : (s.modSeq f).free = s.free := rfl
@[simp] theorem State.modSeq_cycle (s : State) (f : Seq → Seq) : (s.modSeq f).cycle = s.cycle := rfl
@[simp] theorem State.modSeq_mem (s : State) (f : Seq → Seq) : (s.modSeq f).mem = s.mem := rfl
@[simp] theorem State.modSeq_hbmGen (s : State) (f : Seq → Seq) : (s.modSeq f).hbmGen = s.hbmGen := rfl
@[simp] theorem State.modSeq_badWords (s : State) (f : Seq → Seq) : (s.modSeq f).badWords = s.badWords := rfl
@[simp] theorem State.modSeq_eccCount (s : State) (f : Seq → Seq) : (s.modSeq f).eccCount = s.eccCount := rfl
@[simp] theorem State.modSeq_quads (s : State) (f : Seq → Seq) : (s.modSeq f).quads = s.quads := rfl
@[simp] theorem State.modSeq_slots (s : State) (f : Seq → Seq) : (s.modSeq f).slots = s.slots := rfl
@[simp] theorem State.modSeq_links (s : State) (f : Seq → Seq) : (s.modSeq f).links = s.links := rfl
@[simp] theorem State.modSeq_pairs (s : State) (f : Seq → Seq) : (s.modSeq f).pairs = s.pairs := rfl
@[simp] theorem State.modSeq_ports (s : State) (f : Seq → Seq) : (s.modSeq f).ports = s.ports := rfl
@[simp] theorem State.modSeq_streams (s : State) (f : Seq → Seq) : (s.modSeq f).streams = s.streams := rfl
@[simp] theorem State.modSeq_signals (s : State) (f : Seq → Seq) : (s.modSeq f).signals = s.signals := rfl
@[simp] theorem State.modSeq_serial (s : State) (f : Seq → Seq) : (s.modSeq f).serial = s.serial := rfl
@[simp] theorem State.modSeq_copyhs (s : State) (f : Seq → Seq) : (s.modSeq f).copyhs = s.copyhs := rfl
@[simp] theorem State.modSeq_hostOut (s : State) (f : Seq → Seq) : (s.modSeq f).hostOut = s.hostOut := rfl
@[simp] theorem State.modSeq_portOut (s : State) (f : Seq → Seq) : (s.modSeq f).portOut = s.portOut := rfl
@[simp] theorem State.modSeq_presence (s : State) (f : Seq → Seq) : (s.modSeq f).presence = s.presence := rfl
@[simp] theorem State.modSeq_regions (s : State) (f : Seq → Seq) : (s.modSeq f).regions = s.regions := rfl
@[simp] theorem State.modSeq_launches (s : State) (f : Seq → Seq) : (s.modSeq f).launches = s.launches := rfl
@[simp] theorem State.modSeq_launchNum (s : State) (f : Seq → Seq) : (s.modSeq f).launchNum = s.launchNum := rfl
@[simp] theorem State.modSeq_launchKey (s : State) (f : Seq → Seq) : (s.modSeq f).launchKey = s.launchKey := rfl
@[simp] theorem State.modSeq_barriers (s : State) (f : Seq → Seq) : (s.modSeq f).barriers = s.barriers := rfl
@[simp] theorem State.modSeq_notices (s : State) (f : Seq → Seq) : (s.modSeq f).notices = s.notices := rfl
@[simp] theorem State.modSeq_engines (s : State) (f : Seq → Seq) : (s.modSeq f).engines = s.engines := rfl
@[simp] theorem State.modSeq_counters (s : State) (f : Seq → Seq) : (s.modSeq f).counters = s.counters := rfl
@[simp] theorem State.modSeq_incs (s : State) (f : Seq → Seq) : (s.modSeq f).incs = s.incs := rfl
@[simp] theorem State.modSeq_inWrites (s : State) (f : Seq → Seq) : (s.modSeq f).inWrites = s.inWrites := rfl
@[simp] theorem State.modSeq_redWrites (s : State) (f : Seq → Seq) : (s.modSeq f).redWrites = s.redWrites := rfl
@[simp] theorem State.modSeq_redHeld (s : State) (f : Seq → Seq) : (s.modSeq f).redHeld = s.redHeld := rfl
@[simp] theorem State.modSeq_redNext (s : State) (f : Seq → Seq) : (s.modSeq f).redNext = s.redNext := rfl
@[simp] theorem State.modSeq_netNext (s : State) (f : Seq → Seq) : (s.modSeq f).netNext = s.netNext := rfl
@[simp] theorem State.modSeq_chunksIn (s : State) (f : Seq → Seq) : (s.modSeq f).chunksIn = s.chunksIn := rfl
@[simp] theorem State.modSeq_chunkNext (s : State) (f : Seq → Seq) : (s.modSeq f).chunkNext = s.chunkNext := rfl
@[simp] theorem State.modSeq_chunkResp (s : State) (f : Seq → Seq) : (s.modSeq f).chunkResp = s.chunkResp := rfl
@[simp] theorem State.modSeq_homeNext (s : State) (f : Seq → Seq) : (s.modSeq f).homeNext = s.homeNext := rfl
@[simp] theorem State.modSeq_transfers (s : State) (f : Seq → Seq) : (s.modSeq f).transfers = s.transfers := rfl
@[simp] theorem State.modSeq_chunkOut (s : State) (f : Seq → Seq) : (s.modSeq f).chunkOut = s.chunkOut := rfl
@[simp] theorem State.modSeq_chunkLast (s : State) (f : Seq → Seq) : (s.modSeq f).chunkLast = s.chunkLast := rfl
@[simp] theorem State.modSeq_netOut (s : State) (f : Seq → Seq) : (s.modSeq f).netOut = s.netOut := rfl
@[simp] theorem State.modSeq_unreached (s : State) (f : Seq → Seq) : (s.modSeq f).unreached = s.unreached := rfl
@[simp] theorem State.modSeq_parkedIn (s : State) (f : Seq → Seq) : (s.modSeq f).parkedIn = s.parkedIn := rfl
@[simp] theorem State.modSeq_parkedRed (s : State) (f : Seq → Seq) : (s.modSeq f).parkedRed = s.parkedRed := rfl
@[simp] theorem State.modSeq_members (s : State) (f : Seq → Seq) : (s.modSeq f).members = s.members := rfl
@[simp] theorem State.modSeq_xslots (s : State) (f : Seq → Seq) : (s.modSeq f).xslots = s.xslots := rfl
@[simp] theorem State.modSeq_xmsgs (s : State) (f : Seq → Seq) : (s.modSeq f).xmsgs = s.xmsgs := rfl
@[simp] theorem State.modSeq_xnet (s : State) (f : Seq → Seq) : (s.modSeq f).xnet = s.xnet := rfl
@[simp] theorem State.modSeq_asks (s : State) (f : Seq → Seq) : (s.modSeq f).asks = s.asks := rfl
@[simp] theorem State.modSeq_replicas (s : State) (f : Seq → Seq) : (s.modSeq f).replicas = s.replicas := rfl
@[simp] theorem State.modSeq_replNum (s : State) (f : Seq → Seq) : (s.modSeq f).replNum = s.replNum := rfl
@[simp] theorem State.modSeq_replWait (s : State) (f : Seq → Seq) : (s.modSeq f).replWait = s.replWait := rfl
@[simp] theorem State.modSeq_leases (s : State) (f : Seq → Seq) : (s.modSeq f).leases = s.leases := rfl
@[simp] theorem State.modSeq_holds (s : State) (f : Seq → Seq) : (s.modSeq f).holds = s.holds := rfl
@[simp] theorem State.modSeq_resyncs (s : State) (f : Seq → Seq) : (s.modSeq f).resyncs = s.resyncs := rfl
@[simp] theorem State.modSeq_xlV (s : State) (f : Seq → Seq) : (s.modSeq f).xlV = s.xlV := rfl
@[simp] theorem State.modSeq_xlRoot (s : State) (f : Seq → Seq) : (s.modSeq f).xlRoot = s.xlRoot := rfl
@[simp] theorem State.modSeq_walks (s : State) (f : Seq → Seq) : (s.modSeq f).walks = s.walks := rfl
@[simp] theorem State.modSeq_dieTlb (s : State) (f : Seq → Seq) : (s.modSeq f).dieTlb = s.dieTlb := rfl
@[simp] theorem State.modSeq_walkNow (s : State) (f : Seq → Seq) : (s.modSeq f).walkNow = s.walkNow := rfl
@[simp] theorem State.modSeq_boxes (s : State) (f : Seq → Seq) : (s.modSeq f).boxes = s.boxes := rfl
@[simp] theorem State.modSeq_hashReqs (s : State) (f : Seq → Seq) : (s.modSeq f).hashReqs = s.hashReqs := rfl
@[simp] theorem State.modSeq_oosDies (s : State) (f : Seq → Seq) : (s.modSeq f).oosDies = s.oosDies := rfl
@[simp] theorem State.modSeq_pkgId (s : State) (f : Seq → Seq) : (s.modSeq f).pkgId = s.pkgId := rfl
@[simp] theorem State.modSeq_resets (s : State) (f : Seq → Seq) : (s.modSeq f).resets = s.resets := rfl
@[simp] theorem State.modSeq_bringUp (s : State) (f : Seq → Seq) : (s.modSeq f).bringUp = s.bringUp := rfl
@[simp] theorem State.modSeq_powerHold (s : State) (f : Seq → Seq) : (s.modSeq f).powerHold = s.powerHold := rfl
@[simp] theorem State.modSeq_budgetAt (s : State) (f : Seq → Seq) : (s.modSeq f).budgetAt = s.budgetAt := rfl
@[simp] theorem State.modSeq_running (s : State) (f : Seq → Seq) : (s.modSeq f).running = s.running := rfl
@[simp] theorem State.modSeq_pending (s : State) (f : Seq → Seq) : (s.modSeq f).pending = s.pending := rfl

/-! ### `setQuad` -/

@[simp] theorem State.setQuad_agenda (s : State) (q : Nat) (x : Quad) : (s.setQuad q x).agenda = s.agenda := rfl
@[simp] theorem State.setQuad_site (s : State) (q : Nat) (x : Quad) : (s.setQuad q x).site = s.site := rfl
@[simp] theorem State.setQuad_free (s : State) (q : Nat) (x : Quad) : (s.setQuad q x).free = s.free := rfl
@[simp] theorem State.setQuad_cycle (s : State) (q : Nat) (x : Quad) : (s.setQuad q x).cycle = s.cycle := rfl
@[simp] theorem State.setQuad_mem (s : State) (q : Nat) (x : Quad) : (s.setQuad q x).mem = s.mem := rfl
@[simp] theorem State.setQuad_hbmGen (s : State) (q : Nat) (x : Quad) : (s.setQuad q x).hbmGen = s.hbmGen := rfl
@[simp] theorem State.setQuad_badWords (s : State) (q : Nat) (x : Quad) : (s.setQuad q x).badWords = s.badWords := rfl
@[simp] theorem State.setQuad_eccCount (s : State) (q : Nat) (x : Quad) : (s.setQuad q x).eccCount = s.eccCount := rfl
@[simp] theorem State.setQuad_cells (s : State) (q : Nat) (x : Quad) : (s.setQuad q x).cells = s.cells := rfl
@[simp] theorem State.setQuad_slots (s : State) (q : Nat) (x : Quad) : (s.setQuad q x).slots = s.slots := rfl
@[simp] theorem State.setQuad_links (s : State) (q : Nat) (x : Quad) : (s.setQuad q x).links = s.links := rfl
@[simp] theorem State.setQuad_pairs (s : State) (q : Nat) (x : Quad) : (s.setQuad q x).pairs = s.pairs := rfl
@[simp] theorem State.setQuad_ports (s : State) (q : Nat) (x : Quad) : (s.setQuad q x).ports = s.ports := rfl
@[simp] theorem State.setQuad_streams (s : State) (q : Nat) (x : Quad) : (s.setQuad q x).streams = s.streams := rfl
@[simp] theorem State.setQuad_signals (s : State) (q : Nat) (x : Quad) : (s.setQuad q x).signals = s.signals := rfl
@[simp] theorem State.setQuad_serial (s : State) (q : Nat) (x : Quad) : (s.setQuad q x).serial = s.serial := rfl
@[simp] theorem State.setQuad_copyhs (s : State) (q : Nat) (x : Quad) : (s.setQuad q x).copyhs = s.copyhs := rfl
@[simp] theorem State.setQuad_hostOut (s : State) (q : Nat) (x : Quad) : (s.setQuad q x).hostOut = s.hostOut := rfl
@[simp] theorem State.setQuad_portOut (s : State) (q : Nat) (x : Quad) : (s.setQuad q x).portOut = s.portOut := rfl
@[simp] theorem State.setQuad_presence (s : State) (q : Nat) (x : Quad) : (s.setQuad q x).presence = s.presence := rfl
@[simp] theorem State.setQuad_regions (s : State) (q : Nat) (x : Quad) : (s.setQuad q x).regions = s.regions := rfl
@[simp] theorem State.setQuad_launches (s : State) (q : Nat) (x : Quad) : (s.setQuad q x).launches = s.launches := rfl
@[simp] theorem State.setQuad_launchNum (s : State) (q : Nat) (x : Quad) : (s.setQuad q x).launchNum = s.launchNum := rfl
@[simp] theorem State.setQuad_launchKey (s : State) (q : Nat) (x : Quad) : (s.setQuad q x).launchKey = s.launchKey := rfl
@[simp] theorem State.setQuad_barriers (s : State) (q : Nat) (x : Quad) : (s.setQuad q x).barriers = s.barriers := rfl
@[simp] theorem State.setQuad_notices (s : State) (q : Nat) (x : Quad) : (s.setQuad q x).notices = s.notices := rfl
@[simp] theorem State.setQuad_engines (s : State) (q : Nat) (x : Quad) : (s.setQuad q x).engines = s.engines := rfl
@[simp] theorem State.setQuad_counters (s : State) (q : Nat) (x : Quad) : (s.setQuad q x).counters = s.counters := rfl
@[simp] theorem State.setQuad_incs (s : State) (q : Nat) (x : Quad) : (s.setQuad q x).incs = s.incs := rfl
@[simp] theorem State.setQuad_inWrites (s : State) (q : Nat) (x : Quad) : (s.setQuad q x).inWrites = s.inWrites := rfl
@[simp] theorem State.setQuad_redWrites (s : State) (q : Nat) (x : Quad) : (s.setQuad q x).redWrites = s.redWrites := rfl
@[simp] theorem State.setQuad_redHeld (s : State) (q : Nat) (x : Quad) : (s.setQuad q x).redHeld = s.redHeld := rfl
@[simp] theorem State.setQuad_redNext (s : State) (q : Nat) (x : Quad) : (s.setQuad q x).redNext = s.redNext := rfl
@[simp] theorem State.setQuad_netNext (s : State) (q : Nat) (x : Quad) : (s.setQuad q x).netNext = s.netNext := rfl
@[simp] theorem State.setQuad_chunksIn (s : State) (q : Nat) (x : Quad) : (s.setQuad q x).chunksIn = s.chunksIn := rfl
@[simp] theorem State.setQuad_chunkNext (s : State) (q : Nat) (x : Quad) : (s.setQuad q x).chunkNext = s.chunkNext := rfl
@[simp] theorem State.setQuad_chunkResp (s : State) (q : Nat) (x : Quad) : (s.setQuad q x).chunkResp = s.chunkResp := rfl
@[simp] theorem State.setQuad_homeNext (s : State) (q : Nat) (x : Quad) : (s.setQuad q x).homeNext = s.homeNext := rfl
@[simp] theorem State.setQuad_transfers (s : State) (q : Nat) (x : Quad) : (s.setQuad q x).transfers = s.transfers := rfl
@[simp] theorem State.setQuad_chunkOut (s : State) (q : Nat) (x : Quad) : (s.setQuad q x).chunkOut = s.chunkOut := rfl
@[simp] theorem State.setQuad_chunkLast (s : State) (q : Nat) (x : Quad) : (s.setQuad q x).chunkLast = s.chunkLast := rfl
@[simp] theorem State.setQuad_netOut (s : State) (q : Nat) (x : Quad) : (s.setQuad q x).netOut = s.netOut := rfl
@[simp] theorem State.setQuad_unreached (s : State) (q : Nat) (x : Quad) : (s.setQuad q x).unreached = s.unreached := rfl
@[simp] theorem State.setQuad_parkedIn (s : State) (q : Nat) (x : Quad) : (s.setQuad q x).parkedIn = s.parkedIn := rfl
@[simp] theorem State.setQuad_parkedRed (s : State) (q : Nat) (x : Quad) : (s.setQuad q x).parkedRed = s.parkedRed := rfl
@[simp] theorem State.setQuad_members (s : State) (q : Nat) (x : Quad) : (s.setQuad q x).members = s.members := rfl
@[simp] theorem State.setQuad_xslots (s : State) (q : Nat) (x : Quad) : (s.setQuad q x).xslots = s.xslots := rfl
@[simp] theorem State.setQuad_xmsgs (s : State) (q : Nat) (x : Quad) : (s.setQuad q x).xmsgs = s.xmsgs := rfl
@[simp] theorem State.setQuad_xnet (s : State) (q : Nat) (x : Quad) : (s.setQuad q x).xnet = s.xnet := rfl
@[simp] theorem State.setQuad_asks (s : State) (q : Nat) (x : Quad) : (s.setQuad q x).asks = s.asks := rfl
@[simp] theorem State.setQuad_replicas (s : State) (q : Nat) (x : Quad) : (s.setQuad q x).replicas = s.replicas := rfl
@[simp] theorem State.setQuad_replNum (s : State) (q : Nat) (x : Quad) : (s.setQuad q x).replNum = s.replNum := rfl
@[simp] theorem State.setQuad_replWait (s : State) (q : Nat) (x : Quad) : (s.setQuad q x).replWait = s.replWait := rfl
@[simp] theorem State.setQuad_leases (s : State) (q : Nat) (x : Quad) : (s.setQuad q x).leases = s.leases := rfl
@[simp] theorem State.setQuad_holds (s : State) (q : Nat) (x : Quad) : (s.setQuad q x).holds = s.holds := rfl
@[simp] theorem State.setQuad_resyncs (s : State) (q : Nat) (x : Quad) : (s.setQuad q x).resyncs = s.resyncs := rfl
@[simp] theorem State.setQuad_xlV (s : State) (q : Nat) (x : Quad) : (s.setQuad q x).xlV = s.xlV := rfl
@[simp] theorem State.setQuad_xlRoot (s : State) (q : Nat) (x : Quad) : (s.setQuad q x).xlRoot = s.xlRoot := rfl
@[simp] theorem State.setQuad_walks (s : State) (q : Nat) (x : Quad) : (s.setQuad q x).walks = s.walks := rfl
@[simp] theorem State.setQuad_dieTlb (s : State) (q : Nat) (x : Quad) : (s.setQuad q x).dieTlb = s.dieTlb := rfl
@[simp] theorem State.setQuad_walkNow (s : State) (q : Nat) (x : Quad) : (s.setQuad q x).walkNow = s.walkNow := rfl
@[simp] theorem State.setQuad_boxes (s : State) (q : Nat) (x : Quad) : (s.setQuad q x).boxes = s.boxes := rfl
@[simp] theorem State.setQuad_hashReqs (s : State) (q : Nat) (x : Quad) : (s.setQuad q x).hashReqs = s.hashReqs := rfl
@[simp] theorem State.setQuad_oosDies (s : State) (q : Nat) (x : Quad) : (s.setQuad q x).oosDies = s.oosDies := rfl
@[simp] theorem State.setQuad_pkgId (s : State) (q : Nat) (x : Quad) : (s.setQuad q x).pkgId = s.pkgId := rfl
@[simp] theorem State.setQuad_resets (s : State) (q : Nat) (x : Quad) : (s.setQuad q x).resets = s.resets := rfl
@[simp] theorem State.setQuad_bringUp (s : State) (q : Nat) (x : Quad) : (s.setQuad q x).bringUp = s.bringUp := rfl
@[simp] theorem State.setQuad_powerHold (s : State) (q : Nat) (x : Quad) : (s.setQuad q x).powerHold = s.powerHold := rfl
@[simp] theorem State.setQuad_budgetAt (s : State) (q : Nat) (x : Quad) : (s.setQuad q x).budgetAt = s.budgetAt := rfl
@[simp] theorem State.setQuad_running (s : State) (q : Nat) (x : Quad) : (s.setQuad q x).running = s.running := rfl
@[simp] theorem State.setQuad_pending (s : State) (q : Nat) (x : Quad) : (s.setQuad q x).pending = s.pending := rfl

/-! ### `modQuad` -/

@[simp] theorem State.modQuad_agenda (s : State) (q : Nat) (f : Quad → Quad) : (s.modQuad q f).agenda = s.agenda := rfl
@[simp] theorem State.modQuad_site (s : State) (q : Nat) (f : Quad → Quad) : (s.modQuad q f).site = s.site := rfl
@[simp] theorem State.modQuad_free (s : State) (q : Nat) (f : Quad → Quad) : (s.modQuad q f).free = s.free := rfl
@[simp] theorem State.modQuad_cycle (s : State) (q : Nat) (f : Quad → Quad) : (s.modQuad q f).cycle = s.cycle := rfl
@[simp] theorem State.modQuad_mem (s : State) (q : Nat) (f : Quad → Quad) : (s.modQuad q f).mem = s.mem := rfl
@[simp] theorem State.modQuad_hbmGen (s : State) (q : Nat) (f : Quad → Quad) : (s.modQuad q f).hbmGen = s.hbmGen := rfl
@[simp] theorem State.modQuad_badWords (s : State) (q : Nat) (f : Quad → Quad) : (s.modQuad q f).badWords = s.badWords := rfl
@[simp] theorem State.modQuad_eccCount (s : State) (q : Nat) (f : Quad → Quad) : (s.modQuad q f).eccCount = s.eccCount := rfl
@[simp] theorem State.modQuad_cells (s : State) (q : Nat) (f : Quad → Quad) : (s.modQuad q f).cells = s.cells := rfl
@[simp] theorem State.modQuad_slots (s : State) (q : Nat) (f : Quad → Quad) : (s.modQuad q f).slots = s.slots := rfl
@[simp] theorem State.modQuad_links (s : State) (q : Nat) (f : Quad → Quad) : (s.modQuad q f).links = s.links := rfl
@[simp] theorem State.modQuad_pairs (s : State) (q : Nat) (f : Quad → Quad) : (s.modQuad q f).pairs = s.pairs := rfl
@[simp] theorem State.modQuad_ports (s : State) (q : Nat) (f : Quad → Quad) : (s.modQuad q f).ports = s.ports := rfl
@[simp] theorem State.modQuad_streams (s : State) (q : Nat) (f : Quad → Quad) : (s.modQuad q f).streams = s.streams := rfl
@[simp] theorem State.modQuad_signals (s : State) (q : Nat) (f : Quad → Quad) : (s.modQuad q f).signals = s.signals := rfl
@[simp] theorem State.modQuad_serial (s : State) (q : Nat) (f : Quad → Quad) : (s.modQuad q f).serial = s.serial := rfl
@[simp] theorem State.modQuad_copyhs (s : State) (q : Nat) (f : Quad → Quad) : (s.modQuad q f).copyhs = s.copyhs := rfl
@[simp] theorem State.modQuad_hostOut (s : State) (q : Nat) (f : Quad → Quad) : (s.modQuad q f).hostOut = s.hostOut := rfl
@[simp] theorem State.modQuad_portOut (s : State) (q : Nat) (f : Quad → Quad) : (s.modQuad q f).portOut = s.portOut := rfl
@[simp] theorem State.modQuad_presence (s : State) (q : Nat) (f : Quad → Quad) : (s.modQuad q f).presence = s.presence := rfl
@[simp] theorem State.modQuad_regions (s : State) (q : Nat) (f : Quad → Quad) : (s.modQuad q f).regions = s.regions := rfl
@[simp] theorem State.modQuad_launches (s : State) (q : Nat) (f : Quad → Quad) : (s.modQuad q f).launches = s.launches := rfl
@[simp] theorem State.modQuad_launchNum (s : State) (q : Nat) (f : Quad → Quad) : (s.modQuad q f).launchNum = s.launchNum := rfl
@[simp] theorem State.modQuad_launchKey (s : State) (q : Nat) (f : Quad → Quad) : (s.modQuad q f).launchKey = s.launchKey := rfl
@[simp] theorem State.modQuad_barriers (s : State) (q : Nat) (f : Quad → Quad) : (s.modQuad q f).barriers = s.barriers := rfl
@[simp] theorem State.modQuad_notices (s : State) (q : Nat) (f : Quad → Quad) : (s.modQuad q f).notices = s.notices := rfl
@[simp] theorem State.modQuad_engines (s : State) (q : Nat) (f : Quad → Quad) : (s.modQuad q f).engines = s.engines := rfl
@[simp] theorem State.modQuad_counters (s : State) (q : Nat) (f : Quad → Quad) : (s.modQuad q f).counters = s.counters := rfl
@[simp] theorem State.modQuad_incs (s : State) (q : Nat) (f : Quad → Quad) : (s.modQuad q f).incs = s.incs := rfl
@[simp] theorem State.modQuad_inWrites (s : State) (q : Nat) (f : Quad → Quad) : (s.modQuad q f).inWrites = s.inWrites := rfl
@[simp] theorem State.modQuad_redWrites (s : State) (q : Nat) (f : Quad → Quad) : (s.modQuad q f).redWrites = s.redWrites := rfl
@[simp] theorem State.modQuad_redHeld (s : State) (q : Nat) (f : Quad → Quad) : (s.modQuad q f).redHeld = s.redHeld := rfl
@[simp] theorem State.modQuad_redNext (s : State) (q : Nat) (f : Quad → Quad) : (s.modQuad q f).redNext = s.redNext := rfl
@[simp] theorem State.modQuad_netNext (s : State) (q : Nat) (f : Quad → Quad) : (s.modQuad q f).netNext = s.netNext := rfl
@[simp] theorem State.modQuad_chunksIn (s : State) (q : Nat) (f : Quad → Quad) : (s.modQuad q f).chunksIn = s.chunksIn := rfl
@[simp] theorem State.modQuad_chunkNext (s : State) (q : Nat) (f : Quad → Quad) : (s.modQuad q f).chunkNext = s.chunkNext := rfl
@[simp] theorem State.modQuad_chunkResp (s : State) (q : Nat) (f : Quad → Quad) : (s.modQuad q f).chunkResp = s.chunkResp := rfl
@[simp] theorem State.modQuad_homeNext (s : State) (q : Nat) (f : Quad → Quad) : (s.modQuad q f).homeNext = s.homeNext := rfl
@[simp] theorem State.modQuad_transfers (s : State) (q : Nat) (f : Quad → Quad) : (s.modQuad q f).transfers = s.transfers := rfl
@[simp] theorem State.modQuad_chunkOut (s : State) (q : Nat) (f : Quad → Quad) : (s.modQuad q f).chunkOut = s.chunkOut := rfl
@[simp] theorem State.modQuad_chunkLast (s : State) (q : Nat) (f : Quad → Quad) : (s.modQuad q f).chunkLast = s.chunkLast := rfl
@[simp] theorem State.modQuad_netOut (s : State) (q : Nat) (f : Quad → Quad) : (s.modQuad q f).netOut = s.netOut := rfl
@[simp] theorem State.modQuad_unreached (s : State) (q : Nat) (f : Quad → Quad) : (s.modQuad q f).unreached = s.unreached := rfl
@[simp] theorem State.modQuad_parkedIn (s : State) (q : Nat) (f : Quad → Quad) : (s.modQuad q f).parkedIn = s.parkedIn := rfl
@[simp] theorem State.modQuad_parkedRed (s : State) (q : Nat) (f : Quad → Quad) : (s.modQuad q f).parkedRed = s.parkedRed := rfl
@[simp] theorem State.modQuad_members (s : State) (q : Nat) (f : Quad → Quad) : (s.modQuad q f).members = s.members := rfl
@[simp] theorem State.modQuad_xslots (s : State) (q : Nat) (f : Quad → Quad) : (s.modQuad q f).xslots = s.xslots := rfl
@[simp] theorem State.modQuad_xmsgs (s : State) (q : Nat) (f : Quad → Quad) : (s.modQuad q f).xmsgs = s.xmsgs := rfl
@[simp] theorem State.modQuad_xnet (s : State) (q : Nat) (f : Quad → Quad) : (s.modQuad q f).xnet = s.xnet := rfl
@[simp] theorem State.modQuad_asks (s : State) (q : Nat) (f : Quad → Quad) : (s.modQuad q f).asks = s.asks := rfl
@[simp] theorem State.modQuad_replicas (s : State) (q : Nat) (f : Quad → Quad) : (s.modQuad q f).replicas = s.replicas := rfl
@[simp] theorem State.modQuad_replNum (s : State) (q : Nat) (f : Quad → Quad) : (s.modQuad q f).replNum = s.replNum := rfl
@[simp] theorem State.modQuad_replWait (s : State) (q : Nat) (f : Quad → Quad) : (s.modQuad q f).replWait = s.replWait := rfl
@[simp] theorem State.modQuad_leases (s : State) (q : Nat) (f : Quad → Quad) : (s.modQuad q f).leases = s.leases := rfl
@[simp] theorem State.modQuad_holds (s : State) (q : Nat) (f : Quad → Quad) : (s.modQuad q f).holds = s.holds := rfl
@[simp] theorem State.modQuad_resyncs (s : State) (q : Nat) (f : Quad → Quad) : (s.modQuad q f).resyncs = s.resyncs := rfl
@[simp] theorem State.modQuad_xlV (s : State) (q : Nat) (f : Quad → Quad) : (s.modQuad q f).xlV = s.xlV := rfl
@[simp] theorem State.modQuad_xlRoot (s : State) (q : Nat) (f : Quad → Quad) : (s.modQuad q f).xlRoot = s.xlRoot := rfl
@[simp] theorem State.modQuad_walks (s : State) (q : Nat) (f : Quad → Quad) : (s.modQuad q f).walks = s.walks := rfl
@[simp] theorem State.modQuad_dieTlb (s : State) (q : Nat) (f : Quad → Quad) : (s.modQuad q f).dieTlb = s.dieTlb := rfl
@[simp] theorem State.modQuad_walkNow (s : State) (q : Nat) (f : Quad → Quad) : (s.modQuad q f).walkNow = s.walkNow := rfl
@[simp] theorem State.modQuad_boxes (s : State) (q : Nat) (f : Quad → Quad) : (s.modQuad q f).boxes = s.boxes := rfl
@[simp] theorem State.modQuad_hashReqs (s : State) (q : Nat) (f : Quad → Quad) : (s.modQuad q f).hashReqs = s.hashReqs := rfl
@[simp] theorem State.modQuad_oosDies (s : State) (q : Nat) (f : Quad → Quad) : (s.modQuad q f).oosDies = s.oosDies := rfl
@[simp] theorem State.modQuad_pkgId (s : State) (q : Nat) (f : Quad → Quad) : (s.modQuad q f).pkgId = s.pkgId := rfl
@[simp] theorem State.modQuad_resets (s : State) (q : Nat) (f : Quad → Quad) : (s.modQuad q f).resets = s.resets := rfl
@[simp] theorem State.modQuad_bringUp (s : State) (q : Nat) (f : Quad → Quad) : (s.modQuad q f).bringUp = s.bringUp := rfl
@[simp] theorem State.modQuad_powerHold (s : State) (q : Nat) (f : Quad → Quad) : (s.modQuad q f).powerHold = s.powerHold := rfl
@[simp] theorem State.modQuad_budgetAt (s : State) (q : Nat) (f : Quad → Quad) : (s.modQuad q f).budgetAt = s.budgetAt := rfl
@[simp] theorem State.modQuad_running (s : State) (q : Nat) (f : Quad → Quad) : (s.modQuad q f).running = s.running := rfl
@[simp] theorem State.modQuad_pending (s : State) (q : Nat) (f : Quad → Quad) : (s.modQuad q f).pending = s.pending := rfl

/-! ### `bbox` -/

@[simp] theorem State.bbox_agenda (s : State) (d : Nat) (e : BbEvent) : (s.bbox d e).agenda = s.agenda := rfl
@[simp] theorem State.bbox_site (s : State) (d : Nat) (e : BbEvent) : (s.bbox d e).site = s.site := rfl
@[simp] theorem State.bbox_free (s : State) (d : Nat) (e : BbEvent) : (s.bbox d e).free = s.free := rfl
@[simp] theorem State.bbox_cycle (s : State) (d : Nat) (e : BbEvent) : (s.bbox d e).cycle = s.cycle := rfl
@[simp] theorem State.bbox_mem (s : State) (d : Nat) (e : BbEvent) : (s.bbox d e).mem = s.mem := rfl
@[simp] theorem State.bbox_hbmGen (s : State) (d : Nat) (e : BbEvent) : (s.bbox d e).hbmGen = s.hbmGen := rfl
@[simp] theorem State.bbox_badWords (s : State) (d : Nat) (e : BbEvent) : (s.bbox d e).badWords = s.badWords := rfl
@[simp] theorem State.bbox_eccCount (s : State) (d : Nat) (e : BbEvent) : (s.bbox d e).eccCount = s.eccCount := rfl
@[simp] theorem State.bbox_cells (s : State) (d : Nat) (e : BbEvent) : (s.bbox d e).cells = s.cells := rfl
@[simp] theorem State.bbox_quads (s : State) (d : Nat) (e : BbEvent) : (s.bbox d e).quads = s.quads := rfl
@[simp] theorem State.bbox_slots (s : State) (d : Nat) (e : BbEvent) : (s.bbox d e).slots = s.slots := rfl
@[simp] theorem State.bbox_links (s : State) (d : Nat) (e : BbEvent) : (s.bbox d e).links = s.links := rfl
@[simp] theorem State.bbox_pairs (s : State) (d : Nat) (e : BbEvent) : (s.bbox d e).pairs = s.pairs := rfl
@[simp] theorem State.bbox_ports (s : State) (d : Nat) (e : BbEvent) : (s.bbox d e).ports = s.ports := rfl
@[simp] theorem State.bbox_streams (s : State) (d : Nat) (e : BbEvent) : (s.bbox d e).streams = s.streams := rfl
@[simp] theorem State.bbox_signals (s : State) (d : Nat) (e : BbEvent) : (s.bbox d e).signals = s.signals := rfl
@[simp] theorem State.bbox_serial (s : State) (d : Nat) (e : BbEvent) : (s.bbox d e).serial = s.serial := rfl
@[simp] theorem State.bbox_copyhs (s : State) (d : Nat) (e : BbEvent) : (s.bbox d e).copyhs = s.copyhs := rfl
@[simp] theorem State.bbox_hostOut (s : State) (d : Nat) (e : BbEvent) : (s.bbox d e).hostOut = s.hostOut := rfl
@[simp] theorem State.bbox_portOut (s : State) (d : Nat) (e : BbEvent) : (s.bbox d e).portOut = s.portOut := rfl
@[simp] theorem State.bbox_presence (s : State) (d : Nat) (e : BbEvent) : (s.bbox d e).presence = s.presence := rfl
@[simp] theorem State.bbox_regions (s : State) (d : Nat) (e : BbEvent) : (s.bbox d e).regions = s.regions := rfl
@[simp] theorem State.bbox_launches (s : State) (d : Nat) (e : BbEvent) : (s.bbox d e).launches = s.launches := rfl
@[simp] theorem State.bbox_launchNum (s : State) (d : Nat) (e : BbEvent) : (s.bbox d e).launchNum = s.launchNum := rfl
@[simp] theorem State.bbox_launchKey (s : State) (d : Nat) (e : BbEvent) : (s.bbox d e).launchKey = s.launchKey := rfl
@[simp] theorem State.bbox_barriers (s : State) (d : Nat) (e : BbEvent) : (s.bbox d e).barriers = s.barriers := rfl
@[simp] theorem State.bbox_notices (s : State) (d : Nat) (e : BbEvent) : (s.bbox d e).notices = s.notices := rfl
@[simp] theorem State.bbox_engines (s : State) (d : Nat) (e : BbEvent) : (s.bbox d e).engines = s.engines := rfl
@[simp] theorem State.bbox_counters (s : State) (d : Nat) (e : BbEvent) : (s.bbox d e).counters = s.counters := rfl
@[simp] theorem State.bbox_incs (s : State) (d : Nat) (e : BbEvent) : (s.bbox d e).incs = s.incs := rfl
@[simp] theorem State.bbox_inWrites (s : State) (d : Nat) (e : BbEvent) : (s.bbox d e).inWrites = s.inWrites := rfl
@[simp] theorem State.bbox_redWrites (s : State) (d : Nat) (e : BbEvent) : (s.bbox d e).redWrites = s.redWrites := rfl
@[simp] theorem State.bbox_redHeld (s : State) (d : Nat) (e : BbEvent) : (s.bbox d e).redHeld = s.redHeld := rfl
@[simp] theorem State.bbox_redNext (s : State) (d : Nat) (e : BbEvent) : (s.bbox d e).redNext = s.redNext := rfl
@[simp] theorem State.bbox_netNext (s : State) (d : Nat) (e : BbEvent) : (s.bbox d e).netNext = s.netNext := rfl
@[simp] theorem State.bbox_chunksIn (s : State) (d : Nat) (e : BbEvent) : (s.bbox d e).chunksIn = s.chunksIn := rfl
@[simp] theorem State.bbox_chunkNext (s : State) (d : Nat) (e : BbEvent) : (s.bbox d e).chunkNext = s.chunkNext := rfl
@[simp] theorem State.bbox_chunkResp (s : State) (d : Nat) (e : BbEvent) : (s.bbox d e).chunkResp = s.chunkResp := rfl
@[simp] theorem State.bbox_homeNext (s : State) (d : Nat) (e : BbEvent) : (s.bbox d e).homeNext = s.homeNext := rfl
@[simp] theorem State.bbox_transfers (s : State) (d : Nat) (e : BbEvent) : (s.bbox d e).transfers = s.transfers := rfl
@[simp] theorem State.bbox_chunkOut (s : State) (d : Nat) (e : BbEvent) : (s.bbox d e).chunkOut = s.chunkOut := rfl
@[simp] theorem State.bbox_chunkLast (s : State) (d : Nat) (e : BbEvent) : (s.bbox d e).chunkLast = s.chunkLast := rfl
@[simp] theorem State.bbox_netOut (s : State) (d : Nat) (e : BbEvent) : (s.bbox d e).netOut = s.netOut := rfl
@[simp] theorem State.bbox_unreached (s : State) (d : Nat) (e : BbEvent) : (s.bbox d e).unreached = s.unreached := rfl
@[simp] theorem State.bbox_parkedIn (s : State) (d : Nat) (e : BbEvent) : (s.bbox d e).parkedIn = s.parkedIn := rfl
@[simp] theorem State.bbox_parkedRed (s : State) (d : Nat) (e : BbEvent) : (s.bbox d e).parkedRed = s.parkedRed := rfl
@[simp] theorem State.bbox_members (s : State) (d : Nat) (e : BbEvent) : (s.bbox d e).members = s.members := rfl
@[simp] theorem State.bbox_xslots (s : State) (d : Nat) (e : BbEvent) : (s.bbox d e).xslots = s.xslots := rfl
@[simp] theorem State.bbox_xmsgs (s : State) (d : Nat) (e : BbEvent) : (s.bbox d e).xmsgs = s.xmsgs := rfl
@[simp] theorem State.bbox_xnet (s : State) (d : Nat) (e : BbEvent) : (s.bbox d e).xnet = s.xnet := rfl
@[simp] theorem State.bbox_asks (s : State) (d : Nat) (e : BbEvent) : (s.bbox d e).asks = s.asks := rfl
@[simp] theorem State.bbox_replicas (s : State) (d : Nat) (e : BbEvent) : (s.bbox d e).replicas = s.replicas := rfl
@[simp] theorem State.bbox_replNum (s : State) (d : Nat) (e : BbEvent) : (s.bbox d e).replNum = s.replNum := rfl
@[simp] theorem State.bbox_replWait (s : State) (d : Nat) (e : BbEvent) : (s.bbox d e).replWait = s.replWait := rfl
@[simp] theorem State.bbox_leases (s : State) (d : Nat) (e : BbEvent) : (s.bbox d e).leases = s.leases := rfl
@[simp] theorem State.bbox_holds (s : State) (d : Nat) (e : BbEvent) : (s.bbox d e).holds = s.holds := rfl
@[simp] theorem State.bbox_resyncs (s : State) (d : Nat) (e : BbEvent) : (s.bbox d e).resyncs = s.resyncs := rfl
@[simp] theorem State.bbox_xlV (s : State) (d : Nat) (e : BbEvent) : (s.bbox d e).xlV = s.xlV := rfl
@[simp] theorem State.bbox_xlRoot (s : State) (d : Nat) (e : BbEvent) : (s.bbox d e).xlRoot = s.xlRoot := rfl
@[simp] theorem State.bbox_walks (s : State) (d : Nat) (e : BbEvent) : (s.bbox d e).walks = s.walks := rfl
@[simp] theorem State.bbox_dieTlb (s : State) (d : Nat) (e : BbEvent) : (s.bbox d e).dieTlb = s.dieTlb := rfl
@[simp] theorem State.bbox_walkNow (s : State) (d : Nat) (e : BbEvent) : (s.bbox d e).walkNow = s.walkNow := rfl
@[simp] theorem State.bbox_hashReqs (s : State) (d : Nat) (e : BbEvent) : (s.bbox d e).hashReqs = s.hashReqs := rfl
@[simp] theorem State.bbox_oosDies (s : State) (d : Nat) (e : BbEvent) : (s.bbox d e).oosDies = s.oosDies := rfl
@[simp] theorem State.bbox_pkgId (s : State) (d : Nat) (e : BbEvent) : (s.bbox d e).pkgId = s.pkgId := rfl
@[simp] theorem State.bbox_resets (s : State) (d : Nat) (e : BbEvent) : (s.bbox d e).resets = s.resets := rfl
@[simp] theorem State.bbox_bringUp (s : State) (d : Nat) (e : BbEvent) : (s.bbox d e).bringUp = s.bringUp := rfl
@[simp] theorem State.bbox_powerHold (s : State) (d : Nat) (e : BbEvent) : (s.bbox d e).powerHold = s.powerHold := rfl
@[simp] theorem State.bbox_budgetAt (s : State) (d : Nat) (e : BbEvent) : (s.bbox d e).budgetAt = s.budgetAt := rfl
@[simp] theorem State.bbox_running (s : State) (d : Nat) (e : BbEvent) : (s.bbox d e).running = s.running := rfl
@[simp] theorem State.bbox_pending (s : State) (d : Nat) (e : BbEvent) : (s.bbox d e).pending = s.pending := rfl

/-! ### `bboxCell` -/

@[simp] theorem State.bboxCell_agenda (s : State) (k y c : Nat) (d0 d1 : Word) : (s.bboxCell k y c d0 d1).agenda = s.agenda := rfl
@[simp] theorem State.bboxCell_site (s : State) (k y c : Nat) (d0 d1 : Word) : (s.bboxCell k y c d0 d1).site = s.site := rfl
@[simp] theorem State.bboxCell_free (s : State) (k y c : Nat) (d0 d1 : Word) : (s.bboxCell k y c d0 d1).free = s.free := rfl
@[simp] theorem State.bboxCell_cycle (s : State) (k y c : Nat) (d0 d1 : Word) : (s.bboxCell k y c d0 d1).cycle = s.cycle := rfl
@[simp] theorem State.bboxCell_mem (s : State) (k y c : Nat) (d0 d1 : Word) : (s.bboxCell k y c d0 d1).mem = s.mem := rfl
@[simp] theorem State.bboxCell_hbmGen (s : State) (k y c : Nat) (d0 d1 : Word) : (s.bboxCell k y c d0 d1).hbmGen = s.hbmGen := rfl
@[simp] theorem State.bboxCell_badWords (s : State) (k y c : Nat) (d0 d1 : Word) : (s.bboxCell k y c d0 d1).badWords = s.badWords := rfl
@[simp] theorem State.bboxCell_eccCount (s : State) (k y c : Nat) (d0 d1 : Word) : (s.bboxCell k y c d0 d1).eccCount = s.eccCount := rfl
@[simp] theorem State.bboxCell_cells (s : State) (k y c : Nat) (d0 d1 : Word) : (s.bboxCell k y c d0 d1).cells = s.cells := rfl
@[simp] theorem State.bboxCell_quads (s : State) (k y c : Nat) (d0 d1 : Word) : (s.bboxCell k y c d0 d1).quads = s.quads := rfl
@[simp] theorem State.bboxCell_slots (s : State) (k y c : Nat) (d0 d1 : Word) : (s.bboxCell k y c d0 d1).slots = s.slots := rfl
@[simp] theorem State.bboxCell_links (s : State) (k y c : Nat) (d0 d1 : Word) : (s.bboxCell k y c d0 d1).links = s.links := rfl
@[simp] theorem State.bboxCell_pairs (s : State) (k y c : Nat) (d0 d1 : Word) : (s.bboxCell k y c d0 d1).pairs = s.pairs := rfl
@[simp] theorem State.bboxCell_ports (s : State) (k y c : Nat) (d0 d1 : Word) : (s.bboxCell k y c d0 d1).ports = s.ports := rfl
@[simp] theorem State.bboxCell_streams (s : State) (k y c : Nat) (d0 d1 : Word) : (s.bboxCell k y c d0 d1).streams = s.streams := rfl
@[simp] theorem State.bboxCell_signals (s : State) (k y c : Nat) (d0 d1 : Word) : (s.bboxCell k y c d0 d1).signals = s.signals := rfl
@[simp] theorem State.bboxCell_serial (s : State) (k y c : Nat) (d0 d1 : Word) : (s.bboxCell k y c d0 d1).serial = s.serial := rfl
@[simp] theorem State.bboxCell_copyhs (s : State) (k y c : Nat) (d0 d1 : Word) : (s.bboxCell k y c d0 d1).copyhs = s.copyhs := rfl
@[simp] theorem State.bboxCell_hostOut (s : State) (k y c : Nat) (d0 d1 : Word) : (s.bboxCell k y c d0 d1).hostOut = s.hostOut := rfl
@[simp] theorem State.bboxCell_portOut (s : State) (k y c : Nat) (d0 d1 : Word) : (s.bboxCell k y c d0 d1).portOut = s.portOut := rfl
@[simp] theorem State.bboxCell_presence (s : State) (k y c : Nat) (d0 d1 : Word) : (s.bboxCell k y c d0 d1).presence = s.presence := rfl
@[simp] theorem State.bboxCell_regions (s : State) (k y c : Nat) (d0 d1 : Word) : (s.bboxCell k y c d0 d1).regions = s.regions := rfl
@[simp] theorem State.bboxCell_launches (s : State) (k y c : Nat) (d0 d1 : Word) : (s.bboxCell k y c d0 d1).launches = s.launches := rfl
@[simp] theorem State.bboxCell_launchNum (s : State) (k y c : Nat) (d0 d1 : Word) : (s.bboxCell k y c d0 d1).launchNum = s.launchNum := rfl
@[simp] theorem State.bboxCell_launchKey (s : State) (k y c : Nat) (d0 d1 : Word) : (s.bboxCell k y c d0 d1).launchKey = s.launchKey := rfl
@[simp] theorem State.bboxCell_barriers (s : State) (k y c : Nat) (d0 d1 : Word) : (s.bboxCell k y c d0 d1).barriers = s.barriers := rfl
@[simp] theorem State.bboxCell_notices (s : State) (k y c : Nat) (d0 d1 : Word) : (s.bboxCell k y c d0 d1).notices = s.notices := rfl
@[simp] theorem State.bboxCell_engines (s : State) (k y c : Nat) (d0 d1 : Word) : (s.bboxCell k y c d0 d1).engines = s.engines := rfl
@[simp] theorem State.bboxCell_counters (s : State) (k y c : Nat) (d0 d1 : Word) : (s.bboxCell k y c d0 d1).counters = s.counters := rfl
@[simp] theorem State.bboxCell_incs (s : State) (k y c : Nat) (d0 d1 : Word) : (s.bboxCell k y c d0 d1).incs = s.incs := rfl
@[simp] theorem State.bboxCell_inWrites (s : State) (k y c : Nat) (d0 d1 : Word) : (s.bboxCell k y c d0 d1).inWrites = s.inWrites := rfl
@[simp] theorem State.bboxCell_redWrites (s : State) (k y c : Nat) (d0 d1 : Word) : (s.bboxCell k y c d0 d1).redWrites = s.redWrites := rfl
@[simp] theorem State.bboxCell_redHeld (s : State) (k y c : Nat) (d0 d1 : Word) : (s.bboxCell k y c d0 d1).redHeld = s.redHeld := rfl
@[simp] theorem State.bboxCell_redNext (s : State) (k y c : Nat) (d0 d1 : Word) : (s.bboxCell k y c d0 d1).redNext = s.redNext := rfl
@[simp] theorem State.bboxCell_netNext (s : State) (k y c : Nat) (d0 d1 : Word) : (s.bboxCell k y c d0 d1).netNext = s.netNext := rfl
@[simp] theorem State.bboxCell_chunksIn (s : State) (k y c : Nat) (d0 d1 : Word) : (s.bboxCell k y c d0 d1).chunksIn = s.chunksIn := rfl
@[simp] theorem State.bboxCell_chunkNext (s : State) (k y c : Nat) (d0 d1 : Word) : (s.bboxCell k y c d0 d1).chunkNext = s.chunkNext := rfl
@[simp] theorem State.bboxCell_chunkResp (s : State) (k y c : Nat) (d0 d1 : Word) : (s.bboxCell k y c d0 d1).chunkResp = s.chunkResp := rfl
@[simp] theorem State.bboxCell_homeNext (s : State) (k y c : Nat) (d0 d1 : Word) : (s.bboxCell k y c d0 d1).homeNext = s.homeNext := rfl
@[simp] theorem State.bboxCell_transfers (s : State) (k y c : Nat) (d0 d1 : Word) : (s.bboxCell k y c d0 d1).transfers = s.transfers := rfl
@[simp] theorem State.bboxCell_chunkOut (s : State) (k y c : Nat) (d0 d1 : Word) : (s.bboxCell k y c d0 d1).chunkOut = s.chunkOut := rfl
@[simp] theorem State.bboxCell_chunkLast (s : State) (k y c : Nat) (d0 d1 : Word) : (s.bboxCell k y c d0 d1).chunkLast = s.chunkLast := rfl
@[simp] theorem State.bboxCell_netOut (s : State) (k y c : Nat) (d0 d1 : Word) : (s.bboxCell k y c d0 d1).netOut = s.netOut := rfl
@[simp] theorem State.bboxCell_unreached (s : State) (k y c : Nat) (d0 d1 : Word) : (s.bboxCell k y c d0 d1).unreached = s.unreached := rfl
@[simp] theorem State.bboxCell_parkedIn (s : State) (k y c : Nat) (d0 d1 : Word) : (s.bboxCell k y c d0 d1).parkedIn = s.parkedIn := rfl
@[simp] theorem State.bboxCell_parkedRed (s : State) (k y c : Nat) (d0 d1 : Word) : (s.bboxCell k y c d0 d1).parkedRed = s.parkedRed := rfl
@[simp] theorem State.bboxCell_members (s : State) (k y c : Nat) (d0 d1 : Word) : (s.bboxCell k y c d0 d1).members = s.members := rfl
@[simp] theorem State.bboxCell_xslots (s : State) (k y c : Nat) (d0 d1 : Word) : (s.bboxCell k y c d0 d1).xslots = s.xslots := rfl
@[simp] theorem State.bboxCell_xmsgs (s : State) (k y c : Nat) (d0 d1 : Word) : (s.bboxCell k y c d0 d1).xmsgs = s.xmsgs := rfl
@[simp] theorem State.bboxCell_xnet (s : State) (k y c : Nat) (d0 d1 : Word) : (s.bboxCell k y c d0 d1).xnet = s.xnet := rfl
@[simp] theorem State.bboxCell_asks (s : State) (k y c : Nat) (d0 d1 : Word) : (s.bboxCell k y c d0 d1).asks = s.asks := rfl
@[simp] theorem State.bboxCell_replicas (s : State) (k y c : Nat) (d0 d1 : Word) : (s.bboxCell k y c d0 d1).replicas = s.replicas := rfl
@[simp] theorem State.bboxCell_replNum (s : State) (k y c : Nat) (d0 d1 : Word) : (s.bboxCell k y c d0 d1).replNum = s.replNum := rfl
@[simp] theorem State.bboxCell_replWait (s : State) (k y c : Nat) (d0 d1 : Word) : (s.bboxCell k y c d0 d1).replWait = s.replWait := rfl
@[simp] theorem State.bboxCell_leases (s : State) (k y c : Nat) (d0 d1 : Word) : (s.bboxCell k y c d0 d1).leases = s.leases := rfl
@[simp] theorem State.bboxCell_holds (s : State) (k y c : Nat) (d0 d1 : Word) : (s.bboxCell k y c d0 d1).holds = s.holds := rfl
@[simp] theorem State.bboxCell_resyncs (s : State) (k y c : Nat) (d0 d1 : Word) : (s.bboxCell k y c d0 d1).resyncs = s.resyncs := rfl
@[simp] theorem State.bboxCell_xlV (s : State) (k y c : Nat) (d0 d1 : Word) : (s.bboxCell k y c d0 d1).xlV = s.xlV := rfl
@[simp] theorem State.bboxCell_xlRoot (s : State) (k y c : Nat) (d0 d1 : Word) : (s.bboxCell k y c d0 d1).xlRoot = s.xlRoot := rfl
@[simp] theorem State.bboxCell_walks (s : State) (k y c : Nat) (d0 d1 : Word) : (s.bboxCell k y c d0 d1).walks = s.walks := rfl
@[simp] theorem State.bboxCell_dieTlb (s : State) (k y c : Nat) (d0 d1 : Word) : (s.bboxCell k y c d0 d1).dieTlb = s.dieTlb := rfl
@[simp] theorem State.bboxCell_walkNow (s : State) (k y c : Nat) (d0 d1 : Word) : (s.bboxCell k y c d0 d1).walkNow = s.walkNow := rfl
@[simp] theorem State.bboxCell_hashReqs (s : State) (k y c : Nat) (d0 d1 : Word) : (s.bboxCell k y c d0 d1).hashReqs = s.hashReqs := rfl
@[simp] theorem State.bboxCell_oosDies (s : State) (k y c : Nat) (d0 d1 : Word) : (s.bboxCell k y c d0 d1).oosDies = s.oosDies := rfl
@[simp] theorem State.bboxCell_pkgId (s : State) (k y c : Nat) (d0 d1 : Word) : (s.bboxCell k y c d0 d1).pkgId = s.pkgId := rfl
@[simp] theorem State.bboxCell_resets (s : State) (k y c : Nat) (d0 d1 : Word) : (s.bboxCell k y c d0 d1).resets = s.resets := rfl
@[simp] theorem State.bboxCell_bringUp (s : State) (k y c : Nat) (d0 d1 : Word) : (s.bboxCell k y c d0 d1).bringUp = s.bringUp := rfl
@[simp] theorem State.bboxCell_powerHold (s : State) (k y c : Nat) (d0 d1 : Word) : (s.bboxCell k y c d0 d1).powerHold = s.powerHold := rfl
@[simp] theorem State.bboxCell_budgetAt (s : State) (k y c : Nat) (d0 d1 : Word) : (s.bboxCell k y c d0 d1).budgetAt = s.budgetAt := rfl
@[simp] theorem State.bboxCell_running (s : State) (k y c : Nat) (d0 d1 : Word) : (s.bboxCell k y c d0 d1).running = s.running := rfl
@[simp] theorem State.bboxCell_pending (s : State) (k y c : Nat) (d0 d1 : Word) : (s.bboxCell k y c d0 d1).pending = s.pending := rfl

/-! ### `bboxQuad` -/

@[simp] theorem State.bboxQuad_agenda (s : State) (q k y c : Nat) (d0 d1 : Word) : (s.bboxQuad q k y c d0 d1).agenda = s.agenda := rfl
@[simp] theorem State.bboxQuad_site (s : State) (q k y c : Nat) (d0 d1 : Word) : (s.bboxQuad q k y c d0 d1).site = s.site := rfl
@[simp] theorem State.bboxQuad_free (s : State) (q k y c : Nat) (d0 d1 : Word) : (s.bboxQuad q k y c d0 d1).free = s.free := rfl
@[simp] theorem State.bboxQuad_cycle (s : State) (q k y c : Nat) (d0 d1 : Word) : (s.bboxQuad q k y c d0 d1).cycle = s.cycle := rfl
@[simp] theorem State.bboxQuad_mem (s : State) (q k y c : Nat) (d0 d1 : Word) : (s.bboxQuad q k y c d0 d1).mem = s.mem := rfl
@[simp] theorem State.bboxQuad_hbmGen (s : State) (q k y c : Nat) (d0 d1 : Word) : (s.bboxQuad q k y c d0 d1).hbmGen = s.hbmGen := rfl
@[simp] theorem State.bboxQuad_badWords (s : State) (q k y c : Nat) (d0 d1 : Word) : (s.bboxQuad q k y c d0 d1).badWords = s.badWords := rfl
@[simp] theorem State.bboxQuad_eccCount (s : State) (q k y c : Nat) (d0 d1 : Word) : (s.bboxQuad q k y c d0 d1).eccCount = s.eccCount := rfl
@[simp] theorem State.bboxQuad_cells (s : State) (q k y c : Nat) (d0 d1 : Word) : (s.bboxQuad q k y c d0 d1).cells = s.cells := rfl
@[simp] theorem State.bboxQuad_quads (s : State) (q k y c : Nat) (d0 d1 : Word) : (s.bboxQuad q k y c d0 d1).quads = s.quads := rfl
@[simp] theorem State.bboxQuad_slots (s : State) (q k y c : Nat) (d0 d1 : Word) : (s.bboxQuad q k y c d0 d1).slots = s.slots := rfl
@[simp] theorem State.bboxQuad_links (s : State) (q k y c : Nat) (d0 d1 : Word) : (s.bboxQuad q k y c d0 d1).links = s.links := rfl
@[simp] theorem State.bboxQuad_pairs (s : State) (q k y c : Nat) (d0 d1 : Word) : (s.bboxQuad q k y c d0 d1).pairs = s.pairs := rfl
@[simp] theorem State.bboxQuad_ports (s : State) (q k y c : Nat) (d0 d1 : Word) : (s.bboxQuad q k y c d0 d1).ports = s.ports := rfl
@[simp] theorem State.bboxQuad_streams (s : State) (q k y c : Nat) (d0 d1 : Word) : (s.bboxQuad q k y c d0 d1).streams = s.streams := rfl
@[simp] theorem State.bboxQuad_signals (s : State) (q k y c : Nat) (d0 d1 : Word) : (s.bboxQuad q k y c d0 d1).signals = s.signals := rfl
@[simp] theorem State.bboxQuad_serial (s : State) (q k y c : Nat) (d0 d1 : Word) : (s.bboxQuad q k y c d0 d1).serial = s.serial := rfl
@[simp] theorem State.bboxQuad_copyhs (s : State) (q k y c : Nat) (d0 d1 : Word) : (s.bboxQuad q k y c d0 d1).copyhs = s.copyhs := rfl
@[simp] theorem State.bboxQuad_hostOut (s : State) (q k y c : Nat) (d0 d1 : Word) : (s.bboxQuad q k y c d0 d1).hostOut = s.hostOut := rfl
@[simp] theorem State.bboxQuad_portOut (s : State) (q k y c : Nat) (d0 d1 : Word) : (s.bboxQuad q k y c d0 d1).portOut = s.portOut := rfl
@[simp] theorem State.bboxQuad_presence (s : State) (q k y c : Nat) (d0 d1 : Word) : (s.bboxQuad q k y c d0 d1).presence = s.presence := rfl
@[simp] theorem State.bboxQuad_regions (s : State) (q k y c : Nat) (d0 d1 : Word) : (s.bboxQuad q k y c d0 d1).regions = s.regions := rfl
@[simp] theorem State.bboxQuad_launches (s : State) (q k y c : Nat) (d0 d1 : Word) : (s.bboxQuad q k y c d0 d1).launches = s.launches := rfl
@[simp] theorem State.bboxQuad_launchNum (s : State) (q k y c : Nat) (d0 d1 : Word) : (s.bboxQuad q k y c d0 d1).launchNum = s.launchNum := rfl
@[simp] theorem State.bboxQuad_launchKey (s : State) (q k y c : Nat) (d0 d1 : Word) : (s.bboxQuad q k y c d0 d1).launchKey = s.launchKey := rfl
@[simp] theorem State.bboxQuad_barriers (s : State) (q k y c : Nat) (d0 d1 : Word) : (s.bboxQuad q k y c d0 d1).barriers = s.barriers := rfl
@[simp] theorem State.bboxQuad_notices (s : State) (q k y c : Nat) (d0 d1 : Word) : (s.bboxQuad q k y c d0 d1).notices = s.notices := rfl
@[simp] theorem State.bboxQuad_engines (s : State) (q k y c : Nat) (d0 d1 : Word) : (s.bboxQuad q k y c d0 d1).engines = s.engines := rfl
@[simp] theorem State.bboxQuad_counters (s : State) (q k y c : Nat) (d0 d1 : Word) : (s.bboxQuad q k y c d0 d1).counters = s.counters := rfl
@[simp] theorem State.bboxQuad_incs (s : State) (q k y c : Nat) (d0 d1 : Word) : (s.bboxQuad q k y c d0 d1).incs = s.incs := rfl
@[simp] theorem State.bboxQuad_inWrites (s : State) (q k y c : Nat) (d0 d1 : Word) : (s.bboxQuad q k y c d0 d1).inWrites = s.inWrites := rfl
@[simp] theorem State.bboxQuad_redWrites (s : State) (q k y c : Nat) (d0 d1 : Word) : (s.bboxQuad q k y c d0 d1).redWrites = s.redWrites := rfl
@[simp] theorem State.bboxQuad_redHeld (s : State) (q k y c : Nat) (d0 d1 : Word) : (s.bboxQuad q k y c d0 d1).redHeld = s.redHeld := rfl
@[simp] theorem State.bboxQuad_redNext (s : State) (q k y c : Nat) (d0 d1 : Word) : (s.bboxQuad q k y c d0 d1).redNext = s.redNext := rfl
@[simp] theorem State.bboxQuad_netNext (s : State) (q k y c : Nat) (d0 d1 : Word) : (s.bboxQuad q k y c d0 d1).netNext = s.netNext := rfl
@[simp] theorem State.bboxQuad_chunksIn (s : State) (q k y c : Nat) (d0 d1 : Word) : (s.bboxQuad q k y c d0 d1).chunksIn = s.chunksIn := rfl
@[simp] theorem State.bboxQuad_chunkNext (s : State) (q k y c : Nat) (d0 d1 : Word) : (s.bboxQuad q k y c d0 d1).chunkNext = s.chunkNext := rfl
@[simp] theorem State.bboxQuad_chunkResp (s : State) (q k y c : Nat) (d0 d1 : Word) : (s.bboxQuad q k y c d0 d1).chunkResp = s.chunkResp := rfl
@[simp] theorem State.bboxQuad_homeNext (s : State) (q k y c : Nat) (d0 d1 : Word) : (s.bboxQuad q k y c d0 d1).homeNext = s.homeNext := rfl
@[simp] theorem State.bboxQuad_transfers (s : State) (q k y c : Nat) (d0 d1 : Word) : (s.bboxQuad q k y c d0 d1).transfers = s.transfers := rfl
@[simp] theorem State.bboxQuad_chunkOut (s : State) (q k y c : Nat) (d0 d1 : Word) : (s.bboxQuad q k y c d0 d1).chunkOut = s.chunkOut := rfl
@[simp] theorem State.bboxQuad_chunkLast (s : State) (q k y c : Nat) (d0 d1 : Word) : (s.bboxQuad q k y c d0 d1).chunkLast = s.chunkLast := rfl
@[simp] theorem State.bboxQuad_netOut (s : State) (q k y c : Nat) (d0 d1 : Word) : (s.bboxQuad q k y c d0 d1).netOut = s.netOut := rfl
@[simp] theorem State.bboxQuad_unreached (s : State) (q k y c : Nat) (d0 d1 : Word) : (s.bboxQuad q k y c d0 d1).unreached = s.unreached := rfl
@[simp] theorem State.bboxQuad_parkedIn (s : State) (q k y c : Nat) (d0 d1 : Word) : (s.bboxQuad q k y c d0 d1).parkedIn = s.parkedIn := rfl
@[simp] theorem State.bboxQuad_parkedRed (s : State) (q k y c : Nat) (d0 d1 : Word) : (s.bboxQuad q k y c d0 d1).parkedRed = s.parkedRed := rfl
@[simp] theorem State.bboxQuad_members (s : State) (q k y c : Nat) (d0 d1 : Word) : (s.bboxQuad q k y c d0 d1).members = s.members := rfl
@[simp] theorem State.bboxQuad_xslots (s : State) (q k y c : Nat) (d0 d1 : Word) : (s.bboxQuad q k y c d0 d1).xslots = s.xslots := rfl
@[simp] theorem State.bboxQuad_xmsgs (s : State) (q k y c : Nat) (d0 d1 : Word) : (s.bboxQuad q k y c d0 d1).xmsgs = s.xmsgs := rfl
@[simp] theorem State.bboxQuad_xnet (s : State) (q k y c : Nat) (d0 d1 : Word) : (s.bboxQuad q k y c d0 d1).xnet = s.xnet := rfl
@[simp] theorem State.bboxQuad_asks (s : State) (q k y c : Nat) (d0 d1 : Word) : (s.bboxQuad q k y c d0 d1).asks = s.asks := rfl
@[simp] theorem State.bboxQuad_replicas (s : State) (q k y c : Nat) (d0 d1 : Word) : (s.bboxQuad q k y c d0 d1).replicas = s.replicas := rfl
@[simp] theorem State.bboxQuad_replNum (s : State) (q k y c : Nat) (d0 d1 : Word) : (s.bboxQuad q k y c d0 d1).replNum = s.replNum := rfl
@[simp] theorem State.bboxQuad_replWait (s : State) (q k y c : Nat) (d0 d1 : Word) : (s.bboxQuad q k y c d0 d1).replWait = s.replWait := rfl
@[simp] theorem State.bboxQuad_leases (s : State) (q k y c : Nat) (d0 d1 : Word) : (s.bboxQuad q k y c d0 d1).leases = s.leases := rfl
@[simp] theorem State.bboxQuad_holds (s : State) (q k y c : Nat) (d0 d1 : Word) : (s.bboxQuad q k y c d0 d1).holds = s.holds := rfl
@[simp] theorem State.bboxQuad_resyncs (s : State) (q k y c : Nat) (d0 d1 : Word) : (s.bboxQuad q k y c d0 d1).resyncs = s.resyncs := rfl
@[simp] theorem State.bboxQuad_xlV (s : State) (q k y c : Nat) (d0 d1 : Word) : (s.bboxQuad q k y c d0 d1).xlV = s.xlV := rfl
@[simp] theorem State.bboxQuad_xlRoot (s : State) (q k y c : Nat) (d0 d1 : Word) : (s.bboxQuad q k y c d0 d1).xlRoot = s.xlRoot := rfl
@[simp] theorem State.bboxQuad_walks (s : State) (q k y c : Nat) (d0 d1 : Word) : (s.bboxQuad q k y c d0 d1).walks = s.walks := rfl
@[simp] theorem State.bboxQuad_dieTlb (s : State) (q k y c : Nat) (d0 d1 : Word) : (s.bboxQuad q k y c d0 d1).dieTlb = s.dieTlb := rfl
@[simp] theorem State.bboxQuad_walkNow (s : State) (q k y c : Nat) (d0 d1 : Word) : (s.bboxQuad q k y c d0 d1).walkNow = s.walkNow := rfl
@[simp] theorem State.bboxQuad_hashReqs (s : State) (q k y c : Nat) (d0 d1 : Word) : (s.bboxQuad q k y c d0 d1).hashReqs = s.hashReqs := rfl
@[simp] theorem State.bboxQuad_oosDies (s : State) (q k y c : Nat) (d0 d1 : Word) : (s.bboxQuad q k y c d0 d1).oosDies = s.oosDies := rfl
@[simp] theorem State.bboxQuad_pkgId (s : State) (q k y c : Nat) (d0 d1 : Word) : (s.bboxQuad q k y c d0 d1).pkgId = s.pkgId := rfl
@[simp] theorem State.bboxQuad_resets (s : State) (q k y c : Nat) (d0 d1 : Word) : (s.bboxQuad q k y c d0 d1).resets = s.resets := rfl
@[simp] theorem State.bboxQuad_bringUp (s : State) (q k y c : Nat) (d0 d1 : Word) : (s.bboxQuad q k y c d0 d1).bringUp = s.bringUp := rfl
@[simp] theorem State.bboxQuad_powerHold (s : State) (q k y c : Nat) (d0 d1 : Word) : (s.bboxQuad q k y c d0 d1).powerHold = s.powerHold := rfl
@[simp] theorem State.bboxQuad_budgetAt (s : State) (q k y c : Nat) (d0 d1 : Word) : (s.bboxQuad q k y c d0 d1).budgetAt = s.budgetAt := rfl
@[simp] theorem State.bboxQuad_running (s : State) (q k y c : Nat) (d0 d1 : Word) : (s.bboxQuad q k y c d0 d1).running = s.running := rfl
@[simp] theorem State.bboxQuad_pending (s : State) (q k y c : Nat) (d0 d1 : Word) : (s.bboxQuad q k y c d0 d1).pending = s.pending := rfl

/-! ### `freeze` -/

@[simp] theorem State.freeze_agenda (s : State) (d : Nat) : (s.freeze d).agenda = s.agenda := rfl
@[simp] theorem State.freeze_site (s : State) (d : Nat) : (s.freeze d).site = s.site := rfl
@[simp] theorem State.freeze_free (s : State) (d : Nat) : (s.freeze d).free = s.free := rfl
@[simp] theorem State.freeze_cycle (s : State) (d : Nat) : (s.freeze d).cycle = s.cycle := rfl
@[simp] theorem State.freeze_mem (s : State) (d : Nat) : (s.freeze d).mem = s.mem := rfl
@[simp] theorem State.freeze_hbmGen (s : State) (d : Nat) : (s.freeze d).hbmGen = s.hbmGen := rfl
@[simp] theorem State.freeze_badWords (s : State) (d : Nat) : (s.freeze d).badWords = s.badWords := rfl
@[simp] theorem State.freeze_eccCount (s : State) (d : Nat) : (s.freeze d).eccCount = s.eccCount := rfl
@[simp] theorem State.freeze_cells (s : State) (d : Nat) : (s.freeze d).cells = s.cells := rfl
@[simp] theorem State.freeze_quads (s : State) (d : Nat) : (s.freeze d).quads = s.quads := rfl
@[simp] theorem State.freeze_slots (s : State) (d : Nat) : (s.freeze d).slots = s.slots := rfl
@[simp] theorem State.freeze_links (s : State) (d : Nat) : (s.freeze d).links = s.links := rfl
@[simp] theorem State.freeze_pairs (s : State) (d : Nat) : (s.freeze d).pairs = s.pairs := rfl
@[simp] theorem State.freeze_ports (s : State) (d : Nat) : (s.freeze d).ports = s.ports := rfl
@[simp] theorem State.freeze_streams (s : State) (d : Nat) : (s.freeze d).streams = s.streams := rfl
@[simp] theorem State.freeze_signals (s : State) (d : Nat) : (s.freeze d).signals = s.signals := rfl
@[simp] theorem State.freeze_serial (s : State) (d : Nat) : (s.freeze d).serial = s.serial := rfl
@[simp] theorem State.freeze_copyhs (s : State) (d : Nat) : (s.freeze d).copyhs = s.copyhs := rfl
@[simp] theorem State.freeze_hostOut (s : State) (d : Nat) : (s.freeze d).hostOut = s.hostOut := rfl
@[simp] theorem State.freeze_portOut (s : State) (d : Nat) : (s.freeze d).portOut = s.portOut := rfl
@[simp] theorem State.freeze_presence (s : State) (d : Nat) : (s.freeze d).presence = s.presence := rfl
@[simp] theorem State.freeze_regions (s : State) (d : Nat) : (s.freeze d).regions = s.regions := rfl
@[simp] theorem State.freeze_launches (s : State) (d : Nat) : (s.freeze d).launches = s.launches := rfl
@[simp] theorem State.freeze_launchNum (s : State) (d : Nat) : (s.freeze d).launchNum = s.launchNum := rfl
@[simp] theorem State.freeze_launchKey (s : State) (d : Nat) : (s.freeze d).launchKey = s.launchKey := rfl
@[simp] theorem State.freeze_barriers (s : State) (d : Nat) : (s.freeze d).barriers = s.barriers := rfl
@[simp] theorem State.freeze_notices (s : State) (d : Nat) : (s.freeze d).notices = s.notices := rfl
@[simp] theorem State.freeze_engines (s : State) (d : Nat) : (s.freeze d).engines = s.engines := rfl
@[simp] theorem State.freeze_counters (s : State) (d : Nat) : (s.freeze d).counters = s.counters := rfl
@[simp] theorem State.freeze_incs (s : State) (d : Nat) : (s.freeze d).incs = s.incs := rfl
@[simp] theorem State.freeze_inWrites (s : State) (d : Nat) : (s.freeze d).inWrites = s.inWrites := rfl
@[simp] theorem State.freeze_redWrites (s : State) (d : Nat) : (s.freeze d).redWrites = s.redWrites := rfl
@[simp] theorem State.freeze_redHeld (s : State) (d : Nat) : (s.freeze d).redHeld = s.redHeld := rfl
@[simp] theorem State.freeze_redNext (s : State) (d : Nat) : (s.freeze d).redNext = s.redNext := rfl
@[simp] theorem State.freeze_netNext (s : State) (d : Nat) : (s.freeze d).netNext = s.netNext := rfl
@[simp] theorem State.freeze_chunksIn (s : State) (d : Nat) : (s.freeze d).chunksIn = s.chunksIn := rfl
@[simp] theorem State.freeze_chunkNext (s : State) (d : Nat) : (s.freeze d).chunkNext = s.chunkNext := rfl
@[simp] theorem State.freeze_chunkResp (s : State) (d : Nat) : (s.freeze d).chunkResp = s.chunkResp := rfl
@[simp] theorem State.freeze_homeNext (s : State) (d : Nat) : (s.freeze d).homeNext = s.homeNext := rfl
@[simp] theorem State.freeze_transfers (s : State) (d : Nat) : (s.freeze d).transfers = s.transfers := rfl
@[simp] theorem State.freeze_chunkOut (s : State) (d : Nat) : (s.freeze d).chunkOut = s.chunkOut := rfl
@[simp] theorem State.freeze_chunkLast (s : State) (d : Nat) : (s.freeze d).chunkLast = s.chunkLast := rfl
@[simp] theorem State.freeze_netOut (s : State) (d : Nat) : (s.freeze d).netOut = s.netOut := rfl
@[simp] theorem State.freeze_unreached (s : State) (d : Nat) : (s.freeze d).unreached = s.unreached := rfl
@[simp] theorem State.freeze_parkedIn (s : State) (d : Nat) : (s.freeze d).parkedIn = s.parkedIn := rfl
@[simp] theorem State.freeze_parkedRed (s : State) (d : Nat) : (s.freeze d).parkedRed = s.parkedRed := rfl
@[simp] theorem State.freeze_members (s : State) (d : Nat) : (s.freeze d).members = s.members := rfl
@[simp] theorem State.freeze_xslots (s : State) (d : Nat) : (s.freeze d).xslots = s.xslots := rfl
@[simp] theorem State.freeze_xmsgs (s : State) (d : Nat) : (s.freeze d).xmsgs = s.xmsgs := rfl
@[simp] theorem State.freeze_xnet (s : State) (d : Nat) : (s.freeze d).xnet = s.xnet := rfl
@[simp] theorem State.freeze_asks (s : State) (d : Nat) : (s.freeze d).asks = s.asks := rfl
@[simp] theorem State.freeze_replicas (s : State) (d : Nat) : (s.freeze d).replicas = s.replicas := rfl
@[simp] theorem State.freeze_replNum (s : State) (d : Nat) : (s.freeze d).replNum = s.replNum := rfl
@[simp] theorem State.freeze_replWait (s : State) (d : Nat) : (s.freeze d).replWait = s.replWait := rfl
@[simp] theorem State.freeze_leases (s : State) (d : Nat) : (s.freeze d).leases = s.leases := rfl
@[simp] theorem State.freeze_holds (s : State) (d : Nat) : (s.freeze d).holds = s.holds := rfl
@[simp] theorem State.freeze_resyncs (s : State) (d : Nat) : (s.freeze d).resyncs = s.resyncs := rfl
@[simp] theorem State.freeze_xlV (s : State) (d : Nat) : (s.freeze d).xlV = s.xlV := rfl
@[simp] theorem State.freeze_xlRoot (s : State) (d : Nat) : (s.freeze d).xlRoot = s.xlRoot := rfl
@[simp] theorem State.freeze_walks (s : State) (d : Nat) : (s.freeze d).walks = s.walks := rfl
@[simp] theorem State.freeze_dieTlb (s : State) (d : Nat) : (s.freeze d).dieTlb = s.dieTlb := rfl
@[simp] theorem State.freeze_walkNow (s : State) (d : Nat) : (s.freeze d).walkNow = s.walkNow := rfl
@[simp] theorem State.freeze_hashReqs (s : State) (d : Nat) : (s.freeze d).hashReqs = s.hashReqs := rfl
@[simp] theorem State.freeze_oosDies (s : State) (d : Nat) : (s.freeze d).oosDies = s.oosDies := rfl
@[simp] theorem State.freeze_pkgId (s : State) (d : Nat) : (s.freeze d).pkgId = s.pkgId := rfl
@[simp] theorem State.freeze_resets (s : State) (d : Nat) : (s.freeze d).resets = s.resets := rfl
@[simp] theorem State.freeze_bringUp (s : State) (d : Nat) : (s.freeze d).bringUp = s.bringUp := rfl
@[simp] theorem State.freeze_powerHold (s : State) (d : Nat) : (s.freeze d).powerHold = s.powerHold := rfl
@[simp] theorem State.freeze_budgetAt (s : State) (d : Nat) : (s.freeze d).budgetAt = s.budgetAt := rfl
@[simp] theorem State.freeze_running (s : State) (d : Nat) : (s.freeze d).running = s.running := rfl
@[simp] theorem State.freeze_pending (s : State) (d : Nat) : (s.freeze d).pending = s.pending := rfl

/-! ### `setPair` -/

@[simp] theorem State.setPair_agenda (s : State) (a b : Nat) (p : Pair) : (s.setPair a b p).agenda = s.agenda := rfl
@[simp] theorem State.setPair_site (s : State) (a b : Nat) (p : Pair) : (s.setPair a b p).site = s.site := rfl
@[simp] theorem State.setPair_free (s : State) (a b : Nat) (p : Pair) : (s.setPair a b p).free = s.free := rfl
@[simp] theorem State.setPair_cycle (s : State) (a b : Nat) (p : Pair) : (s.setPair a b p).cycle = s.cycle := rfl
@[simp] theorem State.setPair_mem (s : State) (a b : Nat) (p : Pair) : (s.setPair a b p).mem = s.mem := rfl
@[simp] theorem State.setPair_hbmGen (s : State) (a b : Nat) (p : Pair) : (s.setPair a b p).hbmGen = s.hbmGen := rfl
@[simp] theorem State.setPair_badWords (s : State) (a b : Nat) (p : Pair) : (s.setPair a b p).badWords = s.badWords := rfl
@[simp] theorem State.setPair_eccCount (s : State) (a b : Nat) (p : Pair) : (s.setPair a b p).eccCount = s.eccCount := rfl
@[simp] theorem State.setPair_cells (s : State) (a b : Nat) (p : Pair) : (s.setPair a b p).cells = s.cells := rfl
@[simp] theorem State.setPair_quads (s : State) (a b : Nat) (p : Pair) : (s.setPair a b p).quads = s.quads := rfl
@[simp] theorem State.setPair_slots (s : State) (a b : Nat) (p : Pair) : (s.setPair a b p).slots = s.slots := rfl
@[simp] theorem State.setPair_links (s : State) (a b : Nat) (p : Pair) : (s.setPair a b p).links = s.links := rfl
@[simp] theorem State.setPair_ports (s : State) (a b : Nat) (p : Pair) : (s.setPair a b p).ports = s.ports := rfl
@[simp] theorem State.setPair_streams (s : State) (a b : Nat) (p : Pair) : (s.setPair a b p).streams = s.streams := rfl
@[simp] theorem State.setPair_signals (s : State) (a b : Nat) (p : Pair) : (s.setPair a b p).signals = s.signals := rfl
@[simp] theorem State.setPair_serial (s : State) (a b : Nat) (p : Pair) : (s.setPair a b p).serial = s.serial := rfl
@[simp] theorem State.setPair_copyhs (s : State) (a b : Nat) (p : Pair) : (s.setPair a b p).copyhs = s.copyhs := rfl
@[simp] theorem State.setPair_hostOut (s : State) (a b : Nat) (p : Pair) : (s.setPair a b p).hostOut = s.hostOut := rfl
@[simp] theorem State.setPair_portOut (s : State) (a b : Nat) (p : Pair) : (s.setPair a b p).portOut = s.portOut := rfl
@[simp] theorem State.setPair_presence (s : State) (a b : Nat) (p : Pair) : (s.setPair a b p).presence = s.presence := rfl
@[simp] theorem State.setPair_regions (s : State) (a b : Nat) (p : Pair) : (s.setPair a b p).regions = s.regions := rfl
@[simp] theorem State.setPair_launches (s : State) (a b : Nat) (p : Pair) : (s.setPair a b p).launches = s.launches := rfl
@[simp] theorem State.setPair_launchNum (s : State) (a b : Nat) (p : Pair) : (s.setPair a b p).launchNum = s.launchNum := rfl
@[simp] theorem State.setPair_launchKey (s : State) (a b : Nat) (p : Pair) : (s.setPair a b p).launchKey = s.launchKey := rfl
@[simp] theorem State.setPair_barriers (s : State) (a b : Nat) (p : Pair) : (s.setPair a b p).barriers = s.barriers := rfl
@[simp] theorem State.setPair_notices (s : State) (a b : Nat) (p : Pair) : (s.setPair a b p).notices = s.notices := rfl
@[simp] theorem State.setPair_engines (s : State) (a b : Nat) (p : Pair) : (s.setPair a b p).engines = s.engines := rfl
@[simp] theorem State.setPair_counters (s : State) (a b : Nat) (p : Pair) : (s.setPair a b p).counters = s.counters := rfl
@[simp] theorem State.setPair_incs (s : State) (a b : Nat) (p : Pair) : (s.setPair a b p).incs = s.incs := rfl
@[simp] theorem State.setPair_inWrites (s : State) (a b : Nat) (p : Pair) : (s.setPair a b p).inWrites = s.inWrites := rfl
@[simp] theorem State.setPair_redWrites (s : State) (a b : Nat) (p : Pair) : (s.setPair a b p).redWrites = s.redWrites := rfl
@[simp] theorem State.setPair_redHeld (s : State) (a b : Nat) (p : Pair) : (s.setPair a b p).redHeld = s.redHeld := rfl
@[simp] theorem State.setPair_redNext (s : State) (a b : Nat) (p : Pair) : (s.setPair a b p).redNext = s.redNext := rfl
@[simp] theorem State.setPair_netNext (s : State) (a b : Nat) (p : Pair) : (s.setPair a b p).netNext = s.netNext := rfl
@[simp] theorem State.setPair_chunksIn (s : State) (a b : Nat) (p : Pair) : (s.setPair a b p).chunksIn = s.chunksIn := rfl
@[simp] theorem State.setPair_chunkNext (s : State) (a b : Nat) (p : Pair) : (s.setPair a b p).chunkNext = s.chunkNext := rfl
@[simp] theorem State.setPair_chunkResp (s : State) (a b : Nat) (p : Pair) : (s.setPair a b p).chunkResp = s.chunkResp := rfl
@[simp] theorem State.setPair_homeNext (s : State) (a b : Nat) (p : Pair) : (s.setPair a b p).homeNext = s.homeNext := rfl
@[simp] theorem State.setPair_transfers (s : State) (a b : Nat) (p : Pair) : (s.setPair a b p).transfers = s.transfers := rfl
@[simp] theorem State.setPair_chunkOut (s : State) (a b : Nat) (p : Pair) : (s.setPair a b p).chunkOut = s.chunkOut := rfl
@[simp] theorem State.setPair_chunkLast (s : State) (a b : Nat) (p : Pair) : (s.setPair a b p).chunkLast = s.chunkLast := rfl
@[simp] theorem State.setPair_netOut (s : State) (a b : Nat) (p : Pair) : (s.setPair a b p).netOut = s.netOut := rfl
@[simp] theorem State.setPair_unreached (s : State) (a b : Nat) (p : Pair) : (s.setPair a b p).unreached = s.unreached := rfl
@[simp] theorem State.setPair_parkedIn (s : State) (a b : Nat) (p : Pair) : (s.setPair a b p).parkedIn = s.parkedIn := rfl
@[simp] theorem State.setPair_parkedRed (s : State) (a b : Nat) (p : Pair) : (s.setPair a b p).parkedRed = s.parkedRed := rfl
@[simp] theorem State.setPair_members (s : State) (a b : Nat) (p : Pair) : (s.setPair a b p).members = s.members := rfl
@[simp] theorem State.setPair_xslots (s : State) (a b : Nat) (p : Pair) : (s.setPair a b p).xslots = s.xslots := rfl
@[simp] theorem State.setPair_xmsgs (s : State) (a b : Nat) (p : Pair) : (s.setPair a b p).xmsgs = s.xmsgs := rfl
@[simp] theorem State.setPair_xnet (s : State) (a b : Nat) (p : Pair) : (s.setPair a b p).xnet = s.xnet := rfl
@[simp] theorem State.setPair_asks (s : State) (a b : Nat) (p : Pair) : (s.setPair a b p).asks = s.asks := rfl
@[simp] theorem State.setPair_replicas (s : State) (a b : Nat) (p : Pair) : (s.setPair a b p).replicas = s.replicas := rfl
@[simp] theorem State.setPair_replNum (s : State) (a b : Nat) (p : Pair) : (s.setPair a b p).replNum = s.replNum := rfl
@[simp] theorem State.setPair_replWait (s : State) (a b : Nat) (p : Pair) : (s.setPair a b p).replWait = s.replWait := rfl
@[simp] theorem State.setPair_leases (s : State) (a b : Nat) (p : Pair) : (s.setPair a b p).leases = s.leases := rfl
@[simp] theorem State.setPair_holds (s : State) (a b : Nat) (p : Pair) : (s.setPair a b p).holds = s.holds := rfl
@[simp] theorem State.setPair_resyncs (s : State) (a b : Nat) (p : Pair) : (s.setPair a b p).resyncs = s.resyncs := rfl
@[simp] theorem State.setPair_xlV (s : State) (a b : Nat) (p : Pair) : (s.setPair a b p).xlV = s.xlV := rfl
@[simp] theorem State.setPair_xlRoot (s : State) (a b : Nat) (p : Pair) : (s.setPair a b p).xlRoot = s.xlRoot := rfl
@[simp] theorem State.setPair_walks (s : State) (a b : Nat) (p : Pair) : (s.setPair a b p).walks = s.walks := rfl
@[simp] theorem State.setPair_dieTlb (s : State) (a b : Nat) (p : Pair) : (s.setPair a b p).dieTlb = s.dieTlb := rfl
@[simp] theorem State.setPair_walkNow (s : State) (a b : Nat) (p : Pair) : (s.setPair a b p).walkNow = s.walkNow := rfl
@[simp] theorem State.setPair_boxes (s : State) (a b : Nat) (p : Pair) : (s.setPair a b p).boxes = s.boxes := rfl
@[simp] theorem State.setPair_hashReqs (s : State) (a b : Nat) (p : Pair) : (s.setPair a b p).hashReqs = s.hashReqs := rfl
@[simp] theorem State.setPair_oosDies (s : State) (a b : Nat) (p : Pair) : (s.setPair a b p).oosDies = s.oosDies := rfl
@[simp] theorem State.setPair_pkgId (s : State) (a b : Nat) (p : Pair) : (s.setPair a b p).pkgId = s.pkgId := rfl
@[simp] theorem State.setPair_resets (s : State) (a b : Nat) (p : Pair) : (s.setPair a b p).resets = s.resets := rfl
@[simp] theorem State.setPair_bringUp (s : State) (a b : Nat) (p : Pair) : (s.setPair a b p).bringUp = s.bringUp := rfl
@[simp] theorem State.setPair_powerHold (s : State) (a b : Nat) (p : Pair) : (s.setPair a b p).powerHold = s.powerHold := rfl
@[simp] theorem State.setPair_budgetAt (s : State) (a b : Nat) (p : Pair) : (s.setPair a b p).budgetAt = s.budgetAt := rfl
@[simp] theorem State.setPair_running (s : State) (a b : Nat) (p : Pair) : (s.setPair a b p).running = s.running := rfl
@[simp] theorem State.setPair_pending (s : State) (a b : Nat) (p : Pair) : (s.setPair a b p).pending = s.pending := rfl

/-! ### `setLink` -/

@[simp] theorem State.setLink_agenda (s : State) (d e m : Nat) (l : Link) : (s.setLink d e m l).agenda = s.agenda := rfl
@[simp] theorem State.setLink_site (s : State) (d e m : Nat) (l : Link) : (s.setLink d e m l).site = s.site := rfl
@[simp] theorem State.setLink_free (s : State) (d e m : Nat) (l : Link) : (s.setLink d e m l).free = s.free := rfl
@[simp] theorem State.setLink_cycle (s : State) (d e m : Nat) (l : Link) : (s.setLink d e m l).cycle = s.cycle := rfl
@[simp] theorem State.setLink_mem (s : State) (d e m : Nat) (l : Link) : (s.setLink d e m l).mem = s.mem := rfl
@[simp] theorem State.setLink_hbmGen (s : State) (d e m : Nat) (l : Link) : (s.setLink d e m l).hbmGen = s.hbmGen := rfl
@[simp] theorem State.setLink_badWords (s : State) (d e m : Nat) (l : Link) : (s.setLink d e m l).badWords = s.badWords := rfl
@[simp] theorem State.setLink_eccCount (s : State) (d e m : Nat) (l : Link) : (s.setLink d e m l).eccCount = s.eccCount := rfl
@[simp] theorem State.setLink_cells (s : State) (d e m : Nat) (l : Link) : (s.setLink d e m l).cells = s.cells := rfl
@[simp] theorem State.setLink_quads (s : State) (d e m : Nat) (l : Link) : (s.setLink d e m l).quads = s.quads := rfl
@[simp] theorem State.setLink_slots (s : State) (d e m : Nat) (l : Link) : (s.setLink d e m l).slots = s.slots := rfl
@[simp] theorem State.setLink_pairs (s : State) (d e m : Nat) (l : Link) : (s.setLink d e m l).pairs = s.pairs := rfl
@[simp] theorem State.setLink_ports (s : State) (d e m : Nat) (l : Link) : (s.setLink d e m l).ports = s.ports := rfl
@[simp] theorem State.setLink_streams (s : State) (d e m : Nat) (l : Link) : (s.setLink d e m l).streams = s.streams := rfl
@[simp] theorem State.setLink_signals (s : State) (d e m : Nat) (l : Link) : (s.setLink d e m l).signals = s.signals := rfl
@[simp] theorem State.setLink_serial (s : State) (d e m : Nat) (l : Link) : (s.setLink d e m l).serial = s.serial := rfl
@[simp] theorem State.setLink_copyhs (s : State) (d e m : Nat) (l : Link) : (s.setLink d e m l).copyhs = s.copyhs := rfl
@[simp] theorem State.setLink_hostOut (s : State) (d e m : Nat) (l : Link) : (s.setLink d e m l).hostOut = s.hostOut := rfl
@[simp] theorem State.setLink_portOut (s : State) (d e m : Nat) (l : Link) : (s.setLink d e m l).portOut = s.portOut := rfl
@[simp] theorem State.setLink_presence (s : State) (d e m : Nat) (l : Link) : (s.setLink d e m l).presence = s.presence := rfl
@[simp] theorem State.setLink_regions (s : State) (d e m : Nat) (l : Link) : (s.setLink d e m l).regions = s.regions := rfl
@[simp] theorem State.setLink_launches (s : State) (d e m : Nat) (l : Link) : (s.setLink d e m l).launches = s.launches := rfl
@[simp] theorem State.setLink_launchNum (s : State) (d e m : Nat) (l : Link) : (s.setLink d e m l).launchNum = s.launchNum := rfl
@[simp] theorem State.setLink_launchKey (s : State) (d e m : Nat) (l : Link) : (s.setLink d e m l).launchKey = s.launchKey := rfl
@[simp] theorem State.setLink_barriers (s : State) (d e m : Nat) (l : Link) : (s.setLink d e m l).barriers = s.barriers := rfl
@[simp] theorem State.setLink_notices (s : State) (d e m : Nat) (l : Link) : (s.setLink d e m l).notices = s.notices := rfl
@[simp] theorem State.setLink_engines (s : State) (d e m : Nat) (l : Link) : (s.setLink d e m l).engines = s.engines := rfl
@[simp] theorem State.setLink_counters (s : State) (d e m : Nat) (l : Link) : (s.setLink d e m l).counters = s.counters := rfl
@[simp] theorem State.setLink_incs (s : State) (d e m : Nat) (l : Link) : (s.setLink d e m l).incs = s.incs := rfl
@[simp] theorem State.setLink_inWrites (s : State) (d e m : Nat) (l : Link) : (s.setLink d e m l).inWrites = s.inWrites := rfl
@[simp] theorem State.setLink_redWrites (s : State) (d e m : Nat) (l : Link) : (s.setLink d e m l).redWrites = s.redWrites := rfl
@[simp] theorem State.setLink_redHeld (s : State) (d e m : Nat) (l : Link) : (s.setLink d e m l).redHeld = s.redHeld := rfl
@[simp] theorem State.setLink_redNext (s : State) (d e m : Nat) (l : Link) : (s.setLink d e m l).redNext = s.redNext := rfl
@[simp] theorem State.setLink_netNext (s : State) (d e m : Nat) (l : Link) : (s.setLink d e m l).netNext = s.netNext := rfl
@[simp] theorem State.setLink_chunksIn (s : State) (d e m : Nat) (l : Link) : (s.setLink d e m l).chunksIn = s.chunksIn := rfl
@[simp] theorem State.setLink_chunkNext (s : State) (d e m : Nat) (l : Link) : (s.setLink d e m l).chunkNext = s.chunkNext := rfl
@[simp] theorem State.setLink_chunkResp (s : State) (d e m : Nat) (l : Link) : (s.setLink d e m l).chunkResp = s.chunkResp := rfl
@[simp] theorem State.setLink_homeNext (s : State) (d e m : Nat) (l : Link) : (s.setLink d e m l).homeNext = s.homeNext := rfl
@[simp] theorem State.setLink_transfers (s : State) (d e m : Nat) (l : Link) : (s.setLink d e m l).transfers = s.transfers := rfl
@[simp] theorem State.setLink_chunkOut (s : State) (d e m : Nat) (l : Link) : (s.setLink d e m l).chunkOut = s.chunkOut := rfl
@[simp] theorem State.setLink_chunkLast (s : State) (d e m : Nat) (l : Link) : (s.setLink d e m l).chunkLast = s.chunkLast := rfl
@[simp] theorem State.setLink_netOut (s : State) (d e m : Nat) (l : Link) : (s.setLink d e m l).netOut = s.netOut := rfl
@[simp] theorem State.setLink_unreached (s : State) (d e m : Nat) (l : Link) : (s.setLink d e m l).unreached = s.unreached := rfl
@[simp] theorem State.setLink_parkedIn (s : State) (d e m : Nat) (l : Link) : (s.setLink d e m l).parkedIn = s.parkedIn := rfl
@[simp] theorem State.setLink_parkedRed (s : State) (d e m : Nat) (l : Link) : (s.setLink d e m l).parkedRed = s.parkedRed := rfl
@[simp] theorem State.setLink_members (s : State) (d e m : Nat) (l : Link) : (s.setLink d e m l).members = s.members := rfl
@[simp] theorem State.setLink_xslots (s : State) (d e m : Nat) (l : Link) : (s.setLink d e m l).xslots = s.xslots := rfl
@[simp] theorem State.setLink_xmsgs (s : State) (d e m : Nat) (l : Link) : (s.setLink d e m l).xmsgs = s.xmsgs := rfl
@[simp] theorem State.setLink_xnet (s : State) (d e m : Nat) (l : Link) : (s.setLink d e m l).xnet = s.xnet := rfl
@[simp] theorem State.setLink_asks (s : State) (d e m : Nat) (l : Link) : (s.setLink d e m l).asks = s.asks := rfl
@[simp] theorem State.setLink_replicas (s : State) (d e m : Nat) (l : Link) : (s.setLink d e m l).replicas = s.replicas := rfl
@[simp] theorem State.setLink_replNum (s : State) (d e m : Nat) (l : Link) : (s.setLink d e m l).replNum = s.replNum := rfl
@[simp] theorem State.setLink_replWait (s : State) (d e m : Nat) (l : Link) : (s.setLink d e m l).replWait = s.replWait := rfl
@[simp] theorem State.setLink_leases (s : State) (d e m : Nat) (l : Link) : (s.setLink d e m l).leases = s.leases := rfl
@[simp] theorem State.setLink_holds (s : State) (d e m : Nat) (l : Link) : (s.setLink d e m l).holds = s.holds := rfl
@[simp] theorem State.setLink_resyncs (s : State) (d e m : Nat) (l : Link) : (s.setLink d e m l).resyncs = s.resyncs := rfl
@[simp] theorem State.setLink_xlV (s : State) (d e m : Nat) (l : Link) : (s.setLink d e m l).xlV = s.xlV := rfl
@[simp] theorem State.setLink_xlRoot (s : State) (d e m : Nat) (l : Link) : (s.setLink d e m l).xlRoot = s.xlRoot := rfl
@[simp] theorem State.setLink_walks (s : State) (d e m : Nat) (l : Link) : (s.setLink d e m l).walks = s.walks := rfl
@[simp] theorem State.setLink_dieTlb (s : State) (d e m : Nat) (l : Link) : (s.setLink d e m l).dieTlb = s.dieTlb := rfl
@[simp] theorem State.setLink_walkNow (s : State) (d e m : Nat) (l : Link) : (s.setLink d e m l).walkNow = s.walkNow := rfl
@[simp] theorem State.setLink_boxes (s : State) (d e m : Nat) (l : Link) : (s.setLink d e m l).boxes = s.boxes := rfl
@[simp] theorem State.setLink_hashReqs (s : State) (d e m : Nat) (l : Link) : (s.setLink d e m l).hashReqs = s.hashReqs := rfl
@[simp] theorem State.setLink_oosDies (s : State) (d e m : Nat) (l : Link) : (s.setLink d e m l).oosDies = s.oosDies := rfl
@[simp] theorem State.setLink_pkgId (s : State) (d e m : Nat) (l : Link) : (s.setLink d e m l).pkgId = s.pkgId := rfl
@[simp] theorem State.setLink_resets (s : State) (d e m : Nat) (l : Link) : (s.setLink d e m l).resets = s.resets := rfl
@[simp] theorem State.setLink_bringUp (s : State) (d e m : Nat) (l : Link) : (s.setLink d e m l).bringUp = s.bringUp := rfl
@[simp] theorem State.setLink_powerHold (s : State) (d e m : Nat) (l : Link) : (s.setLink d e m l).powerHold = s.powerHold := rfl
@[simp] theorem State.setLink_budgetAt (s : State) (d e m : Nat) (l : Link) : (s.setLink d e m l).budgetAt = s.budgetAt := rfl
@[simp] theorem State.setLink_running (s : State) (d e m : Nat) (l : Link) : (s.setLink d e m l).running = s.running := rfl
@[simp] theorem State.setLink_pending (s : State) (d e m : Nat) (l : Link) : (s.setLink d e m l).pending = s.pending := rfl

/-! ### `modLaunch` -/

@[simp] theorem State.modLaunch_agenda (s : State) (key : Nat) (f : Launch → Launch) : (s.modLaunch key f).agenda = s.agenda := rfl
@[simp] theorem State.modLaunch_site (s : State) (key : Nat) (f : Launch → Launch) : (s.modLaunch key f).site = s.site := rfl
@[simp] theorem State.modLaunch_free (s : State) (key : Nat) (f : Launch → Launch) : (s.modLaunch key f).free = s.free := rfl
@[simp] theorem State.modLaunch_cycle (s : State) (key : Nat) (f : Launch → Launch) : (s.modLaunch key f).cycle = s.cycle := rfl
@[simp] theorem State.modLaunch_mem (s : State) (key : Nat) (f : Launch → Launch) : (s.modLaunch key f).mem = s.mem := rfl
@[simp] theorem State.modLaunch_hbmGen (s : State) (key : Nat) (f : Launch → Launch) : (s.modLaunch key f).hbmGen = s.hbmGen := rfl
@[simp] theorem State.modLaunch_badWords (s : State) (key : Nat) (f : Launch → Launch) : (s.modLaunch key f).badWords = s.badWords := rfl
@[simp] theorem State.modLaunch_eccCount (s : State) (key : Nat) (f : Launch → Launch) : (s.modLaunch key f).eccCount = s.eccCount := rfl
@[simp] theorem State.modLaunch_cells (s : State) (key : Nat) (f : Launch → Launch) : (s.modLaunch key f).cells = s.cells := rfl
@[simp] theorem State.modLaunch_quads (s : State) (key : Nat) (f : Launch → Launch) : (s.modLaunch key f).quads = s.quads := rfl
@[simp] theorem State.modLaunch_slots (s : State) (key : Nat) (f : Launch → Launch) : (s.modLaunch key f).slots = s.slots := rfl
@[simp] theorem State.modLaunch_links (s : State) (key : Nat) (f : Launch → Launch) : (s.modLaunch key f).links = s.links := rfl
@[simp] theorem State.modLaunch_pairs (s : State) (key : Nat) (f : Launch → Launch) : (s.modLaunch key f).pairs = s.pairs := rfl
@[simp] theorem State.modLaunch_ports (s : State) (key : Nat) (f : Launch → Launch) : (s.modLaunch key f).ports = s.ports := rfl
@[simp] theorem State.modLaunch_streams (s : State) (key : Nat) (f : Launch → Launch) : (s.modLaunch key f).streams = s.streams := rfl
@[simp] theorem State.modLaunch_signals (s : State) (key : Nat) (f : Launch → Launch) : (s.modLaunch key f).signals = s.signals := rfl
@[simp] theorem State.modLaunch_serial (s : State) (key : Nat) (f : Launch → Launch) : (s.modLaunch key f).serial = s.serial := rfl
@[simp] theorem State.modLaunch_copyhs (s : State) (key : Nat) (f : Launch → Launch) : (s.modLaunch key f).copyhs = s.copyhs := rfl
@[simp] theorem State.modLaunch_hostOut (s : State) (key : Nat) (f : Launch → Launch) : (s.modLaunch key f).hostOut = s.hostOut := rfl
@[simp] theorem State.modLaunch_portOut (s : State) (key : Nat) (f : Launch → Launch) : (s.modLaunch key f).portOut = s.portOut := rfl
@[simp] theorem State.modLaunch_presence (s : State) (key : Nat) (f : Launch → Launch) : (s.modLaunch key f).presence = s.presence := rfl
@[simp] theorem State.modLaunch_regions (s : State) (key : Nat) (f : Launch → Launch) : (s.modLaunch key f).regions = s.regions := rfl
@[simp] theorem State.modLaunch_launchNum (s : State) (key : Nat) (f : Launch → Launch) : (s.modLaunch key f).launchNum = s.launchNum := rfl
@[simp] theorem State.modLaunch_launchKey (s : State) (key : Nat) (f : Launch → Launch) : (s.modLaunch key f).launchKey = s.launchKey := rfl
@[simp] theorem State.modLaunch_barriers (s : State) (key : Nat) (f : Launch → Launch) : (s.modLaunch key f).barriers = s.barriers := rfl
@[simp] theorem State.modLaunch_notices (s : State) (key : Nat) (f : Launch → Launch) : (s.modLaunch key f).notices = s.notices := rfl
@[simp] theorem State.modLaunch_engines (s : State) (key : Nat) (f : Launch → Launch) : (s.modLaunch key f).engines = s.engines := rfl
@[simp] theorem State.modLaunch_counters (s : State) (key : Nat) (f : Launch → Launch) : (s.modLaunch key f).counters = s.counters := rfl
@[simp] theorem State.modLaunch_incs (s : State) (key : Nat) (f : Launch → Launch) : (s.modLaunch key f).incs = s.incs := rfl
@[simp] theorem State.modLaunch_inWrites (s : State) (key : Nat) (f : Launch → Launch) : (s.modLaunch key f).inWrites = s.inWrites := rfl
@[simp] theorem State.modLaunch_redWrites (s : State) (key : Nat) (f : Launch → Launch) : (s.modLaunch key f).redWrites = s.redWrites := rfl
@[simp] theorem State.modLaunch_redHeld (s : State) (key : Nat) (f : Launch → Launch) : (s.modLaunch key f).redHeld = s.redHeld := rfl
@[simp] theorem State.modLaunch_redNext (s : State) (key : Nat) (f : Launch → Launch) : (s.modLaunch key f).redNext = s.redNext := rfl
@[simp] theorem State.modLaunch_netNext (s : State) (key : Nat) (f : Launch → Launch) : (s.modLaunch key f).netNext = s.netNext := rfl
@[simp] theorem State.modLaunch_chunksIn (s : State) (key : Nat) (f : Launch → Launch) : (s.modLaunch key f).chunksIn = s.chunksIn := rfl
@[simp] theorem State.modLaunch_chunkNext (s : State) (key : Nat) (f : Launch → Launch) : (s.modLaunch key f).chunkNext = s.chunkNext := rfl
@[simp] theorem State.modLaunch_chunkResp (s : State) (key : Nat) (f : Launch → Launch) : (s.modLaunch key f).chunkResp = s.chunkResp := rfl
@[simp] theorem State.modLaunch_homeNext (s : State) (key : Nat) (f : Launch → Launch) : (s.modLaunch key f).homeNext = s.homeNext := rfl
@[simp] theorem State.modLaunch_transfers (s : State) (key : Nat) (f : Launch → Launch) : (s.modLaunch key f).transfers = s.transfers := rfl
@[simp] theorem State.modLaunch_chunkOut (s : State) (key : Nat) (f : Launch → Launch) : (s.modLaunch key f).chunkOut = s.chunkOut := rfl
@[simp] theorem State.modLaunch_chunkLast (s : State) (key : Nat) (f : Launch → Launch) : (s.modLaunch key f).chunkLast = s.chunkLast := rfl
@[simp] theorem State.modLaunch_netOut (s : State) (key : Nat) (f : Launch → Launch) : (s.modLaunch key f).netOut = s.netOut := rfl
@[simp] theorem State.modLaunch_unreached (s : State) (key : Nat) (f : Launch → Launch) : (s.modLaunch key f).unreached = s.unreached := rfl
@[simp] theorem State.modLaunch_parkedIn (s : State) (key : Nat) (f : Launch → Launch) : (s.modLaunch key f).parkedIn = s.parkedIn := rfl
@[simp] theorem State.modLaunch_parkedRed (s : State) (key : Nat) (f : Launch → Launch) : (s.modLaunch key f).parkedRed = s.parkedRed := rfl
@[simp] theorem State.modLaunch_members (s : State) (key : Nat) (f : Launch → Launch) : (s.modLaunch key f).members = s.members := rfl
@[simp] theorem State.modLaunch_xslots (s : State) (key : Nat) (f : Launch → Launch) : (s.modLaunch key f).xslots = s.xslots := rfl
@[simp] theorem State.modLaunch_xmsgs (s : State) (key : Nat) (f : Launch → Launch) : (s.modLaunch key f).xmsgs = s.xmsgs := rfl
@[simp] theorem State.modLaunch_xnet (s : State) (key : Nat) (f : Launch → Launch) : (s.modLaunch key f).xnet = s.xnet := rfl
@[simp] theorem State.modLaunch_asks (s : State) (key : Nat) (f : Launch → Launch) : (s.modLaunch key f).asks = s.asks := rfl
@[simp] theorem State.modLaunch_replicas (s : State) (key : Nat) (f : Launch → Launch) : (s.modLaunch key f).replicas = s.replicas := rfl
@[simp] theorem State.modLaunch_replNum (s : State) (key : Nat) (f : Launch → Launch) : (s.modLaunch key f).replNum = s.replNum := rfl
@[simp] theorem State.modLaunch_replWait (s : State) (key : Nat) (f : Launch → Launch) : (s.modLaunch key f).replWait = s.replWait := rfl
@[simp] theorem State.modLaunch_leases (s : State) (key : Nat) (f : Launch → Launch) : (s.modLaunch key f).leases = s.leases := rfl
@[simp] theorem State.modLaunch_holds (s : State) (key : Nat) (f : Launch → Launch) : (s.modLaunch key f).holds = s.holds := rfl
@[simp] theorem State.modLaunch_resyncs (s : State) (key : Nat) (f : Launch → Launch) : (s.modLaunch key f).resyncs = s.resyncs := rfl
@[simp] theorem State.modLaunch_xlV (s : State) (key : Nat) (f : Launch → Launch) : (s.modLaunch key f).xlV = s.xlV := rfl
@[simp] theorem State.modLaunch_xlRoot (s : State) (key : Nat) (f : Launch → Launch) : (s.modLaunch key f).xlRoot = s.xlRoot := rfl
@[simp] theorem State.modLaunch_walks (s : State) (key : Nat) (f : Launch → Launch) : (s.modLaunch key f).walks = s.walks := rfl
@[simp] theorem State.modLaunch_dieTlb (s : State) (key : Nat) (f : Launch → Launch) : (s.modLaunch key f).dieTlb = s.dieTlb := rfl
@[simp] theorem State.modLaunch_walkNow (s : State) (key : Nat) (f : Launch → Launch) : (s.modLaunch key f).walkNow = s.walkNow := rfl
@[simp] theorem State.modLaunch_boxes (s : State) (key : Nat) (f : Launch → Launch) : (s.modLaunch key f).boxes = s.boxes := rfl
@[simp] theorem State.modLaunch_hashReqs (s : State) (key : Nat) (f : Launch → Launch) : (s.modLaunch key f).hashReqs = s.hashReqs := rfl
@[simp] theorem State.modLaunch_oosDies (s : State) (key : Nat) (f : Launch → Launch) : (s.modLaunch key f).oosDies = s.oosDies := rfl
@[simp] theorem State.modLaunch_pkgId (s : State) (key : Nat) (f : Launch → Launch) : (s.modLaunch key f).pkgId = s.pkgId := rfl
@[simp] theorem State.modLaunch_resets (s : State) (key : Nat) (f : Launch → Launch) : (s.modLaunch key f).resets = s.resets := rfl
@[simp] theorem State.modLaunch_bringUp (s : State) (key : Nat) (f : Launch → Launch) : (s.modLaunch key f).bringUp = s.bringUp := rfl
@[simp] theorem State.modLaunch_powerHold (s : State) (key : Nat) (f : Launch → Launch) : (s.modLaunch key f).powerHold = s.powerHold := rfl
@[simp] theorem State.modLaunch_budgetAt (s : State) (key : Nat) (f : Launch → Launch) : (s.modLaunch key f).budgetAt = s.budgetAt := rfl
@[simp] theorem State.modLaunch_running (s : State) (key : Nat) (f : Launch → Launch) : (s.modLaunch key f).running = s.running := rfl
@[simp] theorem State.modLaunch_pending (s : State) (key : Nat) (f : Launch → Launch) : (s.modLaunch key f).pending = s.pending := rfl

/-! ### `corrected` -/

@[simp] theorem State.corrected_agenda (s : State) (key cost : Nat) : (s.corrected key cost).agenda = s.agenda := rfl
@[simp] theorem State.corrected_site (s : State) (key cost : Nat) : (s.corrected key cost).site = s.site := rfl
@[simp] theorem State.corrected_free (s : State) (key cost : Nat) : (s.corrected key cost).free = s.free := rfl
@[simp] theorem State.corrected_cycle (s : State) (key cost : Nat) : (s.corrected key cost).cycle = s.cycle := rfl
@[simp] theorem State.corrected_mem (s : State) (key cost : Nat) : (s.corrected key cost).mem = s.mem := rfl
@[simp] theorem State.corrected_hbmGen (s : State) (key cost : Nat) : (s.corrected key cost).hbmGen = s.hbmGen := rfl
@[simp] theorem State.corrected_badWords (s : State) (key cost : Nat) : (s.corrected key cost).badWords = s.badWords := rfl
@[simp] theorem State.corrected_eccCount (s : State) (key cost : Nat) : (s.corrected key cost).eccCount = s.eccCount := rfl
@[simp] theorem State.corrected_cells (s : State) (key cost : Nat) : (s.corrected key cost).cells = s.cells := rfl
@[simp] theorem State.corrected_quads (s : State) (key cost : Nat) : (s.corrected key cost).quads = s.quads := rfl
@[simp] theorem State.corrected_slots (s : State) (key cost : Nat) : (s.corrected key cost).slots = s.slots := rfl
@[simp] theorem State.corrected_links (s : State) (key cost : Nat) : (s.corrected key cost).links = s.links := rfl
@[simp] theorem State.corrected_pairs (s : State) (key cost : Nat) : (s.corrected key cost).pairs = s.pairs := rfl
@[simp] theorem State.corrected_ports (s : State) (key cost : Nat) : (s.corrected key cost).ports = s.ports := rfl
@[simp] theorem State.corrected_streams (s : State) (key cost : Nat) : (s.corrected key cost).streams = s.streams := rfl
@[simp] theorem State.corrected_signals (s : State) (key cost : Nat) : (s.corrected key cost).signals = s.signals := rfl
@[simp] theorem State.corrected_serial (s : State) (key cost : Nat) : (s.corrected key cost).serial = s.serial := rfl
@[simp] theorem State.corrected_copyhs (s : State) (key cost : Nat) : (s.corrected key cost).copyhs = s.copyhs := rfl
@[simp] theorem State.corrected_hostOut (s : State) (key cost : Nat) : (s.corrected key cost).hostOut = s.hostOut := rfl
@[simp] theorem State.corrected_portOut (s : State) (key cost : Nat) : (s.corrected key cost).portOut = s.portOut := rfl
@[simp] theorem State.corrected_presence (s : State) (key cost : Nat) : (s.corrected key cost).presence = s.presence := rfl
@[simp] theorem State.corrected_regions (s : State) (key cost : Nat) : (s.corrected key cost).regions = s.regions := rfl
@[simp] theorem State.corrected_launchNum (s : State) (key cost : Nat) : (s.corrected key cost).launchNum = s.launchNum := rfl
@[simp] theorem State.corrected_launchKey (s : State) (key cost : Nat) : (s.corrected key cost).launchKey = s.launchKey := rfl
@[simp] theorem State.corrected_barriers (s : State) (key cost : Nat) : (s.corrected key cost).barriers = s.barriers := rfl
@[simp] theorem State.corrected_notices (s : State) (key cost : Nat) : (s.corrected key cost).notices = s.notices := rfl
@[simp] theorem State.corrected_engines (s : State) (key cost : Nat) : (s.corrected key cost).engines = s.engines := rfl
@[simp] theorem State.corrected_counters (s : State) (key cost : Nat) : (s.corrected key cost).counters = s.counters := rfl
@[simp] theorem State.corrected_incs (s : State) (key cost : Nat) : (s.corrected key cost).incs = s.incs := rfl
@[simp] theorem State.corrected_inWrites (s : State) (key cost : Nat) : (s.corrected key cost).inWrites = s.inWrites := rfl
@[simp] theorem State.corrected_redWrites (s : State) (key cost : Nat) : (s.corrected key cost).redWrites = s.redWrites := rfl
@[simp] theorem State.corrected_redHeld (s : State) (key cost : Nat) : (s.corrected key cost).redHeld = s.redHeld := rfl
@[simp] theorem State.corrected_redNext (s : State) (key cost : Nat) : (s.corrected key cost).redNext = s.redNext := rfl
@[simp] theorem State.corrected_netNext (s : State) (key cost : Nat) : (s.corrected key cost).netNext = s.netNext := rfl
@[simp] theorem State.corrected_chunksIn (s : State) (key cost : Nat) : (s.corrected key cost).chunksIn = s.chunksIn := rfl
@[simp] theorem State.corrected_chunkNext (s : State) (key cost : Nat) : (s.corrected key cost).chunkNext = s.chunkNext := rfl
@[simp] theorem State.corrected_chunkResp (s : State) (key cost : Nat) : (s.corrected key cost).chunkResp = s.chunkResp := rfl
@[simp] theorem State.corrected_homeNext (s : State) (key cost : Nat) : (s.corrected key cost).homeNext = s.homeNext := rfl
@[simp] theorem State.corrected_transfers (s : State) (key cost : Nat) : (s.corrected key cost).transfers = s.transfers := rfl
@[simp] theorem State.corrected_chunkOut (s : State) (key cost : Nat) : (s.corrected key cost).chunkOut = s.chunkOut := rfl
@[simp] theorem State.corrected_chunkLast (s : State) (key cost : Nat) : (s.corrected key cost).chunkLast = s.chunkLast := rfl
@[simp] theorem State.corrected_netOut (s : State) (key cost : Nat) : (s.corrected key cost).netOut = s.netOut := rfl
@[simp] theorem State.corrected_unreached (s : State) (key cost : Nat) : (s.corrected key cost).unreached = s.unreached := rfl
@[simp] theorem State.corrected_parkedIn (s : State) (key cost : Nat) : (s.corrected key cost).parkedIn = s.parkedIn := rfl
@[simp] theorem State.corrected_parkedRed (s : State) (key cost : Nat) : (s.corrected key cost).parkedRed = s.parkedRed := rfl
@[simp] theorem State.corrected_members (s : State) (key cost : Nat) : (s.corrected key cost).members = s.members := rfl
@[simp] theorem State.corrected_xslots (s : State) (key cost : Nat) : (s.corrected key cost).xslots = s.xslots := rfl
@[simp] theorem State.corrected_xmsgs (s : State) (key cost : Nat) : (s.corrected key cost).xmsgs = s.xmsgs := rfl
@[simp] theorem State.corrected_xnet (s : State) (key cost : Nat) : (s.corrected key cost).xnet = s.xnet := rfl
@[simp] theorem State.corrected_asks (s : State) (key cost : Nat) : (s.corrected key cost).asks = s.asks := rfl
@[simp] theorem State.corrected_replicas (s : State) (key cost : Nat) : (s.corrected key cost).replicas = s.replicas := rfl
@[simp] theorem State.corrected_replNum (s : State) (key cost : Nat) : (s.corrected key cost).replNum = s.replNum := rfl
@[simp] theorem State.corrected_replWait (s : State) (key cost : Nat) : (s.corrected key cost).replWait = s.replWait := rfl
@[simp] theorem State.corrected_leases (s : State) (key cost : Nat) : (s.corrected key cost).leases = s.leases := rfl
@[simp] theorem State.corrected_holds (s : State) (key cost : Nat) : (s.corrected key cost).holds = s.holds := rfl
@[simp] theorem State.corrected_resyncs (s : State) (key cost : Nat) : (s.corrected key cost).resyncs = s.resyncs := rfl
@[simp] theorem State.corrected_xlV (s : State) (key cost : Nat) : (s.corrected key cost).xlV = s.xlV := rfl
@[simp] theorem State.corrected_xlRoot (s : State) (key cost : Nat) : (s.corrected key cost).xlRoot = s.xlRoot := rfl
@[simp] theorem State.corrected_walks (s : State) (key cost : Nat) : (s.corrected key cost).walks = s.walks := rfl
@[simp] theorem State.corrected_dieTlb (s : State) (key cost : Nat) : (s.corrected key cost).dieTlb = s.dieTlb := rfl
@[simp] theorem State.corrected_walkNow (s : State) (key cost : Nat) : (s.corrected key cost).walkNow = s.walkNow := rfl
@[simp] theorem State.corrected_boxes (s : State) (key cost : Nat) : (s.corrected key cost).boxes = s.boxes := rfl
@[simp] theorem State.corrected_hashReqs (s : State) (key cost : Nat) : (s.corrected key cost).hashReqs = s.hashReqs := rfl
@[simp] theorem State.corrected_oosDies (s : State) (key cost : Nat) : (s.corrected key cost).oosDies = s.oosDies := rfl
@[simp] theorem State.corrected_pkgId (s : State) (key cost : Nat) : (s.corrected key cost).pkgId = s.pkgId := rfl
@[simp] theorem State.corrected_resets (s : State) (key cost : Nat) : (s.corrected key cost).resets = s.resets := rfl
@[simp] theorem State.corrected_bringUp (s : State) (key cost : Nat) : (s.corrected key cost).bringUp = s.bringUp := rfl
@[simp] theorem State.corrected_powerHold (s : State) (key cost : Nat) : (s.corrected key cost).powerHold = s.powerHold := rfl
@[simp] theorem State.corrected_budgetAt (s : State) (key cost : Nat) : (s.corrected key cost).budgetAt = s.budgetAt := rfl
@[simp] theorem State.corrected_running (s : State) (key cost : Nat) : (s.corrected key cost).running = s.running := rfl
@[simp] theorem State.corrected_pending (s : State) (key cost : Nat) : (s.corrected key cost).pending = s.pending := rfl

/-! ### What is given to a request of a pair -/

@[simp] theorem State.carry_agenda (s : State) (k d : Nat) (r : MeshReq) : (s.carry k d r).2.agenda = s.agenda := by
  unfold State.carry; dsimp only; split
  · rfl
  · split <;> rfl
@[simp] theorem State.sendInc_agenda (s : State) (k : Nat) (u : Option Nat) (c : BitVec 14) (a w : Word) : (s.sendInc k u c a w).agenda = s.agenda := State.carry_agenda ..
@[simp] theorem State.carry_site (s : State) (k d : Nat) (r : MeshReq) : (s.carry k d r).2.site = s.site := by
  unfold State.carry; dsimp only; split
  · rfl
  · split <;> rfl
@[simp] theorem State.sendInc_site (s : State) (k : Nat) (u : Option Nat) (c : BitVec 14) (a w : Word) : (s.sendInc k u c a w).site = s.site := State.carry_site ..
@[simp] theorem State.carry_free (s : State) (k d : Nat) (r : MeshReq) : (s.carry k d r).2.free = s.free := by
  unfold State.carry; dsimp only; split
  · rfl
  · split <;> rfl
@[simp] theorem State.sendInc_free (s : State) (k : Nat) (u : Option Nat) (c : BitVec 14) (a w : Word) : (s.sendInc k u c a w).free = s.free := State.carry_free ..
@[simp] theorem State.carry_cycle (s : State) (k d : Nat) (r : MeshReq) : (s.carry k d r).2.cycle = s.cycle := by
  unfold State.carry; dsimp only; split
  · rfl
  · split <;> rfl
@[simp] theorem State.sendInc_cycle (s : State) (k : Nat) (u : Option Nat) (c : BitVec 14) (a w : Word) : (s.sendInc k u c a w).cycle = s.cycle := State.carry_cycle ..
@[simp] theorem State.carry_mem (s : State) (k d : Nat) (r : MeshReq) : (s.carry k d r).2.mem = s.mem := by
  unfold State.carry; dsimp only; split
  · rfl
  · split <;> rfl
@[simp] theorem State.sendInc_mem (s : State) (k : Nat) (u : Option Nat) (c : BitVec 14) (a w : Word) : (s.sendInc k u c a w).mem = s.mem := State.carry_mem ..
@[simp] theorem State.carry_hbmGen (s : State) (k d : Nat) (r : MeshReq) : (s.carry k d r).2.hbmGen = s.hbmGen := by
  unfold State.carry; dsimp only; split
  · rfl
  · split <;> rfl
@[simp] theorem State.sendInc_hbmGen (s : State) (k : Nat) (u : Option Nat) (c : BitVec 14) (a w : Word) : (s.sendInc k u c a w).hbmGen = s.hbmGen := State.carry_hbmGen ..
@[simp] theorem State.carry_badWords (s : State) (k d : Nat) (r : MeshReq) : (s.carry k d r).2.badWords = s.badWords := by
  unfold State.carry; dsimp only; split
  · rfl
  · split <;> rfl
@[simp] theorem State.sendInc_badWords (s : State) (k : Nat) (u : Option Nat) (c : BitVec 14) (a w : Word) : (s.sendInc k u c a w).badWords = s.badWords := State.carry_badWords ..
@[simp] theorem State.carry_eccCount (s : State) (k d : Nat) (r : MeshReq) : (s.carry k d r).2.eccCount = s.eccCount := by
  unfold State.carry; dsimp only; split
  · rfl
  · split <;> rfl
@[simp] theorem State.sendInc_eccCount (s : State) (k : Nat) (u : Option Nat) (c : BitVec 14) (a w : Word) : (s.sendInc k u c a w).eccCount = s.eccCount := State.carry_eccCount ..
@[simp] theorem State.carry_cells (s : State) (k d : Nat) (r : MeshReq) : (s.carry k d r).2.cells = s.cells := by
  unfold State.carry; dsimp only; split
  · rfl
  · split <;> rfl
@[simp] theorem State.sendInc_cells (s : State) (k : Nat) (u : Option Nat) (c : BitVec 14) (a w : Word) : (s.sendInc k u c a w).cells = s.cells := State.carry_cells ..
@[simp] theorem State.carry_quads (s : State) (k d : Nat) (r : MeshReq) : (s.carry k d r).2.quads = s.quads := by
  unfold State.carry; dsimp only; split
  · rfl
  · split <;> rfl
@[simp] theorem State.sendInc_quads (s : State) (k : Nat) (u : Option Nat) (c : BitVec 14) (a w : Word) : (s.sendInc k u c a w).quads = s.quads := State.carry_quads ..
@[simp] theorem State.carry_slots (s : State) (k d : Nat) (r : MeshReq) : (s.carry k d r).2.slots = s.slots := by
  unfold State.carry; dsimp only; split
  · rfl
  · split <;> rfl
@[simp] theorem State.sendInc_slots (s : State) (k : Nat) (u : Option Nat) (c : BitVec 14) (a w : Word) : (s.sendInc k u c a w).slots = s.slots := State.carry_slots ..
@[simp] theorem State.carry_links (s : State) (k d : Nat) (r : MeshReq) : (s.carry k d r).2.links = s.links := by
  unfold State.carry; dsimp only; split
  · rfl
  · split <;> rfl
@[simp] theorem State.sendInc_links (s : State) (k : Nat) (u : Option Nat) (c : BitVec 14) (a w : Word) : (s.sendInc k u c a w).links = s.links := State.carry_links ..
@[simp] theorem State.carry_ports (s : State) (k d : Nat) (r : MeshReq) : (s.carry k d r).2.ports = s.ports := by
  unfold State.carry; dsimp only; split
  · rfl
  · split <;> rfl
@[simp] theorem State.sendInc_ports (s : State) (k : Nat) (u : Option Nat) (c : BitVec 14) (a w : Word) : (s.sendInc k u c a w).ports = s.ports := State.carry_ports ..
@[simp] theorem State.carry_streams (s : State) (k d : Nat) (r : MeshReq) : (s.carry k d r).2.streams = s.streams := by
  unfold State.carry; dsimp only; split
  · rfl
  · split <;> rfl
@[simp] theorem State.sendInc_streams (s : State) (k : Nat) (u : Option Nat) (c : BitVec 14) (a w : Word) : (s.sendInc k u c a w).streams = s.streams := State.carry_streams ..
@[simp] theorem State.carry_signals (s : State) (k d : Nat) (r : MeshReq) : (s.carry k d r).2.signals = s.signals := by
  unfold State.carry; dsimp only; split
  · rfl
  · split <;> rfl
@[simp] theorem State.sendInc_signals (s : State) (k : Nat) (u : Option Nat) (c : BitVec 14) (a w : Word) : (s.sendInc k u c a w).signals = s.signals := State.carry_signals ..
@[simp] theorem State.carry_serial (s : State) (k d : Nat) (r : MeshReq) : (s.carry k d r).2.serial = s.serial := by
  unfold State.carry; dsimp only; split
  · rfl
  · split <;> rfl
@[simp] theorem State.sendInc_serial (s : State) (k : Nat) (u : Option Nat) (c : BitVec 14) (a w : Word) : (s.sendInc k u c a w).serial = s.serial := State.carry_serial ..
@[simp] theorem State.carry_copyhs (s : State) (k d : Nat) (r : MeshReq) : (s.carry k d r).2.copyhs = s.copyhs := by
  unfold State.carry; dsimp only; split
  · rfl
  · split <;> rfl
@[simp] theorem State.sendInc_copyhs (s : State) (k : Nat) (u : Option Nat) (c : BitVec 14) (a w : Word) : (s.sendInc k u c a w).copyhs = s.copyhs := State.carry_copyhs ..
@[simp] theorem State.carry_hostOut (s : State) (k d : Nat) (r : MeshReq) : (s.carry k d r).2.hostOut = s.hostOut := by
  unfold State.carry; dsimp only; split
  · rfl
  · split <;> rfl
@[simp] theorem State.sendInc_hostOut (s : State) (k : Nat) (u : Option Nat) (c : BitVec 14) (a w : Word) : (s.sendInc k u c a w).hostOut = s.hostOut := State.carry_hostOut ..
@[simp] theorem State.carry_portOut (s : State) (k d : Nat) (r : MeshReq) : (s.carry k d r).2.portOut = s.portOut := by
  unfold State.carry; dsimp only; split
  · rfl
  · split <;> rfl
@[simp] theorem State.sendInc_portOut (s : State) (k : Nat) (u : Option Nat) (c : BitVec 14) (a w : Word) : (s.sendInc k u c a w).portOut = s.portOut := State.carry_portOut ..
@[simp] theorem State.carry_presence (s : State) (k d : Nat) (r : MeshReq) : (s.carry k d r).2.presence = s.presence := by
  unfold State.carry; dsimp only; split
  · rfl
  · split <;> rfl
@[simp] theorem State.sendInc_presence (s : State) (k : Nat) (u : Option Nat) (c : BitVec 14) (a w : Word) : (s.sendInc k u c a w).presence = s.presence := State.carry_presence ..
@[simp] theorem State.carry_regions (s : State) (k d : Nat) (r : MeshReq) : (s.carry k d r).2.regions = s.regions := by
  unfold State.carry; dsimp only; split
  · rfl
  · split <;> rfl
@[simp] theorem State.sendInc_regions (s : State) (k : Nat) (u : Option Nat) (c : BitVec 14) (a w : Word) : (s.sendInc k u c a w).regions = s.regions := State.carry_regions ..
@[simp] theorem State.carry_launches (s : State) (k d : Nat) (r : MeshReq) : (s.carry k d r).2.launches = s.launches := by
  unfold State.carry; dsimp only; split
  · rfl
  · split <;> rfl
@[simp] theorem State.sendInc_launches (s : State) (k : Nat) (u : Option Nat) (c : BitVec 14) (a w : Word) : (s.sendInc k u c a w).launches = s.launches := State.carry_launches ..
@[simp] theorem State.carry_launchNum (s : State) (k d : Nat) (r : MeshReq) : (s.carry k d r).2.launchNum = s.launchNum := by
  unfold State.carry; dsimp only; split
  · rfl
  · split <;> rfl
@[simp] theorem State.sendInc_launchNum (s : State) (k : Nat) (u : Option Nat) (c : BitVec 14) (a w : Word) : (s.sendInc k u c a w).launchNum = s.launchNum := State.carry_launchNum ..
@[simp] theorem State.carry_launchKey (s : State) (k d : Nat) (r : MeshReq) : (s.carry k d r).2.launchKey = s.launchKey := by
  unfold State.carry; dsimp only; split
  · rfl
  · split <;> rfl
@[simp] theorem State.sendInc_launchKey (s : State) (k : Nat) (u : Option Nat) (c : BitVec 14) (a w : Word) : (s.sendInc k u c a w).launchKey = s.launchKey := State.carry_launchKey ..
@[simp] theorem State.carry_barriers (s : State) (k d : Nat) (r : MeshReq) : (s.carry k d r).2.barriers = s.barriers := by
  unfold State.carry; dsimp only; split
  · rfl
  · split <;> rfl
@[simp] theorem State.sendInc_barriers (s : State) (k : Nat) (u : Option Nat) (c : BitVec 14) (a w : Word) : (s.sendInc k u c a w).barriers = s.barriers := State.carry_barriers ..
@[simp] theorem State.carry_notices (s : State) (k d : Nat) (r : MeshReq) : (s.carry k d r).2.notices = s.notices := by
  unfold State.carry; dsimp only; split
  · rfl
  · split <;> rfl
@[simp] theorem State.sendInc_notices (s : State) (k : Nat) (u : Option Nat) (c : BitVec 14) (a w : Word) : (s.sendInc k u c a w).notices = s.notices := State.carry_notices ..
@[simp] theorem State.carry_engines (s : State) (k d : Nat) (r : MeshReq) : (s.carry k d r).2.engines = s.engines := by
  unfold State.carry; dsimp only; split
  · rfl
  · split <;> rfl
@[simp] theorem State.sendInc_engines (s : State) (k : Nat) (u : Option Nat) (c : BitVec 14) (a w : Word) : (s.sendInc k u c a w).engines = s.engines := State.carry_engines ..
@[simp] theorem State.carry_counters (s : State) (k d : Nat) (r : MeshReq) : (s.carry k d r).2.counters = s.counters := by
  unfold State.carry; dsimp only; split
  · rfl
  · split <;> rfl
@[simp] theorem State.sendInc_counters (s : State) (k : Nat) (u : Option Nat) (c : BitVec 14) (a w : Word) : (s.sendInc k u c a w).counters = s.counters := State.carry_counters ..
@[simp] theorem State.carry_incs (s : State) (k d : Nat) (r : MeshReq) : (s.carry k d r).2.incs = s.incs := by
  unfold State.carry; dsimp only; split
  · rfl
  · split <;> rfl
@[simp] theorem State.carry_inWrites (s : State) (k d : Nat) (r : MeshReq) : (s.carry k d r).2.inWrites = s.inWrites := by
  unfold State.carry; dsimp only; split
  · rfl
  · split <;> rfl
@[simp] theorem State.sendInc_inWrites (s : State) (k : Nat) (u : Option Nat) (c : BitVec 14) (a w : Word) : (s.sendInc k u c a w).inWrites = s.inWrites := State.carry_inWrites ..
@[simp] theorem State.carry_redWrites (s : State) (k d : Nat) (r : MeshReq) : (s.carry k d r).2.redWrites = s.redWrites := by
  unfold State.carry; dsimp only; split
  · rfl
  · split <;> rfl
@[simp] theorem State.sendInc_redWrites (s : State) (k : Nat) (u : Option Nat) (c : BitVec 14) (a w : Word) : (s.sendInc k u c a w).redWrites = s.redWrites := State.carry_redWrites ..
@[simp] theorem State.carry_redHeld (s : State) (k d : Nat) (r : MeshReq) : (s.carry k d r).2.redHeld = s.redHeld := by
  unfold State.carry; dsimp only; split
  · rfl
  · split <;> rfl
@[simp] theorem State.sendInc_redHeld (s : State) (k : Nat) (u : Option Nat) (c : BitVec 14) (a w : Word) : (s.sendInc k u c a w).redHeld = s.redHeld := State.carry_redHeld ..
@[simp] theorem State.carry_redNext (s : State) (k d : Nat) (r : MeshReq) : (s.carry k d r).2.redNext = s.redNext := by
  unfold State.carry; dsimp only; split
  · rfl
  · split <;> rfl
@[simp] theorem State.sendInc_redNext (s : State) (k : Nat) (u : Option Nat) (c : BitVec 14) (a w : Word) : (s.sendInc k u c a w).redNext = s.redNext := State.carry_redNext ..
@[simp] theorem State.carry_chunksIn (s : State) (k d : Nat) (r : MeshReq) : (s.carry k d r).2.chunksIn = s.chunksIn := by
  unfold State.carry; dsimp only; split
  · rfl
  · split <;> rfl
@[simp] theorem State.sendInc_chunksIn (s : State) (k : Nat) (u : Option Nat) (c : BitVec 14) (a w : Word) : (s.sendInc k u c a w).chunksIn = s.chunksIn := State.carry_chunksIn ..
@[simp] theorem State.carry_chunkNext (s : State) (k d : Nat) (r : MeshReq) : (s.carry k d r).2.chunkNext = s.chunkNext := by
  unfold State.carry; dsimp only; split
  · rfl
  · split <;> rfl
@[simp] theorem State.sendInc_chunkNext (s : State) (k : Nat) (u : Option Nat) (c : BitVec 14) (a w : Word) : (s.sendInc k u c a w).chunkNext = s.chunkNext := State.carry_chunkNext ..
@[simp] theorem State.carry_chunkResp (s : State) (k d : Nat) (r : MeshReq) : (s.carry k d r).2.chunkResp = s.chunkResp := by
  unfold State.carry; dsimp only; split
  · rfl
  · split <;> rfl
@[simp] theorem State.sendInc_chunkResp (s : State) (k : Nat) (u : Option Nat) (c : BitVec 14) (a w : Word) : (s.sendInc k u c a w).chunkResp = s.chunkResp := State.carry_chunkResp ..
@[simp] theorem State.carry_homeNext (s : State) (k d : Nat) (r : MeshReq) : (s.carry k d r).2.homeNext = s.homeNext := by
  unfold State.carry; dsimp only; split
  · rfl
  · split <;> rfl
@[simp] theorem State.sendInc_homeNext (s : State) (k : Nat) (u : Option Nat) (c : BitVec 14) (a w : Word) : (s.sendInc k u c a w).homeNext = s.homeNext := State.carry_homeNext ..
@[simp] theorem State.carry_transfers (s : State) (k d : Nat) (r : MeshReq) : (s.carry k d r).2.transfers = s.transfers := by
  unfold State.carry; dsimp only; split
  · rfl
  · split <;> rfl
@[simp] theorem State.sendInc_transfers (s : State) (k : Nat) (u : Option Nat) (c : BitVec 14) (a w : Word) : (s.sendInc k u c a w).transfers = s.transfers := State.carry_transfers ..
@[simp] theorem State.carry_chunkOut (s : State) (k d : Nat) (r : MeshReq) : (s.carry k d r).2.chunkOut = s.chunkOut := by
  unfold State.carry; dsimp only; split
  · rfl
  · split <;> rfl
@[simp] theorem State.sendInc_chunkOut (s : State) (k : Nat) (u : Option Nat) (c : BitVec 14) (a w : Word) : (s.sendInc k u c a w).chunkOut = s.chunkOut := State.carry_chunkOut ..
@[simp] theorem State.carry_chunkLast (s : State) (k d : Nat) (r : MeshReq) : (s.carry k d r).2.chunkLast = s.chunkLast := by
  unfold State.carry; dsimp only; split
  · rfl
  · split <;> rfl
@[simp] theorem State.sendInc_chunkLast (s : State) (k : Nat) (u : Option Nat) (c : BitVec 14) (a w : Word) : (s.sendInc k u c a w).chunkLast = s.chunkLast := State.carry_chunkLast ..
@[simp] theorem State.carry_netOut (s : State) (k d : Nat) (r : MeshReq) : (s.carry k d r).2.netOut = s.netOut := by
  unfold State.carry; dsimp only; split
  · rfl
  · split <;> rfl
@[simp] theorem State.sendInc_netOut (s : State) (k : Nat) (u : Option Nat) (c : BitVec 14) (a w : Word) : (s.sendInc k u c a w).netOut = s.netOut := State.carry_netOut ..
@[simp] theorem State.carry_unreached (s : State) (k d : Nat) (r : MeshReq) : (s.carry k d r).2.unreached = s.unreached := by
  unfold State.carry; dsimp only; split
  · rfl
  · split <;> rfl
@[simp] theorem State.sendInc_unreached (s : State) (k : Nat) (u : Option Nat) (c : BitVec 14) (a w : Word) : (s.sendInc k u c a w).unreached = s.unreached := State.carry_unreached ..
@[simp] theorem State.carry_parkedIn (s : State) (k d : Nat) (r : MeshReq) : (s.carry k d r).2.parkedIn = s.parkedIn := by
  unfold State.carry; dsimp only; split
  · rfl
  · split <;> rfl
@[simp] theorem State.sendInc_parkedIn (s : State) (k : Nat) (u : Option Nat) (c : BitVec 14) (a w : Word) : (s.sendInc k u c a w).parkedIn = s.parkedIn := State.carry_parkedIn ..
@[simp] theorem State.carry_parkedRed (s : State) (k d : Nat) (r : MeshReq) : (s.carry k d r).2.parkedRed = s.parkedRed := by
  unfold State.carry; dsimp only; split
  · rfl
  · split <;> rfl
@[simp] theorem State.sendInc_parkedRed (s : State) (k : Nat) (u : Option Nat) (c : BitVec 14) (a w : Word) : (s.sendInc k u c a w).parkedRed = s.parkedRed := State.carry_parkedRed ..
@[simp] theorem State.carry_members (s : State) (k d : Nat) (r : MeshReq) : (s.carry k d r).2.members = s.members := by
  unfold State.carry; dsimp only; split
  · rfl
  · split <;> rfl
@[simp] theorem State.sendInc_members (s : State) (k : Nat) (u : Option Nat) (c : BitVec 14) (a w : Word) : (s.sendInc k u c a w).members = s.members := State.carry_members ..
@[simp] theorem State.carry_xslots (s : State) (k d : Nat) (r : MeshReq) : (s.carry k d r).2.xslots = s.xslots := by
  unfold State.carry; dsimp only; split
  · rfl
  · split <;> rfl
@[simp] theorem State.sendInc_xslots (s : State) (k : Nat) (u : Option Nat) (c : BitVec 14) (a w : Word) : (s.sendInc k u c a w).xslots = s.xslots := State.carry_xslots ..
@[simp] theorem State.carry_xmsgs (s : State) (k d : Nat) (r : MeshReq) : (s.carry k d r).2.xmsgs = s.xmsgs := by
  unfold State.carry; dsimp only; split
  · rfl
  · split <;> rfl
@[simp] theorem State.sendInc_xmsgs (s : State) (k : Nat) (u : Option Nat) (c : BitVec 14) (a w : Word) : (s.sendInc k u c a w).xmsgs = s.xmsgs := State.carry_xmsgs ..
@[simp] theorem State.carry_xnet (s : State) (k d : Nat) (r : MeshReq) : (s.carry k d r).2.xnet = s.xnet := by
  unfold State.carry; dsimp only; split
  · rfl
  · split <;> rfl
@[simp] theorem State.sendInc_xnet (s : State) (k : Nat) (u : Option Nat) (c : BitVec 14) (a w : Word) : (s.sendInc k u c a w).xnet = s.xnet := State.carry_xnet ..
@[simp] theorem State.carry_asks (s : State) (k d : Nat) (r : MeshReq) : (s.carry k d r).2.asks = s.asks := by
  unfold State.carry; dsimp only; split
  · rfl
  · split <;> rfl
@[simp] theorem State.sendInc_asks (s : State) (k : Nat) (u : Option Nat) (c : BitVec 14) (a w : Word) : (s.sendInc k u c a w).asks = s.asks := State.carry_asks ..
@[simp] theorem State.carry_replicas (s : State) (k d : Nat) (r : MeshReq) : (s.carry k d r).2.replicas = s.replicas := by
  unfold State.carry; dsimp only; split
  · rfl
  · split <;> rfl
@[simp] theorem State.sendInc_replicas (s : State) (k : Nat) (u : Option Nat) (c : BitVec 14) (a w : Word) : (s.sendInc k u c a w).replicas = s.replicas := State.carry_replicas ..
@[simp] theorem State.carry_replNum (s : State) (k d : Nat) (r : MeshReq) : (s.carry k d r).2.replNum = s.replNum := by
  unfold State.carry; dsimp only; split
  · rfl
  · split <;> rfl
@[simp] theorem State.sendInc_replNum (s : State) (k : Nat) (u : Option Nat) (c : BitVec 14) (a w : Word) : (s.sendInc k u c a w).replNum = s.replNum := State.carry_replNum ..
@[simp] theorem State.carry_replWait (s : State) (k d : Nat) (r : MeshReq) : (s.carry k d r).2.replWait = s.replWait := by
  unfold State.carry; dsimp only; split
  · rfl
  · split <;> rfl
@[simp] theorem State.sendInc_replWait (s : State) (k : Nat) (u : Option Nat) (c : BitVec 14) (a w : Word) : (s.sendInc k u c a w).replWait = s.replWait := State.carry_replWait ..
@[simp] theorem State.carry_leases (s : State) (k d : Nat) (r : MeshReq) : (s.carry k d r).2.leases = s.leases := by
  unfold State.carry; dsimp only; split
  · rfl
  · split <;> rfl
@[simp] theorem State.sendInc_leases (s : State) (k : Nat) (u : Option Nat) (c : BitVec 14) (a w : Word) : (s.sendInc k u c a w).leases = s.leases := State.carry_leases ..
@[simp] theorem State.carry_holds (s : State) (k d : Nat) (r : MeshReq) : (s.carry k d r).2.holds = s.holds := by
  unfold State.carry; dsimp only; split
  · rfl
  · split <;> rfl
@[simp] theorem State.sendInc_holds (s : State) (k : Nat) (u : Option Nat) (c : BitVec 14) (a w : Word) : (s.sendInc k u c a w).holds = s.holds := State.carry_holds ..
@[simp] theorem State.carry_resyncs (s : State) (k d : Nat) (r : MeshReq) : (s.carry k d r).2.resyncs = s.resyncs := by
  unfold State.carry; dsimp only; split
  · rfl
  · split <;> rfl
@[simp] theorem State.sendInc_resyncs (s : State) (k : Nat) (u : Option Nat) (c : BitVec 14) (a w : Word) : (s.sendInc k u c a w).resyncs = s.resyncs := State.carry_resyncs ..
@[simp] theorem State.carry_xlV (s : State) (k d : Nat) (r : MeshReq) : (s.carry k d r).2.xlV = s.xlV := by
  unfold State.carry; dsimp only; split
  · rfl
  · split <;> rfl
@[simp] theorem State.sendInc_xlV (s : State) (k : Nat) (u : Option Nat) (c : BitVec 14) (a w : Word) : (s.sendInc k u c a w).xlV = s.xlV := State.carry_xlV ..
@[simp] theorem State.carry_xlRoot (s : State) (k d : Nat) (r : MeshReq) : (s.carry k d r).2.xlRoot = s.xlRoot := by
  unfold State.carry; dsimp only; split
  · rfl
  · split <;> rfl
@[simp] theorem State.sendInc_xlRoot (s : State) (k : Nat) (u : Option Nat) (c : BitVec 14) (a w : Word) : (s.sendInc k u c a w).xlRoot = s.xlRoot := State.carry_xlRoot ..
@[simp] theorem State.carry_walks (s : State) (k d : Nat) (r : MeshReq) : (s.carry k d r).2.walks = s.walks := by
  unfold State.carry; dsimp only; split
  · rfl
  · split <;> rfl
@[simp] theorem State.sendInc_walks (s : State) (k : Nat) (u : Option Nat) (c : BitVec 14) (a w : Word) : (s.sendInc k u c a w).walks = s.walks := State.carry_walks ..
@[simp] theorem State.carry_dieTlb (s : State) (k d : Nat) (r : MeshReq) : (s.carry k d r).2.dieTlb = s.dieTlb := by
  unfold State.carry; dsimp only; split
  · rfl
  · split <;> rfl
@[simp] theorem State.sendInc_dieTlb (s : State) (k : Nat) (u : Option Nat) (c : BitVec 14) (a w : Word) : (s.sendInc k u c a w).dieTlb = s.dieTlb := State.carry_dieTlb ..
@[simp] theorem State.carry_walkNow (s : State) (k d : Nat) (r : MeshReq) : (s.carry k d r).2.walkNow = s.walkNow := by
  unfold State.carry; dsimp only; split
  · rfl
  · split <;> rfl
@[simp] theorem State.sendInc_walkNow (s : State) (k : Nat) (u : Option Nat) (c : BitVec 14) (a w : Word) : (s.sendInc k u c a w).walkNow = s.walkNow := State.carry_walkNow ..
@[simp] theorem State.carry_boxes (s : State) (k d : Nat) (r : MeshReq) : (s.carry k d r).2.boxes = s.boxes := by
  unfold State.carry; dsimp only; split
  · rfl
  · split <;> rfl
@[simp] theorem State.sendInc_boxes (s : State) (k : Nat) (u : Option Nat) (c : BitVec 14) (a w : Word) : (s.sendInc k u c a w).boxes = s.boxes := State.carry_boxes ..
@[simp] theorem State.carry_hashReqs (s : State) (k d : Nat) (r : MeshReq) : (s.carry k d r).2.hashReqs = s.hashReqs := by
  unfold State.carry; dsimp only; split
  · rfl
  · split <;> rfl
@[simp] theorem State.sendInc_hashReqs (s : State) (k : Nat) (u : Option Nat) (c : BitVec 14) (a w : Word) : (s.sendInc k u c a w).hashReqs = s.hashReqs := State.carry_hashReqs ..
@[simp] theorem State.carry_oosDies (s : State) (k d : Nat) (r : MeshReq) : (s.carry k d r).2.oosDies = s.oosDies := by
  unfold State.carry; dsimp only; split
  · rfl
  · split <;> rfl
@[simp] theorem State.sendInc_oosDies (s : State) (k : Nat) (u : Option Nat) (c : BitVec 14) (a w : Word) : (s.sendInc k u c a w).oosDies = s.oosDies := State.carry_oosDies ..
@[simp] theorem State.carry_pkgId (s : State) (k d : Nat) (r : MeshReq) : (s.carry k d r).2.pkgId = s.pkgId := by
  unfold State.carry; dsimp only; split
  · rfl
  · split <;> rfl
@[simp] theorem State.sendInc_pkgId (s : State) (k : Nat) (u : Option Nat) (c : BitVec 14) (a w : Word) : (s.sendInc k u c a w).pkgId = s.pkgId := State.carry_pkgId ..
@[simp] theorem State.carry_resets (s : State) (k d : Nat) (r : MeshReq) : (s.carry k d r).2.resets = s.resets := by
  unfold State.carry; dsimp only; split
  · rfl
  · split <;> rfl
@[simp] theorem State.sendInc_resets (s : State) (k : Nat) (u : Option Nat) (c : BitVec 14) (a w : Word) : (s.sendInc k u c a w).resets = s.resets := State.carry_resets ..
@[simp] theorem State.carry_bringUp (s : State) (k d : Nat) (r : MeshReq) : (s.carry k d r).2.bringUp = s.bringUp := by
  unfold State.carry; dsimp only; split
  · rfl
  · split <;> rfl
@[simp] theorem State.sendInc_bringUp (s : State) (k : Nat) (u : Option Nat) (c : BitVec 14) (a w : Word) : (s.sendInc k u c a w).bringUp = s.bringUp := State.carry_bringUp ..
@[simp] theorem State.carry_powerHold (s : State) (k d : Nat) (r : MeshReq) : (s.carry k d r).2.powerHold = s.powerHold := by
  unfold State.carry; dsimp only; split
  · rfl
  · split <;> rfl
@[simp] theorem State.sendInc_powerHold (s : State) (k : Nat) (u : Option Nat) (c : BitVec 14) (a w : Word) : (s.sendInc k u c a w).powerHold = s.powerHold := State.carry_powerHold ..
@[simp] theorem State.carry_budgetAt (s : State) (k d : Nat) (r : MeshReq) : (s.carry k d r).2.budgetAt = s.budgetAt := by
  unfold State.carry; dsimp only; split
  · rfl
  · split <;> rfl
@[simp] theorem State.sendInc_budgetAt (s : State) (k : Nat) (u : Option Nat) (c : BitVec 14) (a w : Word) : (s.sendInc k u c a w).budgetAt = s.budgetAt := State.carry_budgetAt ..
@[simp] theorem State.carry_running (s : State) (k d : Nat) (r : MeshReq) : (s.carry k d r).2.running = s.running := by
  unfold State.carry; dsimp only; split
  · rfl
  · split <;> rfl
@[simp] theorem State.sendInc_running (s : State) (k : Nat) (u : Option Nat) (c : BitVec 14) (a w : Word) : (s.sendInc k u c a w).running = s.running := State.carry_running ..
@[simp] theorem State.carry_pending (s : State) (k d : Nat) (r : MeshReq) : (s.carry k d r).2.pending = s.pending := by
  unfold State.carry; dsimp only; split
  · rfl
  · split <;> rfl
@[simp] theorem State.sendInc_pending (s : State) (k : Nat) (u : Option Nat) (c : BitVec 14) (a w : Word) : (s.sendInc k u c a w).pending = s.pending := State.carry_pending ..

/-! ### A cell with a sequencer replaced -/

@[simp] theorem Cell.setSeq_bound (c : Cell) (q : SeqId) (x : Seq) : (c.setSeq q x).bound = c.bound := by cases q <;> rfl
@[simp] theorem Cell.modSeq_bound (c : Cell) (q : SeqId) (f : Seq → Seq) : (c.modSeq q f).bound = c.bound := by cases q <;> rfl
@[simp] theorem Cell.setSeq_stop (c : Cell) (q : SeqId) (x : Seq) : (c.setSeq q x).stop = c.stop := by cases q <;> rfl
@[simp] theorem Cell.modSeq_stop (c : Cell) (q : SeqId) (f : Seq → Seq) : (c.modSeq q f).stop = c.stop := by cases q <;> rfl
@[simp] theorem Cell.setSeq_queues (c : Cell) (q : SeqId) (x : Seq) : (c.setSeq q x).queues = c.queues := by cases q <;> rfl
@[simp] theorem Cell.modSeq_queues (c : Cell) (q : SeqId) (f : Seq → Seq) : (c.modSeq q f).queues = c.queues := by cases q <;> rfl
@[simp] theorem Cell.setSeq_qHead (c : Cell) (q : SeqId) (x : Seq) : (c.setSeq q x).qHead = c.qHead := by cases q <;> rfl
@[simp] theorem Cell.modSeq_qHead (c : Cell) (q : SeqId) (f : Seq → Seq) : (c.modSeq q f).qHead = c.qHead := by cases q <;> rfl
@[simp] theorem Cell.setSeq_vqHead (c : Cell) (q : SeqId) (x : Seq) : (c.setSeq q x).vqHead = c.vqHead := by cases q <;> rfl
@[simp] theorem Cell.modSeq_vqHead (c : Cell) (q : SeqId) (f : Seq → Seq) : (c.modSeq q f).vqHead = c.vqHead := by cases q <;> rfl
@[simp] theorem Cell.setSeq_tok (c : Cell) (q : SeqId) (x : Seq) : (c.setSeq q x).tok = c.tok := by cases q <;> rfl
@[simp] theorem Cell.modSeq_tok (c : Cell) (q : SeqId) (f : Seq → Seq) : (c.modSeq q f).tok = c.tok := by cases q <;> rfl
@[simp] theorem Cell.setSeq_tokRes (c : Cell) (q : SeqId) (x : Seq) : (c.setSeq q x).tokRes = c.tokRes := by cases q <;> rfl
@[simp] theorem Cell.modSeq_tokRes (c : Cell) (q : SeqId) (f : Seq → Seq) : (c.modSeq q f).tokRes = c.tokRes := by cases q <;> rfl
@[simp] theorem Cell.setSeq_rows (c : Cell) (q : SeqId) (x : Seq) : (c.setSeq q x).rows = c.rows := by cases q <;> rfl
@[simp] theorem Cell.modSeq_rows (c : Cell) (q : SeqId) (f : Seq → Seq) : (c.modSeq q f).rows = c.rows := by cases q <;> rfl
@[simp] theorem Cell.setSeq_masks (c : Cell) (q : SeqId) (x : Seq) : (c.setSeq q x).masks = c.masks := by cases q <;> rfl
@[simp] theorem Cell.modSeq_masks (c : Cell) (q : SeqId) (f : Seq → Seq) : (c.modSeq q f).masks = c.masks := by cases q <;> rfl
@[simp] theorem Cell.setSeq_mstack (c : Cell) (q : SeqId) (x : Seq) : (c.setSeq q x).mstack = c.mstack := by cases q <;> rfl
@[simp] theorem Cell.modSeq_mstack (c : Cell) (q : SeqId) (f : Seq → Seq) : (c.modSeq q f).mstack = c.mstack := by cases q <;> rfl
@[simp] theorem Cell.setSeq_vq (c : Cell) (q : SeqId) (x : Seq) : (c.setSeq q x).vq = c.vq := by cases q <;> rfl
@[simp] theorem Cell.modSeq_vq (c : Cell) (q : SeqId) (f : Seq → Seq) : (c.modSeq q f).vq = c.vq := by cases q <;> rfl
@[simp] theorem Cell.setSeq_vqAt (c : Cell) (q : SeqId) (x : Seq) : (c.setSeq q x).vqAt = c.vqAt := by cases q <;> rfl
@[simp] theorem Cell.modSeq_vqAt (c : Cell) (q : SeqId) (f : Seq → Seq) : (c.modSeq q f).vqAt = c.vqAt := by cases q <;> rfl
@[simp] theorem Cell.setSeq_vqFree (c : Cell) (q : SeqId) (x : Seq) : (c.setSeq q x).vqFree = c.vqFree := by cases q <;> rfl
@[simp] theorem Cell.modSeq_vqFree (c : Cell) (q : SeqId) (f : Seq → Seq) : (c.modSeq q f).vqFree = c.vqFree := by cases q <;> rfl
@[simp] theorem Cell.setSeq_vrb (c : Cell) (q : SeqId) (x : Seq) : (c.setSeq q x).vrb = c.vrb := by cases q <;> rfl
@[simp] theorem Cell.modSeq_vrb (c : Cell) (q : SeqId) (f : Seq → Seq) : (c.modSeq q f).vrb = c.vrb := by cases q <;> rfl
@[simp] theorem Cell.setSeq_mrb (c : Cell) (q : SeqId) (x : Seq) : (c.setSeq q x).mrb = c.mrb := by cases q <;> rfl
@[simp] theorem Cell.modSeq_mrb (c : Cell) (q : SeqId) (f : Seq → Seq) : (c.modSeq q f).mrb = c.mrb := by cases q <;> rfl
@[simp] theorem Cell.setSeq_fmtbase (c : Cell) (q : SeqId) (x : Seq) : (c.setSeq q x).fmtbase = c.fmtbase := by cases q <;> rfl
@[simp] theorem Cell.modSeq_fmtbase (c : Cell) (q : SeqId) (f : Seq → Seq) : (c.modSeq q f).fmtbase = c.fmtbase := by cases q <;> rfl
@[simp] theorem Cell.setSeq_srseed (c : Cell) (q : SeqId) (x : Seq) : (c.setSeq q x).srseed = c.srseed := by cases q <;> rfl
@[simp] theorem Cell.modSeq_srseed (c : Cell) (q : SeqId) (f : Seq → Seq) : (c.modSeq q f).srseed = c.srseed := by cases q <;> rfl
@[simp] theorem Cell.setSeq_srbase (c : Cell) (q : SeqId) (x : Seq) : (c.setSeq q x).srbase = c.srbase := by cases q <;> rfl
@[simp] theorem Cell.modSeq_srbase (c : Cell) (q : SeqId) (f : Seq → Seq) : (c.modSeq q f).srbase = c.srbase := by cases q <;> rfl
@[simp] theorem Cell.setSeq_leasemax (c : Cell) (q : SeqId) (x : Seq) : (c.setSeq q x).leasemax = c.leasemax := by cases q <;> rfl
@[simp] theorem Cell.modSeq_leasemax (c : Cell) (q : SeqId) (f : Seq → Seq) : (c.modSeq q f).leasemax = c.leasemax := by cases q <;> rfl
@[simp] theorem Cell.setSeq_vcount (c : Cell) (q : SeqId) (x : Seq) : (c.setSeq q x).vcount = c.vcount := by cases q <;> rfl
@[simp] theorem Cell.modSeq_vcount (c : Cell) (q : SeqId) (f : Seq → Seq) : (c.modSeq q f).vcount = c.vcount := by cases q <;> rfl
@[simp] theorem Cell.setSeq_vconsa (c : Cell) (q : SeqId) (x : Seq) : (c.setSeq q x).vconsa = c.vconsa := by cases q <;> rfl
@[simp] theorem Cell.modSeq_vconsa (c : Cell) (q : SeqId) (f : Seq → Seq) : (c.modSeq q f).vconsa = c.vconsa := by cases q <;> rfl
@[simp] theorem Cell.setSeq_vconsb (c : Cell) (q : SeqId) (x : Seq) : (c.setSeq q x).vconsb = c.vconsb := by cases q <;> rfl
@[simp] theorem Cell.modSeq_vconsb (c : Cell) (q : SeqId) (f : Seq → Seq) : (c.modSeq q f).vconsb = c.vconsb := by cases q <;> rfl
@[simp] theorem Cell.setSeq_vrkey (c : Cell) (q : SeqId) (x : Seq) : (c.setSeq q x).vrkey = c.vrkey := by cases q <;> rfl
@[simp] theorem Cell.modSeq_vrkey (c : Cell) (q : SeqId) (f : Seq → Seq) : (c.modSeq q f).vrkey = c.vrkey := by cases q <;> rfl
@[simp] theorem Cell.setSeq_vrctr (c : Cell) (q : SeqId) (x : Seq) : (c.setSeq q x).vrctr = c.vrctr := by cases q <;> rfl
@[simp] theorem Cell.modSeq_vrctr (c : Cell) (q : SeqId) (f : Seq → Seq) : (c.modSeq q f).vrctr = c.vrctr := by cases q <;> rfl
@[simp] theorem Cell.setSeq_vdone (c : Cell) (q : SeqId) (x : Seq) : (c.setSeq q x).vdone = c.vdone := by cases q <;> rfl
@[simp] theorem Cell.modSeq_vdone (c : Cell) (q : SeqId) (f : Seq → Seq) : (c.modSeq q f).vdone = c.vdone := by cases q <;> rfl
@[simp] theorem Cell.setSeq_tvecEntry (c : Cell) (q : SeqId) (x : Seq) : (c.setSeq q x).tvecEntry = c.tvecEntry := by cases q <;> rfl
@[simp] theorem Cell.modSeq_tvecEntry (c : Cell) (q : SeqId) (f : Seq → Seq) : (c.modSeq q f).tvecEntry = c.tvecEntry := by cases q <;> rfl
@[simp] theorem Cell.setSeq_tvecEn (c : Cell) (q : SeqId) (x : Seq) : (c.setSeq q x).tvecEn = c.tvecEn := by cases q <;> rfl
@[simp] theorem Cell.modSeq_tvecEn (c : Cell) (q : SeqId) (f : Seq → Seq) : (c.modSeq q f).tvecEn = c.tvecEn := by cases q <;> rfl
@[simp] theorem Cell.setSeq_tcause (c : Cell) (q : SeqId) (x : Seq) : (c.setSeq q x).tcause = c.tcause := by cases q <;> rfl
@[simp] theorem Cell.modSeq_tcause (c : Cell) (q : SeqId) (f : Seq → Seq) : (c.modSeq q f).tcause = c.tcause := by cases q <;> rfl
@[simp] theorem Cell.setSeq_tdefer (c : Cell) (q : SeqId) (x : Seq) : (c.setSeq q x).tdefer = c.tdefer := by cases q <;> rfl
@[simp] theorem Cell.modSeq_tdefer (c : Cell) (q : SeqId) (f : Seq → Seq) : (c.modSeq q f).tdefer = c.tdefer := by cases q <;> rfl
@[simp] theorem Cell.setSeq_tpc (c : Cell) (q : SeqId) (x : Seq) : (c.setSeq q x).tpc = c.tpc := by cases q <;> rfl
@[simp] theorem Cell.modSeq_tpc (c : Cell) (q : SeqId) (f : Seq → Seq) : (c.modSeq q f).tpc = c.tpc := by cases q <;> rfl
@[simp] theorem Cell.setSeq_tseq (c : Cell) (q : SeqId) (x : Seq) : (c.setSeq q x).tseq = c.tseq := by cases q <;> rfl
@[simp] theorem Cell.modSeq_tseq (c : Cell) (q : SeqId) (f : Seq → Seq) : (c.modSeq q f).tseq = c.tseq := by cases q <;> rfl
@[simp] theorem Cell.setSeq_tval (c : Cell) (q : SeqId) (x : Seq) : (c.setSeq q x).tval = c.tval := by cases q <;> rfl
@[simp] theorem Cell.modSeq_tval (c : Cell) (q : SeqId) (f : Seq → Seq) : (c.modSeq q f).tval = c.tval := by cases q <;> rfl
@[simp] theorem Cell.setSeq_tin (c : Cell) (q : SeqId) (x : Seq) : (c.setSeq q x).tin = c.tin := by cases q <;> rfl
@[simp] theorem Cell.modSeq_tin (c : Cell) (q : SeqId) (f : Seq → Seq) : (c.modSeq q f).tin = c.tin := by cases q <;> rfl
@[simp] theorem Cell.setSeq_rpck (c : Cell) (q : SeqId) (x : Seq) : (c.setSeq q x).rpck = c.rpck := by cases q <;> rfl
@[simp] theorem Cell.modSeq_rpck (c : Cell) (q : SeqId) (f : Seq → Seq) : (c.modSeq q f).rpck = c.rpck := by cases q <;> rfl
@[simp] theorem Cell.setSeq_rpcl (c : Cell) (q : SeqId) (x : Seq) : (c.setSeq q x).rpcl = c.rpcl := by cases q <;> rfl
@[simp] theorem Cell.modSeq_rpcl (c : Cell) (q : SeqId) (f : Seq → Seq) : (c.modSeq q f).rpcl = c.rpcl := by cases q <;> rfl
@[simp] theorem Cell.setSeq_rpcc (c : Cell) (q : SeqId) (x : Seq) : (c.setSeq q x).rpcc = c.rpcc := by cases q <;> rfl
@[simp] theorem Cell.modSeq_rpcc (c : Cell) (q : SeqId) (f : Seq → Seq) : (c.modSeq q f).rpcc = c.rpcc := by cases q <;> rfl
@[simp] theorem Cell.setSeq_rpcs (c : Cell) (q : SeqId) (x : Seq) : (c.setSeq q x).rpcs = c.rpcs := by cases q <;> rfl
@[simp] theorem Cell.modSeq_rpcs (c : Cell) (q : SeqId) (f : Seq → Seq) : (c.modSeq q f).rpcs = c.rpcs := by cases q <;> rfl
@[simp] theorem Cell.setSeq_tsavea (c : Cell) (q : SeqId) (x : Seq) : (c.setSeq q x).tsavea = c.tsavea := by cases q <;> rfl
@[simp] theorem Cell.modSeq_tsavea (c : Cell) (q : SeqId) (f : Seq → Seq) : (c.modSeq q f).tsavea = c.tsavea := by cases q <;> rfl
@[simp] theorem Cell.setSeq_tsaveb (c : Cell) (q : SeqId) (x : Seq) : (c.setSeq q x).tsaveb = c.tsaveb := by cases q <;> rfl
@[simp] theorem Cell.modSeq_tsaveb (c : Cell) (q : SeqId) (f : Seq → Seq) : (c.modSeq q f).tsaveb = c.tsaveb := by cases q <;> rfl
@[simp] theorem Cell.setSeq_tpbk (c : Cell) (q : SeqId) (x : Seq) : (c.setSeq q x).tpbk = c.tpbk := by cases q <;> rfl
@[simp] theorem Cell.modSeq_tpbk (c : Cell) (q : SeqId) (f : Seq → Seq) : (c.modSeq q f).tpbk = c.tpbk := by cases q <;> rfl
@[simp] theorem Cell.setSeq_kWasEnded (c : Cell) (q : SeqId) (x : Seq) : (c.setSeq q x).kWasEnded = c.kWasEnded := by cases q <;> rfl
@[simp] theorem Cell.modSeq_kWasEnded (c : Cell) (q : SeqId) (f : Seq → Seq) : (c.modSeq q f).kWasEnded = c.kWasEnded := by cases q <;> rfl
@[simp] theorem Cell.setSeq_below (c : Cell) (q : SeqId) (x : Seq) : (c.setSeq q x).below = c.below := by cases q <;> rfl
@[simp] theorem Cell.modSeq_below (c : Cell) (q : SeqId) (f : Seq → Seq) : (c.modSeq q f).below = c.below := by cases q <;> rfl
@[simp] theorem Cell.setSeq_drainAt (c : Cell) (q : SeqId) (x : Seq) : (c.setSeq q x).drainAt = c.drainAt := by cases q <;> rfl
@[simp] theorem Cell.modSeq_drainAt (c : Cell) (q : SeqId) (f : Seq → Seq) : (c.modSeq q f).drainAt = c.drainAt := by cases q <;> rfl
@[simp] theorem Cell.setSeq_pend (c : Cell) (q : SeqId) (x : Seq) : (c.setSeq q x).pend = c.pend := by cases q <;> rfl
@[simp] theorem Cell.modSeq_pend (c : Cell) (q : SeqId) (f : Seq → Seq) : (c.modSeq q f).pend = c.pend := by cases q <;> rfl
@[simp] theorem Cell.setSeq_rlc (c : Cell) (q : SeqId) (x : Seq) : (c.setSeq q x).rlc = c.rlc := by cases q <;> rfl
@[simp] theorem Cell.modSeq_rlc (c : Cell) (q : SeqId) (f : Seq → Seq) : (c.modSeq q f).rlc = c.rlc := by cases q <;> rfl
@[simp] theorem Cell.setSeq_amax (c : Cell) (q : SeqId) (x : Seq) : (c.setSeq q x).amax = c.amax := by cases q <;> rfl
@[simp] theorem Cell.modSeq_amax (c : Cell) (q : SeqId) (f : Seq → Seq) : (c.modSeq q f).amax = c.amax := by cases q <;> rfl
@[simp] theorem Cell.setSeq_nancnt (c : Cell) (q : SeqId) (x : Seq) : (c.setSeq q x).nancnt = c.nancnt := by cases q <;> rfl
@[simp] theorem Cell.modSeq_nancnt (c : Cell) (q : SeqId) (f : Seq → Seq) : (c.modSeq q f).nancnt = c.nancnt := by cases q <;> rfl
@[simp] theorem Cell.setSeq_flags (c : Cell) (q : SeqId) (x : Seq) : (c.setSeq q x).flags = c.flags := by cases q <;> rfl
@[simp] theorem Cell.modSeq_flags (c : Cell) (q : SeqId) (f : Seq → Seq) : (c.modSeq q f).flags = c.flags := by cases q <;> rfl
@[simp] theorem Cell.setSeq_hist (c : Cell) (q : SeqId) (x : Seq) : (c.setSeq q x).hist = c.hist := by cases q <;> rfl
@[simp] theorem Cell.modSeq_hist (c : Cell) (q : SeqId) (f : Seq → Seq) : (c.modSeq q f).hist = c.hist := by cases q <;> rfl
@[simp] theorem Cell.setSeq_tags (c : Cell) (q : SeqId) (x : Seq) : (c.setSeq q x).tags = c.tags := by cases q <;> rfl
@[simp] theorem Cell.modSeq_tags (c : Cell) (q : SeqId) (f : Seq → Seq) : (c.modSeq q f).tags = c.tags := by cases q <;> rfl
@[simp] theorem Cell.setSeq_regions (c : Cell) (q : SeqId) (x : Seq) : (c.setSeq q x).regions = c.regions := by cases q <;> rfl
@[simp] theorem Cell.modSeq_regions (c : Cell) (q : SeqId) (f : Seq → Seq) : (c.modSeq q f).regions = c.regions := by cases q <;> rfl
@[simp] theorem Cell.setSeq_seqNext (c : Cell) (q : SeqId) (x : Seq) : (c.setSeq q x).seqNext = c.seqNext := by cases q <;> rfl
@[simp] theorem Cell.modSeq_seqNext (c : Cell) (q : SeqId) (f : Seq → Seq) : (c.modSeq q f).seqNext = c.seqNext := by cases q <;> rfl
@[simp] theorem Cell.setSeq_templates (c : Cell) (q : SeqId) (x : Seq) : (c.setSeq q x).templates = c.templates := by cases q <;> rfl
@[simp] theorem Cell.modSeq_templates (c : Cell) (q : SeqId) (f : Seq → Seq) : (c.modSeq q f).templates = c.templates := by cases q <;> rfl
@[simp] theorem Cell.setSeq_formats (c : Cell) (q : SeqId) (x : Seq) : (c.setSeq q x).formats = c.formats := by cases q <;> rfl
@[simp] theorem Cell.modSeq_formats (c : Cell) (q : SeqId) (f : Seq → Seq) : (c.modSeq q f).formats = c.formats := by cases q <;> rfl
@[simp] theorem Cell.setSeq_lines (c : Cell) (q : SeqId) (x : Seq) : (c.setSeq q x).lines = c.lines := by cases q <;> rfl
@[simp] theorem Cell.modSeq_lines (c : Cell) (q : SeqId) (f : Seq → Seq) : (c.modSeq q f).lines = c.lines := by cases q <;> rfl
@[simp] theorem Cell.setSeq_entries (c : Cell) (q : SeqId) (x : Seq) : (c.setSeq q x).entries = c.entries := by cases q <;> rfl
@[simp] theorem Cell.modSeq_entries (c : Cell) (q : SeqId) (f : Seq → Seq) : (c.modSeq q f).entries = c.entries := by cases q <;> rfl
@[simp] theorem Cell.setSeq_fills (c : Cell) (q : SeqId) (x : Seq) : (c.setSeq q x).fills = c.fills := by cases q <;> rfl
@[simp] theorem Cell.modSeq_fills (c : Cell) (q : SeqId) (f : Seq → Seq) : (c.modSeq q f).fills = c.fills := by cases q <;> rfl
@[simp] theorem Cell.setSeq_vcmds (c : Cell) (q : SeqId) (x : Seq) : (c.setSeq q x).vcmds = c.vcmds := by cases q <;> rfl
@[simp] theorem Cell.modSeq_vcmds (c : Cell) (q : SeqId) (f : Seq → Seq) : (c.modSeq q f).vcmds = c.vcmds := by cases q <;> rfl
@[simp] theorem Cell.setSeq_vfenced (c : Cell) (q : SeqId) (x : Seq) : (c.setSeq q x).vfenced = c.vfenced := by cases q <;> rfl
@[simp] theorem Cell.modSeq_vfenced (c : Cell) (q : SeqId) (f : Seq → Seq) : (c.modSeq q f).vfenced = c.vfenced := by cases q <;> rfl
@[simp] theorem Cell.setSeq_vfree (c : Cell) (q : SeqId) (x : Seq) : (c.setSeq q x).vfree = c.vfree := by cases q <;> rfl
@[simp] theorem Cell.modSeq_vfree (c : Cell) (q : SeqId) (f : Seq → Seq) : (c.modSeq q f).vfree = c.vfree := by cases q <;> rfl
@[simp] theorem Cell.setSeq_vlast (c : Cell) (q : SeqId) (x : Seq) : (c.setSeq q x).vlast = c.vlast := by cases q <;> rfl
@[simp] theorem Cell.modSeq_vlast (c : Cell) (q : SeqId) (f : Seq → Seq) : (c.modSeq q f).vlast = c.vlast := by cases q <;> rfl
@[simp] theorem Cell.setSeq_tensors (c : Cell) (q : SeqId) (x : Seq) : (c.setSeq q x).tensors = c.tensors := by cases q <;> rfl
@[simp] theorem Cell.modSeq_tensors (c : Cell) (q : SeqId) (f : Seq → Seq) : (c.modSeq q f).tensors = c.tensors := by cases q <;> rfl
@[simp] theorem Cell.setSeq_copies (c : Cell) (q : SeqId) (x : Seq) : (c.setSeq q x).copies = c.copies := by cases q <;> rfl
@[simp] theorem Cell.modSeq_copies (c : Cell) (q : SeqId) (f : Seq → Seq) : (c.modSeq q f).copies = c.copies := by cases q <;> rfl
@[simp] theorem Cell.setSeq_cbuf (c : Cell) (q : SeqId) (x : Seq) : (c.setSeq q x).cbuf = c.cbuf := by cases q <;> rfl
@[simp] theorem Cell.modSeq_cbuf (c : Cell) (q : SeqId) (f : Seq → Seq) : (c.modSeq q f).cbuf = c.cbuf := by cases q <;> rfl
@[simp] theorem Cell.setSeq_remq (c : Cell) (q : SeqId) (x : Seq) : (c.setSeq q x).remq = c.remq := by cases q <;> rfl
@[simp] theorem Cell.modSeq_remq (c : Cell) (q : SeqId) (f : Seq → Seq) : (c.modSeq q f).remq = c.remq := by cases q <;> rfl
@[simp] theorem Cell.setSeq_remBusy (c : Cell) (q : SeqId) (x : Seq) : (c.setSeq q x).remBusy = c.remBusy := by cases q <;> rfl
@[simp] theorem Cell.modSeq_remBusy (c : Cell) (q : SeqId) (f : Seq → Seq) : (c.modSeq q f).remBusy = c.remBusy := by cases q <;> rfl
@[simp] theorem Cell.setSeq_joined (c : Cell) (q : SeqId) (x : Seq) : (c.setSeq q x).joined = c.joined := by cases q <;> rfl
@[simp] theorem Cell.modSeq_joined (c : Cell) (q : SeqId) (f : Seq → Seq) : (c.modSeq q f).joined = c.joined := by cases q <;> rfl
@[simp] theorem Cell.setSeq_nextId (c : Cell) (q : SeqId) (x : Seq) : (c.setSeq q x).nextId = c.nextId := by cases q <;> rfl
@[simp] theorem Cell.modSeq_nextId (c : Cell) (q : SeqId) (f : Seq → Seq) : (c.modSeq q f).nextId = c.nextId := by cases q <;> rfl
@[simp] theorem Cell.setSeq_tlb (c : Cell) (q : SeqId) (x : Seq) : (c.setSeq q x).tlb = c.tlb := by cases q <;> rfl
@[simp] theorem Cell.modSeq_tlb (c : Cell) (q : SeqId) (f : Seq → Seq) : (c.modSeq q f).tlb = c.tlb := by cases q <;> rfl
@[simp] theorem Cell.setSeq_lastStream (c : Cell) (q : SeqId) (x : Seq) : (c.setSeq q x).lastStream = c.lastStream := by cases q <;> rfl
@[simp] theorem Cell.modSeq_lastStream (c : Cell) (q : SeqId) (f : Seq → Seq) : (c.modSeq q f).lastStream = c.lastStream := by cases q <;> rfl
@[simp] theorem Cell.setSeq_badRows (c : Cell) (q : SeqId) (x : Seq) : (c.setSeq q x).badRows = c.badRows := by cases q <;> rfl
@[simp] theorem Cell.modSeq_badRows (c : Cell) (q : SeqId) (f : Seq → Seq) : (c.modSeq q f).badRows = c.badRows := by cases q <;> rfl
@[simp] theorem Cell.setSeq_badLines (c : Cell) (q : SeqId) (x : Seq) : (c.setSeq q x).badLines = c.badLines := by cases q <;> rfl
@[simp] theorem Cell.modSeq_badLines (c : Cell) (q : SeqId) (f : Seq → Seq) : (c.modSeq q f).badLines = c.badLines := by cases q <;> rfl
@[simp] theorem Cell.setSeq_chargedAt (c : Cell) (q : SeqId) (x : Seq) : (c.setSeq q x).chargedAt = c.chargedAt := by cases q <;> rfl
@[simp] theorem Cell.modSeq_chargedAt (c : Cell) (q : SeqId) (f : Seq → Seq) : (c.modSeq q f).chargedAt = c.chargedAt := by cases q <;> rfl
@[simp] theorem Cell.setSeq_oos (c : Cell) (q : SeqId) (x : Seq) : (c.setSeq q x).oos = c.oos := by cases q <;> rfl
@[simp] theorem Cell.modSeq_oos (c : Cell) (q : SeqId) (f : Seq → Seq) : (c.modSeq q f).oos = c.oos := by cases q <;> rfl
@[simp] theorem Cell.setSeq_predWait (c : Cell) (q : SeqId) (x : Seq) : (c.setSeq q x).predWait = c.predWait := by cases q <;> rfl
@[simp] theorem Cell.modSeq_predWait (c : Cell) (q : SeqId) (f : Seq → Seq) : (c.modSeq q f).predWait = c.predWait := by cases q <;> rfl
@[simp] theorem Cell.setSeq_chains (c : Cell) (q : SeqId) (x : Seq) : (c.setSeq q x).chains = c.chains := by cases q <;> rfl
@[simp] theorem Cell.modSeq_chains (c : Cell) (q : SeqId) (f : Seq → Seq) : (c.modSeq q f).chains = c.chains := by cases q <;> rfl
@[simp] theorem Cell.setSeq_seen (c : Cell) (q : SeqId) (x : Seq) : (c.setSeq q x).seen = c.seen := by cases q <;> rfl
@[simp] theorem Cell.modSeq_seen (c : Cell) (q : SeqId) (f : Seq → Seq) : (c.modSeq q f).seen = c.seen := by cases q <;> rfl
@[simp] theorem Cell.setSeq_qAt (c : Cell) (q : SeqId) (x : Seq) : (c.setSeq q x).qAt = c.qAt := by cases q <;> rfl
@[simp] theorem Cell.modSeq_qAt (c : Cell) (q : SeqId) (f : Seq → Seq) : (c.modSeq q f).qAt = c.qAt := by cases q <;> rfl
@[simp] theorem Cell.setSeq_tokAt (c : Cell) (q : SeqId) (x : Seq) : (c.setSeq q x).tokAt = c.tokAt := by cases q <;> rfl
@[simp] theorem Cell.modSeq_tokAt (c : Cell) (q : SeqId) (f : Seq → Seq) : (c.modSeq q f).tokAt = c.tokAt := by cases q <;> rfl

/-! ### Reading back -/

@[simp] theorem Cell.seq_setSeq_same (c : Cell) (q : SeqId) (x : Seq) : (c.setSeq q x).seq q = x := by cases q <;> rfl

theorem Cell.seq_setSeq_other (c : Cell) {q r : SeqId} (x : Seq) (h : r ≠ q) : (c.setSeq q x).seq r = c.seq r := by
  cases q <;> cases r <;> first | rfl | exact absurd rfl h

@[simp] theorem Cell.seq_modSeq_same (c : Cell) (q : SeqId) (f : Seq → Seq) : (c.modSeq q f).seq q = f (c.seq q) := by cases q <;> rfl

theorem Cell.seq_modSeq_other (c : Cell) {q r : SeqId} (f : Seq → Seq) (h : r ≠ q) : (c.modSeq q f).seq r = c.seq r :=
  Cell.seq_setSeq_other c _ h

@[simp] theorem Cell.setSeq_setSeq (c : Cell) (q : SeqId) (x y : Seq) : (c.setSeq q x).setSeq q y = c.setSeq q y := by cases q <;> rfl

@[simp] theorem Cell.setSeq_seq (c : Cell) (q : SeqId) : c.setSeq q (c.seq q) = c := by cases q <;> rfl

@[simp] theorem State.cellAt_setCell_same (s : State) (k : Nat) (c : Cell) : (s.setCell k c).cellAt k = c := NatMap.get_put_same _ _ _ _

theorem State.cellAt_setCell_other (s : State) {k j : Nat} (c : Cell) (h : j ≠ k) : (s.setCell k c).cellAt j = s.cellAt j :=
  NatMap.get_put_other _ _ _ h

@[simp] theorem State.cellAt_modCell_same (s : State) (k : Nat) (f : Cell → Cell) : (s.modCell k f).cellAt k = f (s.cellAt k) :=
  State.cellAt_setCell_same _ _ _

theorem State.cellAt_modCell_other (s : State) {k j : Nat} (f : Cell → Cell) (h : j ≠ k) : (s.modCell k f).cellAt j = s.cellAt j :=
  State.cellAt_setCell_other _ _ h

@[simp] theorem State.here_setCell (s : State) (k : Nat) (c : Cell) : (s.setCell k c).here = s.here := rfl
@[simp] theorem State.here_modCell (s : State) (k : Nat) (f : Cell → Cell) : (s.modCell k f).here = s.here := rfl
@[simp] theorem State.here_modSeq (s : State) (f : Seq → Seq) : (s.modSeq f).here = s.here := rfl
@[simp] theorem State.here_setQuad (s : State) (q : Nat) (x : Quad) : (s.setQuad q x).here = s.here := rfl
@[simp] theorem State.here_modQuad (s : State) (q : Nat) (f : Quad → Quad) : (s.modQuad q f).here = s.here := rfl
@[simp] theorem State.here_bbox (s : State) (d : Nat) (e : BbEvent) : (s.bbox d e).here = s.here := rfl
@[simp] theorem State.here_bboxCell (s : State) (k y c : Nat) (d0 d1 : Word) : (s.bboxCell k y c d0 d1).here = s.here := rfl

@[simp] theorem State.cur_setCell (s : State) (c : Cell) : (s.setCell s.here c).cur = c := State.cellAt_setCell_same _ _ _

@[simp] theorem State.cur_modCell (s : State) (f : Cell → Cell) : (s.modCell s.here f).cur = f s.cur := State.cellAt_modCell_same _ _ _

@[simp] theorem State.cur_modSeq (s : State) (f : Seq → Seq) : (s.modSeq f).cur = s.cur.modSeq s.site.seq f := State.cellAt_modCell_same _ _ _

@[simp] theorem State.curSeq_modSeq (s : State) (f : Seq → Seq) : (s.modSeq f).curSeq = f s.curSeq := by
  simp [State.curSeq, State.cur_modSeq]

@[simp] theorem State.curSeq_modCell (s : State) (f : Cell → Cell) : (s.modCell s.here f).curSeq = (f s.cur).seq s.site.seq := by
  simp [State.curSeq, State.cur_modCell]

@[simp] theorem State.quadAt_setQuad_same (s : State) (q : Nat) (x : Quad) : (s.setQuad q x).quadAt q = x := NatMap.get_put_same _ _ _ _

theorem State.quadAt_setQuad_other (s : State) {q j : Nat} (x : Quad) (h : j ≠ q) : (s.setQuad q x).quadAt j = s.quadAt j :=
  NatMap.get_put_other _ _ _ h

@[simp] theorem State.quadAt_modQuad_same (s : State) (q : Nat) (f : Quad → Quad) : (s.modQuad q f).quadAt q = f (s.quadAt q) :=
  State.quadAt_setQuad_same _ _ _

theorem State.quadAt_modQuad_other (s : State) {q j : Nat} (f : Quad → Quad) (h : j ≠ q) : (s.modQuad q f).quadAt j = s.quadAt j :=
  State.quadAt_setQuad_other _ _ h

@[simp] theorem State.cellAt_modQuad (s : State) (q k : Nat) (f : Quad → Quad) : (s.modQuad q f).cellAt k = s.cellAt k := rfl
@[simp] theorem State.cellAt_bbox (s : State) (d k : Nat) (e : BbEvent) : (s.bbox d e).cellAt k = s.cellAt k := rfl
@[simp] theorem State.cellAt_bboxCell (s : State) (j k y c : Nat) (d0 d1 : Word) : (s.bboxCell j y c d0 d1).cellAt k = s.cellAt k := rfl
@[simp] theorem State.quadAt_modCell (s : State) (q k : Nat) (f : Cell → Cell) : (s.modCell k f).quadAt q = s.quadAt q := rfl
@[simp] theorem State.quadAt_modSeq (s : State) (q : Nat) (f : Seq → Seq) : (s.modSeq f).quadAt q = s.quadAt q := rfl

/-- A cell keeps its other sequencers. -/
theorem State.cellAt_modSeq_other (s : State) {j : Nat} (f : Seq → Seq) (h : j ≠ s.here) : (s.modSeq f).cellAt j = s.cellAt j :=
  State.cellAt_modCell_other _ _ h

@[simp] theorem State.byteAt_modCell (s : State) (k : Nat) (f : Cell → Cell) (pa : Nat) : (s.modCell k f).byteAt pa = s.byteAt pa := rfl
@[simp] theorem State.byteAt_modSeq (s : State) (f : Seq → Seq) (pa : Nat) : (s.modSeq f).byteAt pa = s.byteAt pa := rfl
@[simp] theorem State.byteAt_modQuad (s : State) (q : Nat) (f : Quad → Quad) (pa : Nat) : (s.modQuad q f).byteAt pa = s.byteAt pa := rfl
@[simp] theorem State.byteAt_bboxCell (s : State) (k y c : Nat) (d0 d1 : Word) (pa : Nat) : (s.bboxCell k y c d0 d1).byteAt pa = s.byteAt pa := rfl


end Sys2Proof.Machine
end

