-- ==== Sys2Proof/Laws/Issue.lean ====
section
/-! SUPPORT. What issue does, once and for all: tokens, operands, check slots and retirement. -/

namespace Sys2Proof.Machine

/-! ### The monad of an instruction's attempt -/

@[simp] theorem M.bind_run {α β : Type} (m : M α) (f : α → M β) (s : State) :
    (m >>= f) s = (match m s with | .ok (a, s1) => f a s1 | .error e => .error e) := by
  show (StateT.bind m f) s = _
  simp only [StateT.bind, Bind.bind, Except.bind]
  cases m s <;> rfl

@[simp] theorem M.pure_run {α : Type} (a : α) (s : State) : (pure a : M α) s = .ok (a, s) := rfl
@[simp] theorem M.get_run (s : State) : (get : M State) s = .ok (s, s) := rfl
@[simp] theorem M.set_run (x s : State) : (set x : M PUnit) s = .ok (PUnit.unit, x) := rfl
@[simp] theorem M.modify_run (f : State → State) (s : State) : (modify f : M PUnit) s = .ok (PUnit.unit, f s) := rfl
@[simp] theorem M.raise_run {α : Type} (c : BitVec 8) (v : Word) (s : State) : (raise c v : M α) s = .error (.trap c v) := rfl
@[simp] theorem M.waitFor_run {α : Type} (k i : Nat) (s : State) : (waitFor k i : M α) s = .error (.block k i) := rfl
@[simp] theorem M.stallNow_run {α : Type} (s : State) : (stallNow : M α) s = .error .stall := rfl
@[simp] theorem M.holdWith_run {α : Type} (f : State → State) (s : State) : (holdWith f : M α) s = .error (.hold f) := rfl
@[simp] theorem M.modCur_run (f : Cell → Cell) (s : State) : modCur f s = .ok ((), s.modCell s.here f) := rfl
@[simp] theorem M.modSq_run (f : Seq → Seq) (s : State) : modSq f s = .ok ((), s.modSeq f) := rfl
@[simp] theorem M.retire_run (f : Flow) (s : State) : retire f s = .ok ((), s.modSeq (Seq.retired f)) := by
  cases f <;> rfl
theorem M.ite_run {α : Type} (p : Prop) [Decidable p] (m n : M α) (s : State) : (if p then m else n) s = if p then m s else n s := by
  split <;> rfl

@[simp] theorem unless'_true (m : M Unit) : unless' true m = pure () := rfl
@[simp] theorem unless'_false (m : M Unit) : unless' false m = m := rfl

/-! ### What a consumption leaves -/

theorem Cell.learn_eq (c : Cell) (q : SeqId) (l : List (NatMap Nat)) : ∃ m, c.learn q l = { c with seen := m } := by
  unfold Cell.learn; split
  · exact ⟨c.seen, rfl⟩
  · exact ⟨_, rfl⟩

@[simp] theorem Cell.takeUnit_seq (c : Cell) (k : Nat) (q : SeqId) : (c.takeUnit k).seq q = c.seq q := by
  obtain ⟨m, h⟩ := c.learn_eq (tokenEnds k).2 ((NatMap.get [] c.tokAt k).take 1)
  unfold Cell.takeUnit; rw [h]; cases q <;> rfl

@[simp] theorem Cell.takeUnit_tokRes (c : Cell) (k : Nat) : (c.takeUnit k).tokRes = c.tokRes := by
  obtain ⟨m, h⟩ := c.learn_eq (tokenEnds k).2 ((NatMap.get [] c.tokAt k).take 1)
  unfold Cell.takeUnit; rw [h]

/-! ### Tokens -/

@[simp] theorem State.tokenTaken_site (s : State) (k : Nat) : (s.tokenTaken k).site = s.site := rfl
@[simp] theorem State.tokenTaken_here (s : State) (k : Nat) : (s.tokenTaken k).here = s.here := rfl
@[simp] theorem State.tokenTaken_curSeq (s : State) (k : Nat) : (s.tokenTaken k).curSeq = s.curSeq := by
  unfold State.tokenTaken; rw [State.curSeq_modCell, Cell.takeUnit_seq]; rfl
theorem State.tokenTaken_tokVal_other (s : State) {k j : Nat} (h : j ≠ k) : (s.tokenTaken k).cur.tokVal j = s.cur.tokVal j := by
  unfold State.tokenTaken; rw [State.cur_modCell]; exact NatMap.get_put_other _ _ _ h
@[simp] theorem State.tokenTaken_tokVal_same (s : State) (k : Nat) : (s.tokenTaken k).cur.tokVal k = s.cur.tokVal k - 1 := by
  unfold State.tokenTaken; rw [State.cur_modCell]; exact NatMap.get_put_same _ _ _ _
@[simp] theorem State.tokenTaken_tokRsv (s : State) (k j : Nat) : (s.tokenTaken k).cur.tokRsv j = s.cur.tokRsv j := by
  unfold State.tokenTaken Cell.tokRsv; rw [State.cur_modCell, Cell.takeUnit_tokRes]

@[simp] theorem State.tokenGiven_site (s : State) (k : Nat) : (s.tokenGiven k).site = s.site := rfl
@[simp] theorem State.tokenGiven_here (s : State) (k : Nat) : (s.tokenGiven k).here = s.here := rfl
@[simp] theorem State.tokenGiven_tokVal (s : State) (k j : Nat) : (s.tokenGiven k).cur.tokVal j = s.cur.tokVal j := by
  unfold State.tokenGiven; rw [State.cur_modSeq, State.modCell_site, State.cur_modCell, Cell.modSeq, Cell.tokVal, Cell.setSeq_tok]; rfl
theorem State.tokenGiven_tokRsv_other (s : State) {k j : Nat} (h : j ≠ k) : (s.tokenGiven k).cur.tokRsv j = s.cur.tokRsv j := by
  unfold State.tokenGiven; rw [State.cur_modSeq, State.modCell_site, State.cur_modCell, Cell.tokRsv, Cell.modSeq_tokRes]
  exact (NatMap.get_put_other 0 s.cur.tokRes (s.cur.tokRsv k + 1) h :)
@[simp] theorem State.tokenGiven_slots (s : State) (k : Nat) : (s.tokenGiven k).curSeq.slots.length = s.curSeq.slots.length + 1 := by
  unfold State.tokenGiven; rw [State.curSeq_modSeq, State.curSeq_modCell]
  cases h : s.site.seq <;> simp [Cell.seq, State.curSeq, h]

theorem needToken_ok {k : Nat} {s : State} (h : s.cur.tokVal k ≠ 0) : needToken k s = .ok ((), s) := by
  simp [needToken, h]

theorem takeToken_ok {k : Nat} {s : State} (h : s.cur.tokVal k ≠ 0) : takeToken k s = .ok ((), s.tokenTaken k) := by
  simp only [takeToken, M.bind_run, M.get_run, M.ite_run, h, if_false, M.modCur_run]
  simp [State.tokenTaken, State.modCell]

theorem signalToken_ok {k : Nat} {s : State} (h : s.cur.tokVal k + s.cur.tokRsv k < 255) (hl : s.curSeq.slots.length < 32) :
    signalToken k s = .ok ((), s.tokenGiven k) := by
  have h1 : ¬ 255 ≤ s.cur.tokVal k + s.cur.tokRsv k := by omega
  have h2 : ∀ f : Cell → Cell, (∀ c q, (f c).seq q = c.seq q) → (s.modCell s.here f).curSeq = s.curSeq := fun f hf => by
    rw [State.curSeq_modCell]; exact hf _ _
  simp only [signalToken, reserveToken, slotItem, M.bind_run, M.get_run, M.ite_run, h1, if_false, M.modCur_run, M.modSq_run]
  rw [h2 _ (fun c q => by cases q <;> rfl), if_neg (by omega), State.cur_modCell]
  rfl

theorem eachM_needToken {l : List Nat} {s : State} (h : ∀ k ∈ l, s.cur.tokVal k ≠ 0) : eachM needToken l s = .ok ((), s) := by
  induction l with
  | nil => rfl
  | cons k l ih =>
    simp only [eachM, M.bind_run, needToken_ok (h k List.mem_cons_self)]
    exact ih (fun j hj => h j (List.mem_cons_of_mem _ hj))

theorem eachM_takeToken {l : List Nat} : ∀ {s : State}, l.Nodup → (∀ k ∈ l, s.cur.tokVal k ≠ 0) →
    eachM takeToken l s = .ok ((), l.foldl State.tokenTaken s) := by
  induction l with
  | nil => intro s _ _; rfl
  | cons k l ih =>
    intro s hn h
    obtain ⟨hk, hn⟩ := List.nodup_cons.1 hn
    simp only [eachM, M.bind_run, takeToken_ok (h k List.mem_cons_self), List.foldl_cons]
    refine ih hn (fun j hj => ?_)
    rw [State.tokenTaken_tokVal_other s (fun e => hk (by rw [← e]; exact hj))]
    exact h j (List.mem_cons_of_mem _ hj)

theorem eachM_signalToken {l : List Nat} : ∀ {s : State}, l.Nodup → (∀ k ∈ l, s.cur.tokVal k + s.cur.tokRsv k < 255) →
    s.curSeq.slots.length + l.length ≤ 32 → eachM signalToken l s = .ok ((), l.foldl State.tokenGiven s) := by
  induction l with
  | nil => intro s _ _ _; rfl
  | cons k l ih =>
    intro s hn h hl
    obtain ⟨hk, hn⟩ := List.nodup_cons.1 hn
    simp only [List.length_cons] at hl
    simp only [eachM, M.bind_run, signalToken_ok (h k List.mem_cons_self) (by omega), List.foldl_cons]
    refine ih hn (fun j hj => ?_) (by rw [State.tokenGiven_slots]; omega)
    rw [State.tokenGiven_tokVal, State.tokenGiven_tokRsv_other s (fun e => hk (by rw [← e]; exact hj))]
    exact h j (List.mem_cons_of_mem _ hj)

theorem waitsOf_nodup (t : BitVec 4) (q : SeqId) : (waitsOf t q).Nodup := by
  unfold waitsOf; cases q <;> split <;> split <;> decide

theorem signalsOf_nodup (t : BitVec 4) (q : SeqId) : (signalsOf t q).Nodup := by
  unfold signalsOf; cases q <;> split <;> split <;> decide

@[simp] theorem foldl_tokenTaken_site (l : List Nat) : ∀ s : State, (l.foldl State.tokenTaken s).site = s.site := by
  induction l with
  | nil => intro s; rfl
  | cons k l ih => intro s; exact ih _

@[simp] theorem foldl_tokenTaken_curSeq (l : List Nat) : ∀ s : State, (l.foldl State.tokenTaken s).curSeq = s.curSeq := by
  induction l with
  | nil => intro s; rfl
  | cons k l ih => intro s; rw [List.foldl_cons, ih]; exact State.tokenTaken_curSeq s k

@[simp] theorem foldl_tokenTaken_tokRsv (l : List Nat) (j : Nat) : ∀ s : State, (l.foldl State.tokenTaken s).cur.tokRsv j = s.cur.tokRsv j := by
  induction l with
  | nil => intro s; rfl
  | cons k l ih => intro s; rw [List.foldl_cons, ih]; exact State.tokenTaken_tokRsv s k j

theorem foldl_tokenTaken_tokVal {l : List Nat} {j : Nat} : ∀ {s : State}, j ∉ l → (l.foldl State.tokenTaken s).cur.tokVal j = s.cur.tokVal j := by
  induction l with
  | nil => intro s _; rfl
  | cons k l ih =>
    intro s h
    rw [List.foldl_cons, ih (fun hj => h (List.mem_cons_of_mem _ hj))]
    exact State.tokenTaken_tokVal_other s (fun e => h (e ▸ List.mem_cons_self))

theorem signals_not_waits (t : BitVec 4) (q : SeqId) (k : Nat) (h : k ∈ signalsOf t q) : k ∉ waitsOf t q := by
  unfold signalsOf at h; unfold waitsOf
  cases q <;> simp only [tokSP, tokSN, tokWP, tokWN] at * <;> split at h <;> split at h <;> split <;> split <;> simp_all <;> omega

/-! ### Issue -/

/-- The rest of an instruction whose body has run: tokens taken and given, and retirement. -/
theorem finish_ok {t : BitVec 4} {f : Flow} {s : State} (hw : ∀ k ∈ waitsOf t s.site.seq, s.cur.tokVal k ≠ 0)
    (hs : ∀ k ∈ signalsOf t s.site.seq, s.cur.tokVal k + s.cur.tokRsv k < 255)
    (hl : s.curSeq.slots.length + (signalsOf t s.site.seq).length ≤ 32) :
    (do eachM takeToken (waitsOf t s.site.seq)
        eachM signalToken (signalsOf t s.site.seq)
        retire f : M Unit) s = .ok ((), s.completed t f) := by
  simp only [M.bind_run, eachM_takeToken (waitsOf_nodup _ _) hw]
  rw [eachM_signalToken (signalsOf_nodup _ _)]
  · simp only [M.retire_run, State.completed]
  · intro k hk
    rw [foldl_tokenTaken_tokVal (signals_not_waits t _ k hk), foldl_tokenTaken_tokRsv]; exact hs k hk
  · rw [foldl_tokenTaken_curSeq]; exact hl

/-- An instruction that is ready, whose decode checks pass and whose body runs to a state with tokens and room left, retires. -/
theorem issue_runs {g : Gate} {body : M Flow} {s s1 : State} {f : Flow} {own : Nat} (h : Ready s g.t g.cover g.who own)
    (hg : g.signal = true) (hc : g.checks s = .ok ((), s)) (hb : body s = .ok (f, s1)) (hsite : s1.site = s.site)
    (hv : ∀ k ∈ waitsOf g.t s.site.seq, s1.cur.tokVal k ≠ 0)
    (hr : ∀ k ∈ signalsOf g.t s.site.seq, s1.cur.tokVal k + s1.cur.tokRsv k < 255)
    (hl : s1.curSeq.slots.length + (signalsOf g.t s.site.seq).length ≤ 32) : issue g body s = .next (s1.completed g.t f) := by
  have hp : ¬ ((s.curSeq.pb.rem != 0 && !g.cover) = true) := by
    rcases h.block with e | ⟨e, -⟩ <;> simp [e]
  have hq : ¬ ((s.curSeq.pb.rem != 0 && !s.curSeq.pb.executes && g.skips) = true) := by
    rcases h.block with e | ⟨-, e⟩ <;> simp [e]
  have hw : ¬ ((!g.who.contains s.site.seq) = true) := by rw [h.who]; decide
  have hf := finish_ok (t := g.t) (f := f) (s := s1) (by rw [hsite]; exact hv) (by rw [hsite]; exact hr) (by rw [hsite]; exact hl)
  simp only [issue, h.issues, if_true, runM, issueM, M.bind_run, M.get_run, M.ite_run, if_neg hp, if_neg hq, if_neg hw, hc,
    eachM_needToken h.waits, hb, hg, Bool.not_true, unless'_false]
  rw [hsite] at hf
  simp only [M.bind_run] at hf
  rw [hf]

/-- An instruction that is ready, whose decode checks pass and whose body runs and leaves the tokens alone, retires (R94, R275). -/
theorem issue_completes {g : Gate} {body : M Flow} {s s1 : State} {f : Flow} {own : Nat} (h : Ready s g.t g.cover g.who own)
    (hg : g.signal = true) (hc : g.checks s = .ok ((), s)) (hb : body s = .ok (f, s1)) (hsite : s1.site = s.site)
    (hv : ∀ k, s1.cur.tokVal k = s.cur.tokVal k) (hr : ∀ k, s1.cur.tokRsv k = s.cur.tokRsv k)
    (hl : s1.curSeq.slots.length ≤ s.curSeq.slots.length + own) : issue g body s = .next (s1.completed g.t f) :=
  issue_runs h hg hc hb hsite (fun k hk => by rw [hv]; exact h.waits k hk) (fun k hk => by rw [hv, hr]; exact h.signals k hk)
    (by have := h.slots; omega)

/-- A trap raised by an instruction that issues and is not skipped is the trap that the step takes (R246). -/
theorem issue_traps {g : Gate} {body : M Flow} {s : State} {c : BitVec 8} {v : Word} {own : Nat} (h : Ready s g.t g.cover g.who own)
    (ht : g.checks s = .error (.trap c v) ∨ (g.checks s = .ok ((), s) ∧ body s = .error (.trap c v))) :
    issue g body s = .next (s.precise c v) := by
  have hp : ¬ ((s.curSeq.pb.rem != 0 && !g.cover) = true) := by
    rcases h.block with e | ⟨e, -⟩ <;> simp [e]
  have hq : ¬ ((s.curSeq.pb.rem != 0 && !s.curSeq.pb.executes && g.skips) = true) := by
    rcases h.block with e | ⟨-, e⟩ <;> simp [e]
  have hw : ¬ ((!g.who.contains s.site.seq) = true) := by rw [h.who]; decide
  rcases ht with hc | ⟨hc, hb⟩
  · simp only [issue, h.issues, if_true, runM, issueM, M.bind_run, M.get_run, M.ite_run, if_neg hp, if_neg hq, if_neg hw, hc]
  · simp only [issue, h.issues, if_true, runM, issueM, M.bind_run, M.get_run, M.ite_run, if_neg hp, if_neg hq, if_neg hw, hc,
      eachM_needToken h.waits, hb]

/-- The same for an instruction that gives no signal at retirement. -/
theorem issue_completesQuiet {g : Gate} {body : M Flow} {s s1 : State} {f : Flow} {own : Nat} (h : Ready s g.t g.cover g.who own)
    (hg : g.signal = false) (hc : g.checks s = .ok ((), s)) (hb : body s = .ok (f, s1)) (hsite : s1.site = s.site)
    (hv : ∀ k, s1.cur.tokVal k = s.cur.tokVal k) : issue g body s = .next (s1.completedQuiet g.t f) := by
  have hp : ¬ ((s.curSeq.pb.rem != 0 && !g.cover) = true) := by
    rcases h.block with e | ⟨e, -⟩ <;> simp [e]
  have hq : ¬ ((s.curSeq.pb.rem != 0 && !s.curSeq.pb.executes && g.skips) = true) := by
    rcases h.block with e | ⟨-, e⟩ <;> simp [e]
  have hw : ¬ ((!g.who.contains s.site.seq) = true) := by rw [h.who]; decide
  have ht := eachM_takeToken (s := s1) (waitsOf_nodup g.t s.site.seq) (by intro k hk; rw [hv]; exact h.waits k hk)
  simp only [issue, h.issues, if_true, runM, issueM, M.bind_run, M.get_run, M.ite_run, if_neg hp, if_neg hq, if_neg hw, hc,
    eachM_needToken h.waits, hb, hg, Bool.not_false, unless'_true, ht, M.pure_run, M.retire_run]
  simp only [State.completedQuiet, hsite]

/-! ### Operands -/

theorem checkSrc_ok {s : State} {r : BitVec 5} (h : s.readable r = true) : checkSrc r s = .ok ((), s) := by
  simp only [checkSrc, M.bind_run, M.get_run]
  unfold State.readable at h
  cases hp : portOf r with
  | none => rfl
  | some n => simp only [hp, Bool.and_eq_true, decide_eq_true_eq] at h; simp [h.1]

theorem checkDst_ok {s : State} {r : BitVec 5} (h : s.writable r = true) : checkDst r s = .ok ((), s) := by
  simp only [checkDst, M.bind_run, M.get_run]
  unfold State.writable at h
  cases hp : portOf r with
  | none => rfl
  | some n => simp only [hp, Bool.and_eq_true, decide_eq_true_eq] at h; simp [h.1]

theorem readReg_ok {s : State} {r : BitVec 5} (h : s.readable r = true) : readReg r s = .ok (s.source r, s.afterRead r) := by
  simp only [readReg, M.bind_run, M.get_run]
  unfold State.readable at h; unfold State.source State.afterRead
  cases hp : portOf r with
  | none => simp only [hp, Bool.not_eq_true'] at h; simp only [M.ite_run, h, Bool.false_eq_true, if_false, M.pure_run]
  | some n =>
    simp only [hp, Bool.and_eq_true] at h
    cases hq : s.cur.queue n with
    | nil => simp [hq] at h
    | cons v vs =>
      simp only [hq, M.bind_run, M.modCur_run, M.pure_run, State.modCell, List.headD_cons]
      simp only [State.cur] at hq
      simp only [hq, List.tail_cons]

theorem writeReg_ok {s : State} {r : BitVec 5} {v : Word} (h : s.writable r = true) (hl : s.curSeq.slots.length + pushes r ≤ 32) :
    writeReg r v s = .ok ((), s.afterWrite r v) := by
  simp only [writeReg, M.bind_run, M.get_run]
  unfold State.writable at h; unfold State.afterWrite; unfold pushes at hl
  cases hp : portOf r with
  | none => rfl
  | some n =>
    simp only [hp, Bool.and_eq_true, decide_eq_true_eq] at h
    simp only [hp, Option.isSome_some, if_true] at hl
    simp only [M.ite_run, if_neg (show ¬ 16 ≤ (s.cur.queue n).length + s.cur.pushesInSlots n by omega), slotItem, M.bind_run, M.get_run,
      if_neg (show ¬ 32 ≤ s.curSeq.slots.length by omega), M.modSq_run]

end Sys2Proof.Machine
end

