-- ==== Sys2Proof/Laws/Operands.lean ====
section
/-! SUPPORT. What reading a source and writing a result leave as it was, and the completion of the common instruction shapes. -/

namespace Sys2Proof.Machine

/-- A queue that is replaced leaves the rest of the cell alone, but for what its consumer has seen. -/
theorem Cell.setQueue_eq (c : Cell) (n : Nat) (l : List Word) :
    ∃ a b d e, c.setQueue n l = { c with seen := a, queues := b, qHead := d, qAt := e } := by
  obtain ⟨m, h⟩ := c.learn_eq (queueEnds n).2 ((NatMap.get [] c.qAt n).take ((c.queue n).length - l.length))
  unfold Cell.setQueue; dsimp only; rw [h]; exact ⟨_, _, _, _, rfl⟩

@[simp] theorem Cell.setQueue_seq (c : Cell) (n : Nat) (l : List Word) (q : SeqId) : (c.setQueue n l).seq q = c.seq q := by
  obtain ⟨a, b, d, e, h⟩ := c.setQueue_eq n l; rw [h]; cases q <;> rfl
@[simp] theorem Cell.setQueue_tok (c : Cell) (n : Nat) (l : List Word) : (c.setQueue n l).tok = c.tok := by
  obtain ⟨a, b, d, e, h⟩ := c.setQueue_eq n l; rw [h]
@[simp] theorem Cell.setQueue_tokRes (c : Cell) (n : Nat) (l : List Word) : (c.setQueue n l).tokRes = c.tokRes := by
  obtain ⟨a, b, d, e, h⟩ := c.setQueue_eq n l; rw [h]
@[simp] theorem Cell.setQueue_predWait (c : Cell) (n : Nat) (l : List Word) : (c.setQueue n l).predWait = c.predWait := by
  obtain ⟨a, b, d, e, h⟩ := c.setQueue_eq n l; rw [h]

@[simp] theorem Cell.queue_setQueue_same (c : Cell) (n : Nat) (l : List Word) : (c.setQueue n l).queue n = l := NatMap.get_put_same _ _ _ _

theorem Cell.queue_setQueue_other (c : Cell) {n m : Nat} (l : List Word) (h : m ≠ n) : (c.setQueue n l).queue m = c.queue m :=
  NatMap.get_put_other _ _ _ h

@[simp] theorem Cell.pushesInSlots_setQueue (c : Cell) (n m : Nat) (l : List Word) : (c.setQueue n l).pushesInSlots m = c.pushesInSlots m := by
  unfold Cell.pushesInSlots; rw [Cell.setQueue_seq]

/-! ### After a source -/

@[simp] theorem State.afterRead_site (s : State) (r : BitVec 5) : (s.afterRead r).site = s.site := by
  unfold State.afterRead; split <;> rfl

@[simp] theorem State.afterRead_here (s : State) (r : BitVec 5) : (s.afterRead r).here = s.here := by
  unfold State.afterRead; split <;> rfl

@[simp] theorem State.afterRead_cycle (s : State) (r : BitVec 5) : (s.afterRead r).cycle = s.cycle := by
  unfold State.afterRead; split <;> rfl

@[simp] theorem State.afterRead_boxes (s : State) (r : BitVec 5) : (s.afterRead r).boxes = s.boxes := by
  unfold State.afterRead; split <;> rfl

@[simp] theorem State.afterRead_byteAt (s : State) (r : BitVec 5) (pa : Nat) : (s.afterRead r).byteAt pa = s.byteAt pa := by
  unfold State.afterRead; split <;> rfl

/-- Reading a source changes nothing but the queues of the cell whose turn it is. -/
theorem State.afterRead_eq (s : State) (r : BitVec 5) :
    s.afterRead r = s ∨ ∃ n, s.afterRead r = s.modCell s.here (fun c => c.setQueue n (c.queue n).tail) := by
  unfold State.afterRead
  cases portOf r with
  | none => exact .inl rfl
  | some n => exact .inr ⟨n, rfl⟩

@[simp] theorem State.afterRead_curSeq (s : State) (r : BitVec 5) : (s.afterRead r).curSeq = s.curSeq := by
  rcases s.afterRead_eq r with h | ⟨n, h⟩ <;> rw [h]
  rw [State.curSeq_modCell, Cell.setQueue_seq]; rfl

@[simp] theorem State.afterRead_tokVal (s : State) (r : BitVec 5) (k : Nat) : (s.afterRead r).cur.tokVal k = s.cur.tokVal k := by
  rcases s.afterRead_eq r with h | ⟨n, h⟩ <;> rw [h]
  rw [State.cur_modCell, Cell.tokVal, Cell.setQueue_tok]; rfl

@[simp] theorem State.afterRead_tokRsv (s : State) (r : BitVec 5) (k : Nat) : (s.afterRead r).cur.tokRsv k = s.cur.tokRsv k := by
  rcases s.afterRead_eq r with h | ⟨n, h⟩ <;> rw [h]
  rw [State.cur_modCell, Cell.tokRsv, Cell.setQueue_tokRes]; rfl

@[simp] theorem State.afterRead_predWait (s : State) (r : BitVec 5) : (s.afterRead r).cur.predWait = s.cur.predWait := by
  rcases s.afterRead_eq r with h | ⟨n, h⟩ <;> rw [h]
  rw [State.cur_modCell, Cell.setQueue_predWait]

theorem State.writable_afterRead {s : State} {d : BitVec 5} (r : BitVec 5) (h : s.writable d = true) : (s.afterRead r).writable d = true := by
  rcases s.afterRead_eq r with e | ⟨n, e⟩ <;> rw [e]
  · exact h
  · unfold State.writable at *
    cases hp : portOf d with
    | none => rfl
    | some m =>
      simp only [hp, Bool.and_eq_true, decide_eq_true_eq, State.cur_modCell, Cell.pushesInSlots_setQueue, State.modCell_site] at *
      refine ⟨decide_eq_true h.1, ?_⟩
      by_cases hm : m = n
      · subst hm; rw [Cell.queue_setQueue_same, List.length_tail]; omega
      · rw [Cell.queue_setQueue_other _ _ hm]; exact h.2

theorem checkSrc_of_afterRead {s : State} {a b : BitVec 5} (h : (s.afterRead a).readable b = true) : checkSrc b s = .ok ((), s) := by
  simp only [checkSrc, M.bind_run, M.get_run]
  unfold State.readable at h
  cases hp : portOf b with
  | none => rfl
  | some n => simp only [hp, Bool.and_eq_true, decide_eq_true_eq, State.afterRead_site] at h; simp [h.1]

/-! ### After a result -/

@[simp] theorem State.afterWrite_site (s : State) (d : BitVec 5) (v : Word) : (s.afterWrite d v).site = s.site := by
  unfold State.afterWrite; split <;> rfl

@[simp] theorem State.afterWrite_here (s : State) (d : BitVec 5) (v : Word) : (s.afterWrite d v).here = s.here := by
  unfold State.afterWrite; split <;> rfl

theorem State.afterWrite_eq (s : State) (d : BitVec 5) (v : Word) : ∃ f, s.afterWrite d v = s.modSeq f := by
  unfold State.afterWrite; split <;> exact ⟨_, rfl⟩

@[simp] theorem State.afterWrite_tokVal (s : State) (d : BitVec 5) (v : Word) (k : Nat) : (s.afterWrite d v).cur.tokVal k = s.cur.tokVal k := by
  obtain ⟨f, h⟩ := s.afterWrite_eq d v; rw [h, State.cur_modSeq, Cell.tokVal, Cell.modSeq_tok]; rfl

@[simp] theorem State.afterWrite_tokRsv (s : State) (d : BitVec 5) (v : Word) (k : Nat) : (s.afterWrite d v).cur.tokRsv k = s.cur.tokRsv k := by
  obtain ⟨f, h⟩ := s.afterWrite_eq d v; rw [h, State.cur_modSeq, Cell.tokRsv, Cell.modSeq_tokRes]; rfl

@[simp] theorem Seq.setG_slots (x : Seq) (n : Nat) (v : Word) : (x.setG n v).slots = x.slots := by unfold Seq.setG; split <;> rfl
@[simp] theorem Seq.setG_pc (x : Seq) (n : Nat) (v : Word) : (x.setG n v).pc = x.pc := by unfold Seq.setG; split <;> rfl

theorem State.afterWrite_slots (s : State) (d : BitVec 5) (v : Word) : (s.afterWrite d v).curSeq.slots.length = s.curSeq.slots.length + pushes d := by
  unfold State.afterWrite pushes
  cases portOf d <;> simp

@[simp] theorem State.afterWrite_pc (s : State) (d : BitVec 5) (v : Word) : (s.afterWrite d v).curSeq.pc = s.curSeq.pc := by
  unfold State.afterWrite
  cases portOf d <;> simp

/-! ### Predicates -/

theorem readPred_ok {n : Nat} {s : State} (h : s.predFree n = true) : readPred n s = .ok (s.curSeq.pred n, s) := by
  simp only [readPred, M.bind_run, M.get_run, M.ite_run]
  unfold State.predFree at h
  rw [if_neg (by rw [Bool.not_eq_true'] at h; rw [h]; decide)]; rfl

theorem writePred_ok {n : Nat} {b : Bool} {s : State} (h : s.predFree n = true) :
    writePred n b s = .ok ((), s.modSeq (fun x => x.setPred n b)) := by
  simp only [writePred, M.bind_run, M.get_run, M.ite_run]
  unfold State.predFree at h
  rw [if_neg (by rw [Bool.not_eq_true'] at h; rw [h]; decide)]; rfl

@[simp] theorem State.predFree_afterRead (s : State) (r : BitVec 5) (n : Nat) : (s.afterRead r).predFree n = s.predFree n := by
  simp [State.predFree]

@[simp] theorem State.tokVal_modSeq (s : State) (f : Seq → Seq) (k : Nat) : (s.modSeq f).cur.tokVal k = s.cur.tokVal k := by
  rw [State.cur_modSeq, Cell.tokVal, Cell.modSeq_tok]; rfl

@[simp] theorem State.tokRsv_modSeq (s : State) (f : Seq → Seq) (k : Nat) : (s.modSeq f).cur.tokRsv k = s.cur.tokRsv k := by
  rw [State.cur_modSeq, Cell.tokRsv, Cell.modSeq_tokRes]; rfl

@[simp] theorem Seq.setPred_slots (x : Seq) (n : Nat) (b : Bool) : (x.setPred n b).slots = x.slots := by unfold Seq.setPred; split <;> rfl

@[simp] theorem Seq.setLoop_slots (x : Seq) (n : Nat) (v : BitVec 32) : (x.setLoop n v).slots = x.slots := rfl

@[simp] theorem Seq.setLoop_pc (x : Seq) (n : Nat) (v : BitVec 32) : (x.setLoop n v).pc = x.pc := rfl

/-! ### The common shapes -/

/-- A destination below 24 is a register. -/
theorem portOf_lt {r : BitVec 5} (h : r.toNat < 24) : portOf r = none := by unfold portOf; rw [if_neg (by omega)]

theorem checkNoPort_ok {r : BitVec 5} (h : r.toNat < 24) (s : State) : checkNoPort r s = .ok ((), s) := by
  simp only [checkNoPort, M.ite_run, if_neg (show ¬ 24 ≤ r.toNat by omega), M.pure_run]

theorem checkNoPort_traps {r : BitVec 5} (h : 24 ≤ r.toNat) (s : State) : checkNoPort r s = .error (.trap tcIllegalReg (regVal r)) := by
  simp only [checkNoPort, M.ite_run, if_pos h, M.raise_run]

/-- A register destination is written whatever the check slots hold. -/
theorem writeReg_register {r : BitVec 5} (h : r.toNat < 24) (v : Word) (s : State) :
    writeReg r v s = .ok ((), s.modSeq (fun x => x.setG r.toNat v)) := by
  simp only [writeReg, M.bind_run, M.get_run, portOf_lt h, M.modSq_run]

theorem checkDAB_ok {s : State} {d a b : BitVec 5} (ha : s.readable a = true) (hb : (s.afterRead a).readable b = true) (hd : s.writable d = true) :
    checkDAB d a b s = .ok ((), s) := by
  simp only [checkDAB, M.bind_run, checkDst_ok hd, checkSrc_ok ha, checkSrc_of_afterRead hb]

/-- Two sources and a destination. -/
theorem twoSource_completes {t : BitVec 4} {d a b : BitVec 5} {f : Word → Word → M Word} {r : Word} {s : State}
    (h : Ready s t true allSeqs (pushes d)) (ha : s.readable a = true) (hb : (s.afterRead a).readable b = true) (hd : s.writable d = true)
    (hf : f (s.source a) ((s.afterRead a).source b) ((s.afterRead a).afterRead b) = .ok (r, (s.afterRead a).afterRead b)) :
    twoSource t d a b f s = .next ((((s.afterRead a).afterRead b).afterWrite d r).completed t .seq) := by
  have hl : ((s.afterRead a).afterRead b).curSeq.slots.length + pushes d ≤ 32 := by
    have := h.slots; simp only [State.afterRead_curSeq]; omega
  refine issue_completes (own := pushes d) h rfl (checkDAB_ok ha hb hd) ?_ (by simp) (by simp) (by simp) ?_
  · simp only [M.bind_run, readReg_ok ha, readReg_ok hb, hf, writeReg_ok (State.writable_afterRead b (State.writable_afterRead a hd)) hl, M.pure_run]
  · rw [State.afterWrite_slots]; simp

/-- One source and a destination. -/
theorem oneSource_completes {t : BitVec 4} {d a : BitVec 5} {f : Word → Word} {s : State}
    (h : Ready s t true allSeqs (pushes d)) (ha : s.readable a = true) (hd : s.writable d = true) :
    oneSource t d a f s = .next (((s.afterRead a).afterWrite d (f (s.source a))).completed t .seq) := by
  have hl : (s.afterRead a).curSeq.slots.length + pushes d ≤ 32 := by
    have := h.slots; simp only [State.afterRead_curSeq]; omega
  refine issue_completes (own := pushes d) h rfl ?_ ?_ (by simp) (by simp) (by simp) ?_
  · simp only [M.bind_run, checkDst_ok hd, checkSrc_ok ha]
  · simp only [M.bind_run, readReg_ok ha, writeReg_ok (State.writable_afterRead a hd) hl, M.pure_run]
  · rw [State.afterWrite_slots]; simp

/-- A destination alone. -/
theorem noSource_completes {t : BitVec 4} {d : BitVec 5} {f : M Word} {r : Word} {s : State}
    (h : Ready s t true allSeqs (pushes d)) (hd : s.writable d = true) (hf : f s = .ok (r, s)) :
    noSource t d f s = .next ((s.afterWrite d r).completed t .seq) := by
  have hl : s.curSeq.slots.length + pushes d ≤ 32 := by have := h.slots; omega
  refine issue_completes (own := pushes d) h rfl (checkDst_ok hd) ?_ (by simp) (by simp) (by simp) ?_
  · simp only [M.bind_run, hf, writeReg_ok hd hl, M.pure_run]
  · rw [State.afterWrite_slots]

end Sys2Proof.Machine
end

