-- ==== Sys2Proof/Laws/PerInstr.lean ====
section
/-! SUPPORT. One lemma for each instruction: it has a word exactly if it is no event of the device, and an event is well formed
(R269, R270). -/

namespace Sys2Proof.Laws.Encoding

/-- An instruction has no word exactly if it is a device event or the fate of a word that is none (R275), and an event is well formed. -/
def Statement (i : Instr) : Prop := (encode i).isNone = (i.isEvent || (match i with | .undefinedEncoding => true | _ => false)) ∧ (i.isEvent = true → i.wf = true)

theorem add (t : BitVec 4) (d : BitVec 5) (a : BitVec 5) (b : BitVec 5) : Statement (Instr.add t d a b) := ⟨rfl, fun h => absurd (show false = true from h) Bool.false_ne_true⟩
theorem sub (t : BitVec 4) (d : BitVec 5) (a : BitVec 5) (b : BitVec 5) : Statement (Instr.sub t d a b) := ⟨rfl, fun h => absurd (show false = true from h) Bool.false_ne_true⟩
theorem and (t : BitVec 4) (d : BitVec 5) (a : BitVec 5) (b : BitVec 5) : Statement (Instr.and t d a b) := ⟨rfl, fun h => absurd (show false = true from h) Bool.false_ne_true⟩
theorem or (t : BitVec 4) (d : BitVec 5) (a : BitVec 5) (b : BitVec 5) : Statement (Instr.or t d a b) := ⟨rfl, fun h => absurd (show false = true from h) Bool.false_ne_true⟩
theorem xor (t : BitVec 4) (d : BitVec 5) (a : BitVec 5) (b : BitVec 5) : Statement (Instr.xor t d a b) := ⟨rfl, fun h => absurd (show false = true from h) Bool.false_ne_true⟩
theorem andn (t : BitVec 4) (d : BitVec 5) (a : BitVec 5) (b : BitVec 5) : Statement (Instr.andn t d a b) := ⟨rfl, fun h => absurd (show false = true from h) Bool.false_ne_true⟩
theorem sll (t : BitVec 4) (d : BitVec 5) (a : BitVec 5) (b : BitVec 5) : Statement (Instr.sll t d a b) := ⟨rfl, fun h => absurd (show false = true from h) Bool.false_ne_true⟩
theorem srl (t : BitVec 4) (d : BitVec 5) (a : BitVec 5) (b : BitVec 5) : Statement (Instr.srl t d a b) := ⟨rfl, fun h => absurd (show false = true from h) Bool.false_ne_true⟩
theorem sra (t : BitVec 4) (d : BitVec 5) (a : BitVec 5) (b : BitVec 5) : Statement (Instr.sra t d a b) := ⟨rfl, fun h => absurd (show false = true from h) Bool.false_ne_true⟩
theorem rol (t : BitVec 4) (d : BitVec 5) (a : BitVec 5) (b : BitVec 5) : Statement (Instr.rol t d a b) := ⟨rfl, fun h => absurd (show false = true from h) Bool.false_ne_true⟩
theorem mul (t : BitVec 4) (d : BitVec 5) (a : BitVec 5) (b : BitVec 5) : Statement (Instr.mul t d a b) := ⟨rfl, fun h => absurd (show false = true from h) Bool.false_ne_true⟩
theorem mulh (t : BitVec 4) (d : BitVec 5) (a : BitVec 5) (b : BitVec 5) : Statement (Instr.mulh t d a b) := ⟨rfl, fun h => absurd (show false = true from h) Bool.false_ne_true⟩
theorem mulhz (t : BitVec 4) (d : BitVec 5) (a : BitVec 5) (b : BitVec 5) : Statement (Instr.mulhz t d a b) := ⟨rfl, fun h => absurd (show false = true from h) Bool.false_ne_true⟩
theorem div (t : BitVec 4) (d : BitVec 5) (a : BitVec 5) (b : BitVec 5) : Statement (Instr.div t d a b) := ⟨rfl, fun h => absurd (show false = true from h) Bool.false_ne_true⟩
theorem divz (t : BitVec 4) (d : BitVec 5) (a : BitVec 5) (b : BitVec 5) : Statement (Instr.divz t d a b) := ⟨rfl, fun h => absurd (show false = true from h) Bool.false_ne_true⟩
theorem rem (t : BitVec 4) (d : BitVec 5) (a : BitVec 5) (b : BitVec 5) : Statement (Instr.rem t d a b) := ⟨rfl, fun h => absurd (show false = true from h) Bool.false_ne_true⟩
theorem remz (t : BitVec 4) (d : BitVec 5) (a : BitVec 5) (b : BitVec 5) : Statement (Instr.remz t d a b) := ⟨rfl, fun h => absurd (show false = true from h) Bool.false_ne_true⟩
theorem min (t : BitVec 4) (d : BitVec 5) (a : BitVec 5) (b : BitVec 5) : Statement (Instr.min t d a b) := ⟨rfl, fun h => absurd (show false = true from h) Bool.false_ne_true⟩
theorem max (t : BitVec 4) (d : BitVec 5) (a : BitVec 5) (b : BitVec 5) : Statement (Instr.max t d a b) := ⟨rfl, fun h => absurd (show false = true from h) Bool.false_ne_true⟩
theorem minz (t : BitVec 4) (d : BitVec 5) (a : BitVec 5) (b : BitVec 5) : Statement (Instr.minz t d a b) := ⟨rfl, fun h => absurd (show false = true from h) Bool.false_ne_true⟩
theorem maxz (t : BitVec 4) (d : BitVec 5) (a : BitVec 5) (b : BitVec 5) : Statement (Instr.maxz t d a b) := ⟨rfl, fun h => absurd (show false = true from h) Bool.false_ne_true⟩
theorem clz (t : BitVec 4) (d : BitVec 5) (a : BitVec 5) : Statement (Instr.clz t d a) := ⟨rfl, fun h => absurd (show false = true from h) Bool.false_ne_true⟩
theorem ctz (t : BitVec 4) (d : BitVec 5) (a : BitVec 5) : Statement (Instr.ctz t d a) := ⟨rfl, fun h => absurd (show false = true from h) Bool.false_ne_true⟩
theorem popc (t : BitVec 4) (d : BitVec 5) (a : BitVec 5) : Statement (Instr.popc t d a) := ⟨rfl, fun h => absurd (show false = true from h) Bool.false_ne_true⟩
theorem bswap (t : BitVec 4) (d : BitVec 5) (a : BitVec 5) : Statement (Instr.bswap t d a) := ⟨rfl, fun h => absurd (show false = true from h) Bool.false_ne_true⟩
theorem mix (t : BitVec 4) (d : BitVec 5) (a : BitVec 5) (b : BitVec 5) : Statement (Instr.mix t d a b) := ⟨rfl, fun h => absurd (show false = true from h) Bool.false_ne_true⟩
theorem bfx (t : BitVec 4) (d : BitVec 5) (a : BitVec 5) (b : BitVec 5) : Statement (Instr.bfx t d a b) := ⟨rfl, fun h => absurd (show false = true from h) Bool.false_ne_true⟩
theorem bfi (t : BitVec 4) (d : BitVec 5) (a : BitVec 5) (b : BitVec 5) : Statement (Instr.bfi t d a b) := ⟨rfl, fun h => absurd (show false = true from h) Bool.false_ne_true⟩
theorem addi (t : BitVec 4) (d : BitVec 5) (a : BitVec 5) (i : BitVec 12) : Statement (Instr.addi t d a i) := ⟨rfl, fun h => absurd (show false = true from h) Bool.false_ne_true⟩
theorem andi (t : BitVec 4) (d : BitVec 5) (a : BitVec 5) (i : BitVec 12) : Statement (Instr.andi t d a i) := ⟨rfl, fun h => absurd (show false = true from h) Bool.false_ne_true⟩
theorem ori (t : BitVec 4) (d : BitVec 5) (a : BitVec 5) (i : BitVec 12) : Statement (Instr.ori t d a i) := ⟨rfl, fun h => absurd (show false = true from h) Bool.false_ne_true⟩
theorem xori (t : BitVec 4) (d : BitVec 5) (a : BitVec 5) (i : BitVec 12) : Statement (Instr.xori t d a i) := ⟨rfl, fun h => absurd (show false = true from h) Bool.false_ne_true⟩
theorem slli (t : BitVec 4) (d : BitVec 5) (a : BitVec 5) (s : BitVec 6) : Statement (Instr.slli t d a s) := ⟨rfl, fun h => absurd (show false = true from h) Bool.false_ne_true⟩
theorem srli (t : BitVec 4) (d : BitVec 5) (a : BitVec 5) (s : BitVec 6) : Statement (Instr.srli t d a s) := ⟨rfl, fun h => absurd (show false = true from h) Bool.false_ne_true⟩
theorem srai (t : BitVec 4) (d : BitVec 5) (a : BitVec 5) (s : BitVec 6) : Statement (Instr.srai t d a s) := ⟨rfl, fun h => absurd (show false = true from h) Bool.false_ne_true⟩
theorem roli (t : BitVec 4) (d : BitVec 5) (a : BitVec 5) (s : BitVec 6) : Statement (Instr.roli t d a s) := ⟨rfl, fun h => absurd (show false = true from h) Bool.false_ne_true⟩
theorem pcmp (t : BitVec 4) (d : BitVec 5) (a : BitVec 5) (b : BitVec 5) (c : BitVec 3) : Statement (Instr.pcmp t d a b c) := ⟨rfl, fun h => absurd (show false = true from h) Bool.false_ne_true⟩
theorem pcmpi (t : BitVec 4) (p : BitVec 3) (c : BitVec 3) (a : BitVec 5) (i : BitVec 11) : Statement (Instr.pcmpi t p c a i) := ⟨rfl, fun h => absurd (show false = true from h) Bool.false_ne_true⟩
theorem li (t : BitVec 4) (d : BitVec 5) (i : BitVec 17) : Statement (Instr.li t d i) := ⟨rfl, fun h => absurd (show false = true from h) Bool.false_ne_true⟩
theorem lis (t : BitVec 4) (d : BitVec 5) (i : BitVec 17) : Statement (Instr.lis t d i) := ⟨rfl, fun h => absurd (show false = true from h) Bool.false_ne_true⟩
theorem ldc (t : BitVec 4) (d : BitVec 5) (i : BitVec 12) : Statement (Instr.ldc t d i) := ⟨rfl, fun h => absurd (show false = true from h) Bool.false_ne_true⟩
theorem pred (t : BitVec 4) (p : BitVec 3) (n : BitVec 3) (q : BitVec 8) : Statement (Instr.pred t p n q) := ⟨rfl, fun h => absurd (show false = true from h) Bool.false_ne_true⟩
theorem bt (t : BitVec 4) (p : BitVec 3) (i : BitVec 17) : Statement (Instr.bt t p i) := ⟨rfl, fun h => absurd (show false = true from h) Bool.false_ne_true⟩
theorem bf (t : BitVec 4) (p : BitVec 3) (i : BitVec 17) : Statement (Instr.bf t p i) := ⟨rfl, fun h => absurd (show false = true from h) Bool.false_ne_true⟩
theorem jmp (t : BitVec 4) (i : BitVec 17) : Statement (Instr.jmp t i) := ⟨rfl, fun h => absurd (show false = true from h) Bool.false_ne_true⟩
theorem call (t : BitVec 4) (a : BitVec 5) (i : BitVec 17) : Statement (Instr.call t a i) := ⟨rfl, fun h => absurd (show false = true from h) Bool.false_ne_true⟩
theorem jr (t : BitVec 4) (d : BitVec 5) (a : BitVec 5) (i : BitVec 12) : Statement (Instr.jr t d a i) := ⟨rfl, fun h => absurd (show false = true from h) Bool.false_ne_true⟩
theorem loop (t : BitVec 4) (n : BitVec 2) (a : BitVec 5) (i : BitVec 12) : Statement (Instr.loop t n a i) := ⟨rfl, fun h => absurd (show false = true from h) Bool.false_ne_true⟩
theorem bloop (t : BitVec 4) (n : BitVec 2) (i : BitVec 17) : Statement (Instr.bloop t n i) := ⟨rfl, fun h => absurd (show false = true from h) Bool.false_ne_true⟩
theorem bloopRot (t : BitVec 4) (n : BitVec 2) (i : BitVec 17) : Statement (Instr.bloopRot t n i) := ⟨rfl, fun h => absurd (show false = true from h) Bool.false_ne_true⟩
theorem qlen (t : BitVec 4) (d : BitVec 5) (a : BitVec 5) : Statement (Instr.qlen t d a) := ⟨rfl, fun h => absurd (show false = true from h) Bool.false_ne_true⟩
theorem qpeek (t : BitVec 4) (d : BitVec 5) (a : BitVec 5) : Statement (Instr.qpeek t d a) := ⟨rfl, fun h => absurd (show false = true from h) Bool.false_ne_true⟩
theorem tokcnt (t : BitVec 4) (d : BitVec 5) (a : BitVec 5) : Statement (Instr.tokcnt t d a) := ⟨rfl, fun h => absurd (show false = true from h) Bool.false_ne_true⟩
theorem tokadd (t : BitVec 4) (d : BitVec 5) (a : BitVec 5) : Statement (Instr.tokadd t d a) := ⟨rfl, fun h => absurd (show false = true from h) Bool.false_ne_true⟩
theorem tokwait (t : BitVec 4) (d : BitVec 5) (a : BitVec 5) : Statement (Instr.tokwait t d a) := ⟨rfl, fun h => absurd (show false = true from h) Bool.false_ne_true⟩
theorem ldo (t : BitVec 4) (d : BitVec 5) (a : BitVec 5) (z : BitVec 2) (s : BitVec 1) (c : BitVec 2) (o : BitVec 7) : Statement (Instr.ldo t d a z s c o) := ⟨rfl, fun h => absurd (show false = true from h) Bool.false_ne_true⟩
theorem sto (t : BitVec 4) (d : BitVec 5) (a : BitVec 5) (z : BitVec 2) (c : BitVec 2) (o : BitVec 7) : Statement (Instr.sto t d a z c o) := ⟨rfl, fun h => absurd (show false = true from h) Bool.false_ne_true⟩
theorem ldx (t : BitVec 4) (d : BitVec 5) (a : BitVec 5) (z : BitVec 2) (s : BitVec 1) (o : BitVec 9) : Statement (Instr.ldx t d a z s o) := ⟨rfl, fun h => absurd (show false = true from h) Bool.false_ne_true⟩
theorem stx (t : BitVec 4) (d : BitVec 5) (a : BitVec 5) (z : BitVec 2) (o : BitVec 9) : Statement (Instr.stx t d a z o) := ⟨rfl, fun h => absurd (show false = true from h) Bool.false_ne_true⟩
theorem lds (t : BitVec 4) (d : BitVec 5) (a : BitVec 5) (z : BitVec 2) (s : BitVec 1) (o : BitVec 9) : Statement (Instr.lds t d a z s o) := ⟨rfl, fun h => absurd (show false = true from h) Bool.false_ne_true⟩
theorem sts (t : BitVec 4) (d : BitVec 5) (a : BitVec 5) (z : BitVec 2) (o : BitVec 9) : Statement (Instr.sts t d a z o) := ⟨rfl, fun h => absurd (show false = true from h) Bool.false_ne_true⟩
theorem tld (t : BitVec 4) (d : BitVec 5) (a : BitVec 5) (n : BitVec 3) (q : BitVec 2) : Statement (Instr.tld t d a n q) := ⟨rfl, fun h => absurd (show false = true from h) Bool.false_ne_true⟩
theorem tst (t : BitVec 4) (d : BitVec 5) (a : BitVec 5) (n : BitVec 3) (q : BitVec 1) : Statement (Instr.tst t d a n q) := ⟨rfl, fun h => absurd (show false = true from h) Bool.false_ne_true⟩
theorem atomSwap (t : BitVec 4) (d : BitVec 5) (a : BitVec 5) (b : BitVec 5) (z : BitVec 1) (c : BitVec 2) : Statement (Instr.atomSwap t d a b z c) := ⟨rfl, fun h => absurd (show false = true from h) Bool.false_ne_true⟩
theorem atomAdd (t : BitVec 4) (d : BitVec 5) (a : BitVec 5) (b : BitVec 5) (z : BitVec 1) (c : BitVec 2) : Statement (Instr.atomAdd t d a b z c) := ⟨rfl, fun h => absurd (show false = true from h) Bool.false_ne_true⟩
theorem atomAnd (t : BitVec 4) (d : BitVec 5) (a : BitVec 5) (b : BitVec 5) (z : BitVec 1) (c : BitVec 2) : Statement (Instr.atomAnd t d a b z c) := ⟨rfl, fun h => absurd (show false = true from h) Bool.false_ne_true⟩
theorem atomOr (t : BitVec 4) (d : BitVec 5) (a : BitVec 5) (b : BitVec 5) (z : BitVec 1) (c : BitVec 2) : Statement (Instr.atomOr t d a b z c) := ⟨rfl, fun h => absurd (show false = true from h) Bool.false_ne_true⟩
theorem atomXor (t : BitVec 4) (d : BitVec 5) (a : BitVec 5) (b : BitVec 5) (z : BitVec 1) (c : BitVec 2) : Statement (Instr.atomXor t d a b z c) := ⟨rfl, fun h => absurd (show false = true from h) Bool.false_ne_true⟩
theorem atomMax (t : BitVec 4) (d : BitVec 5) (a : BitVec 5) (b : BitVec 5) (z : BitVec 1) (c : BitVec 2) : Statement (Instr.atomMax t d a b z c) := ⟨rfl, fun h => absurd (show false = true from h) Bool.false_ne_true⟩
theorem atomMaxz (t : BitVec 4) (d : BitVec 5) (a : BitVec 5) (b : BitVec 5) (z : BitVec 1) (c : BitVec 2) : Statement (Instr.atomMaxz t d a b z c) := ⟨rfl, fun h => absurd (show false = true from h) Bool.false_ne_true⟩
theorem atomCas (t : BitVec 4) (d : BitVec 5) (a : BitVec 5) (b : BitVec 5) (z : BitVec 1) (c : BitVec 2) : Statement (Instr.atomCas t d a b z c) := ⟨rfl, fun h => absurd (show false = true from h) Bool.false_ne_true⟩
theorem fenceSc (t : BitVec 4) (c : BitVec 2) : Statement (Instr.fenceSc t c) := ⟨rfl, fun h => absurd (show false = true from h) Bool.false_ne_true⟩
theorem fenceAcq (t : BitVec 4) (c : BitVec 2) : Statement (Instr.fenceAcq t c) := ⟨rfl, fun h => absurd (show false = true from h) Bool.false_ne_true⟩
theorem fenceRel (t : BitVec 4) (c : BitVec 2) : Statement (Instr.fenceRel t c) := ⟨rfl, fun h => absurd (show false = true from h) Bool.false_ne_true⟩
theorem ldacq (t : BitVec 4) (d : BitVec 5) (a : BitVec 5) (z : BitVec 2) (s : BitVec 1) (c : BitVec 2) (o : BitVec 6) : Statement (Instr.ldacq t d a z s c o) := ⟨rfl, fun h => absurd (show false = true from h) Bool.false_ne_true⟩
theorem strel (t : BitVec 4) (d : BitVec 5) (a : BitVec 5) (z : BitVec 2) (c : BitVec 2) (o : BitVec 6) : Statement (Instr.strel t d a z c o) := ⟨rfl, fun h => absurd (show false = true from h) Bool.false_ne_true⟩
theorem waitany (t : BitVec 4) (d : BitVec 5) (a : BitVec 5) : Statement (Instr.waitany t d a) := ⟨rfl, fun h => absurd (show false = true from h) Bool.false_ne_true⟩
theorem waitall (t : BitVec 4) (d : BitVec 5) (a : BitVec 5) : Statement (Instr.waitall t d a) := ⟨rfl, fun h => absurd (show false = true from h) Bool.false_ne_true⟩
theorem ffr (t : BitVec 4) (d : BitVec 5) (a : BitVec 5) : Statement (Instr.ffr t d a) := ⟨rfl, fun h => absurd (show false = true from h) Bool.false_ne_true⟩
theorem tagclr (t : BitVec 4) (a : BitVec 5) : Statement (Instr.tagclr t a) := ⟨rfl, fun h => absurd (show false = true from h) Bool.false_ne_true⟩
theorem tagrd (t : BitVec 4) (d : BitVec 5) (a : BitVec 5) : Statement (Instr.tagrd t d a) := ⟨rfl, fun h => absurd (show false = true from h) Bool.false_ne_true⟩
theorem tagst (t : BitVec 4) (a : BitVec 5) (b : BitVec 5) : Statement (Instr.tagst t a b) := ⟨rfl, fun h => absurd (show false = true from h) Bool.false_ne_true⟩
theorem tagstArm (t : BitVec 4) (a : BitVec 5) (b : BitVec 5) : Statement (Instr.tagstArm t a b) := ⟨rfl, fun h => absurd (show false = true from h) Bool.false_ne_true⟩
theorem tlook (t : BitVec 4) (d : BitVec 5) (a : BitVec 5) : Statement (Instr.tlook t d a) := ⟨rfl, fun h => absurd (show false = true from h) Bool.false_ne_true⟩
theorem tfill (t : BitVec 4) (a : BitVec 5) (b : BitVec 5) : Statement (Instr.tfill t a b) := ⟨rfl, fun h => absurd (show false = true from h) Bool.false_ne_true⟩
theorem trd (t : BitVec 4) (d : BitVec 5) (a : BitVec 5) (b : BitVec 5) (s : BitVec 1) (z : BitVec 2) : Statement (Instr.trd t d a b s z) := ⟨rfl, fun h => absurd (show false = true from h) Bool.false_ne_true⟩
theorem tinv (t : BitVec 4) (a : BitVec 5) : Statement (Instr.tinv t a) := ⟨rfl, fun h => absurd (show false = true from h) Bool.false_ne_true⟩
theorem tstat (t : BitVec 4) (d : BitVec 5) (a : BitVec 5) : Statement (Instr.tstat t d a) := ⟨rfl, fun h => absurd (show false = true from h) Bool.false_ne_true⟩
theorem patchr (t : BitVec 4) (a : BitVec 5) (n : BitVec 6) (f : BitVec 4) : Statement (Instr.patchr t a n f) := ⟨rfl, fun h => absurd (show false = true from h) Bool.false_ne_true⟩
theorem patch (t : BitVec 4) (n : BitVec 6) (f : BitVec 4) (v : BitVec 16) : Statement (Instr.patch t n f v) := ⟨rfl, fun h => absurd (show false = true from h) Bool.false_ne_true⟩
theorem go (t : BitVec 4) (n : BitVec 6) (g : BitVec 6) : Statement (Instr.go t n g) := ⟨rfl, fun h => absurd (show false = true from h) Bool.false_ne_true⟩
theorem vadd (t : BitVec 4) (a : BitVec 5) (b : BitVec 5) : Statement (Instr.vadd t a b) := ⟨rfl, fun h => absurd (show false = true from h) Bool.false_ne_true⟩
theorem vsub (t : BitVec 4) (a : BitVec 5) (b : BitVec 5) : Statement (Instr.vsub t a b) := ⟨rfl, fun h => absurd (show false = true from h) Bool.false_ne_true⟩
theorem vmul (t : BitVec 4) (a : BitVec 5) (b : BitVec 5) : Statement (Instr.vmul t a b) := ⟨rfl, fun h => absurd (show false = true from h) Bool.false_ne_true⟩
theorem vmulh (t : BitVec 4) (a : BitVec 5) (b : BitVec 5) : Statement (Instr.vmulh t a b) := ⟨rfl, fun h => absurd (show false = true from h) Bool.false_ne_true⟩
theorem vand (t : BitVec 4) (a : BitVec 5) (b : BitVec 5) : Statement (Instr.vand t a b) := ⟨rfl, fun h => absurd (show false = true from h) Bool.false_ne_true⟩
theorem vor (t : BitVec 4) (a : BitVec 5) (b : BitVec 5) : Statement (Instr.vor t a b) := ⟨rfl, fun h => absurd (show false = true from h) Bool.false_ne_true⟩
theorem vxor (t : BitVec 4) (a : BitVec 5) (b : BitVec 5) : Statement (Instr.vxor t a b) := ⟨rfl, fun h => absurd (show false = true from h) Bool.false_ne_true⟩
theorem vandn (t : BitVec 4) (a : BitVec 5) (b : BitVec 5) : Statement (Instr.vandn t a b) := ⟨rfl, fun h => absurd (show false = true from h) Bool.false_ne_true⟩
theorem vsll (t : BitVec 4) (a : BitVec 5) (b : BitVec 5) : Statement (Instr.vsll t a b) := ⟨rfl, fun h => absurd (show false = true from h) Bool.false_ne_true⟩
theorem vsrl (t : BitVec 4) (a : BitVec 5) (b : BitVec 5) : Statement (Instr.vsrl t a b) := ⟨rfl, fun h => absurd (show false = true from h) Bool.false_ne_true⟩
theorem vsra (t : BitVec 4) (a : BitVec 5) (b : BitVec 5) : Statement (Instr.vsra t a b) := ⟨rfl, fun h => absurd (show false = true from h) Bool.false_ne_true⟩
theorem vmin (t : BitVec 4) (a : BitVec 5) (b : BitVec 5) : Statement (Instr.vmin t a b) := ⟨rfl, fun h => absurd (show false = true from h) Bool.false_ne_true⟩
theorem vmax (t : BitVec 4) (a : BitVec 5) (b : BitVec 5) : Statement (Instr.vmax t a b) := ⟨rfl, fun h => absurd (show false = true from h) Bool.false_ne_true⟩
theorem vminz (t : BitVec 4) (a : BitVec 5) (b : BitVec 5) : Statement (Instr.vminz t a b) := ⟨rfl, fun h => absurd (show false = true from h) Bool.false_ne_true⟩
theorem vmaxz (t : BitVec 4) (a : BitVec 5) (b : BitVec 5) : Statement (Instr.vmaxz t a b) := ⟨rfl, fun h => absurd (show false = true from h) Bool.false_ne_true⟩
theorem vabs (t : BitVec 4) (a : BitVec 5) (b : BitVec 5) : Statement (Instr.vabs t a b) := ⟨rfl, fun h => absurd (show false = true from h) Bool.false_ne_true⟩
theorem vneg (t : BitVec 4) (a : BitVec 5) (b : BitVec 5) : Statement (Instr.vneg t a b) := ⟨rfl, fun h => absurd (show false = true from h) Bool.false_ne_true⟩
theorem vpopc (t : BitVec 4) (a : BitVec 5) (b : BitVec 5) : Statement (Instr.vpopc t a b) := ⟨rfl, fun h => absurd (show false = true from h) Bool.false_ne_true⟩
theorem vclz (t : BitVec 4) (a : BitVec 5) (b : BitVec 5) : Statement (Instr.vclz t a b) := ⟨rfl, fun h => absurd (show false = true from h) Bool.false_ne_true⟩
theorem vsel (t : BitVec 4) (a : BitVec 5) (b : BitVec 5) : Statement (Instr.vsel t a b) := ⟨rfl, fun h => absurd (show false = true from h) Bool.false_ne_true⟩
theorem vfadd (t : BitVec 4) (a : BitVec 5) (b : BitVec 5) : Statement (Instr.vfadd t a b) := ⟨rfl, fun h => absurd (show false = true from h) Bool.false_ne_true⟩
theorem vfsub (t : BitVec 4) (a : BitVec 5) (b : BitVec 5) : Statement (Instr.vfsub t a b) := ⟨rfl, fun h => absurd (show false = true from h) Bool.false_ne_true⟩
theorem vfmul (t : BitVec 4) (a : BitVec 5) (b : BitVec 5) : Statement (Instr.vfmul t a b) := ⟨rfl, fun h => absurd (show false = true from h) Bool.false_ne_true⟩
theorem vfma (t : BitVec 4) (a : BitVec 5) (b : BitVec 5) : Statement (Instr.vfma t a b) := ⟨rfl, fun h => absurd (show false = true from h) Bool.false_ne_true⟩
theorem vfms (t : BitVec 4) (a : BitVec 5) (b : BitVec 5) : Statement (Instr.vfms t a b) := ⟨rfl, fun h => absurd (show false = true from h) Bool.false_ne_true⟩
theorem vfnma (t : BitVec 4) (a : BitVec 5) (b : BitVec 5) : Statement (Instr.vfnma t a b) := ⟨rfl, fun h => absurd (show false = true from h) Bool.false_ne_true⟩
theorem vfdiv (t : BitVec 4) (a : BitVec 5) (b : BitVec 5) : Statement (Instr.vfdiv t a b) := ⟨rfl, fun h => absurd (show false = true from h) Bool.false_ne_true⟩
theorem vfsqrt (t : BitVec 4) (a : BitVec 5) (b : BitVec 5) : Statement (Instr.vfsqrt t a b) := ⟨rfl, fun h => absurd (show false = true from h) Bool.false_ne_true⟩
theorem vfmin (t : BitVec 4) (a : BitVec 5) (b : BitVec 5) : Statement (Instr.vfmin t a b) := ⟨rfl, fun h => absurd (show false = true from h) Bool.false_ne_true⟩
theorem vfmax (t : BitVec 4) (a : BitVec 5) (b : BitVec 5) : Statement (Instr.vfmax t a b) := ⟨rfl, fun h => absurd (show false = true from h) Bool.false_ne_true⟩
theorem vfabs (t : BitVec 4) (a : BitVec 5) (b : BitVec 5) : Statement (Instr.vfabs t a b) := ⟨rfl, fun h => absurd (show false = true from h) Bool.false_ne_true⟩
theorem vfneg (t : BitVec 4) (a : BitVec 5) (b : BitVec 5) : Statement (Instr.vfneg t a b) := ⟨rfl, fun h => absurd (show false = true from h) Bool.false_ne_true⟩
theorem vfcpsgn (t : BitVec 4) (a : BitVec 5) (b : BitVec 5) : Statement (Instr.vfcpsgn t a b) := ⟨rfl, fun h => absurd (show false = true from h) Bool.false_ne_true⟩
theorem vscaleb (t : BitVec 4) (a : BitVec 5) (b : BitVec 5) : Statement (Instr.vscaleb t a b) := ⟨rfl, fun h => absurd (show false = true from h) Bool.false_ne_true⟩
theorem vgetexp (t : BitVec 4) (a : BitVec 5) (b : BitVec 5) : Statement (Instr.vgetexp t a b) := ⟨rfl, fun h => absurd (show false = true from h) Bool.false_ne_true⟩
theorem vgetman (t : BitVec 4) (a : BitVec 5) (b : BitVec 5) : Statement (Instr.vgetman t a b) := ⟨rfl, fun h => absurd (show false = true from h) Bool.false_ne_true⟩
theorem vfclass (t : BitVec 4) (a : BitVec 5) (b : BitVec 5) : Statement (Instr.vfclass t a b) := ⟨rfl, fun h => absurd (show false = true from h) Bool.false_ne_true⟩
theorem vaddx (t : BitVec 4) (a : BitVec 5) (b : BitVec 5) : Statement (Instr.vaddx t a b) := ⟨rfl, fun h => absurd (show false = true from h) Bool.false_ne_true⟩
theorem vsubx (t : BitVec 4) (a : BitVec 5) (b : BitVec 5) : Statement (Instr.vsubx t a b) := ⟨rfl, fun h => absurd (show false = true from h) Bool.false_ne_true⟩
theorem vmulx (t : BitVec 4) (a : BitVec 5) (b : BitVec 5) : Statement (Instr.vmulx t a b) := ⟨rfl, fun h => absurd (show false = true from h) Bool.false_ne_true⟩
theorem vdwadd (t : BitVec 4) (a : BitVec 5) (b : BitVec 5) : Statement (Instr.vdwadd t a b) := ⟨rfl, fun h => absurd (show false = true from h) Bool.false_ne_true⟩
theorem vdwaddf (t : BitVec 4) (a : BitVec 5) (b : BitVec 5) : Statement (Instr.vdwaddf t a b) := ⟨rfl, fun h => absurd (show false = true from h) Bool.false_ne_true⟩
theorem vdwmul (t : BitVec 4) (a : BitVec 5) (b : BitVec 5) : Statement (Instr.vdwmul t a b) := ⟨rfl, fun h => absurd (show false = true from h) Bool.false_ne_true⟩
theorem vdwmulf (t : BitVec 4) (a : BitVec 5) (b : BitVec 5) : Statement (Instr.vdwmulf t a b) := ⟨rfl, fun h => absurd (show false = true from h) Bool.false_ne_true⟩
theorem vdwnorm (t : BitVec 4) (a : BitVec 5) (b : BitVec 5) : Statement (Instr.vdwnorm t a b) := ⟨rfl, fun h => absurd (show false = true from h) Bool.false_ne_true⟩
theorem vdwcvt (t : BitVec 4) (a : BitVec 5) (b : BitVec 5) : Statement (Instr.vdwcvt t a b) := ⟨rfl, fun h => absurd (show false = true from h) Bool.false_ne_true⟩
theorem vcvt (t : BitVec 4) (a : BitVec 5) (b : BitVec 5) : Statement (Instr.vcvt t a b) := ⟨rfl, fun h => absurd (show false = true from h) Bool.false_ne_true⟩
theorem vquant (t : BitVec 4) (a : BitVec 5) (b : BitVec 5) : Statement (Instr.vquant t a b) := ⟨rfl, fun h => absurd (show false = true from h) Bool.false_ne_true⟩
theorem vdequant (t : BitVec 4) (a : BitVec 5) (b : BitVec 5) : Statement (Instr.vdequant t a b) := ⟨rfl, fun h => absurd (show false = true from h) Bool.false_ne_true⟩
theorem vqscale (t : BitVec 4) (a : BitVec 5) (b : BitVec 5) : Statement (Instr.vqscale t a b) := ⟨rfl, fun h => absurd (show false = true from h) Bool.false_ne_true⟩
theorem vpack (t : BitVec 4) (a : BitVec 5) (b : BitVec 5) : Statement (Instr.vpack t a b) := ⟨rfl, fun h => absurd (show false = true from h) Bool.false_ne_true⟩
theorem vunpack (t : BitVec 4) (a : BitVec 5) (b : BitVec 5) : Statement (Instr.vunpack t a b) := ⟨rfl, fun h => absurd (show false = true from h) Bool.false_ne_true⟩
theorem vcmp (t : BitVec 4) (a : BitVec 5) (b : BitVec 5) : Statement (Instr.vcmp t a b) := ⟨rfl, fun h => absurd (show false = true from h) Bool.false_ne_true⟩
theorem vmand (t : BitVec 4) (a : BitVec 5) (b : BitVec 5) : Statement (Instr.vmand t a b) := ⟨rfl, fun h => absurd (show false = true from h) Bool.false_ne_true⟩
theorem vmor (t : BitVec 4) (a : BitVec 5) (b : BitVec 5) : Statement (Instr.vmor t a b) := ⟨rfl, fun h => absurd (show false = true from h) Bool.false_ne_true⟩
theorem vmxor (t : BitVec 4) (a : BitVec 5) (b : BitVec 5) : Statement (Instr.vmxor t a b) := ⟨rfl, fun h => absurd (show false = true from h) Bool.false_ne_true⟩
theorem vmnot (t : BitVec 4) (a : BitVec 5) (b : BitVec 5) : Statement (Instr.vmnot t a b) := ⟨rfl, fun h => absurd (show false = true from h) Bool.false_ne_true⟩
theorem vmpush (t : BitVec 4) (a : BitVec 5) (b : BitVec 5) : Statement (Instr.vmpush t a b) := ⟨rfl, fun h => absurd (show false = true from h) Bool.false_ne_true⟩
theorem vminv (t : BitVec 4) (a : BitVec 5) (b : BitVec 5) : Statement (Instr.vminv t a b) := ⟨rfl, fun h => absurd (show false = true from h) Bool.false_ne_true⟩
theorem vmpopm (t : BitVec 4) (a : BitVec 5) (b : BitVec 5) : Statement (Instr.vmpopm t a b) := ⟨rfl, fun h => absurd (show false = true from h) Bool.false_ne_true⟩
theorem vmcnt (t : BitVec 4) (a : BitVec 5) (b : BitVec 5) : Statement (Instr.vmcnt t a b) := ⟨rfl, fun h => absurd (show false = true from h) Bool.false_ne_true⟩
theorem vmov (t : BitVec 4) (a : BitVec 5) (b : BitVec 5) : Statement (Instr.vmov t a b) := ⟨rfl, fun h => absurd (show false = true from h) Bool.false_ne_true⟩
theorem vbcast (t : BitVec 4) (a : BitVec 5) (b : BitVec 5) : Statement (Instr.vbcast t a b) := ⟨rfl, fun h => absurd (show false = true from h) Bool.false_ne_true⟩
theorem vext (t : BitVec 4) (a : BitVec 5) (b : BitVec 5) : Statement (Instr.vext t a b) := ⟨rfl, fun h => absurd (show false = true from h) Bool.false_ne_true⟩
theorem vperm (t : BitVec 4) (a : BitVec 5) (b : BitVec 5) : Statement (Instr.vperm t a b) := ⟨rfl, fun h => absurd (show false = true from h) Bool.false_ne_true⟩
theorem vrot (t : BitVec 4) (a : BitVec 5) (b : BitVec 5) : Statement (Instr.vrot t a b) := ⟨rfl, fun h => absurd (show false = true from h) Bool.false_ne_true⟩
theorem vslide (t : BitVec 4) (a : BitVec 5) (b : BitVec 5) : Statement (Instr.vslide t a b) := ⟨rfl, fun h => absurd (show false = true from h) Bool.false_ne_true⟩
theorem vzip (t : BitVec 4) (a : BitVec 5) (b : BitVec 5) : Statement (Instr.vzip t a b) := ⟨rfl, fun h => absurd (show false = true from h) Bool.false_ne_true⟩
theorem vunzip (t : BitVec 4) (a : BitVec 5) (b : BitVec 5) : Statement (Instr.vunzip t a b) := ⟨rfl, fun h => absurd (show false = true from h) Bool.false_ne_true⟩
theorem vredsum (t : BitVec 4) (a : BitVec 5) (b : BitVec 5) : Statement (Instr.vredsum t a b) := ⟨rfl, fun h => absurd (show false = true from h) Bool.false_ne_true⟩
theorem vredsumx (t : BitVec 4) (a : BitVec 5) (b : BitVec 5) : Statement (Instr.vredsumx t a b) := ⟨rfl, fun h => absurd (show false = true from h) Bool.false_ne_true⟩
theorem vredmax (t : BitVec 4) (a : BitVec 5) (b : BitVec 5) : Statement (Instr.vredmax t a b) := ⟨rfl, fun h => absurd (show false = true from h) Bool.false_ne_true⟩
theorem vredmin (t : BitVec 4) (a : BitVec 5) (b : BitVec 5) : Statement (Instr.vredmin t a b) := ⟨rfl, fun h => absurd (show false = true from h) Bool.false_ne_true⟩
theorem vredand (t : BitVec 4) (a : BitVec 5) (b : BitVec 5) : Statement (Instr.vredand t a b) := ⟨rfl, fun h => absurd (show false = true from h) Bool.false_ne_true⟩
theorem vredor (t : BitVec 4) (a : BitVec 5) (b : BitVec 5) : Statement (Instr.vredor t a b) := ⟨rfl, fun h => absurd (show false = true from h) Bool.false_ne_true⟩
theorem vprefix (t : BitVec 4) (a : BitVec 5) (b : BitVec 5) : Statement (Instr.vprefix t a b) := ⟨rfl, fun h => absurd (show false = true from h) Bool.false_ne_true⟩
theorem vgather (t : BitVec 4) (a : BitVec 5) (b : BitVec 5) : Statement (Instr.vgather t a b) := ⟨rfl, fun h => absurd (show false = true from h) Bool.false_ne_true⟩
theorem vscatter (t : BitVec 4) (a : BitVec 5) (b : BitVec 5) : Statement (Instr.vscatter t a b) := ⟨rfl, fun h => absurd (show false = true from h) Bool.false_ne_true⟩
theorem vscatc (t : BitVec 4) (a : BitVec 5) (b : BitVec 5) : Statement (Instr.vscatc t a b) := ⟨rfl, fun h => absurd (show false = true from h) Bool.false_ne_true⟩
theorem visect (t : BitVec 4) (a : BitVec 5) (b : BitVec 5) : Statement (Instr.visect t a b) := ⟨rfl, fun h => absurd (show false = true from h) Bool.false_ne_true⟩
theorem vcompress (t : BitVec 4) (a : BitVec 5) (b : BitVec 5) : Statement (Instr.vcompress t a b) := ⟨rfl, fun h => absurd (show false = true from h) Bool.false_ne_true⟩
theorem vexpand (t : BitVec 4) (a : BitVec 5) (b : BitVec 5) : Statement (Instr.vexpand t a b) := ⟨rfl, fun h => absurd (show false = true from h) Bool.false_ne_true⟩
theorem vrsqe (t : BitVec 4) (a : BitVec 5) (b : BitVec 5) : Statement (Instr.vrsqe t a b) := ⟨rfl, fun h => absurd (show false = true from h) Bool.false_ne_true⟩
theorem vrcpe (t : BitVec 4) (a : BitVec 5) (b : BitVec 5) : Statement (Instr.vrcpe t a b) := ⟨rfl, fun h => absurd (show false = true from h) Bool.false_ne_true⟩
theorem vexp2 (t : BitVec 4) (a : BitVec 5) (b : BitVec 5) : Statement (Instr.vexp2 t a b) := ⟨rfl, fun h => absurd (show false = true from h) Bool.false_ne_true⟩
theorem vlog2 (t : BitVec 4) (a : BitVec 5) (b : BitVec 5) : Statement (Instr.vlog2 t a b) := ⟨rfl, fun h => absurd (show false = true from h) Bool.false_ne_true⟩
theorem vamax (t : BitVec 4) (a : BitVec 5) (b : BitVec 5) : Statement (Instr.vamax t a b) := ⟨rfl, fun h => absurd (show false = true from h) Bool.false_ne_true⟩
theorem vhist (t : BitVec 4) (a : BitVec 5) (b : BitVec 5) : Statement (Instr.vhist t a b) := ⟨rfl, fun h => absurd (show false = true from h) Bool.false_ne_true⟩
theorem vstatrd (t : BitVec 4) (a : BitVec 5) (b : BitVec 5) : Statement (Instr.vstatrd t a b) := ⟨rfl, fun h => absurd (show false = true from h) Bool.false_ne_true⟩
theorem vstatclr (t : BitVec 4) (a : BitVec 5) (b : BitVec 5) : Statement (Instr.vstatclr t a b) := ⟨rfl, fun h => absurd (show false = true from h) Bool.false_ne_true⟩
theorem vrand (t : BitVec 4) (a : BitVec 5) (b : BitVec 5) : Statement (Instr.vrand t a b) := ⟨rfl, fun h => absurd (show false = true from h) Bool.false_ne_true⟩
theorem vseed (t : BitVec 4) (a : BitVec 5) (b : BitVec 5) : Statement (Instr.vseed t a b) := ⟨rfl, fun h => absurd (show false = true from h) Bool.false_ne_true⟩
theorem vfence (t : BitVec 4) : Statement (Instr.vfence t) := ⟨rfl, fun h => absurd (show false = true from h) Bool.false_ne_true⟩
theorem vwait (t : BitVec 4) : Statement (Instr.vwait t) := ⟨rfl, fun h => absurd (show false = true from h) Bool.false_ne_true⟩
theorem vbusy (t : BitVec 4) (d : BitVec 5) : Statement (Instr.vbusy t d) := ⟨rfl, fun h => absurd (show false = true from h) Bool.false_ne_true⟩
theorem vdone (t : BitVec 4) (d : BitVec 5) : Statement (Instr.vdone t d) := ⟨rfl, fun h => absurd (show false = true from h) Bool.false_ne_true⟩
theorem vrb (t : BitVec 4) (d : BitVec 5) : Statement (Instr.vrb t d) := ⟨rfl, fun h => absurd (show false = true from h) Bool.false_ne_true⟩
theorem vstat (t : BitVec 4) (d : BitVec 5) (a : BitVec 5) : Statement (Instr.vstat t d a) := ⟨rfl, fun h => absurd (show false = true from h) Bool.false_ne_true⟩
theorem remq (t : BitVec 4) (d : BitVec 5) (a : BitVec 5) (b : BitVec 5) : Statement (Instr.remq t d a b) := ⟨rfl, fun h => absurd (show false = true from h) Bool.false_ne_true⟩
theorem remqt (t : BitVec 4) (d : BitVec 5) (a : BitVec 5) (b : BitVec 5) : Statement (Instr.remqt t d a b) := ⟨rfl, fun h => absurd (show false = true from h) Bool.false_ne_true⟩
theorem grow (t : BitVec 4) (d : BitVec 5) (a : BitVec 5) : Statement (Instr.grow t d a) := ⟨rfl, fun h => absurd (show false = true from h) Bool.false_ne_true⟩
theorem barArrive (t : BitVec 4) (d : BitVec 5) (a : BitVec 5) (l : BitVec 3) : Statement (Instr.barArrive t d a l) := ⟨rfl, fun h => absurd (show false = true from h) Bool.false_ne_true⟩
theorem barWait (t : BitVec 4) (d : BitVec 5) (a : BitVec 5) (l : BitVec 3) : Statement (Instr.barWait t d a l) := ⟨rfl, fun h => absurd (show false = true from h) Bool.false_ne_true⟩
theorem barSync (t : BitVec 4) (d : BitVec 5) (a : BitVec 5) (l : BitVec 3) : Statement (Instr.barSync t d a l) := ⟨rfl, fun h => absurd (show false = true from h) Bool.false_ne_true⟩
theorem barPhase (t : BitVec 4) (d : BitVec 5) (a : BitVec 5) (l : BitVec 3) : Statement (Instr.barPhase t d a l) := ⟨rfl, fun h => absurd (show false = true from h) Bool.false_ne_true⟩
theorem qppost (t : BitVec 4) (a : BitVec 5) (b : BitVec 5) : Statement (Instr.qppost t a b) := ⟨rfl, fun h => absurd (show false = true from h) Bool.false_ne_true⟩
theorem ctrrd (t : BitVec 4) (d : BitVec 5) (a : BitVec 5) : Statement (Instr.ctrrd t d a) := ⟨rfl, fun h => absurd (show false = true from h) Bool.false_ne_true⟩
theorem ctrrdSig (t : BitVec 4) (d : BitVec 5) (a : BitVec 5) : Statement (Instr.ctrrdSig t d a) := ⟨rfl, fun h => absurd (show false = true from h) Bool.false_ne_true⟩
theorem ctradd (t : BitVec 4) (d : BitVec 5) (a : BitVec 5) (b : BitVec 5) : Statement (Instr.ctradd t d a b) := ⟨rfl, fun h => absurd (show false = true from h) Bool.false_ne_true⟩
theorem ctraddClr (t : BitVec 4) (d : BitVec 5) (a : BitVec 5) : Statement (Instr.ctraddClr t d a) := ⟨rfl, fun h => absurd (show false = true from h) Bool.false_ne_true⟩
theorem ctrwait (t : BitVec 4) (d : BitVec 5) (a : BitVec 5) (b : BitVec 5) : Statement (Instr.ctrwait t d a b) := ⟨rfl, fun h => absurd (show false = true from h) Bool.false_ne_true⟩
theorem dpost (t : BitVec 4) (a : BitVec 5) : Statement (Instr.dpost t a) := ⟨rfl, fun h => absurd (show false = true from h) Bool.false_ne_true⟩
theorem dgrant (t : BitVec 4) (d : BitVec 5) (a : BitVec 5) : Statement (Instr.dgrant t d a) := ⟨rfl, fun h => absurd (show false = true from h) Bool.false_ne_true⟩
theorem xstat (t : BitVec 4) (d : BitVec 5) (a : BitVec 5) : Statement (Instr.xstat t d a) := ⟨rfl, fun h => absurd (show false = true from h) Bool.false_ne_true⟩
theorem rlstart (t : BitVec 4) (a : BitVec 5) : Statement (Instr.rlstart t a) := ⟨rfl, fun h => absurd (show false = true from h) Bool.false_ne_true⟩
theorem rlstep (t : BitVec 4) : Statement (Instr.rlstep t) := ⟨rfl, fun h => absurd (show false = true from h) Bool.false_ne_true⟩
theorem rlstat (t : BitVec 4) (d : BitVec 5) : Statement (Instr.rlstat t d) := ⟨rfl, fun h => absurd (show false = true from h) Bool.false_ne_true⟩
theorem rlesc (t : BitVec 4) (d : BitVec 5) : Statement (Instr.rlesc t d) := ⟨rfl, fun h => absurd (show false = true from h) Bool.false_ne_true⟩
theorem rlabort (t : BitVec 4) : Statement (Instr.rlabort t) := ⟨rfl, fun h => absurd (show false = true from h) Bool.false_ne_true⟩
theorem leaseAcq (t : BitVec 4) : Statement (Instr.leaseAcq t) := ⟨rfl, fun h => absurd (show false = true from h) Bool.false_ne_true⟩
theorem leaseRel (t : BitVec 4) : Statement (Instr.leaseRel t) := ⟨rfl, fun h => absurd (show false = true from h) Bool.false_ne_true⟩
theorem leaseStat (t : BitVec 4) (d : BitVec 5) : Statement (Instr.leaseStat t d) := ⟨rfl, fun h => absurd (show false = true from h) Bool.false_ne_true⟩
theorem nop (t : BitVec 4) : Statement (Instr.nop t) := ⟨rfl, fun h => absurd (show false = true from h) Bool.false_ne_true⟩
theorem endInsn (t : BitVec 4) : Statement (Instr.endInsn t) := ⟨rfl, fun h => absurd (show false = true from h) Bool.false_ne_true⟩
theorem resume (t : BitVec 4) : Statement (Instr.resume t) := ⟨rfl, fun h => absurd (show false = true from h) Bool.false_ne_true⟩
theorem yield (t : BitVec 4) : Statement (Instr.yield t) := ⟨rfl, fun h => absurd (show false = true from h) Bool.false_ne_true⟩
theorem cycle (t : BitVec 4) (d : BitVec 5) : Statement (Instr.cycle t d) := ⟨rfl, fun h => absurd (show false = true from h) Bool.false_ne_true⟩
theorem bbox (t : BitVec 4) (d : BitVec 5) : Statement (Instr.bbox t d) := ⟨rfl, fun h => absurd (show false = true from h) Bool.false_ne_true⟩
theorem trap (t : BitVec 4) (i : BitVec 9) : Statement (Instr.trap t i) := ⟨rfl, fun h => absurd (show false = true from h) Bool.false_ne_true⟩
theorem breakInsn (t : BitVec 4) (i : BitVec 9) : Statement (Instr.breakInsn t i) := ⟨rfl, fun h => absurd (show false = true from h) Bool.false_ne_true⟩
theorem rdsys (t : BitVec 4) (d : BitVec 5) (x : BitVec 9) : Statement (Instr.rdsys t d x) := ⟨rfl, fun h => absurd (show false = true from h) Bool.false_ne_true⟩
theorem wrsys (t : BitVec 4) (a : BitVec 5) (x : BitVec 9) : Statement (Instr.wrsys t a x) := ⟨rfl, fun h => absurd (show false = true from h) Bool.false_ne_true⟩
theorem pand (t : BitVec 4) (d : BitVec 5) (a : BitVec 5) (b : BitVec 5) : Statement (Instr.pand t d a b) := ⟨rfl, fun h => absurd (show false = true from h) Bool.false_ne_true⟩
theorem por (t : BitVec 4) (d : BitVec 5) (a : BitVec 5) (b : BitVec 5) : Statement (Instr.por t d a b) := ⟨rfl, fun h => absurd (show false = true from h) Bool.false_ne_true⟩
theorem pxor (t : BitVec 4) (d : BitVec 5) (a : BitVec 5) (b : BitVec 5) : Statement (Instr.pxor t d a b) := ⟨rfl, fun h => absurd (show false = true from h) Bool.false_ne_true⟩
theorem pnot (t : BitVec 4) (d : BitVec 5) (a : BitVec 5) : Statement (Instr.pnot t d a) := ⟨rfl, fun h => absurd (show false = true from h) Bool.false_ne_true⟩
theorem pmov (t : BitVec 4) (d : BitVec 5) (a : BitVec 5) : Statement (Instr.pmov t d a) := ⟨rfl, fun h => absurd (show false = true from h) Bool.false_ne_true⟩
theorem csel (t : BitVec 4) (d : BitVec 5) (a : BitVec 5) (b : BitVec 5) (p : BitVec 3) : Statement (Instr.csel t d a b p) := ⟨rfl, fun h => absurd (show false = true from h) Bool.false_ne_true⟩
theorem packetAccept : Statement Instr.packetAccept := ⟨rfl, fun _ => rfl⟩
theorem launch : Statement Instr.launch := ⟨rfl, fun _ => rfl⟩
theorem regionCreate : Statement Instr.regionCreate := ⟨rfl, fun _ => rfl⟩
theorem regionModify : Statement Instr.regionModify := ⟨rfl, fun _ => rfl⟩
theorem regionDestroy : Statement Instr.regionDestroy := ⟨rfl, fun _ => rfl⟩
theorem copyhHostToDevice : Statement Instr.copyhHostToDevice := ⟨rfl, fun _ => rfl⟩
theorem copyhDeviceToHost : Statement Instr.copyhDeviceToHost := ⟨rfl, fun _ => rfl⟩
theorem signalSet : Statement Instr.signalSet := ⟨rfl, fun _ => rfl⟩
theorem signalAdd : Statement Instr.signalAdd := ⟨rfl, fun _ => rfl⟩
theorem signalOr : Statement Instr.signalOr := ⟨rfl, fun _ => rfl⟩
theorem waitsig : Statement Instr.waitsig := ⟨rfl, fun _ => rfl⟩
theorem waitsigTimeout : Statement Instr.waitsigTimeout := ⟨rfl, fun _ => rfl⟩
theorem detlevel : Statement Instr.detlevel := ⟨rfl, fun _ => rfl⟩
theorem fencePacket : Statement Instr.fencePacket := ⟨rfl, fun _ => rfl⟩
theorem readback : Statement Instr.readback := ⟨rfl, fun _ => rfl⟩
theorem writeback : Statement Instr.writeback := ⟨rfl, fun _ => rfl⟩
theorem xlroot : Statement Instr.xlroot := ⟨rfl, fun _ => rfl⟩
theorem xlinv : Statement Instr.xlinv := ⟨rfl, fun _ => rfl⟩
theorem downSet : Statement Instr.downSet := ⟨rfl, fun _ => rfl⟩
theorem downClear : Statement Instr.downClear := ⟨rfl, fun _ => rfl⟩
theorem linkDrainEnd : Statement Instr.linkDrainEnd := ⟨rfl, fun _ => rfl⟩
theorem bboxread : Statement Instr.bboxread := ⟨rfl, fun _ => rfl⟩
theorem resetStream : Statement Instr.resetStream := ⟨rfl, fun _ => rfl⟩
theorem resetDie : Statement Instr.resetDie := ⟨rfl, fun _ => rfl⟩
theorem resetPackage : Statement Instr.resetPackage := ⟨rfl, fun _ => rfl⟩
theorem completionRecordAck : Statement Instr.completionRecordAck := ⟨rfl, fun _ => rfl⟩
theorem recordResendTimeout : Statement Instr.recordResendTimeout := ⟨rfl, fun _ => rfl⟩
theorem laneLock : Statement Instr.laneLock := ⟨rfl, fun _ => rfl⟩
theorem lockWindowEnd : Statement Instr.lockWindowEnd := ⟨rfl, fun _ => rfl⟩
theorem alignComplete : Statement Instr.alignComplete := ⟨rfl, fun _ => rfl⟩
theorem capabilityWord : Statement Instr.capabilityWord := ⟨rfl, fun _ => rfl⟩
theorem confirmTestFrames : Statement Instr.confirmTestFrames := ⟨rfl, fun _ => rfl⟩
theorem trainingStageTimeout : Statement Instr.trainingStageTimeout := ⟨rfl, fun _ => rfl⟩
theorem retrainHoldoffExpiry : Statement Instr.retrainHoldoffExpiry := ⟨rfl, fun _ => rfl⟩
theorem lossOfLock : Statement Instr.lossOfLock := ⟨rfl, fun _ => rfl⟩
theorem flitCrcFailure : Statement Instr.flitCrcFailure := ⟨rfl, fun _ => rfl⟩
theorem errorWindowEnd : Statement Instr.errorWindowEnd := ⟨rfl, fun _ => rfl⟩
theorem retrainComplete : Statement Instr.retrainComplete := ⟨rfl, fun _ => rfl⟩
theorem meshRequest : Statement Instr.meshRequest := ⟨rfl, fun _ => rfl⟩
theorem meshResponse : Statement Instr.meshResponse := ⟨rfl, fun _ => rfl⟩
theorem resendTimeout : Statement Instr.resendTimeout := ⟨rfl, fun _ => rfl⟩
theorem holdMessageTimer : Statement Instr.holdMessageTimer := ⟨rfl, fun _ => rfl⟩
theorem holdMessage : Statement Instr.holdMessage := ⟨rfl, fun _ => rfl⟩
theorem resyncMessage : Statement Instr.resyncMessage := ⟨rfl, fun _ => rfl⟩
theorem powerOn : Statement Instr.powerOn := ⟨rfl, fun _ => rfl⟩
theorem powerLimitExceeded : Statement Instr.powerLimitExceeded := ⟨rfl, fun _ => rfl⟩
theorem powerEmergency : Statement Instr.powerEmergency := ⟨rfl, fun _ => rfl⟩
theorem standbyPowerLoss : Statement Instr.standbyPowerLoss := ⟨rfl, fun _ => rfl⟩
theorem dispatchDecision : Statement Instr.dispatchDecision := ⟨rfl, fun _ => rfl⟩
theorem bind : Statement Instr.bind := ⟨rfl, fun _ => rfl⟩
theorem preEmption : Statement Instr.preEmption := ⟨rfl, fun _ => rfl⟩
theorem contextSave : Statement Instr.contextSave := ⟨rfl, fun _ => rfl⟩
theorem restore : Statement Instr.restore := ⟨rfl, fun _ => rfl⟩
theorem groupEnd : Statement Instr.groupEnd := ⟨rfl, fun _ => rfl⟩
theorem budgetUpdate : Statement Instr.budgetUpdate := ⟨rfl, fun _ => rfl⟩
theorem agingTick : Statement Instr.agingTick := ⟨rfl, fun _ => rfl⟩
theorem cellLeavesService : Statement Instr.cellLeavesService := ⟨rfl, fun _ => rfl⟩
theorem growWindowClose : Statement Instr.growWindowClose := ⟨rfl, fun _ => rfl⟩
theorem leaseGrant : Statement Instr.leaseGrant := ⟨rfl, fun _ => rfl⟩
theorem leaseIdleTimeout : Statement Instr.leaseIdleTimeout := ⟨rfl, fun _ => rfl⟩
theorem remoteQueueIssue : Statement Instr.remoteQueueIssue := ⟨rfl, fun _ => rfl⟩
theorem checkSlotRelease : Statement Instr.checkSlotRelease := ⟨rfl, fun _ => rfl⟩
theorem residueFailure : Statement Instr.residueFailure := ⟨rfl, fun _ => rfl⟩
theorem mma : Statement Instr.mma := ⟨rfl, fun _ => rfl⟩
theorem mmaz : Statement Instr.mmaz := ⟨rfl, fun _ => rfl⟩
theorem mmabsr : Statement Instr.mmabsr := ⟨rfl, fun _ => rfl⟩
theorem mmaseed : Statement Instr.mmaseed := ⟨rfl, fun _ => rfl⟩
theorem mhad : Statement Instr.mhad := ⟨rfl, fun _ => rfl⟩
theorem mdrain : Statement Instr.mdrain := ⟨rfl, fun _ => rfl⟩
theorem mraster : Statement Instr.mraster := ⟨rfl, fun _ => rfl⟩
theorem mzero : Statement Instr.mzero := ⟨rfl, fun _ => rfl⟩
theorem mload : Statement Instr.mload := ⟨rfl, fun _ => rfl⟩
theorem commandCompare : Statement Instr.commandCompare := ⟨rfl, fun _ => rfl⟩
theorem arbitrationDone : Statement Instr.arbitrationDone := ⟨rfl, fun _ => rfl⟩
theorem rerunDone : Statement Instr.rerunDone := ⟨rfl, fun _ => rfl⟩
theorem drainUnitCompare : Statement Instr.drainUnitCompare := ⟨rfl, fun _ => rfl⟩
theorem vectorCommandStart : Statement Instr.vectorCommandStart := ⟨rfl, fun _ => rfl⟩
theorem vectorCommandComplete : Statement Instr.vectorCommandComplete := ⟨rfl, fun _ => rfl⟩
theorem tensorAccessComplete : Statement Instr.tensorAccessComplete := ⟨rfl, fun _ => rfl⟩
theorem tfillComplete : Statement Instr.tfillComplete := ⟨rfl, fun _ => rfl⟩
theorem cpysigDestinationCheck : Statement Instr.cpysigDestinationCheck := ⟨rfl, fun _ => rfl⟩
theorem copyBoundaryStop : Statement Instr.copyBoundaryStop := ⟨rfl, fun _ => rfl⟩
theorem copyComplete : Statement Instr.copyComplete := ⟨rfl, fun _ => rfl⟩
theorem entryArm : Statement Instr.entryArm := ⟨rfl, fun _ => rfl⟩
theorem entryWrite : Statement Instr.entryWrite := ⟨rfl, fun _ => rfl⟩
theorem entryWriteReduce : Statement Instr.entryWriteReduce := ⟨rfl, fun _ => rfl⟩
theorem entrySignal : Statement Instr.entrySignal := ⟨rfl, fun _ => rfl⟩
theorem entryComplete : Statement Instr.entryComplete := ⟨rfl, fun _ => rfl⟩
theorem counterIncrement : Statement Instr.counterIncrement := ⟨rfl, fun _ => rfl⟩
theorem oneSidedWrite : Statement Instr.oneSidedWrite := ⟨rfl, fun _ => rfl⟩
theorem reducingWriteArrival : Statement Instr.reducingWriteArrival := ⟨rfl, fun _ => rfl⟩
theorem fabricChunk : Statement Instr.fabricChunk := ⟨rfl, fun _ => rfl⟩
theorem fabricChunkTimeout : Statement Instr.fabricChunkTimeout := ⟨rfl, fun _ => rfl⟩
theorem lossNotice : Statement Instr.lossNotice := ⟨rfl, fun _ => rfl⟩
theorem postArrival : Statement Instr.postArrival := ⟨rfl, fun _ => rfl⟩
theorem calendarRow : Statement Instr.calendarRow := ⟨rfl, fun _ => rfl⟩
theorem phaseOpen : Statement Instr.phaseOpen := ⟨rfl, fun _ => rfl⟩
theorem grantAck : Statement Instr.grantAck := ⟨rfl, fun _ => rfl⟩
theorem exchangeCompletionNotice : Statement Instr.exchangeCompletionNotice := ⟨rfl, fun _ => rfl⟩
theorem heartbeatSend : Statement Instr.heartbeatSend := ⟨rfl, fun _ => rfl⟩
theorem heartbeatTimeout : Statement Instr.heartbeatTimeout := ⟨rfl, fun _ => rfl⟩
theorem takeoverNotice : Statement Instr.takeoverNotice := ⟨rfl, fun _ => rfl⟩
theorem systemArrivalNotice : Statement Instr.systemArrivalNotice := ⟨rfl, fun _ => rfl⟩
theorem trapEntry : Statement Instr.trapEntry := ⟨rfl, fun _ => rfl⟩
theorem waitBoundExpiry : Statement Instr.waitBoundExpiry := ⟨rfl, fun _ => rfl⟩
theorem cycleBoundExpiry : Statement Instr.cycleBoundExpiry := ⟨rfl, fun _ => rfl⟩
theorem hashTreeTimer : Statement Instr.hashTreeTimer := ⟨rfl, fun _ => rfl⟩
theorem hashTreeUpdate : Statement Instr.hashTreeUpdate := ⟨rfl, fun _ => rfl⟩
theorem replicaUpdate : Statement Instr.replicaUpdate := ⟨rfl, fun _ => rfl⟩
theorem timestampLeaseRecall : Statement Instr.timestampLeaseRecall := ⟨rfl, fun _ => rfl⟩
theorem undefinedEncoding : Statement Instr.undefinedEncoding := ⟨rfl, fun _ => rfl⟩
theorem powerBelowLimit : Statement Instr.powerBelowLimit := ⟨rfl, fun _ => rfl⟩
theorem copyhComplete : Statement Instr.copyhComplete := ⟨rfl, fun _ => rfl⟩
theorem dieResetComplete : Statement Instr.dieResetComplete := ⟨rfl, fun _ => rfl⟩
theorem arbiterLost : Statement Instr.arbiterLost := ⟨rfl, fun _ => rfl⟩

end Sys2Proof.Laws.Encoding
end

