-- ==== Sys2Proof/Tests/Slice0.lean ====
section
/-! SUPPORT. The model's own tests: what WellFormed refuses, the words of every encoded instruction, and for each statement a state and operands that
meet its hypotheses. -/

namespace Sys2Proof.Tests
open Sys2Proof Sys2Proof.Machine

/-! ### Well-formed instructions (R270, R273, R275 row 1): one ill-formed term for each check -/

theorem test_wf_pred : Instr.wf (.pred 0 1 0 2) = false := by decide
theorem test_wf_call : Instr.wf (.call 0 0 5) = false := by decide
theorem test_wf_ldo : Instr.wf (.ldo 0 1 2 3 1 0 0) = false := by decide
theorem test_wf_ldx : Instr.wf (.ldx 0 1 2 3 1 0) = false := by decide
theorem test_wf_lds : Instr.wf (.lds 0 1 2 3 1 0) = false := by decide
theorem test_wf_ldacq : Instr.wf (.ldacq 0 1 2 3 1 0 0) = false := by decide
theorem test_wf_tld : Instr.wf (.tld 0 1 2 0 0) = false := by decide
theorem test_wf_tst : Instr.wf (.tst 0 1 2 0 0) = false := by decide
theorem test_wf_patchr : Instr.wf (.patchr 0 1 2 15) = false := by decide
theorem test_wf_patch : Instr.wf (.patch 0 1 15 2) = false := by decide
theorem test_wf_bar_level : Instr.wf (.barArrive 0 1 0 5) = false ∧ Instr.wf (.barWait 0 1 0 5) = false := by decide
theorem test_wf_bar_field : Instr.wf (.barSync 0 1 2 3) = false ∧ Instr.wf (.barPhase 0 1 2 3) = false := by decide
theorem test_wf_site : Site.wf { die := 20 } = false ∧ Site.wf { cell := 56 } = false ∧ Site.wf { quad := 14 } = false ∧ Site.wf { stream := 16 } = false ∧
    Site.wf { port := 33 } = false ∧ Site.wf { lane := 8 } = false ∧ Site.wf { edge := 40 } = false ∧ Site.wf { mod := 8 } = false ∧ Site.wf { src := 20 } = false ∧
    Site.wf { dst := 20 } = false ∧ Site.wf { eng := 16 } = false ∧ Site.wf { rim := 4 } = false ∧ Site.wf {} = true := by decide

/-! ### Words, bit by bit from the tables of R269 to R287: T 31:28, major 27:22, and the fields of each format -/

/-- Each word decodes to the instruction beside it, and encodes it. -/
def readsAs (l : List (BitVec 32 × Instr)) : Bool :=
  l.all (fun p => (match decodeWord p.1 with | .ok i => decide (i = p.2) | .error _ => false) && encode p.2 == some p.1)

/-- Each word is refused under the name beside it. -/
def refusedAs (l : List (BitVec 32 × Reject)) : Bool :=
  l.all (fun p => match decodeWord p.1 with | .ok _ => false | .error r => decide (r = p.2))

theorem test_decode_alu : readsAs [
    (0x5009F300, .add 5 4 31 6), (0x5009F301, .sub 5 4 31 6), (0x5009F302, .and 5 4 31 6),
    (0x5009F303, .or 5 4 31 6), (0x5009F304, .xor 5 4 31 6), (0x5009F305, .andn 5 4 31 6),
    (0x5009F306, .sll 5 4 31 6), (0x5009F307, .srl 5 4 31 6), (0x5009F308, .sra 5 4 31 6),
    (0x5009F309, .rol 5 4 31 6), (0x5009F30A, .mul 5 4 31 6), (0x5009F30B, .mulh 5 4 31 6),
    (0x5009F30C, .mulhz 5 4 31 6), (0x5009F30D, .div 5 4 31 6), (0x5009F30E, .divz 5 4 31 6),
    (0x5009F30F, .rem 5 4 31 6), (0x5009F310, .remz 5 4 31 6), (0x5009F311, .min 5 4 31 6),
    (0x5009F312, .max 5 4 31 6), (0x5009F313, .minz 5 4 31 6), (0x5009F314, .maxz 5 4 31 6),
    (0x5009F015, .clz 5 4 31), (0x5009F016, .ctz 5 4 31), (0x5009F017, .popc 5 4 31),
    (0x5009F018, .bswap 5 4 31), (0x5009F319, .mix 5 4 31 6), (0x5009F31A, .bfx 5 4 31 6),
    (0x5009F31B, .bfi 5 4 31 6)] = true := by decide

theorem test_decode_immediates : readsAs [
    (0x5049FFFD, .addi 5 4 31 0xFFD), (0x5089FFFD, .andi 5 4 31 0xFFD), (0x50C9FFFD, .ori 5 4 31 0xFFD),
    (0x5109FFFD, .xori 5 4 31 0xFFD), (0x5149F03F, .slli 5 4 31 63), (0x5149F07F, .srli 5 4 31 63),
    (0x5149F0BF, .srai 5 4 31 63), (0x5149F0FF, .roli 5 4 31 63), (0x523FFFFF, .li 5 31 0x1FFFF),
    (0x52490001, .lis 5 4 0x10001), (0x52880ABC, .ldc 5 4 0xABC)] = true := by decide

theorem test_decode_compares : readsAs [
    (0x518E5305, .pcmp 5 7 5 6 5), (0x51F32FFF, .pcmpi 5 6 3 5 0x7FF), (0x5A4E5300, .pand 5 7 5 6),
    (0x5A4E5301, .por 5 7 5 6), (0x5A4E5302, .pxor 5 7 5 6), (0x5A4E5003, .pnot 5 7 5),
    (0x5A4E5004, .pmov 5 7 5), (0x5A885307, .csel 5 4 5 6 7)] = true := by decide

theorem test_decode_control : readsAs [
    (0x52EB0B00, .pred 5 5 3 0x0B), (0x530FFFFE, .bt 5 7 0x1FFFE), (0x53460009, .bf 5 3 9),
    (0x5381FFFE, .jmp 5 0x1FFFE), (0x53AE0009, .call 5 23 9), (0x53EC5801, .jr 5 22 5 0x801),
    (0x54065801, .loop 5 3 5 0x801), (0x54440009, .bloop 5 2 9), (0x5465FFFE, .bloopRot 5 2 0x1FFFE)] = true := by decide

theorem test_decode_queues : readsAs [
    (0x5489E000, .qlen 5 4 30), (0x5489E001, .qpeek 5 4 30), (0x54887002, .tokcnt 5 4 7),
    (0x54887003, .tokadd 5 4 7), (0x54887004, .tokwait 5 4 7)] = true := by decide

theorem test_decode_memory : readsAs [
    (0x54C85BD5, .ldo 5 4 5 2 1 3 0x55), (0x55085CFF, .sto 5 4 5 3 1 0x7F), (0x554857FF, .ldx 5 4 5 1 1 0x1FF),
    (0x55885D55, .stx 5 4 5 3 0x155), (0x55C853FF, .lds 5 4 5 0 1 0x1FF), (0x56085955, .sts 5 4 5 2 0x155),
    (0x5648503C, .tld 5 4 5 7 2), (0x5648504A, .tst 5 4 5 1 1), (0x56885300, .atomSwap 5 4 5 6 0 0),
    (0x56885319, .atomAdd 5 4 5 6 1 1), (0x56885322, .atomAnd 5 4 5 6 0 2), (0x5688533B, .atomOr 5 4 5 6 1 3),
    (0x56885340, .atomXor 5 4 5 6 0 0), (0x56885359, .atomMax 5 4 5 6 1 1), (0x56885362, .atomMaxz 5 4 5 6 0 2),
    (0x5688537B, .atomCas 5 4 5 6 1 3), (0x56C00003, .fenceSc 5 3), (0x56C00006, .fenceAcq 5 2),
    (0x56C00009, .fenceRel 5 1), (0x57085BAA, .ldacq 5 4 5 2 1 3 0x2A), (0x57085CFF, .strel 5 4 5 3 1 0x3F)] = true := by decide

theorem test_decode_tags : readsAs [
    (0x57485000, .waitany 5 4 5), (0x57485001, .waitall 5 4 5), (0x57485002, .ffr 5 4 5),
    (0x57405003, .tagclr 5 5), (0x57485004, .tagrd 5 4 5), (0x57405305, .tagst 5 5 6),
    (0x57405306, .tagstArm 5 5 6), (0x57885000, .tlook 5 4 5), (0x57805301, .tfill 5 5 6),
    (0x57885332, .trd 5 4 5 6 1 2), (0x57805003, .tinv 5 5), (0x57885004, .tstat 5 4 5)] = true := by decide

theorem test_decode_templates : readsAs [
    (0x57C05A74, .patchr 5 5 41 13), (0x5E9D8001, .patch 5 41 13 0x8001), (0x5E9F003F, .go 5 41 63)] = true := by decide

theorem test_decode_vop_integer : readsAs [
    (0x58005F00, .vadd 5 5 30), (0x58005F01, .vsub 5 5 30), (0x58005F02, .vmul 5 5 30),
    (0x58005F03, .vmulh 5 5 30), (0x58005F04, .vand 5 5 30), (0x58005F05, .vor 5 5 30),
    (0x58005F06, .vxor 5 5 30), (0x58005F07, .vandn 5 5 30), (0x58005F08, .vsll 5 5 30),
    (0x58005F09, .vsrl 5 5 30), (0x58005F0A, .vsra 5 5 30), (0x58005F0B, .vmin 5 5 30),
    (0x58005F0C, .vmax 5 5 30), (0x58005F0D, .vminz 5 5 30), (0x58005F0E, .vmaxz 5 5 30),
    (0x58005F0F, .vabs 5 5 30), (0x58005F10, .vneg 5 5 30), (0x58005F11, .vpopc 5 5 30),
    (0x58005F12, .vclz 5 5 30), (0x58005F13, .vsel 5 5 30)] = true := by decide

theorem test_decode_vop_float : readsAs [
    (0x58025F00, .vfadd 5 5 30), (0x58025F01, .vfsub 5 5 30), (0x58025F02, .vfmul 5 5 30),
    (0x58025F03, .vfma 5 5 30), (0x58025F04, .vfms 5 5 30), (0x58025F05, .vfnma 5 5 30),
    (0x58025F06, .vfdiv 5 5 30), (0x58025F07, .vfsqrt 5 5 30), (0x58025F08, .vfmin 5 5 30),
    (0x58025F09, .vfmax 5 5 30), (0x58025F0A, .vfabs 5 5 30), (0x58025F0B, .vfneg 5 5 30),
    (0x58025F0C, .vfcpsgn 5 5 30), (0x58025F0D, .vscaleb 5 5 30), (0x58025F0E, .vgetexp 5 5 30),
    (0x58025F0F, .vgetman 5 5 30), (0x58025F10, .vfclass 5 5 30), (0x58045F00, .vaddx 5 5 30),
    (0x58045F01, .vsubx 5 5 30), (0x58045F02, .vmulx 5 5 30), (0x58065F00, .vdwadd 5 5 30),
    (0x58065F01, .vdwaddf 5 5 30), (0x58065F02, .vdwmul 5 5 30), (0x58065F03, .vdwmulf 5 5 30),
    (0x58065F04, .vdwnorm 5 5 30), (0x58065F05, .vdwcvt 5 5 30)] = true := by decide

theorem test_decode_vop_other : readsAs [
    (0x58085F00, .vcvt 5 5 30), (0x58085F01, .vquant 5 5 30), (0x58085F02, .vdequant 5 5 30),
    (0x58085F03, .vqscale 5 5 30), (0x58085F04, .vpack 5 5 30), (0x58085F05, .vunpack 5 5 30),
    (0x580A5F00, .vcmp 5 5 30), (0x580A5F01, .vmand 5 5 30), (0x580A5F02, .vmor 5 5 30),
    (0x580A5F03, .vmxor 5 5 30), (0x580A5F04, .vmnot 5 5 30), (0x580A5F05, .vmpush 5 5 30),
    (0x580A5F06, .vminv 5 5 30), (0x580A5F07, .vmpopm 5 5 30), (0x580A5F08, .vmcnt 5 5 30),
    (0x580C5F00, .vmov 5 5 30), (0x580C5F01, .vbcast 5 5 30), (0x580C5F02, .vext 5 5 30),
    (0x580C5F03, .vperm 5 5 30), (0x580C5F04, .vrot 5 5 30), (0x580C5F05, .vslide 5 5 30),
    (0x580C5F06, .vzip 5 5 30), (0x580C5F07, .vunzip 5 5 30), (0x580E5F00, .vredsum 5 5 30),
    (0x580E5F01, .vredsumx 5 5 30), (0x580E5F02, .vredmax 5 5 30), (0x580E5F03, .vredmin 5 5 30),
    (0x580E5F04, .vredand 5 5 30), (0x580E5F05, .vredor 5 5 30), (0x580E5F06, .vprefix 5 5 30),
    (0x58105F00, .vgather 5 5 30), (0x58105F01, .vscatter 5 5 30), (0x58105F02, .vscatc 5 5 30),
    (0x58105F03, .visect 5 5 30), (0x58105F04, .vcompress 5 5 30), (0x58105F05, .vexpand 5 5 30),
    (0x58125F00, .vrsqe 5 5 30), (0x58125F01, .vrcpe 5 5 30), (0x58125F02, .vexp2 5 5 30),
    (0x58125F03, .vlog2 5 5 30), (0x58145F00, .vamax 5 5 30), (0x58145F01, .vhist 5 5 30),
    (0x58145F02, .vstatrd 5 5 30), (0x58145F03, .vstatclr 5 5 30), (0x58165F00, .vrand 5 5 30),
    (0x58165F01, .vseed 5 5 30)] = true := by decide

theorem test_decode_vctl : readsAs [
    (0x58400000, .vfence 5), (0x58400001, .vwait 5), (0x58480002, .vbusy 5 4),
    (0x58480003, .vdone 5 4), (0x58480004, .vrb 5 4), (0x58485005, .vstat 5 4 5),
    (0x59C00000, .leaseAcq 5), (0x59C00001, .leaseRel 5), (0x59C80002, .leaseStat 5 4)] = true := by decide

theorem test_decode_groups : readsAs [
    (0x58885300, .remq 5 4 5 6), (0x58885301, .remqt 5 4 5 6), (0x58C85000, .grow 5 4 5),
    (0x59085010, .barArrive 5 4 5 4), (0x59080005, .barWait 5 4 0 1), (0x59085012, .barSync 5 4 5 4),
    (0x5908000F, .barPhase 5 4 0 3), (0x59405300, .qppost 5 5 6), (0x59485001, .ctrrd 5 4 5),
    (0x59485002, .ctrrdSig 5 4 5), (0x59485303, .ctradd 5 4 5 6), (0x59485004, .ctraddClr 5 4 5),
    (0x59485305, .ctrwait 5 4 5 6), (0x59405006, .dpost 5 5), (0x59485007, .dgrant 5 4 5),
    (0x59485008, .xstat 5 4 5), (0x59805000, .rlstart 5 5), (0x59800001, .rlstep 5),
    (0x59880002, .rlstat 5 4), (0x59880003, .rlesc 5 4), (0x59800004, .rlabort 5)] = true := by decide

theorem test_decode_system : readsAs [
    (0x5A000000, .nop 5), (0x5A000001, .endInsn 5), (0x5A000002, .resume 5),
    (0x5A000003, .yield 5), (0x5A080004, .cycle 5 4), (0x5A080005, .bbox 5 4),
    (0x5A0003FF, .trap 5 0x1FF), (0x5A000555, .breakInsn 5 0x155), (0x5A080620, .rdsys 5 4 0x20),
    (0x5A005831, .wrsys 5 5 0x31)] = true := by decide

/-- R275 row 1: words that are no instruction, each refused under its name. -/
theorem test_decode_refused : refusedAs [(0x5AC00000, .reservedMajor),
    (0x5BC00000, .reservedMajor),
    (0x5008531C, .subOperation),
    (0x50085315, .reservedBits),
    (0x52E80200, .reservedBits),
    (0x59080014, .subOperation),
    (0x59C00003, .subOperation),
    (0x58185300, .subOperation),
    (0x58005314, .subOperation),
    (0x5A000006, .subOperation),
    (0x5A000A00, .subOperation),
    (0x56C0000C, .subOperation),
    (0x59485309, .subOperation),
    (0x51485106, .reservedBits)] = true := by decide

/-! ### Small states -/

/-- The Boolean form of `Ready`. -/
def readyB (s : State) (t : BitVec 4) (cover : Bool) (who : List SeqId) (own : Nat) : Bool :=
  s.mayIssue && (s.curSeq.pb.rem == 0 || (cover && s.curSeq.pb.executes)) && who.contains s.site.seq &&
  (waitsOf t s.site.seq).all (fun k => s.cur.tokVal k != 0) && (signalsOf t s.site.seq).all (fun k => decide (s.cur.tokVal k + s.cur.tokRsv k < 255)) &&
  decide (s.curSeq.slots.length + own + (signalsOf t s.site.seq).length ≤ 32)

theorem ready_of {s : State} {t : BitVec 4} {cover : Bool} {who : List SeqId} {own : Nat} (h : readyB s t cover who own = true) :
    Ready s t cover who own := by
  simp only [readyB, Bool.and_eq_true, decide_eq_true_eq, Bool.or_eq_true, beq_iff_eq, List.all_eq_true, bne_iff_ne] at h
  exact ⟨h.1.1.1.1.1, h.1.1.1.1.2, h.1.1.1.2, h.1.1.2, h.1.2, h.2⟩

/-- A cell that holds group 0 of launch 1 at D0. -/
def tCell : Cell := { bound := some ⟨1, 0, 0, 0⟩ }

/-- The package in which cell 0 of die 0 alone differs from reset, at the turn of one of its sequencers. -/
def tAt (q : SeqId) (c : Cell) : State := { State.reset with cells := [(0, c)], site := { seq := q }, cycle := 1000 }

/-- The same with registers of that sequencer given. -/
def tRegs (q : SeqId) (c : Cell) (g : List (Nat × Word)) : State := (tAt q c).modSeq (fun x => { x with g := g })

/-- A launch with one group, bound to cell 0. -/
def tLaunch : Launch :=
  { key := 1, num := 0, stream := 0, pkt := { sq := 0, serial := 0, packet := ⟨1, 0, [], []⟩, started := true }, sigEn := false, sigId := 0, lcbAddr := 0, lcb := [],
    region := 256, level := 0, fdom := 0, seed := 77, keep := false, preempt := true, saveSlots := 1, saveArea := 0x800000, elig := [0], groups := 2, next := 1,
    bound := [(0, 0)], prioOf := 256, slotsOf := 256, budgets := [(256, 256)] }

/-- A region that sets no limit. -/
def tRegion : Region := { addr := 256, rcb := [0, 0x3FF, 0, 0, 3, 0, 0xFFFF, 0, 0x800000, 0, 0, 0] }

/-! ### The hypotheses of each statement are met: a state and operands for each of its clauses -/

theorem witness_AluTwoSourceResult :
    (let s := tRegs .K tCell [(1, 5), (2, 7)]
     Ready s 0 true allSeqs (pushes 3) ∧ s.readable 1 = true ∧ (s.afterRead 1).readable 2 = true ∧ s.writable 3 = true) ∧
    (let s := tAt .K { tCell with queues := [(3, [5, 7])] }
     Ready s 0 true allSeqs (pushes 24) ∧ s.readable 27 = true ∧ (s.afterRead 27).readable 27 = true ∧ s.writable 24 = true) :=
  ⟨⟨ready_of (by decide), by decide⟩, ready_of (by decide), by decide⟩

theorem witness_DivideResult :
    (let s := tRegs .K tCell [(1, 5)]
     Ready s 0 true allSeqs (pushes 3) ∧ s.readable 1 = true ∧ (s.afterRead 1).readable 2 = true ∧ s.writable 3 = true ∧ (s.afterRead 1).source 2 = 0) ∧
    (let s := tRegs .K tCell [(1, 5), (2, 0xFFFFFFFFFFFFFFFF)]
     Ready s 0 true allSeqs (pushes 3) ∧ s.readable 1 = true ∧ (s.afterRead 1).readable 2 = true ∧ s.writable 3 = true ∧ (s.afterRead 1).source 2 ≠ 0) :=
  ⟨⟨ready_of (by decide), by decide⟩, ready_of (by decide), by decide⟩

theorem witness_OneSourceResult : let s := tRegs .S tCell [(1, 5)]
    Ready s 0 true allSeqs (pushes 0) ∧ s.readable 1 = true ∧ s.writable 0 = true := ⟨ready_of (by decide), by decide⟩

theorem witness_BitFunctions : countLead 1 = BitVec.ofNat 64 63 ∧ countLead 0 = BitVec.ofNat 64 64 ∧ countTrail 8 = BitVec.ofNat 64 3 ∧
    countTrail 0 = BitVec.ofNat 64 64 ∧ (1 : Word).getLsbD 63 = false := by decide

theorem witness_ConstantsAndInsert : let s := tAt .L { tCell with l := { constLen := 4 } }
    Ready s 0 true allSeqs (pushes 3) ∧ s.writable 3 = true ∧ s.readable 1 = true ∧ (s.afterRead 1).readable 2 = true ∧
    (3 : BitVec 12).toNat < s.curSeq.constLen ∧ ¬ (4 : BitVec 12).toNat < s.curSeq.constLen := ⟨ready_of (by decide), by decide⟩

theorem witness_CompareResult : let s := tAt .K tCell
    Ready s 0 true allSeqs 0 ∧ s.readable 1 = true ∧ (s.afterRead 1).readable 2 = true ∧ s.predFree 1 = true ∧ s.predFree 7 = true :=
  ⟨ready_of (by decide), by decide⟩

theorem witness_RegistersAndPredicates :
    (let s := tAt .K tCell
     Ready s 0 true allSeqs 0 ∧ Ready s 0 false allSeqs 0 ∧ s.predFree 7 = true ∧ s.predFree 0 = true ∧ s.writable 3 = true ∧ s.readable 1 = true) ∧
    (let s := tAt .K { tCell with k := { pb := ⟨1, true, 0⟩ } }
     s.mayIssue = true ∧ s.curSeq.pb.rem ≠ 0 ∧ s.curSeq.pb.pat.getLsbD 0 ≠ s.curSeq.pb.pv) :=
  ⟨⟨ready_of (by decide), ready_of (by decide), by decide⟩, by decide⟩

theorem witness_BranchResult : let s := tAt .K tCell
    Ready s 0 false allSeqs 0 ∧ s.predFree 0 = true ∧ s.readable 23 = true := ⟨ready_of (by decide), by decide⟩

theorem witness_LoopResult :
    (let s := tAt .C { tCell with c := { lc := [(0, 2), (1, 1)] } }
     Ready s 0 false allSeqs 0 ∧ Ready s 0 false [.C] 0 ∧ s.readable 1 = true ∧ 1 < (s.curSeq.loopCnt 0).toNat ∧ ¬ 1 < (s.curSeq.loopCnt 1).toNat) ∧
    (let s := tAt .L tCell
     s.mayIssue = true ∧ s.curSeq.pb.rem = 0 ∧ s.site.seq ≠ .C) :=
  ⟨⟨ready_of (by decide), ready_of (by decide), by decide⟩, by decide⟩

theorem witness_QueueAndTokenForms :
    (let s := tAt .K { tCell with queues := [(3, [5])], tok := [(0, 254), (1, 1)] }
     Ready s 0 true allSeqs (pushes 3) ∧ s.writable 3 = true ∧ (queueEnds 3).2 = s.site.seq ∧ (queueEnds 0).1 = s.site.seq ∧ (queueEnds 1).1 ≠ s.site.seq ∧
     (queueEnds 1).2 ≠ s.site.seq ∧ s.cur.queue 3 = [5] ∧ s.cur.queue 5 = [] ∧ (queueEnds 5).2 = s.site.seq ∧ (tokenEnds 0).1 = s.site.seq ∧ (tokenEnds 1).2 = s.site.seq ∧
     s.cur.tokVal 0 + s.cur.tokRsv 0 + 1 ≤ 255 ∧ 1 ≤ s.cur.tokVal 1 ∧ (tokenEnds 2).1 ≠ s.site.seq ∧ (tokenEnds 2).2 ≠ s.site.seq) ∧
    (let s := tAt .K { tCell with tok := [(0, 255)] }
     Ready s 0 true allSeqs (pushes 3) ∧ s.writable 3 = true ∧ 255 < s.cur.tokVal 0 + s.cur.tokRsv 0 + 1 ∧ s.cur.tokVal 1 < 1) :=
  ⟨⟨ready_of (by decide), by decide⟩, ready_of (by decide), by decide⟩

theorem witness_SystemForms :
    (let s := { tAt .K tCell with launches := [tLaunch], regions := [tRegion] }
     Ready s 0 true allSeqs 0 ∧ Ready s 0 true [.K] 0 ∧ s.cur.tin = false ∧ s.cur.bound = some ⟨1, 0, 0, 0⟩ ∧ s.launch? 1 = some tLaunch ∧
     s.region? tLaunch.slotsOf = some tRegion ∧ tLaunch.level < 2 ∧ tLaunch.preempt = true ∧ 0 < tLaunch.saveSlots ∧ tLaunch.status = .running ∧
     (s.slotAt s.here).pre = false ∧ s.cur.stop = none ∧ tRegion.slots = [] ∧ s.writable 3 = true) ∧
    (let s := { tAt .K tCell with launches := [{ tLaunch with preempt := false }], regions := [tRegion] }
     Ready s 0 true [.K] 0 ∧ (s.launch? 1).map (fun l => l.preempt) = some false) ∧
    (let s := tAt .K { tCell with tin := true }
     Ready s 0 true allSeqs 0 ∧ s.cur.tin = true) := by
  and_intros <;> first | exact ready_of (by decide +kernel) | decide +kernel

theorem witness_SystemRegisters :
    (let s := tAt .K { tCell with tin := true }
     Ready s 0 true allSeqs (pushes 3) ∧ Ready s 0 true allSeqs 0 ∧ s.writable 3 = true ∧ s.readable 1 = true ∧ s.cur.tin = true) ∧
    (let s := tAt .K tCell
     Ready s 0 true allSeqs 0 ∧ s.cur.tin = false) ∧
    sysTable.any (fun r => r.1 == 0x100 + 8 * (1 : BitVec 9).toNat && r.2.1 == some .K) = true ∧ sysWritable.any (fun w => w.1 == 0x108 && w.2.1) = true ∧
    sysTable.all (fun r => r.1 != 0x100 + 8 * (6 : BitVec 9).toNat || r.2.1 != some .L) = true ∧ 0x100 + 8 * (0xC0 : BitVec 9).toNat = 0x700 ∧
    sysWritable.all (fun w => w.1 != 0x188) = true := by
  and_intros <;> first | exact ready_of (by decide +kernel) | decide +kernel

theorem witness_TrapInstructions : let s := tAt .C tCell
    Ready s 0 true allSeqs 0 ∧ s.mayIssue = true ∧ s.cur.stop = none ∧ s.here ≠ 1 := ⟨ready_of (by decide), by decide⟩

theorem witness_ResumeReturns :
    (let s := tAt .K tCell
     Ready s 0 true [.K] 0 ∧ s.cur.tin = false) ∧
    (let s := tAt .K { tCell with tin := true, rpck := 7, pend := [⟨4, true, 3, .C, 9⟩] }
     Ready s 0 true [.K] 0 ∧ s.cur.tin = true ∧ s.cur.pend = [⟨4, true, 3, .C, 9⟩]) ∧
    (let s := tAt .K { tCell with tin := true }
     Ready s 0 true [.K] 0 ∧ s.cur.tin = true ∧ s.cur.pend = []) := by
  and_intros <;> first | exact ready_of (by decide +kernel) | decide +kernel

/-- A translation that succeeds at a physical address on a page that is not replicated. -/
def lands (s : State) (va : Word) (write : Bool) (pa : Nat) : Bool :=
  match s.translate s.here va write with
  | .ok (p, repl, _) => p == pa && !repl
  | .error _ => false

/-- A translation that faults. -/
def misses (s : State) (va : Word) (write : Bool) : Bool :=
  match s.translate s.here va write with
  | .error .fault => true
  | _ => false

/-- A translation that meets an uncorrectable entry. -/
def spoilt (s : State) (va : Word) (write : Bool) : Bool :=
  match s.translate s.here va write with
  | .error .bad => true
  | _ => false

/-- The page of virtual address 0x10000 on die 0, that of 0x20000 on die 7, and a replicated one. -/
def tPages : List TlbEntry :=
  [⟨0x10000, 16, 0x50000, true, false⟩, ⟨0x20000, 16, 7 * 2 ^ 36 + 0x50000, true, false⟩, ⟨0x40000, 16, 0x70000, true, true⟩]

theorem witness_VirtualLoads :
    (let s := tRegs .K { tCell with tlb := tPages } [(1, 0x10008), (2, 0x10001), (3, 0x20000), (4, 0x30000), (5, 0xFFFFFFFC00010)]
     Ready s 0 true allSeqs (pushes 6) ∧ s.readable 1 = true ∧ s.writable 6 = true ∧ (s.source 2).toNat % 8 ≠ 0 ∧ (s.source 1).toNat % 8 = 0 ∧
     s.orderedPending = false ∧ lands s (s.source 1) false 0x50008 = true ∧ lands s (s.source 5) false (spAddr 0 0x10) = true ∧
     lands s (s.source 3) false (7 * 2 ^ 36 + 0x50000) = true ∧ misses s (s.source 4) false = true ∧ s.badRead 0x50008 8 = false ∧ homeDie 0x50008 = s.here / 64) ∧
    (let s := { tAt .K { tCell with tlb := tPages, k := { g := [(1, 0x10008)] } } with badWords := [0x50008 / 32 * 32] }
     Ready s 0 true allSeqs (pushes 6) ∧ lands s (s.source 1) false 0x50008 = true ∧ s.badRead 0x50008 8 = true) ∧
    (let s := { tRegs .K tCell [(1, 0x10008)] with xlV := true, badWords := [0] }
     Ready s 0 true allSeqs (pushes 6) ∧ spoilt s (s.source 1) false = true) ∧
    (let s := tAt .K { tCell with tlb := tPages, k := { g := [(3, 0x20000)], access := some (.answered (.value 9)) } }
     Ready s 0 true allSeqs (pushes 6) ∧ s.curSeq.access = some (.answered (.value 9)) ∧ lands s (s.source 3) false (7 * 2 ^ 36 + 0x50000) = true) ∧
    (let s := tAt .K { tCell with tlb := tPages, k := { g := [(3, 0x20000)], slots := [⟨.store 0x50000 [1] .ordered false 0 0x10000, .store 0x50000 [1] .ordered false 0 0x10000, 0, []⟩] } }
     Ready s 0 true allSeqs (pushes 6) ∧ s.orderedPending = true) := by
  and_intros <;> first | exact ready_of (by decide +kernel) | decide +kernel

/-- A matrix command that locks words 2 and 4 of the scratchpad of cell 0. -/
def tLocker : MCmd :=
  { id := 1, cell := 0, tag := 0, noTag := true, f := [], fmt := 0, srseed := 0, srbase := 0, tokens := [], pc := 0, issued := 0, locks := [4, 2] }

theorem witness_StoresAndFences :
    (let s := tRegs .K { tCell with tlb := tPages } [(1, 0x10008), (2, 0x10001), (4, 0x30000)]
     Ready s 0 true allSeqs 1 ∧ Ready s 0 true allSeqs 0 ∧ s.readable 1 = true ∧ (s.afterRead 1).readable 3 = true ∧ s.storesDone s.here s.site.seq = true ∧
     s.orderedPending = false ∧ lands s (s.source 1) true 0x50008 = true ∧ misses s (s.source 4) true = true ∧ s.wordHeld 0x50008 = false) ∧
    (let s := { tRegs .K tCell [(1, 0xFFFFFFFC00080)] with quads := [(0, { cmds := [tLocker] })] }
     Ready s 0 true allSeqs 1 ∧ lands s (s.source 1) true (spAddr 0 0x80) = true ∧ s.wordHeld (spAddr 0 0x80) = true ∧
     (s.cellAt (spCell (spAddr 0 0x80))).freeEntry.isSome = true) ∧
    (let s := tAt .K { tCell with tlb := tPages, k := { slots := [⟨.store 0x50000 [1] .ordered false 0 0x10000, .store 0x50000 [1] .ordered false 0 0x10000, 0, []⟩] } }
     Ready s 0 true allSeqs 1 ∧ s.orderedPending = true ∧ s.storesDone s.here s.site.seq = false) := by
  and_intros <;> first | exact ready_of (by decide +kernel) | decide +kernel

theorem witness_LocalLoadsAndStores :
    (let s := tRegs .K tCell [(1, 0x3FFFF8), (2, 0x400000), (4, 0x80)]
     Ready s 0 true allSeqs (pushes 3) ∧ Ready s 0 true allSeqs 1 ∧ s.readable 1 = true ∧ s.writable 3 = true ∧ s.here / 64 < 16 ∧
     (s.source 1).toNat % 8 = 0 ∧ (s.source 1).toNat + 8 ≤ 0x400000 ∧ 0x400000 < (s.source 2).toNat + 8 ∧ s.badRead (spAddr s.here 0x3FFFF8) 8 = false ∧
     s.wordHeld (spAddr 0 0x3FFFF8) = false) ∧
    (let s := { tRegs .K tCell [(4, 0x80)] with quads := [(0, { cmds := [tLocker] })], badWords := [spAddr 0 0x80] }
     Ready s 0 true allSeqs 1 ∧ s.wordHeld (spAddr s.here 0x80) = true ∧ s.cur.freeEntry.isSome = true ∧ s.badRead (spAddr s.here 0x80) 8 = true) := by
  and_intros <;> first | exact ready_of (by decide +kernel) | decide +kernel

theorem witness_Atomics :
    (let s := tRegs .S { tCell with tlb := tPages } [(1, 0x10008), (2, 0x10002), (3, 0x20000), (4, 0x30000)]
     Ready s 0 true allSeqs (pushes 5) ∧ Ready s 0 true allSeqs 0 ∧ s.readable 1 = true ∧ (s.afterRead 1).readable 2 = true ∧ s.writable 5 = true ∧
     (s.source 2).toNat % 4 ≠ 0 ∧ (s.source 1).toNat % 8 = 0 ∧ s.orderedPending = false ∧ s.curSeq.access = none ∧ lands s (s.source 1) true 0x50008 = true ∧
     s.overlapsOwn 0x50008 8 = false ∧ homeDie 0x50008 = s.here / 64 ∧ s.wordHeld 0x50008 = false ∧ s.badRead 0x50008 8 = false ∧ misses s (s.source 4) true = true) ∧
    (let s := tAt .S { tCell with tlb := tPages, s := { g := [(1, 0x20000)], access := some .lost } }
     Ready s 0 true allSeqs (pushes 5) ∧ lands s (s.source 1) true (7 * 2 ^ 36 + 0x50000) = true ∧ s.curSeq.access = some .lost) := by
  and_intros <;> first | exact ready_of (by decide +kernel) | decide +kernel

theorem witness_TagReads :
    (let s := tRegs .K { tCell with tags := [(2, 1), (5, 3)] } [(1, 0x24), (2, 0x8000000000000000), (3, 63), (4, 64)]
     Ready s 0 true allSeqs (pushes 6) ∧ s.readable 1 = true ∧ s.writable 6 = true ∧
     ((2 < 64 ∧ (s.source 1).getLsbD 2 = true ∧ s.cur.tagDone 2 = true) ∧ ∀ j, j < 2 → ¬ ((s.source 1).getLsbD j = true ∧ s.cur.tagDone j = true)) ∧
     (∀ j, j < 64 → ¬ ((s.source 1).getLsbD j = true ∧ (!s.cur.tagDone j) = true)) ∧ s.source 2 ≠ 0 ∧
     (∀ j, j < 64 → ¬ ((s.source 2).getLsbD j = true ∧ s.cur.tagDone j = true)) ∧ s.source 5 = 0 ∧ (s.source 3).toNat < 64 ∧ 64 ≤ (s.source 4).toNat) :=
  ⟨ready_of (by decide), by decide +kernel⟩

/-- The 32 bytes of a good arrival-region record at scratchpad offset 0x100. -/
def tArm : List Host.Cell := Memory.writes 0 [] (spAddr 0 0x100) ([0x1000, 0x40, 3, 0x4005].flatMap (leBytes 8))

theorem witness_TagWrites :
    (let s := { tRegs .K tCell [(1, 63), (2, 64), (3, 0x100), (4, 0x101), (5, 0x3FFFE1)] with mem := tArm }
     Ready s 0 true allSeqs 0 ∧ s.readable 1 = true ∧ (s.afterRead 1).readable 3 = true ∧ (s.source 1).toNat < 64 ∧ 64 ≤ (s.source 2).toNat ∧
     s.storesDone s.here s.site.seq = true ∧ (s.source 4).toNat % 32 ≠ 0 ∧ 0x400000 - 31 ≤ (s.source 5).toNat ∧ s.badRead (spAddr s.here 0x100) 32 = false ∧
     (armRecord (s.seenBytes s.here s.site.seq (spAddr s.here 0x100) 32)).isSome = true ∧
     armRecord (s.seenBytes s.here s.site.seq (spAddr s.here 0x200) 32) = none) :=
  ⟨ready_of (by decide), by decide +kernel⟩

theorem witness_TaggedStore :
    (let s := tRegs .L { tCell with entries := [(4, { line := 9, count := 1, v := true }), (5, { fill := true }), (6, { count := 2, v := true })], badLines := [16 * 6] }
       [(1, 4), (2, 5), (3, 6), (4, 7), (8, 127), (9, 128)]
     Ready s 0 true allSeqs (pushes 10) ∧ Ready s 0 true allSeqs 0 ∧ s.readable 1 = true ∧ s.writable 10 = true ∧ (s.afterRead 1).readable 8 = true ∧
     (s.cur.entry 4).v = true ∧ (s.cur.entry 4).count = 1 ∧ s.trdAhead 4 = false ∧ (s.cur.entry 5).fill = true ∧ (s.cur.entry 7).v = false ∧ (s.cur.entry 7).fill = false ∧
     16 * 4 ∉ s.cur.badLines ∧ 16 * 6 ∈ s.cur.badLines ∧ (s.source 8).toNat ≤ 127 ∧ 127 < (s.source 9).toNat ∧ s.fillWaits (s.source 8) = false) :=
  ⟨ready_of (by decide), ready_of (by decide), by decide⟩

/-- A computation that answers and leaves the state as it is. -/
def keeps {α : Type} (m : M α) (s : State) : Bool :=
  match m s with
  | .ok (_, u) => decide (u = s)
  | .error _ => false

/-- A computation that answers. -/
def answers {α : Type} (m : M α) (s : State) : Bool :=
  match m s with
  | .ok _ => true
  | .error _ => false

/-- A computation that raises a trap. -/
def traps {α : Type} (m : M α) (s : State) : Bool :=
  match m s with
  | .error (.trap _ _) => true
  | _ => false

/-- A shape record at scratchpad offset 0x200: 40 elements of 4 bytes from 0x10000. -/
def tShape : List Host.Cell :=
  Memory.writes 0 [] (spAddr 0 0x200) (leBytes 8 (1 + 16 * 2) ++ leBytes 8 0x10000 ++ leBytes 16 0 ++ (leBytes 4 40 ++ leBytes 28 0) ++ (leBytes 8 4 ++ leBytes 56 0))

theorem witness_TensorIssue :
    (let s := { tRegs .L { tCell with tlb := tPages } [(1, 0x200)] with mem := tShape }
     Ready s 0 true [.L] 1 ∧ s.readable 1 = true ∧ 1 ≤ (1 : BitVec 3).toNat ∧ (5 : BitVec 5).toNat + 1 ≤ 24 ∧ (s.cur.vqRows 1).length + s.cur.rowsDue 1 < 8 ∧
     keeps (readShape (s.source 1) tcLoad) s = true ∧
     answers (do let r ← readShape (s.source 1) tcLoad; tensorElems r [0] false (512 >>> r.esize) 0) s = true) ∧
    (let s := { tAt .S { tCell with tlb := tPages, s := { g := [(1, 0x200)] }, vq := [(4, [7])] } with mem := tShape }
     Ready s 0 true [.S] 1 ∧ s.cur.vqRows 4 = [7] ∧ s.cur.vqRows 5 = [] ∧ keeps (readShape (s.source 1) tcStore) s = true ∧
     answers (do let r ← readShape (s.source 1) tcStore; tensorElems r [0] true (512 >>> r.esize) 0) s = true) ∧
    (let s := tAt .L { tCell with vq := [(1, [0, 0, 0, 0, 0, 0, 0, 0])] }
     Ready s 0 true [.L] 1 ∧ 8 ≤ (s.cur.vqRows 1).length + s.cur.rowsDue 1) := by
  and_intros <;> first | exact ready_of (by decide +kernel) | decide +kernel

/-- Template 3 of engine e, and the fields of its staging copy. -/
def tTemplate (e : Word) (f : List (Nat × Word)) (q : SeqId) : Cell :=
  ({ tCell with templates := [(48, e)], formats := [(0, 0xC00)] } : Cell).modSeq q (fun x => { x with stage := f.map (fun p => (49 + p.1, p.2)) })

theorem witness_PatchWords :
    (let s := tAt .K (tTemplate 2 [] .K)
     Ready s 0 true allSeqs 0 ∧ (14 : BitVec 4) ≠ 15 ∧ engineEmpty (s.cur.engineWord 3) = false ∧ s.readable 1 = true) ∧
    (let s := tAt .K tCell
     Ready s 0 true allSeqs 0 ∧ engineEmpty (s.cur.engineWord 3) = true) :=
  ⟨⟨ready_of (by decide), by decide⟩, ready_of (by decide), by decide⟩

/-- `mzero` of a 4 by 4 tile on template 3. -/
def tMzero : Cell := tTemplate 1 [(0, 7), (4, 0x404)] .C

theorem witness_GoMatrix :
    (let s := { tAt .C tMzero with quads := [(0, { held := true })] }
     Ready s 0 true allSeqs 1 ∧ keeps (checkGo 3) s = true ∧ (s.cur.engineWord 3).toNat = 1 ∧ (s.quadAt 0).oos = false ∧
     s.slotOn s.here .C (wordsOf (s.fetches s.here (s.curSeq.staged 3) ((s.cur.fmtEntry (s.curSeq.staged 3)).getD 0))) = false ∧
     (s.quadAt 0).mayUse 0 s.cur.leaseLimit = true ∧
     s.heldOn s.here .C (wordsOf (s.fetches s.here (s.curSeq.staged 3) ((s.cur.fmtEntry (s.curSeq.staged 3)).getD 0))) = none ∧
     ((s.quadAt 0).arb || (s.quadAt 0).walking || decide (16 ≤ (s.quadAt 0).inFlight)) = false ∧ commandSignals 0 (s.curSeq.staged 3) .C = []) ∧
    (let s := { tAt .C tMzero with quads := [(0, { held := true, arb := true })] }
     Ready s 0 true allSeqs 1 ∧ keeps (checkGo 3) s = true ∧ (s.quadAt 0).arb = true) ∧
    (let s := tAt .C tMzero
     Ready s 0 true allSeqs 1 ∧ keeps (checkGo 3) s = true ∧ (s.quadAt 0).mayUse 0 s.cur.leaseLimit = false) ∧
    (let s := { tAt .C tMzero with quads := [(0, { oos := true })] }
     Ready s 0 true allSeqs 1 ∧ keeps (checkGo 3) s = true ∧ (s.quadAt 0).oos = true) := by
  and_intros <;> first | exact ready_of (by decide +kernel) | decide +kernel

theorem witness_GoCopyAndCollective :
    (let s := tAt .K (tTemplate 2 [(0, 0), (1, 0x10000), (2, 0x10040), (5, 64)] .K)
     Ready s 0 true allSeqs 1 ∧ keeps (checkGo 3) s = true ∧ (s.cur.engineWord 3).toNat = 2 ∧ s.cur.copies.length < 64 ∧ commandSignals 0 (s.curSeq.staged 3) .K = []) ∧
    (let s := tAt .K (tTemplate 3 [(0, 2), (1, 0x10000)] .K)
     Ready s 0 true allSeqs 1 ∧ keeps (checkGo 3) s = true ∧ (s.cur.engineWord 3).toNat = 3 ∧ s.storesDone s.here s.site.seq = true ∧
     s.postWaits 2 { addr := 0x10000, poster := newPoster s s.here .K 0 (some 5) false [] } = none) ∧
    (let s := tAt .K (tTemplate 2 [(0, 9)] .K)
     Ready s 0 true allSeqs 1 ∧ traps (checkGo 3) s = true) := by
  and_intros <;> first | exact ready_of (by decide +kernel) | decide +kernel

theorem witness_VectorIssue :
    (let s := tAt .C tCell
     Ready s 0 true [.C] 1 ∧ s.readable 1 = true ∧ (s.afterRead 1).readable 2 = true ∧ keeps (checkVCmd (vcmdOf .vadd (s.source 1) (s.source 2) s)) s = true ∧
     (decide (16 ≤ s.cur.vcmds.countP (fun w => w.started.isNone)) || (VOp.vadd.isMem && !s.cur.vcmds.isEmpty)) = false) ∧
    (let s := tRegs .C tCell [(1, 0x0100000000000000)]
     Ready s 0 true [.C] 1 ∧ traps (checkVCmd (vcmdOf .vadd (s.source 1) (s.source 2) s)) s = true) :=
  ⟨⟨ready_of (by decide), by decide +kernel⟩, ready_of (by decide), by decide +kernel⟩

/-- A vector command in flight. -/
def tVcmd : VCmd := { id := 1, op := .vadd, a := 0, b := 0, vrb := 0, mrb := 0, srbase := 0, pc := 0 }

theorem witness_VectorControl :
    (let s := tAt .C tCell
     Ready s 0 true [.C] 0 ∧ Ready s 0 true [.C] (pushes 3) ∧ s.writable 3 = true ∧ s.readable 1 = true ∧ s.cur.vcmds = []) ∧
    (let s := tAt .C { tCell with vcmds := [tVcmd] }
     Ready s 0 true [.C] 0 ∧ s.cur.vcmds ≠ []) := by
  and_intros <;> first | exact ready_of (by decide +kernel) | decide +kernel

theorem witness_LeaseInstructions :
    (let s := { tAt .C tCell with quads := [(0, { acq := 1, held := true })] }
     Ready s 0 true [.C] 0 ∧ Ready s 0 true [.C] (pushes 3) ∧ s.writable 3 = true ∧ (s.quadAt 0).oos = false ∧ (s.quadAt 0).acq.getLsbD 0 = true) ∧
    (let s := { tAt .C tCell with quads := [(0, { oos := true })] }
     Ready s 0 true [.C] 0 ∧ (s.quadAt 0).oos = true ∧ (s.quadAt 0).acq.getLsbD 0 = false) := by
  and_intros <;> first | exact ready_of (by decide +kernel) | decide +kernel

/-- The module of edge 24, between die 0 and rim die 16, that carries their requests, active in both directions. -/
def tLinks : NatMap Link := NatMap.put {} (NatMap.put {} [] (linkKey 0 24 0) { st := 2, width := 3 }) (linkKey 16 24 0) { st := 2, width := 3 }

theorem witness_CounterInstructions :
    (let s := { tRegs .K tCell [(1, 5), (2, 0x4005), (3, 0x8000), (4, 0x10000)] with links := tLinks }
     Ready s 0 true [.K, .S] (pushes 6) ∧ Ready s 0 true [.K, .S] 0 ∧ Ready s 0 true [.K, .S] 1 ∧ s.readable 1 = true ∧ s.writable 6 = true ∧ (s.afterRead 1).readable 4 = true ∧
     (s.source 1).toNat < 2 ^ 14 ∧ s.cidUp 5 = true ∧ ¬ (s.source 3).toNat < 2 ^ 15 ∧ s.curSeq.access = none ∧ s.storesDone s.here s.site.seq = true ∧
     (s.request 0 16 5 (.ctrRead 5 0) s.here s.site.seq .ordered 0 5).isSome = true ∧ (s.counterAt 5).lost = false ∧
     (s.afterRead 1).source 7 = 0 ∧ (s.source 4).toNat % 64 = 0 ∧
     s.postWaits 5 { addr := 0x10000, poster := newPoster s s.here .K 0 none true [] } = none) ∧
    (let s := { tAt .S { tCell with s := { access := some (.answered (.value 7)), g := [(1, 5), (2, 6)] } } with counters := [(5, { value := 5 }), (6, { lost := true })] }
     Ready s 0 true [.K, .S] (pushes 6) ∧ s.curSeq.access = some (.answered (.value 7)) ∧ (s.counterAt 5).value.toNat < (s.source 2).toNat ∧ (s.counterAt 6).lost = true) ∧
    (let s := tAt .S { tCell with s := { access := some .lost } }
     Ready s 0 true [.K, .S] (pushes 6) ∧ s.curSeq.access = some .lost) := by
  and_intros <;> first | exact ready_of (by decide +kernel) | decide +kernel

/-- Cell 0 in a group of launch 1, which the package knows. -/
def tLaunched (c : Cell) (l : Launch) : State := { tAt .K c with launches := [l], regions := [tRegion] }

theorem witness_Barriers :
    (let s := tLaunched tCell tLaunch
     Ready s 0 true [.K] (pushes 3) ∧ s.writable 3 = true ∧ s.cur.bound = some ⟨1, 0, 0, 0⟩ ∧ s.launch? 1 = some tLaunch ∧ s.barriers = [] ∧
     tLaunch.joins.find? (fun e => e.1 == 0) = none ∧ s.storesDone s.here .K = true ∧ (s.barrierAt 1 0 0).gen.toNat + 1 < 2 ^ 64 ∧ tLaunch.level ≠ 2 ∧ s.cur.joined = none ∧
     s.cur.vcmds = [] ∧ s.cur.copies = [] ∧
     -- the one group of the cell joins at cell level: nobody is missing; at package level group 1 is
     (tLaunch.bound.all (fun e => scopeAt 0 e.2 != 0 || ((s.barrierAt 1 0 0).joined ++ [0]).contains e.1)) = true ∧
     ((s.barrierAt 1 3 0).joined ++ [0]).length + tLaunch.ended.length < tLaunch.groups) ∧
    (let s := { tLaunched { tCell with joined := some (.barrier 0 0 0 1) } { tLaunch with joins := [(0, (0, 1)), (3, (0, 1))] } with
       barriers := [{ launch := 1, level := 0, scope := 0, gen := 2 }, { launch := 1, level := 3, scope := 0, gen := 1, joined := [0] }] }
     Ready s 0 true [.K] (pushes 3) ∧ s.cur.joined = some (.barrier s.curSeq.pc 0 0 1) ∧ 1 < (s.barrierAt 1 0 0).gen.toNat ∧ (s.barrierAt 1 3 0).gen.toNat ≤ 1 ∧
     (s.barriers.map (fun b => b.joined)) = [[], [0]]) ∧
    (let s := tLaunched { tCell with bound := some ⟨1, 0, 2, 0⟩ } { tLaunch with level := 2 }
     Ready s 0 true [.K] (pushes 3) ∧ (s.launch? 1).map (fun l => l.level) = some 2 ∧ (s.barrierAt 1 0 0).due = none) ∧
    (let s := { tAt .K { tCell with k := { g := [(1, 0xFFFFFFFC00100), (2, 0xFFFFFFFC00108)] } } with
       launches := [tLaunch],
       mem := Memory.writes 0 (Memory.writes 0 [] (spAddr 0 0x100) (leBytes 8 (2 ^ 24 + 5) ++ leBytes 8 0xFFFFFFFC00200)) (spAddr 0 0x200) (leBytes 8 0) }
     Ready s 0 true [.K] (pushes 3) ∧ s.readable 1 = true ∧ (s.source 1).toNat % 16 = 0 ∧ (s.source 2).toNat % 16 ≠ 0 ∧ answers (readWords (s.source 1) 2) s = true ∧
     answers (readWords 0xFFFFFFFC00200 1) s = true ∧ s.barriers = [] ∧ tLaunch.joins.find? (fun e => e.1 == 4) = none) := by
  and_intros <;> first | exact ready_of (by decide +kernel) | decide +kernel

/-- A computation that answers x and leaves the state as it is. -/
def yields {α : Type} [DecidableEq α] (m : M α) (x : α) (s : State) : Bool :=
  match m s with
  | .ok (y, u) => decide (y = x ∧ u = s)
  | .error _ => false

/-- A push block of a collective engine, and one that names no engine. -/
def tPush (e : Nat) : List Host.Cell := Memory.writes 0 [] (spAddr 0 0x80) (leBytes 8 e)

theorem witness_RemoteQueuePush :
    (let s := { tRegs .K tCell [(2, 0x80), (3, 1), (4, 9)] with launches := [tLaunch], mem := tPush 3 }
     Ready s 0 true [.K] (pushes 6) ∧ s.readable 1 = true ∧ (s.afterRead 1).readable 2 = true ∧ s.writable 6 = true ∧
     yields (readPushBlock (s.source 2)) (3 :: List.replicate 15 0) s = true ∧ s.pushTarget (s.source 1) = .cell 0 ∧ s.pushTarget (s.source 3) = .wait ∧
     s.pushTarget (s.source 4) = .gone ∧ s.storesDone s.here s.site.seq = true) ∧
    (let s := { tRegs .K tCell [(2, 0x80)] with launches := [tLaunch], mem := tPush 1 }
     Ready s 0 true [.K] (pushes 6) ∧ traps (readPushBlock (s.source 2)) s = true) :=
  ⟨⟨ready_of (by decide), by decide +kernel⟩, ready_of (by decide), by decide +kernel⟩

theorem witness_Grow :
    (let s := tLaunched { tCell with k := { g := [(1, 5)] } } tLaunch
     Ready s 0 true [.K] (pushes 6) ∧ s.readable 1 = true ∧ s.writable 6 = true ∧ s.launch? s.hereBound.launch = some tLaunch ∧ tLaunch.level = 0) ∧
    (let s := tLaunched tCell { tLaunch with level := 1 }
     Ready s 0 true [.K] (pushes 6) ∧ (s.launch? s.hereBound.launch).map (fun l => l.level) = some 1 ∧ s.cur.joined = none) ∧
    (let s := tLaunched { tCell with joined := some (.grow 0 4) } { tLaunch with level := 1, grows := [{ serial := 4, group := 0, amount := 3, window := 0, issued := 0, result := some 9 }] }
     Ready s 0 true [.K] (pushes 6) ∧ s.cur.joined = some (.grow s.curSeq.pc 4) ∧ s.growResult 4 = some 9 ∧ s.growResult 5 = none) ∧
    (tLaunch.groups + (7 : Word).toNat < 2 ^ 32 ∧ bit (tLaunch.lcb.getD 1 0) 32 = false ∧ 2 ^ 32 ≤ tLaunch.groups + (0xFFFFFFFF : Word).toNat ∧
      2 ^ 32 ≤ (0x100000000 : Word).toNat) := by
  and_intros <;> first | exact ready_of (by decide +kernel) | decide +kernel

/-- The words of a good refinement block, with its word 9. -/
def tBlock (w9 : Nat) : List Nat :=
  [0, 1, 2, 0x306050403, 0x3FF0000000000000, 0x3FF0000000000000, 0x3FF0000000000000, 0x4000000000000000, 0xA00000000, w9, 0x10018, 7, 2, 0x900]

/-- A refinement loop in state st whose block has word 9 w9. -/
def tRlc (st : BitVec 2) (w9 : Nat) : Rlc :=
  { st := st, norm := 0x4010000000000000, prev := 0x4014000000000000, norm0 := 0x4018000000000000, total := 1,
    copy := (tBlock w9).zipIdx.map (fun (v, i) => (i, BitVec.ofNat 64 v)) }

/-- A norm goes on to the next iteration. -/
def goesOn (r : Rlc) (nu : Word) : Bool :=
  match r.norm1 nu with
  | (_, .next) => true
  | _ => false

/-- A norm leaves by a RETURN. -/
def returns (r : Rlc) (nu : Word) : Bool :=
  match r.norm1 nu with
  | (_, .leave _ 0) => true
  | _ => false

/-- The words of a table stand at an address. -/
def reads (a : Word) (n : Nat) (p : List Word → State → Bool) (s : State) : Bool :=
  match readWords a n s with
  | .ok (w, u) => p w u
  | .error _ => false

theorem witness_RefinementLoop :
    (let s := tAt .K { tCell with tin := true }
     Ready s 0 false [.K] 0 ∧ s.cur.tin = true) ∧
    (let s := { tAt .K { tCell with tlb := tPages, k := { g := [(1, 0x10000), (2, 0x10004)], codeLen := 9 } } with
       mem := Memory.writes 0 [] 0x50000 ((tBlock 6).flatMap (leBytes 8)) }
     Ready s 0 false [.K] 0 ∧ s.readable 1 = true ∧ s.cur.tin = false ∧ s.cur.rlc.st = 0 ∧ s.cur.rlc.held = false ∧ (s.source 2).toNat % 64 ≠ 0 ∧
     reads (s.source 1) 32 (fun ws u => !rlcBad u u.curSeq.codeLen (fun i => ws.getD i 0)) (s.afterRead 1) = true) ∧
    (let s := { tAt .K { tCell with tlb := tPages, k := { g := [(1, 0x10000)], codeLen := 9 } } with mem := Memory.writes 0 [] 0x50000 ((tBlock 0).flatMap (leBytes 8)) }
     Ready s 0 false [.K] 0 ∧ reads (s.source 1) 32 (fun ws u => rlcBad u u.curSeq.codeLen (fun i => ws.getD i 0)) (s.afterRead 1) = true) ∧
    (let s := tAt .K { tCell with rlc := tRlc 1 6 }
     Ready s 0 false [.K] 0 ∧ Ready s 0 true [.K] 0 ∧ Ready s 0 true [.K] (pushes 3) ∧ s.writable 3 = true ∧ s.cur.rlc.st = 1 ∧ s.cur.rlc.level.toNat + 1 < s.cur.rlc.fld 3 34 32) ∧
    (let s := tAt .K { tCell with rlc := tRlc 2 6 }
     Ready s 0 false [.K] 0 ∧ s.cur.rlc.st = 2) ∧
    (let s := tAt .K { tCell with rlc := tRlc 3 6, k := { g := [(3, 0x4000000000000000)] } }
     Ready s 0 false [.K] 0 ∧ s.cur.rlc.st = 3 ∧ s.cur.rlc.fld 9 0 0 = 0 ∧ goesOn s.cur.rlc (s.curSeq.greg (s.cur.rlc.fld 9 5 1)) = true) ∧
    (let s := tAt .K { tCell with rlc := tRlc 3 6, k := { g := [(3, 0x3FF0000000000000)] } }
     Ready s 0 false [.K] 0 ∧ s.cur.rlc.st = 3 ∧ returns s.cur.rlc (s.curSeq.greg (s.cur.rlc.fld 9 5 1)) = true) ∧
    (let s := { tAt .K { tCell with tlb := tPages, rlc := tRlc 3 (1 + 5 * 64) } with
       counters := [(5, { value := 9 })], mem := Memory.writes 0 [] 0x50018 (leBytes 8 0x4000000000000000) }
     let thr := s.cur.rlc.copyWord 11 + s.cur.rlc.total.zeroExtend 64 * s.cur.rlc.copyWord 12
     Ready s 0 false [.K] 0 ∧ s.cur.rlc.st = 3 ∧ s.cur.rlc.fld 9 0 0 = 1 ∧ s.curSeq.access = none ∧ (s.counterAt (s.cur.rlc.fld 9 19 6)).lost = false ∧
     thr.toNat ≤ (s.counterAt (s.cur.rlc.fld 9 19 6)).value.toNat ∧ lands s (s.cur.rlc.copyWord 10) false 0x50018 = true ∧ homeDie 0x50018 = s.here / 64 ∧
     s.badRead 0x50018 8 = false ∧ s.heldBad s.here s.site.seq 0x50018 8 = false ∧ goesOn s.cur.rlc (s.loadSees 0x50018 0x50018 8) = true) ∧
    (let s := tAt .K { tCell with rlc := tRlc 3 (1 + 5 * 64) }
     Ready s 0 false [.K] 0 ∧ (s.counterAt 5).value.toNat < (s.cur.rlc.copyWord 11 + s.cur.rlc.total.zeroExtend 64 * s.cur.rlc.copyWord 12).toNat) := by
  and_intros <;> first | exact ready_of (by decide +kernel) | decide +kernel

/-- A post block of member 0 of 2 for exchange 3 at collective engine 0, with its tables of packages and demands. -/
def tPostMem (n : Nat) : List Host.Cell :=
  Memory.writes 0 (Memory.writes 0 (Memory.writes 0 [] 0x50000 (([3 + n * 2 ^ 24, 0x10080, 0x100A0, 0x10100, 0x10200, 1000, 0x10300, 0x4005] : List Nat).flatMap (leBytes 8)))
    0x50080 (([0, 1] : List Nat).flatMap (leBytes 8))) 0x500A0 (([100, 200] : List Nat).flatMap (leBytes 8))

/-- The post of member i of exchange 3, which packages 0 and 1 run. -/
def tPost (i : Nat) : Post :=
  { xid := 3, nmem := 2, member := i, eng := 0, memtab := [0, 1], demand := [1, 2], mtsig := 9, rlen := 100, home := i }

/-- Its member. -/
def tMember (i : Nat) : Member :=
  { post := tPost i, launch := 1, group := 0, cell := 0, seq := .K, pc := 0, srctab := 0, rbase := 0, grtab := 0x10300, ctr := 0, ctrEn := false }

theorem witness_ExchangeInstructions :
    (let s := { tRegs .K { tCell with tlb := tPages } [(1, 0x10000), (2, 0x10004)] with mem := tPostMem 2 }
     Ready s 0 true [.K, .S] 0 ∧ s.readable 1 = true ∧ s.readable 2 = true ∧ (s.source 2).toNat % 64 ≠ 0 ∧ (s.source 1).toNat % 64 = 0 ∧
     reads (s.source 1) 8 (fun w u => !postBad w && u.dieUp (rimOf (bits (w.getD 0 0) 52 49)) && !u.members.any (fun m => u.mineFor 3 m && !m.done) &&
       reads (w.getD 1 0) 2 (fun tab v => !tab.any (fun e => bits e 63 19 != 0) &&
         reads (w.getD 2 0) 2 (fun dem x => !dem.any (fun e => bits e 63 48 != 0) && x.storesDone x.here x.site.seq) v) u) (s.afterRead 1) = true) ∧
    (let s := { tRegs .K { tCell with tlb := tPages } [(1, 0x10000)] with mem := tPostMem 0 }
     Ready s 0 true [.K, .S] 0 ∧ reads (s.source 1) 8 (fun w _ => postBad w) (s.afterRead 1) = true) ∧
    (let s := { tRegs .S { tCell with tlb := tPages } [(1, 0x10000)] with mem := tPostMem 2 }
     Ready s 0 true [.K, .S] (pushes 6) ∧ s.writable 6 = true ∧ reads (s.source 1) 1 (fun w u => bits (w.getD 0 0) 23 0 == 3 && (u.members.find? (u.mineFor 3)).isNone) (s.afterRead 1) = true) ∧
    (let s := { tRegs .K { tCell with tlb := tPages } [(1, 0x10000)] with mem := tPostMem 2, members := [tMember 0] }
     Ready s 0 true [.K, .S] (pushes 6) ∧ reads (s.source 1) 1 (fun _ u => (u.members.find? (u.mineFor 3)) == some (tMember 0)) (s.afterRead 1) = true) ∧
    (let s := { tRegs .K { tCell with tlb := tPages } [(1, 0x10000)] with mem := tPostMem 2, members := [{ tMember 0 with granted := some [5, 7] }] }
     Ready s 0 true [.K, .S] (pushes 6) ∧ reads (s.source 1) 1 (fun _ u => answers (writeWords (grantWords (tMember 0) [5, 7])) u) (s.afterRead 1) = true) := by
  and_intros <;> first | exact ready_of (by decide +kernel) | decide +kernel

/-- A packet of a type on stream 0 with sequence number 0. -/
def tPacket (type : Nat) (body : List Word) : Packet := { w0 := BitVec.ofNat 64 (type + body.length * 2 ^ 16), w1 := 7, body := body, host := [] }

/-- It, waiting in its stream. -/
def tWaits (p : Packet) : StreamPkt := { sq := 0, serial := 1, packet := p, started := false, at? := 0 }

/-- The package with the host's port up, brought up, and one packet on stream 0. -/
def tHost (p : Packet) : State :=
  { State.reset with
    ports := [(32, { stage := .active })], bringUp := 3, streams := [(0, { last := 0, pkts := [tWaits p] })], serial := 2, cycle := 200000, links := tLinks,
    site := { packet := p, stream := 0 } }

theorem witness_PacketsAndRecords :
    (let s := { tHost (tPacket 7 [0]) with site := { packet := { tPacket 7 [0] with w0 := 0x100010007 } } }
     s.ustexUp = true ∧ s.bringUp ≠ 0 ∧ s.site.packet.sq = (s.streamAt s.site.packet.stream).last + 1 ∧ 1 ≤ s.site.packet.type ∧ s.site.packet.type ≤ 0x0B) ∧
    (let s := { tHost (tPacket 7 [0]) with bringUp := 0, site := { packet := tPacket 0xA [0] } }
     s.ustexUp = true ∧ s.site.packet.type = 0x0A ∧ s.site.packet.sq = (s.streamAt s.site.packet.stream).last) ∧
    (let r : Record := ⟨4, 0, 0, 5, 1, 0, 0, [], 0, false⟩
     let s := { tHost (tPacket 7 [0]) with streams := [(0, { records := [r] })], site := { q := 5 } }
     s.site.yes = false ∧ (s.streamAt s.site.stream).records.any (fun r => r.sq == s.site.q) = true ∧ r.sentAt + 112500 ≤ s.cycle) ∧
    (let r : Record := ⟨0, 0, 0, 0, 0, 0, 0, [0, 0, 0, 0, 0, 0, 0, 5], 0, false⟩
     let s := { tHost (tPacket 7 [0]) with presence := some r, site := { yes := true, word := 5 } }
     (r.payload.getD 7 0).toNat % 2 ^ 32 = s.site.word.toNat ∧ r.sentAt + 112500 ≤ s.cycle) ∧
    (let s := tHost (tPacket 6 [0, 0])
     s.nextPkt (fun q => q.type == 6) = some (tWaits (tPacket 6 [0, 0])) ∧ (tPacket 6 [0, 0]).good = false) := by decide

theorem witness_SignalsLevelsAndFences :
    (let p := tPacket 4 [0x1002, 5]
     (tHost p).nextPkt (fun q => q.type == 4) = some (tWaits p) ∧ p.good = true ∧ p.op = 1 ∧
     (tHost p).streams.all (fun z => z.2.pkts.all (fun o => !(o.packet.type == 5))) = true) ∧
    (let p := tPacket 5 [0x100000002, 0]
     (tHost p).nextPkt (fun q => q.type == 5) = some (tWaits p) ∧ p.good = true ∧ p.holds ((tHost p).signalAt p.sigId) = true) ∧
    (let p := tPacket 5 [0x100000002, 0]
     let o := { tWaits p with started := true }
     let s := { tHost p with streams := [(0, { pkts := [o] })] }
     (s.streamAt 0).pkts.find? (fun o => o.started && o.packet.type == 5 && o.sq == s.site.q) = some o ∧ bits (p.at' 0) 63 32 ≠ 0 ∧
     o.at? + bits (p.at' 0) 63 32 * 2250 ≤ s.cycle) ∧
    (let p := tPacket 6 [2]
     (tHost p).nextPkt (fun q => q.type == 6) = some (tWaits p) ∧ p.good = true) ∧
    (let p := tPacket 7 [1]
     (tHost p).nextPkt (fun q => q.type == 7) = some (tWaits p) ∧ p.good = true ∧ bit (p.at' 0) 0 = true) := by decide

/-- An RCB image that sets no limit, child of a region. -/
def tImage (parent : Word) : List Word := parent :: List.replicate 31 0

/-- Such a state, whose root table maps the first 32 GiB to themselves. -/
def tMapped (p : Packet) : State := { tHost p with xlV := true, xlRoot := 1, mem := Memory.writes 0 [] (2 ^ 20) (leBytes 8 7) }

theorem witness_RegionPackets :
    (let p := tPacket 2 ([0, 256] ++ tImage 0)
     (tHost p).nextPkt (fun q => q.type == 2) = some (tWaits p) ∧ p.good = true ∧ p.regionOp = 0 ∧ imageBad p.image = false ∧ (tHost p).region? p.rcb = none ∧
     imageParent p.image = 0 ∧ (tHost p).regions.length < 4096 ∧
     ((tMapped p).hostPut 200000 (BitVec.ofNat 64 p.rcb) (imageBytes p.image 0)).map (fun x => x.1) = some 0) ∧
    (let p := tPacket 2 ([0, 256] ++ tImage 512)
     p.good = true ∧ imageParent p.image ≠ 0 ∧ ((tHost p).region? (imageParent p.image)).isNone = true) ∧
    (let p := tPacket 2 ([1, 256] ++ tImage 0)
     let s := { tHost p with regions := [tRegion] }
     s.nextPkt (fun q => q.type == 2) = some (tWaits p) ∧ p.good = true ∧ p.regionOp = 1 ∧ s.region? p.rcb = some tRegion ∧ imageBad p.image = false ∧
     imageParent p.image = tRegion.parent ∧ (s.hostPut 200000 (BitVec.ofNat 64 p.rcb) (imageBytes p.image tRegion.consumed)).isSome = true) ∧
    (let p := tPacket 2 [2, 256]
     let s := { tHost p with regions := [tRegion] }
     s.nextPkt (fun q => q.type == 2) = some (tWaits p) ∧ p.good = true ∧ p.regionOp = 2 ∧ s.regions.any (fun r => r.parent == p.rcb) = false ∧
     s.launches.any (fun l => l.region == p.rcb) = false) := by decide +kernel

theorem witness_StateAccessPackets :
    (let p := tPacket 8 [7 * 2 ^ 30, 8]
     (tHost p).nextPkt (fun q => q.type == 8) = some (tWaits p) ∧ p.good = true ∧ ((tHost p).ssRead (ssAddr p.state) 1).1 = 0) ∧
    (let p := tPacket 8 [4 * 2 ^ 40, 32]
     let a := ssAddr p.state
     let s := { tHost p with boxes := [(0, { events := [⟨1, 2, 3, 4⟩], frozen := true, head := 0 })] }
     p.good = true ∧ a.kind = 4 ∧ (s.ssRead a 4).1 = 0) ∧
    (let p := tPacket 9 [7 * 2 ^ 30, 8, 77]
     let a := ssAddr p.state
     (tHost p).nextPkt (fun q => q.type == 9) = some (tWaits p) ∧ p.good = true ∧ p.xlTarget = 0 ∧ a.kind = 0 ∧ a.blk = 7 ∧ ((tHost p).ssWrite a p.data).1 = 0) ∧
    (let p := tPacket 9 [16 * 2 ^ 43 + 2 * 2 ^ 40, 8, 0x100001]
     (tHost p).nextPkt (fun q => q.type == 9) = some (tWaits p) ∧ p.good = true ∧ p.xlTarget = 1 ∧ (tHost p).launches.isEmpty = true) ∧
    (let p := tPacket 9 [16 * 2 ^ 43 + 2 * 2 ^ 40 + 8, 8, 0x10000]
     (tHost p).nextPkt (fun q => q.type == 9) = some (tWaits p) ∧ p.good = true ∧ p.xlTarget = 2) ∧
    (let p := tPacket 0xA [0x100000000]
     (tHost p).immediatePkt (fun q => q.type == 0x0A) = some (tWaits p) ∧ p.good = true) ∧
    (let p := tPacket 0xA [0]
     (tHost p).immediatePkt (fun q => q.type == 0x0A) = some (tWaits p) ∧ p.good = false) := by
  decide +kernel

/-- A launch control block at 0x10000 of n groups whose code starts at 0x30000, under root tables that map the first 32 GiB to themselves. -/
def tLcb (n code : Nat) : List Host.Cell :=
  Memory.writes 0 (Memory.writes 0 [] (2 ^ 20) (leBytes 8 7)) 0x10000
    (([256, n, 7, 0x20000, 0x30000, 0x30000, 0x30000, 0x30000, code, 0, 0x30000, 0x30000, 0, 0, 0, 0] : List Nat).flatMap (leBytes 8))

/-- The host's package with that block, at a LAUNCH of it on stream 0. -/
def tStart (n code : Nat) : State :=
  { tHost (tPacket 1 [0x10000, 0x1003]) with xlV := true, xlRoot := 1, mem := tLcb n code, regions := [tRegion] }

/-- A COPYH of 8 bytes. -/
def tCopyh (dir : Word) : Packet := { tPacket 3 [dir, 0x999, 0x20000, 8] with host := [1, 2, 3, 4, 5, 6, 7, 8] }

/-- What the first checks of a LAUNCH of n groups with code of that length answer: the status of its control block, its groups, its first failing check. -/
def tLaunchSeen (n code : Nat) : BitVec 8 × Nat × Option (BitVec 8) :=
  let r := (tStart n code).rangesStatus [(0x10000, 128)]
  let w := r.2.hostWords 0x10000 16
  (r.1, lcbGroups w, (r.2.launchCheck w 0).1)

/-- A state with one COPYH in progress. -/
def tCopying (dir : Word) : State := { tStart 1 4 with copyhs := [{ stream := 0, pkt := { tWaits (tCopyh dir) with started := true } }] }

theorem witness_LaunchAndCopyPackets :
    (let s := tStart 1 4
     s.nextPkt (fun q => q.type == 1) = some (tWaits s.site.packet) ∧ s.site.packet.good = true) ∧
    tLaunchSeen 1 4 = (0, 1, none) ∧ tLaunchSeen 0 4 = (0, 0, none) ∧ tLaunchSeen 1 20000 = (0, 1, some 0x12) ∧
    ((tHost (tPacket 1 [0x10000, 0x1003])).rangesStatus [(0x10000, 128)]).1 ≠ 0 ∧
    (let p := tCopyh 2
     (tHost p).nextPkt (fun q => q.type == 3 && (bits (q.at' 0) 0 0 == 0)) = some (tWaits p) ∧ p.good = true) ∧
    (let p := tCopyh 3
     (tHost p).nextPkt (fun q => q.type == 3 && (bits (q.at' 0) 0 0 == 1)) = some (tWaits p) ∧ p.good = true) ∧
    (tCopyh 2).host.length = bits ((tCopyh 2).at' 3) 39 0 ∧ (tCopying 2).copyhFails 0x20000 8 ((tCopying 2).copyhPieces (tCopyh 2) 8) = none ∧
    ((tCopying 2).copyhWrite 0 (.host 1) 0x20000 [(0, (tCopyh 2).host)]).isSome = true ∧ ((tCopying 3).copyhRead ((tCopying 3).copyhPieces (tCopyh 3) 8)).2.2 = none ∧
    (tStart 1 4).rangesTrying 1024 16 200000 ((0x10000, 128) :: lcbRanges ((tStart 1 4).hostWords 0x10000 16)) = false ∧
    ((tCopying 2).copyhPieces (tCopyh 2) 8).any (fun x => (tCopying 2).tryingAt 1024 16 x.src true 0) = false ∧ (tCopying 2).outstanding (.host 1) = false ∧
    (∀ busy ∈ [true, false],
      let c : Copyh := { stream := 0, pkt := { tWaits (tCopyh 2) with started := true }, result := some (0, 0, 5) }
      let s := { tCopying 2 with copyhs := [c], inWrites := if busy then [{ pa := 0x20000, bytes := [1], owner := .host 1 }] else [] }
      s.copyhs[s.site.n]? = some c ∧ c.stopped = false ∧ s.outstanding (.host c.pkt.serial) = busy) := by
  and_intros <;> decide +kernel

/-- A launch of two groups with its control block, of which n have been placed. -/
def tRun (n : Nat) : Launch :=
  { tLaunch with
    lcb := [256, 2, 7, 0x20000, 0x30000, 0x30000, 0x30000, 0x30000, 0x0003000000020001, 0, 0x30000, 0x30000, 0, 0, 0, 0], lcbAddr := 0x10000, next := n, bound := [], ageAt := 0 }

/-- The package with that launch, the record of cell 0 and the cell, all of memory mapped to itself. -/
def tDispatch (l : Launch) (r : SlotRec) (c : Cell) : State :=
  { tStart 2 4 with launches := [l], slots := [(0, r)], cells := [(0, c)], streams := [], running := none, pending := [], cycle := 30000000, site := { die := 0, cell := 0, n := 1 } }

/-- The record of a group that waits for its cell. -/
def tRecord (g : Nat) : SlotRec := { v := true, launch := 1, group := g, slot := 0x800000, fresh := true, binds := 4 }

/-- A group whose four sequencers have ended. -/
def tEnded : Cell := { tCell with k := { ended := true }, l := { ended := true }, c := { ended := true }, s := { ended := true } }

/-- What a group kept that was pre-empted. -/
def tSaved : Saved := { group := 1, owner := 256, index := 0, ended := [false, false, true, false], kEnded := false, froms := [], joined := none, below := none, seen := [], copies := [] }

/-- Where no tables are in force, every page of a save slot is left as it is (R261). -/
theorem writeParts_unmapped {s : State} (hv : s.xlV = false) (hw : s.walkNow = []) (since : Nat) (slot : Word) (l : List (Nat × List Word)) :
    s.writeParts since slot l = some s := by
  have hx : ∀ va, s.hostXlate va true = .error .fault := by
    intro va
    simp only [State.hostXlate, State.translate, State.page, hv, hw, inLocal]
    split
    · rfl
    · rename_i h
      split
      · rfl
      · split
        · exact absurd (by simp; omega) h
        · rfl
  have hp : ∀ va bs, s.hostPut since va bs = some ((XErr.fault).status.zeroExtend 8, s) := by
    intro va bs
    simp only [State.hostPut, hx, State.noteWalk, hv]
    simp
  unfold State.writeParts
  generalize List.flatMap _ _ = r
  induction r with
  | nil => rfl
  | cons x r ih => simpa [hp] using ih

theorem witness_GroupsOnCells :
    ((tDispatch (tRun 0) {} {}).noReset ∧ (tDispatch (tRun 0) {} {}).settle.powerHold = false ∧
      (let t := (tDispatch (tRun 0) {} {}).settle.replaceHeads
       (t.bestLaunch (fun l => !(t.planFor l).isEmpty)).map (fun l => (l.key, (t.planFor l).map (fun p => p.2))) = some (1, [0]))) ∧
    (let t := (tDispatch { tRun 0 with key := 2, num := 1, prioOf := 512, slotsOf := 512, region := 512, budgets := [(512, 512)] } {} tCell).settle
     let u := { t with launches := t.launches ++ [{ tRun 1 with bound := [(0, 0)] }], regions := t.regions ++ [{ tRegion with addr := 512, rcb := tRegion.rcb.set 4 6 }] }
     (u.bestLaunch (fun l => !(u.planFor l).isEmpty)).isNone = true ∧
     (u.bestLaunch (fun l => u.wantsCell l && (u.victim l).isSome)).map (fun l => (l.key, (u.victim l).map (fun x => x.1))) = some (2, some 0)) ∧
    ({ tDispatch (tRun 0) {} {} with powerHold := true }).settle.powerHold = true ∧
    (let s := tDispatch (tRun 0) (tRecord 0) {}
     (s.slotAt s.here).v = true ∧ s.cur.bound = none ∧ s.recordsFit (tRun 0) = true ∧ s.launch? 1 = some (tRun 0) ∧ (s.bindGroup 0 (tRun 0) 0).2 = true) ∧
    (let s := { tDispatch { tRun 1 with bound := [(0, 0)] } { tRecord 0 with pre := true } { tCell with stop := some .preempt } with xlV := false }
     s.noReset ∧ (s.slotAt s.here).fresh = true ∧ s.cur.bound = some ⟨1, 0, 0, 0⟩ ∧ s.maySave 0 = true ∧
     s.xlV = false ∧ ∀ l, s.writeParts s.cycle 0x800000 l = some s) ∧
    (let l := { tRun 2 with saved := [tSaved] }
     let s := tDispatch l { tRecord 1 with rst := true } {}
     s.launch? 1 = some l ∧ l.saved.find? (fun x => x.group == (s.slotAt s.here).group) = some tSaved ∧ s.recordsFit l = true ∧ (s.bindGroup 0 l 1).2 = true) ∧
    (let l := { tRun 2 with bound := [(0, 0)] }
     let s := tDispatch l {} tEnded
     s.noReset ∧ s.cur.bound = some ⟨1, 0, 0, 0⟩ ∧ s.launch? 1 = some l ∧ s.groupOver 0 = true ∧ s.launches.countP (fun y => y.key == 1) = 1) := by
  refine ⟨⟨⟨rfl, rfl⟩, by decide +kernel⟩, by decide +kernel, by decide +kernel, by decide +kernel, ⟨⟨rfl, rfl⟩, by decide +kernel, by decide +kernel, by decide +kernel, rfl, fun l => writeParts_unmapped rfl rfl _ _ l⟩,
    by decide +kernel, ⟨⟨rfl, rfl⟩, by decide +kernel⟩⟩

theorem witness_SchedulerEvents :
    (let s := tDispatch (tRun 1) {} {}
     s.launch? s.site.n = some (tRun 1) ∧ (tRun 1).next < (tRun 1).groups ∧ (tRun 1).ageAt + 22500000 ≤ s.cycle ∧ s.budgetAt + 2250000 ≤ s.cycle) ∧
    (let l := { tRun 1 with bound := [(0, 0)] }
     let s := tDispatch l {} tCell
     s.boundCells = [0] ∧ s.launch? 1 = some l ∧ ((s.regionPath 8 l.region).map (fun r => r.addr)).Nodup) ∧
    (let r : GrowReq := { serial := 4, group := 0, amount := 5, window := 3, issued := 5, result := none }
     let l := { tRun 1 with grows := [r] }
     let s := tDispatch l {} {}
     s.launch? s.site.n = some l ∧ l.status = .running ∧ l.windowBase + 4096 * (r.window + 1) ≤ s.cycle ∧ (l.grows.filter (fun r => r.result.isNone)).count r = 1) ∧
    (let l := { tRun 1 with level := 2, ref? := some 5, ht := [0x10000, 1, 0x820000] }
     let s := tDispatch l {} {}
     s.launch? s.site.n = some l ∧ bits (l.ht.getD 1 0) 31 0 ≠ 0 ∧ 5 + 2 ^ 20 * (l.ticks + 1) ≤ s.cycle) ∧
    (let h : HashReq := { region := 256, launch := 1, timer := true, cycle := 5, num := 1, level := 2, ht := [0x10000, 1, 0x820000] }
     let s := { tDispatch (tRun 1) {} {} with hashReqs := [h] }
     s.nextHash = some h ∧ s.writesDone h.launch = true ∧ h.ready = none ∧ s.hashReqs.count h = 1) ∧
    (let h : HashReq := { region := 256, launch := 1, timer := true, cycle := 5, num := 1, level := 2, ready := some 7, ht := [0x10000, 0, 0x820000] }
     let s := { tDispatch { tRun 1 with bound := [(0, 0)] } {} tCell with hashReqs := [h] }
     let r := s.leaves h.region (h.ht.getD 0 0 &&& 0xFFFFFFFFFFFFF) (bits (h.ht.getD 1 0) 31 0)
     let levels := treeLevels 34 r.2
     s.nextHash = some h ∧ s.writesDone h.launch = true ∧ h.ready.getD 0 ≤ s.cycle ∧
     ((r.1.putWords s.cycle 0x820040 levels.flatten).bind (fun x => x.putWords s.cycle 0x820000 [1, (levels.getLast?.getD []).headD 0, BitVec.ofNat 64 (levels.length + 32), 1, 0, 0, 0, 0])).isSome = true ∧
     s.launches.length = 1) := by
  and_intros <;> decide +kernel

/-- The module of edge 24 between dies 0 and 16 in one state. -/
def tModule (l : Link) : State :=
  { State.reset with links := NatMap.put {} (NatMap.put {} [] (linkKey 0 24 0) l) (linkKey 16 24 0) l, site := { die := 0, edge := 24, mod := 0 } }

theorem witness_LinkModules :
    (edgeDies 24).1 = 0 ∧
    (let s := tModule { st := 2, width := 3, errThr := 9 }
     (s.linkAt 0 24 0).st = 2 ∧ (s.linkAt 0 24 0).down = false ∧ (s.linkAt 0 24 0).errCnt.toNat + 1 < (s.linkAt 0 24 0).errThr.toNat) ∧
    (let s := tModule { st := 2, width := 3, errThr := 1 }
     (s.linkAt 0 24 0).st = 2 ∧ (s.linkAt 0 24 0).errThr ≠ 0 ∧ (s.linkAt 0 24 0).errThr.toNat ≤ min ((s.linkAt 0 24 0).errCnt.toNat + 1) 0xFF) ∧
    ((tModule { st := 1 }).linkAt 0 24 0).st = 1 ∧
    (let s := tModule { st := 0, down := true }
     let t := { s with links := NatMap.put {} s.links (linkKey 16 24 0) {} }
     (t.linkAt 0 24 0).down = true ∧ (t.linkAt 0 24 0).st = 0 ∧ (t.linkAt 16 24 0).down = false) ∧
    ((tModule { st := 3 }).linkAt 0 24 0).st = 3 := by decide

/-- The requests that die 0 has sent to rim die 16, with what that has answered. -/
def tPair (p : Pair) : State :=
  { tAt .K { tCell with k := { access := some (.waiting 16 0) } } with
    links := tLinks, pairs := [(32 * 0 + 16, p)], cycle := 200000, site := { src := 0, dst := 16, q := 0, die := 0 } }

/-- A request of cell 0, number 0. -/
def tReq (op : MemOp) : MeshReq := { q := 0, pa := 5, op := op, cell := 0, seq := .K, cls := .ordered, pc := 3, va := 5, sends := 8, sent := 0 }

theorem witness_MeshProtocol :
    (let p : Pair := { unacked := [tReq (.ctrRead 5 0)], last := 0xFFFF }
     let s := tPair p
     p.unacked.find? (fun r => r.q == 0) = some (tReq (.ctrRead 5 0)) ∧ s.pairAt 0 16 = p ∧ s.reaches 0 16 = true ∧ p.waiting = [] ∧ (0 : BitVec 16) = p.last + 1 ∧
     s.mustWait (tReq (.ctrRead 5 0)) = false ∧ p.unacked.any (fun r => decide (r.sent + 45000 ≤ s.cycle)) = true ∧ ((s.cellAt 0).seq .K).access = some (.waiting 16 0)) ∧
    (let r : MeshReq := { tReq (.write [1]) with pa := spAddr 0 0x80, cell := 64 }
     let p : Pair := { unacked := [r], last := 0xFFFF, waiting := [] }
     let s := { tPair p with pairs := [(32 * 1 + 0, p)], quads := [(0, { cmds := [tLocker] })], site := { src := 1, dst := 0 } }
     s.mustWait r = true ∧ s.pairAt 1 0 = p ∧ homeDie r.pa = 0) ∧
    (let p : Pair := { unacked := [tReq (.ctrRead 5 0)], last := 0, resp := [(0, .value 7)] }
     (tPair p).reaches 16 0 = true ∧ p.resp.find? (fun r => r.1 == 0) = some (0, .value 7) ∧ (0 : BitVec 16) ≠ p.last + 1) ∧
    (let r : MeshReq := { tReq (.write [1]) with pa := spAddr 0 0x80 }
     let s := { tPair {} with pairs := [(32 * 16 + 0, { unacked := [r], waiting := [0] })], site := { die := 0, cell := 0 } }
     ∃ e ∈ s.pairs, e.1 % 32 = s.site.die ∧ e.2.heldAt + 22500 ≤ s.cycle ∧ inSp r.pa = true ∧ spCell r.pa = s.here ∧ e.2.waiting.contains r.q = true) ∧
    (let s := { tPair {} with holds := [(0, 16, 0)], resyncs := [(0, 0)], leases := [(0, 5)] }
     s.holds.contains (s.site.src, s.site.dst, s.site.q) = true ∧ s.resyncs.contains (s.site.die, s.site.src) = true ∧
     s.leases.find? (fun e => e.1 == s.site.n) = some (0, 5) ∧ 5 + 2250 ≤ s.cycle) ∧
    (let r : ReplicaUpd := { pa := 0x100, op := .write [1, 2, 3], cell := 0, seq := .K, cls := .relaxed }
     let s := { tPair {} with replicas := [r, { r with op := .atomic 1 8 5 0, seq := .L }] }
     s.replicas[s.site.n]? = some r ∧ (s.replicas.take s.site.n).any (fun o => o.cell == r.cell && o.seq == r.seq) = false ∧ r.net = 0 ∧ s.badWords = [] ∧
     (s.replicas.take 1).any (fun o => o.cell == 0 && o.seq == .L) = false) := by
  refine ⟨by decide +kernel, by decide +kernel, by decide +kernel, ?_, by decide +kernel, by decide +kernel⟩
  exact ⟨_, by exact List.mem_singleton.2 rfl, by decide +kernel⟩

/-- A port in a stage since cycle n. -/
def tPort (p : Nat) (stage : PortStage) (lanes : List Nat) (n : Nat) : State :=
  { State.reset with ports := [(p, { stage := stage, lanes := lanes, since := n })], bringUp := 3, cycle := 1000000000, site := { port := p, lane := 3, yes := true } }

theorem witness_PortsAndPower :
    (∀ x ∈ [PortStage.lock, .align, .negotiate, .confirm],
      ((tPort 32 x [0, 1] 1000000000).portAt 32).stage = x ∧
      (tPort 32 x [0, 1] 1000000000).cycle ≤ ((tPort 32 x [0, 1] 1000000000).portAt 32).since + stageLimit x ∧
      ((tPort 5 x [0] 0).portAt 5).stage = x ∧ ((tPort 5 x [0] 0).portAt 5).since + stageLimit x ≤ (tPort 5 x [0] 0).cycle) ∧
    (((tPort 32 .lock [0, 1] 0).portAt 32).lanes.contains 0 = true ∧ ((tPort 32 .lock [0, 1] 0).portAt 32).lanes.contains 1 = true ∧
      ((tPort 5 .waiting [] 0).portAt 5).stage = .waiting ∧ ((tPort 5 .active [] 0).portAt 5).stage = .active) ∧
    (({ tPort 32 .confirm [] 1000000000 with bringUp := 1 } : State).bringUp = 1 ∧ (tPort 32 .confirm [] 0).site.yes = true) ∧ (tPort 5 .off [] 0).noReset :=
  ⟨by decide, by decide, by decide, rfl, rfl⟩

/-- A RESET of a kind. -/
def tReset (kind : Word) : Packet := tPacket 0xB [kind]

/-- A RESET of that word is the one packet of its stream, is good and of that kind, while none runs or waits. -/
def resetReady (w : Word) (kind : Nat) : Bool :=
  let s := tHost (tReset w)
  s.running.isNone && s.pending.isEmpty && (s.immediatePkt (fun q => q.type == 0x0B) == some (tWaits (tReset w))) && (tReset w).good && (tReset w).resetKind == kind &&
  s.launches.isEmpty && (s.streamAt 0).pkts == [tWaits (tReset w)]

theorem witness_ResetsAndBringUp :
    (let s := { State.reset with bringUp := 0, site := { env := { railsOk := false } } }
     s.bringUp = 0 ∧ s.site.env.railsOk = false) ∧
    (let s := { tHost (tPacket 7 [0]) with bringUp := 0, site := { env := { railsOk := true, coolantOk := true } } }
     s.bringUp = 0 ∧ s.site.env.railsOk = true ∧ s.site.env.coolantOk = true) ∧
    (let p := { tWaits (tReset 2) with started := true }
     let s := { tHost (tReset 2) with running := some ⟨0, p, false⟩, streams := [(0, { pkts := [p] })], site := { env := { coolantOk := true } } }
     s.quiet = true ∧ s.bringUp ≠ 0 ∧ s.site.env.coolantOk = true) ∧
    resetReady 0 0 = true ∧ resetReady 0x301 1 = true ∧ resetReady 2 2 = true ∧
    (let s := tHost (tReset 3)
     s.immediatePkt (fun q => q.type == 0x0B) = some (tWaits (tReset 3)) ∧ (tReset 3).good = false) ∧
    (let r : ResetReq := ⟨1, { tWaits (tReset 0x301) with started := true }, true⟩
     let s := { tHost (tReset 0x301) with running := some r, site := { die := 3 } }
     s.running = some r ∧ r.kind = 1 ∧ r.die = s.site.die ∧ s.dieBusy s.site.die = false ∧ s.pending = [] ∧ s.launches = []) := by
  and_intros <;> decide +kernel

/-- Cell 0 with one item in the check slots of K. -/
def tSlot (x y : Item) (c : Cell) : State := tAt .K { c with k := { slots := [⟨x, y, 0, []⟩] } }

/-- A store of four bytes. -/
def tStore (pa : Nat) (cls : StoreClass) (repl : Bool) : Item := .store pa [1, 2, 3, 4] cls repl 5 0x100

/-- A copy in progress. -/
def tCopy (f : List Word) : Copy := { id := 2, seq := .K, tag := 5, remq := false, f := f, srec := [], drec := [], tokens := [], pc := 6, issued := 0, inSlot := false }

/-- A check slot's oldest item has stood there for nine cycles. -/
def slotDue (s : State) : Bool :=
  match s.curSeq.slots.head? with
  | some x => decide (x.at? + 9 ≤ s.cycle) && decide (s.cur.stop ≠ some .machineCheck) && decide (x.item = x.tell)
  | none => false

theorem witness_CheckSlotsAndBounds :
    (let s := tSlot (.push 3 7) (.push 3 8) tCell
     s.curSeq.slots.head?.map (fun x => decide (x.item ≠ x.tell ∧ x.at? + 9 ≤ s.cycle)) = some true ∧ s.cur.stop ≠ some .machineCheck) ∧
    (slotDue (tSlot (.push 3 7) (.push 3 7) tCell) = true ∧ slotDue (tSlot (.token 2) (.token 2) tCell) = true ∧
      slotDue (tSlot (.command 2) (.command 2) { tCell with copies := [tCopy []] }) = true ∧ slotDue (tSlot (tStore 0x100 .relaxed true) (tStore 0x100 .relaxed true) tCell) = true) ∧
    (let x := tStore (7 * 2 ^ 36) .relaxed false
     slotDue (tSlot x x tCell) = true ∧ homeDie (7 * 2 ^ 36) ≠ (tSlot x x tCell).here / 64 ∧ ((tSlot x x tCell).pairAt 0 7).unacked.length < 256) ∧
    (let x := tStore 0x100 .relaxed false
     slotDue (tSlot x x tCell) = true ∧ homeDie 0x100 = (tSlot x x tCell).here / 64 ∧ (tSlot x x tCell).wordHeld 0x100 = false ∧ (tSlot x x tCell).badWords = []) ∧
    (∀ cls ∈ [StoreClass.ordered, .relaxed],
      let x := tStore (spAddr 0 0x80) cls false
      let s := { tSlot x x tCell with quads := [(0, { cmds := [tLocker] })] }
      slotDue s = true ∧ s.wordHeld (spAddr 0 0x80) = true ∧ (s.cellAt (spCell (spAddr 0 0x80))).freeEntry.isSome = true) ∧
    (let s := tAt .C { tCell with c := { blocked := some ⟨0, 3, 7⟩, waitBound := 3 } }
     s.curSeq.blocked = some ⟨0, 3, 7⟩ ∧ s.mayIssue = true ∧ s.curSeq.waitBound ≠ 0 ∧ s.curSeq.waitBound.toNat * 256 ≤ s.cycle - 0) ∧
    (let v := { tVcmd with b := 100, started := some 5 }
     let s := { tAt .C { tCell with vcmds := [v] } with site := { seq := .C, n := 1 } }
     s.cur.bound.isSome = true ∧ s.cur.stop = none ∧ s.cur.tin = false ∧ s.cur.vcmds.find? (fun v => v.id == s.site.n) = some v ∧ v.raised = false ∧ v.op.usesB = false ∧
     bits v.b 31 0 ≠ 0 ∧ bits v.b 31 0 ≤ s.cycle - max v.headSince v.again) ∧
    (let v := { tVcmd with b := 100, issued := 5 }
     let s := { tAt .C { tCell with vcmds := [{ tVcmd with id := 7, started := some 5 }, { tVcmd with id := 8 }, v] } with site := { seq := .C, n := 1 } }
     s.cur.vcmds.find? (fun v => v.id == s.site.n) = some v ∧ waitBefore s.cur v = 1 ∧ bits v.b 31 0 ≤ s.cycle - max v.issued v.again) ∧
    (let x := tCopy (List.replicate 14 0 ++ [100])
     let s := { tAt .K { tCell with copies := [x] } with site := { n := 2 } }
     s.cur.vcmds.find? (fun v => v.id == s.site.n) = none ∧ s.cur.copies.find? (fun x => x.id == s.site.n) = some x ∧ x.raised = false ∧ Machine.fld x.f 14 ≠ 0 ∧
     (Machine.fld x.f 14).toNat ≤ s.cycle - max x.issued x.again) ∧
    (let m := { tLocker with f := 2 :: List.replicate 13 0 ++ [100], st := 1, headSince := 5 }
     let s := { tAt .K tCell with quads := [(0, { cmds := [m] })], site := { n := 1 } }
     s.cur.copies.find? (fun x => x.id == s.site.n) = none ∧ (s.quadAt (quadOf s.here)).cmds.find? (fun o => o.cell == s.here && o.id == s.site.n && o.ofWalk.isNone) = some m ∧
     m.st ≠ 0 ∧ m.waits = false ∧ m.op < 5 ∧ s.cur.cbuf = [] ∧ (∀ o ∈ (s.quadAt (quadOf s.here)).cmds, o.op ≠ 5) ∧ Machine.fld m.f 14 ≠ 0 ∧
     (Machine.fld m.f 14).toNat ≤ s.cycle - max m.headSince m.again) ∧
    (let a : Arming := { addr := 0x10000, poster := { cell := 0, launch := 1, group := 0, level := 0, seq := .K, pc := 6, tag := some 5, noTag := false, tokens := [], id := 9, bound := 100 } }
     let s := { tAt .K { tCell with chains := [(2, a)] } with site := { n := 9 } }
     (s.quadAt (quadOf s.here)).cmds.find? (fun o => o.cell == s.here && o.id == s.site.n && o.ofWalk.isNone) = none ∧ s.engines = [] ∧
     s.cur.chains.find? (fun x => x.2.poster.cell == s.here && x.2.poster.id == s.site.n) = some (2, a) ∧ a.poster.bound.toNat ≤ s.cycle - max a.poster.issued a.poster.again) ∧
    (let ws : List Word := 2 :: List.replicate 15 0
     slotDue (tSlot (.block 1 0 ws) (.block 1 0 ws) tCell) = true ∧ tLaunch.bound.find? (fun e => e.1 == 0) = some (0, 0) ∧ tLaunch.bound.find? (fun e => e.1 == 1) = none ∧
     (tLaunched tCell tLaunch).launch? 1 = some tLaunch ∧ ((tLaunched tCell tLaunch).cellAt 0).stop = none) := by
  and_intros <;> decide +kernel

theorem witness_TrapEntry :
    (let s := tAt .K { tCell with tvecEn := true, stop := some (.trap ⟨0x0E, false, 4, .L, 7⟩ 900), drainAt := some 968 }
     s.cur.stop = some (.trap ⟨0x0E, false, 4, .L, 7⟩ 900) ∧ s.drained s.here = true ∧ s.cur.drainAt = some 968 ∧ 968 + 32 ≤ s.cycle ∧ s.cur.tvecEn = true ∧ s.cur.tin = false) ∧
    (let s := tAt .K { tCell with stop := some (.trap ⟨0x0E, false, 4, .L, 7⟩ 900) }
     s.drained s.here = true ∧ s.cur.drainAt = none) ∧
    (let s := tAt .K { tCell with stop := some (.trap ⟨0x0E, false, 4, .L, 7⟩ 900), l := { access := some (.waiting 7 0) } }
     s.drained s.here = false) ∧
    (let s := tLaunched { tCell with stop := some (.trap ⟨0x05, false, 4, .K, 7⟩ 0), drainAt := some 968 } tLaunch
     s.drained s.here = true ∧ s.cur.drainAt = some 968 ∧ s.cur.tvecEn = false ∧ (NatMap.get {} s.boxes 0).frozen = false ∧ s.cur.bound = some ⟨1, 0, 0, 0⟩ ∧ s.launch? 1 = some tLaunch ∧ tLaunch.status = .running) := by decide

/-- The quad of cell 0, in which two cells have groups at a level. -/
def tLease (level : Nat) (x : Quad) : State :=
  { State.reset with
    cells := [(0, { bound := some ⟨1, 0, level, 0⟩ }), (1, { bound := some ⟨1, 1, level, 0⟩ })], quads := [(0, x)], cycle := 100000, site := { die := 0, quad := 0, n := 5, word := 1, word2 := 77, chunk := { ({} : Site).chunk with srcPkg := 7 } } }

/-- A block of a copy of 64 bytes. -/
def tBlockF : List Word := [0, 0x1000, 0x2000, 0, 0, 64, 0, 0, 0, 0, 0, 0, 0, 0, 0]

/-- A system barrier that package 7 must reach. -/
def tSystem (gen : Word) : Barrier := { launch := 1, level := 4, scope := 5, gen := gen, joined := [0], crc := 77, addr := 0x40, table := [7], sent := gen }

theorem witness_LeasesAndRemoteQueues :
    (∀ level ∈ [0, 1],
      let s := tLease level { req := 3, reqOrder := [1, 0], holder := 0 }
      (s.quadAt 0).oos = false ∧ (s.quadAt 0).held = false ∧ s.asksLease 0 0 = true ∧ s.asksLease 0 1 = true ∧ s.asksLease 0 2 = false ∧ s.asksLease 0 3 = false ∧
      s.levelOf 1 = level ∧ (s.quadAt 0).reqOrder.find? (fun o => s.asksLease 0 o) = some 1) ∧
    (let s := tLease 0 { held := true, holder := 0, req := 2, reqOrder := [1], acq := 1, count := 64, idleSince := 0 }
     (s.cellAt 0).leaseLimit ≤ (s.quadAt 0).count.toNat ∧ s.asksLease 0 1 = true ∧ (s.quadAt 0).waitingOf 0 = false ∧ 8192 ≤ s.cycle - (s.quadAt 0).idleSince) ∧
    (let s := tLease 0 { held := true, holder := 0 }
     (s.quadAt 0).acq.getLsbD 0 = false ∧ (s.quadAt 0).waitingOf 0 = false ∧ s.goWaits 0 = false ∧ s.inTrap 0 = false ∧
     s.asksLease 0 0 = false ∧ s.asksLease 0 1 = false ∧ s.asksLease 0 2 = false ∧ s.asksLease 0 3 = false) ∧
    (let s := tAt .K { tCell with remq := [2 :: tBlockF] }
     s.cur.bound.isSome = true ∧ s.cur.remBusy = none ∧ s.cur.remq.head? = some (2 :: tBlockF) ∧ pushedTokens tBlockF = [] ∧ s.cur.copies.length < 64 ∧
     s.copyCheck s.here none tBlockF = none ∧ (s.copyCheck s.here none (tBlockF.set 13 8)).isSome = true) ∧
    (let f := [5, 0x1000, 0, 0, 0, 0, 0, 0, 0, 0, 0, 0, 0, 0, 0]
     let s := tAt .K { tCell with remq := [3 :: f] }
     s.collFail f = none ∧ bits (Machine.fld f 0) 3 0 = 5 ∧ pushedTokens f = [] ∧
     s.postWaits 5 { addr := Machine.fld f 1 &&& 0xFFFFFFFFFFFFF, poster := s.blockPoster s.here 3 f } = none) ∧
    (let s := { tLease 0 {} with barriers := [tSystem 1], launches := [{ tLaunch with groups := 1 }] }
     s.barriers.find? (fun b => b.level == 4 && b.scope == 5 && b.gen == 1 && !b.joined.isEmpty) = some (tSystem 1) ∧
     (s.launch? 1).map (fun l => (tSystem 1).allIn l && (l.bound.map (fun e => e.2) == [0])) = some true ∧ s.genDone 1 4 5 1 = false) ∧
    (let s := { tLease 0 {} with barriers := [tSystem 2] }
     s.barriers.any (fun b => b.level == 4 && b.scope == 5 && b.gen == 1 && !b.joined.isEmpty) = false) := by
  and_intros <;> decide

/-- A matrix command of one operation over a 2 by 2 tile with INT8 operands and INT32 accumulators. -/
def tMat (op : Word) : MCmd :=
  { tLocker with
    f := [op, 0x10000, 0x12000, 0, 2 + 2 * 2 ^ 8 + (if op = 4 then 128 else if op = 0 ∨ op = 1 then 8 else if op = 2 then 32 else if op = 3 then 64 else 0) * 2 ^ 16, 64, 64, 3, 0, 0x10080,
      12 + 8 * 2 ^ 32, 0, 0, 0, 0],
    fmt := 0x0C00, locks := [], issued := 0, inSlot := false, noTag := false }

/-- Its array. -/
def tArray (c : MCmd) : State := { State.reset with cells := [(0, tCell)], quads := [(0, { cmds := [c], held := true })], cycle := 100000 }

/-- The state after an event. -/
def after (i : Instr) (s : State) : State :=
  match exec i s with
  | .next u => u
  | _ => s

theorem witness_MatrixStarts :
    (∀ e ∈ matStarts,
      let c := tMat (BitVec.ofNat 64 e.2)
      let x := (tArray c).quadAt 0
      nextToStart x.cmds = some c ∧ c.op = e.2 ∧ c.inSlot = false ∧ x.arb = false ∧ x.tileBusy c = false ∧ ((tArray c).cellAt 0).badRows = []) ∧
    (let c := tMat 5
     let x := (tArray c).quadAt 0
     nextToStart x.cmds = some c ∧ c.op = 5 ∧ x.tileBusy c = false ∧ x.convMainXor = []) ∧
    (nextToStart ((tArray { tMat 0 with st := 1 }).quadAt 0).cmds = none) ∧ 0 < tM (tMat 0).f ∧ 0 < tN (tMat 0).f ∧ fmtAcc (tMat 0).fmt = 12 := by decide

/-- A path whose first byte is spoilt, so that the array's signatures differ. -/
def tSpoilt (c : MCmd) : State := { tArray c with quads := [(0, { cmds := [c], held := true, mainXor := [(0, 1)] })] }

/-- A drain whose last unit stands in the commit buffer. -/
def tDrained : State := after .mdrain (tArray (tMat 5))

/-- The command at the head of the array has computed, both its signatures agree or not, and it may be compared. -/
def compares (s : State) (agree : Bool) : Bool :=
  match (s.quadAt 0).head with
  | some c => c.st == 1 && !c.bad && c.half.isSome && ((s.quadAt 0).stageBad c).isNone && c.clash.isEmpty && (c.main.length == tM c.f * (tN c.f * accBytes c.fmt)) &&
      ((crc64 crcInit c.main == crc64 crcInit c.mirror) == agree) && decide (tRow0 c.f + tM c.f ≤ 128) && decide ((tCol0 c.f + tN c.f) * accBytes c.fmt ≤ 512)
  | none => false

theorem witness_MatrixCommits :
    compares (after .mmaz (tArray (tMat 1))) true = true ∧ compares (after .mmaz (tSpoilt (tMat 1))) false = true ∧
    ((after .mmaz { tArray (tMat 1) with badWords := [spAddr 0 0x10000] }).quadAt 0).head.map (fun c => c.bad) = some true ∧
    (let s := after .commandCompare (after .mmaz (tSpoilt (tMat 1)))
     ((s.quadAt 0).cmds.find? (fun c => c.st == 2)).isSome = true ∧
     (((after .arbitrationDone { s with cycle := 200000 }).quadAt 0).cmds.find? (fun c => c.st == 3)).isSome = true) ∧
    (tDrained.quadAt 0).head.map (fun c => decide (c.st = 1 ∧ c.unit + 1 = c.units ∧ tDrained.unitPlaced c = true ∧ c.dests.Nodup ∧ (∀ y ∈ c.dests, y < 0x400000) ∧ tSigen c.f = false ∧
      crc64 crcInit ((c.unitBytes c.unit c.main).map (fun y => y.2)) = crc64 crcInit ((c.unitBytes c.unit c.mirror).map (fun y => y.2)) ∧
      (∀ y ∈ (tDrained.cellAt 0).cbuf, y.2.kind = 1 ∧ y.2.bad = 0 ∧ y.2.sig = true ∧ y.2.cmd = c.id ∧ c.storeWords.contains y.2.word = true) ∧
      (∀ y ∈ c.storeWords, (tDrained.cellAt 0).cbuf.any (fun h => h.2.word == y) = true) ∧ ((tDrained.cellAt 0).cbuf.map (fun y => y.2.word)).Nodup)) = some true ∧
    (∀ o ∈ (tDrained.quadAt 0).cmds, o.locks = [] ∧ o.part = false ∧ o.reruns = []) ∧
    (∀ w ∈ [([] : List (Nat × Word)), [(0, 1)]],
      let h := { tMat 6 with walk := w }
      let x := (tArray h).quadAt 0
      x.cmds.find? (fun c => c.op == 6 && !c.tagged) = some h ∧ h.inSlot = false ∧ x.inFlight < 16 ∧ x.cmds.countP (fun o => o.same h) = 1 ∧ h.ofWalk = none ∧ h.owed = [] ∧ h.st = 0) := by
  and_intros <;> decide +kernel

/-- A vector command on rows 5, 6 and 7 whose element type is code 2. -/
def tVec (op : VOp) : VCmd :=
  { tVcmd with op := op, a := BitVec.ofNat 64 (5 + 6 * 2 ^ 9 + 7 * 2 ^ 18 + 9 * 2 ^ 27 + 2 * 2 ^ 36), inSlot := false }

/-- It, whose rows have all begun. -/
def tBegun (op : VOp) : VCmd := { tVec op with started := some 5, steps := (tVec op).rows }

/-- Cell 0 with one vector command, named by the event. -/
def tVecAt (v : VCmd) : State := { tAt .C { tCell with vcmds := [v] } with site := { n := 1 } }

/-- A tensor access of two elements. -/
def tTensor (load : Bool) : Tensor :=
  { id := 1, load := load, queue := 0, esize := 2, elems := [(0, 0x1000, 0x5000), (1, 0x1004, 0x5004)], row := 0, tokens := [], pc := 1, issued := 0, inSlot := false }

theorem witness_VectorAndTensorEvents :
    (let v := tVec .vadd
     let s := tVecAt v
     s.cur.vcmds.head? = some v ∧ v.started = none ∧ v.steps = 0 ∧ v.op.isRed = false ∧ s.levelOf s.here ≠ 2 ∧ v.inSlot = false ∧ (v.qa || v.qb || v.qc || v.qd) = false ∧ v.ty < 8 ∧
     v.sat = false ∧ v.writes = [] ∧ (s.quadAt (quadOf s.here)).cmds = [] ∧ v.rows = 1) ∧
    (let v := { tBegun .vadd with bad := some 7 }
     let s := tVecAt v
     s.vecDue = some v ∧ s.cur.bound.isSome = true ∧ s.cur.stop = none ∧ s.cur.tin = false) ∧
    (let v := { tBegun .vadd with writes := [⟨5, 1, 255⟩] }
     let s := tVecAt v
     s.vecDue = some v ∧ v.bad = none ∧ v.late = none ∧ v.lost = none ∧ v.op.isMem = false ∧ v.op.isStat = false ∧ s.outstanding (.vector s.here v.id) = false ∧ s.cur.badRows = [] ∧
     v.clash = [] ∧ (v.writes.map (fun y => y.row)).Nodup ∧ ∀ y ∈ v.writes, y.row < 1000) ∧
    (let s := tVecAt (tBegun .vcmp)
     (s.vecDue).map (fun v => decide (v.op = .vcmp)) = some true) ∧
    (let s := tVecAt { tBegun .vmcnt with b := 1 }
     (s.vecDue).map (fun v => decide (v.op = .vmcnt ∧ bits v.b 2 0 ≠ 0)) = some true) ∧
    (∀ op ∈ [VOp.vgather, .vscatter],
      let v := { tBegun op with addrs := [(0, 0x1000, 0x5000), (3, 0x1008, 0x5008)] }
      let s := tVecAt v
      let n := tyBits v.ty / 8
      s.vecDue = some v ∧ v.sent = false ∧ s.elemsClear s.here v = true ∧ s.outstanding (.vector s.here v.id) = false ∧ v.ty < 12 ∧ (v.addrs.map (fun e => e.1)).Nodup ∧
      (v.addrs.map (fun e => e.2.1)).Nodup ∧ (∀ e ∈ v.addrs, e.1 < tyLanes v.ty ∧ s.plainAt e.2.1 n = true ∧ s.wordHeld e.2.1 = false ∧ e.2.1 % n = 0) ∧ s.badWords = []) ∧
    (∀ load ∈ [true, false],
      let x := tTensor load
      let s := { tAt .L { tCell with tensors := [x] } with site := { n := 1 } }
      s.cur.tensors.find? (fun x => x.id == s.site.n) = some x ∧ x.sent = false ∧ s.outstanding (.tensor s.here x.id) = false ∧ (x.elems.map (fun e => e.1)).Nodup ∧
      (∀ e ∈ x.elems, (e.1 + 1) * 2 ^ x.esize ≤ 512 ∧ s.plainAt e.2.1 (2 ^ x.esize) = true ∧ s.forkClear s.here .L e.2.1 (2 ^ x.esize) = true ∧
        s.forkClear s.here .S e.2.1 (2 ^ x.esize) = true ∧ s.wordHeld e.2.1 = false ∧ e.2.1 % 2 ^ x.esize = 0) ∧ (x.elems.map (fun e => e.2.1)).Nodup ∧ s.badWords = []) ∧
    (∀ st ∈ [(0 : BitVec 3), 2, 3],
      let f : Fill := { slot := 1, line := 7, status := st, issued := 0 }
      let s := { tAt .L { tCell with fills := [f] } with site := { n := 1 }, cycle := 400000 }
      s.cur.fills.find? (fun f => f.slot == s.site.n) = some f ∧ s.levelOf s.here ≠ 2 ∧ f.issued + 360000 ≤ s.cycle) := by
  and_intros <;> decide +kernel

theorem witness_VectorAndTensorEvents_away :
    (∀ op ∈ [VOp.vgather, .vscatter],
      let v := { tBegun op with addrs := [(0, 7 * 2 ^ 36 + 0x1000, 0x5000)] }
      let s := tVecAt v
      s.vecDue = some v ∧ v.bad = none ∧ v.sent = false ∧ s.elemsClear s.here v = true ∧ v.ty < 12 ∧
      ∀ e ∈ v.addrs, e.2.1 < replFlag ∧ homeDie e.2.1 ≠ s.here / 64 ∧ s.asked (.vector s.here v.id) e.1 = false) ∧
    (∀ op ∈ [VOp.vamax, .vhist, .vstatrd, .vstatclr],
      let v := tBegun op
      let s := tVecAt v
      s.vecDue = some v ∧ v.op.isStat = true ∧ v.acted = false ∧ s.cur.vcmds = [v] ∧ v.late = none ∧ v.lost = none ∧ s.outstanding (.vector s.here v.id) = false) ∧
    (let x := { tTensor false with sent := true, lost := some 0x5000 }
     let s := { tAt .L { tCell with tensors := [x] } with site := { n := 1 } }
     s.cur.tensors.find? (fun x => x.id == s.site.n) = some x ∧ s.outstanding (.tensor s.here x.id) = false) ∧
    (let f : Fill := { slot := 1, line := 7, status := 0, issued := 0 }
     let a : Ask := { owner := .fill 0 1, idx := 0, pa := 7 * 2 ^ 36, n := 128, num := 1, ans := some .bad, back := true }
     let s := { tAt .L { tCell with fills := [f] } with site := { n := 1 }, cycle := 400000, asks := [a] }
     s.cur.fills.find? (fun f => f.slot == s.site.n) = some f ∧ s.asks.find? (fun a => a.owner == .fill s.here f.slot) = some a) := by
  and_intros <;> decide +kernel

/-- Fields of a copy of n bytes from 0x10000 to 0x10040, or between pages of 2 MiB. -/
def tFields (op : Word) (n : Word) : List Word :=
  if n < 0x1000 then [op, 0x10000, 0x10040, 0, 0, n, 0, 0, 0, 0, 0, 0, 0, 0, 0] else [op, 0x200000, 0x400000, 0, 0, n, 0, 0, 0, 0, 0, 0, 0, 0, 0]

/-- Cell 0 with one copy, named by the event. -/
def tCopies (x : Copy) (st : Option Stop) : State :=
  { tAt .K { tCell with tlb := tPages ++ [⟨0, 24, 0, true, false⟩], copies := [x], stop := st } with site := { n := 2 } }

/-- Every piece of a copy from one byte to another can be read and written. -/
def piecesOk (s : State) (x : Copy) (n done last : Nat) : Bool := (piecesOf x.srcSide x.dstSide n done last).all (fun p => s.pieceOk x p)

/-- A reducing write of 4 bytes at 0x1000. -/
def tRed (span sq sreg : Nat) : RedWrite := { id := 50, parts := [(0x1000, [1, 2, 3, 4])], red := 0, sreg := sreg, sq := sq, span := span, owner := .none }

theorem witness_CopiesAndArrivingWrites :
    (let x := tCopy (tFields 0 100)
     let s := tCopies x none
     s.copyReady = some x ∧ cOp x.f = 0 ∧ cSshape x.f = false ∧ cDshape x.f = false ∧ s.badWords = [] ∧ x.done < x.total ∧ x.cancelled = false ∧ s.cur.tin = false ∧
     piecesOk s x (x.total + 1) 0 x.total = true) ∧
    (let x := tCopy (tFields 5 8)
     let s := tCopies x none
     let ps := piecesOf x.srcSide x.dstSide (x.total + 1) 0 x.total
     let x2 := tCopy ((tFields 5 8).set 9 (crc64 crcInit ((s.pieceWrites (.copy 0 2) ps).flatMap (fun w => w.bytes))))
     s.copyReady = some x ∧ cOp x.f = 5 ∧ 0 < x.total ∧ ps.all (fun p => s.pieceOk x p) = true ∧
     crc64 crcInit ((s.pieceWrites (.copy 0 2) ps).flatMap (fun w => w.bytes)) ≠ Machine.fld x.f 9 ∧ (tCopies x2 none).copyReady = some x2 ∧ x2.total = x.total) ∧
    (let x := { tCopy ((tFields 0 100).set 7 0x10201) with sent := true }
     let s := tCopies x none
     s.cur.copies.find? (fun x => x.id == s.site.n) = some x ∧ s.outstanding (.copy 0 2) = false ∧ s.transfers = [] ∧ cReq x.f = true ∧
     (s.plainVa (cCsaddr x.f) true).any (fun pa => s.forkClear s.here x.seq pa 8 && s.reaches (s.here / 64) (homeDie pa)) = true) ∧
    (let x := { tCopy ((tFields 0 100).set 12 0x4003) with sent := true }
     let s := { tCopies x none with cells := [(0, { tCell with copies := [x], remBusy := some 2 })] }
     s.cur.copies.find? (fun x => x.id == s.site.n) = some x ∧ s.outstanding (.copy 0 2) = false ∧ cReq x.f = false ∧ s.levelOf s.here ≠ 2 ∧ fNoTag x.f = false ∧ fCtrEn x.f = true ∧
     s.cur.remBusy = some x.id) ∧
    (let w : InWrite := { pa := spAddr 0 0x80, bytes := [1, 2, 3], owner := .none }
     let s := { tAt .K tCell with inWrites := [w] }
     let t := { s with quads := [(0, { cmds := [tLocker] })] }
     s.inWrites[s.site.n]? = some w ∧ w.pa < replFlag ∧ s.badWords = [] ∧ s.wordHeld w.pa = false ∧ t.wordHeld w.pa = true ∧ (t.cellAt (spCell w.pa)).freeEntry.isSome = true) ∧
    (∀ r ∈ [(0, 0, 1, 0), (6, 5, 1, 5), (6, 3, 1, 5), (3, 6, 1, 0)],
      let w := tRed r.1 r.2.1 r.2.2.1
      let s := { tAt .K tCell with redWrites := [w], homeNext := [(1, BitVec.ofNat 32 r.2.2.2)] }
      s.redWrites[s.site.n]? = some w ∧ w.parts.head?.map (fun (p : Nat × List Byte) => decide (p.1 < replFlag ∧ p.2.length = 4 ∧ p.1 % 4 = 0 ∧ s.wordHeld p.1 = false)) = some true ∧
      s.redHeld = [] ∧ inSp w.pa = false) ∧
    ({ tAt .K tCell with homeNext := [(1, 5)] } : State).seqNextOf 0x1000 1 = 5 := by
  and_intros <;> decide +kernel

theorem witness_CopiesAndArrivingWrites_away :
    (let x := tCopy ((tFields 0 64).set 1 0x20000)
     let s := tCopies x none
     let p : Piece := ⟨0, 0x20000, 0x10040, 64⟩
     s.copyReady = some x ∧ (piecesOf x.srcSide x.dstSide (x.total + 1) 0 x.total).head? = some p ∧ s.plainVa p.src false = some (7 * 2 ^ 36 + 0x50000) ∧
     homeDie (7 * 2 ^ 36 + 0x50000) ≠ s.here / 64 ∧ s.forkClear s.here x.seq (7 * 2 ^ 36 + 0x50000) p.n = true ∧ s.asks = []) ∧
    (∀ crc ∈ [0, 5],
      let x := { tCopy (tFields 5 8) with staged := true, crc := BitVec.ofNat 64 crc }
      let s := { tCopies x none with inWrites := [{ pa := 0x50040, bytes := [1], owner := .copy 0 2, stage := true }] }
      s.copyReady = some x ∧ Machine.fld x.f 9 = 0 ∧ s.pairs = [] ∧ (s.inWrites[0]?).map (fun w => w.stage) = some true) := by
  and_intros <;> decide +kernel

/-- Cell 0 pre-empted with a copy of 2 MiB in progress, all of whose bytes lie on one page. -/
def tBig : State :=
  { tAt .K { tCell with tlb := [⟨0, 24, 0, true, false⟩], copies := [tCopy (tFields 0 0x200000)], stop := some .preempt } with site := { n := 2 } }

theorem tBig_va (va : Word) (wr : Bool) (h : va.toNat < 2 ^ 24) : tBig.plainVa va wr = some va.toNat := by
  have hh : TlbEntry.hits va.toNat ⟨0, 24, 0, true, false⟩ = true := by simp only [TlbEntry.hits, decide_eq_true_eq]; omega
  have ht : tBig.translate tBig.here va wr = .ok (va.toNat, false, tBig) := by
    have hp : tBig.page tBig.here va.toNat = .ok (⟨0, 24, 0, true, false⟩, tBig) := by
      have hc : (tBig.cellAt tBig.here).tlb = [⟨0, 24, 0, true, false⟩] := by decide
      rw [State.page, if_neg (by decide), hc, List.find?_cons_of_pos hh]
    simp only [State.translate, hp]
    rw [if_neg (by omega), if_neg (by simp only [localBase]; omega)]
    have hl : tBig.leafUp ⟨0, 24, 0, true, false⟩ = true := by decide
    simp only [hl, Nat.zero_add, Bool.not_true, Bool.and_false, Bool.or_self, Bool.false_eq_true, if_false]
    rw [Nat.mod_eq_of_lt h]
  simp only [State.plainVa, ht, if_true]

/-- The bytes of a contiguous copy lie behind one another. -/
theorem pieces_run (a b : Word) (fuel pos stop : Nat) :
    ∀ p ∈ piecesOf (.run a) (.run b) fuel pos stop, ∃ i, i < stop ∧ p.src = a + BitVec.ofNat 64 i ∧ p.dst = b + BitVec.ofNat 64 i := by
  induction fuel generalizing pos with
  | zero => simp [piecesOf]
  | succ n ih =>
    intro p hp
    simp only [piecesOf, Side.at'] at hp
    split at hp
    · simp at hp
    · rcases List.mem_cons.1 hp with rfl | hp
      · exact ⟨pos, by omega, rfl, rfl⟩
      · exact ih _ p hp

theorem tBig_piece (x : Copy) (p : Piece) (hs : p.src.toNat < 2 ^ 24) (hd : p.dst.toNat < 2 ^ 24) : tBig.pieceOk x p = true := by
  have home : ∀ n, n < 2 ^ 24 → homeDie n = 0 := by
    intro n hn
    have : inSp n = false := decide_eq_false (by simp only [spWindow]; omega)
    simp only [homeDie, this]
    simp
    omega
  have fork : ∀ q a n, tBig.forkClear tBig.here q a n = true := by intro q a n; cases q <;> rfl
  have bad : ∀ a n, tBig.badRead a n = false := fun _ _ => rfl
  have here : tBig.here / 64 = 0 := by decide
  have : p.src.toNat < replFlag := by simp only [replFlag]; omega
  simp [State.pieceOk, tBig_va _ _ hs, tBig_va _ _ hd, State.plainAt, home _ hs, fork, bad, here, this]

theorem witness_CopiesAndArrivingWrites_boundary :
    (let x := tCopy (tFields 0 0x200000)
     tBig.copyReady = some x ∧ x.done + 0x100000 < x.total ∧ x.cancelled = false ∧ tBig.cur.stop = some .preempt) ∧
    (∀ p ∈ piecesOf (tCopy (tFields 0 0x200000)).srcSide (tCopy (tFields 0 0x200000)).dstSide 0x100001 0 0x100000, tBig.pieceOk (tCopy (tFields 0 0x200000)) p = true) := by
  refine ⟨by decide +kernel, fun p hp => ?_⟩
  have ha : (tCopy (tFields 0 0x200000)).srcSide = .run 0x200000 := by decide
  have hb : (tCopy (tFields 0 0x200000)).dstSide = .run 0x400000 := by decide
  rw [ha, hb] at hp
  obtain ⟨i, hi, h1, h2⟩ := pieces_run _ _ _ _ _ p hp
  exact tBig_piece _ p (by rw [h1]; simp; omega) (by rw [h2]; simp; omega)

/-- The poster of an entry of cell 0's group. -/
def tPoster : Poster := { cell := 0, launch := 1, group := 0, level := 0, seq := .K, pc := 9, tag := some 5, noTag := false, tokens := [] }

/-- The words of an entry: operation, whether and where it goes away, bytes, the counters that it waits for and increments. -/
def tEntryW (op away bytes wait inc : Nat) : List Word :=
  ([op + away * 2 ^ 8, 0x10000, 0x10040, bytes + 4 * 2 ^ 40, 0, wait, inc, 0] : List Nat).map (BitVec.ofNat 64)

/-- An entry of engine 1 that has fired. -/
def tEntry (w : List Word) : Entry := { addr := 0x10080, w := w, poster := tPoster, done := none, sent := false, id := 2, eng := 1, due := 0 }

/-- Engine 1 of rim die 16 with entries, under a root table that maps the first 32 GiB to themselves. -/
def tEngine (g : Engine) (mem : List Host.Cell) : State :=
  { State.reset with
    cells := [(0, tCell)], launches := [{ tLaunch with bound := [(0, 0)] }], links := tLinks, engines := [(1, g)], xlV := true, xlRoot := 1,
    mem := Memory.writes 0 mem (2 ^ 20) (leBytes 8 7), cycle := 1000000, site := { die := 0, cell := 0, eng := 1, n := 2 } }

/-- An entry at 0x10080. -/
def tStored (w : List Word) : List Host.Cell := Memory.writes 0 [] 0x10080 (w.flatMap (fun x => leBytes 8 x.toNat))

/-- The good answer to a read of an owner. -/
def tAnswer (o : Owner) (idx pa : Nat) (bs : List Byte) : Ask := { owner := o, idx := idx, pa := pa, n := bs.length, num := 1, ans := some (.ok bs), back := true }

/-- The chain at 0x10080 and the engine that is to arm its entry, with what else the engine has read. -/
def tChain (w : List Word) (entry : Option (List Word)) (asks : List Ask) : State :=
  { tEngine { arming := [{ addr := 0x10080, poster := tPoster, entry := entry }] } (tStored w) with asks := asks }

/-- What the arming of the entry asks of the state but for the entry itself. -/
def armReady (s : State) : Bool :=
  match (s.engineAt 1).arming.head? with
  | some a =>
    a.net == 0 && s.dieUp 16 && s.badWords.isEmpty && (s.entryAgentOf a.poster 1 a.addr == some 1024) && (s.agentVa 1024 a.addr false == some 0x10080) &&
    (s.agentVa 1024 (a.addr + 55) true == some 0x100B7) && homeDie 0x10080 != 16 && s.forkClear 1024 a.poster.seq 0x10080 64 && s.posterCell a.poster == some 0 &&
    !s.outstanding (.chain 1)
  | none => false

/-- What an entry asks of the state to go: it is the next of its engine, and every piece of it can be moved, or be asked for. -/
def entryGoes (w : List Word) (asks : List Ask) : Bool :=
  let e := tEntry w
  let s := { tEngine { fired := [e] } [] with asks := asks }
  (s.entryReady == some e) && s.badWords.isEmpty && (piecesOf (.run (e.w.getD 1 0)) (.run (e.w.getD 2 0)) (entryField e.w 3 39 0 + 1) 0 (entryField e.w 3 39 0)).all
    (fun p => if asks.isEmpty then !s.asked (.entry 1 2) p.pos && (s.entryAgentOf e.poster 1 p.src).any (fun k => (s.agentVa k p.src false).any (fun a => homeDie a != 16 && s.forkClear k .K a p.n))
      else s.entryPieceOk e false p && s.entryPieceOk e true p)

/-- The answer to its one piece. -/
def tPiece : List Ask := [tAnswer (.entry 1 2) 0 0x10000 (List.replicate 64 7)]

theorem witness_Collectives_arming :
    (armReady (tChain (tEntryW 0 0 64 0 0) none []) = true ∧ (tChain (tEntryW 0 0 64 0 0) none []).asked (.chain 1) 0 = false) ∧
    (∀ op ∈ [0, 3],
      let w := tEntryW op 0 64 0 0
      let bs := w.flatMap (fun x => leBytes 8 x.toNat)
      let s := tChain w none [tAnswer (.chain 1) 0 0x10080 bs]
      armReady s = true ∧ s.gotFor (.chain 1) 0 = some bs ∧ wordsIn bs = w ∧ entryField w 0 1 0 = op) ∧
    (let w := tEntryW 0 0 64 (5 + 2 ^ 14 + 9 * 2 ^ 16) 0
     let s := tChain w (some w) []
     armReady s = true ∧ entryField w 5 14 14 = 1 ∧ entryField w 5 13 0 = 5 ∧ (s.counterAt 5).value.toNat < entryField w 5 63 16 ∧ s.cidUp 5 = true ∧ (s.counterAt 5).lost = false ∧
     (s.engineAt 0).armed.length < 4096) ∧
    (let s := { tChain (tEntryW 0 0 64 0 0) (some (tEntryW 0 0 64 0 0)) [] with inWrites := [{ pa := 0x100B7, bytes := [0], owner := .chain 1 }] }
     s.outstanding (.chain 1) = true) ∧
    ((tEngine { arming := [{ addr := 0x10080, poster := tPoster, net := 4 }] } []).engineAt 1).arming.map (fun a => a.net) = [4] := by
  and_intros <;> decide +kernel

theorem witness_Collectives :
    (entryGoes (tEntryW 0 0 64 0 0) [] = true ∧ entryGoes (tEntryW 0 0 64 0 0) tPiece = true ∧ entryGoes (tEntryW 1 0 64 0 0) tPiece = true ∧ entryGoes (tEntryW 0 0 0 0 0) [] = true ∧
      entryGoes (tEntryW 1 0 0 0 0) [] = true ∧ entryGoes (tEntryW 2 0 0 0 0) [] = true ∧ entryGoes (tEntryW 0 (1 + 5 * 2) 64 0 0) tPiece = true) ∧
    (let s := { tEngine {} [] with ports := [(5, { stage := .active })] }
     s.portFor 5 ≠ none ∧ (tEngine {} []).portFor 5 = none ∧ entryField (tEntryW 0 (1 + 5 * 2) 64 0 0) 0 27 9 = 5 ∧ s.pkgId.toNat ≠ 5) ∧
    (∀ told ∈ [false, true],
      let e := { tEntry (tEntryW 0 0 64 0 (3 + 2 ^ 14)) with sent := true, told := told }
      let s := tEngine { fired := [e] } []
      (s.engineAt 1).fired.find? (fun e => e.id == s.site.n) = some e ∧ s.outstanding (.entry 1 e.id) = false ∧ s.outstanding (.status 1 e.id) = false ∧ s.transfers = [] ∧
      s.entryAgentOf e.poster 1 e.addr = some 1024 ∧ s.agentVa 1024 (e.addr + 55) true = some 0x100B7 ∧ entryField e.w 6 14 14 = 1) ∧
    (let i : Inc := { cid := 3, amount := 1, fold := 77 }
     let s := { tEngine {} [] with incs := [i], site := { n := 0 } }
     s.incs[s.site.n]? = some i ∧ s.cidUp 3 = true ∧ ({ s with oosDies := [16] } : State).cidUp 3 = false) ∧
    (let i : Inc := { cid := 3, amount := 1, fold := 77, decl := some (1, 0, 2000000) }
     let s := { tEngine {} [] with incs := [i], site := { n := 0 } }
     s.incs[s.site.n]? = some i ∧ s.cycle < 2000000) ∧
    (let s := tEngine {} []
     let c : Chunk := { s.site.chunk with srcPkg := 7, num := 0, kind := .write, va := 0x10000, bytes := [1, 2, 3] }
     c.num - NatMap.get 0xFFFF s.chunkLast 7 = 1 ∧ s.chunksIn = [] ∧ (piecesOf (.run 0) (.run c.va) 4 0 3).all (fun q => (s.agentVa 1024 q.dst true).isSome) = true) ∧
    (∀ n ∈ [1, 8],
      let t : Transfer := { pkg := 5, num := 3, port := 5, va := 0x10000, bytes := [1, 2, 3], kind := .write, sends := n, sent := 0, owner := .entry 1 2 }
      let s := { tEngine { fired := [{ tEntry (tEntryW 0 11 3 0 0) with sent := true }] } [] with transfers := [t], ports := [(5, { stage := .active }), (8, { stage := .active })], site := { eng := 1, n := 0 } }
      s.transfers[s.site.n]? = some t ∧ s.unreached = [] ∧ s.site.yes = false ∧ t.sent + 112500 ≤ s.cycle ∧
      (((List.range 32).map (fun i => (t.port + 1 + i) % 32)).find? s.portUp).isSome = true ∧ (s.engineAt 1).fired.any (fun y => y.id == 2 && y.done.isNone) = true) := by
  and_intros <;> decide +kernel

/-- The posts of a two-member exchange on this package. -/
def tHomePost (i : Nat) : Post := { tPost i with memtab := [0, 0], home := 0, rlen := 0x1000, demand := if i = 0 then [0, 64] else [0, 0] }

/-- The arbiter's slot of exchange 3, on rim die 19, with what changes from one state to another. -/
def tX (st : Nat) (posts : List Post) : XSlot := { xid := 3, nmem := 2, st := st, standby := false, active := true, posts := posts, mtsig := 9 }

/-- The arbiter of exchange 3 at a message. -/
def tArbiter (slots : NatMap XSlot) (m : XMsg) (ms : List Member) : State :=
  { State.reset with
    cells := [(0, { tCell with tlb := tPages })], launches := [{ tLaunch with bound := [(0, 0)] }], links := tLinks, xslots := slots, xmsgs := [m], members := ms,
    xlV := true, xlRoot := 1, mem := Memory.writes 0 [] (2 ^ 20) (leBytes 8 7), cycle := 1000000, site := { die := 0, cell := 0, rim := 19, n := 0 } }

/-- The calendar of one grant of 64 bytes from member 0 to member 1. -/
def tCal : List Grant := [⟨0, 1, 1, 64⟩]

/-- A member of exchange 3 on this package, whose tables lie on pages that the root table maps. -/
def tHere (i : Nat) : Member := { tMember i with post := tHomePost i, srctab := 0x10000, rbase := 0x30000, grtab := 0x10100 }

theorem witness_IrregularExchange_posts :
    (let m := XMsg.post 19 false false (tHomePost 1)
     let s := tArbiter [(48, tX 1 [tHomePost 0])] m []
     s.theX = some m ∧ s.dieUp (s.roleDie (tHomePost 1) false) = true ∧ NatMap.rising s.xslots = true ∧ s.slotOf 3 false = some (48, tX 1 [tHomePost 0]) ∧
     (∀ i, i < 2 → ∃ q ∈ [tHomePost 0, tHomePost 1], q.member = i) ∧ (∀ q ∈ [tHomePost 0, tHomePost 1], q.home = s.pkgId ∧ q.nmem = 2 ∧ q.mtsig = 9 ∧ q.member < 2) ∧
     [tHomePost 0, tHomePost 1].Pairwise (fun a b => a.member ≠ b.member) ∧ ¬ [tHomePost 1, tHomePost 1].Pairwise (fun a b => a.member ≠ b.member)) ∧
    (let x := { tX 1 [tHomePost 0] with nmem := 3 }
     let s := tArbiter [(48, x)] (.post 19 false false (tHomePost 1)) []
     s.slotOf 3 false = some (48, x) ∧ ∀ p ∈ [tHomePost 0, { tHomePost 1 with nmem := 3 }], ∃ i, i < 3 ∧ ∀ q ∈ [tHomePost 0, { tHomePost 1 with nmem := 3 }], q.member ≠ i) ∧
    ((tArbiter [(48, tX 4 [])] (.post 19 false false (tHomePost 1)) []).slotOf 3 false).map (fun e => e.2.st) = some 4 ∧
    (let s := tArbiter [] (.post 19 false false (tHomePost 1)) []
     s.slotOf 3 false = none ∧ (s.freeX (s.roleDie (tHomePost 1) false)).isSome = true ∧ s.waitingPosts (s.roleDie (tHomePost 1) false) = [] ∧
     ({ s with xmsgs := [.post 19 false true { tHomePost 0 with xid := 2 }, .post 19 false false (tHomePost 1)] } : State).waitingPosts 19 = []) ∧
    (let s := tArbiter ((List.range 16).map (fun i => (48 + i, { tX 1 [] with xid := 50 + i }))) (.post 19 false false (tHomePost 1)) []
     s.slotOf 3 false = none ∧ s.freeX (s.roleDie (tHomePost 1) false) = none) := by
  and_intros <;> decide +kernel

theorem witness_IrregularExchange_phases :
    (let m := XMsg.row 3 0 1 [0, 0] [0, 0] tCal [0, 0]
     let s := { tArbiter [] m [tHere 0] with asks := [tAnswer (.table 3 0) 0 0x10000 (List.replicate 32 0)] }
     let p : Piece := ⟨0, 0x10000, 0, 32⟩
     s.theX = some m ∧ s.member? 3 0 = some (tHere 0) ∧ s.badWords = [] ∧ (tHere 0).sources = none ∧ piecesOf (.run 0x10000) (.run 0) 33 0 32 = [p] ∧
     (s.gotAll (.table 3 0) [p]).isSome = true ∧ s.memberAgent (tHere 0) p.src = some 1024 ∧ (tArbiter [] m [tHere 0]).asked (.table 3 0) 0 = false ∧
     s.agentVa 1024 p.src false = some 0x10000 ∧ s.forkClear 1024 .K 0x10000 32 = true ∧ homeDie 0x10000 ≠ 16 ∧
     ((tArbiter [] m [{ tHere 0 with sources := some [] }]).member? 3 0).map (fun m => m.sources.isSome) = some true) ∧
    (let a := { tHere 0 with sources := some [(0x20000, 0), (0x20000, 64)], row := tCal, rowOffs := [0, 0], nphase := 1 }
     let m := XMsg.phase 3 0 1 0
     let s := { tArbiter [] m [a, tHere 1] with asks := [tAnswer (.grant 3 1 0 1) 0 0x20000 (List.replicate 64 9)] }
     let ps := piecesOf (.run 0) (.run 0x30000) 65 0 64
     s.theX = some m ∧ s.member? 3 0 = some a ∧ a.epoch ≤ 0 ∧ s.dieUp (16 + a.post.eng / 4) = true ∧ a.row.filter (fun x => x.phase == 1) = [⟨0, 1, 1, 64⟩] ∧
     a.post.memtab.getD 1 0 = s.pkgId ∧ (s.gotAll (.grant 3 1 0 1) (piecesOf (.run 0x20000) (.run 0) 65 0 64)).isSome = true ∧ (s.memberAgent a 0x20000).isSome = true ∧ s.member? 3 1 = some (tHere 1) ∧ (tHere 1).post.xid = 3 ∧ (tHere 1).post.member = 1 ∧
     ps.all (fun p => (s.agentVa (64 * 16) p.dst true).isSome) = true ∧ min 64 ((a.sources.getD []).getD 1 (0, 0)).2 = 64) := by
  refine ⟨?_, ?_⟩ <;> decide +kernel

/-- A slot whose phases are under way. -/
def tRunX (cal : List Grant) (n closed openPh : Nat) : XSlot := { tX 3 [tHomePost 0, tHomePost 1] with calendar := cal, nphase := n, closed := closed, openPh := openPh }

theorem witness_IrregularExchange_ends :
    (let m := XMsg.ack 0 19 3 1 0 1
     let s := tArbiter [(48, tRunX tCal 1 0 1)] m []
     s.theX = some m ∧ s.site.x = none ∧ s.outstanding (.grant 3 1 0 1) = false ∧ s.transfers = [] ∧ (s.slotOf 3 false).isSome = true ∧ s.pkgId = 0) ∧
    (let m := XMsg.acked false 3 1 0 1
     let x := tRunX tCal 1 0 1
     let s := tArbiter [(48, x)] m []
     s.theX = some m ∧ s.dieUp 19 = true ∧ ({ s with oosDies := [19] } : State).dieUp 19 = false ∧ x.st = 3 ∧ s.slotOf 3 false = some (48, x) ∧ x.closed + 1 = x.nphase ∧ x.openPh ≤ x.nphase ∧
     (∀ p ∈ x.posts, p.home = s.pkgId) ∧ x.calendar.all (fun g => g.phase != 1 || (x.acks ++ [(1, 0, 1)]).contains (1, g.snd, g.rcv)) = true) ∧
    (let m := XMsg.acked false 3 1 0 1
     let x := tRunX [⟨0, 1, 1, 64⟩, ⟨0, 1, 2, 64⟩] 2 0 1
     let s := tArbiter [(48, x)] m []
     s.slotOf 3 false = some (48, x) ∧ x.closed + 1 < x.nphase ∧ x.openPh ≤ x.closed + 1 ∧
     x.calendar.all (fun g => g.phase != 2 || (x.acks ++ [(1, 0, 1)]).contains (2, g.snd, g.rcv)) = false ∧
     (tRunX [⟨0, 1, 1, 64⟩, ⟨1, 0, 1, 64⟩] 1 0 1).calendar.all (fun g => g.phase != 1 || [(1, 0, 1)].contains (1, g.snd, g.rcv)) = false) ∧
    (let s := { tArbiter [] (.ack 0 19 3 1 0 1) [] with inWrites := [{ pa := 0x1000, bytes := [1], owner := .grant 3 1 0 1 }] }
     s.site.x = none ∧ s.outstanding (.grant 3 1 0 1) = true) ∧
    (∀ st ∈ [0, 5], ∀ closing ∈ [false, true],
      let a := { tHere 0 with sources := some [], ctrEn := true, closing := closing }
      let m := XMsg.finish 3 0 st
      let s := tArbiter [] m [a]
      s.theX = some m ∧ s.member? 3 0 = some a ∧ a.post.eng < 16 ∧ a.grtab.toNat % 16 = 0 ∧ s.outstanding (.received 3 0) = false ∧
      ∀ j, j < 2 → s.memberAgent a (a.grtab + BitVec.ofNat 64 (16 * j + 8)) = some 1024 ∧
        s.agentVa 1024 (a.grtab + BitVec.ofNat 64 (16 * j + 8)) true = some (0x10100 + 16 * j + 8)) ∧
    (((tArbiter [] (.finish 3 0 0) [tHere 0]).member? 3 0).map (fun m => m.sources.isNone) = some true) := by
  and_intros <;> decide +kernel

theorem witness_IrregularExchange_arbiters :
    (let x := tX 1 [tHomePost 0]
     let s := tArbiter [(48, x)] (.heartbeat 3) []
     (s.xslots.find? (fun x => x.1 == 16 * (s.site.rim - 16) + s.site.n)).map (fun x => x.2) = some x ∧ s.dieUp s.site.rim = true ∧ s.site.x = none ∧ x.alone = false ∧
     x.beat + 22500 ≤ s.cycle ∧ (∀ p ∈ x.posts, p.home = s.pkgId ∧ p.memtab.getD 0 0 = s.pkgId ∧ p.memtab.getD (p.nmem - 1) 0 = s.pkgId ∧ p.xid = x.xid) ∧
     (∀ y ∈ s.xslots, y.2.xid = x.xid → y.2.standby = true → s.dieUp (16 + y.1 / 16) = false)) ∧
    (let x := { tRunX tCal 1 0 1 with standby := true, active := false }
     let s := tArbiter [(48, x)] (.heartbeat 3) []
     (s.xslots.find? (fun x => x.1 == 16 * (s.site.rim - 16) + s.site.n)).map (fun x => x.2) = some x ∧ x.beat + 67500 ≤ s.cycle ∧ x.closed < x.nphase ∧ x.posts ≠ []) ∧
    (let s := { tArbiter [(48, tX 1 [tHomePost 0])] (.heartbeat 3) [] with oosDies := [19], site := { rim := 19, n := 0, yes := true } }
     ∀ y ∈ s.xslots, y.2.xid = 3 → s.dieUp (16 + y.1 / 16) = false) ∧
    (let m := XMsg.takeover 3 (some 0) none 50
     let s := tArbiter [] m [tHere 0]
     s.theX = some m ∧ s.member? 3 0 = some (tHere 0) ∧ (s.launch? (tHere 0).launch).isSome = true ∧ (tArbiter [] (.takeover 3 none (some 19) 50) []).theX = some (.takeover 3 none (some 19) 50)) := by
  refine ⟨by decide +kernel, by decide +kernel, by decide +kernel, by decide +kernel⟩

/-! ### The whole machine -/

/-- A turn of K of cell 0, whose program is one word. -/
def tTurn (pc code : Nat) : State :=
  { State.reset with agenda := [⟨3, .seq 0 0 .K⟩], cells := [(0, { tCell with k := { pc := BitVec.ofNat 64 pc, codeLen := 1, code := [(0, BitVec.ofNat 32 code)] } })] }

theorem witness_StepRunsDecoded :
    (let s := { tTurn 0 0x020A0024 with site := { die := 0, cell := 0, seq := .K } }
     s.mayIssue = true ∧ s.curSeq.pc.toNat < s.curSeq.codeLen ∧ readsAs [(NatMap.get 0 s.curSeq.code 0, .li 0 5 0x24)] = true ∧ (Instr.li 0 5 0x24).wf = true) ∧
    (let s := tTurn 1 0
     s.mayIssue = true ∧ s.curSeq.codeLen ≤ s.curSeq.pc.toNat) ∧
    (State.reset.mayIssue = false ∧ Instr.powerOn.isEvent = true ∧ ({} : Site).wf = true ∧ Instr.powerOn.atComputeDie = false) := by decide

/-- The step of that turn executes the instruction. -/
theorem test_step_li : (match step (tTurn 0 0x020A0024) with | .next u => decide (u.curSeq.greg 5 = 0x24 ∧ u.curSeq.pc = 1 ∧ u.cycle = 3) | _ => false) = true := by decide

theorem witness_StepKeepsMemory : MemOk State.reset ∧ ∃ u, step State.reset = .next u := by
  exact ⟨rfl, _, rfl⟩

theorem witness_Frame : encode (.li 0 5 0x24) = some 0x020A0024 ∧
    (match exec (.li 0 5 0x24) (tAt .K tCell) with | .next u => decide (u.curSeq.greg 5 = 0x24) | _ => false) = true := by decide

/-! ### The manual's own worked examples, one step or one operation each -/

/-- The value that a register of the sequencer of the step holds after an instruction that answers. -/
def regAfter (i : Instr) (d : Nat) (s : State) : Option Word :=
  match exec i s with
  | .next u => some (u.curSeq.greg d)
  | _ => none

/-- R298. -/
theorem test_mulh : (let s := tRegs .K tCell [(1, 0xFFFFFFFFFFFFFFFF)]
    regAfter (.mulh 0 5 1 1) 5 s = some 0 ∧ regAfter (.mulhz 0 5 1 1) 5 s = some 0xFFFFFFFFFFFFFFFE) := by decide

/-- R300. -/
theorem test_bit_fields : (let s := tRegs .K tCell [(1, 0xABCD00), (2, 0x13C8), (3, 0x12), (4, 0x1C4), (5, 0xFFFFFFFFFFFFFFFF)]
    regAfter (.bfx 0 6 1 2) 6 s = some 0xFFFFFFFFFFFFABCD ∧ regAfter (.bfi 0 5 3 4) 5 s = some 0xFFFFFFFFFFFFF12F) := by decide

/-- R302. -/
theorem test_lis : (let s := tRegs .K tCell [(5, 0x24)]
    let t := tRegs .K tCell [(5, 0x48D159)]
    let u := tRegs .K tCell [(5, 0x91A2B3C4D5)]
    regAfter (.lis 0 5 0x0D159) 5 s = some 0x48D159 ∧ regAfter (.lis 0 5 0x1C4D5) 5 t = some 0x91A2B3C4D5 ∧ regAfter (.lis 0 5 0x1CDEF) 5 u = some 0x0123456789ABCDEF) := by decide

/-- R14, R15: the dies and edges from 5 to 14. -/
theorem test_route : route false 5 14 = [5, 6, 10, 14] ∧ (edgesOf (route false 5 14)).map (fun e => e.1) = [4, 18, 22] := by decide

/-- R110, R160: two addresses. -/
theorem test_addresses : (let a := ssAddr 0x185480000038
    a.die = 3 ∧ a.kind = 0 ∧ a.unit = 21 ∧ a.blk = 2 ∧ a.off = 0x38) ∧ spAddr (64 * 3 + 21) 0x1000 = 0x100305401000 := by decide

/-- R140, R141: roundings to BF16 and to the formats of 8 bits; the last two are drawn. -/
theorem test_rounding :
    (let x (n : Nat) := fp32.decode n
     roundTo bf16 0 false 0 (x 0x3F808000) = 0x3F80 ∧ roundTo bf16 1 false 0 (x 0x3F808000) = 0x3F80 ∧ roundTo bf16 2 false 0 (x 0x3F808000) = 0x3F81 ∧
     roundTo bf16 0 false 0 (x 0x3F818000) = 0x3F82 ∧ roundTo bf16 3 false 0 (x 0xBF808000) = 0xBF81 ∧ roundTo e4m3 0 false 0 (ofInt 460) = 0x7E ∧
     roundTo e4m3 0 false 0 (ofInt 464) = 0x7F ∧ roundTo e4m3 0 true 0 (ofInt 464) = 0x7E ∧ roundTo e4m3 1 false 0 (ofInt 1000) = 0x7E ∧
     roundTo e5m2 0 false 0 (ofInt 61440) = 0x7C ∧ roundTo e5m2 2 false 0 (ofInt (-60000)) = 0xFB ∧ roundTo bf16 4 false 0xC12345 (x 0x3F804000) = 0x3F81 ∧
     roundTo bf16 4 false 0x123456 (x 0x3F804000) = 0x3F80) := by decide

end Sys2Proof.Tests
end

namespace Sys2Proof.Machine

-- One proof after another: the stacks of parallel elaboration would not fit the memory of the check.
set_option Elab.async false

/-! ### Reading the state after reset (R26) -/

@[simp] theorem State.reset_cellAt (k : Nat) : State.reset.cellAt k = {} := rfl

@[simp] theorem Cell.reset_seq (q : SeqId) : ({} : Cell).seq q = {} := by cases q <;> rfl

@[simp] theorem Seq.reset_greg (n : Nat) : ({} : Seq).greg n = 0 := by simp [Seq.greg, NatMap.get]

@[simp] theorem Seq.reset_pred (n : Nat) : ({} : Seq).pred n = decide (n = 0) := by
  cases n with
  | zero => rfl
  | succ n => simp [Seq.pred, BitVec.getLsbD_one]

/-- A stream's next SEQ is 0: LAST is the number before it (R28). -/
theorem State.reset_nextSeq (n : Nat) : (State.reset.streamAt n).last + 1 = 0 := by
  have hlast : (State.reset.streamAt n).last = 0xFFFF := rfl
  rw [hlast]; decide

/-- Settles O59: nothing is listed in a map of the reset state, so every part reads as its default. -/
theorem resetState : Obligations.ResetState := by
  refine ⟨rfl, rfl, rfl, rfl, rfl, rfl, rfl, rfl, fun k q n => ?_, fun k n => ⟨rfl, rfl, rfl, rfl⟩, fun k => ⟨rfl, rfl, rfl, rfl, rfl, rfl⟩,
    fun q => ⟨rfl, rfl, rfl, rfl⟩, fun c => ⟨rfl, rfl⟩, fun k => rfl, fun pa => rfl, fun k q n => ?_, fun k n => ⟨rfl, rfl, rfl, rfl, rfl, rfl, rfl, rfl⟩,
    fun n => rfl, fun n => ⟨State.reset_nextSeq n, rfl, rfl, rfl⟩, fun die edge m => ⟨rfl, rfl, rfl, rfl, rfl, rfl, rfl⟩, fun n => ⟨rfl, rfl, rfl⟩, fun p => rfl,
    fun d => ⟨rfl, rfl, rfl⟩, rfl, rfl, rfl, rfl, rfl, rfl, rfl, rfl⟩
  · rw [State.reset_cellAt, Cell.reset_seq]
    exact ⟨Seq.reset_greg n, rfl, rfl⟩
  · rw [State.reset_cellAt, Cell.reset_seq]
    exact ⟨rfl, Seq.reset_pred n, rfl, rfl, rfl⟩

/-! ### A package whose mesh is whole (R14, R16) -/

/-- With both dies in service and every edge of its dimension-order route up, a pair that takes that route goes on as it is. -/
theorem State.reroute_of_up {s : State} {a b : Nat} (ha : s.dieUp a = true) (hb : s.dieUp b = true) (he : ∀ x ∈ edgesOf (route false a b), s.edgeUp x.1 = true)
    (hroute : (s.pairAt a b).colFirst = false) (hcut : (s.pairAt a b).cut = none) : s.reroute a b = s := by
  have hr : s.routeOf a b = some false := by
    unfold State.routeOf
    rw [List.all_eq_true.2 he]
    simp [ha, hb]
  simp [State.reroute, hr, hroute, hcut]

/-- Every route between two dies of the package runs over its forty edges. -/
theorem route_edges_lt : ∀ p ∈ allPairs, ∀ x ∈ edgesOf (route false p.1 p.2), x.1 < 40 := by decide +kernel

/-- A package whose dies and edges are all up, and whose pairs are as they were at reset, changes no route. -/
theorem State.rerouteAll_of_up {s : State} (hdies : s.oosDies = []) (hedges : ∀ e < 40, s.edgeUp e = true) (hpairs : s.pairs = []) : s.rerouteAll = s := by
  have hup (d : Nat) : s.dieUp d = true := by simp [State.dieUp, hdies]
  have hpair (a b : Nat) : s.pairAt a b = {} := by simp [State.pairAt, hpairs, NatMap.get]
  refine List.foldlRecOn (motive := (· = s)) allPairs _ rfl fun u hu p hp => ?_
  rw [hu]
  exact State.reroute_of_up (hup _) (hup _) (fun x hx => hedges _ (route_edges_lt p hp x hx)) (by rw [hpair]) (by rw [hpair])

/-- A rim die that has been reset comes back into service (R42, R20): its pairs synchronise afresh, routes are looked at again, the RESET completes. -/
theorem exec_dieResetComplete_rim {s : State} {r : ResetReq} (hrun : s.running = some r) (hkind : r.kind = 1) (hdie : r.die = s.site.die)
    (hbusy : s.dieBusy s.site.die = false) (hrim : ¬ s.site.die < 16) (hyes : s.site.yes = true) :
    exec .dieResetComplete s =
      let u := ({ s.resyncDie s.site.die with oosDies := (s.resyncDie s.site.die).oosDies.filter (fun e => e != s.site.die) } : State).rerouteAll
      .next (({ u with replWait := u.replWait.filter (fun e => e != s.site.die), running := none } : State).finish r.stream r.pkt 0).settle := by
  change execDieResetComplete s = _
  simp [execDieResetComplete, hrun, hkind, hdie, hbusy, hrim, hyes]

/-! ### The counterexample -/

/-- A cancelled launch whose groups are all over and that has not completed yet. -/
def endedLaunch : Launch :=
  { key := 1, num := 0, stream := 0, pkt := { sq := 0, serial := 0, packet := ⟨1, 0, [], []⟩, started := true }, sigEn := false, sigId := 0, lcbAddr := 0, lcb := [],
    region := 256, level := 0, fdom := 0, seed := 0, keep := false, preempt := false, saveSlots := 0, saveArea := 0, elig := [0], groups := 1, next := 1,
    ended := [0], status := .cancelled }

/-- Its open member of exchange 3, posted on an engine of rim die 16, whose completion counter 4096 lies on rim die 17 (R211, R191). -/
def openMember : Member :=
  { post := { xid := 3, nmem := 1, member := 0, eng := 0, memtab := [0], mtsig := 0, demand := [0], rlen := 0, home := 0 },
    launch := 1, group := 0, cell := 0, seq := .K, pc := 0, srctab := 0, rbase := 0, grtab := 0, ctr := 4096, ctrEn := true }

/-- Module 0 of every edge is active in both directions. -/
def oneModuleEach : NatMap Link :=
  (List.range 40).flatMap (fun e => [(linkKey (edgeDies e).1 e 0, { st := 2, width := 3 }), (linkKey (edgeDies e).2 e 0, { st := 2, width := 3 })])

/-- The RESET packet of kind 1 for rim die 16 (R42). -/
def rimResetPkt : StreamPkt := { sq := 0, serial := 1, packet := ⟨0xB, 0, [0x1001], []⟩, started := true }

/-- The end of a reset of rim die 16 while that launch stands there; the die comes back into service. -/
def rimReset : State :=
  { State.reset with
    bringUp := 3, links := oneModuleEach, launches := [endedLaunch], members := [openMember], site := { die := 16, yes := true },
    running := some { stream := 0, pkt := rimResetPkt } }

/-- Its pairs have been synchronised afresh, and it is in service. -/
def rimSynced : State :=
  { rimReset.resyncDie rimReset.site.die with oosDies := (rimReset.resyncDie rimReset.site.die).oosDies.filter (fun e => e != rimReset.site.die) }

/-- Its RESET completes, and with it the launch. -/
def rimSettled : State :=
  (({ rimSynced with replWait := rimSynced.replWait.filter (fun e => e != rimReset.site.die), running := none } : State).finish 0 rimResetPkt 0).settle

theorem State.modUp_eq (s : State) (e m : Nat) :
    s.modUp e m = (decide ((s.linkAt (edgeDies e).1 e m).st = 2) && decide ((s.linkAt (edgeDies e).2 e m).st = 2)) := rfl

/-- Whether an edge has an active module is read from the link registers alone. -/
theorem State.edgeUp_of_links {s u : State} (h : u.links = s.links) (e : Nat) : u.edgeUp e = s.edgeUp e := by
  have hlink (d m : Nat) : u.linkAt d e m = s.linkAt d e m := by rw [State.linkAt, State.linkAt, h]
  have hmod : u.modUp e = s.modUp e := by
    funext m
    rw [State.modUp_eq, State.modUp_eq, hlink, hlink]
  rw [State.edgeUp, State.edgeUp, hmod]

theorem rimReset_edgeUp (e : Nat) (he : e < 40) : rimReset.edgeUp e = true := by
  interval_cases e <;> decide +kernel

theorem rimSynced_rerouteAll : rimSynced.rerouteAll = rimSynced := by
  have hlinks : rimSynced.links = rimReset.links := by decide +kernel
  have hedges (e : Nat) (he : e < 40) : rimSynced.edgeUp e = true := by
    rw [State.edgeUp_of_links hlinks, rimReset_edgeUp e he]
  exact State.rerouteAll_of_up (by decide +kernel) hedges (by decide +kernel)

theorem exec_rimReset : exec .dieResetComplete rimReset = .next rimSettled := by
  have h := exec_dieResetComplete_rim (s := rimReset) rfl (by decide) (by decide) (by decide) (by decide) rfl
  rw [← rimSynced, rimSynced_rerouteAll] at h
  exact h

theorem rimSettled_unacked : (rimSettled.pairAt 16 17).unacked.length = 1 := by decide +kernel

/-- Refutes O45: the launch that completes with the RESET of rim die 16 loses its exchange, and the increment of the member's counter is a new request of the
pair of rim dies 16 and 17, which so does not end with nothing unacknowledged. -/
theorem not_resetsAndBringUp : ¬ Obligations.ResetsAndBringUp := by
  intro h
  obtain ⟨_, _, _, _, _, hend⟩ := h rimReset
  obtain ⟨u, hu, _, _, _, _, hpairs, _⟩ := hend _ rfl (by decide) (by decide) (by decide) rfl rfl
  obtain rfl : rimSettled = u := by simpa [exec_rimReset] using hu
  have hnone : (rimSettled.pairAt 16 17).unacked = [] := (hpairs 17 (by decide) (by decide)).1
  have hone := rimSettled_unacked
  simp [hnone] at hone

/-! ### What faults, losses and the end of launches leave as it was -/

/-- A cell after a fault, a loss or the end of a launch: its machine check stands (R258), and an access of a sequencer is as it was, or lost (R19). -/
structure Cell.Keeps (c d : Cell) : Prop where
  stop : c.stop = some .machineCheck → d.stop = some .machineCheck
  access : ∀ q, (d.seq q).access = (c.seq q).access ∨ (d.seq q).access = some .lost

theorem Cell.Keeps.refl (c : Cell) : c.Keeps c := ⟨id, fun _ => .inl rfl⟩

theorem Cell.Keeps.trans {a b c : Cell} (h : a.Keeps b) (h' : b.Keeps c) : a.Keeps c where
  stop := h'.stop ∘ h.stop
  access q := by
    rcases h'.access q with h2 | h2
    · rw [h2]; exact h.access q
    · exact .inr h2

/-- A cell of which neither the stop nor a sequencer changes. -/
theorem Cell.Keeps.of_seqs {c d : Cell} (hs : d.stop = c.stop := by rfl) (hk : d.k = c.k := by rfl) (hl : d.l = c.l := by rfl) (hc : d.c = c.c := by rfl)
    (hS : d.s = c.s := by rfl) : c.Keeps d where
  stop h := hs.trans h
  access q := .inl (by cases q <;> simp only [Cell.seq, hk, hl, hc, hS])

/-- A cell that stops, where no machine check has stopped it. -/
theorem Cell.Keeps.of_stop {c d : Cell} (h : c.stop ≠ some .machineCheck) (hk : d.k = c.k := by rfl) (hl : d.l = c.l := by rfl) (hc : d.c = c.c := by rfl)
    (hS : d.s = c.s := by rfl) : c.Keeps d where
  stop h' := absurd h' h
  access q := .inl (by cases q <;> simp only [Cell.seq, hk, hl, hc, hS])

/-- A sequencer whose access stays, or is lost. -/
theorem Cell.Keeps.of_modSeq (c : Cell) (q : SeqId) (f : Seq → Seq) (h : ∀ x, (f x).access = x.access ∨ (f x).access = some .lost) : c.Keeps (c.modSeq q f) where
  stop := by simp
  access r := by
    by_cases hr : r = q
    · subst hr; simpa using h (c.seq r)
    · rw [Cell.seq_modSeq_other c f hr]; exact .inl rfl

/-- What a fault, the loss of a request, a change of a route and the end of a launch leave of a package: where and when the step acts, memory, link
registers, ports, messages of resynchronisation, resets, the freezing of boxes, and of its cells what `Cell.Keeps` says. -/
structure State.Keeps (s u : State) : Prop where
  site : u.site = s.site
  cycle : u.cycle = s.cycle
  mem : u.mem = s.mem
  links : u.links = s.links
  ports : u.ports = s.ports
  resyncs : u.resyncs = s.resyncs
  running : u.running = s.running
  pending : u.pending = s.pending
  cells : ∀ k, (s.cellAt k).Keeps (u.cellAt k)
  frozen : ∀ d, (NatMap.get {} u.boxes d).frozen = (NatMap.get {} s.boxes d).frozen

/-- The same of what sends requests: a pair keeps what is unacknowledged, ahead of what is sent, and what it has accepted (R17). -/
structure State.Sends (s u : State) : Prop extends s.Keeps u where
  unacked : ∀ a b, (s.pairAt a b).unacked <+: (u.pairAt a b).unacked
  last : ∀ a b, (u.pairAt a b).last = (s.pairAt a b).last

/-- The same of what sends a request only where chunks of other packages are being performed. -/
structure State.Loses (s u : State) : Prop extends s.Sends u where
  pairs : s.chunksIn = [] → u.pairs = s.pairs ∧ u.chunksIn = []

theorem State.Keeps.refl (s : State) : s.Keeps s := ⟨rfl, rfl, rfl, rfl, rfl, rfl, rfl, rfl, fun _ => .refl _, fun _ => rfl⟩

theorem State.Keeps.trans {s u v : State} (h : s.Keeps u) (h' : u.Keeps v) : s.Keeps v where
  site := h'.site.trans h.site
  cycle := h'.cycle.trans h.cycle
  mem := h'.mem.trans h.mem
  links := h'.links.trans h.links
  ports := h'.ports.trans h.ports
  resyncs := h'.resyncs.trans h.resyncs
  running := h'.running.trans h.running
  pending := h'.pending.trans h.pending
  cells k := (h.cells k).trans (h'.cells k)
  frozen d := (h'.frozen d).trans (h.frozen d)

theorem State.Sends.refl (s : State) : s.Sends s := ⟨.refl s, fun _ _ => List.prefix_rfl, fun _ _ => rfl⟩

theorem State.Sends.trans {s u v : State} (h : s.Sends u) (h' : u.Sends v) : s.Sends v where
  toKeeps := h.toKeeps.trans h'.toKeeps
  unacked a b := (h.unacked a b).trans (h'.unacked a b)
  last a b := (h'.last a b).trans (h.last a b)

theorem State.Loses.refl (s : State) : s.Loses s := ⟨.refl s, fun h => ⟨rfl, h⟩⟩

theorem State.Loses.trans {s u v : State} (h : s.Loses u) (h' : u.Loses v) : s.Loses v where
  toSends := h.toSends.trans h'.toSends
  pairs hs := by
    obtain ⟨hp, hu⟩ := h.pairs hs
    obtain ⟨hp', hv⟩ := h'.pairs hu
    exact ⟨hp'.trans hp, hv⟩

theorem State.Keeps.foldl {α : Type} {f : State → α → State} (h : ∀ (s : State) x, s.Keeps (f s x)) (l : List α) (s : State) : s.Keeps (l.foldl f s) :=
  List.foldlRecOn l f (.refl s) fun u hu x _ => hu.trans (h u x)

theorem State.Sends.foldl {α : Type} {f : State → α → State} (h : ∀ (s : State) x, s.Sends (f s x)) (l : List α) (s : State) : s.Sends (l.foldl f s) :=
  List.foldlRecOn l f (.refl s) fun u hu x _ => hu.trans (h u x)

theorem State.Loses.foldl {α : Type} {f : State → α → State} (h : ∀ (s : State) x, s.Loses (f s x)) (l : List α) (s : State) : s.Loses (l.foldl f s) :=
  List.foldlRecOn l f (.refl s) fun u hu x _ => hu.trans (h u x)

/-- A change elsewhere in the state. -/
theorem State.Keeps.of_same {s u : State} (site : u.site = s.site := by rfl) (cycle : u.cycle = s.cycle := by rfl) (mem : u.mem = s.mem := by rfl)
    (links : u.links = s.links := by rfl) (ports : u.ports = s.ports := by rfl) (resyncs : u.resyncs = s.resyncs := by rfl)
    (running : u.running = s.running := by rfl) (pending : u.pending = s.pending := by rfl) (cells : u.cells = s.cells := by rfl)
    (boxes : u.boxes = s.boxes := by rfl) : s.Keeps u :=
  ⟨site, cycle, mem, links, ports, resyncs, running, pending, fun k => by rw [State.cellAt, State.cellAt, cells]; exact .refl _, fun d => by rw [boxes]⟩

theorem State.Loses.of_keeps {s u : State} (h : s.Keeps u) (pairs : u.pairs = s.pairs := by rfl) (chunks : u.chunksIn = s.chunksIn := by rfl) : s.Loses u where
  toKeeps := h
  unacked a b := by rw [State.pairAt, State.pairAt, pairs]
  last a b := by rw [State.pairAt, State.pairAt, pairs]
  pairs hs := ⟨pairs, chunks.trans hs⟩

/-- A change elsewhere in the state, to neither pairs nor chunks. -/
theorem State.Loses.of_same {s u : State} (site : u.site = s.site := by rfl) (cycle : u.cycle = s.cycle := by rfl) (mem : u.mem = s.mem := by rfl)
    (links : u.links = s.links := by rfl) (ports : u.ports = s.ports := by rfl) (resyncs : u.resyncs = s.resyncs := by rfl)
    (running : u.running = s.running := by rfl) (pending : u.pending = s.pending := by rfl) (cells : u.cells = s.cells := by rfl)
    (boxes : u.boxes = s.boxes := by rfl) (pairs : u.pairs = s.pairs := by rfl) (chunks : u.chunksIn = s.chunksIn := by rfl) : s.Loses u :=
  .of_keeps (.of_same site cycle mem links ports resyncs running pending cells boxes) pairs chunks

/-! ### Faults of cells and launches (R56, R246 to R253) -/

@[simp] theorem BlackBox.log_frozen (b : BlackBox) (e : BbEvent) : (b.log e).frozen = b.frozen := by
  unfold BlackBox.log
  split
  · rfl
  · split <;> rfl

theorem State.bbox_loses (s : State) (d : Nat) (e : BbEvent) : s.Loses (s.bbox d e) :=
  State.Loses.of_keeps
    { (State.Keeps.of_same : s.Keeps { s.bbox d e with boxes := s.boxes }) with
      frozen := fun j => by
        by_cases hj : j = d
        · subst hj; simp [State.bbox]
        · rw [State.bbox, NatMap.get_put_other _ _ _ hj] }

theorem State.bboxCell_loses (s : State) (k y c : Nat) (d0 d1 : Word) : s.Loses (s.bboxCell k y c d0 d1) := State.bbox_loses ..

theorem State.modCell_loses (s : State) (k : Nat) (f : Cell → Cell) (h : (s.cellAt k).Keeps (f (s.cellAt k))) : s.Loses (s.modCell k f) :=
  State.Loses.of_keeps
    { (State.Keeps.of_same : s.Keeps { s.modCell k f with cells := s.cells }) with
      cells := fun j => by
        by_cases hj : j = k
        · subst hj; rw [State.cellAt_modCell_same]; exact h
        · rw [State.cellAt_modCell_other _ _ hj]; exact .refl _ }

theorem State.modSeqOf_loses (s : State) (k : Nat) (q : SeqId) (f : Seq → Seq) (h : ∀ x, (f x).access = x.access ∨ (f x).access = some .lost) :
    s.Loses (s.modSeqOf k q f) := State.modCell_loses s k _ (.of_modSeq _ q f h)

theorem State.modLaunch_loses (s : State) (key : Nat) (f : Launch → Launch) : s.Loses (s.modLaunch key f) := .of_same

theorem State.corrected_loses (s : State) (key cost : Nat) : s.Loses (s.corrected key cost) := State.modLaunch_loses ..

theorem State.addCost_loses (s : State) (key n : Nat) : s.Loses (s.addCost key n) := State.modLaunch_loses ..

theorem State.logBad_loses (s : State) (k pa who : Nat) : s.Loses (s.logBad k pa who) := State.bbox_loses ..

theorem State.stopLaunch_loses (s : State) (key : Nat) (st : Stop) (f : Launch → Launch) : s.Loses (s.stopLaunch key st f) := by
  unfold State.stopLaunch
  split
  · exact .refl s
  · refine (State.modLaunch_loses s key f).trans (State.Loses.foldl (fun u e => State.modCell_loses u _ _ ?_) _ _)
    split
    case h_1 => exact .refl _
    case h_2 => exact .refl _
    case h_3 h => exact Cell.Keeps.of_stop h

theorem State.faultLaunch_loses (s : State) (k key group cause : Nat) (entry : Word) : s.Loses (s.faultLaunch k key group cause entry) := by
  unfold State.faultLaunch
  split
  · exact .refl s
  · dsimp only
    split
    · exact .refl s
    · split
      · exact (State.bbox_loses ..).trans (State.stopLaunch_loses ..)
      · exact ((State.bbox_loses ..).trans (State.stopLaunch_loses ..)).trans (State.Loses.foldl (fun u o => State.stopLaunch_loses u _ _ _) _ _)

theorem State.unhandled_loses (s : State) (k : Nat) (t : TrapRec) (h : (s.cellAt k).stop ≠ some .machineCheck) : s.Loses (s.unhandled k t) := by
  have hcell : s.Loses ((s.bboxCell k 0x01 t.cause.toNat t.pc t.val).modCell k (fun c =>
      { cancelCopies c with stop := some .faulted, pend := [], remq := [], tin := false })) :=
    (State.bboxCell_loses ..).trans (State.modCell_loses _ k _ (Cell.Keeps.of_stop h))
  unfold State.unhandled
  split
  · exact hcell
  · exact hcell.trans (State.faultLaunch_loses ..)

theorem State.withdraw_loses (s : State) (k : Nat) : s.Loses (s.withdraw k) := by
  unfold State.withdraw
  split
  · exact State.modCell_loses s k _ .of_seqs
  · split
    · exact (State.modCell_loses s k _ .of_seqs).trans (State.modLaunch_loses ..)
    · exact .refl s
  · exact .refl s

@[simp] theorem State.cellAt_modLaunch (s : State) (key k : Nat) (f : Launch → Launch) : (s.modLaunch key f).cellAt k = s.cellAt k := rfl

theorem State.withdraw_stop (s : State) (k : Nat) : ((s.withdraw k).cellAt k).stop = (s.cellAt k).stop := by
  unfold State.withdraw
  split
  · rw [State.cellAt_modCell_same]
  · split
    · rw [State.cellAt_modLaunch, State.cellAt_modCell_same]
    · rfl
  · rfl

theorem State.startStop_loses (s : State) (k : Nat) (t : TrapRec) (h : (s.cellAt k).stop ≠ some .machineCheck) : s.Loses (s.startStop k t) :=
  (State.withdraw_loses s k).trans (State.modCell_loses _ k _ (Cell.Keeps.of_stop (by rw [State.withdraw_stop]; exact h)))

theorem State.deferred_loses (s : State) (k : Nat) (cause : BitVec 8) (q : SeqId) (pc val : Word) : s.Loses (s.deferred k cause q pc val) := by
  have hpend (t : TrapRec) : s.Loses (s.modCell k (fun c => { c with pend := c.pend ++ [t] })) := State.modCell_loses s k _ .of_seqs
  unfold State.deferred
  dsimp only
  split
  · exact .refl s
  · split
    case h_1 h =>
      split
      · split
        · exact State.unhandled_loses s k _ (by simp [h])
        · exact hpend _
      · exact State.startStop_loses s k _ (by simp [h])
    case h_2 h =>
      split
      · exact State.unhandled_loses s k _ (by simp [h])
      · exact hpend _
    case h_3 h =>
      split
      · exact State.unhandled_loses s k _ (by simp [h])
      · exact hpend _
    case h_4 => exact .refl s

/-! ### Losses of requests (R19) -/

theorem State.answer_loses (s : State) (r : MeshReq) (dst : Nat) : s.Loses (s.answer r dst .lost) :=
  State.modSeqOf_loses s _ _ _ fun x => by
    split
    · exact .inr rfl
    · exact .inl rfl

theorem State.report_loses (s : State) (o : Owner) (st : BitVec 3) : s.Loses (s.report o st) := by
  unfold State.report
  split
  · exact State.modCell_loses s _ _ .of_seqs
  · exact .of_same
  · exact .of_same
  · refine
      { toKeeps := .of_same
        unacked := fun _ _ => List.prefix_rfl
        last := fun _ _ => rfl
        pairs := fun h => ⟨rfl, by simp [h]⟩ }
  · exact .refl s

theorem State.loseElement_loses (s : State) (o : Owner) (va : Word) : s.Loses (s.loseElement o va) := by
  unfold State.loseElement
  split
  · exact State.modCell_loses s _ _ .of_seqs
  · exact State.modCell_loses s _ _ .of_seqs
  · exact .refl s

theorem giveTokens_keeps (now : Nat) (q : SeqId) (l : List Nat) (c : Cell) : c.Keeps (giveTokens now q l c) := by
  unfold giveTokens
  split
  · exact .refl c
  · exact .of_modSeq c q _ fun x => .inl rfl

theorem State.finishChain_loses (s : State) (p : Poster) (st : BitVec 3) : s.Loses (s.finishChain p st) := by
  unfold State.finishChain
  split
  · refine State.modCell_loses s _ _ (Cell.Keeps.trans ?_ (giveTokens_keeps ..))
    split
    · exact .of_seqs
    · exact .of_seqs
  · exact .refl s

theorem State.loseChain_loses (s : State) (n : Nat) : s.Loses (s.loseChain n) :=
  State.Loses.trans .of_same (State.Loses.foldl (fun u (a : Arming) => u.finishChain_loses a.poster 3) _ _)

theorem State.loseOwned_loses (s : State) (r : MeshReq) : s.Loses (s.loseOwned r) := by
  unfold State.loseOwned
  split
  · exact State.loseElement_loses ..
  · exact State.loseElement_loses ..
  · exact State.deferred_loses ..
  · exact State.modSeqOf_loses s _ _ _ fun x => by
      split
      · exact .inr rfl
      · exact .inl rfl
  · exact State.report_loses ..

/-! ### Requests sent (R17) -/

theorem State.pairAt_setPair (s : State) (a b c d : Nat) (p : Pair) :
    (s.setPair a b p).pairAt c d = if pairKey c d = pairKey a b then p else s.pairAt c d := by
  simp only [State.pairAt, State.setPair]
  split
  · rename_i h; rw [h, NatMap.get_put_same]
  · rename_i h; rw [NatMap.get_put_other _ _ _ h]

@[simp] theorem State.pairAt_setPair_same (s : State) (a b : Nat) (p : Pair) : (s.setPair a b p).pairAt a b = p := by
  simp [State.pairAt_setPair]

theorem State.pairAt_of_key {s : State} {a b c d : Nat} (h : pairKey a b = pairKey c d) : s.pairAt a b = s.pairAt c d := by
  rw [State.pairAt, State.pairAt, h]

theorem State.setPair_keeps (s : State) (a b : Nat) (p : Pair) : s.Keeps (s.setPair a b p) := .of_same

/-- A pair that keeps what is unacknowledged and what it has accepted. -/
theorem State.setPair_sends (s : State) (a b : Nat) (p : Pair) (hu : (s.pairAt a b).unacked <+: p.unacked) (hl : p.last = (s.pairAt a b).last) :
    s.Sends (s.setPair a b p) where
  toKeeps := State.setPair_keeps ..
  unacked c d := by
    rw [State.pairAt_setPair]
    split
    · rename_i h; rw [State.pairAt_of_key h]; exact hu
    · exact List.prefix_rfl
  last c d := by
    rw [State.pairAt_setPair]
    split
    · rename_i h; rw [State.pairAt_of_key h]; exact hl
    · rfl

theorem State.number_sends (s : State) (a b : Nat) (r : MeshReq) : s.Sends (s.number a b r) :=
  State.setPair_sends s a b _ (List.prefix_append _ _) rfl

theorem State.carry_sends (s : State) (k dst : Nat) (r : MeshReq) : s.Sends (s.carry k dst r).2 := by
  have hnum : s.Sends { s with netNext := s.netNext + 1 } := (State.Loses.toSends .of_same)
  unfold State.carry
  dsimp only
  split
  · exact .refl s
  · split
    · exact hnum.trans (State.number_sends ..)
    · exact hnum.trans (State.setPair_sends _ _ _ _ List.prefix_rfl rfl)

theorem State.sendInc_sends (s : State) (k : Nat) (u : Option Nat) (cid : BitVec 14) (amount fold : Word) : s.Sends (s.sendInc k u cid amount fold) :=
  (State.carry_sends s k _ _).trans (State.Loses.toSends .of_same)

theorem State.settleChunks_loses (s : State) : s.Loses s.settleChunks where
  toSends := by
    have hsend (u : State) (i : Inc) : u.Sends (u.sendInc 1024 none i.cid i.amount i.fold) := u.sendInc_sends ..
    unfold State.settleChunks
    refine (State.Sends.trans ?_ (State.Sends.foldl hsend _ _)).trans (State.Sends.foldl (fun u x => State.Loses.toSends .of_same) _ _)
    exact ⟨.of_same, fun _ _ => List.prefix_rfl, fun _ _ => rfl⟩
  pairs h := by simp [State.settleChunks, h]

theorem State.loseCarried_loses (s : State) (src n : Nat) (r : MeshReq) : s.Loses (s.loseCarried src n r) := by
  unfold State.loseCarried
  refine State.Loses.trans ?_ (State.settleChunks_loses _)
  split
  · exact ((State.Loses.trans .of_same (State.loseChain_loses _ n)).trans (State.loseOwned_loses _ r)).trans (State.bbox_loses ..)
  · exact (State.Loses.trans .of_same (State.loseChain_loses _ n)).trans (State.loseOwned_loses _ r)

theorem State.loseReq_loses (s : State) (src dst : Nat) (r : MeshReq) : s.Loses (s.loseReq src dst r) := by
  unfold State.loseReq
  split
  · exact State.deferred_loses ..
  · exact State.loseCarried_loses ..
  · exact State.answer_loses ..

/-! ### Resends and changes of route (R15, R16, R18) -/

theorem State.refill_keeps (s : State) (src dst : Nat) : s.Keeps (s.refill src dst) := by
  unfold State.refill
  dsimp only
  split
  · exact .refl s
  · exact (State.setPair_keeps ..).trans (State.Keeps.foldl (fun u r => (u.number_sends src dst r).toKeeps) _ _)

theorem State.resend_keeps (s : State) (src dst : Nat) : s.Keeps (s.resend src dst) :=
  ((State.setPair_keeps ..).trans (State.Keeps.foldl (fun u r => (u.loseReq_loses src dst r).toKeeps) _ _)).trans (State.refill_keeps ..)

theorem State.reroute_keeps (s : State) (src dst : Nat) : s.Keeps (s.reroute src dst) := by
  have hset (u : State) (p : Pair) : u.Keeps (u.setPair src dst p) := u.setPair_keeps src dst p
  unfold State.reroute
  dsimp only
  split
  · split
    · exact .refl s
    · exact hset ..
  · split
    · split
      · exact hset ..
      · exact .refl s
    · have hnew (u : State) (p : Pair) (f : Pair → Pair) : u.Keeps (p.users.foldl (fun v x => v.corrected x 0) (u.modPair src dst f)) :=
        (hset ..).trans (State.Keeps.foldl (fun v x => (v.corrected_loses x 0).toKeeps) _ _)
      split
      · exact ((State.bbox_loses ..).toKeeps.trans (hnew ..)).trans (State.resend_keeps ..)
      · exact (State.bbox_loses ..).toKeeps.trans (hnew ..)

theorem State.remodule_keeps (s : State) (src dst : Nat) : s.Keeps (s.remodule src dst) := by
  unfold State.remodule
  dsimp only
  split
  · exact .refl s
  · split
    · exact (State.setPair_keeps ..).trans (State.resend_keeps ..)
    · exact State.setPair_keeps ..

theorem State.relink_keeps (s : State) (edge : Nat) : s.Keeps (s.relink edge) := by
  unfold State.relink
  dsimp only
  refine State.Keeps.trans ?_ (State.Keeps.foldl (fun u e => u.remodule_keeps ..) _ _)
  split
  · exact State.Keeps.foldl (fun u p => u.reroute_keeps ..) _ _
  · exact .refl s

/-! ### The registers of a link module (R13) -/

/-- The two directions of a module end on different dies (R34). -/
theorem edgeDies_ne (e : Nat) : (edgeDies e).1 ≠ (edgeDies e).2 := by
  unfold edgeDies
  split_ifs <;> simp only <;> omega

theorem State.linkAt_setLink (s : State) (a b e m : Nat) (l : Link) :
    (s.setLink a e m l).linkAt b e m = if b = a then l else s.linkAt b e m := by
  simp only [State.linkAt, State.setLink]
  split
  · rename_i h; rw [h, NatMap.get_put_same]
  · rename_i h; exact NatMap.get_put_other _ _ _ (by simp only [linkKey]; omega)

@[simp] theorem State.linkAt_setLink_same (s : State) (a e m : Nat) (l : Link) : (s.setLink a e m l).linkAt a e m = l := by simp [State.linkAt_setLink]

theorem State.linkAt_of_keeps {s u : State} (h : s.Keeps u) (d e m : Nat) : u.linkAt d e m = s.linkAt d e m := by
  rw [State.linkAt, State.linkAt, h.links]

/-- A module changed in both directions. -/
theorem State.linkAt_modBoth (s : State) (e m d : Nat) (f : Link → Link) (hd : d = (edgeDies e).1 ∨ d = (edgeDies e).2) :
    (s.modBoth e m f).linkAt d e m = f (s.linkAt d e m) := by
  have hne := edgeDies_ne e
  simp only [State.modBoth, State.linkAt_setLink]
  rcases hd with rfl | rfl
  · simp [hne]
  · simp [hne.symm]

/-- Beside STATE and WIDTH of both directions, setting a module only writes events. -/
theorem State.setModule_keeps (s : State) (e m st width : Nat) :
    (s.modBoth e m (fun x => { x with st := BitVec.ofNat 2 st, width := BitVec.ofNat 2 width, since := s.cycle })).Keeps (s.setModule e m st width) := by
  unfold State.setModule
  dsimp only
  split
  · exact .refl _
  · exact ((State.bbox_loses ..).trans (State.bbox_loses ..)).toKeeps

/-- A module's STATE and WIDTH set in both directions. -/
theorem State.linkAt_setModule (s : State) (e m st width d : Nat) (hd : d = (edgeDies e).1 ∨ d = (edgeDies e).2) :
    (s.setModule e m st width).linkAt d e m = { s.linkAt d e m with st := BitVec.ofNat 2 st, width := BitVec.ofNat 2 width, since := s.cycle } := by
  rw [State.linkAt_of_keeps (s.setModule_keeps e m st width), State.linkAt_modBoth _ _ _ _ _ hd]

theorem State.setModule_is (s : State) (e m st width : Nat) : ModuleIs e m (BitVec.ofNat 2 st) (BitVec.ofNat 2 width) (s.setModule e m st width) := by
  simp [ModuleIs, State.linkAt_setModule]

theorem moduleIs_of_keeps {e m : Nat} {st width : BitVec 2} {s u : State} (h : ModuleIs e m st width s) (hk : s.Keeps u) : ModuleIs e m st width u := by
  simpa only [ModuleIs, State.linkAt_of_keeps hk] using h

/-- A saturating increment as a number (R13). -/
theorem satInc_eq {w : Nat} (x : BitVec w) : satInc x = BitVec.ofNat w (min (x.toNat + 1) (2 ^ w - 1)) := by
  have hx := x.isLt
  apply BitVec.eq_of_toNat_eq
  unfold satInc
  split
  · rename_i h
    rw [h, BitVec.toNat_allOnes, BitVec.toNat_ofNat, Nat.min_eq_right (by omega), Nat.mod_eq_of_lt (by omega)]
  · rename_i h
    have hne : x.toNat ≠ 2 ^ w - 1 := fun h' => h (BitVec.eq_of_toNat_eq (by rw [h', BitVec.toNat_allOnes]))
    have h1 : (1 : BitVec w).toNat = 1 % 2 ^ w := BitVec.toNat_ofNat ..
    rw [BitVec.toNat_ofNat, Nat.min_eq_left (by omega), BitVec.toNat_add, h1, Nat.add_mod_mod]

/-- Flits that pass leave a link register but for its count of them and of failures. -/
@[simp] theorem Link.pass_down (l : Link) (n : Nat) : (l.pass n).down = l.down := by unfold Link.pass; split <;> rfl
@[simp] theorem Link.pass_st (l : Link) (n : Nat) : (l.pass n).st = l.st := by unfold Link.pass; split <;> rfl
@[simp] theorem Link.pass_width (l : Link) (n : Nat) : (l.pass n).width = l.width := by unfold Link.pass; split <;> rfl

/-- The window of a link register, its WINLOG held between 16 and 40 (R13). -/
theorem Link.window_eq (l : Link) : l.window = 2 ^ (if l.winLog.toNat < 16 then 16 else if 40 < l.winLog.toNat then 40 else l.winLog.toNat) := by
  unfold Link.window
  congr 1
  split_ifs <;> omega

/-! ### Retrains (R12, R420) -/

theorem State.linkAt_retrain (s : State) (e m d : Nat) (full : Bool) (hd : d = (edgeDies e).1 ∨ d = (edgeDies e).2) :
    let l := s.linkAt d e m
    let u := s.retrain e m full
    (u.linkAt d e m).errCnt = 0 ∧ (u.linkAt d e m).full = full ∧ (u.linkAt d e m).retrain = satInc l.retrain := by
  unfold State.retrain
  dsimp only
  rw [State.linkAt_of_keeps (State.relink_keeps ..), State.linkAt_setModule _ _ _ _ _ _ hd,
    State.linkAt_of_keeps (State.Keeps.foldl (fun u x => (u.corrected_loses x 0).toKeeps) _ _), State.linkAt_modBoth _ _ _ _ _ hd]
  exact ⟨rfl, rfl, rfl⟩

theorem State.retrain_is (s : State) (e m : Nat) (full : Bool) : ModuleIs e m 1 0 (s.retrain e m full) :=
  moduleIs_of_keeps (State.setModule_is _ e m 1 0) (State.relink_keeps ..)

theorem State.endRetrain_linkAt (s : State) (e m d : Nat) (hd : d = (edgeDies e).1 ∨ d = (edgeDies e).2) :
    (s.endRetrain e m).linkAt d e m = { s.linkAt d e m with hit := [] } := by
  unfold State.endRetrain
  dsimp only
  rw [State.linkAt_modBoth _ _ _ _ _ hd, State.linkAt_of_keeps (State.Keeps.foldl (fun u x => (u.addCost_loses x _).toKeeps) _ _)]

/-! ### What the events of link modules do -/

theorem exec_flitCrcFailure {s : State} {l : Link} (hl : (s.linkAt s.site.die s.site.edge s.site.mod).pass s.site.n = l) (hst : 2 ≤ l.st.toNat)
    (hd : (edgeDies s.site.edge).1 = s.site.die ∨ (edgeDies s.site.edge).2 = s.site.die) :
    exec .flitCrcFailure s =
      let tries := if s.site.yes then l.tries + 1 else 0
      let u := s.setLink s.site.die s.site.edge s.site.mod
        { l with errCnt := satInc l.errCnt, retry := if 4 ≤ tries then l.retry else satInc l.retry, tries := tries }
      if l.st = 3 then .next u
      else if 4 ≤ tries || (l.errThr ≠ 0 && l.errThr.toNat ≤ (satInc l.errCnt).toNat) then .next (u.retrain s.site.edge s.site.mod false)
      else .next u := by
  change execFlitCrcFailure s = _
  unfold execFlitCrcFailure
  dsimp only
  rw [hl, if_neg]
  simpa [Nat.succ_le_iff.1 hst, or_iff_not_imp_left] using hd

theorem exec_retrainComplete {s : State} (h : (s.linkAt (edgeDies s.site.edge).1 s.site.edge s.site.mod).st = 1) :
    exec .retrainComplete s =
      let width := if (s.linkAt (edgeDies s.site.edge).1 s.site.edge s.site.mod).full && s.site.yes then 3 else if s.site.yes2 then 1 else if s.site.yes3 then 2 else 0
      .next (((s.endRetrain s.site.edge s.site.mod).setModule s.site.edge s.site.mod (if width = 0 then 0 else 2) width).relink s.site.edge) := by
  change execRetrainComplete s = _
  unfold execRetrainComplete
  dsimp only
  rw [if_neg (by simpa using h)]

/-- A retrain that has ended leaves the module in the STATE and WIDTH that it trained to. -/
theorem State.retrained_is (s : State) (e m st width : Nat) : ModuleIs e m (BitVec.ofNat 2 st) (BitVec.ofNat 2 width) (((s.endRetrain e m).setModule e m st width).relink e) :=
  moduleIs_of_keeps (State.setModule_is ..) (State.relink_keeps ..)

/-! ### DOWN (R13) -/

theorem State.linkAt_trainAnew (s : State) (e m d : Nat) (hd : d = (edgeDies e).1 ∨ d = (edgeDies e).2) :
    ((s.trainAnew e m).linkAt d e m).down = (s.linkAt d e m).down ∧ ((s.trainAnew e m).linkAt d e m).full = true := by
  unfold State.trainAnew
  rw [State.linkAt_setModule _ _ _ _ _ _ hd, State.linkAt_modBoth _ _ _ _ _ hd]
  exact ⟨rfl, rfl⟩

/-- DOWN set where it was not drains a module that is not down. -/
theorem State.setDown_set (s : State) (d e m : Nat) (hd : d = (edgeDies e).1 ∨ d = (edgeDies e).2) (h : (s.linkAt d e m).down = false) :
    ((s.setDown d e m true).linkAt d e m).down = true ∧
    ((s.linkAt d e m).st ≠ 0 → ModuleIs e m 3 (s.linkAt d e m).width (s.setDown d e m true)) := by
  unfold State.setDown
  simp only [h, Bool.not_false, Bool.and_true, if_true]
  split
  · rename_i hst
    exact ⟨by rw [State.linkAt_setLink_same], fun hne => absurd hst hne⟩
  · refine ⟨?_, fun _ => ?_⟩
    · rw [State.linkAt_of_keeps (State.relink_keeps ..), State.linkAt_setModule _ _ _ _ _ _ hd, State.endRetrain_linkAt _ _ _ _ hd, State.linkAt_setLink_same]
    · simpa using State.retrained_is (s.setLink d e m { s.linkAt d e m with down := true }) e m 3 (s.linkAt d e m).width.toNat

/-- DOWN cleared, and clear in the other direction, lets a module that is down train anew. -/
theorem State.setDown_clear (s : State) (d e m : Nat) (hd : d = (edgeDies e).1 ∨ d = (edgeDies e).2) (hst : (s.linkAt d e m).st = 0)
    (ha : (s.linkAt (edgeDies e).1 e m).down = false ∨ (edgeDies e).1 = d) (hb : (s.linkAt (edgeDies e).2 e m).down = false ∨ (edgeDies e).2 = d) :
    ((s.setDown d e m false).linkAt d e m).down = false ∧ ModuleIs e m 1 0 (s.setDown d e m false) ∧ ((s.setDown d e m false).linkAt d e m).full = true := by
  have hclear (x : Nat) (hx : (s.linkAt x e m).down = false ∨ x = d) : ((s.setLink d e m { s.linkAt d e m with down := false }).linkAt x e m).down = false := by
    rw [State.linkAt_setLink]
    split
    · rfl
    · exact hx.resolve_right (by assumption)
  have htrain : s.setDown d e m false = (s.setLink d e m { s.linkAt d e m with down := false }).trainAnew e m := by
    unfold State.setDown
    dsimp only
    rw [if_neg (by simp), if_pos (by rw [hclear _ ha, hclear _ hb]; simp [hst])]
  obtain ⟨hdown, hfull⟩ := State.linkAt_trainAnew (s.setLink d e m { s.linkAt d e m with down := false }) e m d hd
  rw [htrain]
  exact ⟨by rw [hdown, State.linkAt_setLink_same], State.setModule_is _ e m 1 0, hfull⟩

/-- The register that a management core writes is the one of the step's die. -/
theorem State.edgeDie_eq {s : State} (h : (edgeDies s.site.edge).1 = s.site.die ∨ (edgeDies s.site.edge).2 = s.site.die) : s.edgeDie = s.site.die := by
  unfold State.edgeDie
  split
  · rfl
  · exact h.resolve_right (by assumption)

/-- LNKCTL written by a management core changes ERRTHR and WINLOG, and then DOWN. -/
theorem State.coreLnkctl_eq {s : State} (down : Bool) (h : (edgeDies s.site.edge).1 = s.site.die ∨ (edgeDies s.site.edge).2 = s.site.die) :
    ∃ thr win, s.coreLnkctl down =
      (s.setLink s.site.die s.site.edge s.site.mod { s.linkAt s.site.die s.site.edge s.site.mod with errThr := thr, winLog := win }).setDown
        s.site.die s.site.edge s.site.mod down := by
  have hbit (w : Word) : bit ((w &&& 0xFFFF) ||| (if down then 0x10000 else 0)) 16 = down := by
    rw [bit, BitVec.testBit_toNat]
    cases down <;> simp
  unfold State.coreLnkctl State.writeLnkctl
  dsimp only
  rw [State.edgeDie_eq h, hbit]
  exact ⟨_, _, rfl⟩

/-- RETRAIN_COMPLETE: all lanes where training began there, else the low half, else the high half, else down. -/
theorem retrainComplete_goes {s : State} (h : (s.linkAt (edgeDies s.site.edge).1 s.site.edge s.site.mod).st = 1) :
    Goes .retrainComplete s (fun u =>
      if (s.linkAt (edgeDies s.site.edge).1 s.site.edge s.site.mod).full = true ∧ s.site.yes = true then ModuleIs s.site.edge s.site.mod 2 3 u
      else if s.site.yes2 = true then ModuleIs s.site.edge s.site.mod 2 1 u
      else if s.site.yes3 = true then ModuleIs s.site.edge s.site.mod 2 2 u else ModuleIs s.site.edge s.site.mod 0 0 u) := by
  have hend := State.retrained_is s s.site.edge s.site.mod
  refine ⟨_, exec_retrainComplete h, ?_⟩
  dsimp only
  simp only [← Bool.and_eq_true]
  split
  · exact hend 2 3
  · split
    · exact hend 2 1
    · split
      · exact hend 2 2
      · exact hend 0 0

/-- DOWN_SET. -/
theorem downSet_goes {s : State} (he : s.site.edge < 40) (hm : s.site.mod < 8)
    (hd : (edgeDies s.site.edge).1 = s.site.die ∨ (edgeDies s.site.edge).2 = s.site.die)
    (h : (s.linkAt s.site.die s.site.edge s.site.mod).down = false) :
    Goes .downSet s (fun u => (u.linkAt s.site.die s.site.edge s.site.mod).down = true ∧
      ((s.linkAt s.site.die s.site.edge s.site.mod).st ≠ 0 →
        ModuleIs s.site.edge s.site.mod 3 (s.linkAt s.site.die s.site.edge s.site.mod).width u)) := by
  obtain ⟨thr, win, hcore⟩ := State.coreLnkctl_eq true hd
  have hset := State.setDown_set (s.setLink s.site.die s.site.edge s.site.mod { s.linkAt s.site.die s.site.edge s.site.mod with errThr := thr, winLog := win })
    _ _ _ (hd.imp Eq.symm Eq.symm) (by rw [State.linkAt_setLink_same]; exact h)
  rw [State.linkAt_setLink_same, ← hcore] at hset
  exact ⟨_, (if_pos (by simp [he, hm]) : execDownSet s = _), hset⟩

/-- DOWN_CLEAR. -/
theorem downClear_goes {s : State} (he : s.site.edge < 40) (hm : s.site.mod < 8)
    (hd : (edgeDies s.site.edge).1 = s.site.die ∨ (edgeDies s.site.edge).2 = s.site.die)
    (hst : (s.linkAt s.site.die s.site.edge s.site.mod).st = 0)
    (ha : (s.linkAt (edgeDies s.site.edge).1 s.site.edge s.site.mod).down = false ∨ (edgeDies s.site.edge).1 = s.site.die)
    (hb : (s.linkAt (edgeDies s.site.edge).2 s.site.edge s.site.mod).down = false ∨ (edgeDies s.site.edge).2 = s.site.die) :
    Goes .downClear s (fun u => (u.linkAt s.site.die s.site.edge s.site.mod).down = false ∧ ModuleIs s.site.edge s.site.mod 1 0 u ∧
      (u.linkAt s.site.die s.site.edge s.site.mod).full = true) := by
  obtain ⟨thr, win, hcore⟩ := State.coreLnkctl_eq false hd
  have hother {x : Nat} (hx : (s.linkAt x s.site.edge s.site.mod).down = false ∨ x = s.site.die) :
      ((s.setLink s.site.die s.site.edge s.site.mod { s.linkAt s.site.die s.site.edge s.site.mod with errThr := thr, winLog := win }).linkAt
        x s.site.edge s.site.mod).down = false ∨ x = s.site.die := by
    by_cases hx' : x = s.site.die
    · exact .inr hx'
    · rw [State.linkAt_setLink, if_neg hx']; exact hx
  have hclear := State.setDown_clear (s.setLink s.site.die s.site.edge s.site.mod { s.linkAt s.site.die s.site.edge s.site.mod with errThr := thr, winLog := win })
    _ _ _ (hd.imp Eq.symm Eq.symm) (by rw [State.linkAt_setLink_same]; exact hst) (hother ha) (hother hb)
  rw [← hcore] at hclear
  exact ⟨_, (if_pos (by simp [he, hm]) : execDownClear s = _), hclear⟩

/-- Settles O42: each clause is the lemma about its event; the state that the lemmas speak of is the module after its window has been counted. -/
theorem linkModules : Obligations.LinkModules := by
  intro s d e m a l0 window l tries count
  have hl : (s.linkAt d e m).pass s.site.n = l := by
    simp only [l, l0, window, Link.pass, Link.window_eq]
  have herr : satInc l.errCnt = BitVec.ofNat 8 count := satInc_eq _
  have hretry : satInc l.retry = BitVec.ofNat 32 (min (l.retry.toNat + 1) 0xFFFFFFFF) := satInc_eq _
  have hcount : (BitVec.ofNat 8 count).toNat = count := by
    simp only [BitVec.toNat_ofNat, count]; omega
  have hst : l.st = (s.linkAt d e m).st := by rw [← hl, Link.pass_st]
  have hdown : l.down = (s.linkAt d e m).down := by rw [← hl, Link.pass_down]
  have hwidth : l.width = (s.linkAt d e m).width := by rw [← hl, Link.pass_width]
  clear_value l
  have hfail (h : 2 ≤ l.st.toNat) (hd : a = d ∨ (edgeDies e).2 = d) := exec_flitCrcFailure hl h hd
  simp only [herr, hretry, hcount] at hfail
  refine ⟨fun h2 hd => ?_, fun h3 hd => (hfail (by simp [h3]) hd).trans (if_pos h3), by rw [← hl]; rfl, retrainComplete_goes, fun he hm hd hclear => ?_,
    fun he hm hd _ h0 ha hb => downClear_goes he hm hd (hst ▸ h0) ha hb, fun h3 => ⟨_, if_pos h3, State.setModule_is s e m 0 0⟩⟩
  · specialize hfail (by simp [h2]) hd
    rw [if_neg (by simp [h2])] at hfail
    refine ⟨fun ht hc => ⟨_, hfail.trans (if_neg ?_), ?_⟩, fun hmany => ⟨_, hfail.trans (if_pos ?_), State.retrain_is .., ?_⟩⟩
    · rcases hc with hc | hc <;> simp [hc] <;> omega
    · rw [if_neg (by omega)]
    · simpa using hmany
    · have hretrain := fun v => State.linkAt_retrain (s.setLink d e m v) e m d false (hd.imp Eq.symm Eq.symm)
      simp only [State.linkAt_setLink_same, satInc_eq] at hretrain
      exact hretrain _
  · rw [hst, hwidth]
    exact downSet_goes he hm hd (hdown ▸ hclear)

/-! ### The end of launches (R56, R206, R225) -/

theorem State.modEngine_keeps (s : State) (e : Nat) (f : Engine → Engine) : s.Keeps (s.modEngine e f) := .of_same

theorem State.trigger_keeps (s : State) (cid : Nat) : s.Keeps (s.trigger cid) := by
  unfold State.trigger
  dsimp only
  split
  · exact .refl s
  · refine (s.modEngine_keeps ..).trans (State.Keeps.foldl (fun u e => ?_) _ _)
    split
    · exact .of_same
    · exact .of_same

theorem State.loseCounter_keeps (s : State) (cid : Nat) : s.Keeps (s.loseCounter cid) := State.Keeps.trans .of_same (State.trigger_keeps _ _)

/-- Cells of which neither the stop nor a sequencer changes. -/
theorem State.mapCells_keeps (s : State) (f : Nat × Cell → Cell) (h : ∀ e : Nat × Cell, e.2.Keeps (f e)) : s.Keeps { s with cells := s.cells.map (fun e => (e.1, f e)) } :=
  { (State.Keeps.of_same : s.Keeps s) with
    cells := fun k => by
      simp only [State.cellAt]
      induction s.cells with
      | nil => exact .refl _
      | cons e l ih =>
        simp only [List.map_cons, NatMap.get]
        split
        · exact h e
        · exact ih }

theorem State.unholdRed_keeps (s : State) (w : RedWrite) : s.Keeps (s.unholdRed w) := by
  unfold State.unholdRed
  split
  · exact (State.modCell_loses s _ _ .of_seqs).toKeeps
  · exact .refl s

theorem State.dropData_keeps (s : State) (p : Owner → Bool) : s.Keeps (s.dropData p) :=
  ((State.Keeps.foldl (fun u w => u.unholdRed_keeps w) _ _).trans
    (State.mapCells_keeps _ (fun e => { e.2 with cbuf := e.2.cbuf.filter (fun h => !p h.2.owner) }) fun _ => .of_seqs)).trans .of_same

theorem State.modFired_keeps (s : State) (eng id : Nat) (f : Entry → Entry) : s.Keeps (s.modFired eng id f) := s.modEngine_keeps ..

theorem State.fireDone_keeps (s : State) (e : Entry) (st : BitVec 3) : s.Keeps (s.fireDone e st) := .of_same

/-- Fired entries whose data stop, and which end with a status (R206, R208). -/
theorem State.stopFired_keeps (s : State) (g : Nat) (l : List Entry) (f : Entry → Entry) :
    s.Keeps (l.foldl (fun s e => (s.stopData (.entry g e.id)).modFired g e.id f) s) :=
  State.Keeps.foldl (fun v (_ : Entry) => (v.dropData_keeps _).trans (State.modFired_keeps ..)) _ _

theorem State.lose_keeps (s : State) (coll : Nat) : s.Keeps (s.lose coll) := by
  unfold State.lose
  extract_lets l cids pkgs s1 mark s1' s2
  have h1 : s.Keeps s1 := State.Keeps.foldl (fun u g =>
    ((u.modEngine_keeps ..).trans (State.Keeps.foldl (fun v e => v.fireDone_keeps e 5) _ _)).trans (State.stopFired_keeps ..)) _ _
  have h1' : s1.Keeps s1' := (s1.mapCells_keeps (fun c => { c.2 with chains := c.2.chains.map (fun x => (x.1, mark x.2)) }) fun _ => .of_seqs).trans .of_same
  have h2 : s1'.Keeps s2 := State.Keeps.foldl (fun u c => u.loseCounter_keeps c) _ _
  exact ((h1.trans h1').trans h2).trans .of_same

theorem State.endCollectives_keeps (s : State) (key : Nat) (failed : Bool) : s.Keeps (s.endCollectives key failed) := by
  unfold State.endCollectives
  extract_lets mine colls posted gone s1 s2 s3
  have h2 : s.Keeps s2 := State.Keeps.trans .of_same (State.Keeps.foldl (fun u c => by
    split
    · exact .refl u
    · exact (State.bboxCell_loses ..).toKeeps) _ _)
  have h3 : s2.Keeps s3 := by
    unfold s3
    split
    · exact State.Keeps.foldl (fun u c => u.lose_keeps c) _ _
    · exact .refl _
  exact (h2.trans h3).trans (State.Keeps.foldl (fun u g => u.stopFired_keeps ..) _ _)

theorem State.loseExchange_keeps (s : State) (xid : Nat) : s.Keeps (s.loseExchange xid) := by
  unfold State.loseExchange
  dsimp only
  refine State.Keeps.trans (State.Keeps.trans .of_same (State.dropData_keeps _ _)) (State.Keeps.foldl (fun u m => ?_) _ _)
  split
  · exact .refl u
  · exact (u.loseCounter_keeps _).trans (State.sendInc_sends ..).toKeeps

theorem State.endMembers_keeps (s : State) (key : Nat) (failed : Bool) : s.Keeps (s.endMembers key failed) := by
  unfold State.endMembers
  extract_lets open' s1
  have h1 : s.Keeps s1 := by
    unfold s1
    split
    · exact State.Keeps.foldl (fun u x => u.loseExchange_keeps x) _ _
    · exact .refl s
  exact h1.trans .of_same

theorem State.giveRecord_keeps (s : State) (n : Nat) (r : Record) : s.Keeps (s.giveRecord n r) := by
  unfold State.giveRecord
  dsimp only
  split
  · exact .of_same
  · exact .of_same

theorem State.complete_keeps (s : State) (n : Nat) (p : StreamPkt) (status : BitVec 8) (value extra : Word) (payload : List Word) :
    s.Keeps (s.complete n p status value extra payload) := by
  unfold State.complete
  dsimp only
  split
  · exact .of_same
  · exact State.Keeps.trans .of_same (State.giveRecord_keeps ..)

theorem State.finish_keeps (s : State) (n : Nat) (p : StreamPkt) (status : BitVec 8) : s.Keeps (s.finish n p status) := State.complete_keeps ..

theorem State.setSignal_keeps (s : State) (i : Nat) (v : Word) : s.Keeps (s.setSignal i v) :=
  State.Keeps.trans .of_same (State.Keeps.foldl (fun u e => State.Keeps.foldl (fun w p => w.complete_keeps ..) _ _) _ _)

theorem State.completeLaunch_keeps (s : State) (l : Launch) : s.Keeps (s.completeLaunch l) := by
  have hend : s.Keeps ((s.endCollectives l.key (l.status ≠ .running)).endMembers l.key (l.status ≠ .running)) :=
    (s.endCollectives_keeps ..).trans (State.endMembers_keeps ..)
  unfold State.completeLaunch
  dsimp only
  refine State.Keeps.trans ?_ (State.complete_keeps ..)
  split
  · exact (hend.trans .of_same).trans (State.setSignal_keeps ..)
  · exact hend.trans .of_same

theorem State.settleLaunches_keeps (s : State) : s.Keeps s.settleLaunches :=
  State.Keeps.foldl (fun u l => by
    split
    · exact .refl u
    · split
      · exact u.completeLaunch_keeps _
      · exact .refl u) _ _

/-! ### RESETs (R42) -/

theorem State.stopStream_keeps (s : State) (n : Nat) : s.Keeps (s.stopStream n) := by
  unfold State.stopStream
  extract_lets gone s1 x s2 s3
  have h1 : s.Keeps s1 := State.Keeps.foldl (fun u p => u.finish_keeps n p 7) _ _
  have h3 : s1.Keeps s3 := .of_same
  exact ((h1.trans h3).trans (State.Keeps.foldl (fun u l => (u.stopLaunch_loses ..).toKeeps) _ _)).trans (State.settleLaunches_keeps _)

theorem State.stopDie_keeps (s : State) (d : Nat) : s.Keeps (s.stopDie d) := by
  unfold State.stopDie
  extract_lets s1
  have h1 : s.Keeps s1 := .of_same
  exact (h1.trans (State.Keeps.foldl (fun u l => (u.stopLaunch_loses ..).toKeeps) _ _)).trans (State.settleLaunches_keeps _)

theorem State.beginReset_keeps (s : State) (r : ResetReq) : s.Keeps (s.beginReset r) := by
  unfold State.beginReset
  split
  · exact (State.bbox_loses ..).toKeeps.trans (State.stopStream_keeps ..)
  · exact (State.bbox_loses ..).toKeeps.trans (State.stopDie_keeps ..)
  · exact (State.bbox_loses ..).toKeeps.trans (State.Keeps.foldl (fun u n => u.stopStream_keeps n) _ _)

/-- RESETs change no port. -/
theorem State.settleResets_ports (fuel : Nat) (s : State) : (State.settleResets fuel s).ports = s.ports := by
  induction fuel generalizing s with
  | zero => rfl
  | succ fuel ih =>
    unfold State.settleResets
    split
    · split
      · rfl
      · rw [ih, (State.beginReset_keeps ..).ports]
    · split
      · rw [ih, (State.finish_keeps ..).ports]
      · rfl

theorem State.settle_ports (s : State) : s.settle.ports = s.ports := by
  rw [State.settle, State.settleResets_ports, s.settleLaunches_keeps.ports]

/-- While no RESET runs or waits, what follows the end of a group is the completion of launches. -/
theorem State.settle_of_noReset {s : State} (h : s.noReset) : s.settle = s.settleLaunches := by
  have hrun : s.settleLaunches.running = none := s.settleLaunches_keeps.running.trans h.1
  have hpend : s.settleLaunches.pending = [] := s.settleLaunches_keeps.pending.trans h.2
  simp [State.settle, State.settleResets, hrun, hpend]

/-! ### Ports (R23, R27) -/

theorem State.portAt_setPort (s : State) (p j : Nat) (x : Port) : (s.setPort p x).portAt j = if j = p then x else s.portAt j := by
  simp only [State.portAt, State.setPort]
  split
  · rename_i h; rw [h, NatMap.get_put_same]
  · rename_i h; rw [NatMap.get_put_other _ _ _ h]

@[simp] theorem State.portAt_setPort_same (s : State) (p : Nat) (x : Port) : (s.setPort p x).portAt p = x := by simp [State.portAt_setPort]

theorem State.portAt_of_ports {s u : State} (h : u.ports = s.ports) (p : Nat) : u.portAt p = s.portAt p := by rw [State.portAt, State.portAt, h]

theorem State.enter_enters (s : State) (p : Nat) (stage : PortStage) : EntersStage p stage s (s.enter p stage) := by
  simp [EntersStage, State.enter]

theorem State.enterLock_enters (s : State) (p : Nat) : EntersStage p .lock s (s.enterLock p) ∧ ((s.enterLock p).portAt p).lanes = [] := by
  simp [EntersStage, State.enterLock]

theorem entersStage_of_ports {p : Nat} {stage : PortStage} {s u v : State} (h : EntersStage p stage s u) (hp : v.ports = u.ports) : EntersStage p stage s v := by
  rw [EntersStage, State.portAt_of_ports hp]; exact h

theorem stageLimit_eq (x : PortStage) : stageLimit x = stageTime x := by cases x <;> rfl

/-- The package's report changes no port. -/
theorem State.report'_ports (s : State) : s.report'.ports = s.ports := by
  unfold State.report'
  extract_lets r s1
  have h1 : s1.ports = s.ports := rfl
  split
  · split
    · rw [State.settle_ports]; rfl
    · exact h1
  · exact h1

/-- The steps of the bring-up that follow a port change no port, unless the scale-out ports begin to train. -/
theorem State.settlePorts_ports {s : State} (h : s.bringUp ≠ 1 ∨ s.ustexUp = false) : s.settlePorts.ports = s.ports := by
  unfold State.settlePorts
  rw [if_neg (by rcases h with h | h <;> simp [h])]
  split
  · exact s.report'_ports
  · rfl

/-- A port whose stage has failed waits. -/
theorem State.failPort_enters {s : State} {p : Nat} (h : s.bringUp ≠ 1 ∨ p = 32) : EntersStage p .waiting s (s.failPort p) := by
  refine entersStage_of_ports (s.enter_enters p .waiting) (State.settlePorts_ports (h.imp id fun hp => ?_))
  have hw := (s.enter_enters p .waiting).1
  subst hp
  simp only [State.portAt] at hw
  simp [State.ustexUp, hw]

/-- The first n ports begin at LOCK. -/
theorem State.enterLocks_enters (s : State) (n : Nat) :
    ((List.range n).foldl State.enterLock s).cycle = s.cycle ∧ ∀ i < n, EntersStage i .lock s ((List.range n).foldl State.enterLock s) := by
  induction n with
  | zero => exact ⟨rfl, fun i hi => absurd hi (Nat.not_lt_zero i)⟩
  | succ n ih =>
    obtain ⟨hc, hall⟩ := ih
    rw [List.range_succ, List.foldl_append]
    refine ⟨hc, fun i hi => ?_⟩
    simp only [List.foldl_cons, List.foldl_nil]
    rw [EntersStage, State.enterLock, State.portAt_setPort]
    split
    · exact ⟨rfl, hc⟩
    · exact hall i (by omega)

theorem State.portAt_enterLocks (s : State) (n : Nat) {p : Nat} (hp : n ≤ p) : ((List.range n).foldl State.enterLock s).portAt p = s.portAt p := by
  refine List.foldlRecOn (motive := fun u => u.portAt p = s.portAt p) (List.range n) State.enterLock rfl fun u hu i hi => ?_
  have hi := List.mem_range.1 hi
  rw [State.enterLock, State.portAt_setPort, if_neg (by omega), hu]

/-- A step of the bring-up changes no port. -/
theorem State.setBringUp_ports (s : State) (n : Nat) : ({ s with bringUp := n } : State).bringUp = n ∧ ({ s with bringUp := n } : State).ports = s.ports := ⟨rfl, rfl⟩

/-- Where the Ustex port carries frames, the scale-out ports begin to train (R26). -/
theorem State.settlePorts_locks {s : State} (h : s.bringUp = 1) (hup : s.ustexUp = true) :
    s.settlePorts.bringUp = 2 ∧ s.settlePorts.ports = ((List.range 32).foldl State.enterLock (s.resetEvent 16 6)).ports := by
  rw [State.settlePorts, if_pos (by simp [h, hup])]
  exact State.setBringUp_ports _ 2

theorem State.settlePorts_trains {s : State} (h : s.bringUp = 1) (hup : s.ustexUp = true) :
    s.settlePorts.bringUp = 2 ∧ ∀ i < 32, EntersStage i .lock s s.settlePorts := by
  obtain ⟨hb, hports⟩ := State.settlePorts_locks h hup
  obtain ⟨-, hall⟩ := (s.resetEvent 16 6).enterLocks_enters 32
  exact ⟨hb, fun i hi => entersStage_of_ports (hall i hi) hports⟩

theorem State.settlePorts_ustex {s : State} (h : s.bringUp = 1) (hup : s.ustexUp = true) : s.settlePorts.portAt 32 = s.portAt 32 := by
  rw [State.portAt_of_ports (State.settlePorts_locks h hup).2, State.portAt_enterLocks _ _ le_rfl]
  rfl

/-! ### What the events of ports do (R27) -/

theorem State.inStage_of {s : State} {p : Nat} {stage : PortStage} (hp : p ≤ 32) (hs : (s.portAt p).stage = stage)
    (ht : s.cycle ≤ (s.portAt p).since + stageLimit (s.portAt p).stage) : s.inStage p stage = true := by
  rw [hs, stageLimit_eq] at ht
  simp [State.inStage, hp, hs, ht]

theorem State.halfRate_iff (s : State) (p : Nat) :
    s.halfRate p = true ↔ p = 32 ∧ (s.portAt p).lanes.contains 0 = true ∧ (s.portAt p).lanes.contains 1 = true := by
  simp [State.halfRate, and_assoc]

theorem laneLock_goes {s : State} (hs : (s.portAt s.site.port).stage = .lock) (h : s.inStage s.site.port .lock = true) (hl : s.site.lane < lanesOf s.site.port) :
    let x := s.portAt s.site.port
    Goes .laneLock s (fun u =>
      let lanes := if x.lanes.contains s.site.lane = true then x.lanes else x.lanes ++ [s.site.lane]
      (u.portAt s.site.port).lanes = lanes ∧
      (if lanes.length = lanesOf s.site.port then EntersStage s.site.port .align s u
       else (u.portAt s.site.port).stage = .lock ∧ (u.portAt s.site.port).since = x.since)) := by
  intro x
  refine ⟨_, (if_neg (by simp [h, hl]) : execLaneLock s = _), ?_⟩
  beta_reduce
  intro lanes
  change (State.portAt (if lanes.length = lanesOf s.site.port then _ else _) s.site.port).lanes = lanes ∧ _
  split
  · exact ⟨by simp [State.enter, lanes, x], State.enter_enters _ _ _⟩
  · simp [lanes, x, hs]

theorem lockWindowEnd_goes {s : State} (hs : (s.portAt s.site.port).stage = .lock) 
    (ht : (s.portAt s.site.port).since + stageLimit (s.portAt s.site.port).stage ≤ s.cycle) (hb : s.bringUp ≠ 1) :
    Goes .lockWindowEnd s (fun u =>
      if s.halfRate s.site.port = true then
        EntersStage s.site.port .align s u ∧ (u.portAt s.site.port).half = true ∧ (u.portAt s.site.port).lanes = [0, 1]
      else EntersStage s.site.port .waiting s u) := by
  have ht' : (s.portAt s.site.port).since + lockTime ≤ s.cycle := by rwa [hs] at ht
  have hexec : exec .lockWindowEnd s = _ := (if_neg (by simp [hs, ht']) : execLockWindowEnd s = _)
  split at hexec
  · rename_i hh
    refine ⟨_, hexec, ?_⟩
    beta_reduce; rw [if_pos hh]
    exact ⟨State.enter_enters _ _ _, by simp [State.enter], by simp [State.enter]⟩
  · rename_i hh
    refine ⟨_, hexec, ?_⟩
    beta_reduce; rw [if_neg hh]
    exact State.failPort_enters (.inl hb)

theorem capabilityWord_goes {s : State} (h : s.inStage s.site.port .negotiate = true) (hb : s.bringUp ≠ 1) :
    Goes .capabilityWord s (EntersStage s.site.port (if s.site.yes = true then .confirm else .waiting) s) := by
  have hexec : exec .capabilityWord s = _ := (if_neg (by simp [h]) : execCapabilityWord s = _)
  split at hexec
  · rename_i hy
    refine ⟨_, hexec, ?_⟩
    rw [if_pos hy]
    exact State.enter_enters { s with portOut := s.portOut ++ [.capability s.site.port s.pkgId] } _ _
  · rename_i hy
    refine ⟨_, hexec, ?_⟩
    rw [if_neg hy]
    exact State.failPort_enters (s := { s with portOut := s.portOut ++ [.capability s.site.port s.pkgId] }) (.inl hb)

/-- CONFIRM_TEST_FRAMES without an uncorrectable codeword: the port carries frames, and the bring-up goes on (R26, R27). -/
theorem exec_confirmTestFrames {s : State} (h : s.inStage s.site.port .confirm = true) (hy : s.site.yes = true) :
    ∃ u : State, exec .confirmTestFrames s = .next u.settlePorts ∧ u.ports = (s.enter s.site.port .active).ports ∧ u.bringUp = s.bringUp ∧ u.cycle = s.cycle := by
  have hexec : exec .confirmTestFrames s = _ := (if_neg (by simp [h]) : execConfirmTestFrames s = _)
  rw [if_neg (by simp [hy])] at hexec
  refine ⟨_, hexec, ?_⟩
  split
  · exact ⟨rfl, rfl, rfl⟩
  · exact ⟨rfl, rfl, rfl⟩

theorem State.ustexUp_of_enter {s u : State} (h : u.ports = (s.enter 32 .active).ports) : u.ustexUp = true := by
  have hstage : (u.portAt 32).stage = .active := (entersStage_of_ports (s.enter_enters 32 .active) h).1
  simp only [State.portAt] at hstage
  simp [State.ustexUp, hstage]

theorem confirmTestFrames_goes {s : State} (h : s.inStage s.site.port .confirm = true) (hb : s.bringUp ≠ 1 ∨ s.site.port = 32) :
    Goes .confirmTestFrames s (EntersStage s.site.port (if s.site.yes = true then .active else .waiting) s) := by
  by_cases hy : s.site.yes = true
  · obtain ⟨u, hexec, hports, hbring, -⟩ := exec_confirmTestFrames h hy
    have hu : EntersStage s.site.port .active s u := entersStage_of_ports (s.enter_enters ..) hports
    refine ⟨_, hexec, ?_⟩
    rw [if_pos hy]
    by_cases h1 : s.bringUp = 1
    · have hp : s.site.port = 32 := hb.resolve_left (not_not_intro h1)
      rw [hp] at hports hu ⊢
      rwa [EntersStage, State.settlePorts_ustex (hbring.trans h1) (State.ustexUp_of_enter hports)]
    · exact entersStage_of_ports hu (State.settlePorts_ports (.inl (by rwa [hbring])))
  · have hexec : exec .confirmTestFrames s = _ := (if_neg (by simp [h]) : execConfirmTestFrames s = _)
    rw [if_pos (by simp [hy])] at hexec
    refine ⟨_, hexec, ?_⟩
    rw [if_neg hy]
    exact State.failPort_enters hb

/-- The Ustex port carries frames during the bring-up: the scale-out ports begin to train (R26). -/
theorem confirmTestFrames_trains {s : State} (h : s.inStage s.site.port .confirm = true) (hp : s.site.port = 32) (hy : s.site.yes = true) (hb : s.bringUp = 1) :
    Goes .confirmTestFrames s (fun u => u.bringUp = 2 ∧ ∀ i < 32, EntersStage i .lock s u) := by
  obtain ⟨u, hexec, hports, hbring, hcycle⟩ := exec_confirmTestFrames h hy
  rw [hp] at hports
  obtain ⟨h2, hall⟩ := State.settlePorts_trains (hbring.trans hb) (State.ustexUp_of_enter hports)
  simp only [EntersStage, hcycle] at hall
  exact ⟨_, hexec, h2, hall⟩

theorem trainingStageTimeout_goes {s : State}
    (hs : (s.portAt s.site.port).stage = .align ∨ (s.portAt s.site.port).stage = .negotiate ∨ (s.portAt s.site.port).stage = .confirm ∨
      ((s.portAt s.site.port).stage = .lock ∧ ¬ s.halfRate s.site.port = true))
    (ht : (s.portAt s.site.port).since + stageTime (s.portAt s.site.port).stage ≤ s.cycle) (hb : s.bringUp ≠ 1) :
    Goes .trainingStageTimeout s (EntersStage s.site.port .waiting s) := by
  refine ⟨s.failPort s.site.port, ?_, State.failPort_enters (.inl hb)⟩
  change execTrainingStageTimeout s = _
  unfold execTrainingStageTimeout
  rcases hs with h | h | h | ⟨h, hh⟩
  · simp [h, h ▸ ht]
  · simp [h, h ▸ ht]
  · simp [h, h ▸ ht]
  · simp [h, h ▸ ht, hh]

/-! ### Power (R24, R258, R267) -/

theorem State.freeze_frozen (s : State) (d : Nat) :
    (NatMap.get {} (s.freeze d).boxes d).frozen = true ∧
      ∀ e, (NatMap.get {} s.boxes e).frozen = true → (NatMap.get {} (s.freeze d).boxes e).frozen = true := by
  refine ⟨by simp [State.freeze], fun e he => ?_⟩
  by_cases h : e = d
  · subst h; simp [State.freeze]
  · rwa [State.freeze, NatMap.get_put_other _ _ _ h]

/-- Freezing the boxes of the first n dies. -/
theorem State.freezeAll_frozen (s : State) (n : Nat) :
    ((List.range n).foldl State.freeze s).cells = s.cells ∧ (((List.range n).foldl State.freeze s).noReset ↔ s.noReset) ∧
      ∀ d < n, (NatMap.get {} ((List.range n).foldl State.freeze s).boxes d).frozen = true := by
  induction n with
  | zero => exact ⟨rfl, Iff.rfl, fun d hd => absurd hd (Nat.not_lt_zero d)⟩
  | succ n ih =>
    obtain ⟨hcells, hreset, hfrozen⟩ := ih
    rw [List.range_succ, List.foldl_append]
    obtain ⟨hn, hothers⟩ := State.freeze_frozen ((List.range n).foldl State.freeze s) n
    refine ⟨hcells, hreset, fun d hd => ?_⟩
    rcases Nat.lt_succ_iff_lt_or_eq.1 hd with hd | rfl
    · exact hothers d (hfrozen d hd)
    · exact hn

/-- A machine check stops its cell, and the stops of other cells' machine checks stand. -/
theorem State.machineCheck_stop (s : State) (k code : Nat) (d0 d1 : Word) :
    ((s.machineCheck k code d0 d1).noReset ↔ s.noReset) ∧
      ∀ j, j = k ∨ (s.cellAt j).stop = some .machineCheck → ((s.machineCheck k code d0 d1).cellAt j).stop = some .machineCheck := by
  unfold State.machineCheck
  extract_lets s1 empty gone s2 s3
  have h3 (j : Nat) (hj : j = k ∨ (s.cellAt j).stop = some .machineCheck) : (s3.cellAt j).stop = some .machineCheck := by
    change (s2.cellAt j).stop = _
    by_cases hk : j = k
    · subst hk; rw [State.cellAt_modCell_same]
    · rw [State.cellAt_modCell_other _ _ hk]
      exact hj.resolve_left hk
  have hreset1 : s1.noReset ↔ s.noReset := Iff.rfl
  have hreset2 : s2.noReset ↔ s1.noReset := Iff.rfl
  have hreset3 : s3.noReset ↔ s2.noReset := Iff.rfl
  have hreset := (hreset3.trans hreset2).trans hreset1
  clear_value s3
  split
  · exact ⟨hreset, h3⟩
  · rename_i b _
    have hfault := (s3.faultLaunch_loses k b.launch b.group code 0).toKeeps
    refine ⟨?_, fun j hj => (hfault.cells j).stop (h3 j hj)⟩
    rw [← hreset, State.noReset, State.noReset, hfault.running, hfault.pending]

/-- Machine checks on several cells. -/
theorem State.machineChecks_stop (l : List Nat) (s : State) :
    ((l.foldl (fun s k => s.machineCheck k 0 0 0) s).noReset ↔ s.noReset) ∧
      ∀ j, j ∈ l ∨ (s.cellAt j).stop = some .machineCheck → ((l.foldl (fun s k => s.machineCheck k 0 0 0) s).cellAt j).stop = some .machineCheck := by
  induction l generalizing s with
  | nil => exact ⟨Iff.rfl, fun j hj => hj.resolve_left (List.not_mem_nil)⟩
  | cons k l ih =>
    obtain ⟨hreset, hstop⟩ := s.machineCheck_stop k 0 0 0
    obtain ⟨hreset', hstop'⟩ := ih (s.machineCheck k 0 0 0)
    refine ⟨hreset'.trans hreset, fun j hj => hstop' j ?_⟩
    rcases hj with hj | hj
    · rcases List.mem_cons.1 hj with rfl | hj
      · exact .inr (hstop j (.inl rfl))
      · exact .inl hj
    · exact .inr (hstop j (.inr hj))

theorem powerEmergency_goes {s : State} (h : s.noReset) :
    Goes .powerEmergency s (fun u => (∀ k ∈ allCells, s.cellUp k = true → (u.cellAt k).stop = some .machineCheck) ∧
      (∀ d < 20, (NatMap.get {} u.boxes d).frozen = true)) := by
  refine ⟨_, (rfl : execPowerEmergency s = _), ?_⟩
  generalize hs1 : s.bbox 16 _ = s1
  have hreset : s1.noReset := hs1 ▸ h
  have hup (k : Nat) : s1.cellUp k = s.cellUp k := hs1 ▸ rfl
  obtain ⟨hreset2, hstop⟩ := State.machineChecks_stop (allCells.filter s1.cellUp) s1
  generalize (allCells.filter s1.cellUp).foldl (fun s k => s.machineCheck k 0 0 0) s1 = s2 at hreset2 hstop
  obtain ⟨hcells, hreset3, hfrozen⟩ := s2.freezeAll_frozen 20
  generalize (List.range 20).foldl State.freeze s2 = s3 at hcells hreset3 hfrozen
  have hkeeps := s3.settleLaunches_keeps
  rw [State.settle_of_noReset (hreset3.2 (hreset2.2 hreset))]
  refine ⟨fun k hk hc => (hkeeps.cells k).stop ?_, fun d hd => (hkeeps.frozen d).trans (hfrozen d hd)⟩
  have hmem : k ∈ allCells.filter s1.cellUp := List.mem_filter.2 ⟨hk, (hup k).trans hc⟩
  simpa only [State.cellAt, hcells] using hstop k (.inl hmem)

/-- Settles O44: a clause for each event of a port, and the power events; what follows an event of a port changes no port, but where the Ustex port first carries
frames, and what follows a power emergency ends launches, which leaves every stop by a machine check and every frozen box. -/
theorem portsAndPower : Obligations.PortsAndPower := by
  intro s p x late intime half
  have hhalf := s.halfRate_iff s.site.port
  refine ⟨fun hp hs ht hl => ?_, fun hs ht hb => ?_, fun hp hs ht => ?_, fun hp hs ht hb => capabilityWord_goes (State.inStage_of hp hs ht) hb,
    fun hp hs ht hb => confirmTestFrames_goes (State.inStage_of hp hs ht) hb,
    fun hs ht hp hy hb => confirmTestFrames_trains (State.inStage_of (by omega) hs ht) hp hy hb,
    fun hs ht hb => trainingStageTimeout_goes (by rw [hhalf]; exact hs) (stageLimit_eq _ ▸ ht) hb,
    fun hs ht => ⟨_, if_pos (by simp [hs, ht, x, p, holdoffTime]), State.enterLock_enters ..⟩,
    fun hs => ⟨_, if_pos hs, State.enterLock_enters ..⟩, rfl, rfl, rfl, powerEmergency_goes⟩
  · exact laneLock_goes hs (State.inStage_of hp hs ht) hl
  · have hgo := lockWindowEnd_goes hs ht hb
    simp only [hhalf] at hgo
    exact hgo
  · exact ⟨_, if_pos (State.inStage_of hp hs ht), State.enter_enters ..⟩

/-! ### What a request does at its home depends on no pair, and changes none (R17) -/

/-- The state with other pairs. -/
def State.withPairs (s : State) (l : NatMap Pair) : State := { s with pairs := l }

theorem State.fire_withPairs (s : State) (l : NatMap Pair) (e : Entry) : (s.withPairs l).fire e = (s.fire e).withPairs l := rfl

theorem State.modEngine_withPairs (s : State) (l : NatMap Pair) (e : Nat) (f : Engine → Engine) : (s.withPairs l).modEngine e f = (s.modEngine e f).withPairs l := rfl

theorem State.trigger_withPairs (s : State) (l : NatMap Pair) (cid : Nat) : (s.withPairs l).trigger cid = (s.trigger cid).withPairs l := by
  have hc : (s.withPairs l).counterAt cid = s.counterAt cid := rfl
  have he : (s.withPairs l).engineAt (cidEng cid) = s.engineAt (cidEng cid) := rfl
  unfold State.trigger
  dsimp only
  rw [hc, he]
  split
  · rfl
  · rw [State.modEngine_withPairs]
    refine List.foldl_hom (fun v : State => v.withPairs l) fun u e => ?_
    split
    · exact u.fire_withPairs l _
    · exact u.fire_withPairs l e

theorem State.poke_withPairs (s : State) (l : NatMap Pair) (pa : Nat) (bs : List Byte) : (s.withPairs l).poke pa bs = (s.poke pa bs).withPairs l := by
  have hbad : (s.withPairs l).badWords = s.badWords := rfl
  unfold State.poke
  rw [hbad]
  split
  · rfl
  · rfl

theorem State.writeWord_withPairs (s : State) (l : NatMap Pair) (pa : Nat) (bs : List Byte) (h : Held) :
    (s.withPairs l).writeWord pa bs h = ((s.writeWord pa bs h).1.withPairs l, (s.writeWord pa bs h).2) := by
  have hheld : (s.withPairs l).wordHeld pa = s.wordHeld pa := rfl
  have hcell : (s.withPairs l).cellAt (spCell pa) = s.cellAt (spCell pa) := rfl
  unfold State.writeWord
  dsimp only
  rw [hheld, hcell, s.poke_withPairs]
  split
  · split
    · rfl
    · rfl
  · rfl

theorem State.atomicAt_withPairs (s : State) (l : NatMap Pair) (pa op n : Nat) (y c : Word) :
    (s.withPairs l).atomicAt pa op n y c = ((s.atomicAt pa op n y c).1, (s.atomicAt pa op n y c).2.withPairs l) := by
  have hbytes : (s.withPairs l).bytesAt pa n = s.bytesAt pa n := rfl
  unfold State.atomicAt
  dsimp only
  rw [hbytes]
  split
  · rfl
  · rw [s.poke_withPairs]

theorem State.noteLease_withPairs (s : State) (l : NatMap Pair) (pa : Nat) : (s.withPairs l).noteLease pa = (s.noteLease pa).withPairs l := by
  unfold State.noteLease
  split
  · rfl
  · rfl

theorem State.bump_withPairs (s : State) (l : NatMap Pair) (cid : Nat) (amount fold : Word) :
    (s.withPairs l).bump cid amount fold = (s.bump cid amount fold).withPairs l := by
  unfold State.bump
  exact State.trigger_withPairs (s.setCounter cid _) l cid

theorem State.clearCounter_withPairs (s : State) (l : NatMap Pair) (cid : Nat) : (s.withPairs l).clearCounter cid = (s.clearCounter cid).withPairs l :=
  State.trigger_withPairs (s.setCounter cid {}) l cid

theorem State.applyReq_withPairs (s : State) (l : NatMap Pair) (r : MeshReq) :
    (s.withPairs l).applyReq r = ((s.applyReq r).1, (s.applyReq r).2.withPairs l) := by
  have hbad (n : Nat) : (s.withPairs l).badRead r.pa n = s.badRead r.pa n := rfl
  unfold State.applyReq
  split
  case h_1 n _ =>
    have hheld : (s.withPairs l).heldBad r.cell r.seq r.pa n = s.heldBad r.cell r.seq r.pa n := rfl
    rw [hbad, hheld, s.noteLease_withPairs]
    split
    · rfl
    · rfl
  case h_2 bs _ =>
    rw [s.writeWord_withPairs]
    dsimp only
    split
    · rfl
    · rfl
  case h_3 op n y c _ =>
    rw [hbad, s.atomicAt_withPairs]
    split
    · rfl
    · rfl
  case h_4 => rfl
  case h_5 cid amount fold _ => rw [s.bump_withPairs]; rfl
  case h_6 cid _ => rw [s.clearCounter_withPairs]; rfl
  case h_7 => rfl

/-! ### Requests served (R17, R123) -/

theorem State.serve_of_nil {s : State} {src dst : Nat} (n : Nat) (h : (s.pairAt src dst).waiting = []) : State.serve src dst n s = s := by
  cases n with
  | zero => rfl
  | succ n => simp only [State.serve, h]

/-- A request that has to wait stays the first of those that wait. -/
theorem State.serve_of_mustWait {s : State} {src dst n : Nat} {q : BitVec 16} {rest : List (BitVec 16)} {r : MeshReq} (h : (s.pairAt src dst).waiting = q :: rest)
    (hr : (s.pairAt src dst).unacked.find? (fun r => r.q == q) = some r) (hw : s.mustWait r = true) : State.serve src dst (n + 1) s = s := by
  simp only [State.serve, h, hr, hw, if_true]

/-- A request that need not wait is applied, and its response stored. -/
theorem State.serve_of_apply {s : State} {src dst n : Nat} {q : BitVec 16} {rest : List (BitVec 16)} {r : MeshReq} (h : (s.pairAt src dst).waiting = q :: rest)
    (hr : (s.pairAt src dst).unacked.find? (fun r => r.q == q) = some r) (hw : s.mustWait r = false) :
    State.serve src dst (n + 1) s = State.serve src dst n ((s.applyReq r).2.modPair src dst (fun p =>
      { p with waiting := rest, resp := (q, (s.applyReq r).1) :: p.resp.take 255 })) := by
  simp only [State.serve, h, hr, hw, Bool.false_eq_true, if_false]

/-- The state in which a pair, with nothing waiting, has accepted request q (R17). -/
def State.accept (s : State) (src dst : Nat) (q : BitVec 16) : State :=
  s.setPair src dst { s.pairAt src dst with last := q, waiting := [q], heldAt := s.cycle }

theorem State.accept_pairAt (s : State) (src dst : Nat) (q : BitVec 16) :
    (s.accept src dst q).pairAt src dst = { s.pairAt src dst with last := q, waiting := [q], heldAt := s.cycle } := State.pairAt_setPair_same ..

theorem State.accept_mustWait (s : State) (src dst : Nat) (q : BitVec 16) (r : MeshReq) : (s.accept src dst q).mustWait r = s.mustWait r := rfl

theorem exec_meshRequest_next {s : State} {r : MeshReq}
    (hr : (s.pairAt s.site.src s.site.dst).unacked.find? (fun r => r.q == s.site.q) = some r) (hreach : s.reaches s.site.src s.site.dst = true)
    (hw : (s.pairAt s.site.src s.site.dst).waiting = []) (hq : s.site.q = (s.pairAt s.site.src s.site.dst).last + 1) :
    exec .meshRequest s = .next (State.serve s.site.src s.site.dst 257 (s.accept s.site.src s.site.dst s.site.q)) := by
  have hany : (s.pairAt s.site.src s.site.dst).unacked.any (fun r => r.q == s.site.q) = true := by
    rw [List.any_eq_true]
    exact ⟨r, List.mem_of_find?_eq_some hr, (List.find?_some hr :)⟩
  have hnext : s.site.q - (s.pairAt s.site.src s.site.dst).last = 1 := by rw [hq]; bv_omega
  change execMeshRequest s = _
  simp only [execMeshRequest, hany, hreach, hnext, hw, State.modPair, State.accept, Bool.not_true, Bool.or_false, Bool.false_eq_true, if_false, if_true,
    List.nil_append, List.isEmpty_nil]

/-- A duplicate, and a request that overtakes another, apply nothing. -/
theorem exec_meshRequest_other {s : State} (hw : (s.pairAt s.site.src s.site.dst).waiting = [])
    (hq : s.site.q ≠ (s.pairAt s.site.src s.site.dst).last + 1) : exec .meshRequest s = .next s := by
  have hnext : ¬ s.site.q - (s.pairAt s.site.src s.site.dst).last = 1 := fun h => hq (by rw [← h]; bv_omega)
  change execMeshRequest s = _
  simp only [execMeshRequest, hnext, if_false, State.serve_of_nil _ hw, ite_self]

/-- The request that has been accepted, found again. -/
theorem State.accept_find {s : State} {src dst : Nat} {q : BitVec 16} {r : MeshReq} (hr : (s.pairAt src dst).unacked.find? (fun r => r.q == q) = some r) :
    ((s.accept src dst q).pairAt src dst).unacked.find? (fun r => r.q == q) = some r := by rw [State.accept_pairAt]; exact hr

theorem State.accept_waiting (s : State) (src dst : Nat) (q : BitVec 16) : ((s.accept src dst q).pairAt src dst).waiting = [q] := by rw [State.accept_pairAt]

theorem State.serve_accept_of_mustWait {s : State} {src dst : Nat} {q : BitVec 16} {r : MeshReq}
    (hr : (s.pairAt src dst).unacked.find? (fun r => r.q == q) = some r) (hmust : s.mustWait r = true) :
    State.serve src dst 257 (s.accept src dst q) = s.accept src dst q :=
  State.serve_of_mustWait (s.accept_waiting src dst q) (State.accept_find hr) ((s.accept_mustWait src dst q r).trans hmust)

theorem State.serve_accept_of_apply {s : State} {src dst : Nat} {q : BitVec 16} {r : MeshReq}
    (hr : (s.pairAt src dst).unacked.find? (fun r => r.q == q) = some r) (hmust : s.mustWait r = false) :
    State.serve src dst 257 (s.accept src dst q) = ((s.applyReq r).2.withPairs (s.accept src dst q).pairs).setPair src dst
      { s.pairAt src dst with last := q, waiting := [], heldAt := s.cycle, resp := (q, (s.applyReq r).1) :: (s.pairAt src dst).resp.take 255 } := by
  have happly : (s.accept src dst q).applyReq r = ((s.applyReq r).1, (s.applyReq r).2.withPairs (s.accept src dst q).pairs) := s.applyReq_withPairs _ r
  have hpair : ((s.applyReq r).2.withPairs (s.accept src dst q).pairs).pairAt src dst = (s.accept src dst q).pairAt src dst := rfl
  rw [State.serve_of_apply (s.accept_waiting src dst q) (State.accept_find hr) ((s.accept_mustWait src dst q r).trans hmust), State.serve_of_nil _ (by simp [State.modPair]), happly]
  dsimp only
  rw [State.modPair, hpair, State.accept_pairAt]

theorem meshRequest_applies {s : State} {r : MeshReq}
    (hr : (s.pairAt s.site.src s.site.dst).unacked.find? (fun r => r.q == s.site.q) = some r) (hreach : s.reaches s.site.src s.site.dst = true)
    (hw : (s.pairAt s.site.src s.site.dst).waiting = []) (hq : s.site.q = (s.pairAt s.site.src s.site.dst).last + 1) (hmust : s.mustWait r = false) :
    Goes .meshRequest s (fun u =>
      (u.pairAt s.site.src s.site.dst).last = s.site.q ∧ (u.pairAt s.site.src s.site.dst).waiting = [] ∧
      (u.pairAt s.site.src s.site.dst).resp = (s.site.q, (s.applyReq r).1) :: (s.pairAt s.site.src s.site.dst).resp.take 255 ∧
      (u.pairAt s.site.src s.site.dst).unacked = (s.pairAt s.site.src s.site.dst).unacked ∧ u.mem = (s.applyReq r).2.mem ∧ u.cells = (s.applyReq r).2.cells) := by
  refine ⟨_, (exec_meshRequest_next hr hreach hw hq).trans (congrArg _ (State.serve_accept_of_apply hr hmust)), ?_⟩
  beta_reduce
  rw [State.pairAt_setPair_same]
  exact ⟨rfl, rfl, rfl, rfl, rfl, rfl⟩

theorem meshRequest_waits {s : State} {r : MeshReq}
    (hr : (s.pairAt s.site.src s.site.dst).unacked.find? (fun r => r.q == s.site.q) = some r) (hreach : s.reaches s.site.src s.site.dst = true)
    (hw : (s.pairAt s.site.src s.site.dst).waiting = []) (hq : s.site.q = (s.pairAt s.site.src s.site.dst).last + 1) (hmust : s.mustWait r = true) :
    Goes .meshRequest s (fun u =>
      (u.pairAt s.site.src s.site.dst).last = s.site.q ∧ (u.pairAt s.site.src s.site.dst).waiting = [s.site.q] ∧
      (u.pairAt s.site.src s.site.dst).resp = (s.pairAt s.site.src s.site.dst).resp ∧ u.mem = s.mem ∧ u.cells = s.cells) := by
  refine ⟨_, (exec_meshRequest_next hr hreach hw hq).trans (congrArg _ (State.serve_accept_of_mustWait hr hmust)), ?_⟩
  beta_reduce
  rw [State.accept_pairAt]
  exact ⟨rfl, rfl, rfl, rfl, rfl⟩

/-! ### Requests that take a number (R17) -/

/-- Numbering requests changes nothing but pairs. -/
theorem State.numbers_eq_withPairs (l : List MeshReq) (s : State) (src dst : Nat) :
    ∃ m, l.foldl (fun s r => s.number src dst r) s = s.withPairs m := by
  refine List.foldlRecOn (motive := fun u => ∃ m, u = s.withPairs m) l _ ⟨s.pairs, rfl⟩ fun u hu r _ => ?_
  obtain ⟨m, rfl⟩ := hu
  exact ⟨_, rfl⟩

theorem State.refill_eq_withPairs (s : State) (src dst : Nat) : ∃ m, s.refill src dst = s.withPairs m := by
  unfold State.refill
  dsimp only
  split
  · exact ⟨s.pairs, rfl⟩
  · obtain ⟨m, hm⟩ := State.numbers_eq_withPairs ((s.pairAt src dst).backlog.take (256 - (s.pairAt src dst).unacked.length))
      (s.setPair src dst { s.pairAt src dst with backlog := (s.pairAt src dst).backlog.drop (256 - (s.pairAt src dst).unacked.length) }) src dst
    exact ⟨m, hm⟩

theorem State.refill_cells (s : State) (src dst : Nat) : (s.refill src dst).cells = s.cells := by
  obtain ⟨m, hm⟩ := s.refill_eq_withPairs src dst
  rw [hm]
  rfl

theorem State.refill_chunksIn (s : State) (src dst : Nat) : (s.refill src dst).chunksIn = s.chunksIn := by
  obtain ⟨m, hm⟩ := s.refill_eq_withPairs src dst
  rw [hm]
  rfl

theorem State.refill_sends (s : State) (src dst : Nat) : s.Sends (s.refill src dst) := by
  unfold State.refill
  dsimp only
  split
  · exact .refl s
  · exact State.Sends.trans (State.setPair_sends s src dst _ (by exact List.prefix_rfl) (by rfl)) (State.Sends.foldl (fun u r => u.number_sends src dst r) _ _)

theorem State.numbers_length (l : List MeshReq) (s : State) (src dst : Nat) :
    ((l.foldl (fun s r => s.number src dst r) s).pairAt src dst).unacked.length = (s.pairAt src dst).unacked.length + l.length := by
  induction l generalizing s with
  | nil => rfl
  | cons r l ih =>
    rw [List.foldl_cons, ih, State.number, State.pairAt_setPair_same, List.length_append, List.length_cons, List.length_cons, List.length_nil]
    omega

/-- As many requests take a number as 256 unacknowledged ones allow. -/
theorem State.refill_length (s : State) (src dst : Nat) :
    ((s.refill src dst).pairAt src dst).unacked.length =
      max (s.pairAt src dst).unacked.length (min 256 ((s.pairAt src dst).unacked.length + (s.pairAt src dst).backlog.length)) := by
  unfold State.refill
  dsimp only
  split
  · rename_i h
    simp only [Bool.or_eq_true, List.isEmpty_iff, decide_eq_true_eq] at h
    rcases h with h | h
    · simp only [h, List.length_nil]; omega
    · omega
  · rename_i h
    simp only [Bool.or_eq_true, decide_eq_true_eq, not_or] at h
    rw [State.numbers_length, State.pairAt_setPair_same, List.length_take]
    dsimp only
    omega

/-- After a step a pair has l unacknowledged, and behind it those of its backlog that could take a number. -/
def KeepsAndFills (src dst : Nat) (l : List MeshReq) (s u : State) : Prop :=
  l <+: (u.pairAt src dst).unacked ∧ (s.chunksIn = [] →
    (u.pairAt src dst).unacked.length = max l.length (min 256 (l.length + (s.pairAt src dst).backlog.length)))

theorem keepsAndFills_of_loses {src dst : Nat} {l : List MeshReq} {s u v : State} (h : KeepsAndFills src dst l s u) (hc : u.chunksIn = s.chunksIn) (hv : u.Loses v) :
    KeepsAndFills src dst l s v := by
  obtain ⟨hprefix, hlen⟩ := h
  refine ⟨hprefix.trans (hv.unacked src dst), fun hs => ?_⟩
  rw [State.pairAt, (hv.pairs (hc.trans hs)).1, ← State.pairAt, hlen hs]

/-- A pair whose unacknowledged requests are set to l, and which is then filled up. -/
theorem State.refill_keepsAndFills {src dst : Nat} {l : List MeshReq} {s u : State} (hu : (s.setPair src dst { s.pairAt src dst with unacked := l }).Loses u) :
    KeepsAndFills src dst l s (u.refill src dst) ∧ ((u.refill src dst).pairAt src dst).last = (s.pairAt src dst).last := by
  have hsends := u.refill_sends src dst
  have hprefix := hu.unacked src dst
  rw [State.pairAt_setPair_same] at hprefix
  refine ⟨⟨hprefix.trans (hsends.unacked src dst), fun hs => ?_⟩, ?_⟩
  · rw [State.refill_length, State.pairAt, (hu.pairs hs).1, ← State.pairAt, State.pairAt_setPair_same]
  · rw [hsends.last, hu.last, State.pairAt_setPair_same]

/-! ### Responses (R17) -/

/-- The state in which a response has acknowledged request q of a pair. -/
def State.acknowledge (s : State) (src dst : Nat) (q : BitVec 16) : State :=
  (s.setPair src dst { s.pairAt src dst with unacked := (s.pairAt src dst).unacked.filter (fun x => x.q != q) }).refill src dst

theorem State.acknowledge_fills (s : State) (src dst : Nat) (q : BitVec 16) :
    KeepsAndFills src dst ((s.pairAt src dst).unacked.filter (fun x => x.q != q)) s (s.acknowledge src dst q) ∧
      ((s.acknowledge src dst q).pairAt src dst).last = (s.pairAt src dst).last := State.refill_keepsAndFills (.refl _)

theorem State.acknowledge_keeps (s : State) (src dst : Nat) (q : BitVec 16) : s.Keeps (s.acknowledge src dst q) :=
  (State.setPair_keeps ..).trans (State.refill_keeps ..)

theorem State.acknowledge_cells (s : State) (src dst : Nat) (q : BitVec 16) : (s.acknowledge src dst q).cells = s.cells := State.refill_cells ..

theorem State.acknowledge_chunksIn (s : State) (src dst : Nat) (q : BitVec 16) : (s.acknowledge src dst q).chunksIn = s.chunksIn := State.refill_chunksIn ..

/-- An access that awaits an answer gets it. -/
theorem State.answer_access {s : State} {r : MeshReq} {dst : Nat} (a : Access) (h : ((s.cellAt r.cell).seq r.seq).access = some (.waiting dst r.q)) :
    (((s.answer r dst a).cellAt r.cell).seq r.seq).access = some a := by
  simp [State.answer, State.modSeqOf, Seq.awaits, h]

/-- The read that a request has carried is back at its source. -/
def State.askBack (s : State) (n : Nat) : State := { s with asks := s.asks.map (fun (a : Ask) => if a.num = n then { a with back := true } else a) }

theorem State.askBack_loses (s : State) (n : Nat) : s.Loses (s.askBack n) := .of_same

theorem exec_meshResponse {s : State} {r : MeshReq} {b : BitVec 16 × MemAns}
    (hr : (s.pairAt s.site.src s.site.dst).unacked.find? (fun r => r.q == s.site.q) = some r)
    (hb : (s.pairAt s.site.src s.site.dst).resp.find? (fun r => r.1 == s.site.q) = some b)
    (hreach : s.reaches s.site.dst s.site.src = true) (hw : (s.pairAt s.site.src s.site.dst).waiting.contains r.q = false) :
    exec .meshResponse s =
      let s1 := s.acknowledge s.site.src s.site.dst r.q
      match r.op, b.2 with
      | .write _, .uncorrectable => .next ((s1.logBad r.cell r.pa 0).deferred r.cell tcUncorrectable r.seq r.pc r.va)
      | .write _, _ => .next s1
      | .carry n, _ => .next (s1.askBack n).settleChunks
      | _, _ => .next (s1.answer r s.site.dst (.answered b.2)) := by
  change execMeshResponse s = _
  unfold execMeshResponse
  dsimp only
  rw [hr, hb]
  dsimp only
  rw [if_neg (by rw [hreach, hw]; decide)]
  rfl

theorem exists_of_storeOp {op : MemOp} (h : storeOp op = true) : ∃ bs, op = .write bs := by
  cases op with
  | write bs => exact ⟨bs, rfl⟩
  | _ => cases h

theorem meshResponse_goes {s : State} {r : MeshReq} {b : BitVec 16 × MemAns}
    (hr : (s.pairAt s.site.src s.site.dst).unacked.find? (fun r => r.q == s.site.q) = some r)
    (hb : (s.pairAt s.site.src s.site.dst).resp.find? (fun r => r.1 == s.site.q) = some b)
    (hreach : s.reaches s.site.dst s.site.src = true) (hw : (s.pairAt s.site.src s.site.dst).waiting.contains r.q = false) :
    Goes .meshResponse s (fun u =>
      KeepsAndFills s.site.src s.site.dst ((s.pairAt s.site.src s.site.dst).unacked.filter (fun x => x.q != s.site.q)) s u ∧
      (u.pairAt s.site.src s.site.dst).last = (s.pairAt s.site.src s.site.dst).last ∧ u.mem = s.mem ∧
      (storeOp r.op = true → b.2 ≠ .uncorrectable → u.cells = s.cells) ∧
      (askOp r.op = true → ((s.cellAt r.cell).seq r.seq).access = some (.waiting s.site.dst s.site.q) →
        ((u.cellAt r.cell).seq r.seq).access = some (.answered b.2))) := by
  have hexec := exec_meshResponse hr hb hreach hw
  have hq : r.q = s.site.q := beq_iff_eq.1 (List.find?_some hr :)
  obtain ⟨hfills, hlast⟩ := s.acknowledge_fills s.site.src s.site.dst s.site.q
  have hkeeps := s.acknowledge_keeps s.site.src s.site.dst s.site.q
  have hcells := s.acknowledge_cells s.site.src s.site.dst s.site.q
  have hchunks := s.acknowledge_chunksIn s.site.src s.site.dst s.site.q
  rw [hq] at hexec
  generalize s.acknowledge s.site.src s.site.dst s.site.q = s1 at *
  dsimp only at hexec
  have hloses {u : State} (h : s1.Loses u) :
      KeepsAndFills s.site.src s.site.dst ((s.pairAt s.site.src s.site.dst).unacked.filter (fun x => x.q != s.site.q)) s u ∧
      (u.pairAt s.site.src s.site.dst).last = (s.pairAt s.site.src s.site.dst).last ∧ u.mem = s.mem :=
    ⟨keepsAndFills_of_loses hfills hchunks h, (h.last ..).trans hlast, h.mem.trans hkeeps.mem⟩
  split at hexec
  case h_1 hop hans =>
    obtain ⟨h1, h2, h3⟩ := hloses ((s1.logBad_loses r.cell r.pa 0).trans (State.deferred_loses _ r.cell tcUncorrectable r.seq r.pc r.va))
    exact ⟨_, hexec, h1, h2, h3, fun _ h => absurd hans h, fun h => by simp [askOp, hop] at h⟩
  case h_2 hop _ =>
    exact ⟨_, hexec, hfills, hlast, hkeeps.mem, fun _ _ => hcells, fun h => by simp [askOp, hop] at h⟩
  case h_3 hop =>
    obtain ⟨h1, h2, h3⟩ := hloses ((s1.askBack_loses _).trans (State.settleChunks_loses _))
    exact ⟨_, hexec, h1, h2, h3, fun h => by simp [storeOp, hop] at h, fun h => by simp [askOp, hop] at h⟩
  case h_4 hwrite _ _ =>
    refine ⟨_, hexec, hfills, hlast, hkeeps.mem, fun h => ?_, fun _ ha => State.answer_access _ ?_⟩
    · obtain ⟨bs, hop⟩ := exists_of_storeOp h
      exact absurd hop (hwrite bs)
    · rw [State.cellAt, hcells, hq]; exact ha

/-! ### Resends (R18, R19) -/

/-- A request that is asked for, and lost: its access is lost. -/
theorem State.loseReq_access {s : State} {src dst : Nat} {r : MeshReq} (hr : askOp r.op = true)
    (h : ((s.cellAt r.cell).seq r.seq).access = some (.waiting dst r.q) ∨ ((s.cellAt r.cell).seq r.seq).access = some .lost) :
    (((s.loseReq src dst r).cellAt r.cell).seq r.seq).access = some .lost := by
  have hlose : s.loseReq src dst r = s.answer r dst .lost := by
    unfold State.loseReq
    split
    case h_1 hop => simp [askOp, hop] at hr
    case h_2 hop => simp [askOp, hop] at hr
    case h_3 => rfl
  rw [hlose]
  rcases h with h | h
  · exact State.answer_access _ h
  · simp [State.answer, State.modSeqOf, Seq.awaits, h]

theorem State.loseReqs_access {s : State} {src dst : Nat} {l : List MeshReq} {r : MeshReq} (hl : r ∈ l) (hr : askOp r.op = true)
    (h : ((s.cellAt r.cell).seq r.seq).access = some (.waiting dst r.q)) :
    (((l.foldl (fun s r => s.loseReq src dst r) s).cellAt r.cell).seq r.seq).access = some .lost := by
  obtain ⟨l1, l2, rfl⟩ := List.append_of_mem hl
  rw [List.foldl_append, List.foldl_cons]
  have h1 := ((State.Loses.foldl (fun u r => u.loseReq_loses src dst r) l1 s).cells r.cell).access r.seq
  have hlost := State.loseReq_access (src := src) (dst := dst) hr (h1.imp_left (·.trans h))
  exact (((State.Loses.foldl (fun u r => u.loseReq_loses src dst r) l2 _).cells r.cell).access r.seq).elim (·.trans hlost) id

theorem resendTimeout_goes {s : State} (h : (s.pairAt s.site.src s.site.dst).unacked.any (fun r => decide (r.sent + 45000 ≤ s.cycle)) = true) :
    Goes .resendTimeout s (fun u =>
      KeepsAndFills s.site.src s.site.dst (((s.pairAt s.site.src s.site.dst).unacked.filter (fun r => decide (r.sends < 8))).map (fun (r : MeshReq) =>
        { r with sends := r.sends + 1, sent := s.cycle })) s u ∧
      (∀ r ∈ (s.pairAt s.site.src s.site.dst).unacked, 8 ≤ r.sends → askOp r.op = true →
        ((s.cellAt r.cell).seq r.seq).access = some (.waiting s.site.dst r.q) → ((u.cellAt r.cell).seq r.seq).access = some .lost)) := by
  refine ⟨s.resend s.site.src s.site.dst, if_pos h, ?_, fun r hr hsends hask hacc => ?_⟩
  · exact (State.refill_keepsAndFills (State.Loses.foldl (fun u r => u.loseReq_loses _ _ r) _ _)).1
  · rw [State.resend, State.cellAt, State.refill_cells, ← State.cellAt]
    exact State.loseReqs_access (List.mem_filter.2 ⟨hr, decide_eq_true hsends⟩) hask hacc

/-! ### Hold messages (R123) -/

theorem dropFirst_beq_eq_erase {α : Type} [BEq α] (m : α) (l : List α) : dropFirst (fun x => x == m) l = l.erase m := by
  induction l with
  | nil => rfl
  | cons a l ih => cases h : a == m <;> simp [dropFirst, List.erase_cons, h, ih]

/-- What HOLD_MESSAGE_TIMER does for one pair. -/
def State.holdPair (die : Nat) (s : State) (e : Nat × Pair) : State :=
  let l := e.2.unacked.filter (fun r => e.2.waiting.contains r.q && (!inSp r.pa || spCell r.pa == s.here))
  if e.1 % 32 ≠ die || l.isEmpty || s.cycle < e.2.heldAt + holdTime then s
  else ({ s with holds := s.holds ++ l.map (fun r => (e.1 / 32, die, r.q)) } : State).modPair (e.1 / 32) die (fun p => { p with heldAt := s.cycle })

/-- The messages on their way stay, and the step acts where and when it did. -/
theorem State.holdPair_keeps (die : Nat) (s : State) (e : Nat × Pair) :
    (State.holdPair die s e).site = s.site ∧ (State.holdPair die s e).cycle = s.cycle ∧ ∀ x ∈ s.holds, x ∈ (State.holdPair die s e).holds := by
  unfold State.holdPair
  dsimp only
  split
  · exact ⟨rfl, rfl, fun _ h => h⟩
  · exact ⟨rfl, rfl, fun _ h => List.mem_append_left _ h⟩

theorem State.holdPairs_keep (die : Nat) (l : List (Nat × Pair)) (s : State) :
    (l.foldl (State.holdPair die) s).site = s.site ∧ (l.foldl (State.holdPair die) s).cycle = s.cycle ∧
      ∀ x ∈ s.holds, x ∈ (l.foldl (State.holdPair die) s).holds := by
  refine List.foldlRecOn (motive := fun u : State => u.site = s.site ∧ u.cycle = s.cycle ∧ ∀ x ∈ s.holds, x ∈ u.holds) l _ ⟨rfl, rfl, fun _ h => h⟩
    fun u ⟨hs, hc, hh⟩ e _ => ?_
  obtain ⟨hs', hc', hh'⟩ := State.holdPair_keeps die u e
  exact ⟨hs'.trans hs, hc'.trans hc, fun x hx => hh' x (hh x hx)⟩

/-- A request that waits for a buffer of the cell gets its message. -/
theorem State.holdPair_holds {s : State} {e : Nat × Pair} {r : MeshReq} (hdue : e.2.heldAt + 22500 ≤ s.cycle) (hr : r ∈ e.2.unacked)
    (hw : e.2.waiting.contains r.q = true) (hcell : spCell r.pa = s.here) : (e.1 / 32, e.1 % 32, r.q) ∈ (State.holdPair (e.1 % 32) s e).holds := by
  have hmem : r ∈ e.2.unacked.filter (fun r => e.2.waiting.contains r.q && (!inSp r.pa || spCell r.pa == s.here)) :=
    List.mem_filter.2 ⟨hr, by rw [hw, hcell, beq_self_eq_true, Bool.or_true]; rfl⟩
  have hdue : ¬ s.cycle < e.2.heldAt + holdTime := Nat.not_lt.2 hdue
  have hne : (e.2.unacked.filter (fun r => e.2.waiting.contains r.q && (!inSp r.pa || spCell r.pa == s.here))).isEmpty = false :=
    List.isEmpty_eq_false_iff.2 (List.ne_nil_of_mem hmem)
  unfold State.holdPair
  dsimp only
  rw [hne, if_neg (by simp [hdue])]
  exact List.mem_append_right _ (List.mem_map.2 ⟨r, hmem, rfl⟩)

theorem holdMessageTimer_goes (s : State) :
    Goes .holdMessageTimer s (fun u => (∀ x ∈ s.holds, x ∈ u.holds) ∧ ∀ e ∈ s.pairs, e.1 % 32 = s.site.die → e.2.heldAt + 22500 ≤ s.cycle →
      ∀ r ∈ e.2.unacked, e.2.waiting.contains r.q = true → inSp r.pa = true → spCell r.pa = s.here → (e.1 / 32, s.site.die, r.q) ∈ u.holds) := by
  refine ⟨s.pairs.foldl (State.holdPair s.site.die) s, rfl, (State.holdPairs_keep ..).2.2, fun e he hdie hdue r hr hw _ hcell => ?_⟩
  obtain ⟨l1, l2, hl⟩ := List.append_of_mem he
  rw [hl, List.foldl_append, List.foldl_cons]
  obtain ⟨hsite, hcycle, -⟩ := State.holdPairs_keep s.site.die l1 s
  refine (State.holdPairs_keep s.site.die l2 _).2.2 _ ?_
  rw [← hdie]
  exact State.holdPair_holds (by rw [hdie, hcycle]; exact hdue) hr hw (by rw [hdie, State.here, hsite]; exact hcell)

theorem holdMessage_goes {s : State} (h : s.holds.contains (s.site.src, s.site.dst, s.site.q) = true) :
    Goes .holdMessage s (fun u => u.holds = s.holds.erase (s.site.src, s.site.dst, s.site.q) ∧
      (u.pairAt s.site.src s.site.dst).unacked =
        (s.pairAt s.site.src s.site.dst).unacked.map (fun r => if r.q = s.site.q then { r with sent := s.cycle } else r)) := by
  refine ⟨_, (if_neg (by simp only [h]; decide) : execHoldMessage s = _), dropFirst_beq_eq_erase _ _, ?_⟩
  rw [State.modPair, State.pairAt_setPair_same]
  rfl

/-! ### Pairs synchronised afresh (R20) -/

/-- The loss of a pair's requests, none of other packages' chunks being performed. -/
theorem State.resyncSource_pairAt {s : State} (src dst : Nat) (h : s.chunksIn = []) :
    ((s.resyncSource src dst).pairAt src dst).next = 0 ∧ ((s.resyncSource src dst).pairAt src dst).unacked = [] := by
  have hpairs := ((State.Loses.foldl (fun u r => u.loseReq_loses src dst r) ((s.pairAt src dst).unacked ++ (s.pairAt src dst).backlog)
    (s.setPair src dst { s.pairAt src dst with next := 0, unacked := [], backlog := [] })).pairs h).1
  have hpair : (s.resyncSource src dst).pairAt src dst = { s.pairAt src dst with next := 0, unacked := [], backlog := [] } := by
    rw [State.resyncSource, State.pairAt, hpairs, ← State.pairAt, State.pairAt_setPair_same]
  rw [hpair]
  exact ⟨rfl, rfl⟩

theorem State.resyncSource_keeps (s : State) (src dst : Nat) : s.Keeps (s.resyncSource src dst) :=
  (State.setPair_keeps ..).trans (State.Keeps.foldl (fun u r => (u.loseReq_loses src dst r).toKeeps) _ _)

theorem State.resyncDest_pairAt (s : State) (src dst : Nat) :
    (((s.resyncDest src dst).pairAt src dst).last = 0xFFFF ∧ ((s.resyncDest src dst).pairAt src dst).resp = [] ∧
      ((s.resyncDest src dst).pairAt src dst).waiting = []) ∧
    ∀ a b, ((s.resyncDest src dst).pairAt a b).next = (s.pairAt a b).next ∧ ((s.resyncDest src dst).pairAt a b).unacked = (s.pairAt a b).unacked := by
  refine ⟨by simp [State.resyncDest, State.modPair], fun a b => ?_⟩
  rw [State.resyncDest, State.modPair, State.pairAt_setPair]
  split
  · rename_i hkey
    rw [State.pairAt_of_key hkey]
    exact ⟨rfl, rfl⟩
  · exact ⟨rfl, rfl⟩

theorem resyncMessage_goes {s : State} (h : s.resyncs.contains (s.site.die, s.site.src) = true) (hc : s.chunksIn = []) :
    Goes .resyncMessage s (fun u => u.resyncs = s.resyncs.erase (s.site.die, s.site.src) ∧
      (u.pairAt s.site.die s.site.src).next = 0 ∧ (u.pairAt s.site.die s.site.src).unacked = [] ∧
      (u.pairAt s.site.src s.site.die).last = 0xFFFF ∧ (u.pairAt s.site.src s.site.die).resp = [] ∧ (u.pairAt s.site.src s.site.die).waiting = []) := by
  refine ⟨_, (if_neg (by simp only [h]; decide) : execResyncMessage s = _), ?_⟩
  obtain ⟨hdest, hother⟩ := State.resyncDest_pairAt
    (({ s with resyncs := dropFirst (fun x => x == (s.site.die, s.site.src)) s.resyncs } : State).resyncSource s.site.die s.site.src) s.site.src s.site.die
  obtain ⟨hnext, hun⟩ := State.resyncSource_pairAt
    (s := { s with resyncs := dropFirst (fun x => x == (s.site.die, s.site.src)) s.resyncs }) s.site.die s.site.src hc
  obtain ⟨hnext', hun'⟩ := hother s.site.die s.site.src
  refine ⟨?_, hnext'.trans hnext, hun'.trans hun, hdest⟩
  exact (State.resyncSource_keeps ..).resyncs.trans (dropFirst_beq_eq_erase _ _)

/-! ### Updates of replicated pages (R184) -/

/-- The state with another memory. -/
def State.withMem (s : State) (m : List Host.Cell) : State := { s with mem := m }

/-- With no uncorrectable word a write changes memory alone. -/
theorem State.poke_eq_withMem {s : State} (h : s.badWords = []) (pa : Nat) (bs : List Byte) : s.poke pa bs = s.withMem (Memory.writes s.hbmGen s.mem pa bs) :=
  if_pos (by rw [h]; rfl)

/-- The update at one replica, where its die is in service. -/
def State.pokeReplica (pa : Nat) (bs : List Byte) (s : State) (d : Nat) : State := if s.dieUp d then s.poke (pa % 2 ^ 36 + d * 2 ^ 36) bs else s

theorem State.pokeReplicas_eq_withMem {s : State} (h : s.badWords = []) (pa : Nat) (bs : List Byte) (l : List Nat) :
    ∃ m, l.foldl (State.pokeReplica pa bs) s = s.withMem m := by
  refine List.foldlRecOn (motive := fun u => ∃ m, u = s.withMem m) l _ ⟨s.mem, rfl⟩ fun u hu d _ => ?_
  obtain ⟨m, rfl⟩ := hu
  rw [State.pokeReplica]
  split
  · rw [State.poke_eq_withMem (s := s.withMem m) h]
    exact ⟨_, rfl⟩
  · exact ⟨m, rfl⟩

theorem State.applyReplicas_eq_withMem {s : State} (h : s.badWords = []) (pa : Nat) (bs : List Byte) :
    ∃ m, s.applyReplicas pa bs = ({ s with replNum := s.replNum + 1 } : State).withMem m :=
  State.pokeReplicas_eq_withMem (s := { s with replNum := s.replNum + 1 }) h pa bs _

/-- Each of the first n replicas whose die is in service reads as the update. -/
theorem State.byteAt_pokeReplicas {s : State} (h : s.badWords = []) {pa : Nat} {bs : List Byte} (hlen : pa % 2 ^ 36 + bs.length ≤ 2 ^ 36) (n : Nat) {y i : Nat}
    (hy : y < n) (hup : s.dieUp y = true) (hi : i < bs.length) :
    ((List.range n).foldl (State.pokeReplica pa bs) s).byteAt (pa % 2 ^ 36 + y * 2 ^ 36 + i) = bs.getD i 0 := by
  induction n with
  | zero => exact absurd hy (Nat.not_lt_zero y)
  | succ n ih =>
    obtain ⟨m, hm⟩ := State.pokeReplicas_eq_withMem h pa bs (List.range n)
    rw [List.range_succ, List.foldl_append, List.foldl_cons, List.foldl_nil]
    rw [hm] at ih ⊢
    have hpoke := State.byteAt_poke (s.withMem m) (pa % 2 ^ 36 + n * 2 ^ 36) (pa % 2 ^ 36 + y * 2 ^ 36 + i) bs h
    rw [State.pokeReplica]
    rcases Nat.lt_succ_iff_lt_or_eq.1 hy with hlt | rfl
    · split
      · rw [hpoke, if_neg (by omega)]
        exact ih hlt
      · exact ih hlt
    · rw [if_pos (by exact hup), hpoke, if_pos (by omega), Nat.add_sub_cancel_left]

theorem State.byteAt_applyReplicas {s : State} (h : s.badWords = []) {pa : Nat} {bs : List Byte} (hlen : pa % 2 ^ 36 + bs.length ≤ 2 ^ 36) {y i : Nat}
    (hy : y < 16) (hup : s.dieUp y = true) (hi : i < bs.length) : (s.applyReplicas pa bs).byteAt (pa % 2 ^ 36 + y * 2 ^ 36 + i) = bs.getD i 0 :=
  State.byteAt_pokeReplicas (s := { s with replNum := s.replNum + 1 }) h hlen 16 hy hup hi

/-- What an update of every replica leaves as it was. -/
theorem State.applyReplicas_keeps {s : State} (h : s.badWords = []) (pa : Nat) (bs : List Byte) :
    (s.applyReplicas pa bs).replicas = s.replicas ∧ (s.applyReplicas pa bs).replNum = s.replNum + 1 ∧ (s.applyReplicas pa bs).cells = s.cells := by
  obtain ⟨m, hm⟩ := State.applyReplicas_eq_withMem h pa bs
  rw [hm]
  exact ⟨rfl, rfl, rfl⟩

theorem State.atomicAt_eq_withMem {s : State} (h : s.badWords = []) (pa op n : Nat) (y c : Word) :
    ∃ m, s.atomicAt pa op n y c = (BitVec.ofNat 64 (ofLe (s.bytesAt pa n)), s.withMem m) := by
  unfold State.atomicAt
  dsimp only
  split
  · exact ⟨s.mem, rfl⟩
  · rw [State.poke_eq_withMem h]
    exact ⟨_, rfl⟩

theorem State.modSeqOf_access {s : State} {k : Nat} {q : SeqId} {dst : Nat} {n : BitVec 16} (a : Access) (h : ((s.cellAt k).seq q).access = some (.waiting dst n)) :
    (((s.modSeqOf k q (fun x => if x.awaits dst n then { x with access := some a } else x)).cellAt k).seq q).access = some a := by
  simp [State.modSeqOf, Seq.awaits, h]

section
variable {s : State} {r : ReplicaUpd} (hr : s.replicas[s.site.n]? = some r)
  (hfirst : (s.replicas.take s.site.n).any (fun o => o.cell == r.cell && o.seq == r.seq) = false) (hnet : r.net = 0) (hbad : s.badWords = [])
include hr hfirst hnet hbad

/-- A write that is the first of its sequencer and has arrived reaches every replica. -/
theorem exec_replicaUpdate_write {bs : List Byte} (hop : r.op = .write bs) :
    exec .replicaUpdate s = .next (({ s with replicas := s.replicas.eraseIdx s.site.n } : State).applyReplicas r.pa bs) := by
  have hwrite : s.badWrite r.pa bs.length = false := by rw [State.badWrite, hbad]; rfl
  change execReplicaUpdate s = _
  unfold execReplicaUpdate
  rw [hr]
  dsimp only
  rw [if_neg (by rw [hfirst]; simp [hnet]), hop]
  dsimp only
  rw [if_neg (by rw [hwrite]; decide)]

/-- An atomic reads the primary, and its result reaches every replica. -/
theorem exec_replicaUpdate_atomic {op n : Nat} {y c : Word} (hop : r.op = .atomic op n y c) :
    exec .replicaUpdate s =
      let (old, s1) := ({ s with replicas := s.replicas.eraseIdx s.site.n } : State).atomicAt r.pa op n y c
      .next ((s1.applyReplicas r.pa (s1.bytesAt r.pa n)).modSeqOf r.cell r.seq (fun x =>
        if x.awaits replicaDst 0 then { x with access := some (.answered (.value old)) } else x)) := by
  have hread : s.badRead r.pa n = false := by rw [State.badRead, hbad]; rfl
  change execReplicaUpdate s = _
  unfold execReplicaUpdate
  rw [hr]
  dsimp only
  rw [if_neg (by rw [hfirst]; simp [hnet]), hop]
  dsimp only
  rw [if_neg (by rw [hread]; decide)]

theorem replicaUpdate_write_goes {bs : List Byte} (hop : r.op = .write bs) :
    Goes .replicaUpdate s (fun u => u.replicas = s.replicas.eraseIdx s.site.n ∧ u.replNum = s.replNum + 1 ∧
      (r.pa % 2 ^ 36 + bs.length ≤ 2 ^ 36 → ∀ y, y < 16 → s.dieUp y = true → ∀ i, i < bs.length →
        u.byteAt (r.pa % 2 ^ 36 + y * 2 ^ 36 + i) = bs.getD i 0)) := by
  have hbad0 : ({ s with replicas := s.replicas.eraseIdx s.site.n } : State).badWords = [] := hbad
  obtain ⟨hrepl, hnum, -⟩ := State.applyReplicas_keeps hbad0 r.pa bs
  refine ⟨_, exec_replicaUpdate_write hr hfirst hnet hbad hop, hrepl, hnum, fun hlen y hy hup i hi => ?_⟩
  exact State.byteAt_applyReplicas hbad0 hlen hy hup hi

theorem replicaUpdate_atomic_goes {op n : Nat} {y c : Word} (hop : r.op = .atomic op n y c) :
    Goes .replicaUpdate s (fun u => u.replicas = s.replicas.eraseIdx s.site.n ∧ u.replNum = s.replNum + 1 ∧
      (((s.cellAt r.cell).seq r.seq).access = some (.waiting replicaDst 0) →
        ((u.cellAt r.cell).seq r.seq).access = some (.answered (.value (BitVec.ofNat 64 (ofLe (s.bytesAt r.pa n))))))) := by
  have hexec := exec_replicaUpdate_atomic hr hfirst hnet hbad hop
  have hbad0 : ({ s with replicas := s.replicas.eraseIdx s.site.n } : State).badWords = [] := hbad
  obtain ⟨m, hm⟩ := State.atomicAt_eq_withMem hbad0 r.pa op n y c
  rw [hm] at hexec
  dsimp only at hexec
  have hbad1 : (({ s with replicas := s.replicas.eraseIdx s.site.n } : State).withMem m).badWords = [] := hbad
  obtain ⟨hrepl, hnum, hcells⟩ := State.applyReplicas_keeps hbad1 r.pa
    ((({ s with replicas := s.replicas.eraseIdx s.site.n } : State).withMem m).bytesAt r.pa n)
  refine ⟨_, hexec, (State.modSeqOf_replicas ..).trans hrepl, (State.modSeqOf_replNum ..).trans hnum, fun hacc => State.modSeqOf_access _ ?_⟩
  rw [State.cellAt, hcells]
  exact hacc

end

/-- A lease of 1 µs is recalled (R175). -/
theorem exec_timestampLeaseRecall {s : State} {t : Nat × Nat} (hfind : s.leases.find? (fun e => e.1 == s.site.n) = some t) (hdue : t.2 + 2250 ≤ s.cycle) :
    exec .timestampLeaseRecall s = .next { s with leases := s.leases.filter (fun e => e.1 != s.site.n) } := by
  have hn : t.1 = s.site.n := beq_iff_eq.1 (List.find?_some hfind :)
  change execTimestampLeaseRecall s = _
  unfold execTimestampLeaseRecall
  rw [hfind, ← hn]
  exact if_pos hdue

/-- Settles O43: a lemma for each event. What a request does at its home depends on no pair; what losses and reports do leaves every pair as it is unless other
packages' chunks are being performed, and then still what is unacknowledged, in front of what they send. -/
theorem meshProtocol : Obligations.MeshProtocol := by
  intro s src dst p q more
  have hmore {l : List MeshReq} {u : State} (h : KeepsAndFills src dst l s u) : more l u := ⟨(List.prefix_iff_eq_take.1 h.1).symm, h.2⟩
  refine ⟨fun r hr hreach hw => ⟨fun hq hm => meshRequest_applies hr hreach hw hq hm, fun hq hm => meshRequest_waits hr hreach hw hq hm,
      fun hq => exec_meshRequest_other hw hq⟩, fun r hr b hb hreach hw => ?_, fun h => ?_, holdMessageTimer_goes s, holdMessage_goes, resyncMessage_goes,
    fun r hr hfirst hnet hbad => ⟨fun bs hop => replicaUpdate_write_goes hr hfirst hnet hbad hop,
      fun op n y c hop => replicaUpdate_atomic_goes hr hfirst hnet hbad hop⟩, fun t => exec_timestampLeaseRecall⟩
  · obtain ⟨u, hexec, hfills, hrest⟩ := meshResponse_goes hr hb hreach hw
    exact ⟨u, hexec, hmore hfills, hrest⟩
  · obtain ⟨u, hexec, hfills, hlost⟩ := resendTimeout_goes h
    exact ⟨u, hexec, hmore hfills, hlost⟩

end Sys2Proof.Machine

namespace Sys2Proof.Machine

-- One proof after another: the stacks of parallel elaboration would not fit the memory of the check.
set_option Elab.async false

/-! ### Sparse maps and lists -/

/-- What a map gives for a key is its default or an entry of it. -/
theorem NatMap.get_eq_or_mem {α : Type} (d : α) (m : NatMap α) (k : Nat) : NatMap.get d m k = d ∨ (k, NatMap.get d m k) ∈ m := by
  induction m with
  | nil => exact .inl rfl
  | cons e m ih =>
    obtain ⟨a, v⟩ := e
    by_cases h : a = k
    · exact .inr (by simp [NatMap.get, h])
    · rw [NatMap.get, if_neg h]
      exact ih.imp_right (List.mem_cons_of_mem _)

/-- What one step of a fold brings about, and every step keeps, holds at its end. -/
theorem foldl_establishes {α β : Type} {f : β → α → β} {P : β → Prop} {a : α} (hkeep : ∀ b x, P b → P (f b x)) (hset : ∀ b, P (f b a)) {l : List α} (ha : a ∈ l)
    (b : β) : P (l.foldl f b) := by
  obtain ⟨l₁, l₂, rfl⟩ := List.append_of_mem ha
  rw [List.foldl_append, List.foldl_cons]
  exact List.foldlRecOn l₂ f (hset _) fun u hu x _ => hkeep u x hu

theorem dropFirst_eq_eraseP {α : Type} (p : α → Bool) (l : List α) : dropFirst p l = l.eraseP p := by
  induction l with
  | nil => rfl
  | cons a l ih =>
    by_cases h : p a = true
    · simp [dropFirst, h]
    · simp [dropFirst, h, ih]

/-! ### Streams, and what is sent through the port (R28, R31) -/

@[simp] theorem State.streamAt_setStream_same (s : State) (n : Nat) (x : Stream) : (s.setStream n x).streamAt n = x := NatMap.get_put_same ..

theorem State.streamAt_setStream_other (s : State) {n m : Nat} (x : Stream) (h : m ≠ n) : (s.setStream n x).streamAt m = s.streamAt m :=
  NatMap.get_put_other _ _ _ h

theorem State.streamAt_of_streams {s u : State} (h : u.streams = s.streams) (n : Nat) : u.streamAt n = s.streamAt n := by
  rw [State.streamAt, State.streamAt, h]

/-- A state with its streams replaced, and more sent through the ports. -/
def State.withStreams (s : State) (l : NatMap Stream) (o : List PortOut) : State := { s with streams := l, portOut := s.portOut ++ o }

/-- Nothing but the streams and what is sent through the ports has changed. -/
def State.StreamsOnly (s u : State) : Prop := ∃ l o, u = s.withStreams l o

theorem State.StreamsOnly.refl (s : State) : s.StreamsOnly s := ⟨s.streams, [], by simp [State.withStreams]⟩

theorem State.StreamsOnly.trans {s u v : State} (h : s.StreamsOnly u) (h' : u.StreamsOnly v) : s.StreamsOnly v := by
  obtain ⟨l, o, rfl⟩ := h
  obtain ⟨l', o', rfl⟩ := h'
  exact ⟨l', o ++ o', by simp [State.withStreams, List.append_assoc]⟩

theorem State.StreamsOnly.foldl {α : Type} {f : State → α → State} (h : ∀ (s : State) x, s.StreamsOnly (f s x)) (l : List α) (s : State) : s.StreamsOnly (l.foldl f s) :=
  List.foldlRecOn l f (.refl s) fun u hu x _ => hu.trans (h u x)

/-- What no stream and nothing sent through a port takes part in is the same. -/
theorem State.StreamsOnly.same {α : Type} {s u : State} (h : s.StreamsOnly u) (f : State → α) (hf : ∀ l o, f (s.withStreams l o) = f s := by exact fun _ _ => rfl) :
    f u = f s := by
  obtain ⟨l, o, rfl⟩ := h
  exact hf l o

theorem State.setStream_only (s : State) (n : Nat) (x : Stream) : s.StreamsOnly (s.setStream n x) :=
  ⟨NatMap.put {} s.streams n x, [], by simp [State.withStreams, State.setStream]⟩

theorem State.sendRecords_eq (l : List Record) (s : State) :
    l.foldl State.sendRecord s = s.withStreams s.streams (l.map (fun r => .record r.words)) := by
  induction l generalizing s with
  | nil => simp [State.withStreams]
  | cons r l ih => rw [List.foldl_cons, ih]; simp [State.withStreams, State.sendRecord]

theorem State.giveRecord_only (s : State) (n : Nat) (r : Record) : s.StreamsOnly (s.giveRecord n r) := by
  unfold State.giveRecord
  dsimp only
  split
  · exact State.StreamsOnly.trans ⟨s.streams, [.record r.words], rfl⟩ (State.setStream_only ..)
  · exact State.setStream_only ..

theorem State.complete_only (s : State) (n : Nat) (p : StreamPkt) (status : BitVec 8) (value extra : Word) (payload : List Word) :
    s.StreamsOnly (s.complete n p status value extra payload) := by
  unfold State.complete
  dsimp only
  split
  · exact State.setStream_only ..
  · exact (State.setStream_only ..).trans (State.giveRecord_only ..)

theorem State.finish_only (s : State) (n : Nat) (p : StreamPkt) (status : BitVec 8) : s.StreamsOnly (s.finish n p status) := State.complete_only ..

/-! ### The completion of a packet -/

/-- The stream to which a record is given: among those that wait for their acknowledgement, or behind 256 such. -/
theorem State.giveRecord_streamAt (s : State) (n : Nat) (r : Record) :
    let x := { s.streamAt n with stored := r :: (s.streamAt n).stored.take 255 }
    (s.giveRecord n r).streamAt n = if x.records.length < 256 then { x with records := x.records ++ [r] } else { x with waiting := x.waiting ++ [r] } := by
  unfold State.giveRecord
  dsimp only
  split
  · rw [State.streamAt_setStream_same]
  · rw [State.streamAt_setStream_same]

theorem State.giveRecord_streamAt_other (s : State) {n m : Nat} (r : Record) (h : m ≠ n) : (s.giveRecord n r).streamAt m = s.streamAt m := by
  unfold State.giveRecord
  dsimp only
  split
  · exact State.streamAt_setStream_other _ _ h
  · exact State.streamAt_setStream_other _ _ h

theorem State.giveRecord_pkts (s : State) (n : Nat) (r : Record) : ((s.giveRecord n r).streamAt n).pkts = (s.streamAt n).pkts := by
  rw [State.giveRecord_streamAt]
  split <;> rfl

theorem State.complete_pkts (s : State) (n m : Nat) (p : StreamPkt) (status : BitVec 8) (value extra : Word) (payload : List Word) :
    ((s.complete n p status value extra payload).streamAt m).pkts =
      if m = n then (s.streamAt n).pkts.filter (fun o => o.serial != p.serial) else (s.streamAt m).pkts := by
  unfold State.complete
  dsimp only
  by_cases h : m = n
  · subst h
    rw [if_pos rfl]
    split
    · rw [State.streamAt_setStream_same]
    · rw [State.giveRecord_pkts, State.streamAt_setStream_same]
  · rw [if_neg h]
    split
    · rw [State.streamAt_setStream_other _ _ h]
    · rw [State.giveRecord_streamAt_other _ _ h, State.streamAt_setStream_other _ _ h]

theorem State.complete_level (s : State) (n : Nat) (p : StreamPkt) (status : BitVec 8) (value extra : Word) (payload : List Word) :
    ((s.complete n p status value extra payload).streamAt n).level = (s.streamAt n).level ∧
    ((s.complete n p status value extra payload).streamAt n).last = (s.streamAt n).last := by
  unfold State.complete
  dsimp only
  split
  · rw [State.streamAt_setStream_same]; exact ⟨rfl, rfl⟩
  · rw [State.giveRecord_streamAt]
    dsimp only
    rw [State.streamAt_setStream_same]
    split <;> exact ⟨rfl, rfl⟩

/-- A packet completes in a state u as it does in s, where u has the same records, the same cycle and, but for the packet, the same packets. -/
theorem completes_of_stream {s u : State} {n : Nat} {p : StreamPkt} (hc : u.cycle = s.cycle)
    (hp : (u.streamAt n).pkts.filter (fun o => o.serial != p.serial) = (s.streamAt n).pkts.filter (fun o => o.serial != p.serial))
    (hr : (u.streamAt n).records = (s.streamAt n).records) (hw : (u.streamAt n).waiting = (s.streamAt n).waiting)
    (status : BitVec 8) (value extra : Word) (payload : List Word) : Completes n p status value extra payload s (u.complete n p status value extra payload) := by
  refine ⟨by rw [State.complete_pkts, if_pos rfl, hp], ?_⟩
  unfold State.complete
  dsimp only
  by_cases hq : status = 0 ∧ p.packet.nocomp = true
  · have hb : (decide (status = 0) && p.packet.nocomp) = true := by simpa using hq
    rw [if_pos hq, if_pos hb, State.streamAt_setStream_same]
    exact ⟨hr, hw⟩
  · have hb : ¬ (decide (status = 0) && p.packet.nocomp) = true := by simpa using hq
    rw [if_neg hq, if_neg hb, State.giveRecord_streamAt, State.streamAt_setStream_same]
    dsimp only
    rw [hr, hw, hc]
    split <;> exact ⟨rfl, rfl⟩

/-- The same where the streams and the cycle are those of s. -/
theorem completes_of_streams {s u : State} (hs : u.streams = s.streams) (hc : u.cycle = s.cycle) (n : Nat) (p : StreamPkt) (status : BitVec 8) (value extra : Word)
    (payload : List Word) : Completes n p status value extra payload s (u.complete n p status value extra payload) := by
  have hn := State.streamAt_of_streams hs n
  exact completes_of_stream hc (by rw [hn]) (by rw [hn]) (by rw [hn]) ..

theorem State.complete_completes (s : State) (n : Nat) (p : StreamPkt) (status : BitVec 8) (value extra : Word) (payload : List Word) :
    Completes n p status value extra payload s (s.complete n p status value extra payload) := completes_of_streams rfl rfl ..

theorem State.finish_completes (s : State) (n : Nat) (p : StreamPkt) (status : BitVec 8) : Completes n p status 0 0 [] s (s.finish n p status) := s.complete_completes ..

/-- A packet that starts (R35). -/
theorem State.begin'_starts {s u : State} (hs : u.streams = s.streams) (hc : u.cycle = s.cycle) (n : Nat) (p : StreamPkt) : Starts n p s (u.begin' n p.serial) := by
  unfold Starts State.begin' State.modPkt
  rw [State.streamAt_setStream_same, State.streamAt_of_streams hs]
  refine List.map_congr_left fun o _ => ?_
  by_cases ho : o.serial = p.serial
  · cases hst : o.started <;> simp [ho, hst, hc]
  · simp [ho]

/-! ### The packet whose turn it is (R35) -/

theorem State.nextPkt_is {s : State} {is : Packet → Bool} {p : StreamPkt} (h : s.nextPkt is = some p) : is p.packet = true := by
  have hp := (Option.filter_eq_some_iff.1 h).2
  simp only [Bool.and_eq_true] at hp
  exact hp.1

/-- A step that takes packets of another kind takes the same packet where it is of that kind too. -/
theorem State.nextPkt_of {s : State} {is is' : Packet → Bool} {p : StreamPkt} (h : s.nextPkt is = some p) (h' : is' p.packet = true) : s.nextPkt is' = some p := by
  obtain ⟨hnext, hp⟩ := Option.filter_eq_some_iff.1 h
  simp only [Bool.and_eq_true] at hp
  exact Option.filter_eq_some_iff.2 ⟨hnext, by simp only [Bool.and_eq_true]; exact ⟨h', hp.2⟩⟩

/-! ### Signals (R37) -/

@[simp] theorem State.signalAt_complete (s : State) (n : Nat) (p : StreamPkt) (status : BitVec 8) (value extra : Word) (payload : List Word) (i : Nat) :
    (s.complete n p status value extra payload).signalAt i = s.signalAt i := (s.complete_only ..).same (fun u => u.signalAt i)

@[simp] theorem State.signalAt_finish (s : State) (n : Nat) (p : StreamPkt) (status : BitVec 8) (i : Nat) : (s.finish n p status).signalAt i = s.signalAt i :=
  State.signalAt_complete ..

theorem State.retest_only (s : State) (i : Nat) : s.StreamsOnly (s.retest i) :=
  State.StreamsOnly.foldl (fun _ _ => State.StreamsOnly.foldl (fun v _ => v.complete_only ..) _ _) _ _

/-- A signal of its value, before the waits on it are tested. -/
def State.putSignal (s : State) (i : Nat) (v : Word) : State := { s with signals := NatMap.put 0 s.signals i v }

theorem State.signalAt_putSignal_same (s : State) (i : Nat) (v : Word) : (s.putSignal i v).signalAt i = v := NatMap.get_put_same ..

theorem State.signalAt_putSignal_other (s : State) {i j : Nat} (v : Word) (h : j ≠ i) : (s.putSignal i v).signalAt j = s.signalAt j :=
  NatMap.get_put_other _ _ _ h

theorem State.setSignal_only (s : State) (i : Nat) (v : Word) : (s.putSignal i v).StreamsOnly (s.setSignal i v) := State.retest_only ..

theorem State.signalAt_setSignal (s : State) (i j : Nat) (v : Word) : (s.setSignal i v).signalAt j = (s.putSignal i v).signalAt j :=
  (s.setSignal_only i v).same (fun u => u.signalAt j)

/-- A packet that completes takes nothing else from a stream and adds nothing. -/
theorem State.mem_complete_pkts {s : State} {n m : Nat} {p o : StreamPkt} {status : BitVec 8} {value extra : Word} {payload : List Word}
    (h : o ∈ ((s.complete n p status value extra payload).streamAt m).pkts) : o ∈ (s.streamAt m).pkts := by
  rw [State.complete_pkts] at h
  split at h
  · rename_i hm; subst hm; exact (List.mem_filter.1 h).1
  · exact h

theorem State.serial_ne_of_mem_complete {s : State} {n : Nat} {p o : StreamPkt} {status : BitVec 8} {value extra : Word} {payload : List Word}
    (h : o ∈ ((s.complete n p status value extra payload).streamAt n).pkts) : o.serial ≠ p.serial := by
  rw [State.complete_pkts, if_pos rfl] at h
  simpa using (List.mem_filter.1 h).2

/-- No packet of stream m in a state has the serial number of packet o. -/
def State.Without (m : Nat) (o : StreamPkt) (s : State) : Prop := ∀ x ∈ (s.streamAt m).pkts, x.serial ≠ o.serial

theorem State.Without.complete {m n : Nat} {o p : StreamPkt} {s : State} {status : BitVec 8} {value extra : Word} {payload : List Word} (h : s.Without m o) :
    (s.complete n p status value extra payload).Without m o := fun x hx => h x (State.mem_complete_pkts hx)

theorem State.mem_retest {s : State} {i m : Nat} {o : StreamPkt} (h : o ∈ ((s.retest i).streamAt m).pkts) : o ∈ (s.streamAt m).pkts := by
  have hsub : ∀ x ∈ ((s.retest i).streamAt m).pkts, x ∈ (s.streamAt m).pkts := by
    refine List.foldlRecOn (motive := fun u => ∀ x ∈ (State.streamAt u m).pkts, x ∈ (s.streamAt m).pkts) s.streams _ (fun _ => id) fun u hu e _ => ?_
    exact List.foldlRecOn (motive := fun u => ∀ x ∈ (State.streamAt u m).pkts, x ∈ (s.streamAt m).pkts) _ _ hu fun v hv p _ x hx => hv x (State.mem_complete_pkts hx)
  exact hsub o h

theorem State.completeAll_without {m : Nat} {o : StreamPkt} {l : List StreamPkt} (ho : o ∈ l) (v : Word) (s : State) :
    (l.foldl (fun s p => s.complete m p 0 v 0 []) s).Without m o :=
  foldl_establishes (f := fun s p => State.complete s m p 0 v 0 []) (P := State.Without m o) (fun _ _ hu => hu.complete) (fun _ _ hx => State.serial_ne_of_mem_complete hx) ho s

/-- A started WAITSIG that its signal satisfies is gone once the waits on the signal have been tested. -/
theorem State.retest_without {s : State} {i m : Nat} {o : StreamPkt} (ho : o ∈ (s.streamAt m).pkts) (hst : o.started = true) (ht : o.packet.type = 5)
    (hi : o.packet.sigId = i) (hv : o.packet.holds (s.signalAt i) = true) : (s.retest i).Without m o := by
  have hm : (m, s.streamAt m) ∈ s.streams := by
    refine (NatMap.get_eq_or_mem {} s.streams m).resolve_left fun hd => ?_
    rw [State.streamAt, hd] at ho
    cases ho
  refine foldl_establishes (P := State.Without m o) (fun u e hu => ?_) (fun u => ?_) hm s
  · exact List.foldlRecOn _ _ hu fun v hv p _ => hv.complete
  · exact State.completeAll_without (List.mem_filter.2 ⟨ho, by simp [hst, ht, hi, hv]⟩) (s.signalAt i) u

/-- Where no WAITSIG stands in a stream, testing the waits on a signal changes nothing. -/
theorem State.retest_of_none {s : State} (h : s.streams.all (fun z => z.2.pkts.all (fun o => !(o.packet.type == 5))) = true) (i : Nat) : s.retest i = s := by
  refine List.foldlRecOn (motive := (· = s)) s.streams _ rfl fun u hu e he => ?_
  have hnone : e.2.pkts.filter (fun p => p.started && p.packet.type == 0x05 && p.packet.sigId == i && p.packet.holds (s.signalAt i)) = [] := by
    refine List.filter_eq_nil_iff.2 fun p hp hq => ?_
    have hp5 := List.all_eq_true.1 (List.all_eq_true.1 h e he) p hp
    simp only [Bool.and_eq_true] at hq
    simp [hq.1.1.2] at hp5
  rw [hnone]
  exact hu

/-- A SIGNAL of an operation whose turn it is and which is well formed. -/
theorem State.signalPkt_good {s : State} {p : StreamPkt} {op : Nat} (f : Word → Word → Word) (h : s.nextPkt (fun q => q.type == 4) = some p)
    (hg : p.packet.good = true) (hop : p.packet.op = op) :
    s.signalPkt op f = (s.setSignal p.packet.sigId (f (s.signalAt p.packet.sigId) (p.packet.at' 1))).finish s.site.stream p 0 := by
  have ht := State.nextPkt_is h
  unfold State.signalPkt
  rw [State.nextPkt_of h (by simpa [hop] using ht)]
  simp [hg]

/-- A SIGNAL sets its signal to what its operation gives, and completes (R37). -/
theorem signal_goes {s : State} {p : StreamPkt} {op : Nat} {f : Word → Word → Word} {i : Instr} (hi : exec i s = .next (s.signalPkt op f))
    (h : s.nextPkt (fun q => q.type == 4) = some p) (hg : p.packet.good = true) (hop : p.packet.op = op) :
    let v := f (s.signalAt p.packet.sigId) (p.packet.at' 1)
    Goes i s (fun u => u.signalAt p.packet.sigId = v ∧ (∀ j, j < 4096 → j ≠ p.packet.sigId → u.signalAt j = s.signalAt j) ∧
      (∀ m, m < 16 → ∀ o ∈ (u.streamAt m).pkts, o.started = true → o.packet.type = 5 → o.packet.sigId = p.packet.sigId → o.packet.holds v = false) ∧
      (s.streams.all (fun z => z.2.pkts.all (fun o => !(o.packet.type == 5))) = true → Completes s.site.stream p 0 0 0 [] s u)) := by
  intro v
  refine ⟨_, hi.trans (congrArg _ (State.signalPkt_good f h hg hop)), ?_, fun j _ hj => ?_, fun m _ o ho hst ht hi => ?_, fun hnone => ?_⟩
  · rw [State.signalAt_finish, State.signalAt_setSignal, State.signalAt_putSignal_same]
  · rw [State.signalAt_finish, State.signalAt_setSignal, State.signalAt_putSignal_other _ _ hj]
  · have ho' : o ∈ ((s.setSignal p.packet.sigId v).streamAt m).pkts := State.mem_complete_pkts ho
    by_contra hv
    rw [Bool.not_eq_false] at hv
    have hgone : ((s.putSignal p.packet.sigId v).retest p.packet.sigId).Without m o :=
      State.retest_without (State.mem_retest ho') hst ht hi (by rw [State.signalAt_putSignal_same]; exact hv)
    exact hgone o ho' rfl
  · have hset : s.setSignal p.packet.sigId v = s.putSignal p.packet.sigId v := State.retest_of_none (s := s.putSignal p.packet.sigId v) hnone _
    rw [hset]
    exact completes_of_streams (u := s.putSignal p.packet.sigId v) rfl rfl ..

/-! ### WAITSIG, DETLEVEL and FENCE (R36 to R38) -/

theorem exec_waitsig {s : State} {p : StreamPkt} (h : s.nextPkt (fun q => q.type == 5) = some p) (hg : p.packet.good = true) :
    exec .waitsig s = .next (if p.packet.holds (s.signalAt p.packet.sigId) then s.complete s.site.stream p 0 (s.signalAt p.packet.sigId) 0 []
      else s.begin' s.site.stream p.serial) := by
  change execWaitsig s = _
  simp [execWaitsig, h, hg]

theorem exec_waitsigTimeout {s : State} {o : StreamPkt}
    (h : (s.streamAt s.site.stream).pkts.find? (fun o => o.started && o.packet.type == 5 && o.sq == s.site.q) = some o)
    (ht : bits (o.packet.at' 0) 63 32 ≠ 0) (hdue : o.at? + bits (o.packet.at' 0) 63 32 * 2250 ≤ s.cycle) :
    exec .waitsigTimeout s = .next (s.complete s.site.stream o 0x13 (s.signalAt o.packet.sigId) 0 []) := by
  change execWaitsigTimeout s = _
  simp [execWaitsigTimeout, h, ht, hdue]

theorem exec_detlevel {s : State} {p : StreamPkt} (h : s.nextPkt (fun q => q.type == 6) = some p) (hg : p.packet.good = true) :
    exec .detlevel s =
      .next ((s.setStream s.site.stream { s.streamAt s.site.stream with level := bits (p.packet.at' 0) 1 0 }).finish s.site.stream p 0) := by
  change execDetlevel s = _
  simp [execDetlevel, h, hg]

theorem exec_fencePacket {s : State} {p : StreamPkt} (h : s.nextPkt (fun q => q.type == 7) = some p) (hg : p.packet.good = true) :
    exec .fencePacket s = .next (if s.fenceDone s.site.stream p then s.finish s.site.stream p 0 else s.begin' s.site.stream p.serial) := by
  change execFencePacket s = _
  by_cases hd : s.fenceDone s.site.stream p = true
  · simp [execFencePacket, h, hg, hd]
  · simp [execFencePacket, h, hg, hd]

theorem detlevel_goes {s : State} {p : StreamPkt} (h : s.nextPkt (fun q => q.type == 6) = some p) (hg : p.packet.good = true) :
    Goes .detlevel s (fun u => (u.streamAt s.site.stream).level = bits (p.packet.at' 0) 1 0 ∧ Completes s.site.stream p 0 0 0 [] s u) := by
  refine ⟨_, exec_detlevel h hg, ?_, completes_of_stream (s := s) (u := s.setStream _ _) rfl ?_ ?_ ?_ 0 0 0 []⟩
  · rw [State.finish, (State.complete_level ..).1, State.streamAt_setStream_same]
  · rw [State.streamAt_setStream_same]
  · rw [State.streamAt_setStream_same]
  · rw [State.streamAt_setStream_same]

/-- What a FENCE waits for: the earlier packets of its stream, or of every stream, but for immediate ones (R36, log entry 89). -/
theorem State.fenceDone_iff (s : State) (n : Nat) (p : StreamPkt) :
    let earlier := fun (o : StreamPkt) => decide (o.serial < p.serial) && !(o.packet.type == 0x0A || o.packet.type == 0x0B)
    s.fenceDone n p = true ↔
      (s.streamAt n).pkts.any earlier = false ∧ (bit (p.packet.at' 0) 0 = true → s.streams.any (fun z => z.2.pkts.any earlier) = false) := by
  intro earlier
  change (!(s.streamAt n).pkts.any earlier && (!bit (p.packet.at' 0) 0 || !s.streams.any (fun z => z.2.pkts.any earlier))) = true ↔ _
  cases bit (p.packet.at' 0) 0 <;> simp

/-- Settles O36: a SIGNAL sets its value and completes every WAITSIG that the value satisfies; the others complete or start by their own condition. -/
theorem signalsLevelsAndFences : Obligations.SignalsLevelsAndFences := by
  intro s n
  refine ⟨fun p h hg => ?_, fun p h hg => ⟨_, exec_waitsig h hg, ?_⟩, fun o h ht hdue => ⟨_, exec_waitsigTimeout h ht hdue, s.complete_completes ..⟩,
    fun p h hg => detlevel_goes h hg, fun p h hg => ⟨_, exec_fencePacket h hg, ?_⟩⟩
  · intro v y e he hop
    simp only [List.mem_cons, List.not_mem_nil, or_false] at he
    rcases he with rfl | rfl | rfl
    · exact signal_goes (f := fun _ y => y) rfl h hg hop
    · exact signal_goes (f := fun v y => v + y) rfl h hg hop
    · exact signal_goes (f := fun v y => v ||| y) rfl h hg hop
  · split
    · exact s.complete_completes ..
    · exact State.begin'_starts rfl rfl ..
  · simp only [← s.fenceDone_iff n p]
    split
    · exact s.finish_completes ..
    · exact State.begin'_starts rfl rfl ..

/-! ### Packets as they arrive (R28, R30, R41) -/

/-- A duplicate's record is sent again (R17, R28): beside that, streams and packets stay, and no record leaves its stream. -/
theorem State.answerAgain_streamAt (s : State) (n : Nat) (sq : BitVec 16) :
    let y := s.streamAt n
    let z := (s.answerAgain n sq).streamAt n
    z.last = y.last ∧ z.pkts = y.pkts ∧ ∀ r ∈ y.records, (if r.sq = sq ∧ r.old = false then { r with sentAt := s.cycle } else r) ∈ z.records := by
  intro y z
  by_cases hany : y.records.any (fun r => r.sq == sq && !r.old) = true
  · have hz : z = { y with records := y.records.map (fun (r : Record) => if r.sq == sq && !r.old then { r with sentAt := s.cycle } else r) } := by
      simp only [z, State.answerAgain]
      rw [if_pos hany, State.sendRecords_eq]
      exact State.streamAt_setStream_same ..
    rw [hz]
    exact ⟨rfl, rfl, fun r hr => List.mem_map.2 ⟨r, hr, by simp⟩⟩
  · have hkeep (r : Record) (hr : r ∈ y.records) : ¬ (r.sq = sq ∧ r.old = false) := fun h => hany (List.any_eq_true.2 ⟨r, hr, by simp [h]⟩)
    have hz : z.last = y.last ∧ z.pkts = y.pkts ∧ ∃ l, z.records = y.records ++ l := by
      simp only [z, State.answerAgain]
      rw [if_neg hany]
      split
      · exact ⟨rfl, rfl, [], (List.append_nil _).symm⟩
      · split
        · exact ⟨rfl, rfl, [], (List.append_nil _).symm⟩
        · split
          · rw [State.streamAt_setStream_same]
            exact ⟨rfl, rfl, _, rfl⟩
          · rw [State.streamAt_setStream_same]
            exact ⟨rfl, rfl, [], (List.append_nil _).symm⟩
    obtain ⟨hlast, hpkts, l, hl⟩ := hz
    refine ⟨hlast, hpkts, fun r hr => ?_⟩
    rw [if_neg (hkeep r hr), hl]
    exact List.mem_append_left l hr

theorem State.answerAgain_only (s : State) (n : Nat) (sq : BitVec 16) : s.StreamsOnly (s.answerAgain n sq) := by
  have hsend (u : State) (r : Record) : u.StreamsOnly (u.sendRecord r) := ⟨u.streams, [.record r.words], rfl⟩
  unfold State.answerAgain
  dsimp only
  split
  · exact (State.setStream_only ..).trans (State.StreamsOnly.foldl hsend _ _)
  · split
    · exact .refl s
    · split
      · exact .refl s
      · split
        · exact (hsend ..).trans (State.setStream_only ..)
        · exact State.setStream_only ..

/-- The acknowledgement of a packet sent (R28). -/
def State.ackPkt (s : State) (n : Nat) (sq : BitVec 16) : State := { s with portOut := s.portOut ++ [.ack n sq] }

/-- A state with a packet accepted into its stream. -/
def State.acceptPkt (s : State) (p : Packet) : State :=
  ({ s with serial := s.serial + 1 } : State).setStream p.stream
    { (s.streamAt p.stream).renumber p.sq with
      last := p.sq, pkts := (s.streamAt p.stream).pkts ++ [{ sq := p.sq, serial := s.serial, packet := p }] }

section
variable {s : State} (hup : s.ustexUp = true) (htake : s.bringUp ≠ 0 ∨ s.site.packet.type = 0x0A)
include hup htake

theorem exec_packetAccept_next (hseq : s.site.packet.sq = (s.streamAt s.site.packet.stream).last + 1)
    (hroom : (s.streamAt s.site.packet.stream).pkts.countP (fun o => !o.started) < 256) :
    exec .packetAccept s = .next (if 1 ≤ s.site.packet.type ∧ s.site.packet.type ≤ 0x0B then (s.acceptPkt s.site.packet).ackPkt s.site.packet.stream s.site.packet.sq
      else ((s.acceptPkt s.site.packet).ackPkt s.site.packet.stream s.site.packet.sq).finish s.site.packet.stream
        { sq := s.site.packet.sq, serial := s.serial, packet := s.site.packet } 0x10) := by
  have htakes : ¬ (!s.ustexUp || (decide (s.bringUp = 0) && decide (s.site.packet.type ≠ 0x0A))) = true := by
    rcases htake with h | h <;> simp [hup, h]
  have hdiff : s.site.packet.sq - (s.streamAt s.site.packet.stream).last = 1 := by rw [hseq]; bv_omega
  change execPacketAccept s = _
  unfold execPacketAccept
  dsimp only
  rw [if_neg htakes, if_pos hdiff, if_neg (by omega)]
  simp only [Bool.and_eq_true, decide_eq_true_eq]
  rfl

theorem exec_packetAccept_duplicate (hseq : s.site.packet.sq = (s.streamAt s.site.packet.stream).last ∨
    0x8000 ≤ (s.site.packet.sq - (s.streamAt s.site.packet.stream).last).toNat) :
    exec .packetAccept s = .next ((s.ackPkt s.site.packet.stream s.site.packet.sq).answerAgain s.site.packet.stream s.site.packet.sq) := by
  have htakes : ¬ (!s.ustexUp || (decide (s.bringUp = 0) && decide (s.site.packet.type ≠ 0x0A))) = true := by
    rcases htake with h | h <;> simp [hup, h]
  have hone : ¬ s.site.packet.sq - (s.streamAt s.site.packet.stream).last = 1 := by
    intro h1
    rcases hseq with h | h
    · rw [h] at h1; simp at h1
    · rw [h1] at h; simp at h
  have hdup : (decide (s.site.packet.sq - (s.streamAt s.site.packet.stream).last = 0) ||
      decide (0x8000 ≤ (s.site.packet.sq - (s.streamAt s.site.packet.stream).last).toNat)) = true := by
    rw [Bool.or_eq_true]
    exact hseq.imp (fun h => by simp [h]) (fun h => decide_eq_true h)
  change execPacketAccept s = _
  unfold execPacketAccept
  dsimp only
  rw [if_neg htakes, if_neg hone, if_pos hdup]
  rfl

end

theorem State.StreamsOnly.portOut_take {s u : State} (h : s.StreamsOnly u) : u.portOut.take s.portOut.length = s.portOut := by
  obtain ⟨l, o, rfl⟩ := h
  exact List.take_left

/-- A packet of a listed type takes its place in its stream; another completes with BAD_PACKET at its acceptance (log entry 88). -/
theorem packetAccept_next_goes {s : State} (hup : s.ustexUp = true) (htake : s.bringUp ≠ 0 ∨ s.site.packet.type = 0x0A)
    (hseq : s.site.packet.sq = (s.streamAt s.site.packet.stream).last + 1)
    (hroom : (s.streamAt s.site.packet.stream).pkts.countP (fun o => !o.started) < 256) :
    let p := s.site.packet
    let y := s.streamAt p.stream
    Goes .packetAccept s (fun u =>
      (u.streamAt p.stream).last = p.sq ∧ u.serial = s.serial + 1 ∧ (u.portOut.take (s.portOut.length + 1)) = s.portOut ++ [.ack p.stream p.sq] ∧
      (if 1 ≤ p.type ∧ p.type ≤ 0x0B then
        (u.streamAt p.stream).pkts = y.pkts ++ [{ sq := p.sq, serial := s.serial, packet := p }] ∧ (u.streamAt p.stream).records = (y.renumber p.sq).records
      else Completes p.stream { sq := p.sq, serial := s.serial, packet := p } 0x10 0 0 [] (s.setStream p.stream (y.renumber p.sq)) u)) := by
  intro p y
  have hacc : ((s.acceptPkt p).ackPkt p.stream p.sq).streamAt p.stream =
      { y.renumber p.sq with last := p.sq, pkts := y.pkts ++ [{ sq := p.sq, serial := s.serial, packet := p }] } := State.streamAt_setStream_same ..
  have hport : ((s.acceptPkt p).ackPkt p.stream p.sq).portOut = s.portOut ++ [.ack p.stream p.sq] := rfl
  refine ⟨_, exec_packetAccept_next hup htake hseq hroom, ?_⟩
  by_cases htype : 1 ≤ p.type ∧ p.type ≤ 0x0B
  · rw [if_pos htype]
    beta_reduce
    rw [if_pos htype, hacc, hport]
    exact ⟨rfl, rfl, List.take_of_length_le (by simp), rfl, rfl⟩
  · rw [if_neg htype]
    beta_reduce
    rw [if_neg htype]
    have honly := State.finish_only ((s.acceptPkt p).ackPkt p.stream p.sq) p.stream { sq := p.sq, serial := s.serial, packet := p } 0x10
    refine ⟨?_, honly.same State.serial, ?_, completes_of_stream (s := s.setStream p.stream (y.renumber p.sq)) (u := (s.acceptPkt p).ackPkt p.stream p.sq) rfl ?_ ?_ ?_ ..⟩
    · rw [State.finish, (State.complete_level ..).2, hacc]
    · have htake := honly.portOut_take
      rwa [hport, List.length_append] at htake
    · rw [hacc, State.streamAt_setStream_same, List.filter_append]
      simp [Stream.renumber, y]
    · rw [hacc, State.streamAt_setStream_same]
    · rw [hacc, State.streamAt_setStream_same]

theorem packetAccept_duplicate_goes {s : State} (hup : s.ustexUp = true) (htake : s.bringUp ≠ 0 ∨ s.site.packet.type = 0x0A)
    (hseq : s.site.packet.sq = (s.streamAt s.site.packet.stream).last ∨ 0x8000 ≤ (s.site.packet.sq - (s.streamAt s.site.packet.stream).last).toNat) :
    let p := s.site.packet
    let y := s.streamAt p.stream
    Goes .packetAccept s (fun u =>
      (u.portOut.take (s.portOut.length + 1)) = s.portOut ++ [.ack p.stream p.sq] ∧ (u.streamAt p.stream).last = y.last ∧ (u.streamAt p.stream).pkts = y.pkts ∧
      u.serial = s.serial ∧ (∀ r ∈ y.records, (if r.sq = p.sq ∧ r.old = false then { r with sentAt := s.cycle } else r) ∈ (u.streamAt p.stream).records)) := by
  intro p y
  obtain ⟨hlast, hpkts, hrecords⟩ := (s.ackPkt p.stream p.sq).answerAgain_streamAt p.stream p.sq
  have honly := (s.ackPkt p.stream p.sq).answerAgain_only p.stream p.sq
  have htake' := honly.portOut_take
  have hport : (s.ackPkt p.stream p.sq).portOut = s.portOut ++ [.ack p.stream p.sq] := rfl
  rw [hport, List.length_append] at htake'
  exact ⟨_, exec_packetAccept_duplicate hup htake hseq, htake', hlast, hpkts, honly.same State.serial, hrecords⟩

/-! ### Records that are acknowledged, and records that are late (R28) -/

/-- The record of the presence of the package is acknowledged. -/
theorem exec_completionRecordAck_presence {s : State} {r : Record} (hr : s.presence = some r) (hy : s.site.yes = true)
    (hw : (r.payload.getD 7 0).toNat % 2 ^ 32 = s.site.word.toNat) : exec .completionRecordAck s = .next { s with presence := none } := by
  change execCompletionRecordAck s = _
  unfold execCompletionRecordAck
  rw [if_pos hy, hr]
  dsimp only
  rw [if_pos hw]

/-- An acknowledged record leaves its stream, and as many of those that wait follow as 256 unacknowledged ones allow. -/
theorem completionRecordAck_goes {s : State} (hy : s.site.yes = false) (hany : (s.streamAt s.site.stream).records.any (fun r => r.sq == s.site.q) = true) :
    let x := s.streamAt s.site.stream
    Goes .completionRecordAck s (fun u =>
      let l := x.records.eraseP (fun r => r.sq == s.site.q)
      (u.streamAt s.site.stream).records.take l.length = l ∧
      (u.streamAt s.site.stream).records.length = l.length + min (256 - l.length) x.waiting.length ∧
      (u.streamAt s.site.stream).waiting = x.waiting.drop (256 - l.length)) := by
  intro x
  have hexec : exec .completionRecordAck s = execCompletionRecordAck s := rfl
  unfold execCompletionRecordAck at hexec
  rw [if_neg (by simp [hy])] at hexec
  dsimp only at hexec
  rw [if_neg (by simp [hany]), State.sendRecords_eq, dropFirst_eq_eraseP] at hexec
  have hx (z : Stream) (l : List PortOut) :
      ((s.setStream s.site.stream z).withStreams (s.setStream s.site.stream z).streams l).streamAt s.site.stream = z := State.streamAt_setStream_same ..
  refine ⟨_, hexec, ?_⟩
  dsimp only
  rw [hx]
  exact ⟨List.take_left, by simp [x], rfl⟩

/-- A record that has waited 50 µs is sent again, and every other stays as it is. -/
theorem recordResendTimeout_goes {s : State} (hy : s.site.yes = false) : Goes .recordResendTimeout s (fun u => ∀ r ∈ (s.streamAt s.site.stream).records,
    (if r.sq = s.site.q ∧ r.sentAt + 112500 ≤ s.cycle then { r with sentAt := s.cycle } else r) ∈ (u.streamAt s.site.stream).records) := by
  have hexec : exec .recordResendTimeout s = execRecordResendTimeout s := rfl
  unfold execRecordResendTimeout at hexec
  dsimp only at hexec
  rw [if_neg (by simp [hy]), State.sendRecords_eq] at hexec
  have hx (z : Stream) (l : List PortOut) :
      ((s.setStream s.site.stream z).withStreams (s.setStream s.site.stream z).streams l).streamAt s.site.stream = z := State.streamAt_setStream_same ..
  refine ⟨_, hexec, fun r hr => ?_⟩
  rw [hx]
  refine List.mem_map.2 ⟨r, hr, ?_⟩
  simp only [recordTime]
  split_ifs <;> simp_all

theorem exec_recordResendTimeout_presence {s : State} {r : Record} (hr : s.presence = some r) (hy : s.site.yes = true) (hlate : r.sentAt + 112500 ≤ s.cycle) :
    exec .recordResendTimeout s =
      .next { s with presence := some { r with sentAt := s.cycle }, portOut := s.portOut ++ [.record { r with sentAt := s.cycle }.words] } := by
  change execRecordResendTimeout s = _
  simp only [execRecordResendTimeout, hy, hr, recordTime, if_true, Option.toList_some, Option.map_some, hlate, decide_true, List.filter_cons, List.filter_nil,
    List.foldl_cons, List.foldl_nil]
  rfl

/-! ### A packet that breaks a rule of its type (R30) -/

theorem State.signalPkt_bad {s : State} {p : StreamPkt} (f : Word → Word → Word) (h : s.nextPkt (fun q => q.type == 4) = some p) (hg : p.packet.good = false) :
    s.signalPkt 0 f = s.finish s.site.stream p 0x10 := by
  have ht := State.nextPkt_is h
  unfold State.signalPkt
  rw [State.nextPkt_of h (by simpa [hg] using ht)]
  simp [hg]

theorem State.writebackPkt_bad {s : State} {p : StreamPkt} (h : s.nextPkt (fun q => q.type == 9) = some p) (hg : p.packet.good = false) :
    s.writebackPkt 0 = s.finish s.site.stream p 0x10 := by
  have ht := State.nextPkt_is h
  unfold State.writebackPkt
  rw [State.nextPkt_of h (by simpa [hg] using ht)]
  simp [hg]

theorem State.regionPkt_bad {s : State} {p : StreamPkt} {op : Nat} (act : Packet → Nat → State → Option (BitVec 8 × State))
    (h : s.nextPkt (fun p => p.type == 0x02 && (p.regionOp == op || (op == 0 && p.regionOp == 3))) = some p) (hg : p.packet.good = false) :
    s.regionPkt op act = s.finish s.site.stream p 0x10 := by
  unfold State.regionPkt
  rw [h]
  simp [hg]

theorem State.copyhStart_bad {s : State} {p : StreamPkt} {dir : Nat} (h : s.nextPkt (fun p => p.type == 0x03 && (bits (p.at' 0) 0 0 == dir)) = some p)
    (hg : p.packet.good = false) : s.copyhStart dir = s.finish s.site.stream p 0x10 := by
  unfold State.copyhStart
  rw [h]
  simp [hg]

/-- Each event that takes up packets completes a malformed one with BAD_PACKET. -/
theorem exec_packetEvent_bad {s : State} : ∀ e ∈ packetEvents, ∀ p, s.nextPkt e.2 = some p → p.packet.good = false →
    exec e.1 s = .next (s.finish s.site.stream p 0x10) := by
  simp only [packetEvents, List.forall_mem_cons]
  refine ⟨fun p h hg => ?_, fun p h hg => ?_, fun p h hg => ?_, fun p h hg => ?_, fun p h hg => ?_, fun p h hg => ?_, fun p h hg => ?_, fun p h hg => ?_,
    fun p h hg => ?_, fun p h hg => ?_, fun p h hg => ?_, fun p h hg => ?_, List.forall_mem_nil _⟩
  · exact congrArg _ (State.signalPkt_bad _ h hg)
  · change execWaitsig s = _
    simp [execWaitsig, h, hg]
  · change execDetlevel s = _
    simp [execDetlevel, h, hg]
  · change execFencePacket s = _
    simp [execFencePacket, h, hg]
  · change execReadback s = _
    simp [execReadback, h, hg]
  · exact congrArg _ (State.writebackPkt_bad h hg)
  · change execLaunch s = _
    simp [execLaunch, h, hg]
  · exact congrArg _ (State.regionPkt_bad _ (State.nextPkt_of h (by simpa using State.nextPkt_is h)) hg)
  · exact congrArg _ (State.regionPkt_bad _ (State.nextPkt_of h (by simpa using State.nextPkt_is h)) hg)
  · exact congrArg _ (State.regionPkt_bad _ (State.nextPkt_of h (by simpa using State.nextPkt_is h)) hg)
  · exact congrArg _ (State.copyhStart_bad h hg)
  · exact congrArg _ (State.copyhStart_bad h hg)

/-- Settles O35: one lemma for each way in which a packet or a record is taken. -/
theorem packetsAndRecords : Obligations.PacketsAndRecords := by
  intro s p y x age takes
  exact ⟨fun ⟨hup, htake⟩ hseq hroom => packetAccept_next_goes hup htake hseq hroom, fun ⟨hup, htake⟩ hseq => packetAccept_duplicate_goes hup htake hseq,
    completionRecordAck_goes, fun r => exec_completionRecordAck_presence, recordResendTimeout_goes, fun r => exec_recordResendTimeout_presence,
    fun e he q hq hg => ⟨_, exec_packetEvent_bad e he q hq hg, s.finish_completes ..⟩⟩

/-! ### What leaves the host's side of a package as it was -/

/-- Where and when the step acts, the command streams, the COPYHs in progress and what has gone to host memory are the same. -/
structure State.SameHost (s u : State) : Prop where
  site : u.site = s.site
  cycle : u.cycle = s.cycle
  streams : u.streams = s.streams
  copyhs : u.copyhs = s.copyhs
  hostOut : u.hostOut = s.hostOut

theorem State.SameHost.refl (s : State) : s.SameHost s := ⟨rfl, rfl, rfl, rfl, rfl⟩

theorem State.SameHost.trans {s u v : State} (h : s.SameHost u) (h' : u.SameHost v) : s.SameHost v where
  site := h'.site.trans h.site
  cycle := h'.cycle.trans h.cycle
  streams := h'.streams.trans h.streams
  copyhs := h'.copyhs.trans h.copyhs
  hostOut := h'.hostOut.trans h.hostOut

theorem State.SameHost.foldl {α : Type} {f : State → α → State} (h : ∀ (s : State) x, s.SameHost (f s x)) (l : List α) (s : State) : s.SameHost (l.foldl f s) :=
  List.foldlRecOn l f (.refl s) fun u hu x _ => hu.trans (h u x)

/-- A change elsewhere in the state. -/
theorem State.SameHost.of_same {s u : State} (site : u.site = s.site := by rfl) (cycle : u.cycle = s.cycle := by rfl) (streams : u.streams = s.streams := by rfl)
    (copyhs : u.copyhs = s.copyhs := by rfl) (hostOut : u.hostOut = s.hostOut := by rfl) : s.SameHost u := ⟨site, cycle, streams, copyhs, hostOut⟩

theorem State.SameHost.completes {s u : State} (h : s.SameHost u) (n : Nat) (p : StreamPkt) (status : BitVec 8) (value extra : Word) (payload : List Word) :
    Completes n p status value extra payload s (u.complete n p status value extra payload) := completes_of_streams h.streams h.cycle ..

theorem State.SameHost.finishes {s u : State} (h : s.SameHost u) (n : Nat) (p : StreamPkt) (status : BitVec 8) : Completes n p status 0 0 [] s (u.finish n p status) :=
  h.completes ..

theorem State.SameHost.starts {s u : State} (h : s.SameHost u) (n : Nat) (p : StreamPkt) : Starts n p s (u.begin' n p.serial) := State.begin'_starts h.streams h.cycle ..

theorem State.modCell_sameHost (s : State) (k : Nat) (f : Cell → Cell) : s.SameHost (s.modCell k f) := .of_same

theorem State.bbox_sameHost (s : State) (d : Nat) (e : BbEvent) : s.SameHost (s.bbox d e) := .of_same

theorem State.setPair_sameHost (s : State) (a b : Nat) (p : Pair) : s.SameHost (s.setPair a b p) := .of_same

theorem State.setLink_sameHost (s : State) (d e m : Nat) (l : Link) : s.SameHost (s.setLink d e m l) := .of_same

/-! ### Faults and losses leave the host's side as it was (R19, R56, R246) -/

theorem State.stopLaunch_sameHost (s : State) (key : Nat) (st : Stop) (f : Launch → Launch) : s.SameHost (s.stopLaunch key st f) := by
  unfold State.stopLaunch
  split
  · exact .refl s
  · exact State.SameHost.trans .of_same (State.SameHost.foldl (fun _ _ => .of_same) _ _)

theorem State.faultLaunch_sameHost (s : State) (k key group cause : Nat) (entry : Word) : s.SameHost (s.faultLaunch k key group cause entry) := by
  unfold State.faultLaunch
  split
  · exact .refl s
  · dsimp only
    split
    · exact .refl s
    · split
      · exact State.SameHost.trans .of_same (State.stopLaunch_sameHost ..)
      · exact (State.SameHost.trans .of_same (State.stopLaunch_sameHost ..)).trans (State.SameHost.foldl (fun u _ => u.stopLaunch_sameHost ..) _ _)

theorem State.unhandled_sameHost (s : State) (k : Nat) (t : TrapRec) : s.SameHost (s.unhandled k t) := by
  unfold State.unhandled
  split
  · exact .of_same
  · exact State.SameHost.trans .of_same (State.faultLaunch_sameHost ..)

theorem State.withdraw_sameHost (s : State) (k : Nat) : s.SameHost (s.withdraw k) := by
  unfold State.withdraw
  split
  · exact .of_same
  · split
    · exact .of_same
    · exact .refl s
  · exact .refl s

theorem State.deferred_sameHost (s : State) (k : Nat) (cause : BitVec 8) (q : SeqId) (pc val : Word) : s.SameHost (s.deferred k cause q pc val) := by
  have hpend (t : TrapRec) :
      s.SameHost (if 16 ≤ (s.cellAt k).pend.length then s.unhandled k t else s.modCell k (fun c => { c with pend := c.pend ++ [t] })) := by
    split
    · exact s.unhandled_sameHost ..
    · exact .of_same
  unfold State.deferred
  dsimp only
  split
  · exact .refl s
  · split
    · split
      · exact hpend _
      · exact (s.withdraw_sameHost k).trans .of_same
    · exact hpend _
    · exact hpend _
    · exact .refl s

theorem State.report_sameHost (s : State) (o : Owner) (st : BitVec 3) : s.SameHost (s.report o st) := by
  unfold State.report
  split
  case h_5 => exact .refl s
  all_goals exact .of_same

theorem State.loseElement_sameHost (s : State) (o : Owner) (va : Word) : s.SameHost (s.loseElement o va) := by
  unfold State.loseElement
  split
  case h_3 => exact .refl s
  all_goals exact .of_same

theorem State.loseOwned_sameHost (s : State) (r : MeshReq) : s.SameHost (s.loseOwned r) := by
  unfold State.loseOwned
  split
  · exact s.loseElement_sameHost ..
  · exact s.loseElement_sameHost ..
  · exact s.deferred_sameHost ..
  · exact .of_same
  · exact s.report_sameHost ..

theorem State.loseChain_sameHost (s : State) (n : Nat) : s.SameHost (s.loseChain n) := by
  refine State.SameHost.trans .of_same (State.SameHost.foldl (fun u a => ?_) _ _)
  unfold State.finishChain
  split
  · exact .of_same
  · exact .refl u

theorem State.carry_sameHost (s : State) (k dst : Nat) (r : MeshReq) : s.SameHost (s.carry k dst r).2 := by
  unfold State.carry
  dsimp only
  split
  · exact .refl s
  · split
    · exact .of_same
    · exact .of_same

theorem State.settleChunks_sameHost (s : State) : s.SameHost s.settleChunks :=
  have hsend (u : State) (i : Inc) : u.SameHost (u.sendInc 1024 none i.cid i.amount i.fold) := (State.carry_sameHost ..).trans .of_same
  (State.SameHost.trans .of_same (State.SameHost.foldl hsend _ _)).trans (State.SameHost.foldl (fun _ _ => .of_same) _ _)

theorem State.loseCarried_sameHost (s : State) (src n : Nat) (r : MeshReq) : s.SameHost (s.loseCarried src n r) := by
  unfold State.loseCarried
  extract_lets s1 s2 s3
  have h2 : s.SameHost s2 := (State.SameHost.trans .of_same (s1.loseChain_sameHost n)).trans (State.loseOwned_sameHost ..)
  have h3 : s2.SameHost s3 := by
    unfold s3
    split
    · exact .of_same
    · exact .refl s2
  exact (h2.trans h3).trans s3.settleChunks_sameHost

theorem State.loseReq_sameHost (s : State) (src dst : Nat) (r : MeshReq) : s.SameHost (s.loseReq src dst r) := by
  unfold State.loseReq
  split
  · exact s.deferred_sameHost ..
  · exact s.loseCarried_sameHost ..
  · exact .of_same

/-! ### Changes of link modules leave the host's side as it was (R13 to R16) -/

theorem State.refill_sameHost (s : State) (src dst : Nat) : s.SameHost (s.refill src dst) := by
  unfold State.refill
  dsimp only
  split
  · exact .refl s
  · exact State.SameHost.trans .of_same (State.SameHost.foldl (fun _ _ => .of_same) _ _)

theorem State.resend_sameHost (s : State) (src dst : Nat) : s.SameHost (s.resend src dst) :=
  (State.SameHost.trans .of_same (State.SameHost.foldl (fun u r => u.loseReq_sameHost src dst r) _ _)).trans (State.refill_sameHost ..)

theorem State.reroute_sameHost (s : State) (src dst : Nat) : s.SameHost (s.reroute src dst) := by
  have hnew (u : State) (p : Pair) (f : Pair → Pair) : u.SameHost (p.users.foldl (fun v x => v.corrected x 0) (u.modPair src dst f)) :=
    (u.setPair_sameHost ..).trans (State.SameHost.foldl (fun _ _ => .of_same) _ _)
  unfold State.reroute
  dsimp only
  split
  · split
    · exact .refl s
    · exact s.setPair_sameHost ..
  · split
    · split
      · exact s.setPair_sameHost ..
      · exact .refl s
    · split
      · exact ((s.bbox_sameHost ..).trans (hnew ..)).trans (State.resend_sameHost ..)
      · exact (s.bbox_sameHost ..).trans (hnew ..)

theorem State.remodule_sameHost (s : State) (src dst : Nat) : s.SameHost (s.remodule src dst) := by
  unfold State.remodule
  dsimp only
  split
  · exact .refl s
  · split
    · exact State.SameHost.trans .of_same (State.resend_sameHost ..)
    · exact .of_same

theorem State.relink_sameHost (s : State) (edge : Nat) : s.SameHost (s.relink edge) := by
  unfold State.relink
  dsimp only
  refine State.SameHost.trans ?_ (State.SameHost.foldl (fun u _ => u.remodule_sameHost ..) _ _)
  split
  · exact State.SameHost.foldl (fun u _ => u.reroute_sameHost ..) _ _
  · exact .refl s

theorem State.modBoth_sameHost (s : State) (e m : Nat) (f : Link → Link) : s.SameHost (s.modBoth e m f) :=
  (s.setLink_sameHost ..).trans (State.setLink_sameHost ..)

theorem State.setModule_sameHost (s : State) (e m st width : Nat) : s.SameHost (s.setModule e m st width) := by
  unfold State.setModule
  dsimp only
  split
  · exact (s.setLink_sameHost ..).trans (State.setLink_sameHost ..)
  · exact (((s.setLink_sameHost ..).trans (State.setLink_sameHost ..)).trans (State.bbox_sameHost ..)).trans (State.bbox_sameHost ..)

theorem State.endRetrain_sameHost (s : State) (e m : Nat) : s.SameHost (s.endRetrain e m) := by
  unfold State.endRetrain
  exact State.SameHost.trans (State.SameHost.foldl (fun _ _ => .of_same) _ _) (State.modBoth_sameHost ..)

theorem State.setDown_sameHost (s : State) (d e m : Nat) (down : Bool) : s.SameHost (s.setDown d e m down) := by
  unfold State.setDown
  dsimp only
  have h1 (l : Link) : s.SameHost (s.setLink d e m l) := s.setLink_sameHost ..
  split
  · split
    · exact h1 _
    · exact (((h1 _).trans (State.endRetrain_sameHost _ e m)).trans (State.setModule_sameHost ..)).trans (State.relink_sameHost ..)
  · split
    · exact ((h1 _).trans (State.modBoth_sameHost ..)).trans (State.setModule_sameHost ..)
    · exact h1 _

theorem State.ssPutDie_sameHost (s : State) (d off : Nat) (v : Word) : s.SameHost (s.ssPutDie d off v) := by
  unfold State.ssPutDie
  split
  · dsimp only
    split
    · exact State.SameHost.trans .of_same (State.setDown_sameHost ..)
    · exact .refl s
  · split
    · exact .of_same
    · split
      · exact .of_same
      · exact .refl s

/-! ### Writes to memory leave the host's side as it was -/

theorem State.poke_sameHost (s : State) (pa : Nat) (bs : List Byte) : s.SameHost (s.poke pa bs) := by
  unfold State.poke
  split
  · exact .of_same
  · exact .of_same

theorem State.writeWord_sameHost (s : State) (pa : Nat) (bs : List Byte) (h : Held) : s.SameHost (s.writeWord pa bs h).1 := by
  unfold State.writeWord
  split
  · dsimp only
    split
    · exact .refl s
    · exact .of_same
  · exact s.poke_sameHost ..

/-- Numbered words written one after another by f, to the addresses that their offsets have. The function is a variable here, not `writeWord` itself, so that the
kernel takes a step of the fold without computing with the address. -/
def State.eachWord (f : State → Nat → List Byte → Held → State × WriteRes) (at' : Nat → Nat) (off : Nat) (s : State) (l : List (Word × Nat)) : State :=
  l.foldl (fun s (v, i) => (f s (at' (off + 8 * i)) (leBytes 8 v.toNat) { kind := 2, owner := .engine }).1) s

theorem State.eachWord_cons (f : State → Nat → List Byte → Held → State × WriteRes) (at' : Nat → Nat) (off : Nat) (s : State) (v : Word) (i : Nat)
    (l : List (Word × Nat)) : State.eachWord f at' off s ((v, i) :: l) =
      State.eachWord f at' off (f s (at' (off + 8 * i)) (leBytes 8 v.toNat) { kind := 2, owner := .engine }).1 l := rfl

theorem State.eachWord_sameHost {f : State → Nat → List Byte → Held → State × WriteRes} (hf : ∀ s pa bs h, State.SameHost s (f s pa bs h).1) (at' : Nat → Nat)
    (off : Nat) (l : List (Word × Nat)) (s : State) : s.SameHost (State.eachWord f at' off s l) := by
  induction l generalizing s with
  | nil => exact .refl s
  | cons x l ih => exact (hf ..).trans (ih _)

theorem State.ssWriteCell_scratchpad (s : State) (k off : Nat) (ws : List Word) :
    s.ssWriteCell k 7 off ws = State.eachWord State.writeWord (spAddr k) off s ws.zipIdx := by
  unfold State.ssWriteCell State.eachWord
  rw [if_neg (by decide), if_pos rfl]

theorem State.ssWriteCell_sameHost (s : State) (k blk off : Nat) (ws : List Word) : s.SameHost (s.ssWriteCell k blk off ws) := by
  by_cases hsp : blk = 7
  · subst hsp
    rw [State.ssWriteCell_scratchpad]
    exact State.eachWord_sameHost State.writeWord_sameHost ..
  · unfold State.ssWriteCell
    by_cases hseq : blk < 4
    · rw [if_pos hseq]
      exact s.modCell_sameHost ..
    · rw [if_neg hseq, if_neg hsp]
      exact s.modCell_sameHost ..

theorem State.ssWrite_sameHost (s : State) (a : SsAddr) (ws : List Word) : s.SameHost (s.ssWrite a ws).2 := by
  unfold State.ssWrite
  split
  · exact .refl s
  · split
    · exact .refl s
    · split
      · split
        · exact .refl s
        · exact s.ssWriteCell_sameHost ..
      · split
        · exact State.SameHost.foldl (fun u x => u.ssPutDie_sameHost ..) _ _
        · exact .refl s
      · exact .refl s

theorem State.begin'_only (s : State) (n serial : Nat) : s.StreamsOnly (s.begin' n serial) := State.setStream_only ..

/-! ### READBACK (R40) -/

/-- A READBACK completes with what the state space gives; a state in which its error has been noted, or its box has thawed, is the same otherwise. -/
theorem exec_readback {s : State} {p : StreamPkt} (h : s.nextPkt (fun q => q.type == 8) = some p) (hg : p.packet.good = true) :
    let a := ssAddr p.packet.state
    let r := s.ssRead a (p.packet.count / 8)
    let b := NatMap.get {} s.boxes a.die
    ∃ t, exec .readback s = .next (t.complete s.site.stream p r.1 0 0 r.2) ∧ s.SameHost t ∧ t.mem = s.mem ∧ t.cells = s.cells ∧
      (a.kind = 4 → r.1 = 0 → b.returnsNewest a.off p.packet.count = true → NatMap.get {} t.boxes a.die = b.thaw) := by
  intro a r b
  have hexec : exec .readback s = execReadback s := rfl
  unfold execReadback at hexec
  rw [h] at hexec
  dsimp only at hexec
  rw [if_neg (by simp [hg])] at hexec
  have hnote (o : Option Nat) (f : Nat → Nat) (k : Nat) (t : State) (ht : t = (match o with | some o => if r.1 = 2 then s.logBad k (f o) 7 else s | none => s)) :
      s.SameHost t ∧ t.mem = s.mem ∧ t.cells = s.cells := by
    subst ht
    split
    · split
      · exact ⟨.of_same, rfl, rfl⟩
      · exact ⟨.refl s, rfl, rfl⟩
    · exact ⟨.refl s, rfl, rfl⟩
  obtain ⟨hsame, hmem, hcells⟩ := hnote (s.ssBad a (p.packet.count / 8))
    (fun o => if a.blk = 7 then spAddr (cellKey a.die a.unit) o else p.packet.state - a.off + o) (cellKey a.die a.unit) _ rfl
  refine ⟨_, hexec, ?_, ?_, ?_, fun hk hr hn => ?_⟩
  · split
    · exact hsame.trans .of_same
    · exact hsame
  · split
    · exact hmem
    · exact hmem
  · split
    · exact hcells
    · exact hcells
  · have hthaws : (decide (a.kind = 4) && decide (r.1 = 0) && b.returnsNewest a.off p.packet.count) = true := by
      simp only [Bool.and_eq_true, decide_eq_true_eq]
      exact ⟨⟨hk, hr⟩, hn⟩
    rw [if_pos hthaws, NatMap.get_put_same]

@[simp] theorem BlackBox.thaw_frozen (b : BlackBox) : b.thaw.frozen = false := by
  unfold BlackBox.thaw
  split
  · rfl
  · rename_i h; simpa using h

@[simp] theorem BlackBox.thaw_events (b : BlackBox) : b.thaw.events = b.events := by
  unfold BlackBox.thaw
  split <;> rfl

theorem readback_goes {s : State} {p : StreamPkt} (h : s.nextPkt (fun q => q.type == 8) = some p) (hg : p.packet.good = true) :
    let a := ssAddr p.packet.state
    let r := s.ssRead a (p.packet.count / 8)
    let b := NatMap.get {} s.boxes a.die
    Goes .readback s (fun u => Completes s.site.stream p r.1 0 0 r.2 s u ∧ u.mem = s.mem ∧ u.cells = s.cells ∧
      (a.kind = 4 → r.1 = 0 → b.returnsNewest a.off p.packet.count = true → (NatMap.get {} u.boxes a.die).frozen = false ∧
        (NatMap.get {} u.boxes a.die).events = b.events)) := by
  intro a r b
  obtain ⟨t, hexec, hsame, hmem, hcells, hbox⟩ := exec_readback h hg
  have honly := t.complete_only s.site.stream p r.1 0 0 r.2
  refine ⟨_, hexec, hsame.completes .., (honly.same State.mem).trans hmem, (honly.same State.cells).trans hcells, fun hk hr hn => ?_⟩
  rw [honly.same State.boxes, hbox hk hr hn]
  exact ⟨b.thaw_frozen, b.thaw_events⟩

/-! ### BBOXREAD (R41, R267, R268) -/

theorem exec_bboxread_bad {s : State} {p : StreamPkt} (h : s.immediatePkt (fun q => q.type == 0x0A) = some p) (hg : p.packet.good = false) :
    exec .bboxread s = .next (s.finish s.site.stream p 0x10) := by
  change execBboxread s = _
  simp [execBboxread, h, hg]

theorem bboxread_goes {s : State} {p : StreamPkt} (h : s.immediatePkt (fun q => q.type == 0x0A) = some p) (hg : p.packet.good = true) :
    let w := p.packet.at' 0
    let b := NatMap.get {} s.boxes (bits w 4 0)
    let es := (b.events.drop (bits w 27 16)).take (bits w 39 32)
    Goes .bboxread s (fun u =>
      Completes s.site.stream p 0 (BitVec.ofNat 64 (b.events.length % 4096 + (if b.frozen = true then 4096 else 0))) 0 (es.flatMap (fun e => [e.w0, e.w1, e.w2, e.w3])) s u ∧
      (NatMap.get {} u.boxes (bits w 4 0)).events = b.events ∧
      (NatMap.get {} u.boxes (bits w 4 0)).frozen = (b.frozen && !(decide (0 < es.length) && decide (bits w 27 16 + es.length = b.events.length)))) := by
  intro w b es
  have hexec : exec .bboxread s = execBboxread s := rfl
  unfold execBboxread at hexec
  rw [h] at hexec
  dsimp only at hexec
  rw [if_neg (by simp [hg])] at hexec
  have hempty : (!es.isEmpty) = decide (0 < es.length) := by cases es <;> simp
  by_cases hnew : (!es.isEmpty && decide (bits w 27 16 + es.length = b.events.length)) = true
  · rw [if_pos hnew] at hexec
    refine ⟨_, hexec, State.SameHost.completes .of_same .., ?_⟩
    rw [(State.complete_only ..).same State.boxes, NatMap.get_put_same, b.thaw_events, b.thaw_frozen, ← hempty, hnew]
    exact ⟨rfl, by simp⟩
  · rw [if_neg hnew] at hexec
    refine ⟨_, hexec, s.complete_completes .., ?_⟩
    rw [(State.complete_only ..).same State.boxes, ← hempty, eq_false_of_ne_true hnew]
    exact ⟨rfl, by simp [b]⟩

/-! ### WRITEBACK (R40) -/

/-- A WRITEBACK of its class whose turn it is and which is well formed. -/
theorem State.writebackPkt_good {s : State} {p : StreamPkt} {cls : Nat} (h : s.nextPkt (fun q => q.type == 9) = some p) (hg : p.packet.good = true)
    (hc : p.packet.xlTarget = cls) :
    let r := s.ssWrite (ssAddr p.packet.state) p.packet.data
    s.writebackPkt cls = if s.ssWaits p.packet = true then s
      else if r.1 = 0 ∧ cls = 2 ∧ r.2.usesPage (invPage (p.packet.at' 2)) = true then r.2.begin' s.site.stream p.serial
      else r.2.finish s.site.stream p r.1 := by
  have ht := State.nextPkt_is h
  unfold State.writebackPkt
  rw [State.nextPkt_of h (by simpa [hg, hc] using ht)]
  simp [hg, and_assoc]

theorem Packet.rangeOk_of_good {p : Packet} (ht : p.type = 9) (hg : p.good = true) : p.state % 8 = 0 ∧ p.count % 8 = 0 ∧ 8 ≤ p.count ∧ p.count ≤ 4096 := by
  unfold Packet.good at hg
  rw [ht] at hg
  simp only [Packet.rangeOk, Bool.and_eq_true, decide_eq_true_eq] at hg
  exact ⟨hg.2.1.1.1.1, hg.2.1.1.1.2, hg.2.1.1.2, hg.2.1.2⟩

theorem Packet.data_length (p : Packet) : p.data.length = p.count / 8 := by simp [Packet.data]

/-- The first word of the data, and the others. -/
theorem Packet.data_eq_cons {p : Packet} (h : 8 ≤ p.count) : ∃ l, p.data = p.at' 2 :: l ∧ l.length = p.count / 8 - 1 := by
  obtain ⟨m, hm⟩ : ∃ m, p.count / 8 = m + 1 := ⟨p.count / 8 - 1, by omega⟩
  refine ⟨(List.range m).map (fun i => p.at' (2 + (i + 1))), ?_, by simp [hm]⟩
  rw [Packet.data, hm, List.range_succ_eq_map, List.map_cons, List.map_map]
  rfl

/-- What is refused writes nothing. -/
theorem State.ssWrite_refused {s : State} {a : SsAddr} {ws : List Word} (h : (s.ssWrite a ws).1 ≠ 0) : (s.ssWrite a ws).2 = s := by
  unfold State.ssWrite at h ⊢
  split
  · rfl
  · rename_i hsize
    simp only [hsize] at h
    split
    · rfl
    · rename_i hlen
      rw [if_neg hlen] at h
      split
      · rename_i hk
        simp only [hk] at h
        split
        · rfl
        · rename_i hstop
          exact absurd (by rw [if_neg hstop]) h
      · rename_i hk
        simp only [hk] at h
        split
        · rename_i hall
          exact absurd (by rw [if_pos hall]) h
        · rfl
      · rfl

/-- What is not refused of a cell is written there. -/
theorem State.ssWrite_cell {s : State} {a : SsAddr} {ws : List Word} (hk : a.kind = 0) (h : (s.ssWrite a ws).1 = 0) :
    (s.ssWrite a ws).2 = s.ssWriteCell (cellKey a.die a.unit) a.blk a.off ws := by
  unfold State.ssWrite at h ⊢
  split
  · rename_i hsize
    simp [hsize] at h
  · rename_i hsize
    simp only [hsize] at h
    split
    · rename_i hlen
      simp [hlen] at h
    · rename_i hlen
      rw [if_neg hlen] at h
      simp only [hk] at h ⊢
      split
      · rename_i hstop
        rw [if_pos hstop] at h
        exact absurd h (by simp)
      · rfl

/-! ### Words written to a scratchpad (R121, R160, R425) -/

theorem Memory.writes_append (gen : Nat) (xs ys : List Byte) (m : List Host.Cell) (pa : Nat) :
    Memory.writes gen m pa (xs ++ ys) = Memory.writes gen (Memory.writes gen m pa xs) (pa + xs.length) ys := by
  induction xs generalizing m pa with
  | nil => rfl
  | cons b xs ih =>
    rw [List.cons_append, Memory.writes, Memory.writes, ih, List.length_cons]
    congr 1
    omega

/-- A run of bytes that has been written reads as it was written. -/
theorem Memory.reads_writes (gen : Nat) (m : List Host.Cell) (pa : Nat) (bs : List Byte) : ∀ n j : Nat, j + n ≤ bs.length →
    Memory.reads gen (Memory.writes gen m pa bs) (pa + j) n = (bs.drop j).take n
  | 0, j, _ => by simp [Memory.reads]
  | n + 1, j, h => by
    have hj : j < bs.length := by omega
    rw [Memory.reads, Memory.read_writes_same gen bs m pa j hj, Nat.add_assoc, Memory.reads_writes gen m pa bs n (j + 1) (by omega),
      List.drop_eq_getElem_cons hj, List.take_succ_cons]

theorem Memory.writesBut_eq_writes (gen : Nat) {bad : List Nat} (bs : List Byte) : ∀ (m : List Host.Cell) (pa : Nat),
    (∀ i, i < bs.length → bad.contains (eccWord (pa + i)) = false) → Memory.writesBut gen m bad pa bs = Memory.writes gen m pa bs := by
  induction bs with
  | nil => intro m pa _; rfl
  | cons b bs ih =>
    intro m pa h
    have h0 := h 0 (by simp)
    rw [Nat.add_zero] at h0
    rw [Memory.writesBut, Memory.writes, h0]
    exact ih _ _ fun i hi => by rw [Nat.add_assoc, Nat.add_comm 1]; exact h (i + 1) (by simpa using hi)

@[simp] theorem length_leBytes (n v : Nat) : (leBytes n v).length = n := by
  induction n generalizing v with
  | zero => rfl
  | succ n ih => simp [leBytes, ih]

theorem ofLe_leBytes (n v : Nat) : ofLe (leBytes n v) = v % 256 ^ n := by
  induction n generalizing v with
  | zero => simp [leBytes, ofLe, Nat.mod_one]
  | succ n ih =>
    rw [leBytes, ofLe, ih, Nat.pow_succ', Nat.mod_mul]
    simp

/-- A word of a scratchpad is one ECC word, so a write of it is performed whole, the word uncorrectable or not. -/
theorem State.poke_word_mem (s : State) {pa : Nat} (hpa : hbmTop ≤ pa) (hal : pa % 8 = 0) (bs : List Byte) (hbs : bs.length = 8) :
    (s.poke pa bs).mem = Memory.writes s.hbmGen s.mem pa bs := by
  have hsize (x : Nat) (hx : hbmTop ≤ x) : eccSize x = 8 := if_neg (by omega)
  unfold State.poke
  split
  · rfl
  · refine Memory.writesBut_eq_writes _ _ _ _ fun i hi => ?_
    have hword : eccWord (pa + i) = pa := by rw [eccWord, hsize _ (by omega)]; omega
    rw [hword, hbs]
    have hcovers : eccCovers pa 8 pa = true := by simp [eccCovers, hsize pa hpa]
    simp [List.contains_eq_mem, List.mem_filter, hcovers]

@[simp] theorem State.wordHeld_poke (s : State) (pa x : Nat) (bs : List Byte) : (s.poke pa bs).wordHeld x = s.wordHeld x := by
  unfold State.poke
  split <;> rfl

theorem State.writeWord_free {s : State} {pa : Nat} (hfree : s.wordHeld pa = false) (bs : List Byte) (h : Held) : (s.writeWord pa bs h).1 = s.poke pa bs := by
  unfold State.writeWord
  rw [hfree, if_neg (by decide)]

theorem hbmTop_le_spAddr (k off : Nat) : hbmTop ≤ spAddr k off := by
  unfold hbmTop spAddr spWindow
  omega

theorem spAddr_add (k off n : Nat) : spAddr k (off + n) = spAddr k off + n := by
  unfold spAddr
  omega

theorem spAddr_mod_eight {k off : Nat} (h : off % 8 = 0) : spAddr k off % 8 = 0 := by
  unfold spAddr spWindow
  omega

/-- Words written to a scratchpad, where commands hold none of them, are the run of their bytes written there. -/
theorem State.eachWord_mem {k off : Nat} (hoff : off % 8 = 0) (ws : List Word) : ∀ (n : Nat) (s : State),
    (∀ i, i < ws.length → s.wordHeld (spAddr k (off + 8 * (n + i))) = false) →
    (State.eachWord State.writeWord (spAddr k) off s (ws.zipIdx n)).mem =
      Memory.writes s.hbmGen s.mem (spAddr k (off + 8 * n)) (ws.flatMap (fun w => leBytes 8 w.toNat)) ∧
    (State.eachWord State.writeWord (spAddr k) off s (ws.zipIdx n)).hbmGen = s.hbmGen := by
  induction ws with
  | nil => intro n s _; exact ⟨rfl, rfl⟩
  | cons w ws ih =>
    intro n s hfree
    have hfree0 := hfree 0 (by simp)
    rw [Nat.add_zero] at hfree0
    obtain ⟨hmem, hgen⟩ := ih (n + 1) (s.poke (spAddr k (off + 8 * n)) (leBytes 8 w.toNat)) fun i hi => by
      rw [State.wordHeld_poke, Nat.add_assoc n 1 i, Nat.add_comm 1 i]
      exact hfree (i + 1) (by simpa using hi)
    rw [List.zipIdx_cons, State.eachWord_cons, State.writeWord_free hfree0, hmem, hgen, State.poke_hbmGen,
      State.poke_word_mem _ (hbmTop_le_spAddr ..) (spAddr_mod_eight (by omega)) _ (length_leBytes ..), List.flatMap_cons, Memory.writes_append, length_leBytes,
      ← spAddr_add]
    exact ⟨rfl, rfl⟩

/-- The i-th of a run of words as its bytes. -/
theorem flatMap_leBytes_slice (ws : List Word) (i : Nat) (h : i < ws.length) :
    ((ws.flatMap (fun w => leBytes 8 w.toNat)).drop (8 * i)).take 8 = leBytes 8 ws[i].toNat := by
  induction ws generalizing i with
  | nil => simp at h
  | cons w ws ih =>
    cases i with
    | zero => rw [List.flatMap_cons, Nat.mul_zero, List.drop_zero, List.take_append_of_le_length (by simp), List.take_of_length_le (by simp)]; rfl
    | succ i =>
      rw [List.flatMap_cons, show 8 * (i + 1) = (leBytes 8 w.toNat).length + 8 * i by rw [length_leBytes]; omega, List.drop_length_add_append]
      exact ih i (by simpa using h)

theorem length_flatMap_leBytes (ws : List Word) : (ws.flatMap (fun w => leBytes 8 w.toNat)).length = 8 * ws.length := by
  simp [List.length_flatMap, Nat.mul_comm]

theorem State.ssWord_scratchpad (s : State) {a : SsAddr} (hk : a.kind = 0) (hb : a.blk = 7) (off : Nat) :
    s.ssWord { a with off := off } = BitVec.ofNat 64 (ofLe (s.bytesAt (spAddr (cellKey a.die a.unit) off) 8)) := by
  simp only [State.ssWord, State.ssCell, hk, hb]

/-- A WRITEBACK to a scratchpad of words that no command holds reads back as it was written. -/
theorem State.ssWriteCell_reads {s : State} {a : SsAddr} {ws : List Word} (hk : a.kind = 0) (hb : a.blk = 7) (hoff : a.off % 8 = 0)
    (hfree : ∀ i, i < ws.length → s.wordHeld (spAddr (cellKey a.die a.unit) (a.off + 8 * i)) = false) {u : State}
    (hu : ∀ pa, u.bytesAt pa 8 = (s.ssWriteCell (cellKey a.die a.unit) 7 a.off ws).bytesAt pa 8) :
    (List.range ws.length).map (fun i => u.ssWord { a with off := a.off + 8 * i }) = ws := by
  obtain ⟨hmem, hgen⟩ := State.eachWord_mem (k := cellKey a.die a.unit) hoff ws 0 s (by simpa using hfree)
  refine List.ext_getElem (by simp) fun i hi hi' => ?_
  rw [List.getElem_map, List.getElem_range, State.ssWord_scratchpad u hk hb, hu, State.ssWriteCell_scratchpad, State.bytesAt, hmem, hgen, Nat.mul_zero,
    Nat.add_zero, spAddr_add, Memory.reads_writes _ _ _ _ _ _ (by rw [length_flatMap_leBytes]; omega), flatMap_leBytes_slice ws i hi', ofLe_leBytes]
  exact BitVec.eq_of_toNat_eq (by rw [BitVec.toNat_ofNat]; omega)

/-- A WRITEBACK to the state space proper: it waits for room in the commit buffer, or completes; what is refused changes nothing. -/
theorem writeback_goes {s : State} {p : StreamPkt} (h : s.nextPkt (fun q => q.type == 9) = some p) (hg : p.packet.good = true) (hx : p.packet.xlTarget = 0)
    (hw : s.ssWaits p.packet = false) :
    let a := ssAddr p.packet.state
    let r := s.ssWrite a p.packet.data
    Goes .writeback s (fun u => Completes s.site.stream p r.1 0 0 [] s u ∧ (r.1 ≠ 0 → u.mem = s.mem ∧ u.cells = s.cells ∧ u.links = s.links) ∧
      (r.1 = 0 → a.kind = 0 → a.blk = 7 → (∀ i, i < p.packet.count / 8 → s.wordHeld (spAddr (cellKey a.die a.unit) (a.off + 8 * i)) = false) →
        (List.range (p.packet.count / 8)).map (fun i => u.ssWord { a with off := a.off + 8 * i }) = p.packet.data)) := by
  intro a r
  have hexec : exec .writeback s = .next (r.2.finish s.site.stream p r.1) := by
    change Host.Outcome.next (s.writebackPkt 0) = _
    rw [State.writebackPkt_good h hg hx, if_neg (by simp [hw]), if_neg (by simp)]
  have honly := r.2.finish_only s.site.stream p r.1
  obtain ⟨halign, -, -, -⟩ := Packet.rangeOk_of_good (by simpa using State.nextPkt_is h) hg
  refine ⟨_, hexec, (State.ssWrite_sameHost ..).finishes .., fun hr => ?_, fun hr hk hb hfree => ?_⟩
  · have hsame : r.2 = s := State.ssWrite_refused hr
    rw [honly.same State.mem, honly.same State.cells, honly.same State.links, hsame]
    exact ⟨rfl, rfl, rfl⟩
  · have hoff : a.off % 8 = 0 := by simp only [a, ssAddr]; omega
    rw [← Packet.data_length p.packet] at hfree ⊢
    refine State.ssWriteCell_reads hk hb hoff hfree fun pa => ?_
    rw [honly.same (fun u => u.bytesAt pa 8), ← hb, ← State.ssWrite_cell hk hr]

/-! ### XLROOT and XLINV (R166) -/

/-- Every cached translation of the package has a property. -/
def State.Cached (P : TlbEntry → Prop) (s : State) : Prop := (∀ e ∈ s.cells, ∀ t ∈ e.2.tlb, P t) ∧ (∀ e ∈ s.dieTlb, ∀ t ∈ e.2, P t)

theorem State.Cached.of_same {P : TlbEntry → Prop} {s u : State} (h : s.Cached P) (hc : u.cells = s.cells) (hd : u.dieTlb = s.dieTlb) : u.Cached P := by
  unfold State.Cached
  rw [hc, hd]
  exact h

/-- Translations that are dropped are cached no longer, and those that were not cached are not. -/
theorem State.dropTlbs_cached {P Q : TlbEntry → Prop} {q : TlbEntry → Bool} {s : State} (h : s.Cached P) (hq : ∀ t, P t → q t = false → Q t) : (s.dropTlbs q).Cached Q := by
  obtain ⟨hcells, hdies⟩ := h
  refine ⟨fun e he t ht => ?_, fun e he t ht => ?_⟩
  · obtain ⟨e', he', rfl⟩ := List.mem_map.1 he
    obtain ⟨ht', hkept⟩ := List.mem_filter.1 ht
    exact hq t (hcells e' he' t ht') (by simpa using hkept)
  · obtain ⟨e', he', rfl⟩ := List.mem_map.1 he
    obtain ⟨ht', hkept⟩ := List.mem_filter.1 ht
    exact hq t (hdies e' he' t ht') (by simpa using hkept)

theorem State.cached_true (s : State) : s.Cached (fun _ => True) := ⟨fun _ _ _ _ => trivial, fun _ _ _ _ => trivial⟩

/-- A state with V and ROOT set. -/
def State.withRoot (s : State) (v : Word) : State := { s with xlV := bit v 0, xlRoot := BitVec.ofNat 28 (bits v 47 20) }

theorem State.ssPutDie_xlroot (s : State) (v : Word) : s.ssPutDie 16 0 v = (s.withRoot v).dropTlbs (fun _ => true) := by
  unfold State.ssPutDie
  rw [if_neg (by decide), if_pos (by decide)]
  rfl

theorem State.ssPutDie_xlinv (s : State) (v : Word) : s.ssPutDie 16 8 v = s.dropTlbs (fun t => t.overlaps (invPage v)) := by
  unfold State.ssPutDie
  rw [if_neg (by decide), if_neg (by decide), if_pos (by decide)]

/-- A word behind XLROOT among the registers of rim die 16 may drop translations, and changes no more. -/
theorem State.ssPutDie_behind {s : State} {off : Nat} (h0 : 0 < off) (h1 : off < 0x10000) (v : Word) :
    (s.ssPutDie 16 off v).xlV = s.xlV ∧ (s.ssPutDie 16 off v).xlRoot = s.xlRoot ∧ ∀ P, s.Cached P → (s.ssPutDie 16 off v).Cached P := by
  unfold State.ssPutDie
  rw [if_neg (by simp; omega), if_neg (by simp; omega)]
  split
  · exact ⟨rfl, rfl, fun P hP => State.dropTlbs_cached hP fun _ ht _ => ht⟩
  · exact ⟨rfl, rfl, fun P hP => hP⟩

theorem State.ssPutDies_behind {off : Nat} {l : List (Word × Nat)} (hl : ∀ x ∈ l, 0 < off + 8 * x.2 ∧ off + 8 * x.2 < 0x10000) (s : State) :
    let u := l.foldl (fun s x => State.ssPutDie s 16 (off + 8 * x.2) x.1) s
    u.xlV = s.xlV ∧ u.xlRoot = s.xlRoot ∧ ∀ P, s.Cached P → u.Cached P := by
  refine List.foldlRecOn (motive := fun (u : State) => u.xlV = s.xlV ∧ u.xlRoot = s.xlRoot ∧ ∀ P, s.Cached P → u.Cached P) l _ ⟨rfl, rfl, fun _ => id⟩ fun u hu x hx => ?_
  obtain ⟨hv, hroot, hcached⟩ := hu
  obtain ⟨hv', hroot', hcached'⟩ := State.ssPutDie_behind (s := u) (hl x hx).1 (hl x hx).2 x.1
  exact ⟨hv'.trans hv, hroot'.trans hroot, fun P hP => hcached' P (hcached P hP)⟩

theorem Packet.xlTarget_one {p : Packet} (h : p.xlTarget = 1) : (ssAddr p.state).die = 16 ∧ (ssAddr p.state).kind = 2 ∧ (ssAddr p.state).off = 0 := by
  unfold Packet.xlTarget at h
  dsimp only at h
  split_ifs at h <;> simp_all

theorem Packet.xlTarget_two {p : Packet} (h : p.xlTarget = 2) : (ssAddr p.state).die = 16 ∧ (ssAddr p.state).kind = 2 ∧ (ssAddr p.state).off = 8 := by
  unfold Packet.xlTarget at h
  dsimp only at h
  split_ifs at h <;> simp_all

/-- A WRITEBACK to the registers of rim die 16. -/
theorem State.ssWrite_rim {s : State} {a : SsAddr} {ws : List Word} (hd : a.die = 16) (hk : a.kind = 2) (hlen : a.off + 8 * ws.length ≤ 2 ^ 30) :
    s.ssWrite a ws = if ws.zipIdx.all (fun x => s.dieWritable 16 (a.off + 8 * x.2)) = true then
      (0, ws.zipIdx.foldl (fun s x => State.ssPutDie s 16 (a.off + 8 * x.2) x.1) s) else (0x11, s) := by
  have hsize : a.size = some (2 ^ 30) := by simp [SsAddr.size, hd, hk]
  unfold State.ssWrite
  rw [hsize]
  simp only [hk, hd]
  rw [if_neg (by omega)]

theorem State.dieWritable_root (s : State) : s.dieWritable 16 0 = s.launches.isEmpty := by simp [State.dieWritable, State.launchOpen]

theorem State.dieWritable_behind (s : State) {off : Nat} (h0 : 0 < off) (h1 : off < 0x10000) : s.dieWritable 16 off = true := by
  unfold State.dieWritable
  rw [if_neg (by simp; omega), if_neg (by simp; omega), if_neg (by simp; omega), if_neg (by simp; omega), if_neg (by simp)]
  simp
  omega

theorem State.ssWaits_of_kind {s : State} {p : Packet} (h : (ssAddr p.state).kind ≠ 0) : s.ssWaits p = false := by simp [State.ssWaits, h]

/-- The numbers of the words behind the first. -/
theorem zipIdx_one_bounds {l : List Word} {x : Word × Nat} (hx : x ∈ l.zipIdx 1) : 1 ≤ x.2 ∧ x.2 < 1 + l.length :=
  ⟨List.le_snd_of_mem_zipIdx hx, by have := List.snd_lt_add_of_mem_zipIdx hx; omega⟩

/-- A run of words written from XLROOT, or from the register behind it. -/
theorem State.ssWrite_control {s : State} {p : Packet} {off : Nat} (hr : 8 ≤ p.count ∧ p.count ≤ 4096) (hd : (ssAddr p.state).die = 16)
    (hk : (ssAddr p.state).kind = 2) (ho : (ssAddr p.state).off = off) (hoff : off ≤ 8) :
    ∃ u : State, u.xlV = (s.ssPutDie 16 off (p.at' 2)).xlV ∧ u.xlRoot = (s.ssPutDie 16 off (p.at' 2)).xlRoot ∧
      (∀ P, (s.ssPutDie 16 off (p.at' 2)).Cached P → u.Cached P) ∧
      s.ssWrite (ssAddr p.state) p.data = if s.dieWritable 16 off = true then (0, u) else (0x11, s) := by
  obtain ⟨hmin, hmax⟩ := hr
  obtain ⟨l, hl, hlen⟩ := Packet.data_eq_cons hmin
  have hbehind : ∀ x ∈ l.zipIdx 1, 0 < off + 8 * x.2 ∧ off + 8 * x.2 < 0x10000 := fun x hm => by
    obtain ⟨hlo, hhi⟩ := zipIdx_one_bounds hm
    omega
  have hall : (p.data.zipIdx.all (fun x => s.dieWritable 16 (off + 8 * x.2))) = s.dieWritable 16 off := by
    rw [hl, List.zipIdx_cons, List.all_cons, List.all_eq_true.2 fun x hm => s.dieWritable_behind (hbehind x hm).1 (hbehind x hm).2, Bool.and_true]
    rfl
  obtain ⟨hv, hroot, hcached⟩ := State.ssPutDies_behind hbehind (s.ssPutDie 16 off (p.at' 2))
  refine ⟨_, hv, hroot, hcached, ?_⟩
  rw [State.ssWrite_rim hd hk (by rw [ho, Packet.data_length]; omega), ho, hall, hl, List.zipIdx_cons, List.foldl_cons]
  rfl

theorem exec_xlroot {s : State} {p : StreamPkt} (h : s.nextPkt (fun q => q.type == 9) = some p) (hg : p.packet.good = true) (hx : p.packet.xlTarget = 1) :
    let r := s.ssWrite (ssAddr p.packet.state) p.packet.data
    exec .xlroot s = .next (r.2.finish s.site.stream p r.1) := by
  change Host.Outcome.next (s.writebackPkt 1) = _
  rw [State.writebackPkt_good h hg hx, State.ssWaits_of_kind (by rw [(Packet.xlTarget_one hx).2.1]; decide), if_neg (by decide), if_neg (by simp)]

theorem exec_xlinv {s : State} {p : StreamPkt} (h : s.nextPkt (fun q => q.type == 9) = some p) (hg : p.packet.good = true) (hx : p.packet.xlTarget = 2) :
    let r := s.ssWrite (ssAddr p.packet.state) p.packet.data
    exec .xlinv s = .next (if r.1 = 0 ∧ r.2.usesPage (invPage (p.packet.at' 2)) = true then r.2.begin' s.site.stream p.serial
      else r.2.finish s.site.stream p r.1) := by
  change Host.Outcome.next (s.writebackPkt 2) = _
  rw [State.writebackPkt_good h hg hx, State.ssWaits_of_kind (by rw [(Packet.xlTarget_two hx).2.1]; decide), if_neg (by decide)]
  simp only [true_and]

/-- XLROOT is refused while a launch is open; else V and ROOT are set, and every cached translation is dropped. -/
theorem xlroot_goes {s : State} {p : StreamPkt} (h : s.nextPkt (fun q => q.type == 9) = some p) (hg : p.packet.good = true) (hx : p.packet.xlTarget = 1) :
    Goes .xlroot s (fun u =>
      if s.launches.isEmpty = true then Completes s.site.stream p 0 0 0 [] s u ∧ u.xlV = bit (p.packet.at' 2) 0 ∧
        u.xlRoot = BitVec.ofNat 28 (bits (p.packet.at' 2) 47 20) ∧ (∀ e ∈ u.cells, e.2.tlb = []) ∧ (∀ e ∈ u.dieTlb, e.2 = [])
      else Completes s.site.stream p 0x11 0 0 [] s u ∧ u.xlV = s.xlV ∧ u.xlRoot = s.xlRoot ∧ u.cells = s.cells) := by
  obtain ⟨hdie, hkind, hoff⟩ := Packet.xlTarget_one hx
  obtain ⟨-, -, hcount⟩ := Packet.rangeOk_of_good (by simpa using State.nextPkt_is h) hg
  obtain ⟨v, hv, hroot, hcached, hr⟩ := State.ssWrite_control (s := s) hcount hdie hkind hoff (by decide)
  have hexec := exec_xlroot h hg hx
  have hsame := s.ssWrite_sameHost (ssAddr p.packet.state) p.packet.data
  rw [s.ssPutDie_xlroot] at hv hroot hcached
  dsimp only at hexec
  by_cases hopen : s.launches.isEmpty = true
  · rw [s.dieWritable_root, if_pos hopen] at hr
    rw [hr] at hexec hsame
    have honly := v.finish_only s.site.stream p 0
    refine ⟨_, hexec, ?_⟩
    dsimp only
    rw [if_pos hopen, honly.same State.xlV, honly.same State.xlRoot, honly.same State.cells, honly.same State.dieTlb]
    obtain ⟨hcells, hdies⟩ := hcached (fun _ => False) (State.dropTlbs_cached (State.cached_true _) (by simp))
    exact ⟨hsame.finishes .., hv, hroot, fun e he => List.eq_nil_iff_forall_not_mem.2 (hcells e he), fun e he => List.eq_nil_iff_forall_not_mem.2 (hdies e he)⟩
  · rw [s.dieWritable_root, if_neg hopen] at hr
    rw [hr] at hexec
    have honly := s.finish_only s.site.stream p 0x11
    refine ⟨_, hexec, ?_⟩
    dsimp only
    rw [if_neg hopen]
    exact ⟨s.finish_completes .., honly.same State.xlV, honly.same State.xlRoot, honly.same State.cells⟩

/-- XLINV drops the translations of its page, and completes where no access uses them (log entry 95). -/
theorem xlinv_goes {s : State} {p : StreamPkt} (h : s.nextPkt (fun q => q.type == 9) = some p) (hg : p.packet.good = true) (hx : p.packet.xlTarget = 2) :
    Goes .xlinv s (fun u =>
      (if (s.ssWrite (ssAddr p.packet.state) p.packet.data).2.usesPage (invPage (p.packet.at' 2)) = true then Starts s.site.stream p s u
        else Completes s.site.stream p 0 0 0 [] s u) ∧
      (∀ e ∈ u.cells, ∀ t ∈ e.2.tlb, t.overlaps (invPage (p.packet.at' 2)) = false) ∧
      (∀ e ∈ u.dieTlb, ∀ t ∈ e.2, t.overlaps (invPage (p.packet.at' 2)) = false)) := by
  obtain ⟨hdie, hkind, hoff⟩ := Packet.xlTarget_two hx
  obtain ⟨-, -, hcount⟩ := Packet.rangeOk_of_good (by simpa using State.nextPkt_is h) hg
  obtain ⟨v, -, -, hcached, hr⟩ := State.ssWrite_control (s := s) hcount hdie hkind hoff (by decide)
  have hexec := exec_xlinv h hg hx
  have hsame := s.ssWrite_sameHost (ssAddr p.packet.state) p.packet.data
  rw [s.dieWritable_behind (by decide) (by decide), if_pos rfl] at hr
  dsimp only at hexec
  rw [hr] at hexec hsame
  rw [hr]
  have hdropped : v.Cached (fun t => t.overlaps (invPage (p.packet.at' 2)) = false) := by
    rw [s.ssPutDie_xlinv] at hcached
    exact hcached _ (State.dropTlbs_cached s.cached_true fun t _ ht => ht)
  refine ⟨_, hexec, ?_⟩
  dsimp only
  by_cases huse : v.usesPage (invPage (p.packet.at' 2)) = true
  · have honly := v.begin'_only s.site.stream p.serial
    rw [if_pos huse, if_pos ⟨rfl, huse⟩]
    exact ⟨hsame.starts .., hdropped.of_same (honly.same State.cells) (honly.same State.dieTlb)⟩
  · have honly := v.finish_only s.site.stream p 0
    rw [if_neg huse, if_neg fun hc => huse hc.2]
    exact ⟨hsame.finishes .., hdropped.of_same (honly.same State.cells) (honly.same State.dieTlb)⟩

/-- Settles O38: a lemma for each packet; a WRITEBACK waits for room only where its words lie in a scratchpad. -/
theorem stateAccessPackets : Obligations.StateAccessPackets := by
  intro s n
  refine ⟨fun p h hg => readback_goes h hg, fun p h hg => ⟨fun hx hw => ?_, fun hx hw => writeback_goes h hg hx hw, xlroot_goes h hg, xlinv_goes h hg⟩,
    fun p h => ⟨fun hg => ⟨_, exec_bboxread_bad h hg, s.finish_completes ..⟩, bboxread_goes h⟩⟩
  change Host.Outcome.next (s.writebackPkt 0) = _
  rw [State.writebackPkt_good h hg hx, if_pos hw]

/-! ### What a translation for the host leaves as it was (R165, R166) -/

/-- A state with its count of walks, and the walks of this cycle, replaced. -/
def State.withWalks (s : State) (n : Word) (l : List (Nat × Nat × TlbEntry)) : State := { s with walks := n, walkNow := l }

/-- Nothing but the walks has changed. -/
def State.WalksOnly (s u : State) : Prop := ∃ n l, u = s.withWalks n l

theorem State.WalksOnly.refl (s : State) : s.WalksOnly s := ⟨s.walks, s.walkNow, rfl⟩

theorem State.WalksOnly.trans {s u v : State} (h : s.WalksOnly u) (h' : u.WalksOnly v) : s.WalksOnly v := by
  obtain ⟨n, l, rfl⟩ := h
  obtain ⟨n', l', rfl⟩ := h'
  exact ⟨n', l', rfl⟩

/-- What no walk takes part in is the same. -/
theorem State.WalksOnly.same {α : Type} {s u : State} (h : s.WalksOnly u) (f : State → α) (hf : ∀ n l, f (s.withWalks n l) = f s := by exact fun _ _ => rfl) :
    f u = f s := by
  obtain ⟨n, l, rfl⟩ := h
  exact hf n l

theorem State.WalksOnly.sameHost {s u : State} (h : s.WalksOnly u) : s.SameHost u := by
  obtain ⟨n, l, rfl⟩ := h
  exact .of_same

theorem State.WalksOnly.finishes {s u : State} (h : s.WalksOnly u) (n : Nat) (p : StreamPkt) (status : BitVec 8) :
    Completes n p status 0 0 [] s (u.finish n p status) ∧ (u.finish n p status).launches = s.launches :=
  ⟨h.sameHost.finishes .., ((State.finish_only ..).same State.launches).trans (h.same State.launches)⟩

theorem State.page_walks {s u : State} {k va : Nat} {e : TlbEntry} (hk : 1024 ≤ k) (h : s.page k va = .ok (e, u)) : s.WalksOnly u := by
  unfold State.page at h
  rw [if_pos hk] at h
  split at h
  · cases h
    exact .refl s
  · split at h
    · cases h
    · split at h
      · cases h
      · cases h
        exact ⟨_, _, rfl⟩

theorem State.hostXlate_walks {s u : State} {va : Word} {wr repl : Bool} {pa : Nat} (h : s.hostXlate va wr = .ok (pa, repl, u)) : s.WalksOnly u := by
  unfold State.hostXlate State.translate at h
  split at h
  · cases h
  · dsimp only at h
    split at h
    · cases h
    · split at h
      · simp only [Except.ok.injEq, Prod.mk.injEq] at h
        exact h.2.2 ▸ .refl s
      · split at h
        · cases h
        · rename_i e t hp
          split at h
          · cases h
          · simp only [Except.ok.injEq, Prod.mk.injEq] at h
            exact h.2.2 ▸ State.page_walks (Nat.le_refl _) hp

theorem State.noteWalk_walks (s : State) (k : Nat) (va : Word) : s.WalksOnly (s.noteWalk k va) := by
  unfold State.noteWalk
  split
  · exact .refl s
  · split
    · exact ⟨_, s.walkNow, rfl⟩
    · exact ⟨_, _, rfl⟩

theorem State.rangesStatus_walks (s : State) (l : List (Word × Nat)) : s.WalksOnly (s.rangesStatus l).2 := by
  unfold State.rangesStatus
  refine List.foldlRecOn (motive := fun (acc : State × Bool × Bool × Bool) => s.WalksOnly acc.1) _ _ (.refl s) fun acc hacc x _ => ?_
  obtain ⟨u, f, b, lost⟩ := acc
  dsimp only
  split
  · exact hacc.trans (u.noteWalk_walks ..)
  · exact hacc.trans (u.noteWalk_walks ..)
  · rename_i h
    exact hacc.trans (State.hostXlate_walks h)

theorem State.launchCheck_walks (s : State) (w : List Word) (n : Nat) : s.WalksOnly (s.launchCheck w n).2 := s.rangesStatus_walks (lcbRanges w)

/-- Reading a control block and checking it only counts walks. -/
theorem State.walks_of_launchCheck {s s0 t : State} {l : List (Word × Nat)} {c : BitVec 8} {w : List Word} {m : Nat} {o : Option (BitVec 8)}
    (hr : s.rangesStatus l = (c, s0)) (hcheck : s0.launchCheck w m = (o, t)) : s.WalksOnly t := by
  have h0 := s.rangesStatus_walks l
  have h1 := s0.launchCheck_walks w m
  rw [hr] at h0
  rw [hcheck] at h1
  exact h0.trans h1

/-! ### What a launch takes from its region (R46, R60) -/

theorem State.regionPath_of_regions {s u : State} (h : u.regions = s.regions) (n a : Nat) : u.regionPath n a = s.regionPath n a := by
  induction n generalizing a with
  | zero => rfl
  | succ n ih =>
    rw [State.regionPath, State.regionPath, State.region?, State.region?, h]
    split
    · rfl
    · rw [ih]

theorem State.effWord_of_regions {s u : State} (h : u.regions = s.regions) (a ovr w : Nat) : u.effWord a ovr w = s.effWord a ovr w := by
  unfold State.effWord State.effective
  rw [State.regionPath_of_regions h]

theorem State.mem_eligible {s : State} {mask k : Nat} {array : Bool} (h : k ∈ s.eligible mask array) : s.cellUp k = true ∧ mask.testBit (k / 64) = true := by
  obtain ⟨d, hd, hk⟩ := List.mem_flatMap.1 h
  obtain ⟨hk, hfit⟩ := List.mem_filter.1 hk
  obtain ⟨c, hc, rfl⟩ := List.mem_map.1 hk
  have hdie : cellKey d c / 64 = d := by
    have := List.mem_range.1 hc
    unfold cellKey
    omega
  rw [hdie]
  unfold State.cellFit at hfit
  rw [Bool.and_eq_true] at hfit
  exact ⟨hfit.1, (List.mem_filter.1 hd).2⟩

/-! ### LAUNCH (R52 to R54) -/

/-- A LAUNCH packet that starts opens its launch under the next number. -/
def State.openLaunch (s : State) (w : List Word) (n : Nat) (p : StreamPkt) : State :=
  { s.begin' n p.serial with
    launches := (s.begin' n p.serial).launches ++ [s.newLaunch w n p], launchNum := (s.begin' n p.serial).launchNum + 1,
    launchKey := (s.begin' n p.serial).launchKey + 1 }

/-- What a LAUNCH does whose control block has been read, the outcome of its checks given. -/
def State.launchRead (s : State) (p : StreamPkt) (w : List Word) (c : Option (BitVec 8) × State) : Out :=
  let n := s.site.stream
  match c with
  | (some st, t) => .next (t.finish n p st)
  | (none, t) =>
    if lcbGroups w = 0 then
      let i := bits (p.packet.at' 1) 11 0
      .next ((if bit (p.packet.at' 1) 12 then t.setSignal i (t.signalAt i + 1) else t).finish n p 0)
    else if 1024 ≤ t.launches.length then .next s
    else .next (t.openLaunch w n p)

section
variable {s : State} {p : StreamPkt} {a : Word} (h : s.nextPkt (fun q => q.type == 1) = some p) (hg : p.packet.good = true)
  (ha : p.packet.at' 0 &&& 0xFFFFFFFFFFFFF = a)
include h hg ha

/-- A LAUNCH whose ranges are still tried waits (R19). -/
theorem launch_tries_goes (htry : s.rangesTrying 1024 16 (p.tryAt.getD s.cycle) ((a, 128) :: lcbRanges (s.hostWords a 16)) = true) :
    Goes .launch s (fun u => u.launches = s.launches ∧
      (u.streamAt s.site.stream).pkts.map (fun o => o.serial) = (s.streamAt s.site.stream).pkts.map (fun o => o.serial)) := by
  have hexec : exec .launch s = execLaunch s := rfl
  unfold execLaunch at hexec
  rw [h] at hexec
  dsimp only at hexec
  rw [if_neg (by simp [hg]), ha, if_pos htry] at hexec
  refine ⟨_, hexec, rfl, ?_⟩
  rw [State.modPkt, State.streamAt_setStream_same, List.map_map]
  refine List.map_congr_left fun o _ => ?_
  simp only [Function.comp_apply]
  split <;> rfl

variable (htry : s.rangesTrying 1024 16 (p.tryAt.getD s.cycle) ((a, 128) :: lcbRanges (s.hostWords a 16)) = false)
include htry

/-- A LAUNCH whose control block cannot be read completes with the status of its range. -/
theorem exec_launch_unread {st : BitVec 8} {s0 : State} (hr : s.rangesStatus [(a, 128)] = (st, s0)) (hst : st ≠ 0) :
    exec .launch s = .next (s0.finish s.site.stream p st) := by
  change execLaunch s = _
  unfold execLaunch
  rw [h]
  dsimp only
  rw [if_neg (by simp [hg]), ha, if_neg (ne_true_of_eq_false htry), hr]
  dsimp only
  rw [if_pos hst]

theorem exec_launch_read {s0 : State} (hr : s.rangesStatus [(a, 128)] = (0, s0)) :
    exec .launch s = s.launchRead p (s0.hostWords a 16) (s0.launchCheck (s0.hostWords a 16) s.site.stream) := by
  change execLaunch s = _
  unfold execLaunch
  rw [h]
  dsimp only
  rw [if_neg (by simp [hg]), ha, if_neg (ne_true_of_eq_false htry), hr]
  dsimp only
  rw [if_neg (by decide)]
  rfl

variable {s0 t : State} {w : List Word} (hr : s.rangesStatus [(a, 128)] = (0, s0)) (hw : s0.hostWords a 16 = w)
include hr hw

/-- A LAUNCH of which a check fails completes with that check's status. -/
theorem exec_launch_refused {st : BitVec 8} (hcheck : s0.launchCheck w s.site.stream = (some st, t)) : exec .launch s = .next (t.finish s.site.stream p st) := by
  rw [exec_launch_read h hg ha htry hr, hw, hcheck, State.launchRead]

variable (hcheck : s0.launchCheck w s.site.stream = (none, t))
include hcheck

/-- A LAUNCH of no groups completes at once and counts its signal; it takes no launch number (log entry 92). -/
theorem launch_empty_goes (hn : lcbGroups w = 0) : Goes .launch s (fun u =>
    (∀ o ∈ (u.streamAt s.site.stream).pkts, o.serial ≠ p.serial) ∧ u.launches = s.launches ∧ u.launchNum = s.launchNum ∧
    (bit (p.packet.at' 1) 12 = true → u.signalAt (bits (p.packet.at' 1) 11 0) = s.signalAt (bits (p.packet.at' 1) 11 0) + 1)) := by
  have hexec := exec_launch_read h hg ha htry hr
  rw [hw, hcheck, State.launchRead, if_pos hn] at hexec
  have hwalks := State.walks_of_launchCheck hr hcheck
  refine ⟨_, hexec, fun o ho => State.serial_ne_of_mem_complete ho, ?_⟩
  rw [State.signalAt_finish, (State.finish_only ..).same State.launches, (State.finish_only ..).same State.launchNum]
  split
  · rw [State.signalAt_setSignal, State.signalAt_putSignal_same, (State.setSignal_only ..).same State.launches, (State.setSignal_only ..).same State.launchNum]
    exact ⟨hwalks.same State.launches, hwalks.same State.launchNum, fun _ => by rw [hwalks.same (fun u => u.signalAt _)]⟩
  · rename_i hsig
    exact ⟨hwalks.same State.launches, hwalks.same State.launchNum, fun hs => absurd hs hsig⟩

/-- Any other LAUNCH starts, and opens its launch. -/
theorem launch_opens_goes (hn : lcbGroups w ≠ 0) (hroom : s.launches.length < 1024) : Goes .launch s (fun u =>
    Starts s.site.stream p s u ∧ u.launchNum = s.launchNum + 1 ∧ u.launches.take s.launches.length = s.launches ∧
    ∀ l ∈ u.launches.drop s.launches.length, l.num = s.launchNum ∧ l.stream = s.site.stream ∧ l.lcb = w ∧ l.groups = bits (w.getD 1 0) 31 0 ∧
      l.region = bits (w.getD 0 0) 51 0 ∧ l.level = max (bits (s.effWord l.region 3 4) 17 16) (s.streamAt s.site.stream).level ∧
      l.seed = s.effWord l.region 4 5 ∧ l.next = 0 ∧ l.bound = [] ∧ l.status = .running ∧
      (∀ k ∈ l.elig, s.cellUp k = true ∧ (bits (s.effWord l.region 5 6) 15 0).testBit (k / 64) = true)) := by
  have hwalks := State.walks_of_launchCheck hr hcheck
  have hexec := exec_launch_read h hg ha htry hr
  rw [hw, hcheck, State.launchRead, if_neg hn, if_neg (by rw [hwalks.same State.launches]; omega)] at hexec
  have honly := t.begin'_only s.site.stream p.serial
  have hlaunches : (t.openLaunch w s.site.stream p).launches = s.launches ++ [t.newLaunch w s.site.stream p] := by
    rw [← hwalks.same State.launches, ← honly.same State.launches]
    rfl
  refine ⟨_, hexec, hwalks.sameHost.starts s.site.stream p, ?_, ?_, fun l hl => ?_⟩
  · rw [← hwalks.same State.launchNum, ← honly.same State.launchNum]
    rfl
  · rw [hlaunches]
    exact List.take_left
  · rw [hlaunches, List.drop_left, List.mem_singleton] at hl
    have heff (a ovr i : Nat) : t.effWord a ovr i = s.effWord a ovr i := State.effWord_of_regions (hwalks.same State.regions) ..
    subst hl
    refine ⟨hwalks.same State.launchNum, rfl, rfl, rfl, rfl, ?_, heff .., rfl, rfl, rfl, fun k hk => ?_⟩
    · rw [← heff, ← hwalks.same (fun u => u.streamAt s.site.stream)]
      rfl
    · rw [← heff, ← hwalks.same (fun u => u.cellUp k)]
      exact State.mem_eligible hk

end

/-! ### What a COPYH writes to the device leaves the host's side as it was -/

theorem State.writeRun_sameHost (s : State) (pa : Nat) (bs : List Byte) (h : Held) : s.SameHost (s.writeRun pa bs h).1 := by
  unfold State.writeRun
  refine List.foldlRecOn (motive := fun (acc : State × Option Nat × Bool) => s.SameHost acc.1) _ _ (.refl s) fun acc hacc x _ => ?_
  obtain ⟨u, bad, full⟩ := acc
  obtain ⟨a, b⟩ := x
  exact hacc.trans (State.writeWord_sameHost ..)

theorem State.applyReplicas_sameHost (s : State) (pa : Nat) (bs : List Byte) : s.SameHost (s.applyReplicas pa bs) := by
  unfold State.applyReplicas
  refine State.SameHost.trans .of_same (State.SameHost.foldl (fun u d => ?_) _ _)
  split
  · exact u.poke_sameHost ..
  · exact .refl u

theorem State.hostPut_sameHost {s u : State} {since : Nat} {va : Word} {bs : List Byte} {o : Owner} {st : BitVec 8} (h : s.hostPut since va bs o = some (st, u)) :
    s.SameHost u := by
  unfold State.hostPut at h
  split at h
  · simp only [Option.some.injEq, Prod.mk.injEq] at h
    exact h.2 ▸ (s.noteWalk_walks ..).sameHost
  · rename_i pa repl s1 hx
    have h1 := (State.hostXlate_walks hx).sameHost
    have h2 := h1.trans (s1.writeRun_sameHost pa bs { kind := 2, owner := o })
    generalize s1.writeRun pa bs { kind := 2, owner := o } = r at h h2
    generalize (if repl = true then 16 else homeDie pa) = dst at h
    obtain ⟨s2, bad, full⟩ := r
    split at h
    · cases h
    · split at h
      · obtain ⟨-, rfl⟩ := Prod.mk.inj (Option.some.inj h)
        exact .refl s
      · split at h
        · obtain ⟨-, rfl⟩ := Prod.mk.inj (Option.some.inj h)
          exact h1.trans (s1.applyReplicas_sameHost ..)
        · dsimp only at h
          split at h
          · cases h
          · split at h
            · obtain ⟨-, rfl⟩ := Prod.mk.inj (Option.some.inj h)
              exact h2.trans .of_same
            · obtain ⟨-, rfl⟩ := Prod.mk.inj (Option.some.inj h)
              exact h2

theorem State.copyhWrite_sameHost {s u : State} {since : Nat} {o : Owner} {va : Word} {runs : List (Nat × List Byte)} (h : s.copyhWrite since o va runs = some u) :
    s.SameHost u := by
  revert u
  unfold State.copyhWrite
  refine List.foldlRecOn (motive := fun (acc : Option State) => ∀ {u}, acc = some u → s.SameHost u) _ _ (fun h => ?_) fun acc hacc x _ u h => ?_
  · exact Option.some.inj h ▸ .refl s
  · obtain ⟨t, ht, hput⟩ := Option.bind_eq_some_iff.1 h
    obtain ⟨y, hy, rfl⟩ := Option.map_eq_some_iff.1 hput
    exact (hacc ht).trans (State.hostPut_sameHost hy)

/-- A COPYH that reads all of its bytes only counts walks. -/
theorem State.copyhRead_walks {s : State} {ps : List Piece} (h : (s.copyhRead ps).2.2 = none) : s.WalksOnly (s.copyhRead ps).1 := by
  revert h
  unfold State.copyhRead
  refine List.foldlRecOn (motive := fun (acc : State × List (Nat × List Byte) × Option (BitVec 3 × Word)) => acc.2.2 = none → s.WalksOnly acc.1) _ _
    (fun _ => .refl s) fun acc hacc p _ => ?_
  split
  · exact hacc
  · rename_i hnone
    have hacc := hacc (by simpa using hnone)
    split
    · exact fun h => nomatch h
    · rename_i pa repl s1 hx
      split
      · exact fun h => nomatch h
      · exact fun h => nomatch h
      · exact fun _ => hacc.trans (State.hostXlate_walks hx)

/-! ### COPYH (R33) -/

/-- A COPYH that starts. -/
def State.beginCopyh (s : State) (n : Nat) (p : StreamPkt) : State :=
  { s.begin' n p.serial with copyhs := (s.begin' n p.serial).copyhs ++ [{ stream := n, pkt := { p with started := true, at? := s.cycle } }] }

theorem State.copyhStart_good {s : State} {p : StreamPkt} {dir : Nat} (h : s.nextPkt (fun q => q.type == 3 && (bits (q.at' 0) 0 0 == dir)) = some p)
    (hg : p.packet.good = true) :
    s.copyhStart dir = if bits (p.packet.at' 3) 39 0 = 0 then s.complete s.site.stream p 0 (if bit (p.packet.at' 0) 1 then crcInit else 0) 0 []
      else s.beginCopyh s.site.stream p := by
  unfold State.copyhStart
  rw [h]
  dsimp only
  rw [if_neg (by simp [hg])]
  rfl

/-- A COPYH of no bytes completes at once, and any other starts. -/
theorem State.copyhStart_goes {s : State} {p : StreamPkt} {dir : Nat} (h : s.nextPkt (fun q => q.type == 3 && (bits (q.at' 0) 0 0 == dir)) = some p)
    (hg : p.packet.good = true) {i : Instr} (hi : exec i s = .next (s.copyhStart dir)) : Goes i s (fun u => if bits (p.packet.at' 3) 39 0 = 0
      then Completes s.site.stream p 0 (if bit (p.packet.at' 0) 1 = true then 0xFFFFFFFFFFFFFFFF else 0) 0 [] s u ∧ u.copyhs = s.copyhs
      else Starts s.site.stream p s u ∧ u.copyhs = s.copyhs ++ [{ stream := s.site.stream, pkt := { p with started := true, at? := s.cycle } }]) := by
  refine ⟨_, hi, ?_⟩
  dsimp only
  rw [State.copyhStart_good h hg]
  split
  · exact ⟨s.complete_completes .., (s.complete_only ..).same State.copyhs⟩
  · exact ⟨State.begin'_starts rfl rfl .., rfl⟩

/-- A COPYH leaves the ones in progress. -/
def State.dropCopyh (s : State) : State := { s with copyhs := s.copyhs.eraseIdx s.site.n }

/-- A COPYH leaves the ones in progress and completes. -/
def State.endCopyh (s : State) (c : Copyh) (st : BitVec 8) (crc extra : Word) : State := s.dropCopyh.complete c.stream c.pkt st crc extra []

theorem State.endCopyh_over {s u : State} (hsite : u.site = s.site) (hcycle : u.cycle = s.cycle) (hstreams : u.streams = s.streams) (hcopyhs : u.copyhs = s.copyhs)
    (c : Copyh) (st : BitVec 8) (crc extra : Word) :
    (u.endCopyh c st crc extra).copyhs = s.copyhs.eraseIdx s.site.n ∧ Completes c.stream c.pkt st crc extra [] s (u.endCopyh c st crc extra) := by
  refine ⟨?_, completes_of_streams (u := u.dropCopyh) hstreams hcycle ..⟩
  rw [← hcopyhs, ← hsite]
  exact (u.dropCopyh.complete_only ..).same State.copyhs

theorem State.endCopyh_mem (s : State) (c : Copyh) (st : BitVec 8) (crc extra : Word) : (s.endCopyh c st crc extra).mem = s.mem :=
  (s.dropCopyh.complete_only ..).same State.mem

theorem State.endCopyh_hostOut (s : State) (c : Copyh) (st : BitVec 8) (crc extra : Word) : (s.endCopyh c st crc extra).hostOut = s.hostOut :=
  (s.dropCopyh.complete_only ..).same State.hostOut

/-- A COPYH that has moved all of its bytes ends, or waits for those that are held on locked words (R180). -/
def State.copyhMoved (s : State) (c : Copyh) (crc : Word) : State :=
  if s.outstanding (.host c.pkt.serial) then { s with copyhs := setAt s.copyhs s.site.n { c with result := some (0, 0, crc) } } else s.endCopyh c 0 crc 0

theorem State.copyhMoved_ends {s u : State} (hsite : u.site = s.site) (hcycle : u.cycle = s.cycle) (hstreams : u.streams = s.streams) (hcopyhs : u.copyhs = s.copyhs)
    (c : Copyh) (crc : Word) : let v := u.copyhMoved c crc
    v.mem = u.mem ∧ v.hostOut = u.hostOut ∧
    (u.outstanding (.host c.pkt.serial) = false → v.copyhs = s.copyhs.eraseIdx s.site.n ∧ Completes c.stream c.pkt 0 crc 0 [] s v) ∧
    (u.outstanding (.host c.pkt.serial) = true → v.copyhs = setAt s.copyhs s.site.n { c with result := some (0, 0, crc) } ∧ v.streams = s.streams) := by
  unfold State.copyhMoved
  dsimp only
  cases u.outstanding (.host c.pkt.serial) with
  | true => exact ⟨rfl, rfl, nofun, fun _ => ⟨by rw [← hcopyhs, ← hsite]; rfl, hstreams⟩⟩
  | false => exact ⟨u.endCopyh_mem .., u.endCopyh_hostOut .., fun _ => State.endCopyh_over hsite hcycle hstreams hcopyhs .., nofun⟩

/-- The CRC that a COPYH reports of the bytes that it has moved. -/
def copyhCrc (p : Packet) (bs : List Byte) : Word := if bit (p.at' 0) 1 = true then crc64 crcInit bs else 0

/-- A state with more sent to host memory. -/
def State.sendHost (s : State) (l : List (Word × List Byte)) : State := { s with hostOut := s.hostOut ++ l }

/-- The failures of an access that come with an address, as a record and as a transfer number them. -/
theorem status_with_address (st : BitVec 3) (x : Word) :
    (if st.zeroExtend 8 = (1 : BitVec 8) || st.zeroExtend 8 = (2 : BitVec 8) then x else 0) = if st = 1 ∨ st = 2 then x else 0 := by
  have h : (st.zeroExtend 8 = (1 : BitVec 8) || st.zeroExtend 8 = (2 : BitVec 8)) = decide (st = 1 ∨ st = 2) := by
    revert st
    decide
  rw [h]
  simp only [decide_eq_true_eq]

@[simp] theorem State.copyhPieces_zero (s : State) (p : Packet) : s.copyhPieces p 0 = [] := by
  simp [State.copyhPieces, piecesOf, cutPieces]

@[simp] theorem State.copyhFails_nil (s : State) (va : Word) (n : Nat) : s.copyhFails va n [] = none := rfl

@[simp] theorem State.copyhRead_nil (s : State) : s.copyhRead [] = (s, [], none) := rfl

@[simp] theorem State.copyhWrite_nil (s : State) (since : Nat) (o : Owner) (va : Word) : s.copyhWrite since o va [(0, [])] = some s := by
  simp [State.copyhWrite, runsOf, pageRuns]

section
variable {s : State} {c : Copyh} (hc : s.copyhs[s.site.n]? = some c)
include hc

/-- A COPYH that has moved its bytes waits for those held on locked words (R180). -/
theorem exec_copyhComplete_waits {r : BitVec 3 × Word × Word} (hr : c.result = some r) (hout : s.outstanding (.host c.pkt.serial) = true) :
    exec .copyhComplete s = .next s := by
  change execCopyhComplete s = _
  unfold execCopyhComplete
  rw [hc]
  simp only [hr, hout, if_true]

theorem exec_copyhComplete_over {st : BitVec 3} {at' crc : Word} (hr : c.result = some (st, at', crc)) (hs : c.stopped = false)
    (hout : s.outstanding (.host c.pkt.serial) = false) :
    exec .copyhComplete s = .next (s.endCopyh c (st.zeroExtend 8) crc (if st = 1 ∨ st = 2 then at' else 0)) := by
  change execCopyhComplete s = _
  unfold execCopyhComplete
  rw [hc]
  simp only [hr, if_neg (ne_true_of_eq_false hs), if_neg (ne_true_of_eq_false hout)]
  exact congrArg (fun x => Host.Outcome.next (s.endCopyh c (st.zeroExtend 8) crc x)) (status_with_address ..)

variable (hr : c.result = none)
include hr

section
variable (hs : c.stopped = false) {p : Packet} (hp : c.pkt.packet = p) {n : Nat} (hn : bits (p.at' 3) 39 0 = n) {ps : List Piece} (hps : s.copyhPieces p n = ps)
  (htry : ps.any (fun x => s.tryingAt 1024 16 x.src (bits (p.at' 0) 0 0 = 0) c.pkt.at?) = false)
include hs hp hn hps htry

theorem exec_copyhComplete_hostToDevice (hdir : bits (p.at' 0) 0 0 = 0) (hlen : p.host.length = n)
    (hfails : s.copyhFails (p.at' 2 &&& 0xFFFFFFFFFFFFF) n ps = none) {s1 : State}
    (hw : s.copyhWrite c.pkt.at? (.host c.pkt.serial) (p.at' 2 &&& 0xFFFFFFFFFFFFF) [(0, p.host)] = some s1) :
    exec .copyhComplete s = .next (s1.copyhMoved c (copyhCrc p p.host)) := by
  have hdata : p.host.take n ++ List.replicate (n - p.host.length) 0 = p.host := by simp [hlen]
  change execCopyhComplete s = _
  unfold execCopyhComplete
  rw [hc]
  simp only [hr, if_neg (ne_true_of_eq_false hs), hp, hn, hps]
  rw [if_neg (ne_true_of_eq_false htry), if_pos hdir, hfails, hdata, hw]
  rfl

theorem exec_copyhComplete_deviceToHost (hdir : bits (p.at' 0) 0 0 = 1) {s1 : State} {l : List (Nat × List Byte)} (hread : s.copyhRead ps = (s1, l, none)) :
    exec .copyhComplete s = .next ((s1.sendHost (l.map (fun x => (p.at' 1 + BitVec.ofNat 64 x.1, x.2)))).copyhMoved c (copyhCrc p (l.flatMap (fun x => x.2)))) := by
  change execCopyhComplete s = _
  unfold execCopyhComplete
  rw [hc]
  simp only [hr, if_neg (ne_true_of_eq_false hs), hp, hn, hps]
  rw [if_neg (ne_true_of_eq_false htry), if_neg (by rw [hdir]; decide), hread]
  rfl

end

theorem exec_copyhComplete_stopped (hs : c.stopped = true) (hword : s.site.word = 0) (hout : s.outstanding (.host c.pkt.serial) = false) :
    exec .copyhComplete s = .next (s.endCopyh c 7 (copyhCrc c.pkt.packet []) 0) := by
  change execCopyhComplete s = _
  unfold execCopyhComplete
  rw [hc]
  dsimp only
  have hn : min (miB * s.site.word.toNat) (bits (c.pkt.packet.at' 3) 39 0 / miB * miB) = 0 := by rw [hword]; exact Nat.zero_min _
  simp only [hr, if_pos hs, hn, State.copyhPieces_zero, List.any_nil, State.copyhFails_nil, List.take_zero, Nat.zero_sub, List.replicate_zero, List.append_nil,
    State.copyhWrite_nil, State.copyhRead_nil, List.map_nil, hout, Bool.false_eq_true, if_false]
  split
  · rfl
  · rfl

end

/-- Settles O39: LAUNCH takes the outcome of its checks from a state that differs in its walks alone, and a COPYH moves its bytes by steps that leave the
host's side as it was, and then completes. -/
theorem launchAndCopyPackets : Obligations.LaunchAndCopyPackets := by
  intro s n
  refine ⟨fun p h hg => ?_, fun e he p h hg => ?_, fun c hc => ?_⟩
  · intro a r w tries
    have hread (hr : r.1 = 0) : s.rangesStatus [(a, 128)] = (0, r.2) := Prod.ext hr rfl
    have hcheck {o : Option (BitVec 8)} (ho : (r.2.launchCheck w n).1 = o) : r.2.launchCheck w n = (o, (r.2.launchCheck w n).2) := Prod.ext ho rfl
    refine ⟨launch_tries_goes h hg rfl, fun htry hst => ?_, fun htry hr st hst => ?_, fun htry hr ho hn => ?_, fun htry hr ho hn => ?_⟩
    · exact ⟨_, exec_launch_unread (s0 := r.2) h hg rfl htry (Prod.ext rfl rfl) hst, State.WalksOnly.finishes (s.rangesStatus_walks _) ..⟩
    · exact ⟨_, exec_launch_refused h hg rfl htry (hread hr) rfl (hcheck hst), State.WalksOnly.finishes (State.walks_of_launchCheck (hread hr) (hcheck hst)) ..⟩
    · exact launch_empty_goes h hg rfl htry (hread hr) rfl (hcheck ho) hn
    · exact launch_opens_goes h hg rfl htry (hread hr) rfl (hcheck ho) hn
  · simp only [List.mem_cons, List.not_mem_nil, or_false] at he
    rcases he with rfl | rfl
    · exact State.copyhStart_goes h hg rfl
    · exact State.copyhStart_goes h hg rfl
  · intro p count sum ps o overWith
    refine ⟨fun hr htry => ⟨fun hs hdir hn hfails s1 hw => ?_, fun hs hdir hout hread => ?_⟩, fun hr hs hword hout => ?_, fun st at' crc hr => ⟨fun hout => ?_, fun hout hs => ?_⟩⟩
    · have hsame := State.copyhWrite_sameHost hw
      obtain ⟨hmem, hhost, hover, hwaits⟩ := State.copyhMoved_ends hsame.site hsame.cycle hsame.streams hsame.copyhs c (sum p.host)
      exact ⟨_, exec_copyhComplete_hostToDevice hc hr hs rfl rfl rfl htry hdir hn hfails hw, hmem, hhost.trans hsame.hostOut, hover, hwaits⟩
    · have hwalks := State.copyhRead_walks hread
      generalize hps : s.copyhRead ps = r at hread hwalks ⊢
      obtain ⟨s1, l, fault⟩ := r
      obtain rfl : fault = none := hread
      have hsame : s.SameHost s1 := hwalks.sameHost
      obtain ⟨hmem, hhost, hover, -⟩ := State.copyhMoved_ends (u := s1.sendHost (l.map (fun x => (p.at' 1 + BitVec.ofNat 64 x.1, x.2)))) hsame.site hsame.cycle
        hsame.streams hsame.copyhs c (sum (l.flatMap (fun x => x.2)))
      exact ⟨_, exec_copyhComplete_deviceToHost hc hr hs rfl rfl rfl htry hdir hps, hmem.trans (hwalks.same State.mem),
        hhost.trans (congrArg (· ++ _) hsame.hostOut), hover ((hwalks.same (fun u => u.outstanding o)).trans hout)⟩
    · exact ⟨_, exec_copyhComplete_stopped hc hr hs hword hout, State.endCopyh_mem .., State.endCopyh_hostOut .., State.endCopyh_over rfl rfl rfl rfl ..⟩
    · exact exec_copyhComplete_waits hc hr hout
    · exact ⟨_, exec_copyhComplete_over hc hr hs hout, State.endCopyh_mem .., State.endCopyh_over rfl rfl rfl rfl ..⟩

end Sys2Proof.Machine

namespace Sys2Proof.Machine

-- One proof after another: the stacks of parallel elaboration would not fit the memory of the check.
set_option Elab.async false

/-! ### An instruction whose body does not retire (R246, R255) -/

/-- An instruction that is ready, whose decode checks pass and whose body halts leaves what the halt makes of the state. -/
theorem issue_halts {g : Gate} {body : M Flow} {s : State} {e : Halt} {own : Nat} (h : Ready s g.t g.cover g.who own) (hc : g.checks s = .ok ((), s))
    (hb : body s = .error e) : issue g body s = runM (fun _ => .error e) s := by
  have hp : ¬ ((s.curSeq.pb.rem != 0 && !g.cover) = true) := by
    rcases h.block with e | ⟨e, -⟩ <;> simp [e]
  have hq : ¬ ((s.curSeq.pb.rem != 0 && !s.curSeq.pb.executes && g.skips) = true) := by
    rcases h.block with e | ⟨-, e⟩ <;> simp [e]
  have hw : ¬ ((!g.who.contains s.site.seq) = true) := by rw [h.who]; decide
  simp only [issue, h.issues, if_true, runM, issueM, M.bind_run, M.get_run, M.ite_run, if_neg hp, if_neg hq, if_neg hw, hc, eachM_needToken h.waits, hb]

/-! ### `remq` and `remqt` (R81, R83, R322) -/

/-- The state after a block for a group has entered a check slot of the sequencer whose turn it is (R107). -/
def State.blockSlotted (s : State) (key g : Nat) (ws : List Word) : State :=
  s.modSeq (fun x => { x with slots := x.slots ++ [⟨.block key g ws, .block key g ws, s.cycle, []⟩] })

@[simp] theorem State.blockSlotted_site (s : State) (key g : Nat) (ws : List Word) : (s.blockSlotted key g ws).site = s.site := rfl

@[simp] theorem State.blockSlotted_tokVal (s : State) (key g : Nat) (ws : List Word) (k : Nat) : (s.blockSlotted key g ws).cur.tokVal k = s.cur.tokVal k :=
  State.tokVal_modSeq ..

@[simp] theorem State.blockSlotted_tokRsv (s : State) (key g : Nat) (ws : List Word) (k : Nat) : (s.blockSlotted key g ws).cur.tokRsv k = s.cur.tokRsv k :=
  State.tokRsv_modSeq ..

theorem State.blockSlotted_slots (s : State) (key g : Nat) (ws : List Word) :
    (s.blockSlotted key g ws).curSeq.slots.length = s.curSeq.slots.length + 1 := by simp [State.blockSlotted]

/-- A block is no push of a queue. -/
theorem State.blockSlotted_pushes (s : State) (key g : Nat) (ws : List Word) (n : Nat) :
    (s.blockSlotted key g ws).cur.pushesInSlots n = s.cur.pushesInSlots n := by
  rw [State.blockSlotted, State.cur_modSeq]
  unfold Cell.pushesInSlots
  by_cases hq : (queueEnds n).1 = s.site.seq
  · rw [hq, Cell.seq_modSeq_same]; simp
  · rw [Cell.seq_modSeq_other _ _ hq]

theorem State.writable_blockSlotted {s : State} {d : BitVec 5} (key g : Nat) (ws : List Word) (h : s.writable d = true) :
    (s.blockSlotted key g ws).writable d = true := by
  have hqueue (n : Nat) : (s.blockSlotted key g ws).cur.queue n = s.cur.queue n := by
    rw [State.blockSlotted, State.cur_modSeq, Cell.queue, Cell.modSeq_queues]; rfl
  unfold State.writable at *
  cases hp : portOf d with
  | none => rfl
  | some n =>
    simp only [hp, Bool.and_eq_true, decide_eq_true_eq] at h ⊢
    rw [hqueue, State.blockSlotted_pushes]
    exact h

theorem slotItem_block {s : State} (key g : Nat) (ws : List Word) (h : s.curSeq.slots.length < 32) :
    slotItem (.block key g ws) s = .ok ((), s.blockSlotted key g ws) := by
  simp only [slotItem, M.bind_run, M.get_run, M.ite_run, if_neg (show ¬ 32 ≤ s.curSeq.slots.length by omega), M.modSq_run]
  rfl

@[simp] theorem State.afterRead_hereBound (s : State) (r : BitVec 5) : (s.afterRead r).hereBound = s.hereBound := by
  rcases s.afterRead_eq r with h | ⟨n, h⟩ <;> rw [h]
  obtain ⟨a, b, d, e, hq⟩ := s.cur.setQueue_eq n (s.cur.queue n).tail
  rw [State.hereBound, State.cur_modCell, hq]; rfl

section
variable {t : BitVec 4} {d a b : BitVec 5} {s : State} {full : Word → M Unit} {ws : List Word}

/-- A push whose block can be read goes on with how its target stands. -/
theorem pushBlock_read (ha : s.readable a = true) (hb : (s.afterRead a).readable b = true)
    (hr : readPushBlock ((s.afterRead a).source b) ((s.afterRead a).afterRead b) = .ok (ws, (s.afterRead a).afterRead b)) :
    pushBlock d a b full s = (match ((s.afterRead a).afterRead b).pushTarget (s.source a) with
      | .gone => writeReg d 7
      | .wait => full (s.source a)
      | .cell _ => if ((s.afterRead a).afterRead b).storesDone ((s.afterRead a).afterRead b).here ((s.afterRead a).afterRead b).site.seq = true then (do
          slotItem (.block s.hereBound.launch (s.source a).toNat ws)
          writeReg d 0) else stallNow) ((s.afterRead a).afterRead b) := by
  simp only [pushBlock, M.bind_run, M.get_run, readReg_ok ha, readReg_ok hb, hr, State.afterRead_hereBound]
  cases ((s.afterRead a).afterRead b).pushTarget (s.source a) with
  | gone => rfl
  | wait => rfl
  | cell k =>
    cases ((s.afterRead a).afterRead b).storesDone ((s.afterRead a).afterRead b).here ((s.afterRead a).afterRead b).site.seq <;> rfl

/-- Either form of the push is an instruction of K whose body pushes, and does something of its own where it would wait. -/
def pushForm (t : BitVec 4) (d a b : BitVec 5) (full : Word → M Unit) : State → Out :=
  issue { t := t, who := [.K], checks := checkDAB d a b } (do
    pushBlock d a b full
    pure .seq)

/-- A push that writes a result of its own retires. -/
theorem pushForm_completes {u : State} {own : Nat} (h : Ready s t true [.K] own) (ha : s.readable a = true) (hb : (s.afterRead a).readable b = true)
    (hd : s.writable d = true) {v : Word} (hbody : pushBlock d a b full s = .ok ((), u.afterWrite d v)) (hsite : u.site = s.site)
    (hval : ∀ k, u.cur.tokVal k = s.cur.tokVal k) (hrsv : ∀ k, u.cur.tokRsv k = s.cur.tokRsv k)
    (hslots : u.curSeq.slots.length + pushes d ≤ s.curSeq.slots.length + own) :
    pushForm t d a b full s = .next ((u.afterWrite d v).completed t .seq) :=
  issue_completes (own := own) h rfl (checkDAB_ok ha hb hd) (by simp only [M.bind_run, hbody, M.pure_run]) (by simp [hsite]) (by simp [hval]) (by simp [hrsv])
    (by rw [State.afterWrite_slots]; exact hslots)

/-- A push whose body halts. -/
theorem pushForm_halts {e : Halt} {own : Nat} (h : Ready s t true [.K] own) (ha : s.readable a = true) (hb : (s.afterRead a).readable b = true)
    (hd : s.writable d = true) (hbody : pushBlock d a b full s = .error e) : pushForm t d a b full s = runM (fun _ => .error e) s :=
  issue_halts h (checkDAB_ok ha hb hd) (by simp only [M.bind_run, hbody])

/-- A push whose block raises a trap. -/
theorem pushForm_traps {c : BitVec 8} {v : Word} {own : Nat} (h : Ready s t true [.K] own) (ha : s.readable a = true) (hb : (s.afterRead a).readable b = true)
    (hd : s.writable d = true) (hr : readPushBlock ((s.afterRead a).source b) ((s.afterRead a).afterRead b) = .error (.trap c v)) :
    pushForm t d a b full s = .next (s.precise c v) :=
  pushForm_halts h ha hb hd (e := .trap c v) (by simp only [pushBlock, M.bind_run, readReg_ok ha, readReg_ok hb, hr])

/-- What a push does where it writes a number and leaves no block: its group is gone, or `remqt` would wait. -/
theorem pushForm_answers {v : Word} (h : Ready s t true [.K] (pushes d)) (ha : s.readable a = true) (hb : (s.afterRead a).readable b = true)
    (hd : s.writable d = true) (hbody : pushBlock d a b full s = writeReg d v ((s.afterRead a).afterRead b)) :
    pushForm t d a b full s = .next ((((s.afterRead a).afterRead b).afterWrite d v).completed t .seq) := by
  have hl : ((s.afterRead a).afterRead b).curSeq.slots.length + pushes d ≤ 32 := by have := h.slots; simp only [State.afterRead_curSeq]; omega
  exact pushForm_completes h ha hb hd (hbody.trans (writeReg_ok (State.writable_afterRead b (State.writable_afterRead a hd)) hl)) (by simp) (by simp) (by simp)
    (by simp)

variable (ha : s.readable a = true) (hb : (s.afterRead a).readable b = true) (hd : s.writable d = true)
  (hr : readPushBlock ((s.afterRead a).source b) ((s.afterRead a).afterRead b) = .ok (ws, (s.afterRead a).afterRead b))
include ha hb hd hr

theorem pushForm_gone (h : Ready s t true [.K] (pushes d)) (hp : ((s.afterRead a).afterRead b).pushTarget (s.source a) = .gone) :
    pushForm t d a b full s = .next ((((s.afterRead a).afterRead b).afterWrite d 7).completed t .seq) :=
  pushForm_answers h ha hb hd (by rw [pushBlock_read ha hb hr, hp])

/-- A push whose sender has stores that are not performed is tried again. -/
theorem pushForm_stalls {k own : Nat} (h : Ready s t true [.K] own) (hp : ((s.afterRead a).afterRead b).pushTarget (s.source a) = .cell k)
    (hs : ((s.afterRead a).afterRead b).storesDone ((s.afterRead a).afterRead b).here ((s.afterRead a).afterRead b).site.seq = false) :
    pushForm t d a b full s = .next s :=
  pushForm_halts h ha hb hd (e := .stall) (by rw [pushBlock_read ha hb hr, hp]; simp only [hs, Bool.false_eq_true, if_false, M.stallNow_run])

/-- A push enters a check slot, and its result is 0. -/
theorem pushForm_pushes {k : Nat} (hp : ((s.afterRead a).afterRead b).pushTarget (s.source a) = .cell k)
    (hs : ((s.afterRead a).afterRead b).storesDone ((s.afterRead a).afterRead b).here ((s.afterRead a).afterRead b).site.seq = true)
    (h1 : Ready s t true [.K] (pushes d + 1)) :
    pushForm t d a b full s =
      .next (((((s.afterRead a).afterRead b).blockSlotted s.hereBound.launch (s.source a).toNat ws).afterWrite d 0).completed t .seq) := by
  have hroom := h1.slots
  have hl : ((s.afterRead a).afterRead b).curSeq.slots.length = s.curSeq.slots.length := by simp
  refine pushForm_completes h1 ha hb hd ?_ (by simp) (by simp) (by simp) (by rw [State.blockSlotted_slots, hl]; omega)
  rw [pushBlock_read ha hb hr, hp]
  simp only [hs, if_true, M.bind_run]
  rw [slotItem_block _ _ _ (by omega)]
  exact writeReg_ok (State.writable_blockSlotted _ _ _ (State.writable_afterRead b (State.writable_afterRead a hd))) (by rw [State.blockSlotted_slots]; omega)

end

/-- Settles O31: both forms are one push, which differ in what they do where it would wait. -/
theorem remoteQueuePush : Obligations.RemoteQueuePush := by
  intro t d a b s h ha hb hd
  have hremq : exec (.remq t d a b) s = pushForm t d a b (fun g => waitFor 8 (g.toNat % 2 ^ 16)) s := rfl
  have hremqt : exec (.remqt t d a b) s = pushForm t d a b (fun _ => writeReg d allOnes) s := rfl
  simp only [hremq, hremqt]
  refine ⟨fun c v hr => ⟨pushForm_traps h ha hb hd hr, pushForm_traps h ha hb hd hr⟩, fun ws hr => ⟨fun hp => ?_, fun hp => ⟨?_, ?_⟩, fun k hp => ⟨fun hs => ?_, fun hs h1 => ?_⟩⟩⟩
  · exact ⟨pushForm_gone ha hb hd hr h hp, pushForm_gone ha hb hd hr h hp⟩
  · exact pushForm_halts h ha hb hd (e := .block 8 ((s.source a).toNat % 2 ^ 16)) (by rw [pushBlock_read ha hb hr, hp]; rfl)
  · exact pushForm_answers h ha hb hd (by rw [pushBlock_read ha hb hr, hp]; rfl)
  · exact ⟨pushForm_stalls ha hb hd hr h hp hs, pushForm_stalls ha hb hd hr h hp hs⟩
  · have hcycle : ((s.afterRead a).afterRead b).cycle = s.cycle := by simp
    rw [← hcycle]
    exact ⟨pushForm_pushes ha hb hd hr hp hs h1, pushForm_pushes ha hb hd hr hp hs h1⟩

end Sys2Proof.Machine

namespace Sys2Proof.Machine

set_option Elab.async false

/-! ### What an access to memory leaves as it was (R122, R165, R185, R425) -/

/-- A state with what an access to memory may change taken from another: memory, cells, the number of replicated updates, black boxes, cached translations and
walks. -/
def State.withAccess (s u : State) : State :=
  { s with mem := u.mem, badWords := u.badWords, cells := u.cells, replNum := u.replNum, boxes := u.boxes, walks := u.walks,
             dieTlb := u.dieTlb, walkNow := u.walkNow }

/-- Nothing has changed but memory, commit buffers, the number of replicated updates, black boxes, cached translations and walks. -/
structure State.AccessOnly (s u : State) : Prop where
  eq : u = s.withAccess u
  cells : ∀ k, ∃ b t, u.cellAt k = { s.cellAt k with cbuf := b, tlb := t }

theorem State.AccessOnly.refl (s : State) : s.AccessOnly s := ⟨rfl, fun k => ⟨(s.cellAt k).cbuf, (s.cellAt k).tlb, rfl⟩⟩

theorem State.AccessOnly.trans {s u v : State} (h : s.AccessOnly u) (h' : u.AccessOnly v) : s.AccessOnly v where
  eq := by rw [h'.eq, h.eq]; rfl
  cells k := by
    obtain ⟨b, t, ht⟩ := h.cells k
    obtain ⟨b', t', ht'⟩ := h'.cells k
    exact ⟨b', t', by rw [ht', ht]⟩

theorem State.AccessOnly.foldl {α : Type} {f : State → α → State} (h : ∀ (s : State) x, s.AccessOnly (f s x)) (l : List α) (s : State) :
    s.AccessOnly (l.foldl f s) := List.foldlRecOn l f (.refl s) fun u hu x _ => hu.trans (h u x)

/-- An access that touches no cell. -/
theorem State.AccessOnly.of_eq {s u : State} (eq : u = s.withAccess u := by rfl) (cells : u.cells = s.cells := by rfl) : s.AccessOnly u where
  eq := eq
  cells k := ⟨(s.cellAt k).cbuf, (s.cellAt k).tlb, by simp [State.cellAt, cells]⟩

/-- What no access takes part in is the same. -/
theorem State.AccessOnly.same {α : Type} {s u : State} (h : s.AccessOnly u) (f : State → α) (hf : ∀ x, f (s.withAccess x) = f s := by exact fun _ => rfl) :
    f u = f s := by rw [h.eq]; exact hf u

theorem State.WalksOnly.accessOnly {s u : State} (h : s.WalksOnly u) : s.AccessOnly u := by
  obtain ⟨n, l, rfl⟩ := h
  exact .of_eq

theorem State.bbox_accessOnly (s : State) (d : Nat) (e : BbEvent) : s.AccessOnly (s.bbox d e) := .of_eq

theorem State.poke_accessOnly (s : State) (pa : Nat) (bs : List Byte) : s.AccessOnly (s.poke pa bs) := by
  unfold State.poke
  split
  · exact .of_eq
  · exact .of_eq

/-- A cell whose commit buffer or cached translations change. -/
theorem State.AccessOnly.of_cell (s : State) (k : Nat) (b : List (Nat × Held)) (t : List TlbEntry) :
    s.AccessOnly (s.setCell k { s.cellAt k with cbuf := b, tlb := t }) where
  eq := rfl
  cells j := by
    by_cases hj : j = k
    · subst hj
      exact ⟨b, t, State.cellAt_setCell_same ..⟩
    · exact ⟨(s.cellAt j).cbuf, (s.cellAt j).tlb, State.cellAt_setCell_other _ _ hj⟩

theorem State.writeWord_accessOnly (s : State) (pa : Nat) (bs : List Byte) (h : Held) : s.AccessOnly (s.writeWord pa bs h).1 := by
  unfold State.writeWord
  split
  · dsimp only
    split
    · exact .refl s
    · exact .of_cell s ..
  · exact s.poke_accessOnly ..

theorem State.writeRun_accessOnly (s : State) (pa : Nat) (bs : List Byte) (h : Held) : s.AccessOnly (s.writeRun pa bs h).1 := by
  unfold State.writeRun
  refine List.foldlRecOn (motive := fun (acc : State × Option Nat × Bool) => s.AccessOnly acc.1) _ _ (.refl s) fun acc hacc x _ => ?_
  obtain ⟨u, bad, full⟩ := acc
  obtain ⟨a, b⟩ := x
  exact hacc.trans (State.writeWord_accessOnly ..)

theorem State.applyReplicas_accessOnly (s : State) (pa : Nat) (bs : List Byte) : s.AccessOnly (s.applyReplicas pa bs) := by
  unfold State.applyReplicas
  refine State.AccessOnly.trans .of_eq (State.AccessOnly.foldl (fun u d => ?_) _ _)
  split
  · exact u.poke_accessOnly ..
  · exact .refl u

theorem State.hostPut_accessOnly {s u : State} {since : Nat} {va : Word} {bs : List Byte} {o : Owner} {st : BitVec 8}
    (h : s.hostPut since va bs o = some (st, u)) : s.AccessOnly u := by
  have put {st' : BitVec 8} {v : State} (h : some (st', v) = some (st, u)) (hv : s.AccessOnly v) : s.AccessOnly u := (Prod.mk.inj (Option.some.inj h)).2 ▸ hv
  unfold State.hostPut at h
  split at h
  · exact put h (s.noteWalk_walks ..).accessOnly
  · rename_i pa repl s1 hx
    have h1 := (State.hostXlate_walks hx).accessOnly
    have h2 := h1.trans (s1.writeRun_accessOnly pa bs { kind := 2, owner := o })
    generalize s1.writeRun pa bs { kind := 2, owner := o } = r at h h2
    generalize (if repl = true then 16 else homeDie pa) = dst at h
    obtain ⟨s2, bad, full⟩ := r
    split at h
    · cases h
    · split at h
      · exact put h (.refl s)
      · split at h
        · exact put h (h1.trans (s1.applyReplicas_accessOnly ..))
        · dsimp only at h
          split at h
          · cases h
          · split at h
            · exact put h (h2.trans (State.bbox_accessOnly ..))
            · exact put h h2

/-! ### Regions by their address (R44) -/

theorem find?_modFirst {α : Type} {p : α → Bool} {f : α → α} {x : α} {l : List α} (h : l.find? p = some x) (hf : p (f x) = true) :
    (modFirst p f l).find? p = some (f x) := by
  induction l with
  | nil => cases h
  | cons a l ih =>
    by_cases ha : p a = true
    · obtain rfl : a = x := by simpa [ha] using h
      simp [modFirst, ha, hf]
    · simpa [modFirst, ha] using ih (by simpa [ha] using h)

/-- A region that is modified keeps its address. -/
theorem State.region?_modRegion {s : State} {a : Nat} {r : Region} (h : s.region? a = some r) (w : List Word) :
    (s.modRegion a (fun r => { r with rcb := w })).region? a = some { r with rcb := w } :=
  find?_modFirst h (List.find?_some h :)

theorem find?_filter_ne {l : List Region} {a : Nat} : (l.filter (fun r => r.addr != a)).find? (fun r => r.addr == a) = none := by
  simp [List.find?_eq_none]

/-! ### REGION (R44, R47, R49) -/

section
variable {s : State} {p : StreamPkt} {act : Packet → Nat → State → Option (BitVec 8 × State)} {i : Instr}

/-- A well-formed REGION packet whose operation has been performed completes. -/
theorem State.regionPkt_good {op : Nat} {st : BitVec 8} {s1 : State} (h : s.nextPkt (fun q => q.type == 2) = some p) (hg : p.packet.good = true)
    (hop : p.packet.regionOp = op) (hact : act p.packet (if p.started then p.at? else s.cycle) s = some (st, s1)) :
    s.regionPkt op act = s1.finish s.site.stream p st := by
  have htype := State.nextPkt_is h
  unfold State.regionPkt
  rw [State.nextPkt_of h (by simp [hop, htype])]
  simp only [hg, Bool.not_true, Bool.false_eq_true, if_false, hact]

variable {op : Nat} (hi : exec i s = .next (s.regionPkt op act)) (h : s.nextPkt (fun q => q.type == 2) = some p) (hg : p.packet.good = true)
  (hop : p.packet.regionOp = op)
include hi h hg hop

/-- The completion leaves the regions and the memory that the operation has made. -/
theorem region_goes {st : BitVec 8} {s1 : State} (hact : act p.packet (if p.started then p.at? else s.cycle) s = some (st, s1)) (hsame : s.SameHost s1)
    {P : State → Prop} (hP : ∀ u, u.regions = s1.regions → u.mem = s1.mem → P u) : Goes i s (fun u => Completes s.site.stream p st 0 0 [] s u ∧ P u) := by
  have honly := s1.finish_only s.site.stream p st
  exact ⟨_, hi.trans (congrArg _ (State.regionPkt_good h hg hop hact)), hsame.finishes .., hP _ (honly.same State.regions) (honly.same State.mem)⟩

/-- A condition that fails is reported, and no region changes. -/
theorem region_fails {st : BitVec 8} (hact : act p.packet (if p.started then p.at? else s.cycle) s = some (st, s)) :
    Goes i s (fun u => Completes s.site.stream p st 0 0 [] s u ∧ u.regions = s.regions ∧ u.mem = s.mem) :=
  region_goes hi h hg hop hact (.refl s) fun _ hregions hmem => ⟨hregions, hmem⟩

end

section
variable {s : State} {p : StreamPkt} (h : s.nextPkt (fun q => q.type == 2) = some p) (hg : p.packet.good = true)
include h hg

theorem regionCreate_goes (hop : p.packet.regionOp = 0) (hbad : imageBad p.packet.image = false)
    (hstands : ¬ ((s.region? p.packet.rcb).isSome = true ∨ (imageParent p.packet.image ≠ 0 ∧
      ((s.region? (imageParent p.packet.image)).isNone = true ∨ 8 ≤ (s.regionPath 8 (imageParent p.packet.image)).length))))
    (hroom : s.regions.length < 4096) {st : BitVec 8} {s1 : State}
    (hput : s.hostPut (if p.started then p.at? else s.cycle) (BitVec.ofNat 64 p.packet.rcb) (imageBytes p.packet.image 0) = some (st, s1)) :
    Goes .regionCreate s (fun u => Completes s.site.stream p st 0 0 [] s u ∧
      (if st = 0 then u.regions = s.regions ++ [{ addr := p.packet.rcb, rcb := p.packet.image.take 12 }] ∧ u.mem = s1.mem
       else u.regions = s.regions ∧ u.mem = s.mem)) := by
  have hcheck : ¬ ((s.region? p.packet.rcb).isSome || (imageParent p.packet.image ≠ 0 &&
      ((s.region? (imageParent p.packet.image)).isNone || decide (8 ≤ (s.regionPath 8 (imageParent p.packet.image)).length)))) = true := by simpa using hstands
  by_cases hst : st = 0
  · subst hst
    refine region_goes (s1 := { s1 with regions := s1.regions ++ [{ addr := p.packet.rcb, rcb := p.packet.image.take 12 }] }) rfl h hg hop ?_
      ((State.hostPut_sameHost hput).trans .of_same) fun u hregions hmem => ?_
    · simp only [hbad, if_neg hcheck, if_neg (Nat.not_le.2 hroom), hput, Bool.false_eq_true, if_false]
      rfl
    · rw [if_pos rfl, hregions, hmem, (State.hostPut_accessOnly hput).same State.regions]
      exact ⟨rfl, rfl⟩
  · simp only [if_neg hst]
    refine region_fails rfl h hg hop ?_
    simp only [hbad, if_neg hcheck, if_neg (Nat.not_le.2 hroom), hput, Bool.false_eq_true, if_false]
    split
    · cases ‹_›
    · rename_i heq; cases heq; exact absurd rfl hst
    · rename_i heq; cases heq; rfl

theorem regionModify_goes (hop : p.packet.regionOp = 1) (hbad : imageBad p.packet.image = false) {r : Region} (hr : s.region? p.packet.rcb = some r)
    (hparent : imageParent p.packet.image = r.parent) {st : BitVec 8} {s1 : State}
    (hput : s.hostPut (if p.started then p.at? else s.cycle) (BitVec.ofNat 64 p.packet.rcb) (imageBytes p.packet.image r.consumed) = some (st, s1)) :
    Goes .regionModify s (fun u => Completes s.site.stream p st 0 0 [] s u ∧
      (if st = 0 then u.region? p.packet.rcb = some { r with rcb := p.packet.image.take 12 } ∧ u.mem = s1.mem
       else u.regions = s.regions ∧ u.mem = s.mem)) := by
  have hregions := (State.hostPut_accessOnly hput).same State.regions
  by_cases hst : st = 0
  · subst hst
    refine region_goes (s1 := s1.modRegion p.packet.rcb (fun r => { r with rcb := p.packet.image.take 12 })) rfl h hg hop ?_
      ((State.hostPut_sameHost hput).trans .of_same) fun u hu hmem => ?_
    · simp only [hbad, hr, hparent, ne_eq, not_true, hput, Bool.false_eq_true, if_false]
      rfl
    · have hr1 : s1.region? p.packet.rcb = some r := by rw [State.region?, hregions]; exact hr
      rw [if_pos rfl, State.region?, hu]
      exact ⟨State.region?_modRegion hr1 _, hmem⟩
  · simp only [if_neg hst]
    refine region_fails rfl h hg hop ?_
    simp only [hbad, hr, hparent, ne_eq, not_true, hput, Bool.false_eq_true, if_false]
    split
    · cases ‹_›
    · rename_i heq; cases heq; exact absurd rfl hst
    · rename_i heq; cases heq; rfl

theorem regionDestroy_goes (hop : p.packet.regionOp = 2) : Goes .regionDestroy s (fun u =>
    if (s.region? p.packet.rcb).isNone = true ∨ s.regions.any (fun r => r.parent == p.packet.rcb) = true ∨ s.launches.any (fun l => l.region == p.packet.rcb) = true
    then Completes s.site.stream p 0x11 0 0 [] s u ∧ u.regions = s.regions
    else Completes s.site.stream p 0 0 0 [] s u ∧ u.region? p.packet.rcb = none ∧ (∀ r ∈ s.regions, r.addr ≠ p.packet.rcb → r ∈ u.regions)) := by
  have hused : ((s.region? p.packet.rcb).isNone || s.regions.any (fun r => r.parent == p.packet.rcb) || s.launchesUnder p.packet.rcb) = true ↔
      (s.region? p.packet.rcb).isNone = true ∨ s.regions.any (fun r => r.parent == p.packet.rcb) = true ∨ s.launches.any (fun l => l.region == p.packet.rcb) = true := by
    simp only [State.launchesUnder, Bool.or_eq_true, or_assoc]
  by_cases hany : (s.region? p.packet.rcb).isNone = true ∨ s.regions.any (fun r => r.parent == p.packet.rcb) = true ∨
      s.launches.any (fun l => l.region == p.packet.rcb) = true
  · simp only [if_pos hany]
    exact region_goes rfl h hg hop (by simp only [hused.2 hany, if_true]) (.refl s) fun _ hregions _ => hregions
  · simp only [if_neg hany]
    refine region_goes (s1 := { s with regions := s.regions.filter (fun r => r.addr != p.packet.rcb) }) rfl h hg hop
      (by simp only [if_neg (hany ∘ hused.1)]) .of_same fun u hregions _ => ?_
    rw [State.region?, hregions]
    exact ⟨find?_filter_ne, fun r hr hne => List.mem_filter.2 ⟨hr, by simpa using hne⟩⟩

end

/-- Settles O37: each operation answers a status and the state after, and the completion leaves that state's regions. -/
theorem regionPackets : Obligations.RegionPackets := by
  refine fun s => ⟨fun p h hg hop => ?_, fun p h hg hop => ?_, fun p h hg hop => regionDestroy_goes h hg hop⟩
  · refine ⟨fun hbad => region_fails rfl h hg hop ?_, fun hbad hstands => region_fails rfl h hg hop ?_, fun hbad hstands hroom => region_fails rfl h hg hop ?_,
      fun hbad hstands hroom st s1 hput => regionCreate_goes h hg hop hbad hstands hroom hput⟩
    · simp only [hbad, if_true]
    · simp only [hbad, Bool.false_eq_true, if_false]
      rw [if_pos (by simpa using hstands)]
    · simp only [hbad, Bool.false_eq_true, if_false]
      rw [if_neg (by simpa using hstands), if_pos hroom]
  · have alike {st : BitVec 8} : Goes .regionModify s (fun u => Completes s.site.stream p st 0 0 [] s u ∧ u.regions = s.regions ∧ u.mem = s.mem) →
        Goes .regionModify s (fun u => Completes s.site.stream p st 0 0 [] s u ∧ u.regions = s.regions) := fun ⟨u, hu, hdone, hregions, _⟩ => ⟨u, hu, hdone, hregions⟩
    refine ⟨fun hbad => region_fails rfl h hg hop ?_, fun hbad hnone => alike (region_fails rfl h hg hop ?_), fun hbad r hr =>
      ⟨fun hparent => alike (region_fails rfl h hg hop ?_), fun hparent st s1 hput => regionModify_goes h hg hop hbad hr hparent hput⟩⟩
    · simp only [hbad, if_true]
    · simp only [hbad, hnone, Bool.false_eq_true, if_false]
    · simp only [hbad, hr, if_pos hparent, Bool.false_eq_true, if_false]

end Sys2Proof.Machine

namespace Sys2Proof.Machine

set_option Elab.async false

/-! ### A remote block whose address has high bits (R82, R282) -/

@[simp] theorem State.engineAt_modEngine_same (s : State) (e : Nat) (f : Engine → Engine) : (s.modEngine e f).engineAt e = f (s.engineAt e) := NatMap.get_put_same ..

@[simp] theorem State.engineAt_modCell (s : State) (e k : Nat) (f : Cell → Cell) : (s.modCell k f).engineAt e = s.engineAt e := rfl

/-- A block's chain is posted behind those that its engine has yet to arm, at f1 without the bits above 51. -/
theorem State.issueCollective_arming (s : State) (k g : Nat) (f : List Word) :
    (((s.issueCollective k g f).engineAt (bits (fld f 0) 3 0)).arming.map (fun a => a.addr)) =
      (s.engineAt (bits (fld f 0) 3 0)).arming.map (fun a => a.addr) ++ [fld f 1 &&& 0xFFFFFFFFFFFFF] := by
  have hcarry (k dst : Nat) (r : MeshReq) (e : Nat) : (s.carry k dst r).2.engineAt e = s.engineAt e := by rw [State.engineAt, State.carry_engines]; rfl
  unfold State.issueCollective State.postChain
  rw [State.engineAt_modCell, State.engineAt_modEngine_same, hcarry, List.map_append]
  rfl

/-- A block of a collective command that nothing holds back becomes that command (R82). -/
theorem exec_remoteQueueIssue_collective {s : State} {c : Cell} {ws : List Word} {rest : List (List Word)} (hq : s.cur.remq = ws :: rest)
    (hbound : s.cur.bound.isSome = true) (hstop : s.cur.stop = none) (htin : s.cur.tin = false) (hbusy : s.cur.remBusy = none)
    (htok : reserveAll s.cur (pushedTokens (ws.drop 1)) = some c) (hop : ws.getD 0 0 ≠ 2) (hok : s.collFail (ws.drop 1) = none)
    (hpost : ∀ g, s.postWaits (bits (fld (ws.drop 1) 0) 3 0)
      { addr := fld (ws.drop 1) 1 &&& 0xFFFFFFFFFFFFF, poster := s.blockPoster s.here g (ws.drop 1) } = none) :
    ∃ g, exec .remoteQueueIssue s =
      .next (((s.setCell s.here c).modCell s.here (fun x => { x with remq := rest })).issueCollective s.here g (ws.drop 1)) := by
  refine ⟨(Config.unstated (ws.foldl (fun n w => n * 2 ^ 64 + w.toNat) 1)).toNat % 64, ?_⟩
  change execRemoteQueueIssue s = _
  have hfree : ¬ ((s.cellAt s.here).bound.isNone || (s.cellAt s.here).stop.isSome || (s.cellAt s.here).tin || (s.cellAt s.here).remBusy.isSome) = true := by
    change ¬ (s.cur.bound.isNone || s.cur.stop.isSome || s.cur.tin || s.cur.remBusy.isSome) = true
    rw [hstop, htin, hbusy, Option.isNone_eq_false_iff.2 hbound]
    decide
  unfold execRemoteQueueIssue
  simp only [show (s.cellAt s.here).remq = ws :: rest from hq, if_neg hfree, show reserveAll (s.cellAt s.here) _ = some c from htok, if_neg hop, hok,
    hpost, Option.isSome_none, Bool.false_eq_true, if_false]

/-- The fields of a block for engine 5 whose f1 has bit 52 set: the checks of f1 look at its bits 5:0 alone (R283). -/
def highFields : List Word := [5, 0x10000000000000, 0, 0, 0, 0, 0, 0, 0, 0, 0, 0, 0, 0, 0]

/-- Cell 0 of die 0 holds a group, and that block is the first of its remote queue. -/
def highBlock : State := { State.reset with cells := [(0, { bound := some ⟨1, 0, 0, 0⟩, remq := [3 :: highFields] })] }

/-- No page is mapped, so nothing can be read at the address: the chain waits for no trigger table (R190). -/
theorem highBlock_postWaits (g : Nat) :
    highBlock.postWaits 5 { addr := fld highFields 1 &&& 0xFFFFFFFFFFFFF, poster := highBlock.blockPoster highBlock.here g highFields } = none := by
  have haddr : fld highFields 1 &&& 0xFFFFFFFFFFFFF = 0 := by decide
  have hpeek : highBlock.peekEntry (rimOf 5) (64 * rimOf 5) 0 = none := by decide
  have hagent (cell : Nat) : entryAgent 5 cell 0 = 64 * rimOf 5 := rfl
  have harms (p : Poster) : highBlock.armWaits 5 { addr := 0, poster := p } = none := by
    unfold State.armWaits
    rw [hagent, hpeek]
  rw [haddr]
  exact harms (highBlock.blockPoster highBlock.here g highFields)

/-- Its chain is posted at address 0. -/
theorem exec_highBlock : ∃ u, exec .remoteQueueIssue highBlock = .next u ∧ (u.engineAt 5).arming.map (fun a => a.addr) = [0] := by
  obtain ⟨g, hg⟩ := exec_remoteQueueIssue_collective (s := highBlock) (c := highBlock.cur) rfl rfl rfl rfl rfl rfl (by decide) (by decide) highBlock_postWaits
  exact ⟨_, hg, State.issueCollective_arming ..⟩

/-- Refutes O48: a block's f1 may have bits above 51 set, and its chain is posted at f1 without them. -/
theorem not_leasesAndRemoteQueues : ¬ Obligations.LeasesAndRemoteQueues := by
  intro h
  obtain ⟨_, _, hissue, _⟩ := h highBlock
  obtain ⟨_, hcoll⟩ := hissue (by decide) rfl rfl rfl (3 :: highFields) rfl (by simp [pushedTokens, commandSignals, highFields, fld, bit])
  obtain ⟨u, hu, _, _, _, _, haddr, _⟩ := hcoll rfl (by decide) (highBlock_postWaits _)
  obtain ⟨v, hv, harm⟩ := exec_highBlock
  obtain rfl : v = u := by simpa [hv] using hu
  obtain ⟨a, ha, hzero⟩ := List.map_eq_singleton_iff.1 harm
  have hone : a.addr = 0x10000000000000 := (haddr a (by change a ∈ (v.engineAt 5).arming; simp [ha])).1
  simp [hzero] at hone

end Sys2Proof.Machine

namespace Sys2Proof.Machine

set_option Elab.async false

/-! ### A list of cells that names one cell twice (R67) -/

/-- A state one budget interval old whose list of cells names cell 0 twice: the entry that counts holds no group, the one behind it does. -/
def twiceListed : State := { State.reset with cycle := 2250000, cells := [(0, {}), (0, { bound := some ⟨1, 0, 0, 0⟩ })] }

theorem State.chargeCell_of_free {s : State} {k : Nat} (h : (s.cellAt k).bound = none) : s.chargeCell k = s := by
  unfold State.chargeCell
  rw [h]

/-- Cell 0 as it reads holds no group, so a budget update charges nothing for it. -/
theorem exec_twiceListed : exec .budgetUpdate twiceListed = .next { twiceListed with budgetAt := twiceListed.cycle } := by
  have hdue : ¬ twiceListed.cycle < twiceListed.budgetAt + msCycles := by decide
  have hcells : twiceListed.boundCells = [0] := rfl
  change execBudgetUpdate twiceListed = _
  unfold execBudgetUpdate
  rw [if_neg hdue, hcells, List.foldl_cons, List.foldl_nil, State.chargeCell_of_free rfl]
  rfl

/-- Refutes O41: it speaks of every state, also of one whose list of cells names a cell twice. Cell 0 of `twiceListed` is among its bound cells, by the second
entry, but reads as the first, which a budget update does not charge. -/
theorem not_schedulerEvents : ¬ Obligations.SchedulerEvents := by
  intro h
  obtain ⟨_, _, hbudget, _⟩ := h twiceListed
  obtain ⟨u, hu, _, hcharged, _⟩ := hbudget (by decide)
  obtain rfl := Host.Outcome.next.inj (exec_twiceListed.symm.trans hu)
  have hcycle : 0 = 2250000 := hcharged 0 (by decide)
  omega

end Sys2Proof.Machine

namespace Sys2Proof.Machine

set_option Elab.async false

/-! ### What settling barriers leaves as it was (R325) -/

/-- Nothing has changed but barriers, the notices heard and what goes to other packages. -/
def State.BarriersOnly (s u : State) : Prop := u = { s with barriers := u.barriers, notices := u.notices, netOut := u.netOut }

theorem State.BarriersOnly.refl (s : State) : s.BarriersOnly s := rfl

theorem State.BarriersOnly.trans {s u v : State} (h : s.BarriersOnly u) (h' : u.BarriersOnly v) : s.BarriersOnly v := by
  unfold State.BarriersOnly at *
  rw [h', h]

/-- What no barrier takes part in is the same. -/
theorem State.BarriersOnly.same {α : Type} {s u : State} (h : s.BarriersOnly u) (f : State → α)
    (hf : ∀ b n o, f { s with barriers := b, notices := n, netOut := o } = f s := by exact fun _ _ _ => rfl) : f u = f s := by
  rw [h]
  exact hf ..

theorem State.setBarrier_only (s : State) (b : Barrier) : s.BarriersOnly (s.setBarrier b) := by
  unfold State.setBarrier
  split
  · rfl
  · rfl

theorem State.settleBarrier_only (s : State) (b : Barrier) : s.BarriersOnly (s.settleBarrier b) := by
  unfold State.settleBarrier
  split
  · exact .refl s
  · split
    · exact .refl s
    · split
      · split
        · exact s.setBarrier_only _
        · exact .refl s
      · split
        · extract_lets away s1 b1 s2
          have h1 : s.BarriersOnly s1 := by
            unfold s1
            split
            · exact .refl s
            · exact State.BarriersOnly.trans (u := { s with notices := _, netOut := _ }) rfl (State.setBarrier_only ..)
          split
          · exact (h1.trans (s1.setBarrier_only _)).trans rfl
          · exact h1
        · split
          · split
            · exact s.setBarrier_only _
            · split
              · exact s.setBarrier_only _
              · exact .refl s
          · exact s.setBarrier_only _

theorem State.settleBarriers_only (s : State) : s.BarriersOnly s.settleBarriers :=
  List.foldlRecOn s.barriers State.settleBarrier (.refl s) fun u hu b _ => hu.trans (u.settleBarrier_only b)

/-! ### What keeps the tables of the scheduler -/

/-- Where and when the step acts, the slot table, the launches and the RESETs are the same. -/
structure State.SameTables (s u : State) : Prop where
  site : u.site = s.site
  cycle : u.cycle = s.cycle
  slots : u.slots = s.slots
  launches : u.launches = s.launches
  running : u.running = s.running
  pending : u.pending = s.pending

theorem State.SameTables.refl (s : State) : s.SameTables s := ⟨rfl, rfl, rfl, rfl, rfl, rfl⟩

theorem State.SameTables.trans {s u v : State} (h : s.SameTables u) (h' : u.SameTables v) : s.SameTables v where
  site := h'.site.trans h.site
  cycle := h'.cycle.trans h.cycle
  slots := h'.slots.trans h.slots
  launches := h'.launches.trans h.launches
  running := h'.running.trans h.running
  pending := h'.pending.trans h.pending

theorem State.SameTables.foldl {α : Type} {f : State → α → State} (h : ∀ (s : State) x, s.SameTables (f s x)) (l : List α) (s : State) : s.SameTables (l.foldl f s) :=
  List.foldlRecOn l f (.refl s) fun u hu x _ => hu.trans (h u x)

/-- A change elsewhere in the state. -/
theorem State.SameTables.of_same {s u : State} (site : u.site = s.site := by rfl) (cycle : u.cycle = s.cycle := by rfl) (slots : u.slots = s.slots := by rfl)
    (launches : u.launches = s.launches := by rfl) (running : u.running = s.running := by rfl) (pending : u.pending = s.pending := by rfl) : s.SameTables u :=
  ⟨site, cycle, slots, launches, running, pending⟩

theorem State.AccessOnly.sameTables {s u : State} (h : s.AccessOnly u) : s.SameTables u :=
  ⟨h.same State.site, h.same State.cycle, h.same State.slots, h.same State.launches, h.same State.running, h.same State.pending⟩

theorem State.BarriersOnly.sameTables {s u : State} (h : s.BarriersOnly u) : s.SameTables u :=
  ⟨h.same State.site, h.same State.cycle, h.same State.slots, h.same State.launches, h.same State.running, h.same State.pending⟩

/-- The time of a group charged to its region and every ancestor (R67). -/
theorem State.chargeCell_sameTables (s : State) (k : Nat) : s.SameTables (s.chargeCell k) := by
  unfold State.chargeCell
  split
  · exact .refl s
  · dsimp only
    split
    · exact .of_same
    · exact State.SameTables.trans .of_same (State.SameTables.foldl (fun _ _ => .of_same) _ _)

theorem State.writeConsumed_accessOnly (s : State) (a : Nat) : s.AccessOnly (s.writeConsumed a) := by
  unfold State.writeConsumed
  split
  · exact .refl s
  · split
    · rename_i h
      exact State.hostPut_accessOnly h
    · exact .refl s

theorem State.writePath_accessOnly (s : State) (a : Nat) : s.AccessOnly (s.writePath a) := State.AccessOnly.foldl (fun u a => u.writeConsumed_accessOnly a) _ _

theorem State.dropLease_sameTables (s : State) (k : Nat) : s.SameTables (s.dropLease k) := by
  unfold State.dropLease
  dsimp only
  split
  · exact .of_same
  · exact .of_same

theorem State.unholdRed_sameTables (s : State) (w : RedWrite) : s.SameTables (s.unholdRed w) := by
  unfold State.unholdRed
  split
  · exact .of_same
  · exact .refl s

theorem State.park_sameTables (s : State) (k key group : Nat) : s.SameTables (s.park k key group) :=
  (State.SameTables.foldl State.unholdRed_sameTables _ s).trans .of_same

theorem State.freeSlotOf_sameTables (s : State) (l : Launch) (slot : Word) : s.SameTables (s.freeSlotOf l slot) := by
  unfold State.freeSlotOf
  split
  · exact .refl s
  · exact .of_same

/-- The parts of a save written to its slot. -/
theorem State.writeParts_accessOnly {s u : State} {since : Nat} {slot : Word} {l : List (Nat × List Word)} (h : s.writeParts since slot l = some u) :
    s.AccessOnly u := by
  revert u
  unfold State.writeParts
  refine List.foldlRecOn (motive := fun (acc : Option State) => ∀ {u}, acc = some u → s.AccessOnly u) _ _ (fun h => ?_) fun acc hacc x _ u h => ?_
  · exact Option.some.inj h ▸ .refl s
  · obtain ⟨t, ht, hput⟩ := Option.bind_eq_some_iff.1 h
    obtain ⟨y, hy, rfl⟩ := Option.map_eq_some_iff.1 hput
    exact (hacc ht).trans (State.hostPut_accessOnly hy)

/-! ### Reads of memory for a cell (R54, R165, R261) -/

/-- A cell's cached translations change. -/
theorem State.modTlb_accessOnly (s : State) (k : Nat) (f : List TlbEntry → List TlbEntry) : s.AccessOnly (s.modCell k (fun c => { c with tlb := f c.tlb })) :=
  .of_cell s k _ _

/-- A walk whose page the die caches. -/
theorem State.cacheWalk_accessOnly (s : State) (n : Word) (m : NatMap (List TlbEntry)) : s.AccessOnly { s with walks := n, dieTlb := m } := .of_eq

theorem State.page_accessOnly {s u : State} {k va : Nat} {e : TlbEntry} (h : s.page k va = .ok (e, u)) : s.AccessOnly u := by
  by_cases hk : 1024 ≤ k
  · exact (State.page_walks hk h).accessOnly
  · unfold State.page at h
    rw [if_neg hk] at h
    split at h
    · simp only [Except.ok.injEq, Prod.mk.injEq] at h
      exact h.2 ▸ .refl s
    · extract_lets die at h
      split at h
      · simp only [Except.ok.injEq, Prod.mk.injEq] at h
        exact h.2 ▸ s.modTlb_accessOnly k (tlbAdd 64 · _)
      · split at h
        · cases h
        · split at h
          · cases h
          · simp only [Except.ok.injEq, Prod.mk.injEq] at h
            exact h.2 ▸ (s.cacheWalk_accessOnly ..).trans (State.modTlb_accessOnly _ k (tlbAdd 64 · _))

theorem State.translate_accessOnly {s u : State} {k : Nat} {va : Word} {wr repl : Bool} {pa : Nat} (h : s.translate k va wr = .ok (pa, repl, u)) :
    s.AccessOnly u := by
  unfold State.translate at h
  dsimp only at h
  split at h
  · cases h
  · split at h
    · simp only [Except.ok.injEq, Prod.mk.injEq] at h
      exact h.2.2 ▸ .refl s
    · split at h
      · cases h
      · rename_i hp
        split at h
        · cases h
        · simp only [Except.ok.injEq, Prod.mk.injEq] at h
          exact h.2.2 ▸ State.page_accessOnly hp

theorem State.loadRun_accessOnly (s : State) (k : Nat) (va : Word) (n : Nat) : s.AccessOnly (s.loadRun k va n).1 := by
  unfold State.loadRun
  split
  · exact (s.noteWalk_walks ..).accessOnly
  · exact (s.noteWalk_walks ..).accessOnly
  · rename_i h
    have h1 := State.translate_accessOnly h
    split
    · exact h1
    · exact h1
    · exact h1.trans (State.bbox_accessOnly ..)

theorem State.loadBytes_accessOnly (s : State) (k : Nat) (va : Word) (n : Nat) : s.AccessOnly (s.loadBytes k va n).1 := by
  unfold State.loadBytes
  refine List.foldlRecOn (motive := fun (acc : State × Except (BitVec 8 × Word) (List Byte)) => s.AccessOnly acc.1) _ _ (.refl s) fun acc hacc r _ => ?_
  obtain ⟨u, x⟩ := acc
  cases x with
  | error e => exact hacc
  | ok bs =>
    have hrun := u.loadRun_accessOnly k r.1 r.2
    dsimp only
    generalize u.loadRun k r.1 r.2 = y at hrun
    obtain ⟨v, x⟩ := y
    cases x with
    | error e => exact hacc.trans hrun
    | ok more => exact hacc.trans hrun

theorem State.loadAll_accessOnly (k : Nat) (l : List (Word × Nat)) (s : State) : s.AccessOnly (s.loadAll k l).1 := by
  induction l generalizing s with
  | nil => exact .refl s
  | cons r rs ih =>
    unfold State.loadAll
    have hbytes := s.loadBytes_accessOnly k r.1 r.2
    generalize s.loadBytes k r.1 r.2 = y at hbytes
    obtain ⟨u, x⟩ := y
    cases x with
    | error e => exact hbytes
    | ok bs =>
      have hrest := hbytes.trans (ih u)
      dsimp only
      generalize u.loadAll k rs = y at hrest
      obtain ⟨v, x⟩ := y
      cases x with
      | error e => exact hrest
      | ok bs => exact hrest

end Sys2Proof.Machine

namespace Sys2Proof.Machine

set_option Elab.async false

/-! ### What leaves groups on their cells (R54, R56) -/

/-- Where and when the step acts, the slot table and the RESETs are the same, and so is which group each cell holds and whether it is out of service. -/
structure State.SamePlaces (s u : State) : Prop where
  site : u.site = s.site
  cycle : u.cycle = s.cycle
  slots : u.slots = s.slots
  running : u.running = s.running
  pending : u.pending = s.pending
  bound : ∀ k, (u.cellAt k).bound = (s.cellAt k).bound
  oos : ∀ k, (u.cellAt k).oos = (s.cellAt k).oos

/-- The same of what stops no cell, adds no launch, and keeps every launch that has a bound or a saved group; of a launch, the collectives that it has posted may
change. -/
structure State.SameGroups (s u : State) : Prop extends s.SamePlaces u where
  stop : ∀ k, (u.cellAt k).stop = (s.cellAt k).stop
  launches : ∀ o ∈ u.launches, ∃ l ∈ s.launches, ∃ c, o = { l with colls := c }
  stays : ∀ key l, s.launch? key = some l → l.bound ≠ [] ∨ l.saved ≠ [] → ∃ c, u.launch? key = some { l with colls := c }

theorem State.SamePlaces.refl (s : State) : s.SamePlaces s := ⟨rfl, rfl, rfl, rfl, rfl, fun _ => rfl, fun _ => rfl⟩

theorem State.SamePlaces.trans {s u v : State} (h : s.SamePlaces u) (h' : u.SamePlaces v) : s.SamePlaces v where
  site := h'.site.trans h.site
  cycle := h'.cycle.trans h.cycle
  slots := h'.slots.trans h.slots
  running := h'.running.trans h.running
  pending := h'.pending.trans h.pending
  bound k := (h'.bound k).trans (h.bound k)
  oos k := (h'.oos k).trans (h.oos k)

theorem State.SameGroups.refl (s : State) : s.SameGroups s := ⟨.refl s, fun _ => rfl, fun o ho => ⟨o, ho, o.colls, rfl⟩, fun _ l h _ => ⟨l.colls, h⟩⟩

theorem State.SameGroups.trans {s u v : State} (h : s.SameGroups u) (h' : u.SameGroups v) : s.SameGroups v where
  toSamePlaces := h.toSamePlaces.trans h'.toSamePlaces
  stop k := (h'.stop k).trans (h.stop k)
  launches o ho := by
    obtain ⟨l', hl', c', rfl⟩ := h'.launches o ho
    obtain ⟨l, hl, c, rfl⟩ := h.launches l' hl'
    exact ⟨l, hl, c', rfl⟩
  stays key l hl hany := by
    obtain ⟨c, hc⟩ := h.stays key l hl hany
    exact h'.stays key { l with colls := c } hc hany

theorem State.SamePlaces.foldl {α : Type} {f : State → α → State} (h : ∀ (s : State) x, s.SamePlaces (f s x)) (l : List α) (s : State) : s.SamePlaces (l.foldl f s) :=
  List.foldlRecOn l f (.refl s) fun u hu x _ => hu.trans (h u x)

theorem State.SameGroups.foldl {α : Type} {f : State → α → State} (h : ∀ (s : State) x, s.SameGroups (f s x)) (l : List α) (s : State) : s.SameGroups (l.foldl f s) :=
  List.foldlRecOn l f (.refl s) fun u hu x _ => hu.trans (h u x)

/-- A change elsewhere in the state. -/
theorem State.SamePlaces.of_same {s u : State} (site : u.site = s.site := by rfl) (cycle : u.cycle = s.cycle := by rfl) (slots : u.slots = s.slots := by rfl)
    (running : u.running = s.running := by rfl) (pending : u.pending = s.pending := by rfl) (cells : u.cells = s.cells := by rfl) : s.SamePlaces u :=
  ⟨site, cycle, slots, running, pending, fun k => by rw [State.cellAt, State.cellAt, cells], fun k => by rw [State.cellAt, State.cellAt, cells]⟩

/-- A change elsewhere in the state, to no launch either. -/
theorem State.SameGroups.of_same {s u : State} (site : u.site = s.site := by rfl) (cycle : u.cycle = s.cycle := by rfl) (slots : u.slots = s.slots := by rfl)
    (running : u.running = s.running := by rfl) (pending : u.pending = s.pending := by rfl) (cells : u.cells = s.cells := by rfl)
    (launches : u.launches = s.launches := by rfl) : s.SameGroups u where
  toSamePlaces := .of_same site cycle slots running pending cells
  stop k := by rw [State.cellAt, State.cellAt, cells]
  launches o ho := ⟨o, launches ▸ ho, o.colls, rfl⟩
  stays key l hl _ := ⟨l.colls, by rw [State.launch?, launches]; exact hl⟩

theorem State.StreamsOnly.sameGroups {s u : State} (h : s.StreamsOnly u) : s.SameGroups u :=
  .of_same (h.same State.site) (h.same State.cycle) (h.same State.slots) (h.same State.running) (h.same State.pending) (h.same State.cells) (h.same State.launches)

theorem State.bbox_sameGroups (s : State) (d : Nat) (e : BbEvent) : s.SameGroups (s.bbox d e) := .of_same

theorem State.bboxCell_sameGroups (s : State) (k y c : Nat) (d0 d1 : Word) : s.SameGroups (s.bboxCell k y c d0 d1) := State.bbox_sameGroups ..

theorem State.modEngine_sameGroups (s : State) (e : Nat) (f : Engine → Engine) : s.SameGroups (s.modEngine e f) := .of_same

theorem State.sendInc_sameGroups (s : State) (k : Nat) (u : Option Nat) (c : BitVec 14) (a w : Word) : s.SameGroups (s.sendInc k u c a w) :=
  .of_same (s.sendInc_site ..) (s.sendInc_cycle ..) (s.sendInc_slots ..) (s.sendInc_running ..) (s.sendInc_pending ..) (s.sendInc_cells ..) (s.sendInc_launches ..)

/-- A cell that keeps its group, and stays in service or out of it. -/
theorem State.modCell_samePlaces (s : State) (k : Nat) (f : Cell → Cell) (hbound : ∀ c, (f c).bound = c.bound := by exact fun _ => rfl)
    (hoos : ∀ c, (f c).oos = c.oos := by exact fun _ => rfl) : s.SamePlaces (s.modCell k f) :=
  { (.of_same : s.SamePlaces { s.modCell k f with cells := s.cells }) with
    bound := fun j => by
      by_cases hj : j = k
      · subst hj; rw [State.cellAt_modCell_same, hbound]
      · rw [State.cellAt_modCell_other _ _ hj]
    oos := fun j => by
      by_cases hj : j = k
      · subst hj; rw [State.cellAt_modCell_same, hoos]
      · rw [State.cellAt_modCell_other _ _ hj] }

/-- A cell whose commit buffer changes. -/
theorem State.modCbuf_sameGroups (s : State) (k : Nat) (f : Cell → List (Nat × Held)) : s.SameGroups (s.modCell k (fun c => { c with cbuf := f c })) :=
  { (State.SameGroups.refl s) with
    toSamePlaces := s.modCell_samePlaces k _
    stop := fun j => by
      by_cases hj : j = k
      · subst hj; rw [State.cellAt_modCell_same]
      · rw [State.cellAt_modCell_other _ _ hj] }

/-- All cells changed alike, none in its group, its stop or its service. -/
theorem State.mapCells_sameGroups (s : State) (f : Nat × Cell → Cell) (hbound : ∀ e, (f e).bound = e.2.bound := by exact fun _ => rfl)
    (hoos : ∀ e, (f e).oos = e.2.oos := by exact fun _ => rfl) (hstop : ∀ e, (f e).stop = e.2.stop := by exact fun _ => rfl) :
    s.SameGroups { s with cells := s.cells.map (fun e => (e.1, f e)) } := by
  have hcell {α : Type} (g : Cell → α) (hg : ∀ e, g (f e) = g e.2) (k : Nat) :
      g (State.cellAt { s with cells := s.cells.map (fun e => (e.1, f e)) } k) = g (s.cellAt k) := by
    simp only [State.cellAt]
    induction s.cells with
    | nil => rfl
    | cons e l ih =>
      simp only [List.map_cons, NatMap.get]
      split
      · exact hg e
      · exact ih
  exact { (State.SameGroups.refl s) with
    bound := hcell (fun c => c.bound) hbound
    oos := hcell (fun c => c.oos) hoos
    stop := hcell (fun c => c.stop) hstop }

/-! ### The end of launches leaves groups on their cells (R56, R206, R225) -/

theorem State.trigger_sameGroups (s : State) (cid : Nat) : s.SameGroups (s.trigger cid) := by
  unfold State.trigger
  dsimp only
  split
  · exact .refl s
  · refine (s.modEngine_sameGroups ..).trans (State.SameGroups.foldl (fun u e => ?_) _ _)
    split
    · exact .of_same
    · exact .of_same

theorem State.loseCounter_sameGroups (s : State) (cid : Nat) : s.SameGroups (s.loseCounter cid) := State.SameGroups.trans .of_same (State.trigger_sameGroups _ _)

theorem State.unholdRed_sameGroups (s : State) (w : RedWrite) : s.SameGroups (s.unholdRed w) := by
  unfold State.unholdRed
  split
  · exact s.modCbuf_sameGroups _ _
  · exact .refl s

theorem State.dropData_sameGroups (s : State) (p : Owner → Bool) : s.SameGroups (s.dropData p) :=
  ((State.SameGroups.foldl (fun u w => u.unholdRed_sameGroups w) _ _).trans
    (State.mapCells_sameGroups _ (fun e => { e.2 with cbuf := e.2.cbuf.filter (fun h => !p h.2.owner) }))).trans .of_same

/-- Fired entries whose data stop, and which end with a status (R206, R208). -/
theorem State.stopFired_sameGroups (s : State) (g : Nat) (l : List Entry) (f : Entry → Entry) :
    s.SameGroups (l.foldl (fun s e => (s.stopData (.entry g e.id)).modFired g e.id f) s) :=
  State.SameGroups.foldl (fun v (_ : Entry) => (v.dropData_sameGroups _).trans (State.modEngine_sameGroups ..)) _ _

/-- Launches of which the collectives posted change. -/
theorem State.mapColls_sameGroups (s : State) (f : Launch → List CollUse) : s.SameGroups { s with launches := s.launches.map (fun l => { l with colls := f l }) } :=
  { (State.SameGroups.refl s) with
    launches := fun o ho => by
      obtain ⟨l, hl, rfl⟩ := List.mem_map.1 ho
      exact ⟨l, hl, f l, rfl⟩
    stays := fun key l hl _ => ⟨f l, by
      simp only [State.launch?, List.find?_map]
      exact congrArg (Option.map _) hl⟩ }

theorem State.lose_sameGroups (s : State) (coll : Nat) : s.SameGroups (s.lose coll) := by
  unfold State.lose
  extract_lets l cids pkgs s1 mark s1' s2
  have h1 : s.SameGroups s1 := State.SameGroups.foldl (fun u g =>
    ((u.modEngine_sameGroups ..).trans (State.SameGroups.foldl (fun _ _ => .of_same) _ _)).trans (State.stopFired_sameGroups ..)) _ _
  have h1' : s1.SameGroups s1' := ((s1.mapCells_sameGroups (fun c => { c.2 with chains := c.2.chains.map (fun x => (x.1, mark x.2)) })).trans
    (State.mapColls_sameGroups _ (fun l => l.colls.filter (fun u => u.coll != coll)))).trans .of_same
  have h2 : s1'.SameGroups s2 := State.SameGroups.foldl (fun u c => u.loseCounter_sameGroups c) _ _
  exact ((h1.trans h1').trans h2).trans .of_same

theorem State.endCollectives_sameGroups (s : State) (key : Nat) (failed : Bool) : s.SameGroups (s.endCollectives key failed) := by
  unfold State.endCollectives
  extract_lets mine colls posted gone s1 s2 s3
  have h2 : s.SameGroups s2 := State.SameGroups.trans .of_same (State.SameGroups.foldl (fun u c => by
    split
    · exact .refl u
    · exact State.bboxCell_sameGroups ..) _ _)
  have h3 : s2.SameGroups s3 := by
    unfold s3
    split
    · exact State.SameGroups.foldl (fun u c => u.lose_sameGroups c) _ _
    · exact .refl _
  exact (h2.trans h3).trans (State.SameGroups.foldl (fun u g => u.stopFired_sameGroups ..) _ _)

theorem State.loseExchange_sameGroups (s : State) (xid : Nat) : s.SameGroups (s.loseExchange xid) := by
  unfold State.loseExchange
  dsimp only
  refine State.SameGroups.trans (State.SameGroups.trans .of_same (State.dropData_sameGroups _ _)) (State.SameGroups.foldl (fun u m => ?_) _ _)
  split
  · exact .refl u
  · exact (u.loseCounter_sameGroups _).trans (State.sendInc_sameGroups ..)

theorem State.endMembers_sameGroups (s : State) (key : Nat) (failed : Bool) : s.SameGroups (s.endMembers key failed) := by
  unfold State.endMembers
  extract_lets open' s1
  have h1 : s.SameGroups s1 := by
    unfold s1
    split
    · exact State.SameGroups.foldl (fun u x => u.loseExchange_sameGroups x) _ _
    · exact .refl s
  exact h1.trans .of_same

/-- A launch with no bound and no saved group is struck off. -/
theorem State.SameGroups.strike {s u : State} (hu : s.SameGroups u) {key : Nat} {l : Launch} (h : s.launch? key = some l) (hbound : l.bound = []) (hsaved : l.saved = []) :
    s.SameGroups { u with launches := u.launches.filter (fun o => o.key != key) } :=
  { hu with
    launches := fun o ho => hu.launches o (List.mem_filter.1 ho).1
    stays := fun key' l' hl' hany => by
      have hkey : key' ≠ key := by
        rintro rfl
        obtain rfl := Option.some.inj (h.symm.trans hl')
        exact hany.elim (absurd hbound) (absurd hsaved)
      have hfind : (fun o : Launch => decide ((o.key != key) = true ∧ (o.key == key') = true)) = fun o => o.key == key' := by
        funext o
        by_cases ho : o.key = key'
        · simp [ho, hkey]
        · simp [ho]
      obtain ⟨c, hc⟩ := hu.stays key' l' hl' hany
      refine ⟨c, ?_⟩
      rw [State.launch?, List.find?_filter, hfind]
      exact hc }

theorem State.setSignal_sameGroups (s : State) (i : Nat) (v : Word) : s.SameGroups (s.setSignal i v) :=
  State.SameGroups.trans (u := s.putSignal i v) .of_same (s.setSignal_only i v).sameGroups

theorem State.completeLaunch_sameGroups {s : State} {l : Launch} (h : s.launch? l.key = some l) (hover : s.launchOver l = true) :
    s.SameGroups (s.completeLaunch l) := by
  have hend : s.SameGroups ((s.endCollectives l.key (l.status ≠ .running)).endMembers l.key (l.status ≠ .running)) :=
    (s.endCollectives_sameGroups ..).trans (State.endMembers_sameGroups ..)
  have hover : l.bound = [] ∧ l.saved = [] := by
    simp only [State.launchOver, Bool.and_eq_true, List.isEmpty_iff] at hover
    exact hover.1.1
  have hstrike := hend.strike h hover.1 hover.2
  unfold State.completeLaunch
  dsimp only
  refine State.SameGroups.trans ?_ (State.complete_only ..).sameGroups
  split
  · exact (hstrike.trans .of_same).trans (State.setSignal_sameGroups ..)
  · exact hstrike.trans .of_same

theorem State.settleLaunches_sameGroups (s : State) : s.SameGroups s.settleLaunches :=
  State.SameGroups.foldl (fun u l => by
    split
    · exact .refl u
    · rename_i l1 hl1
      split
      · rename_i hover
        have hkey : l1.key = l.key := by simpa using List.find?_some hl1
        exact State.completeLaunch_sameGroups (hkey.symm ▸ hl1) hover
      · exact .refl u) _ _

end Sys2Proof.Machine

namespace Sys2Proof.Machine

set_option Elab.async false

/-! ### Faults and re-placement leave groups on their cells (R56, R64, R253, R258) -/

theorem State.stopLaunch_samePlaces (s : State) (key : Nat) (st : Stop) (f : Launch → Launch) : s.SamePlaces (s.stopLaunch key st f) := by
  unfold State.stopLaunch
  split
  · exact .refl s
  · refine State.SamePlaces.trans .of_same (State.SamePlaces.foldl (fun u e => u.modCell_samePlaces _ _ (fun c => ?_) fun c => ?_) _ _)
    · split <;> rfl
    · split <;> rfl

/-- A cell that has faulted stays so while launches are stopped. -/
theorem State.stopLaunch_faulted {s : State} {k : Nat} (h : (s.cellAt k).stop = some .faulted) (key : Nat) (st : Stop) (f : Launch → Launch) :
    ((s.stopLaunch key st f).cellAt k).stop = some .faulted := by
  unfold State.stopLaunch
  split
  · exact h
  · refine List.foldlRecOn (motive := fun u : State => (u.cellAt k).stop = some .faulted) _ _ h fun u hu e _ => ?_
    by_cases hk : k = e.2
    · subst hk
      rw [State.cellAt_modCell_same, hu]
      exact hu
    · rw [State.cellAt_modCell_other _ _ hk]
      exact hu

theorem State.faultLaunch_samePlaces (s : State) (k key group cause : Nat) (entry : Word) : s.SamePlaces (s.faultLaunch k key group cause entry) := by
  unfold State.faultLaunch
  split
  · exact .refl s
  · dsimp only
    split
    · exact .refl s
    · have hstop (d : Nat) (e : BbEvent) : s.SamePlaces ((s.bbox d e).stopLaunch key .cancelled (noMoreBinds .faulted)) :=
        (s.bbox_sameGroups d e).toSamePlaces.trans (State.stopLaunch_samePlaces ..)
      split
      · exact hstop ..
      · exact (hstop ..).trans (State.SamePlaces.foldl (fun u o => u.stopLaunch_samePlaces ..) _ _)

theorem State.faultLaunch_faulted {s : State} {j : Nat} (h : (s.cellAt j).stop = some .faulted) (k key group cause : Nat) (entry : Word) :
    ((s.faultLaunch k key group cause entry).cellAt j).stop = some .faulted := by
  unfold State.faultLaunch
  split
  · exact h
  · dsimp only
    split
    · exact h
    · have hstop (d : Nat) (e : BbEvent) : (((s.bbox d e).stopLaunch key .cancelled (noMoreBinds .faulted)).cellAt j).stop = some .faulted :=
        State.stopLaunch_faulted (s := s.bbox d e) h ..
      split
      · exact hstop ..
      · exact List.foldlRecOn (motive := fun u : State => (u.cellAt j).stop = some .faulted) _ _ (hstop ..) fun u hu o _ => State.stopLaunch_faulted hu ..

theorem State.unhandled_samePlaces (s : State) (k : Nat) (t : TrapRec) : s.SamePlaces (s.unhandled k t) := by
  have hcell := (s.bboxCell_sameGroups k 0x01 t.cause.toNat t.pc t.val).toSamePlaces.trans
    (State.modCell_samePlaces _ k (fun c => { cancelCopies c with stop := some .faulted, pend := [], remq := [], tin := false }))
  unfold State.unhandled
  split
  · exact hcell
  · exact hcell.trans (State.faultLaunch_samePlaces ..)

/-- A group ended by an unhandled trap is stopped for good (R253). -/
theorem State.unhandled_faulted (s : State) (k : Nat) (t : TrapRec) : ((s.unhandled k t).cellAt k).stop = some .faulted := by
  unfold State.unhandled
  split
  · rw [State.cellAt_modCell_same]
  · exact State.faultLaunch_faulted (by rw [State.cellAt_modCell_same]) ..

theorem State.machineCheck_samePlaces (s : State) (k code : Nat) (d0 d1 : Word) : s.SamePlaces (s.machineCheck k code d0 d1) := by
  unfold State.machineCheck
  extract_lets s1 empty gone s2 s3
  have h1 : s.SamePlaces s1 := .of_same
  have h2 : s1.SamePlaces s2 := s1.modCell_samePlaces k _
  have h3 : s2.SamePlaces s3 := .of_same
  have h := (h1.trans h2).trans h3
  clear_value s3
  split
  · exact h
  · exact h.trans (State.faultLaunch_samePlaces ..)

/-- A machine check freezes the box of its cell's die (R258). -/
theorem State.machineCheck_frozen (s : State) (k code : Nat) (d0 d1 : Word) : (NatMap.get {} (s.machineCheck k code d0 d1).boxes (k / 64)).frozen = true := by
  unfold State.machineCheck
  extract_lets s1 empty gone s2 s3
  have h : (NatMap.get {} s3.boxes (k / 64)).frozen = true := (State.freeze_frozen (s.bboxCell k 0x02 code d0 d1) (k / 64)).1
  clear_value s3
  split
  · exact h
  · rw [(s3.faultLaunch_loses ..).frozen]
    exact h

theorem State.replaceGroup_keeps (s : State) (key g : Nat) : s.Keeps (s.replaceGroup key g) ∧ s.SamePlaces (s.replaceGroup key g) := by
  unfold State.replaceGroup
  split
  · exact ⟨.refl s, .refl s⟩
  · dsimp only
    split
    · exact ⟨.refl s, .refl s⟩
    · split
      · exact ⟨.refl s, .refl s⟩
      · exact ⟨(((s.modLaunch_loses key _).trans (State.corrected_loses ..)).trans (State.bbox_loses ..)).toKeeps, .of_same⟩

theorem State.replaceAll_keeps (s : State) : s.Keeps s.replaceAll :=
  State.Keeps.foldl (fun u _ => State.Keeps.foldl (fun v g => (v.replaceGroup_keeps _ g).1) _ u) _ s

theorem State.replaceAll_samePlaces (s : State) : s.SamePlaces s.replaceAll :=
  State.SamePlaces.foldl (fun u _ => State.SamePlaces.foldl (fun v g => (v.replaceGroup_keeps _ g).2) _ u) _ s

/-! ### Leaving service (R84) -/

theorem State.noReset_of_samePlaces {s u : State} (h : s.SamePlaces u) (hs : s.noReset) : u.noReset := ⟨h.running.trans hs.1, h.pending.trans hs.2⟩

theorem State.here_of_site {s u : State} (h : u.site = s.site) : u.here = s.here := by rw [State.here, h]; rfl

theorem State.cur_of_site {s u : State} (h : u.site = s.site) : u.cur = u.cellAt s.here := by rw [State.cur, State.here_of_site h]

/-- A cell taken out of service, its group machine-checked (R84). -/
def State.takeOut (s : State) (k : Nat) : State :=
  (if (s.cellAt k).bound.isSome then s.machineCheck k 0x14 0 0 else s).modCell k (fun c => { c with oos := true })

theorem State.takeOut_goes (s : State) (k : Nat) : let u := s.takeOut k
    u.site = s.site ∧ (s.noReset → u.noReset) ∧ (u.cellAt k).oos = true ∧
    ((s.cellAt k).bound.isSome = true → (u.cellAt k).stop = some .machineCheck ∧ (u.cellAt k).bound = (s.cellAt k).bound ∧
      (NatMap.get {} u.boxes (k / 64)).frozen = true) := by
  unfold State.takeOut
  dsimp only
  rw [State.cellAt_modCell_same]
  split
  · have hcheck := s.machineCheck_samePlaces k 0x14 0 0
    exact ⟨hcheck.site, fun h => (State.noReset_of_samePlaces hcheck h :), rfl, fun _ => ⟨(s.machineCheck_stop k 0x14 0 0).2 k (.inl rfl), hcheck.bound k, s.machineCheck_frozen ..⟩⟩
  · rename_i hfree
    exact ⟨rfl, id, rfl, fun h => absurd h hfree⟩

/-- A cell that leaves service is out of service; a group that it holds is stopped by a machine check, and the box of its die freezes. -/
theorem cellLeavesService_goes {s : State} (hreset : s.noReset) : Goes .cellLeavesService s (fun u => u.cur.oos = true ∧
    (s.cur.bound.isSome = true → u.cur.stop = some .machineCheck ∧ u.cur.bound = s.cur.bound ∧ (NatMap.get {} u.boxes (s.here / 64)).frozen = true)) := by
  obtain ⟨hsite, hreset1, hoos, hheld⟩ := s.takeOut_goes s.here
  have hplace := (s.takeOut s.here).replaceAll_samePlaces
  have hkeep := (s.takeOut s.here).replaceAll_keeps.trans (State.settleLaunches_keeps _)
  have hplaces := hplace.trans (State.settleLaunches_sameGroups _).toSamePlaces
  have hsettle := State.settle_of_noReset (State.noReset_of_samePlaces hplace (hreset1 hreset))
  refine ⟨(s.takeOut s.here).replaceAll.settle, rfl, ?_⟩
  dsimp only
  rw [hsettle, State.cur_of_site (hplaces.site.trans hsite), hplaces.oos, hplaces.bound]
  refine ⟨hoos, fun h => ?_⟩
  obtain ⟨hstop, hbound, hfrozen⟩ := hheld h
  exact ⟨(hkeep.cells _).stop hstop, hbound, (hkeep.frozen _).trans hfrozen⟩

end Sys2Proof.Machine

namespace Sys2Proof.Machine

set_option Elab.async false

/-! ### The slot table (R58) -/

@[simp] theorem State.slotAt_setSlot_same (s : State) (k : Nat) (r : SlotRec) : (s.setSlot k r).slotAt k = r := NatMap.get_put_same ..

theorem State.slotAt_setSlot_other (s : State) {j k : Nat} (r : SlotRec) (h : j ≠ k) : (s.setSlot k r).slotAt j = s.slotAt j := NatMap.get_put_other _ _ _ h

theorem State.slotAt_of_slots {s u : State} (h : u.slots = s.slots) (k : Nat) : u.slotAt k = s.slotAt k := by rw [State.slotAt, State.slotAt, h]

/-! ### Decisions (R58, R59, R66, R69) -/

/-- The record that a decision writes for a group of a launch and a cell. -/
def State.recordFor (s : State) (l : Launch) (g k : Nat) : SlotRec :=
  let saved := l.saved.find? (fun x => x.group == g)
  { v := true, pre := false, rst := saved.isSome, stream := l.stream, dpri := s.dispatchPriority l, level := l.level, launch := l.key, num := l.num, group := g,
    lcb := l.lcbAddr, slot := (saved.map (fun x => l.saveArea + BitVec.ofNat 64 (x.index * 0x800000))).getD 0, binds := (s.slotAt k).binds, fresh := true }

theorem State.writeRecord_eq (s : State) (l : Launch) (g k : Nat) : s.writeRecord l g k = s.setSlot k (s.recordFor l g k) := rfl

theorem State.slotAt_writeRecord_other (s : State) (l : Launch) (g : Nat) {j k : Nat} (h : j ≠ k) : (s.writeRecord l g k).slotAt j = s.slotAt j :=
  State.slotAt_setSlot_other _ _ h

/-- A record depends on the cell's own record and on no other. -/
theorem State.recordFor_writeRecord (s : State) (l : Launch) (g g' : Nat) {j k : Nat} (h : j ≠ k) :
    (s.writeRecord l g k).recordFor l g' j = s.recordFor l g' j := by
  have hpriority : (s.writeRecord l g k).dispatchPriority l = s.dispatchPriority l := rfl
  unfold State.recordFor
  rw [hpriority, s.slotAt_writeRecord_other l g h]

/-- Records for different cells, written one after another. -/
theorem State.slotAt_writeRecords {l : Launch} {ps : List (Nat × Nat)} (hcells : (ps.map (fun p => p.2)).Nodup) (s : State) :
    (∀ p ∈ ps, (ps.foldl (fun s p => s.writeRecord l p.1 p.2) s).slotAt p.2 = s.recordFor l p.1 p.2) ∧
    (∀ k, k ∉ ps.map (fun p => p.2) → (ps.foldl (fun s p => s.writeRecord l p.1 p.2) s).slotAt k = s.slotAt k) := by
  induction ps generalizing s with
  | nil => exact ⟨nofun, fun _ _ => rfl⟩
  | cons q ps ih =>
    obtain ⟨hq, hps⟩ := List.nodup_cons.1 hcells
    obtain ⟨hin, hout⟩ := ih hps (s.writeRecord l q.1 q.2)
    refine ⟨fun p hp => ?_, fun k hk => ?_⟩
    · rw [List.foldl_cons]
      rcases List.mem_cons.1 hp with rfl | hp
      · rw [hout _ hq, State.writeRecord_eq, State.slotAt_setSlot_same]
      · have hne : p.2 ≠ q.2 := fun h => hq (List.mem_map.2 ⟨p, hp, h⟩)
        rw [hin p hp, State.recordFor_writeRecord _ _ _ _ hne]
    · rw [List.map_cons, List.mem_cons, not_or] at hk
      rw [List.foldl_cons, hout k hk.2, State.slotAt_writeRecord_other _ _ _ hk.1]

theorem exec_dispatchDecision_held {s : State} (h : s.settle.powerHold = true) : exec .dispatchDecision s = .next s.settle := by
  change execDispatchDecision s = _
  unfold execDispatchDecision
  dsimp only
  rw [if_pos h]

section
variable {s t : State} (h : s.settle.powerHold = false) (ht : s.settle.replaceHeads = t) {l : Launch}
include h ht

theorem exec_dispatchDecision_places (hbest : t.bestLaunch (fun l => !(t.planFor l).isEmpty) = some l) :
    exec .dispatchDecision s = .next ((t.planFor l).foldl (fun s p => s.writeRecord l p.1 p.2) t) := by
  change execDispatchDecision s = _
  unfold execDispatchDecision
  dsimp only
  rw [if_neg (ne_true_of_eq_false h), ht, hbest]

theorem exec_dispatchDecision_preempts (hnone : t.bestLaunch (fun l => !(t.planFor l).isEmpty) = none)
    (hbest : t.bestLaunch (fun l => t.wantsCell l && (t.victim l).isSome) = some l) {c owner i : Nat} {o : Launch}
    (hvictim : t.victim l = some (c, o, owner, i)) : exec .dispatchDecision s = .next (t.preemptFor l c o owner i) := by
  change execDispatchDecision s = _
  unfold execDispatchDecision
  dsimp only
  rw [if_neg (ne_true_of_eq_false h), ht, hnone]
  dsimp only
  rw [hbest]
  dsimp only
  rw [hvictim]

/-- Each group that is placed has its record. -/
theorem dispatchDecision_places_goes (hbest : t.bestLaunch (fun l => !(t.planFor l).isEmpty) = some l) (hcells : ((t.planFor l).map (fun p => p.2)).Nodup) :
    Goes .dispatchDecision s (fun u => ∀ p ∈ t.planFor l, u.slotAt p.2 = t.recordFor l p.1 p.2) :=
  ⟨_, exec_dispatchDecision_places h ht hbest, (t.slotAt_writeRecords hcells).1⟩

end

/-- A cell is a launch's victim only where the launch that it serves is two priorities below (R69). -/
theorem State.priority_of_victim {s : State} {l o : Launch} {c owner i : Nat} (h : s.victim l = some (c, o, owner, i)) : s.priority o + 2 ≤ s.priority l := by
  obtain ⟨k, _, hk⟩ := List.exists_of_findSome?_eq_some h
  split at hk
  · split at hk
    · rename_i hok
      obtain ⟨-, rfl, -⟩ := by simpa using hk
      simp only [Bool.and_eq_true, decide_eq_true_eq] at hok
      exact hok.1.2
    · cases hk
  · cases hk

/-- What the record says of a cell whose group is to be pre-empted for a launch. -/
theorem State.slotAt_preemptFor (s : State) (l : Launch) (k : Nat) (o : Launch) (owner i : Nat) : let y := (s.preemptFor l k o owner i).slotAt k
    y.pre = true ∧ y.v = (l.saved.isEmpty && l.heads.length == 1) ∧ (y.v = true → y.launch = l.key ∧ [y.group] = l.heads) ∧ y.fresh = true ∧ y.reason = 0 := by
  have horder (r : Nat) : (s.orderPreempt k o owner i r).slotAt k =
      { s.slotAt k with v := false, pre := true, rst := false, slot := o.saveArea + BitVec.ofNat 64 (i * 0x800000), fresh := true, reason := r } :=
    State.slotAt_setSlot_same ..
  unfold State.preemptFor
  split
  · rename_i g hheads hsaved
    dsimp only
    rw [State.slotAt_setSlot_same, hheads, hsaved, horder, State.writeRecord_eq, State.slotAt_setSlot_same]
    exact ⟨rfl, rfl, fun _ => ⟨rfl, rfl⟩, rfl, rfl⟩
  · rename_i hone
    dsimp only
    rw [horder]
    refine ⟨rfl, ?_, nofun, rfl, rfl⟩
    cases hsaved : l.saved with
    | cons x xs => rfl
    | nil =>
      have hlength : l.heads.length ≠ 1 := fun hlength => by
        obtain ⟨g, hg⟩ := List.length_eq_one_iff.1 hlength
        exact hone g hg hsaved
      simpa using hlength

/-! ### Pre-emption (R59, R260) -/

theorem State.withdraw_only (s : State) (k : Nat) : (s.withdraw k).site = s.site ∧ (s.withdraw k).mem = s.mem ∧
    ((s.withdraw k).cellAt k).bound = (s.cellAt k).bound := by
  unfold State.withdraw
  split
  · exact ⟨rfl, rfl, by rw [State.cellAt_modCell_same]⟩
  · split
    · exact ⟨rfl, rfl, by rw [State.cellAt_modLaunch, State.cellAt_modCell_same]⟩
    · exact ⟨rfl, rfl, rfl⟩
  · exact ⟨rfl, rfl, rfl⟩

theorem preEmption_goes {s : State} (hfresh : (s.slotAt s.here).fresh = true) (hpre : (s.slotAt s.here).pre = true) (hbound : s.cur.bound.isSome = true) :
    Goes .preEmption s (fun u => u.cur.stop = s.cur.stop.or (some .preempt) ∧ u.cur.bound = s.cur.bound ∧ u.mem = s.mem) := by
  have hexec : exec .preEmption s = .next (s.stopForPreempt s.here) := by
    change execPreEmption s = _
    unfold execPreEmption
    exact if_pos (by rw [hfresh, hpre, show (s.cellAt s.here).bound.isSome = true from hbound]; rfl)
  refine ⟨_, hexec, ?_⟩
  unfold State.stopForPreempt
  by_cases hstop : (s.cellAt s.here).stop = none
  · obtain ⟨hsite, hmem, hkept⟩ := s.withdraw_only s.here
    simp only [hstop, Option.isNone_none, if_true]
    rw [State.cur_of_site (u := State.modCell _ _ _) (s := s) hsite, State.cellAt_modCell_same]
    exact ⟨by rw [State.cur, hstop]; rfl, hkept, hmem⟩
  · obtain ⟨x, hx⟩ := Option.ne_none_iff_exists'.1 hstop
    simp only [hx, Option.isNone_some, Bool.false_eq_true, if_false]
    exact ⟨by rw [State.cur, hx]; rfl, trivial, trivial⟩

end Sys2Proof.Machine

namespace Sys2Proof.Machine

set_option Elab.async false

/-! ### A group leaves its cell (R56, R71, R78, R260) -/

theorem mem_insertBy {α : Type} (le : α → α → Bool) (x y : α) (l : List α) : y ∈ insertBy le x l ↔ y = x ∨ y ∈ l := by
  induction l with
  | nil => simp [insertBy]
  | cons a l ih =>
    unfold insertBy
    split
    · simp
    · simp [ih, or_left_comm]

theorem mem_sortBy {α : Type} (le : α → α → Bool) (x : α) (l : List α) : x ∈ sortBy le l ↔ x ∈ l := by
  induction l with
  | nil => rfl
  | cons a l ih => rw [sortBy, List.foldr_cons, mem_insertBy, List.mem_cons]; exact or_congr_right ih

/-- Where one element alone satisfies p, it is the one that `modFirst` changes. -/
theorem eq_of_mem_modFirst {α : Type} {p : α → Bool} {f : α → α} {x y : α} {l : List α} (h : l.find? p = some x) (hone : l.countP p = 1)
    (hy : y ∈ modFirst p f l) (hp : p y = true) : y = f x := by
  induction l with
  | nil => cases h
  | cons a l ih =>
    by_cases ha : p a = true
    · obtain rfl : a = x := by simpa [ha] using h
      rw [List.countP_cons_of_pos ha] at hone
      have hnone := List.countP_eq_zero.1 (Nat.succ.inj hone)
      simp only [modFirst, ha, if_true, List.mem_cons] at hy
      exact hy.elim id fun hy => absurd hp (hnone y hy)
    · rw [List.countP_cons_of_neg ha] at hone
      simp only [modFirst, ha, Bool.false_eq_true, if_false, List.mem_cons] at hy
      refine hy.elim (fun hya => absurd (hya ▸ hp) ha) fun hy => ih (by simpa [ha] using h) hone hy

/-- A cell gives up its lease and its group, whose writes wait (R78, R187). -/
def State.leave (s : State) (k key g : Nat) : State := ((s.dropLease k).park k key g).unbind k

theorem State.leave_sameTables (s : State) (k key g : Nat) : s.SameTables (s.leave k key g) :=
  ((s.dropLease_sameTables k).trans (State.park_sameTables ..)).trans .of_same

theorem State.leave_free (s : State) (k key g : Nat) : ((s.leave k key g).cellAt k).bound = none ∧ ((s.leave k key g).cellAt k).stop = none := by
  unfold State.leave State.unbind
  rw [State.cellAt_modCell_same]
  exact ⟨rfl, rfl⟩

theorem State.launch?_modLaunch {s : State} {key : Nat} {l : Launch} {f : Launch → Launch} (h : s.launch? key = some l) (hf : (f l).key = l.key) :
    (s.modLaunch key f).launch? key = some (f l) :=
  find?_modFirst h (by rw [hf]; exact List.find?_some (p := fun o : Launch => o.key == key) h)

theorem State.BarriersOnly.sameGroups {s u : State} (h : s.BarriersOnly u) : s.SameGroups u :=
  .of_same (h.same State.site) (h.same State.cycle) (h.same State.slots) (h.same State.running) (h.same State.pending) (h.same State.cells) (h.same State.launches)

/-- What ends every event of a group: barriers and launches settled. -/
theorem State.settleAll_sameGroups {s : State} (h : s.noReset) : s.SameGroups s.settleBarriers.settle := by
  have hbarriers := s.settleBarriers_only.sameGroups
  rw [State.settle_of_noReset (State.noReset_of_samePlaces hbarriers.toSamePlaces h)]
  exact hbarriers.trans (State.settleLaunches_sameGroups _)

/-! ### The end of a group (R56) -/

/-- A launch of which a group has ended. -/
def Launch.ends (l : Launch) (g cycle : Nat) : Launch := { l with bound := l.bound.filter (fun e => e.1 != g), ended := l.ended ++ [g], lastEnd := cycle }

/-- The record of a cell whose group has ended: a successor stays, a slot that was taken for a save is free. -/
def SlotRec.after (r : SlotRec) : SlotRec := if r.v && r.fresh then { r with pre := false, slot := if r.pre then 0 else r.slot } else { binds := r.binds }

/-- A save slot that was taken for a group that has ended is free again. -/
def State.freeTaken (s : State) (k : Nat) (l : Launch) : State := if (s.slotAt k).pre then s.freeSlotOf l (s.slotAt k).slot else s

theorem State.freeTaken_sameTables (s : State) (k : Nat) (l : Launch) : s.SameTables (s.freeTaken k l) := by
  unfold State.freeTaken
  split
  · exact State.freeSlotOf_sameTables ..
  · exact .refl s

/-- The state at the end of a group, before barriers and launches are settled. -/
def State.endGroup (s : State) (k : Nat) (b : Bound) (l : Launch) : State :=
  let s1 := (s.chargeCell k).writePath l.region
  (((s1.freeTaken k l).setSlot k (s1.slotAt k).after).leave k l.key b.group).modLaunch l.key (fun o => o.ends b.group s.cycle)

/-- What the tables hold when a group has left its cell k, whose record is y: of launch and cell nothing else matters. -/
structure State.Left (s u : State) (k : Nat) (y : SlotRec) (key : Nat) (f : Launch → Launch) : Prop where
  site : u.site = s.site
  running : u.running = s.running
  pending : u.pending = s.pending
  slot : u.slotAt k = y
  launches : u.launches = modFirst (fun o => o.key == key) f s.launches
  bound : (u.cellAt k).bound = none
  stop : (u.cellAt k).stop = none

theorem State.leave_left (s : State) (k key g : Nat) (f : Launch → Launch) : s.Left ((s.leave k key g).modLaunch key f) k (s.slotAt k) key f := by
  have hleave := s.leave_sameTables k key g
  have hfree := s.leave_free k key g
  generalize s.leave k key g = u at hleave hfree
  exact ⟨hleave.site, hleave.running, hleave.pending, State.slotAt_of_slots hleave.slots k, congrArg (modFirst _ _) hleave.launches, hfree.1, hfree.2⟩

theorem State.Left.after {s t u : State} {k key : Nat} {y : SlotRec} {f : Launch → Launch} (h : t.Left u k y key f) (ht : s.SameTables t) : s.Left u k y key f :=
  { h with
    site := h.site.trans ht.site
    running := h.running.trans ht.running
    pending := h.pending.trans ht.pending
    launches := by rw [h.launches, ht.launches] }

/-- The same with the cell's record written at the start. -/
theorem State.setSlot_leave_left (s : State) (k key g : Nat) (y : SlotRec) (f : Launch → Launch) :
    s.Left (((s.setSlot k y).leave k key g).modLaunch key f) k y key f := by
  have h := (s.setSlot k y).leave_left k key g f
  rw [State.slotAt_setSlot_same] at h
  exact ⟨h.site, h.running, h.pending, h.slot, h.launches, h.bound, h.stop⟩

theorem State.endGroup_left (s : State) (k : Nat) (b : Bound) (l : Launch) :
    s.Left (s.endGroup k b l) k (s.slotAt k).after l.key (fun o => o.ends b.group s.cycle) := by
  have h1 : s.SameTables ((s.chargeCell k).writePath l.region) := (s.chargeCell_sameTables k).trans (State.writePath_accessOnly ..).sameTables
  unfold State.endGroup
  generalize (s.chargeCell k).writePath l.region = t at h1
  rw [← State.slotAt_of_slots h1.slots k]
  dsimp only
  exact (State.setSlot_leave_left ..).after (h1.trans (t.freeTaken_sameTables k l))

theorem State.setSlot_after {s : State} {k : Nat} {r : SlotRec} (h : s.slotAt k = r) :
    (if r.v && r.fresh then s.setSlot k { r with pre := false, slot := if r.pre then 0 else r.slot } else s.clearSlot k) = s.setSlot k r.after := by
  unfold SlotRec.after State.clearSlot
  rw [h]
  split
  · rfl
  · rfl

theorem exec_groupEnd {s : State} {b : Bound} {l : Launch} (hb : s.cur.bound = some b) (hl : s.launch? b.launch = some l) (hover : s.groupOver s.here = true) :
    exec .groupEnd s = .next (s.endGroup s.here b l).settleBarriers.settle := by
  have hslot (t : State) : (t.freeTaken s.here l).slotAt s.here = t.slotAt s.here := State.slotAt_of_slots (t.freeTaken_sameTables s.here l).slots _
  change execGroupEnd s = _
  unfold execGroupEnd
  dsimp only
  rw [show (s.cellAt s.here).bound = some b from hb]
  dsimp only
  rw [if_neg (by rw [hover]; decide), hl]
  dsimp only
  unfold State.endGroup
  generalize (s.chargeCell s.here).writePath l.region = t
  dsimp only
  rw [← State.setSlot_after (hslot t)]
  rfl

/-- A group that is over leaves its cell free, and its launch counts it as ended. -/
theorem groupEnd_goes {s : State} {b : Bound} {l : Launch} (hb : s.cur.bound = some b) (hl : s.launch? b.launch = some l) (hreset : s.noReset)
    (hover : s.groupOver s.here = true) : Goes .groupEnd s (fun u => let r := s.slotAt s.here
    u.cur.bound = none ∧ u.cur.stop = none ∧ (u.slotAt s.here).v = (r.v && r.fresh) ∧ (u.slotAt s.here).pre = false ∧ (u.slotAt s.here).binds = r.binds ∧
    (∀ o ∈ u.launches, o.key = b.launch → s.launches.countP (fun y => y.key == b.launch) = 1 →
      b.group ∈ o.ended ∧ (o.bound.any (fun e => e.1 == b.group)) = false ∧ o.lastEnd = s.cycle)) := by
  refine ⟨_, exec_groupEnd hb hl hover, ?_⟩
  have hleft := s.endGroup_left s.here b l
  have hsame := State.settleAll_sameGroups (s := s.endGroup s.here b l) ⟨hleft.running.trans hreset.1, hleft.pending.trans hreset.2⟩
  have hkey : l.key = b.launch := by simpa using List.find?_some (p := fun o : Launch => o.key == b.launch) hl
  generalize (s.endGroup s.here b l).settleBarriers.settle = u at hsame
  have hslot := (State.slotAt_of_slots hsame.slots s.here).trans hleft.slot
  dsimp only
  rw [State.cur_of_site (hsame.site.trans hleft.site), hsame.bound, hsame.stop, hslot]
  refine ⟨hleft.bound, hleft.stop, ?_, ?_, ?_, fun o ho hok hone => ?_⟩
  · unfold SlotRec.after
    split
    · rename_i h
      rw [h]
      exact (Bool.and_eq_true_iff.1 h).1
    · rename_i h
      exact (Bool.eq_false_iff.2 h).symm
  · unfold SlotRec.after
    split <;> rfl
  · unfold SlotRec.after
    split <;> rfl
  · obtain ⟨l', hl', c, rfl⟩ := hsame.launches o ho
    rw [hleft.launches, hkey] at hl'
    obtain rfl := eq_of_mem_modFirst hl hone hl' (beq_iff_eq.2 hok)
    exact ⟨by simp [Launch.ends], by simp [Launch.ends], rfl⟩

/-! ### A save (R71, R260) -/

/-- A launch of which a group has been saved. -/
def Launch.saves (l : Launch) (g : Nat) (x : Saved) (cycle : Nat) : Launch :=
  l.waitsFrom { l with bound := l.bound.filter (fun e => e.1 != g), saved := sortBy (fun a b => decide (a.group ≤ b.group)) (l.saved ++ [x]) } cycle

theorem Launch.saves_fields (l : Launch) (g : Nat) (x : Saved) (cycle : Nat) : (l.saves g x cycle).key = l.key ∧
    (l.saves g x cycle).bound = l.bound.filter (fun e => e.1 != g) ∧
    (l.saves g x cycle).saved = sortBy (fun a b => decide (a.group ≤ b.group)) (l.saved ++ [x]) := by
  unfold Launch.saves Launch.waitsFrom
  split
  · exact ⟨rfl, rfl, rfl⟩
  · exact ⟨rfl, rfl, rfl⟩

/-- The record of a cell whose group has been saved: a successor stays. -/
def SlotRec.saved (r : SlotRec) : SlotRec := if r.v then { r with pre := false, tryAt := none } else { binds := r.binds }

/-- The state in which a saved group, whose parts stand in the slot, has left its cell. -/
def State.leaveSaved (s s1 : State) (k : Nat) (b : Bound) (l : Launch) : State :=
  let s2 := (({ s1 with free := s1.free + 2 ^ 26 } : State).bboxCell k 0x0C 0 (s.slotAt k).slot
    (BitVec.ofNat 64 (0x1000 + partsBytes (s.slotParts k)))).chargeCell k
  (s2.leave k l.key b.group).modLaunch l.key (fun o => o.saves b.group (s.savedGroup k l b.group (s.slotAt k).slot) s.cycle)

/-- The state at the end of a save, before barriers and launches are settled. -/
def State.endSave (s s1 : State) (k : Nat) (b : Bound) (l : Launch) : State := (s.leaveSaved s1 k b l).setSlot k (s.slotAt k).saved

theorem State.Left.setSlot {s u : State} {k key : Nat} {y : SlotRec} {f : Launch → Launch} (h : s.Left u k y key f) (y' : SlotRec) :
    s.Left (u.setSlot k y') k y' key f := ⟨h.site, h.running, h.pending, State.slotAt_setSlot_same .., h.launches, h.bound, h.stop⟩

theorem State.leaveSaved_left {s s1 : State} (h1 : s.SameTables s1) (k : Nat) (b : Bound) (l : Launch) :
    s.Left (s.leaveSaved s1 k b l) k (s.slotAt k) l.key (fun o => o.saves b.group (s.savedGroup k l b.group (s.slotAt k).slot) s.cycle) := by
  have h2 : s.SameTables ((({ s1 with free := s1.free + 2 ^ 26 } : State).bboxCell k 0x0C 0 (s.slotAt k).slot
      (BitVec.ofNat 64 (0x1000 + partsBytes (s.slotParts k)))).chargeCell k) := (h1.trans .of_same).trans (State.chargeCell_sameTables ..)
  have hleft := (State.leave_left _ k l.key b.group (fun o => o.saves b.group (s.savedGroup k l b.group (s.slotAt k).slot) s.cycle)).after h2
  exact { hleft with slot := hleft.slot.trans (State.slotAt_of_slots h2.slots k) }

theorem State.endSave_left {s s1 : State} (h1 : s.SameTables s1) (k : Nat) (b : Bound) (l : Launch) :
    s.Left (s.endSave s1 k b l) k (s.slotAt k).saved l.key (fun o => o.saves b.group (s.savedGroup k l b.group (s.slotAt k).slot) s.cycle) :=
  (State.leaveSaved_left h1 k b l).setSlot _

theorem State.setSlot_saved {s : State} {k : Nat} {r : SlotRec} (h : s.slotAt k = r) :
    (if r.v then s.setSlot k { r with pre := false, tryAt := none } else s.clearSlot k) = s.setSlot k r.saved := by
  unfold SlotRec.saved State.clearSlot
  rw [h]
  split
  · rfl
  · rfl

theorem exec_contextSave {s s1 : State} {b : Bound} {l : Launch} (hb : s.cur.bound = some b) (hl : s.launch? b.launch = some l)
    (hpre : (s.slotAt s.here).pre = true) (hstop : s.cur.stop = some .preempt) (hmay : s.maySave s.here = true)
    (hparts : s.writeParts ((s.slotAt s.here).tryAt.getD s.cycle) (s.slotAt s.here).slot
      ((0, s.slotHeader s.here l b.group (s.slotAt s.here).reason (0x1000 + partsBytes (s.slotParts s.here))) :: s.slotParts s.here) = some s1) :
    exec .contextSave s = .next (s.endSave s1 s.here b l).settleBarriers.settle := by
  change execContextSave s = _
  unfold execContextSave
  dsimp only
  rw [show (s.cellAt s.here).bound = some b from hb]
  dsimp only
  rw [hl]
  dsimp only
  rw [if_neg (by rw [hpre, show (s.cellAt s.here).stop = some .preempt from hstop, hmay]; decide), hparts]
  dsimp only
  have hleft := State.leaveSaved_left (State.writeParts_accessOnly hparts).sameTables s.here b l
  exact congrArg (fun t : State => Host.Outcome.next t.settleBarriers.settle) (State.setSlot_saved hleft.slot)

/-- A save leaves the cell free, and the group among the saved ones of its launch. -/
theorem contextSave_goes {s s1 : State} {b : Bound} {l : Launch} (hb : s.cur.bound = some b) (hl : s.launch? b.launch = some l) (hreset : s.noReset)
    (hpre : (s.slotAt s.here).pre = true) (hstop : s.cur.stop = some .preempt) (hmay : s.maySave s.here = true)
    (hparts : s.writeParts ((s.slotAt s.here).tryAt.getD s.cycle) (s.slotAt s.here).slot
      ((0, s.slotHeader s.here l b.group (s.slotAt s.here).reason (0x1000 + partsBytes (s.slotParts s.here))) :: s.slotParts s.here) = some s1) :
    Goes .contextSave s (fun u => u.cur.bound = none ∧ u.cur.stop = none ∧ (u.slotAt s.here).pre = false ∧
      ((u.launch? b.launch).any (fun o => o.saved.any (fun x => x.group == b.group) && !(o.bound.any (fun e => e.1 == b.group)))) = true) := by
  refine ⟨_, exec_contextSave hb hl hpre hstop hmay hparts, ?_⟩
  have hleft := State.endSave_left (State.writeParts_accessOnly hparts).sameTables s.here b l
  have hsame := State.settleAll_sameGroups (s := s.endSave s1 s.here b l) ⟨hleft.running.trans hreset.1, hleft.pending.trans hreset.2⟩
  have hkey : l.key = b.launch := by simpa using List.find?_some (p := fun o : Launch => o.key == b.launch) hl
  obtain ⟨hkeep, hbound, hsaved⟩ := l.saves_fields b.group (s.savedGroup s.here l b.group (s.slotAt s.here).slot) s.cycle
  have hgroup : s.savedGroup s.here l b.group (s.slotAt s.here).slot ∈ (l.saves b.group (s.savedGroup s.here l b.group (s.slotAt s.here).slot) s.cycle).saved := by
    rw [hsaved, mem_sortBy]
    simp
  have hlaunch : (s.endSave s1 s.here b l).launch? b.launch = some (l.saves b.group (s.savedGroup s.here l b.group (s.slotAt s.here).slot) s.cycle) := by
    rw [State.launch?, hleft.launches, hkey]
    exact State.launch?_modLaunch hl hkeep
  obtain ⟨c, hc⟩ := hsame.stays _ _ hlaunch (.inr (List.ne_nil_of_mem hgroup))
  generalize (s.endSave s1 s.here b l).settleBarriers.settle = u at hsame hc
  dsimp only
  rw [State.cur_of_site (hsame.site.trans hleft.site), hsame.bound, hsame.stop, State.slotAt_of_slots hsame.slots, hleft.slot, hc]
  refine ⟨hleft.bound, hleft.stop, ?_, ?_⟩
  · unfold SlotRec.saved
    split <;> rfl
  · have hin : (l.saves b.group (s.savedGroup s.here l b.group (s.slotAt s.here).slot) s.cycle).saved.any (fun x => x.group == b.group) = true :=
      List.any_eq_true.2 ⟨_, hgroup, beq_self_eq_true b.group⟩
    simp only [Option.any_some, hin, hbound]
    simp

end Sys2Proof.Machine

namespace Sys2Proof.Machine

set_option Elab.async false

/-! ### A bind (R54, R55, R259) -/

/-- A group entered in its cell, its record and its launch, before the images are read. -/
def State.enterGroup (s : State) (k : Nat) (l : Launch) (g : Nat) : State :=
  let s0 := if l.level = 2 && l.firstBind.isNone then s.settleBarriers.clearTlbs l else s.settleBarriers
  let keep := l.keep && decide ((s0.cellAt k).lastStream = some l.stream)
  let s1 := if keep then s0 else s0.zeroStores k
  let s2 := s1.modCell k (fun c => { c.hygiene keep with bound := some ⟨l.key, g, l.level, l.stream⟩, lastStream := some l.stream, chargedAt := s.cycle })
  let s3 := s2.setSlot k { s2.slotAt k with fresh := false, tryAt := none, binds := (s2.slotAt k).binds + 1 }
  s3.modLaunch l.key (fun l => l.binds g k s.cycle)

/-- A cell holds a group afresh, and its record has been taken. -/
structure State.Entered (s u : State) (k : Nat) (l : Launch) (g : Nat) : Prop where
  site : u.site = s.site
  slot : u.slotAt k = { s.slotAt k with fresh := false, tryAt := none, binds := (s.slotAt k).binds + 1 }
  bound : (u.cellAt k).bound = some ⟨l.key, g, l.level, l.stream⟩
  stop : (u.cellAt k).stop = none
  tin : (u.cellAt k).tin = false

theorem State.enterGroup_entered (s : State) (k : Nat) (l : Launch) (g : Nat) : s.Entered (s.enterGroup k l g) k l g := by
  unfold State.enterGroup
  extract_lets s0 keep s1 s2 s3
  have h0 : s.SameTables s0 := by
    unfold s0
    split
    · exact s.settleBarriers_only.sameTables.trans .of_same
    · exact s.settleBarriers_only.sameTables
  have h1 : s.SameTables s1 := by
    unfold s1
    split
    · exact h0
    · exact h0.trans .of_same
  have h2 : s.SameTables s2 := h1.trans .of_same
  have hcell : s2.cellAt k = { (s1.cellAt k).hygiene keep with bound := some ⟨l.key, g, l.level, l.stream⟩, lastStream := some l.stream, chargedAt := s.cycle } :=
    State.cellAt_modCell_same ..
  refine ⟨h2.site, ?_, ?_, ?_, ?_⟩
  · rw [← State.slotAt_of_slots h2.slots k]
    exact State.slotAt_setSlot_same ..
  · exact congrArg (fun c : Cell => c.bound) hcell
  · exact congrArg (fun c : Cell => c.stop) hcell
  · exact congrArg (fun c : Cell => c.tin) hcell

theorem State.Entered.access {s u v : State} {k g : Nat} {l : Launch} (h : s.Entered u k l g) (hv : u.AccessOnly v) : s.Entered v k l g := by
  obtain ⟨b, t, hcell⟩ := hv.cells k
  exact ⟨(hv.same State.site).trans h.site, (hv.same (fun x => x.slotAt k)).trans h.slot, by rw [hcell]; exact h.bound, by rw [hcell]; exact h.stop,
    by rw [hcell]; exact h.tin⟩

/-- A group whose images have been read is entered, and its cell loaded. -/
theorem State.bindGroup_loads {s : State} {k : Nat} {l : Launch} {g : Nat} (h : (s.bindGroup k l g).2 = true) :
    ∃ u imgs, (s.bindGroup k l g).1 = u.modCell k (fun c => c.load l g imgs) ∧ s.Entered u k l g := by
  have hload := (s.enterGroup_entered k l g).access (State.loadAll_accessOnly k (lcbRanges l.lcb) _)
  have heq : s.bindGroup k l g = match (s.enterGroup k l g).loadAll k (lcbRanges l.lcb) with
    | (s5, .error (cause, va)) => (s5.unhandled k ⟨cause, false, allOnes, .K, va⟩, false)
    | (s5, .ok imgs) => (s5.modCell k (fun c => c.load l g imgs), true) := rfl
  rw [heq] at h ⊢
  generalize (s.enterGroup k l g).loadAll k (lcbRanges l.lcb) = x at h hload
  obtain ⟨u, y⟩ := x
  cases y with
  | error e => cases h
  | ok imgs => exact ⟨u, imgs, rfl, hload⟩

/-! ### A cell with its images loaded (R54) -/

theorem Cell.load_seq (c : Cell) (l : Launch) (g : Nat) (imgs : List (List Byte)) (q : SeqId) : ∃ sect n stage, (c.load l g imgs).seq q =
    Seq.start sect (lcbCode l.lcb q.num) n stage (l.word 3 &&& 0xFFFFFFFFFFFFF) (BitVec.ofNat 64 g) (BitVec.ofNat 64 l.groups) := by
  cases q <;> exact ⟨_, _, _, rfl⟩

theorem Seq.greg_start (sect : List Byte) (m n : Nat) (stage : NatMap Word) (a g c : Word) : let x := Seq.start sect m n stage a g c
    x.greg 1 = a ∧ x.greg 2 = g ∧ x.greg 3 = c ∧ ∀ i, 4 ≤ i → x.greg i = 0 := by
  have hput : (Seq.start sect m n stage a g c).g = NatMap.put 0 (NatMap.put 0 (NatMap.put 0 [] 1 a) 2 g) 3 c := rfl
  unfold Seq.greg
  dsimp only
  rw [hput]
  refine ⟨?_, ?_, ?_, fun i hi => ?_⟩
  · rw [if_neg (by decide), NatMap.get_put_other _ _ _ (by decide), NatMap.get_put_other _ _ _ (by decide), NatMap.get_put_same]
  · rw [if_neg (by decide), NatMap.get_put_other _ _ _ (by decide), NatMap.get_put_same]
  · rw [if_neg (by decide), NatMap.get_put_same]
  · rw [if_neg (by omega), NatMap.get_put_other _ _ _ (by omega), NatMap.get_put_other _ _ _ (by omega), NatMap.get_put_other _ _ _ (by omega)]
    rfl

/-- LEASEMAX of a group: byte 0 of LCB word 12, 64 where that is 0. -/
theorem leasemax_eq (w : Word) :
    (if bits w 7 0 = 0 then 64 else BitVec.ofNat 8 (bits w 7 0)) = if w.toNat % 256 = 0 then (64 : BitVec 8) else w.truncate 8 := by
  have hbits : bits w 7 0 = w.toNat % 256 := rfl
  have hbyte : BitVec.ofNat 8 (w.toNat % 256) = w.truncate 8 := by
    apply BitVec.eq_of_toNat_eq
    simp
  rw [hbits, hbyte]

/-- The record of the cell of the step names a group that may bind there. -/
structure State.MayBind (s : State) (l : Launch) : Prop where
  fresh : (s.slotAt s.here).fresh = true
  v : (s.slotAt s.here).v = true
  pre : (s.slotAt s.here).pre = false
  free : s.cur.bound = none
  launch : s.launch? (s.slotAt s.here).launch = some l
  status : l.status = .running
  fit : s.recordsFit l = true

theorem exec_bind {s : State} {l : Launch} (h : s.MayBind l) (hrst : (s.slotAt s.here).rst = false)
    (htry : s.rangesTrying s.here (s.here / 64) ((s.slotAt s.here).tryAt.getD s.cycle) (lcbRanges l.lcb) = false) (hlevel : l.level ≠ 2 ∨ l.next ≠ 0)
    (hgroup : (s.slotAt s.here).group = l.next) :
    exec .bind s = .next (s.bindGroup s.here l (s.slotAt s.here).group).1.settleBarriers := by
  change execBind s = _
  unfold execBind
  dsimp only
  rw [if_neg (by rw [h.fresh, h.v, hrst, h.pre, show (s.cellAt s.here).bound = none from h.free]; decide), h.launch]
  dsimp only
  rw [if_neg (by simp [h.status, h.fit]), if_neg (ne_true_of_eq_false htry), if_neg (by simpa [or_iff_not_imp_left] using hlevel), if_neg (not_not_intro hgroup)]

theorem bind_goes {s : State} {l : Launch} (h : s.MayBind l) (hrst : (s.slotAt s.here).rst = false)
    (htry : s.rangesTrying s.here (s.here / 64) ((s.slotAt s.here).tryAt.getD s.cycle) (lcbRanges l.lcb) = false) (hlevel : l.level ≠ 2 ∨ l.next ≠ 0)
    (hgroup : (s.slotAt s.here).group = l.next) (hloads : (s.bindGroup s.here l (s.slotAt s.here).group).2 = true) :
    Goes .bind s (fun u => let r := s.slotAt s.here
      u.cur.bound = some ⟨l.key, r.group, l.level, l.stream⟩ ∧ u.cur.stop = none ∧ u.cur.tin = false ∧
      u.cur.srseed = jmix64 l.seed (BitVec.ofNat 64 r.group) ∧
      u.cur.leasemax = (if (l.word 12).toNat % 256 = 0 then 64 else (l.word 12).truncate 8) ∧
      (u.slotAt s.here).fresh = false ∧ (u.slotAt s.here).binds = r.binds + 1 ∧
      ∀ q ∈ allSeqs, let x := u.cur.seq q
        x.pc = 0 ∧ x.greg 1 = l.word 3 &&& 0xFFFFFFFFFFFFF ∧ x.greg 2 = BitVec.ofNat 64 r.group ∧ x.greg 3 = BitVec.ofNat 64 l.groups ∧
        (∀ i, i < 24 → 4 ≤ i → x.greg i = 0) ∧ x.slots = [] ∧ x.codeLen = lcbCode l.lcb q.num ∧ x.ended = decide (x.codeLen = 0)) := by
  refine ⟨_, exec_bind h hrst htry hlevel hgroup, ?_⟩
  obtain ⟨u, imgs, hu, hin⟩ := State.bindGroup_loads hloads
  have hbarriers := (u.modCell s.here (fun c => c.load l (s.slotAt s.here).group imgs)).settleBarriers_only
  rw [← hu] at hbarriers
  have hcur : (s.bindGroup s.here l (s.slotAt s.here).group).1.settleBarriers.cur = (u.cellAt s.here).load l (s.slotAt s.here).group imgs := by
    rw [hbarriers.same State.cur, hu, State.cur_of_site (u := State.modCell ..) hin.site, State.cellAt_modCell_same]
  have hslot : (s.bindGroup s.here l (s.slotAt s.here).group).1.settleBarriers.slotAt s.here = _ :=
    (hbarriers.same (fun x => x.slotAt s.here)).trans (congrArg (fun x : State => x.slotAt s.here) hu) |>.trans hin.slot
  dsimp only
  rw [hcur, hslot]
  refine ⟨hin.bound, hin.stop, hin.tin, rfl, leasemax_eq (l.word 12), rfl, rfl, fun q _ => ?_⟩
  obtain ⟨sect, n, stage, hseq⟩ := (u.cellAt s.here).load_seq l (s.slotAt s.here).group imgs q
  rw [hseq]
  obtain ⟨h1, h2, h3, hzero⟩ := Seq.greg_start sect (lcbCode l.lcb q.num) n stage (l.word 3 &&& 0xFFFFFFFFFFFFF) (BitVec.ofNat 64 (s.slotAt s.here).group)
    (BitVec.ofNat 64 l.groups)
  exact ⟨rfl, h1, h2, h3, fun i _ hi => hzero i hi, rfl, rfl, rfl⟩

end Sys2Proof.Machine

namespace Sys2Proof.Machine

set_option Elab.async false

/-! ### What a restore leaves of a cell's place (R261) -/

/-- A cell holds the group that it held, and is in service or out of it as it was. -/
structure Cell.SamePlace (c d : Cell) : Prop where
  bound : d.bound = c.bound
  oos : d.oos = c.oos

theorem Cell.SamePlace.refl (c : Cell) : c.SamePlace c := ⟨rfl, rfl⟩

theorem Cell.SamePlace.trans {a b c : Cell} (h : a.SamePlace b) (h' : b.SamePlace c) : a.SamePlace c := ⟨h'.bound.trans h.bound, h'.oos.trans h.oos⟩

theorem Cell.SamePlace.foldl {α : Type} {f : Cell → α → Cell} (h : ∀ (c : Cell) x, c.SamePlace (f c x)) (l : List α) (c : Cell) : c.SamePlace (l.foldl f c) :=
  List.foldlRecOn l f (.refl c) fun d hd x _ => hd.trans (h d x)

theorem Cell.SamePlace.modSeq (c : Cell) (q : SeqId) (f : Seq → Seq) : c.SamePlace (c.modSeq q f) := ⟨c.modSeq_bound q f, c.modSeq_oos q f⟩

theorem sysWrite_samePlace (c : Cell) (q : SeqId) (off : Nat) (v : Word) : c.SamePlace (sysWrite c q off v) := by
  unfold sysWrite
  split
  case h_12 => exact .modSeq ..
  case h_20 => exact .modSeq ..
  all_goals exact ⟨rfl, rfl⟩

theorem Cell.ssPutSeq_samePlace (c : Cell) (q : SeqId) (off : Nat) (v : Word) : c.SamePlace (c.ssPutSeq q off v) := by
  unfold Cell.ssPutSeq
  dsimp only
  split
  · split
    · exact sysWrite_samePlace ..
    · exact .refl c
  · split
    · split
      · exact ⟨rfl, rfl⟩
      · exact .refl c
    · exact .modSeq ..

theorem Cell.learn_samePlace (c : Cell) (q : SeqId) (l : List (NatMap Nat)) : c.SamePlace (c.learn q l) := by
  unfold Cell.learn
  split
  · exact .refl c
  · exact ⟨rfl, rfl⟩

theorem Cell.setQueue_samePlace (c : Cell) (n : Nat) (l : List Word) : c.SamePlace (c.setQueue n l) := (c.learn_samePlace ..).trans ⟨rfl, rfl⟩

theorem Cell.ssPutQueues_samePlace (c : Cell) (q : SeqId) (off : Nat) (ws : List Word) : c.SamePlace (c.ssPutQueues q off ws) :=
  Cell.SamePlace.foldl (fun d n => by
    dsimp only
    split
    · exact (d.setQueue_samePlace ..).trans ⟨rfl, rfl⟩
    · exact .refl d) _ c

theorem Cell.ssPut_samePlace (c : Cell) (blk off : Nat) (v : Word) : c.SamePlace (c.ssPut blk off v) := by
  unfold Cell.ssPut
  split
  case h_1 =>
    split
    · exact ⟨rfl, rfl⟩
    · split
      · exact .modSeq ..
      · exact .refl c
  case h_4 =>
    split
    · exact ⟨rfl, rfl⟩
    · split
      · extract_lets n
        split
        · exact .refl c
        · exact ⟨rfl, rfl⟩
      · exact .refl c
  all_goals
    repeat' split
    all_goals exact ⟨rfl, rfl⟩

theorem Cell.ssPutStack_samePlace (c : Cell) (off : Nat) (ws : List Word) : c.SamePlace (c.ssPutStack off ws) := by
  unfold Cell.ssPutStack
  split
  · exact ⟨rfl, rfl⟩
  · exact .refl c

theorem Cell.ssPutVq_samePlace (c : Cell) (off : Nat) (ws : List Word) : c.SamePlace (c.ssPutVq off ws) :=
  Cell.SamePlace.foldl (fun d n => by
    dsimp only
    split
    · exact ⟨rfl, rfl⟩
    · exact .refl d) _ c

theorem State.modCell_samePlaces_of (s : State) (k : Nat) {f : Cell → Cell} (h : ∀ c : Cell, c.SamePlace (f c)) : s.SamePlaces (s.modCell k f) :=
  s.modCell_samePlaces k f (fun c => (h c).bound) fun c => (h c).oos

theorem State.AccessOnly.samePlaces {s u : State} (h : s.AccessOnly u) : s.SamePlaces u where
  site := h.same State.site
  cycle := h.same State.cycle
  slots := h.same State.slots
  running := h.same State.running
  pending := h.same State.pending
  bound k := by
    obtain ⟨b, t, hcell⟩ := h.cells k
    rw [hcell]
  oos k := by
    obtain ⟨b, t, hcell⟩ := h.cells k
    rw [hcell]

theorem State.eachWord_accessOnly {f : State → Nat → List Byte → Held → State × WriteRes} (hf : ∀ s pa bs h, State.AccessOnly s (f s pa bs h).1) (at' : Nat → Nat)
    (off : Nat) (l : List (Word × Nat)) (s : State) : s.AccessOnly (State.eachWord f at' off s l) := by
  induction l generalizing s with
  | nil => exact .refl s
  | cons x l ih => exact (hf ..).trans (ih _)

theorem State.ssWriteCell_samePlaces (s : State) (k blk off : Nat) (ws : List Word) : s.SamePlaces (s.ssWriteCell k blk off ws) := by
  by_cases hsp : blk = 7
  · subst hsp
    rw [State.ssWriteCell_scratchpad]
    exact (State.eachWord_accessOnly State.writeWord_accessOnly ..).samePlaces
  · have hwords {f : Cell → Nat → Word → Cell} (hf : ∀ (c : Cell) o v, c.SamePlace (f c o v)) (c : Cell) :
        c.SamePlace (ws.zipIdx.foldl (fun c (v, i) => f c (off + 8 * i) v) c) := Cell.SamePlace.foldl (fun d x => hf d _ _) _ c
    have hqueues (c : Cell) : c.SamePlace (if blk = 9 then (c.ssPutStack off ws).ssPutVq off ws else c) := by
      split
      · exact (Cell.ssPutStack_samePlace ..).trans (Cell.ssPutVq_samePlace ..)
      · exact .refl c
    unfold State.ssWriteCell
    by_cases hseq : blk < 4
    · rw [if_pos hseq]
      exact s.modCell_samePlaces_of k fun c => (hwords (fun d o v => d.ssPutSeq_samePlace _ o v) c).trans (Cell.ssPutQueues_samePlace ..)
    · rw [if_neg hseq, if_neg hsp]
      exact s.modCell_samePlaces_of k fun c => (hwords (fun d o v => d.ssPut_samePlace blk o v) c).trans (hqueues _)

theorem State.applySlot_samePlaces (s : State) (k : Nat) (x : Saved) (p : List (List Word)) : s.SamePlaces (s.applySlot k x p) := by
  unfold State.applySlot
  extract_lets part h2 ncopy s1 s2 first copies
  have hs1 : s.SamePlaces s1 := State.SamePlaces.foldl (fun u i => u.ssWriteCell_samePlaces ..) _ s
  have hs2 : s1.SamePlaces s2 := (((s1.ssWriteCell_samePlaces ..).trans (State.ssWriteCell_samePlaces ..)).trans (State.ssWriteCell_samePlaces ..)).trans
    (State.ssWriteCell_samePlaces ..)
  refine (hs1.trans hs2).trans (s2.modCell_samePlaces_of k fun c => ?_)
  have hseqs := Cell.SamePlace.foldl (fun (d : Cell) q => Cell.SamePlace.modSeq d q (fun y =>
    { y with pb := pbOf ((wordAt (part (q.num + 1)) 30).truncate 16), ended := x.ended.getD q.num false, from? := x.froms.getD q.num none })) allSeqs c
  exact hseqs.trans ⟨rfl, rfl⟩

/-! ### A restore (R59, R71, R261) -/

theorem State.unpark_samePlaces (s : State) (k key group : Nat) : s.SamePlaces (s.unpark k key group) := .of_same

theorem State.freeSlotOf_samePlaces (s : State) (l : Launch) (slot : Word) : s.SamePlaces (s.freeSlotOf l slot) := by
  unfold State.freeSlotOf
  split
  · exact .refl s
  · exact .of_same

/-- A group goes on where its slot has left it, or ends because its slot cannot be read: in both cases it is on its cell. -/
theorem State.restoreGroup_samePlaces (s : State) (k : Nat) (l : Launch) (x : Saved) (slot : Word) : s.SamePlaces (s.restoreGroup k l x slot) := by
  have hload := (State.loadAll_accessOnly k (slotMap.map (fun p => (slot + BitVec.ofNat 64 p.1, p.2))) s).samePlaces
  unfold State.restoreGroup
  split
  · rename_i heq
    rw [heq] at hload
    exact hload.trans (State.unhandled_samePlaces ..)
  · rename_i s1 bs heq
    rw [heq] at hload
    extract_lets p h s2 valid
    split
    · exact (hload.trans .of_same).trans (State.unhandled_samePlaces ..)
    · have h2 : s.SamePlaces s2 := hload.trans (State.applySlot_samePlaces ..)
      have hlines := h2.trans (State.loadAll_accessOnly k (valid.map (fun i => (slot + BitVec.ofNat 64 (0x480000 + 128 * i), 128))) s2).samePlaces
      split
      · rename_i heq
        rw [heq] at hlines
        exact hlines.trans (State.unhandled_samePlaces ..)
      · rename_i s3 ls heq
        rw [heq] at hlines
        extract_lets s4 s5 s6
        have h4 : s.SamePlaces s4 := hlines.trans (s3.modCell_samePlaces k _)
        have h5 : s4.SamePlaces s5 := s4.modCell_samePlaces_of k fun c => by
          split
          · exact .refl c
          · split
            · exact .refl c
            · exact ⟨rfl, rfl⟩
        have h6 : s5.SamePlaces s6 := by
          unfold s6
          split
          · exact .of_same
          · exact .refl s5
        exact ((((h4.trans h5).trans h6).trans (State.freeSlotOf_samePlaces ..)).trans (State.unpark_samePlaces ..)).trans
          (State.bboxCell_sameGroups ..).toSamePlaces

/-- A group whose slot cannot be read is stopped for good (R261). -/
theorem State.restoreGroup_faulted {s : State} {k : Nat} {x : Saved} {slot : Word} {e : BitVec 8 × Word}
    (h : (s.loadAll k (slotMap.map (fun p => (slot + BitVec.ofNat 64 p.1, p.2)))).2 = .error e) (l : Launch) :
    ((s.restoreGroup k l x slot).cellAt k).stop = some .faulted := by
  unfold State.restoreGroup
  generalize s.loadAll k (slotMap.map (fun p => (slot + BitVec.ofNat 64 p.1, p.2))) = y at h
  obtain ⟨s1, y⟩ := y
  subst h
  exact s1.unhandled_faulted ..

theorem exec_restore {s : State} {l : Launch} {x : Saved} (h : s.MayBind l) (hrst : (s.slotAt s.here).rst = true)
    (hx : l.saved.find? (fun x => x.group == (s.slotAt s.here).group) = some x)
    (htry : s.rangesTrying s.here (s.here / 64) ((s.slotAt s.here).tryAt.getD s.cycle)
      (lcbRanges l.lcb ++ slotMap.map (fun y => ((s.slotAt s.here).slot + BitVec.ofNat 64 y.1, y.2))) = false)
    (hloads : (s.bindGroup s.here l (s.slotAt s.here).group).2 = true) :
    exec .restore s = .next (((s.bindGroup s.here l (s.slotAt s.here).group).1.restoreGroup s.here l x (s.slotAt s.here).slot).settleBarriers) := by
  change execRestore s = _
  unfold execRestore
  dsimp only
  rw [if_neg (by rw [h.fresh, h.v, hrst, h.pre, show (s.cellAt s.here).bound = none from h.free]; decide), h.launch]
  dsimp only
  rw [hx]
  dsimp only
  rw [if_neg (by simp [h.status, h.fit]), if_neg (ne_true_of_eq_false htry), if_pos hloads]

/-- A restored group is on its cell, and its record has been taken. -/
theorem restore_goes {s : State} {l : Launch} {x : Saved} (h : s.MayBind l) (hrst : (s.slotAt s.here).rst = true)
    (hx : l.saved.find? (fun x => x.group == (s.slotAt s.here).group) = some x)
    (htry : s.rangesTrying s.here (s.here / 64) ((s.slotAt s.here).tryAt.getD s.cycle)
      (lcbRanges l.lcb ++ slotMap.map (fun y => ((s.slotAt s.here).slot + BitVec.ofNat 64 y.1, y.2))) = false)
    (hloads : (s.bindGroup s.here l (s.slotAt s.here).group).2 = true) :
    Goes .restore s (fun u => let r := s.slotAt s.here
      u.cur.bound = some ⟨l.key, r.group, l.level, l.stream⟩ ∧ (u.slotAt s.here).fresh = false ∧ (u.slotAt s.here).binds = r.binds + 1 ∧
      (∀ e, ((s.bindGroup s.here l r.group).1.loadAll s.here (slotMap.map (fun y => (r.slot + BitVec.ofNat 64 y.1, y.2)))).2 = .error e →
        u.cur.stop = some .faulted)) := by
  refine ⟨_, exec_restore h hrst hx htry hloads, ?_⟩
  obtain ⟨u, imgs, hu, hin⟩ := State.bindGroup_loads hloads
  have hfault {e : BitVec 8 × Word} (he : ((s.bindGroup s.here l (s.slotAt s.here).group).1.loadAll s.here
      (slotMap.map (fun y => ((s.slotAt s.here).slot + BitVec.ofNat 64 y.1, y.2)))).2 = .error e) := State.restoreGroup_faulted (x := x) he l
  have hloaded : u.SamePlaces (s.bindGroup s.here l (s.slotAt s.here).group).1 := hu ▸ u.modCell_samePlaces s.here _
  have hrestored := hloaded.trans (State.restoreGroup_samePlaces _ s.here l x (s.slotAt s.here).slot)
  generalize (s.bindGroup s.here l (s.slotAt s.here).group).1.restoreGroup s.here l x (s.slotAt s.here).slot = v at hrestored hfault
  have hsettled := v.settleBarriers_only
  dsimp only
  rw [hsettled.same State.cur, hsettled.same (fun w => w.slotAt s.here), State.cur_of_site (hrestored.site.trans hin.site), hrestored.bound,
    State.slotAt_of_slots hrestored.slots, hin.bound, hin.slot]
  exact ⟨rfl, rfl, rfl, fun e he => hfault he⟩

/-- Settles O40: one lemma for each of the events by which groups come to their cells and leave them. -/
theorem groupsOnCells : Obligations.GroupsOnCells := by
  intro s k r
  refine ⟨fun _ hhold => exec_dispatchDecision_held hhold, fun _ hgo => ⟨fun l hbest hcells => ?_, fun hnone l hbest c o hvictim => ?_⟩,
    fun hfresh hv hrst hpre hfree l hl hstatus hfit htry hlevel hgroup hloads => bind_goes ⟨hfresh, hv, hpre, hfree, hl, hstatus, hfit⟩ hrst htry hlevel hgroup hloads,
    fun hfresh hpre hbound => preEmption_goes hfresh hpre hbound,
    fun b hb l hl hreset hpre hstop hmay s1 hparts => contextSave_goes hb hl hreset hpre hstop hmay hparts,
    fun hfresh hv hrst hpre hfree l hl x hx hstatus hfit htry hloads => restore_goes ⟨hfresh, hv, hpre, hfree, hl, hstatus, hfit⟩ hrst hx htry hloads,
    fun b hb l hl hreset hover => groupEnd_goes hb hl hreset hover, fun hreset => cellLeavesService_goes hreset⟩
  · obtain ⟨u, hu, hrecords⟩ := dispatchDecision_places_goes hgo rfl hbest hcells
    refine ⟨u, hu, fun p hp => ?_⟩
    dsimp only
    rw [hrecords p hp]
    exact ⟨rfl, rfl, rfl, rfl, rfl, rfl, rfl, rfl, rfl, rfl, List.isSome_find?, rfl⟩
  · obtain ⟨o, owner, i⟩ := o
    obtain ⟨hpre, hv, hnames, hfresh, hreason⟩ := State.slotAt_preemptFor s.settle.replaceHeads l c o owner i
    exact ⟨_, exec_dispatchDecision_preempts hgo rfl hnone hbest hvictim, hpre, hv, hnames, hfresh, hreason, State.priority_of_victim hvictim⟩

end Sys2Proof.Machine

namespace Sys2Proof.Machine

set_option Elab.async false

/-! ### Turns of the agenda (R90, R245, R275) -/

/-- The turn of a sequencer that the package has comes down to its fetch, at its site and after its time (log entry 1). -/
theorem step_seqTurn {s : State} {d die cell : Nat} {q : SeqId} {rest : List Turn} (h : s.agenda = ⟨d, .seq die cell q⟩ :: rest) (hdie : die < 16) (hcell : cell < 56) :
    step s = stepSeq { s with agenda := rest, cycle := s.cycle + d, site := { die := die, cell := cell, seq := q } } := by
  have hthere : (decide (die < 16) && decide (cell < 56)) = true := by simp [hdie, hcell]
  unfold step
  rw [h]
  exact if_pos hthere

/-- The turn of an event that the package has is the event's meaning at its site. -/
theorem step_eventTurn {s : State} {d : Nat} {i : Instr} {a : Site} {rest : List Turn} (h : s.agenda = ⟨d, .ev i a⟩ :: rest) (hi : i.isEvent = true) (ha : a.wf = true)
    (hdie : i.atComputeDie = true → a.die < 16) : step s = exec i { s with agenda := rest, cycle := s.cycle + d, site := a } := by
  have hthere : ¬ (!a.wf || (i.atComputeDie && decide (16 ≤ a.die))) = true := by simpa [ha] using hdie
  unfold step
  rw [h]
  exact (if_neg hthere).trans (if_pos hi)

theorem stepSeq_idle {s : State} (h : s.mayIssue = false) : stepSeq s = .next s := by
  unfold stepSeq
  exact if_pos (by rw [h]; rfl)

theorem stepSeq_beyond {s : State} (h : s.mayIssue = true) (hlen : s.curSeq.codeLen ≤ s.curSeq.pc.toNat) :
    stepSeq s = .next (s.precise tcFetch (s.curSeq.from?.getD (BitVec.allOnes 64))) := by
  unfold stepSeq
  exact (if_neg (by rw [h]; decide)).trans (if_pos hlen)

/-- Inside its code a sequencer that may issue executes what the word at its program counter decodes to. -/
theorem stepSeq_decoded {s : State} {i : Instr} (h : s.mayIssue = true) (hlen : s.curSeq.pc.toNat < s.curSeq.codeLen)
    (hi : decodeWord (NatMap.get 0 s.curSeq.code s.curSeq.pc.toNat) = .ok i) : stepSeq s = exec i s := by
  unfold stepSeq
  dsimp only
  rw [if_neg (by rw [h]; decide), if_neg (Nat.not_le.2 hlen), hi]

theorem stepSeq_undefined {s : State} {r : Reject} (h : s.mayIssue = true) (hlen : s.curSeq.pc.toNat < s.curSeq.codeLen)
    (hr : decodeWord (NatMap.get 0 s.curSeq.code s.curSeq.pc.toNat) = .error r) : stepSeq s = exec .undefinedEncoding s := by
  unfold stepSeq
  dsimp only
  rw [if_neg (by rw [h]; decide), if_neg (Nat.not_le.2 hlen), hr]

/-- A word that is no instruction raises ILLEGAL_OP with TVAL 0 (R275 row 1). -/
theorem exec_undefinedEncoding {s : State} (h : s.mayIssue = true) : exec .undefinedEncoding s = .next (s.precise 0x01 0) := if_pos h

/-- Settles O55: the turn of a sequencer is its fetch, and that of an event the event's meaning. -/
theorem stepRunsDecoded : Obligations.StepRunsDecoded := by
  intro s d die cell q rest hturn hdie hcell s1 x
  have hstep : step s = stepSeq s1 := step_seqTurn hturn hdie hcell
  rw [hstep]
  exact ⟨fun hmay hlen => ⟨fun i hi _ => stepSeq_decoded hmay hlen hi, fun r hr => (stepSeq_undefined hmay hlen hr).trans (exec_undefinedEncoding hmay)⟩,
    fun hmay hlen => stepSeq_beyond hmay hlen, fun hmay => stepSeq_idle hmay, fun i a u hu hi ha hdie => step_eventTurn hu hi ha hdie⟩

end Sys2Proof.Machine

namespace Sys2Proof.Machine

set_option Elab.async false

/-! ### An element whose second word is locked (R122, R334) -/

/-- A `tst` of one element of 128 bytes, whose byte 64 is 1, at the first byte of the scratchpad of cell 0. -/
def wideStore : Tensor :=
  { id := 1, load := false, queue := 4, esize := 7, elems := [(0, spAddr 0 0, 0)], row := 1#4096 <<< 512, tokens := [], pc := 0, issued := 0, inSlot := false }

/-- It is due, and a store stands in the commit buffer for word 1 of that scratchpad: the second word of the element. -/
def wideStoreHeld : State := { State.reset with site := { n := 1 }, cells := [(0, { tensors := [wideStore], cbuf := [(512, { word := 1 })] })] }

/-- n bytes of memory as an event or an instruction leaves them. -/
def bytesAfter (i : Instr) (s : State) (pa n : Nat) : Option (List Byte) :=
  match exec i s with
  | .next u => some (u.bytesAt pa n)
  | _ => none

theorem bytesAfter_of_next {i : Instr} {s u : State} (h : exec i s = .next u) (pa n : Nat) : bytesAfter i s pa n = some (u.bytesAt pa n) := by
  unfold bytesAfter
  rw [h]

/-- The bytes that the element is to receive. -/
theorem wideStore_bytes : leBytes 128 (laneAt 1024 wideStore.row 0) ≠ List.replicate 128 0 := by decide +kernel

/-- The half of the element that falls into the held word waits in the commit buffer: its byte 64 is not in memory yet. -/
theorem wideStore_pending : bytesAfter .tensorAccessComplete wideStoreHeld (spAddr 0 0) 128 = some (List.replicate 128 0) := by decide +kernel

/-- Refutes O51: its clause on a `tst` asks of the first 64-byte word of an element alone that nothing holds it, and puts no bound on the element's size, where
the two bits of a record's ESIZE give at most 8 bytes (R284). The second word of the element of `wideStoreHeld` is held, so that its bytes are not in memory. -/
theorem not_vectorAndTensorEvents : ¬ Obligations.VectorAndTensorEvents := by
  intro h
  obtain ⟨_, _, _, _, _, _, _, _, _, htensor, _⟩ := h wideStoreHeld
  obtain ⟨_, hstore⟩ := htensor wideStore rfl rfl rfl (by decide) (by decide) (by decide) (by decide)
  obtain ⟨u, hu, _, hwritten, _⟩ := hstore rfl (by decide +kernel) rfl (by decide) (by decide +kernel) (by decide +kernel)
  have hbytes : u.bytesAt (spAddr 0 0) 128 = leBytes 128 (laneAt 1024 wideStore.row 0) := hwritten (0, spAddr 0 0, 0) (by decide)
  have hzero : u.bytesAt (spAddr 0 0) 128 = List.replicate 128 0 := Option.some.inj ((bytesAfter_of_next hu _ _).symm.trans wideStore_pending)
  exact wideStore_bytes (hbytes.symm.trans hzero)

end Sys2Proof.Machine

namespace Sys2Proof.Machine

set_option Elab.async false

/-! ### Faults leave the sequencers and the memory (R56, R246, R253, R258) -/

/-- Every sequencer stays as it is, and memory reads as it did where its contents are the same. -/
structure State.SameSeqs (s u : State) : Prop where
  hbmGen : u.hbmGen = s.hbmGen
  seq : ∀ k q, (u.cellAt k).seq q = (s.cellAt k).seq q

/-- The same of what adds no pending trap to a cell without one. -/
structure State.OnlyStops (s u : State) : Prop extends s.SameSeqs u where
  pend : ∀ k, (s.cellAt k).pend = [] → (u.cellAt k).pend = []

theorem State.SameSeqs.refl (s : State) : s.SameSeqs s := ⟨rfl, fun _ _ => rfl⟩

theorem State.SameSeqs.trans {s u v : State} (h : s.SameSeqs u) (h' : u.SameSeqs v) : s.SameSeqs v :=
  ⟨h'.hbmGen.trans h.hbmGen, fun k q => (h'.seq k q).trans (h.seq k q)⟩

theorem State.OnlyStops.refl (s : State) : s.OnlyStops s := ⟨.refl s, fun _ => id⟩

theorem State.OnlyStops.trans {s u v : State} (h : s.OnlyStops u) (h' : u.OnlyStops v) : s.OnlyStops v :=
  ⟨h.toSameSeqs.trans h'.toSameSeqs, fun k hk => h'.pend k (h.pend k hk)⟩

theorem State.OnlyStops.foldl {α : Type} {f : State → α → State} (h : ∀ (s : State) x, s.OnlyStops (f s x)) (l : List α) (s : State) : s.OnlyStops (l.foldl f s) :=
  List.foldlRecOn l f (.refl s) fun u hu x _ => hu.trans (h u x)

/-- A change to no cell. -/
theorem State.OnlyStops.of_same {s u : State} (hbmGen : u.hbmGen = s.hbmGen := by rfl) (cells : u.cells = s.cells := by rfl) : s.OnlyStops u :=
  ⟨⟨hbmGen, fun k q => by rw [State.cellAt, State.cellAt, cells]⟩, fun k => by rw [State.cellAt, State.cellAt, cells]; exact id⟩

theorem State.modCell_sameSeqs (s : State) (k : Nat) (f : Cell → Cell) (h : ∀ c q, (f c).seq q = c.seq q) : s.SameSeqs (s.modCell k f) := by
  refine ⟨rfl, fun j q => ?_⟩
  by_cases hj : j = k
  · subst hj; rw [State.cellAt_modCell_same, h]
  · rw [State.cellAt_modCell_other _ _ hj]

theorem State.modCell_onlyStops (s : State) (k : Nat) (f : Cell → Cell) (h : ∀ c q, (f c).seq q = c.seq q) (hpend : ∀ c, c.pend = [] → (f c).pend = []) :
    s.OnlyStops (s.modCell k f) := by
  refine ⟨s.modCell_sameSeqs k f h, fun j hj => ?_⟩
  by_cases hk : j = k
  · subst hk; rw [State.cellAt_modCell_same]; exact hpend _ hj
  · rwa [State.cellAt_modCell_other _ _ hk]

theorem State.stopLaunch_onlyStops (s : State) (key : Nat) (st : Stop) (f : Launch → Launch) : s.OnlyStops (s.stopLaunch key st f) := by
  unfold State.stopLaunch
  split
  · exact .refl s
  · refine State.OnlyStops.trans .of_same (State.OnlyStops.foldl (fun u e => u.modCell_onlyStops _ _ (fun c q => ?_) fun c hc => ?_) _ _)
    · split
      · rfl
      · rfl
      · cases q <;> rfl
    · split
      · exact hc
      · exact hc
      · rfl

theorem State.faultLaunch_onlyStops (s : State) (k key group cause : Nat) (entry : Word) : s.OnlyStops (s.faultLaunch k key group cause entry) := by
  unfold State.faultLaunch
  split
  · exact .refl s
  · dsimp only
    split
    · exact .refl s
    · have hstop (d : Nat) (e : BbEvent) : s.OnlyStops ((s.bbox d e).stopLaunch key .cancelled (noMoreBinds .faulted)) :=
        State.OnlyStops.trans .of_same (State.stopLaunch_onlyStops ..)
      split
      · exact hstop ..
      · exact (hstop ..).trans (State.OnlyStops.foldl (fun u o => u.stopLaunch_onlyStops ..) _ _)

theorem State.unhandled_sameSeqs (s : State) (k : Nat) (t : TrapRec) : s.SameSeqs (s.unhandled k t) := by
  have hbox (y c : Nat) (d0 d1 : Word) : s.SameSeqs (s.bboxCell k y c d0 d1) := ⟨rfl, fun _ _ => rfl⟩
  unfold State.unhandled
  split
  · exact (hbox ..).trans (State.modCell_sameSeqs _ _ _ fun c q => by cases q <;> rfl)
  · exact ((hbox ..).trans (State.modCell_sameSeqs _ _ _ fun c q => by cases q <;> rfl)).trans (State.faultLaunch_onlyStops ..).toSameSeqs

theorem State.withdraw_sameSeqs (s : State) (k : Nat) : s.SameSeqs (s.withdraw k) := by
  have hjoined : s.SameSeqs (s.modCell k (fun c => { c with joined := none })) := s.modCell_sameSeqs _ _ fun c q => by cases q <;> rfl
  unfold State.withdraw
  split
  · exact hjoined
  · split
    · exact hjoined.trans ⟨rfl, fun _ _ => rfl⟩
    · exact .refl s
  · exact .refl s

theorem State.startStop_sameSeqs (s : State) (k : Nat) (t : TrapRec) : s.SameSeqs (s.startStop k t) :=
  (s.withdraw_sameSeqs k).trans (State.modCell_sameSeqs _ _ _ fun c q => by cases q <;> rfl)

theorem State.deferred_sameSeqs (s : State) (k : Nat) (cause : BitVec 8) (q : SeqId) (pc val : Word) : s.SameSeqs (s.deferred k cause q pc val) := by
  let t : TrapRec := ⟨cause, true, pc, q, val⟩
  have hjoin : s.SameSeqs (if 16 ≤ (s.cellAt k).pend.length then s.unhandled k t else s.modCell k (fun c => { c with pend := c.pend ++ [t] })) := by
    split
    · exact s.unhandled_sameSeqs k t
    · exact s.modCell_sameSeqs _ _ fun c q => by cases q <;> rfl
  unfold State.deferred
  dsimp only
  split
  · exact .refl s
  · split
    · split
      · exact hjoin
      · exact s.startStop_sameSeqs k t
    · exact hjoin
    · exact hjoin
    · exact .refl s

/-! ### A machine check (R108, R258) -/

/-- A machine check empties every check slot of its cell and its pending traps. -/
theorem State.machineCheck_empties (s : State) (k code : Nat) (d0 d1 : Word) :
    (∀ q, (((s.machineCheck k code d0 d1).cellAt k).seq q).slots = []) ∧ ((s.machineCheck k code d0 d1).cellAt k).pend = [] ∧
      (s.machineCheck k code d0 d1).mem = s.mem := by
  unfold State.machineCheck
  extract_lets s1 empty gone s2 s3
  have hslots (q : SeqId) : ((s3.cellAt k).seq q).slots = [] := by
    change ((s2.cellAt k).seq q).slots = []
    rw [State.cellAt_modCell_same]
    cases q <;> rfl
  have hpend : (s3.cellAt k).pend = [] := by
    change (s2.cellAt k).pend = []
    rw [State.cellAt_modCell_same]
  have hmem1 : s1.mem = s.mem := rfl
  have hmem2 : s2.mem = s1.mem := rfl
  have hmem : s3.mem = s.mem := (rfl : s3.mem = s2.mem).trans (hmem2.trans hmem1)
  clear_value s3
  split
  · exact ⟨hslots, hpend, hmem⟩
  · rename_i b _
    have hfault := s3.faultLaunch_onlyStops k b.launch b.group code 0
    exact ⟨fun q => by rw [hfault.seq]; exact hslots q, hfault.pend k hpend, (s3.faultLaunch_loses ..).mem.trans hmem⟩

theorem State.machineCheck_machineChecked (s : State) (code : Nat) (d0 d1 : Word) : MachineChecked s (s.machineCheck s.here code d0 d1) := by
  obtain ⟨hslots, hpend, hmem⟩ := s.machineCheck_empties s.here code d0 d1
  unfold MachineChecked
  rw [State.cur_of_site (s.machineCheck_samePlaces ..).site]
  exact ⟨(s.machineCheck_stop ..).2 _ (.inl rfl), fun q _ => hslots q, hpend, s.machineCheck_frozen .., hmem⟩

/-- A residue failure is a machine check (R108). -/
theorem residueFailure_goes (s : State) : Goes .residueFailure s (MachineChecked s) := ⟨_, rfl, s.machineCheck_machineChecked 0x14 0 0⟩

/-! ### The oldest item of a check slot (R107) -/

/-- The state without the oldest item of the check slot whose turn it is. -/
def State.slotFreed (s : State) : State := s.modSeq (fun y => { y with slots := s.curSeq.slots.tail })

/-- What an item does as it leaves its check slot; none while it has to stay. -/
def State.itemLeaves (s : State) (k : Nat) (q : SeqId) (x : Slot) : Option State :=
  match x.item with
  | .push n v => some (s.modCell k (fun c => c.pushed n v (x.seen q)))
  | .token n => some (s.modCell k (fun c => c.signalled n (x.seen q)))
  | .command id => some (s.releaseCommand k id)
  | .block key g ws => s.releaseBlock key g ws
  | .store pa bs cls repl pc va => s.releaseStore k q pa bs cls repl pc va x.at?

section
variable {s : State} {x : Slot} (hhead : s.curSeq.slots.head? = some x) (hdue : x.at? + 9 ≤ s.cycle) (hstop : s.cur.stop ≠ some .machineCheck)
include hhead hdue hstop

theorem exec_checkSlotRelease_mismatch (hne : x.item ≠ x.tell) : Goes .checkSlotRelease s (MachineChecked s) := by
  obtain ⟨rest, hslots⟩ := List.head?_eq_some_iff.1 hhead
  have hexec : exec .checkSlotRelease s = .next (s.machineCheck s.here 0x14
      (BitVec.ofNat 64 (at_ s.site.seq.num 32 + (x.item.pcOr s.curSeq.pc).toNat % 2 ^ 32)) x.tell.low) := by
    change execCheckSlotRelease s = _
    unfold execCheckSlotRelease
    simp only [hslots]
    rw [if_neg (by simpa [hstop] using hdue), if_pos hne]
  exact ⟨_, hexec, s.machineCheck_machineChecked ..⟩

theorem exec_checkSlotRelease_leaves (heq : x.item = x.tell) :
    exec .checkSlotRelease s = .next ((s.slotFreed.itemLeaves s.here s.site.seq x).getD s) := by
  obtain ⟨rest, hslots⟩ := List.head?_eq_some_iff.1 hhead
  have hfreed : s.slotFreed = s.modSeq (fun y => { y with slots := rest }) := by rw [State.slotFreed, hslots]; rfl
  change execCheckSlotRelease s = _
  unfold execCheckSlotRelease State.itemLeaves
  simp only [hslots, hfreed]
  rw [if_neg (by simpa [hstop] using hdue), if_neg (not_not.2 heq)]
  cases x.item with
  | push n v => rfl
  | token n => rfl
  | command id => rfl
  | block key g ws => rfl
  | store pa bs cls repl pc va =>
    dsimp only
    cases (s.modSeq (fun y => { y with slots := rest })).releaseStore s.here s.site.seq pa bs cls repl pc va x.at? with
    | none => rfl
    | some u => rfl

end

/-- A slot that is freed changes its sequencer and no other part of a cell. -/
theorem State.slotFreed_cell {α : Type} (s : State) (g : Cell → α) (hg : ∀ c q f, g (c.modSeq q f) = g c) (k : Nat) : g (s.slotFreed.cellAt k) = g (s.cellAt k) := by
  by_cases hk : k = s.here
  · subst hk
    rw [State.slotFreed, State.modSeq, State.cellAt_modCell_same, hg]
  · rw [State.slotFreed, State.cellAt_modSeq_other _ _ hk]

@[simp] theorem State.slotFreed_site (s : State) : s.slotFreed.site = s.site := rfl
@[simp] theorem State.slotFreed_mem (s : State) : s.slotFreed.mem = s.mem := rfl
@[simp] theorem State.slotFreed_here (s : State) : s.slotFreed.here = s.here := rfl

theorem State.slotFreed_curSeq_slots (s : State) : s.slotFreed.curSeq.slots = s.curSeq.slots.tail := by
  rw [State.slotFreed, State.curSeq_modSeq]

theorem State.SameSeqs.curSeq {s u : State} (h : s.SameSeqs u) (hsite : u.site = s.site) : u.curSeq = s.curSeq := by
  rw [State.curSeq, State.cur_of_site hsite, h.seq, hsite]
  rfl

/-- What changes no sequencer leaves the freed slot with its other items. -/
theorem State.SameSeqs.slots {s u : State} (h : s.slotFreed.SameSeqs u) (hsite : u.site = s.site) : u.curSeq.slots = s.curSeq.slots.tail :=
  (congrArg Seq.slots (h.curSeq hsite)).trans s.slotFreed_curSeq_slots

theorem Cell.queue_of_queues {c d : Cell} (h : d.queues = c.queues) (n : Nat) : d.queue n = c.queue n := by rw [Cell.queue, Cell.queue, h]

theorem Cell.pushed_seq (c : Cell) (n : Nat) (v : Word) (m : NatMap Nat) (q : SeqId) : (c.pushed n v m).seq q = c.seq q := by
  rw [← c.setQueue_seq n (c.queue n ++ [v]) q]
  cases q <;> rfl

theorem Cell.signalled_seq (c : Cell) (n : Nat) (m : NatMap Nat) (q : SeqId) : (c.signalled n m).seq q = c.seq q := by cases q <;> rfl

@[simp] theorem Cell.queue_pushed (c : Cell) (n : Nat) (v : Word) (m : NatMap Nat) : (c.pushed n v m).queue n = c.queue n ++ [v] := c.queue_setQueue_same n _
@[simp] theorem Cell.tokVal_signalled (c : Cell) (n : Nat) (m : NatMap Nat) : (c.signalled n m).tokVal n = c.tokVal n + 1 := NatMap.get_put_same 0 c.tok n (c.tokVal n + 1)
@[simp] theorem Cell.tokRsv_signalled (c : Cell) (n : Nat) (m : NatMap Nat) : (c.signalled n m).tokRsv n = c.tokRsv n - 1 := NatMap.get_put_same ..

/-- A change of the own cell, its sequencers apart, beside the freed slot. -/
theorem State.slotFreed_modCell (s : State) (f : Cell → Cell) (hf : ∀ c q, (f c).seq q = c.seq q) : let u := s.slotFreed.modCell s.here f
    u.cur = f (s.slotFreed.cellAt s.here) ∧ u.curSeq.slots = s.curSeq.slots.tail ∧ u.mem = s.mem := by
  intro u
  have hseqs : s.slotFreed.SameSeqs u := State.modCell_sameSeqs _ _ _ hf
  have hsite : u.site = s.site := rfl
  refine ⟨?_, hseqs.slots hsite, rfl⟩
  rw [State.cur_of_site hsite]
  exact State.cellAt_modCell_same ..

/-- A push that leaves its check slot is in its queue (R92). -/
theorem State.slotFreed_pushed (s : State) (n : Nat) (v : Word) (m : NatMap Nat) : let u := s.slotFreed.modCell s.here (fun c => c.pushed n v m)
    u.cur.queue n = s.cur.queue n ++ [v] ∧ u.curSeq.slots = s.curSeq.slots.tail ∧ u.mem = s.mem := by
  obtain ⟨hcur, hrest⟩ := s.slotFreed_modCell (fun c => c.pushed n v m) (fun c => c.pushed_seq n v m)
  have hqueue : (s.slotFreed.cellAt s.here).queue n = s.cur.queue n :=
    s.slotFreed_cell (fun c => c.queue n) (fun c q f => Cell.queue_of_queues (c.modSeq_queues q f) n) s.here
  exact ⟨by rw [hcur, Cell.queue_pushed, hqueue], hrest⟩

/-- A token signal that leaves its check slot is in its counter, its reservation gone (R94). -/
theorem State.slotFreed_signalled (s : State) (n : Nat) (m : NatMap Nat) : let u := s.slotFreed.modCell s.here (fun c => c.signalled n m)
    u.cur.tokVal n = s.cur.tokVal n + 1 ∧ u.cur.tokRsv n = s.cur.tokRsv n - 1 ∧ u.curSeq.slots = s.curSeq.slots.tail ∧ u.mem = s.mem := by
  obtain ⟨hcur, hrest⟩ := s.slotFreed_modCell (fun c => c.signalled n m) (fun c => c.signalled_seq n m)
  have htok : (s.slotFreed.cellAt s.here).tokVal n = s.cur.tokVal n := congrArg (NatMap.get 0 · n) (s.slotFreed_cell Cell.tok Cell.modSeq_tok s.here)
  have hres : (s.slotFreed.cellAt s.here).tokRsv n = s.cur.tokRsv n := congrArg (NatMap.get 0 · n) (s.slotFreed_cell Cell.tokRes Cell.modSeq_tokRes s.here)
  exact ⟨by rw [hcur, Cell.tokVal_signalled, htok], by rw [hcur, Cell.tokRsv_signalled, hres], hrest⟩

/-! ### A pushed block (R81) -/

section
variable {s : State} {l : Launch} {key g : Nat} (hlaunch : s.launch? key = some l)
include hlaunch

theorem State.slotFreed_block_preempted {e : Nat × Nat} (hbound : l.bound.find? (fun e => e.1 == g) = some e) (hstop : (s.cellAt e.2).stop = some .preempt)
    (ws : List Word) : s.slotFreed.releaseBlock key g ws = none := by
  have hfreed : (s.slotFreed.cellAt e.2).stop = some .preempt := (s.slotFreed_cell Cell.stop Cell.modSeq_stop e.2).trans hstop
  unfold State.releaseBlock
  rw [show s.slotFreed.launch? key = some l from hlaunch]
  dsimp only
  rw [hbound]
  exact if_pos hfreed

/-- A block of a group that runs on a cell goes to the remote queue of that cell. -/
theorem State.slotFreed_block_bound {e : Nat × Nat} (hbound : l.bound.find? (fun e => e.1 == g) = some e) (hstop : (s.cellAt e.2).stop = none) (ws : List Word) :
    ∃ u, s.slotFreed.releaseBlock key g ws = some u ∧ (u.cellAt e.2).remq = (s.cellAt e.2).remq ++ [ws] ∧ u.curSeq.slots = s.curSeq.slots.tail ∧ u.mem = s.mem := by
  have hfreed : (s.slotFreed.cellAt e.2).stop = none := (s.slotFreed_cell Cell.stop Cell.modSeq_stop e.2).trans hstop
  have hremq : (s.slotFreed.cellAt e.2).remq = (s.cellAt e.2).remq := s.slotFreed_cell Cell.remq Cell.modSeq_remq e.2
  unfold State.releaseBlock
  rw [show s.slotFreed.launch? key = some l from hlaunch]
  dsimp only
  rw [hbound]
  dsimp only
  rw [if_neg (by rw [hfreed]; nofun)]
  refine ⟨_, rfl, ?_, State.SameSeqs.slots (State.modCell_sameSeqs _ _ _ fun c q => ?_) rfl, rfl⟩
  · rw [State.cellAt_modCell_same, hfreed, ← hremq]
    rfl
  · split
    · cases q <;> rfl
    · rfl
    · rfl

theorem State.slotFreed_block_unbound (hbound : l.bound.find? (fun e => e.1 == g) = none) (ws : List Word) :
    s.slotFreed.releaseBlock key g ws = if l.saved.any (fun y => y.group == g) then none else some s.slotFreed := by
  unfold State.releaseBlock
  rw [show s.slotFreed.launch? key = some l from hlaunch]
  dsimp only
  rw [hbound]

end

/-! ### A command goes to its engine -/

/-- The state differs in nothing that cells, quads and memory hold. -/
structure State.SameCells (s u : State) : Prop where
  site : u.site = s.site
  cells : u.cells = s.cells
  quads : u.quads = s.quads
  mem : u.mem = s.mem

theorem State.postChain_sameCells (s : State) (eng : Nat) (addr : Word) (p : Poster) : s.SameCells (s.postChain eng addr p) where
  site := s.carry_site ..
  cells := s.carry_cells ..
  quads := s.carry_quads ..
  mem := s.carry_mem ..

theorem State.postChains_sameCells (l : List (Nat × Arming)) (s : State) : s.SameCells (l.foldl (fun s x => s.postChain x.1 x.2.addr x.2.poster) s) :=
  List.foldlRecOn l _ ⟨rfl, rfl, rfl, rfl⟩ fun u hu x _ => by
    have h := u.postChain_sameCells x.1 x.2.addr x.2.poster
    exact ⟨h.site.trans hu.site, h.cells.trans hu.cells, h.quads.trans hu.quads, h.mem.trans hu.mem⟩

/-- Where the members of a list that a condition picks are changed, those that it picks afterwards have been changed. -/
theorem forall_mem_map_ite {α : Type} {p r : α → Prop} [DecidablePred p] {f : α → α} (h : ∀ x, r (f x)) (l : List α) :
    ∀ c ∈ l.map (fun x => if p x then f x else x), p c → r c := by
  intro c hc hp
  obtain ⟨x, -, rfl⟩ := List.mem_map.1 hc
  split at hp
  · rw [if_pos ‹_›]; exact h x
  · exact absurd hp ‹_›

/-- The cell of a command that has left its check slot. -/
def Cell.commandLeft (id : Nat) (c : Cell) : Cell := { c with
  chains := c.chains.filter (fun x => x.2.poster.id != id),
  vcmds := c.vcmds.map (fun (x : VCmd) => if x.id = id then { x with inSlot := false } else x),
  copies := c.copies.map (fun (x : Copy) => if x.id = id then { x with inSlot := false } else x),
  tensors := c.tensors.map (fun (x : Tensor) => if x.id = id then { x with inSlot := false } else x) }

theorem Cell.commandLeft_seq (id : Nat) (c : Cell) (q : SeqId) : (c.commandLeft id).seq q = c.seq q := by cases q <;> rfl

theorem Cell.commandLeft_inSlot (id : Nat) (c : Cell) : (∀ x ∈ (c.commandLeft id).vcmds, x.id = id → x.inSlot = false) ∧
    (∀ x ∈ (c.commandLeft id).copies, x.id = id → x.inSlot = false) ∧ (∀ x ∈ (c.commandLeft id).tensors, x.id = id → x.inSlot = false) :=
  ⟨forall_mem_map_ite (p := fun x : VCmd => x.id = id) (r := fun x => x.inSlot = false) (fun _ => rfl) _,
    forall_mem_map_ite (p := fun x : Copy => x.id = id) (r := fun x => x.inSlot = false) (fun _ => rfl) _,
    forall_mem_map_ite (p := fun x : Tensor => x.id = id) (r := fun x => x.inSlot = false) (fun _ => rfl) _⟩

/-- A command that has left its check slot is its engine's. -/
theorem State.slotFreed_command (s : State) (id : Nat) : let u := s.slotFreed.releaseCommand s.here id
    u.curSeq.slots = s.curSeq.slots.tail ∧ u.mem = s.mem ∧ u.cur.chains = s.cur.chains.filter (fun y => y.2.poster.id != id) ∧
    (∀ c ∈ u.cur.vcmds, c.id = id → c.inSlot = false) ∧ (∀ c ∈ u.cur.copies, c.id = id → c.inSlot = false) ∧
    (∀ c ∈ u.cur.tensors, c.id = id → c.inSlot = false) ∧
    (∀ c ∈ (u.quadAt (quadOf s.here)).cmds, c.cell = s.here → c.id = id → c.inSlot = false) := by
  intro u
  have hposted := State.postChains_sameCells ((s.slotFreed.cellAt s.here).chains.filter (fun x => x.2.poster.id == id)) s.slotFreed
  generalize ht : ((s.slotFreed.cellAt s.here).chains.filter (fun x => x.2.poster.id == id)).foldl (fun s x => s.postChain x.1 x.2.addr x.2.poster) s.slotFreed = t at hposted
  have hu : u = (t.modCell s.here (Cell.commandLeft id)).modQuad (quadOf s.here)
      (fun q => { q with cmds := q.cmds.map (fun (x : MCmd) => if x.cell = s.here && x.id = id then { x with inSlot := false } else x) }) := by rw [← ht]; rfl
  have hsite : u.site = s.site := by rw [hu]; exact hposted.site
  have hcell : t.cellAt s.here = s.slotFreed.cellAt s.here := by rw [State.cellAt, State.cellAt, hposted.cells]
  have hcur : u.cur = (s.slotFreed.cellAt s.here).commandLeft id := by
    rw [State.cur_of_site hsite, hu, State.cellAt_modQuad, State.cellAt_modCell_same, hcell]
  obtain ⟨hv, hc, ht⟩ := (s.slotFreed.cellAt s.here).commandLeft_inSlot id
  refine ⟨?_, ?_, ?_, ?_, ?_, ?_, ?_⟩
  · rw [State.curSeq, hcur, hsite, Cell.commandLeft_seq]
    exact s.slotFreed_curSeq_slots
  · rw [hu]; exact hposted.mem
  · rw [hcur]
    exact congrArg (List.filter _) (s.slotFreed_cell Cell.chains Cell.modSeq_chains s.here)
  · rw [hcur]; exact hv
  · rw [hcur]; exact hc
  · rw [hcur]; exact ht
  · rw [hu, State.quadAt_modQuad_same]
    exact fun c hc hk hid => forall_mem_map_ite (r := fun x : MCmd => x.inSlot = false) (fun _ => rfl) _ c hc (by simp [hk, hid])

/-! ### Stores (R107, R331) -/

/-- Bytes outside a run are left by a write that omits some words. -/
theorem Memory.read_writesBut_other (gen : Nat) (bad : List Nat) (bs : List Byte) : ∀ (m : List Host.Cell) (pa x : Nat), (x < pa ∨ pa + bs.length ≤ x) →
    Memory.read gen (Memory.writesBut gen m bad pa bs) x = Memory.read gen m x := by
  induction bs with
  | nil => intro m pa x _; rfl
  | cons b bs ih =>
    intro m pa x hx
    rw [List.length_cons] at hx
    rw [Memory.writesBut, ih _ _ _ (by omega)]
    split
    · rfl
    · exact Memory.read_write_other _ _ _ (by omega)

/-- A write at its home leaves the bytes outside it. -/
theorem State.byteAt_poke_outside (s : State) (pa : Nat) (bs : List Byte) {x : Nat} (hx : x < pa ∨ pa + bs.length ≤ x) : (s.poke pa bs).byteAt x = s.byteAt x := by
  unfold State.poke
  split
  · exact Memory.read_writes_other _ _ _ _ _ hx
  · exact Memory.read_writesBut_other _ _ _ _ _ _ hx

theorem State.poke_onlyStops (s : State) (pa : Nat) (bs : List Byte) : s.OnlyStops (s.poke pa bs) := by
  unfold State.poke
  split
  · exact .of_same
  · exact .of_same

theorem State.poke_site (s : State) (pa : Nat) (bs : List Byte) : (s.poke pa bs).site = s.site := by
  unfold State.poke
  split <;> rfl

/-- The record of an uncorrectable word that a store meets leaves memory and the sequencers. -/
theorem State.badStore_keeps (s : State) (k pa : Nat) (q : SeqId) (pc va : Word) : let u := (s.logBad k pa 0).deferred k tcUncorrectable q pc va
    s.SameSeqs u ∧ u.site = s.site ∧ u.mem = s.mem := by
  have hlog := (s.logBad_loses k pa 0).trans (State.deferred_loses (s.logBad k pa 0) k tcUncorrectable q pc va)
  have hseqs : s.SameSeqs (s.logBad k pa 0) := ⟨rfl, fun _ _ => rfl⟩
  exact ⟨hseqs.trans (State.deferred_sameSeqs ..), hlog.site, hlog.mem⟩

theorem State.byteAt_of_mem {s u : State} (hmem : u.mem = s.mem) (hgen : u.hbmGen = s.hbmGen) (x : Nat) : u.byteAt x = s.byteAt x := by
  rw [State.byteAt, State.byteAt, hmem, hgen]

/-! ### Where a store goes (R107, R122, R331) -/

/-- An update of a replicated page goes to the replica sequencer, and nothing else is done. -/
theorem State.sendReplica_only (s : State) (r : ReplicaUpd) : s.OnlyStops (s.sendReplica r) ∧ (s.sendReplica r).site = s.site ∧ (s.sendReplica r).mem = s.mem ∧
    (s.sendReplica r).replicas.map (fun x => { x with net := 0 }) = s.replicas.map (fun x => { x with net := 0 }) ++ [{ r with net := 0 }] := by
  refine ⟨.of_same (s.carry_hbmGen ..) (s.carry_cells ..), s.carry_site .., s.carry_mem .., ?_⟩
  unfold State.sendReplica
  dsimp only
  rw [State.carry_replicas, List.map_append]
  rfl

/-- A request is the last of those that its pair has not had acknowledged, under the pair's next number (R17). -/
theorem State.number_pair (s : State) (src dst : Nat) (r : MeshReq) : s.OnlyStops (s.number src dst r) ∧ (s.number src dst r).site = s.site ∧
    (s.number src dst r).mem = s.mem ∧ ((s.number src dst r).pairAt src dst).next = (s.pairAt src dst).next + 1 ∧
    ((s.number src dst r).pairAt src dst).unacked.map (fun x => (x.q, x.pa, x.op)) =
      (s.pairAt src dst).unacked.map (fun x => (x.q, x.pa, x.op)) ++ [((s.pairAt src dst).next, r.pa, r.op)] := by
  refine ⟨.of_same, rfl, rfl, ?_, ?_⟩
  · unfold State.number
    dsimp only
    rw [State.pairAt_setPair_same]
  · unfold State.number
    dsimp only
    rw [State.pairAt_setPair_same, List.map_append]
    rfl

section
variable (s : State) (k pa : Nat) (q : SeqId) (bs : List Byte) (cls : StoreClass) (pc va : Word) (born : Nat)

theorem State.releaseStore_replica : s.releaseStore k q pa bs cls true pc va born =
    some (s.sendReplica { pa := pa, op := .write bs, cell := k, seq := q, cls := cls, pc := pc, va := va, born := born }) := rfl

variable {k pa}

/-- A store to another die is a request of the pair, where fewer than 256 are unacknowledged. -/
theorem State.releaseStore_away (hdie : homeDie pa ≠ k / 64) (hroom : (s.pairAt (k / 64) (homeDie pa)).unacked.length < 256) :
    ∃ r : MeshReq, r.pa = pa ∧ r.op = .write bs ∧ s.releaseStore k q pa bs cls false pc va born = some (s.number (k / 64) (homeDie pa) r) := by
  let r : MeshReq := { q := 0, pa := pa, op := .write bs, cell := k, seq := q, cls := cls, pc := pc, va := va, sends := 0, sent := 0, user := s.userOf k, born := born }
  refine ⟨r, rfl, rfl, ?_⟩
  unfold State.releaseStore State.request
  rw [if_neg Bool.false_ne_true, if_pos hdie, if_neg (Nat.not_le.2 hroom)]
  rfl

/-- A store to a word that is not held is performed at its home, and leaves every byte outside it. -/
theorem State.releaseStore_home (hdie : homeDie pa = k / 64) (hfree : s.wordHeld pa = false) :
    ∃ u, s.releaseStore k q pa bs cls false pc va born = some u ∧ s.SameSeqs u ∧ u.site = s.site ∧ u.mem = (s.poke pa bs).mem := by
  have hpoke := (s.poke_onlyStops pa bs).toSameSeqs
  have hsite := s.poke_site pa bs
  unfold State.releaseStore State.writeWord
  rw [if_neg Bool.false_ne_true, if_neg (not_not.2 hdie), hfree, Bool.and_false, if_neg Bool.false_ne_true, if_neg Bool.false_ne_true]
  dsimp only
  by_cases hbad : s.badWrite pa bs.length = true
  · obtain ⟨hseqs, hbsite, hmem⟩ := (s.poke pa bs).badStore_keeps k pa q pc va
    rw [if_pos hbad]
    exact ⟨_, rfl, hpoke.trans hseqs, hbsite.trans hsite, hmem⟩
  · rw [if_neg hbad]
    exact ⟨_, rfl, hpoke, hsite, rfl⟩

/-- An ordered store waits for a held word (R122). -/
theorem State.releaseStore_waits (hdie : homeDie pa = k / 64) (hheld : s.wordHeld pa = true) (hcls : cls ≠ .relaxed) :
    s.releaseStore k q pa bs cls false pc va born = none := by
  unfold State.releaseStore
  rw [if_neg Bool.false_ne_true, if_neg (not_not.2 hdie), if_pos (by simp [hheld, hcls])]

/-- A relaxed store to a held word takes a commit-buffer entry (R122). -/
theorem State.releaseStore_held (hdie : homeDie pa = k / 64) (hheld : s.wordHeld pa = true) {e : Nat} (he : (s.cellAt (spCell pa)).freeEntry = some e) :
    ∃ h, s.releaseStore k q pa bs .relaxed false pc va born =
      some (s.setCell (spCell pa) { s.cellAt (spCell pa) with cbuf := NatMap.ins (s.cellAt (spCell pa)).cbuf e h }) := by
  unfold State.releaseStore State.writeWord
  rw [if_neg Bool.false_ne_true, if_neg (not_not.2 hdie), if_neg (by simp), if_pos hheld]
  dsimp only
  rw [he]
  exact ⟨_, rfl⟩

end

/-- An entry under a new key is one entry more. -/
theorem NatMap.length_ins_new {α : Type} (m : NatMap α) {k : Nat} (v : α) (h : ∀ e ∈ m, e.1 ≠ k) : (NatMap.ins m k v).length = m.length + 1 := by
  induction m with
  | nil => rfl
  | cons e m ih =>
    obtain ⟨a, w⟩ := e
    have hne : k ≠ a := (h _ List.mem_cons_self).symm
    rw [NatMap.ins, if_neg hne]
    split
    · rfl
    · rw [List.length_cons, ih fun e he => h e (List.mem_cons_of_mem _ he), List.length_cons]

/-- A free commit-buffer entry holds nothing. -/
theorem Cell.freeEntry_new {c : Cell} {e : Nat} (h : c.freeEntry = some e) : ∀ x ∈ c.cbuf, x.1 ≠ e := by
  have hfree := List.find?_some h
  simpa using hfree

theorem State.slotFreed_wordHeld (s : State) (pa : Nat) : s.slotFreed.wordHeld pa = s.wordHeld pa := by
  have hcbuf := s.slotFreed_cell Cell.cbuf Cell.modSeq_cbuf (spCell pa)
  have hlocked : s.slotFreed.lockedPa pa = s.lockedPa pa := rfl
  rw [State.wordHeld, State.wordHeld, hcbuf, hlocked]

theorem State.slotFreed_freeEntry (s : State) (k : Nat) : (s.slotFreed.cellAt k).freeEntry = (s.cellAt k).freeEntry := by
  rw [Cell.freeEntry, Cell.freeEntry, s.slotFreed_cell Cell.cbuf Cell.modSeq_cbuf k]

/-! ### The flag word of a wait (R255, R257) -/

/-- A flag word is that of its wait with the number of commands before it. -/
theorem flagWord_eq_waitedFlag (kind index pos cycles : Nat) {unit : Nat} (h : unit < 16) :
    flagWord kind index unit pos (cycles / 256) = waitedFlag kind index unit cycles + BitVec.ofNat 64 (min pos 255 * 2 ^ 24) := by
  unfold flagWord waitedFlag at_
  rw [Nat.mod_eq_of_lt h, ← BitVec.ofNat_add]
  simp only [Nat.shiftLeft_eq]
  exact congrArg (BitVec.ofNat 64) (by omega)

theorem flagWord_head (kind index cycles : Nat) {unit : Nat} (h : unit < 16) : flagWord kind index unit 0 (cycles / 256) = waitedFlag kind index unit cycles := by
  rw [flagWord_eq_waitedFlag _ _ _ _ h]
  exact BitVec.add_zero _

theorem seqNum_lt (q : SeqId) : q.num < 4 := by cases q <;> decide

/-- A wait that has reached WAITBOUND traps precisely. -/
theorem exec_waitBoundExpiry_over {s : State} {b : Blocked} (hb : s.curSeq.blocked = some b) (hmay : s.mayIssue = true) (hbound : s.curSeq.waitBound ≠ 0)
    (hover : s.curSeq.waitBound.toNat * 256 ≤ s.cycle - b.since) :
    exec .waitBoundExpiry s = .next (s.precise tcWaitBound (waitedFlag b.kind b.index (4 + s.site.seq.num) (s.cycle - b.since))) := by
  have hwaited : s.waited s.curSeq = s.cycle - b.since := by rw [State.waited, hb]
  have hne : s.curSeq.waitBound.toNat ≠ 0 := fun h => hbound (BitVec.eq_of_toNat_eq h)
  have hreached : s.overBound s.curSeq = true := by
    unfold State.overBound
    rw [hwaited, hb]
    simp [hne, hover]
  have hunit := seqNum_lt s.site.seq
  change execWaitBoundExpiry s = _
  unfold execWaitBoundExpiry
  dsimp only
  rw [hb]
  dsimp only
  rw [hmay, hreached, Bool.and_self, hwaited, if_pos rfl, flagWord_head _ _ _ (by omega)]

/-! ### Deferred traps (R246, R247) -/

/-- A withdrawn instruction leaves what its cell holds beside the block that it has joined. -/
theorem State.withdraw_cell {α : Type} (s : State) (k : Nat) (g : Cell → α) (hg : ∀ c : Cell, g { c with joined := none } = g c) :
    g ((s.withdraw k).cellAt k) = g (s.cellAt k) := by
  unfold State.withdraw
  split
  · rw [State.cellAt_modCell_same, hg]
  · split
    · rw [State.cellAt_modLaunch, State.cellAt_modCell_same, hg]
    · rfl
  · rfl

/-- A trap that begins to stop its cell. -/
theorem State.startStop_goes (s : State) (k : Nat) (t : TrapRec) : (s.startStop k t).site = s.site ∧
    ((s.startStop k t).cellAt k).stop = some (.trap t s.cycle) ∧ ((s.startStop k t).cellAt k).vcmds = (s.cellAt k).vcmds := by
  refine ⟨(s.withdraw_only k).1, ?_, ?_⟩
  · unfold State.startStop
    rw [State.cellAt_modCell_same]
  · unfold State.startStop
    rw [State.cellAt_modCell_same]
    exact s.withdraw_cell k Cell.vcmds fun _ => rfl

/-- A cell that may stop for a deferred trap at once: it has a group, and neither stops nor is in its handler. -/
structure Cell.Stoppable (c : Cell) : Prop where
  bound : c.bound.isSome = true
  stop : c.stop = none
  tin : c.tin = false

theorem State.deferred_stoppable {s : State} {k : Nat} (h : (s.cellAt k).Stoppable) (cause : BitVec 8) (q : SeqId) (pc val : Word) :
    s.deferred k cause q pc val = s.startStop k ⟨cause, true, pc, q, val⟩ := by
  unfold State.deferred
  dsimp only
  rw [if_neg (by simp [Option.isNone_iff_eq_none, ← Option.not_isSome_iff_eq_none, h.bound]), h.stop]
  dsimp only
  rw [h.tin, if_neg Bool.false_ne_true]

/-! ### The bounds of commands (R254, R257) -/

/-- The report of a bound stops the cell with the flag that the command awaits. -/
theorem State.reportBound_goes {s : State} {k : Nat} (mark : State → State) (hcell : ((mark s).cellAt k).Stoppable) (hsite : (mark s).site = s.site) (hcycle : (mark s).cycle = s.cycle)
    (q : SeqId) (pc : Word) (flag : Nat × Nat) {unit : Nat} (hunit : unit < 16) (pos again head : Nat) :
    let u := s.reportBound k q pc flag unit pos again head mark
    u.site = s.site ∧ (u.cellAt k).vcmds = ((mark s).cellAt k).vcmds ∧
    (u.cellAt k).stop = some (.trap ⟨0x08, true, pc, q, waitedFlag flag.1 flag.2 unit (s.cycle - max head again) + BitVec.ofNat 64 (min pos 255 * 2 ^ 24)⟩ s.cycle) := by
  have hreport : s.reportBound k q pc flag unit pos again head mark = (mark s).startStop k ⟨0x08, true, pc, q,
      waitedFlag flag.1 flag.2 unit (s.cycle - max head again) + BitVec.ofNat 64 (min pos 255 * 2 ^ 24)⟩ := by
    unfold State.reportBound State.counted
    rw [State.deferred_stoppable hcell, flagWord_eq_waitedFlag _ _ _ _ hunit]
    rfl
  obtain ⟨hs, hstop, hv⟩ := (mark s).startStop_goes k ⟨0x08, true, pc, q,
    waitedFlag flag.1 flag.2 unit (s.cycle - max head again) + BitVec.ofNat 64 (min pos 255 * 2 ^ 24)⟩
  dsimp only
  rw [hreport]
  exact ⟨hs.trans hsite, hv, hstop.trans (by rw [hcycle])⟩

theorem State.ranOut_iff (s : State) (bound again head : Nat) : s.ranOut bound again head = true ↔ bound ≠ 0 ∧ bound ≤ s.cycle - max head again := by
  rw [State.ranOut, Bool.and_eq_true, bne_iff_ne, decide_eq_true_iff]
  rfl

theorem State.ranOut_word (s : State) {w : Word} {again head : Nat} (hne : w ≠ 0) (hle : w.toNat ≤ s.cycle - max head again) : s.ranOut w.toNat again head = true :=
  (s.ranOut_iff ..).2 ⟨fun h => hne (BitVec.eq_of_toNat_eq h), hle⟩

/-- A vector command marked as reported. -/
def State.markVector (k n : Nat) (s : State) : State :=
  s.modCell k (fun c => { c with vcmds := c.vcmds.map (fun (o : VCmd) => if o.id = n then { o with raised := true } else o) })

/-- The template of a chain that is not taken up, marked as reported wherever it stands. -/
def State.markChain (k n : Nat) (s : State) : State :=
  { s with engines := s.engines.map (fun (g : Nat × Engine) => (g.1, { g.2 with arming := g.2.arming.map (Arming.raise k n) })) }.modCell k (fun c =>
    { c with chains := c.chains.map (fun (x : Nat × Arming) => (x.1, x.2.raise k n)) })

/-- The flag that a vector command awaits (R257): that of its operand queue at the head, else its own end. -/
def Cell.vectorFlag (c : Cell) (v : VCmd) : Nat × Nat :=
  match c.stepWait v with
  | some vq => if c.vecPos v = 0 then (4, vq) else (13, 0)
  | none => (13, 0)

theorem Cell.vecPos_eq (c : Cell) (v : VCmd) : c.vecPos v = waitBefore c v := by
  unfold Cell.vecPos waitBefore
  rw [List.countP_eq_length_filter]

section
variable {s : State}

theorem exec_cycleBoundExpiry_vector {v : VCmd} (hv : s.cur.vcmds.find? (fun v => v.id == s.site.n) = some v) (hraised : v.raised = false)
    (hout : s.ranOut v.bound v.again (s.cur.vecHead v) = true) : exec .cycleBoundExpiry s = .next (s.reportBound s.here .C v.pc (s.cur.vectorFlag v) 1
      (s.cur.vecPos v) v.again (s.cur.vecHead v) (State.markVector s.here s.site.n)) := by
  change execCycleBoundExpiry s = _
  unfold execCycleBoundExpiry
  dsimp only
  rw [show (s.cellAt s.here).vcmds.find? (fun v => v.id == s.site.n) = some v from hv]
  dsimp only
  rw [if_neg (by simp [hraised, show s.ranOut v.bound v.again ((s.cellAt s.here).vecHead v) = true from hout])]
  rfl

variable (hvector : s.cur.vcmds.find? (fun v => v.id == s.site.n) = none)
include hvector

theorem exec_cycleBoundExpiry_copy {x : Copy} (hx : s.cur.copies.find? (fun x => x.id == s.site.n) = some x) (hraised : x.raised = false)
    (hout : s.ranOut (fld x.f 14).toNat x.again x.issued = true) : exec .cycleBoundExpiry s =
      .next (s.reportBound s.here x.seq x.pc (s.copyFlag s.here x) 2 0 x.again x.issued (fun t => t.modCopy s.here s.site.n (fun o => { o with raised := true }))) := by
  change execCycleBoundExpiry s = _
  unfold execCycleBoundExpiry
  dsimp only
  rw [show (s.cellAt s.here).vcmds.find? (fun v => v.id == s.site.n) = none from hvector, show (s.cellAt s.here).copies.find? (fun x => x.id == s.site.n) = some x from hx]
  dsimp only
  rw [if_neg (by simp [hraised, hout])]

variable (hcopy : s.cur.copies.find? (fun x => x.id == s.site.n) = none)
include hcopy

theorem exec_cycleBoundExpiry_matrix {m : MCmd} (hm : (s.quadAt (quadOf s.here)).cmds.find? (fun o => o.cell == s.here && o.id == s.site.n && o.ofWalk.isNone) = some m)
    (hraised : m.raised = false) (htagged : m.tagged = false)
    (hout : s.ranOut (fld m.f 14).toNat m.again ((s.quadAt (quadOf s.here)).headOf m) = true) : exec .cycleBoundExpiry s =
      .next (s.reportBound s.here .C m.pc (s.arrayFlag m) 0 ((s.quadAt (quadOf s.here)).posOf m) m.again ((s.quadAt (quadOf s.here)).headOf m)
        (fun t => t.modCmd (quadOf s.here) m (fun o => { o with raised := true }))) := by
  change execCycleBoundExpiry s = _
  unfold execCycleBoundExpiry
  dsimp only
  rw [show (s.cellAt s.here).vcmds.find? (fun v => v.id == s.site.n) = none from hvector, show (s.cellAt s.here).copies.find? (fun x => x.id == s.site.n) = none from hcopy, hm]
  dsimp only
  rw [if_neg (by simp [hraised, htagged, hout])]

theorem exec_cycleBoundExpiry_chain (hm : (s.quadAt (quadOf s.here)).cmds.find? (fun o => o.cell == s.here && o.id == s.site.n && o.ofWalk.isNone) = none)
    (hidle : ∀ g ∈ s.engines, g.2.arming = []) {x : Nat × Arming}
    (hx : s.cur.chains.find? (fun x => x.2.poster.cell == s.here && x.2.poster.id == s.site.n) = some x) (hraised : x.2.poster.raised = false)
    {t : BitVec 6} (htag : x.2.poster.tag = some t) (hout : s.ranOut x.2.poster.bound.toNat x.2.poster.again x.2.poster.issued = true) : exec .cycleBoundExpiry s =
      .next (s.reportBound s.here x.2.poster.seq x.2.poster.pc (13, t.toNat) 3 0 x.2.poster.again x.2.poster.issued (State.markChain s.here s.site.n)) := by
  have hengines (p : Arming → Bool) : s.engines.findSome? (fun g => g.2.arming.find? p) = none :=
    List.findSome?_eq_none_iff.2 fun g hg => by rw [hidle g hg]; rfl
  change execCycleBoundExpiry s = _
  unfold execCycleBoundExpiry
  dsimp only
  rw [show (s.cellAt s.here).vcmds.find? (fun v => v.id == s.site.n) = none from hvector, show (s.cellAt s.here).copies.find? (fun x => x.id == s.site.n) = none from hcopy, hm]
  dsimp only
  rw [hengines, show (s.cellAt s.here).chains.find? (fun x => x.2.poster.cell == s.here && x.2.poster.id == s.site.n) = some x from hx]
  dsimp only [Option.none_or, Option.map]
  rw [if_neg (by simp [hraised, htag, hout]), htag]
  rfl

end

/-! ### The flag and the cycle of each kind of command (R254, R257, R399) -/

theorem Cell.vecHead_eq (c : Cell) (v : VCmd) : c.vecHead v =
    if v.started.isSome = true then v.headSince else if waitBefore c v = 0 then max v.issued c.vlast else v.issued := by
  rw [Cell.vecHead, Cell.vecPos_eq]

theorem Cell.vectorFlag_eq (c : Cell) (v : VCmd) : c.vectorFlag v = (if waitBefore c v = 0 then c.stepWait v else none).elim (13, 0) (fun n => (4, n)) := by
  unfold Cell.vectorFlag
  rw [Cell.vecPos_eq]
  cases c.stepWait v with
  | none => rw [ite_self]; rfl
  | some n => dsimp only; split <;> rfl

/-- A copy behind no missing sequence number awaits its own tag. -/
theorem State.copyFlag_free {s : State} {k : Nat} {x : Copy} (h : s.redHeld.any (fun w => w.owner == .copy k x.id) = false) : s.copyFlag k x = (13, x.tag.toNat) := by
  have hnone : s.redHeld.find? (fun w => w.owner == .copy k x.id) = none := List.find?_eq_none.2 (List.any_eq_false.1 h)
  unfold State.copyFlag
  rw [hnone]

/-- Where the commit buffer is empty and no drain stands in the array, a matrix command awaits its own tag. -/
theorem State.arrayFlag_free {s : State} {m : MCmd} (hbuf : (s.cellAt m.cell).cbuf = []) (hdrain : ∀ o ∈ (s.quadAt (quadOf m.cell)).cmds, o.op ≠ 5) :
    s.arrayFlag m = (13, m.tag.toNat) := by
  unfold State.arrayFlag
  extract_lets q mine own
  have hmine : mine.any (fun o => o.op == 5 && o.st == 1 && !o.bad && decide (o.unit < o.units) && !s.unitHeld o) = false :=
    List.any_eq_false.2 fun o ho => by simp [hdrain o (List.mem_filter.1 ho).1]
  rw [hbuf, List.find?_nil]
  dsimp only
  rw [hmine, if_neg Bool.false_ne_true]

/-- A matrix command that has started waits behind none. -/
theorem Quad.posOf_started {q : Quad} {m : MCmd} (hwaits : m.waits = false) (hop : m.op < 5) : q.posOf m = 0 := by
  have hqueued : q.queued m = false := by
    unfold Quad.queued
    rw [hwaits, show (m.op == 6) = false from beq_false_of_ne (by omega)]
    rfl
  unfold Quad.posOf
  rw [hqueued, if_neg Bool.false_ne_true]

theorem Quad.headOf_started {q : Quad} {m : MCmd} (h : m.st ≠ 0) : q.headOf m = m.headSince := by
  unfold Quad.headOf
  exact if_pos (by simp [h])

/-! ### A command that reaches its bound (R254) -/

section
variable {s : State} (hcell : s.cur.Stoppable)
include hcell

/-- A vector command past its bound raises its deferred trap, and is marked as reported. -/
theorem cycleBoundExpiry_vector_goes {v : VCmd} (hv : s.cur.vcmds.find? (fun v => v.id == s.site.n) = some v) (hraised : v.raised = false)
    (hout : s.ranOut v.bound v.again (s.cur.vecHead v) = true) : Goes .cycleBoundExpiry s (fun u =>
      u.cur.stop = some (.trap ⟨0x08, true, v.pc, .C, waitedFlag (s.cur.vectorFlag v).1 (s.cur.vectorFlag v).2 1 (s.cycle - max (s.cur.vecHead v) v.again) +
        BitVec.ofNat 64 (min (waitBefore s.cur v) 255 * 2 ^ 24)⟩ s.cycle) ∧ ∀ o ∈ u.cur.vcmds, o.id = s.site.n → o.raised = true) := by
  refine ⟨_, exec_cycleBoundExpiry_vector hv hraised hout, ?_⟩
  have hmarked : ((State.markVector s.here s.site.n s).cellAt s.here) =
      { s.cur with vcmds := s.cur.vcmds.map (fun (o : VCmd) => if o.id = s.site.n then { o with raised := true } else o) } := State.cellAt_modCell_same ..
  obtain ⟨hsite, hvcmds, hstop⟩ := State.reportBound_goes (State.markVector s.here s.site.n) (by rw [hmarked]; exact ⟨hcell.bound, hcell.stop, hcell.tin⟩) rfl rfl
    .C v.pc (s.cur.vectorFlag v) (by decide : 1 < 16) (s.cur.vecPos v) v.again (s.cur.vecHead v)
  dsimp only
  rw [State.cur_of_site hsite, hstop, hvcmds, hmarked, Cell.vecPos_eq]
  exact ⟨rfl, forall_mem_map_ite (p := fun x : VCmd => x.id = s.site.n) (r := fun x => x.raised = true) (fun _ => rfl) _⟩

variable (hvector : s.cur.vcmds.find? (fun v => v.id == s.site.n) = none)
include hvector

theorem cycleBoundExpiry_copy_goes {x : Copy} (hx : s.cur.copies.find? (fun x => x.id == s.site.n) = some x) (hraised : x.raised = false)
    (hfree : s.redHeld.any (fun w => w.owner == .copy s.here s.site.n) = false) (hout : s.ranOut (fld x.f 14).toNat x.again x.issued = true) :
    Goes .cycleBoundExpiry s (fun u =>
      u.cur.stop = some (.trap ⟨0x08, true, x.pc, x.seq, waitedFlag 13 x.tag.toNat 2 (s.cycle - max x.issued x.again)⟩ s.cycle)) := by
  have hid : x.id = s.site.n := by simpa using List.find?_some hx
  refine ⟨_, exec_cycleBoundExpiry_copy hvector hx hraised hout, ?_⟩
  obtain ⟨hsite, -, hstop⟩ := State.reportBound_goes (fun t => t.modCopy s.here s.site.n (fun o => { o with raised := true }))
    (by rw [State.modCopy, State.cellAt_modCell_same]; exact ⟨hcell.bound, hcell.stop, hcell.tin⟩) rfl rfl
    x.seq x.pc (s.copyFlag s.here x) (by decide : 2 < 16) 0 x.again x.issued
  rw [State.cur_of_site hsite, hstop, State.copyFlag_free (hid ▸ hfree)]
  exact congrArg (fun w => some (Stop.trap ⟨0x08, true, x.pc, x.seq, w⟩ s.cycle)) (BitVec.add_zero _)

variable (hcopy : s.cur.copies.find? (fun x => x.id == s.site.n) = none)
include hcopy

theorem cycleBoundExpiry_matrix_goes {m : MCmd} (hm : (s.quadAt (quadOf s.here)).cmds.find? (fun o => o.cell == s.here && o.id == s.site.n && o.ofWalk.isNone) = some m)
    (hraised : m.raised = false) (htagged : m.tagged = false) (hst : m.st ≠ 0) (hwaits : m.waits = false) (hop : m.op < 5) (hbuf : s.cur.cbuf = [])
    (hdrain : ∀ o ∈ (s.quadAt (quadOf s.here)).cmds, o.op ≠ 5) (hout : s.ranOut (fld m.f 14).toNat m.again m.headSince = true) :
    Goes .cycleBoundExpiry s (fun u =>
      u.cur.stop = some (.trap ⟨0x08, true, m.pc, .C, waitedFlag 13 m.tag.toNat 0 (s.cycle - max m.headSince m.again)⟩ s.cycle)) := by
  have hmine := List.find?_some hm
  have hown : m.cell = s.here := by
    simp only [Bool.and_eq_true, beq_iff_eq] at hmine
    exact hmine.1.1
  have hhead : (s.quadAt (quadOf s.here)).headOf m = m.headSince := Quad.headOf_started hst
  refine ⟨_, exec_cycleBoundExpiry_matrix hvector hcopy hm hraised htagged (by rw [hhead]; exact hout), ?_⟩
  obtain ⟨hsite, -, hstop⟩ := State.reportBound_goes (fun t => t.modCmd (quadOf s.here) m (fun o => { o with raised := true })) hcell rfl rfl
    .C m.pc (s.arrayFlag m) (by decide : 0 < 16) ((s.quadAt (quadOf s.here)).posOf m) m.again ((s.quadAt (quadOf s.here)).headOf m)
  rw [State.cur_of_site hsite, hstop, State.arrayFlag_free (by rw [hown]; exact hbuf) (by rw [hown]; exact hdrain), Quad.posOf_started hwaits hop, hhead]
  exact congrArg (fun w => some (Stop.trap ⟨0x08, true, m.pc, .C, w⟩ s.cycle)) (BitVec.add_zero _)

theorem cycleBoundExpiry_chain_goes (hm : (s.quadAt (quadOf s.here)).cmds.find? (fun o => o.cell == s.here && o.id == s.site.n && o.ofWalk.isNone) = none)
    (hidle : ∀ g ∈ s.engines, g.2.arming = []) {x : Nat × Arming}
    (hx : s.cur.chains.find? (fun x => x.2.poster.cell == s.here && x.2.poster.id == s.site.n) = some x) (hraised : x.2.poster.raised = false)
    {t : BitVec 6} (htag : x.2.poster.tag = some t) (hout : s.ranOut x.2.poster.bound.toNat x.2.poster.again x.2.poster.issued = true) :
    Goes .cycleBoundExpiry s (fun u => u.cur.stop = some (.trap ⟨0x08, true, x.2.poster.pc, x.2.poster.seq,
      waitedFlag 13 t.toNat 3 (s.cycle - max x.2.poster.issued x.2.poster.again)⟩ s.cycle)) := by
  refine ⟨_, exec_cycleBoundExpiry_chain hvector hcopy hm hidle hx hraised htag hout, ?_⟩
  have hmarked : ((State.markChain s.here s.site.n s).cellAt s.here).Stoppable := by
    unfold State.markChain
    rw [State.cellAt_modCell_same]
    exact ⟨hcell.bound, hcell.stop, hcell.tin⟩
  obtain ⟨hsite, -, hstop⟩ := State.reportBound_goes (State.markChain s.here s.site.n) hmarked rfl rfl
    x.2.poster.seq x.2.poster.pc (13, t.toNat) (by decide : 3 < 16) 0 x.2.poster.again x.2.poster.issued
  dsimp only
  rw [State.cur_of_site hsite, hstop]
  exact congrArg (fun w => some (Stop.trap ⟨0x08, true, x.2.poster.pc, x.2.poster.seq, w⟩ s.cycle)) (BitVec.add_zero _)

end

/-! ### What leaves a check slot -/

theorem State.itemLeaves_store {x : Slot} {pa : Nat} {bs : List Byte} {cls : StoreClass} {repl : Bool} {pc va : Word} (h : x.item = .store pa bs cls repl pc va)
    (s : State) (k : Nat) (q : SeqId) : s.itemLeaves k q x = s.releaseStore k q pa bs cls repl pc va x.at? := by
  rw [State.itemLeaves, h]

theorem State.itemLeaves_block {x : Slot} {key g : Nat} {ws : List Word} (h : x.item = .block key g ws) (s : State) (k : Nat) (q : SeqId) :
    s.itemLeaves k q x = s.releaseBlock key g ws := by
  rw [State.itemLeaves, h]

section
variable {s : State} {x : Slot} (hhead : s.curSeq.slots.head? = some x) (hdue : x.at? + 9 ≤ s.cycle) (hstop : s.cur.stop ≠ some .machineCheck)
  (heq : x.item = x.tell)
include hhead hdue hstop heq

theorem checkSlotRelease_goes {u : State} (hu : s.slotFreed.itemLeaves s.here s.site.seq x = some u) {P : State → Prop} (hP : P u) : Goes .checkSlotRelease s P :=
  ⟨u, by rw [exec_checkSlotRelease_leaves hhead hdue hstop heq, hu]; rfl, hP⟩

theorem exec_checkSlotRelease_stays (hu : s.slotFreed.itemLeaves s.here s.site.seq x = none) : exec .checkSlotRelease s = .next s := by
  rw [exec_checkSlotRelease_leaves hhead hdue hstop heq, hu]
  rfl

theorem checkSlotRelease_push_goes {n : Nat} {v : Word} (hitem : x.item = .push n v) : Goes .checkSlotRelease s (fun u =>
    u.cur.queue n = s.cur.queue n ++ [v] ∧ u.curSeq.slots = s.curSeq.slots.tail ∧ u.mem = s.mem) :=
  checkSlotRelease_goes hhead hdue hstop heq (by rw [State.itemLeaves, hitem]) (s.slotFreed_pushed n v (x.seen s.site.seq))

theorem checkSlotRelease_token_goes {n : Nat} (hitem : x.item = .token n) : Goes .checkSlotRelease s (fun u =>
    u.cur.tokVal n = s.cur.tokVal n + 1 ∧ u.cur.tokRsv n = s.cur.tokRsv n - 1 ∧ u.curSeq.slots = s.curSeq.slots.tail ∧ u.mem = s.mem) :=
  checkSlotRelease_goes hhead hdue hstop heq (by rw [State.itemLeaves, hitem]) (s.slotFreed_signalled n (x.seen s.site.seq))

theorem checkSlotRelease_command_goes {id : Nat} (hitem : x.item = .command id) : Goes .checkSlotRelease s (fun u =>
    u.curSeq.slots = s.curSeq.slots.tail ∧ u.mem = s.mem ∧ u.cur.chains = s.cur.chains.filter (fun y => y.2.poster.id != id) ∧
    (∀ c ∈ u.cur.vcmds, c.id = id → c.inSlot = false) ∧ (∀ c ∈ u.cur.copies, c.id = id → c.inSlot = false) ∧
    (∀ c ∈ u.cur.tensors, c.id = id → c.inSlot = false) ∧
    (∀ c ∈ (u.quadAt (quadOf s.here)).cmds, c.cell = s.here → c.id = id → c.inSlot = false)) :=
  checkSlotRelease_goes hhead hdue hstop heq (by rw [State.itemLeaves, hitem]) (s.slotFreed_command id)

section
variable {key g : Nat} {ws : List Word} (hitem : x.item = .block key g ws) {l : Launch} (hlaunch : s.launch? key = some l)
include hitem hlaunch

theorem exec_checkSlotRelease_block_preempted {e : Nat × Nat} (hbound : l.bound.find? (fun e => e.1 == g) = some e) (hpre : (s.cellAt e.2).stop = some .preempt) :
    exec .checkSlotRelease s = .next s :=
  exec_checkSlotRelease_stays hhead hdue hstop heq ((State.itemLeaves_block hitem ..).trans (State.slotFreed_block_preempted hlaunch hbound hpre ws))

theorem checkSlotRelease_block_goes {e : Nat × Nat} (hbound : l.bound.find? (fun e => e.1 == g) = some e) (hruns : (s.cellAt e.2).stop = none) :
    Goes .checkSlotRelease s (fun u => (u.cellAt e.2).remq = (s.cellAt e.2).remq ++ [ws] ∧ u.curSeq.slots = s.curSeq.slots.tail ∧ u.mem = s.mem) := by
  obtain ⟨u, hu, hgoes⟩ := State.slotFreed_block_bound hlaunch hbound hruns ws
  exact checkSlotRelease_goes hhead hdue hstop heq ((State.itemLeaves_block hitem ..).trans hu) hgoes

theorem exec_checkSlotRelease_block_saved (hbound : l.bound.find? (fun e => e.1 == g) = none) (hsaved : l.saved.any (fun y => y.group == g) = true) :
    exec .checkSlotRelease s = .next s :=
  exec_checkSlotRelease_stays hhead hdue hstop heq ((State.itemLeaves_block hitem ..).trans ((State.slotFreed_block_unbound hlaunch hbound ws).trans (if_pos hsaved)))

/-- A block of a group that has ended is dropped. -/
theorem checkSlotRelease_block_ended_goes (hbound : l.bound.find? (fun e => e.1 == g) = none) (hsaved : l.saved.any (fun y => y.group == g) = false) :
    Goes .checkSlotRelease s (fun u => (∀ c, (u.cellAt c).remq = (s.cellAt c).remq) ∧ u.curSeq.slots = s.curSeq.slots.tail ∧ u.mem = s.mem) :=
  checkSlotRelease_goes hhead hdue hstop heq
    ((State.itemLeaves_block hitem ..).trans ((State.slotFreed_block_unbound hlaunch hbound ws).trans (if_neg (ne_true_of_eq_false hsaved))))
    ⟨s.slotFreed_cell Cell.remq Cell.modSeq_remq, s.slotFreed_curSeq_slots, rfl⟩

end

section
variable {pa : Nat} {bs : List Byte} {cls : StoreClass} {pc va : Word}

theorem checkSlotRelease_replica_goes (hitem : x.item = .store pa bs cls true pc va) : Goes .checkSlotRelease s (fun u =>
    u.curSeq.slots = s.curSeq.slots.tail ∧ u.mem = s.mem ∧
    u.replicas.map (fun r => { r with net := 0 }) = s.replicas.map (fun r => { r with net := 0 }) ++
      [{ pa := pa, op := .write bs, cell := s.here, seq := s.site.seq, cls := cls, pc := pc, va := va, net := 0, born := x.at? }]) := by
  obtain ⟨hstops, hsite, hmem, hreplicas⟩ := s.slotFreed.sendReplica_only
    { pa := pa, op := .write bs, cell := s.here, seq := s.site.seq, cls := cls, pc := pc, va := va, born := x.at? }
  exact checkSlotRelease_goes hhead hdue hstop heq ((State.itemLeaves_store hitem ..).trans (State.releaseStore_replica ..))
    ⟨hstops.toSameSeqs.slots hsite, hmem, hreplicas⟩

variable (hitem : x.item = .store pa bs cls false pc va)
include hitem

theorem checkSlotRelease_away_goes (hdie : homeDie pa ≠ s.here / 64) (hroom : (s.pairAt (s.here / 64) (homeDie pa)).unacked.length < 256) :
    Goes .checkSlotRelease s (fun u => u.curSeq.slots = s.curSeq.slots.tail ∧ u.mem = s.mem ∧
      (u.pairAt (s.here / 64) (homeDie pa)).next = (s.pairAt (s.here / 64) (homeDie pa)).next + 1 ∧
      ((u.pairAt (s.here / 64) (homeDie pa)).unacked.map (fun r => (r.q, r.pa, r.op))) =
        (s.pairAt (s.here / 64) (homeDie pa)).unacked.map (fun r => (r.q, r.pa, r.op)) ++ [((s.pairAt (s.here / 64) (homeDie pa)).next, pa, .write bs)]) := by
  obtain ⟨r, rfl, hop, hr⟩ := s.slotFreed.releaseStore_away s.site.seq bs cls pc va x.at? hdie hroom
  obtain ⟨hstops, hsite, hmem, hnext, hunacked⟩ := s.slotFreed.number_pair (s.here / 64) (homeDie r.pa) r
  rw [hop] at hunacked
  exact checkSlotRelease_goes hhead hdue hstop heq ((State.itemLeaves_store hitem ..).trans hr) ⟨hstops.toSameSeqs.slots hsite, hmem, hnext, hunacked⟩

theorem checkSlotRelease_home_goes (hdie : homeDie pa = s.here / 64) (hfree : s.wordHeld pa = false) : Goes .checkSlotRelease s (fun u =>
    u.curSeq.slots = s.curSeq.slots.tail ∧ (s.badWords = [] → ∀ i, i < bs.length → u.byteAt (pa + i) = bs.getD i 0) ∧
    (∀ a, a < pa ∨ pa + bs.length ≤ a → u.byteAt a = s.byteAt a)) := by
  obtain ⟨u, hu, hseqs, hsite, hmem⟩ := s.slotFreed.releaseStore_home s.site.seq bs cls pc va x.at? hdie ((s.slotFreed_wordHeld pa).trans hfree)
  have hbytes (a : Nat) : u.byteAt a = (s.slotFreed.poke pa bs).byteAt a :=
    State.byteAt_of_mem hmem (hseqs.hbmGen.trans (s.slotFreed.poke_onlyStops pa bs).hbmGen.symm) a
  refine checkSlotRelease_goes hhead hdue hstop heq ((State.itemLeaves_store hitem ..).trans hu) ⟨hseqs.slots hsite, fun hgood i hi => ?_, fun a ha => ?_⟩
  · rw [hbytes, s.slotFreed.byteAt_poke pa (pa + i) bs hgood, if_pos (by omega), Nat.add_sub_cancel_left]
  · exact (hbytes a).trans (s.slotFreed.byteAt_poke_outside pa bs ha)

theorem exec_checkSlotRelease_ordered_held (hdie : homeDie pa = s.here / 64) (hheld : s.wordHeld pa = true) (hcls : cls ≠ .relaxed) :
    exec .checkSlotRelease s = .next s :=
  exec_checkSlotRelease_stays hhead hdue hstop heq
    ((State.itemLeaves_store hitem ..).trans (s.slotFreed.releaseStore_waits _ _ _ _ _ _ hdie ((s.slotFreed_wordHeld pa).trans hheld) hcls))

theorem checkSlotRelease_held_goes (hdie : homeDie pa = s.here / 64) (hheld : s.wordHeld pa = true) (hcls : cls = .relaxed)
    (hroom : (s.cellAt (spCell pa)).freeEntry.isSome = true) : Goes .checkSlotRelease s (fun u =>
      u.mem = s.mem ∧ (u.cellAt (spCell pa)).cbuf.length = (s.cellAt (spCell pa)).cbuf.length + 1) := by
  obtain ⟨e, he⟩ := Option.isSome_iff_exists.1 hroom
  have hfree : (s.slotFreed.cellAt (spCell pa)).freeEntry = some e := (s.slotFreed_freeEntry _).trans he
  obtain ⟨h, hu⟩ := s.slotFreed.releaseStore_held s.site.seq bs pc va x.at? hdie ((s.slotFreed_wordHeld pa).trans hheld) hfree
  subst hcls
  refine checkSlotRelease_goes hhead hdue hstop heq ((State.itemLeaves_store hitem ..).trans hu) ⟨rfl, ?_⟩
  rw [State.cellAt_setCell_same, ← s.slotFreed_cell Cell.cbuf Cell.modSeq_cbuf]
  exact NatMap.length_ins_new _ _ (Cell.freeEntry_new hfree)

end

end

/-- Settles O46: the oldest item leaves its check slot for the place of its kind, a mismatch or a residue failure is a machine check, and a bound that runs out is a
trap with the flag that is awaited. -/
theorem checkSlotsAndBounds : Obligations.CheckSlotsAndBounds := by
  intro s k
  refine ⟨?_, residueFailure_goes s, fun b hb hmay hbound hover => exec_waitBoundExpiry_over hb hmay hbound hover, ?_⟩
  · intro x hhead hdue hstop rest
    refine ⟨exec_checkSlotRelease_mismatch hhead hdue hstop, fun heq => ⟨?_, ?_, ?_, ?_, ?_⟩⟩
    · exact fun n v hitem => checkSlotRelease_push_goes hhead hdue hstop heq hitem
    · exact fun n hitem => checkSlotRelease_token_goes hhead hdue hstop heq hitem
    · exact fun key g ws l hitem hlaunch =>
        ⟨fun e he => ⟨exec_checkSlotRelease_block_preempted hhead hdue hstop heq hitem hlaunch he, checkSlotRelease_block_goes hhead hdue hstop heq hitem hlaunch he⟩,
          fun he => ⟨exec_checkSlotRelease_block_saved hhead hdue hstop heq hitem hlaunch he, checkSlotRelease_block_ended_goes hhead hdue hstop heq hitem hlaunch he⟩⟩
    · exact fun id hitem => checkSlotRelease_command_goes hhead hdue hstop heq hitem
    · intro pa bs cls repl pc va hitem
      cases repl with
      | true => exact ⟨fun _ => checkSlotRelease_replica_goes hhead hdue hstop heq hitem, nofun, nofun, nofun, nofun⟩
      | false =>
        exact ⟨nofun, fun _ => checkSlotRelease_away_goes hhead hdue hstop heq hitem, fun _ => checkSlotRelease_home_goes hhead hdue hstop heq hitem,
          fun _ => exec_checkSlotRelease_ordered_held hhead hdue hstop heq hitem, fun _ => checkSlotRelease_held_goes hhead hdue hstop heq hitem⟩
  · intro hbound hrun htin
    have hcell : s.cur.Stoppable := ⟨hbound, hrun, htin⟩
    refine ⟨?_, fun hvector => ⟨?_, fun hcopy => ⟨?_, ?_⟩⟩⟩
    · intro v hv hraised huses hne since hle
      have hsince : s.cur.vecHead v = since := s.cur.vecHead_eq v
      have hbits : v.bound = bits v.b 31 0 := if_neg (ne_true_of_eq_false huses)
      have hout : s.ranOut v.bound v.again (s.cur.vecHead v) = true := (s.ranOut_iff ..).2 (by rw [hbits, hsince]; exact ⟨hne, hle⟩)
      obtain ⟨u, hu, hstop, hmarked⟩ := cycleBoundExpiry_vector_goes hcell hv hraised hout
      refine ⟨u, hu, hstop.trans ?_, hmarked⟩
      rw [hsince, Cell.vectorFlag_eq]
      cases (if waitBefore s.cur v = 0 then s.cur.stepWait v else none) <;> rfl
    · exact fun x hx hraised hne hfree hle => cycleBoundExpiry_copy_goes hcell hvector hx hraised hfree (s.ranOut_word hne hle)
    · exact fun m hm hraised htagged hst hwaits hop hbuf hdrain hne hle =>
        cycleBoundExpiry_matrix_goes hcell hvector hcopy hm hraised htagged hst hwaits hop hbuf hdrain (s.ranOut_word hne hle)
    · exact fun hm hidle x hx hraised t htag hne hle => cycleBoundExpiry_chain_goes hcell hvector hcopy hm hidle hx hraised htag (s.ranOut_word hne hle)

end Sys2Proof.Machine

namespace Sys2Proof.Machine

set_option Elab.async false

/-- What is read of the state that an event or an instruction leaves. -/
def readAfter {α : Type} (f : State → α) (i : Instr) (s : State) : Option α :=
  match exec i s with
  | .next u => some (f u)
  | _ => none

theorem readAfter_of_next {α : Type} (f : State → α) {i : Instr} {s u : State} (h : exec i s = .next u) : readAfter f i s = some (f u) := by
  unfold readAfter
  rw [h]

/-! ### A walk whose entry drains beyond the scratchpad (R397, R398) -/

/-- A walk over tiles of 128 rows whose drained rows lie 2 ^ 19 bytes apart and which asks for no signature; one entry, of TI = 2 ^ 15, still has its drain
to enter: its destination is 2 ^ 41. -/
def farWalk : MCmd :=
  { id := 1, cell := 0, tag := 0, noTag := false, f := [6, 0, 0, 0, 128, 0, 0, 0, 0, 0, 2 ^ 51, 0, 0, 0, 0], fmt := 0, srseed := 0, srbase := 0, tokens := [],
    pc := 0, issued := 0, inSlot := false, walk := [(0, 2 ^ 15)], pos := 1 }

/-- Quad 0 with that walk. -/
def farWalkQuad : State := { State.reset with quads := [(0, { cmds := [farWalk] })] }

/-- The destination runs into SIGEN, bit 41 of f9, of the drain that enters: it asks for a signature. -/
theorem farWalk_drain_signs : (readAfter (fun u => (u.quadAt 0).cmds) .mraster farWalkQuad).all
    (fun l => l.all (fun c => c.ofWalk != some farWalk.id || tSigen c.f)) = true := by decide +kernel

/-- Refutes O50: its clause on a walk puts no bound on where an entry's drain writes, as the check of f11 at the GO does (R388, R398). The destination of the
drain that `farWalk` sends is 2 ^ 41, and that drain stores a signature where its walk does not. -/
theorem not_matrixCommits : ¬ Obligations.MatrixCommits := by
  intro h
  obtain ⟨_, _, _, _, _, _, _, _, hwalk⟩ := h farWalkQuad
  obtain ⟨_, _, henter⟩ := hwalk farWalk rfl rfl
  obtain ⟨u, hu, _, _, _, c, hc, _, _, _, _, hof, _, _, _, _, _, _, _, _, _, hdrain⟩ := henter (0, 2 ^ 15) rfl rfl (by decide) rfl (by decide)
  have hnone : tSigen c.f = false := (hdrain (by decide)).1
  have hall := farWalk_drain_signs
  rw [readAfter_of_next _ hu, Option.all_some, List.all_eq_true] at hall
  have hsome := hall c hc
  simp [hof, hnone] at hsome

/-! ### Two copies of one number (R342, R346) -/

/-- A copy of 8 bytes within the scratchpad of its cell, from offset 0 to offset 64. -/
def localCopy : Copy :=
  { id := 0, seq := .K, tag := 0, remq := false, f := [0, 0xFFFFFFFC00000, 0xFFFFFFFC00040, 0, 0, 8, 0, 0, 0, 0, 0, 0, 0, 0, 0], srec := [], drec := [], tokens := [],
    pc := 0, issued := 0, inSlot := false }

/-- Cell 0 of die 0 lists that copy, whose bytes have yet to be read, and behind it another of the same number, which has ended with status 1. -/
def copyTwiceListed : State := { State.reset with cells := [(0, { copies := [localCopy, { localCopy with verdict := some 1 }] })] }

/-- The first of the two puts its bytes on their way; the second keeps its status. -/
theorem copyTwiceListed_verdicts :
    readAfter (fun u => u.cur.copies.map (fun y => (y.id, y.verdict))) .copyComplete copyTwiceListed = some [(0, none), (0, some 1)] := by decide +kernel

/-- Refutes O52: it speaks of every state, also of one whose cell lists two copies of one number. Of a copy that has put its bytes on their way its first clause
says that every copy of that number has no status yet: the second of `copyTwiceListed` has one. -/
theorem not_copiesAndArrivingWrites : ¬ Obligations.CopiesAndArrivingWrites := by
  intro h
  obtain ⟨hmoves, _⟩ := h copyTwiceListed
  obtain ⟨_, hsends⟩ := hmoves localCopy rfl rfl rfl rfl rfl (by simp [copyTwiceListed, State.reset])
  obtain ⟨u, hu, _, _, hmarked⟩ := hsends (by decide) rfl (.inl ⟨rfl, .inl rfl⟩) (by decide +kernel)
  have hverdicts := Option.some.inj ((readAfter_of_next _ hu).symm.trans copyTwiceListed_verdicts)
  have hmem : (0, some 1) ∈ u.cur.copies.map (fun y => (y.id, y.verdict)) := by rw [hverdicts]; decide
  obtain ⟨y, hy, heq⟩ := List.mem_map.1 hmem
  obtain ⟨hid, hsome⟩ := Prod.mk.inj heq
  obtain ⟨_, hnone, _⟩ := hmarked y hy hid
  simp [hnone] at hsome

end Sys2Proof.Machine

namespace Sys2Proof.Machine

set_option Elab.async false

/-! ### Exact sums (R112 to R114) -/

theorem Val.isNan_eq (x : Val) : x.isNan = decide (.nan = x) := by cases x <;> rfl

theorem Val.isPosInf_eq (x : Val) : (x.isInf && !x.isNeg) = decide (.inf false = x) := by
  cases x with
  | inf n => cases n <;> rfl
  | nan => rfl
  | num n m e st => rfl

theorem Val.isNegInf_eq (x : Val) : (x.isInf && x.isNeg) = decide (.inf true = x) := by
  cases x with
  | inf n => cases n <;> rfl
  | nan => rfl
  | num n m e st => rfl

theorem any_isInf (xs : List Val) (h : .inf false ∉ xs) : xs.any Val.isInf = decide (.inf true ∈ xs) := by
  rw [Bool.eq_iff_iff, List.any_eq_true, decide_eq_true_iff]
  constructor
  · rintro ⟨x, hx, hinf⟩
    cases x with
    | inf n => cases n with
      | true => exact hx
      | false => exact absurd hx h
    | nan => simp [Val.isInf] at hinf
    | num n m e st => simp [Val.isInf] at hinf
  · exact fun hx => ⟨_, hx, rfl⟩

/-- An exact sum by its terms: the specials first, then the sum of the finite ones. -/
theorem exactSum_eq (mode : Nat) (xs : List Val) : exactSum mode xs =
    if .nan ∈ xs then .nan
    else if .inf false ∈ xs then (if .inf true ∈ xs then .nan else .inf false)
    else if .inf true ∈ xs then .inf true
    else if (sumUnits xs).1 = 0 then .num (if xs.all (fun x => x.isZero && x.isNeg) then true else mode == 3) 0 0
    else .num (decide ((sumUnits xs).1 < 0)) (sumUnits xs).1.natAbs (sumUnits xs).2 := by
  have hany (v : Val) : xs.any (fun x => decide (v = x)) = decide (v ∈ xs) := by
    rw [Bool.eq_iff_iff, List.any_eq_true, decide_eq_true_iff]
    simp
  have hnan : xs.any Val.isNan = decide (.nan ∈ xs) := by rw [show Val.isNan = _ from funext Val.isNan_eq, hany]
  have hpos : xs.any (fun x => x.isInf && !x.isNeg) = decide (.inf false ∈ xs) := by simp only [Val.isPosInf_eq, hany]
  have hneg : xs.any (fun x => x.isInf && x.isNeg) = decide (.inf true ∈ xs) := by simp only [Val.isNegInf_eq, hany]
  unfold exactSum
  by_cases h : .inf false ∈ xs
  · simp only [hnan, hpos, hneg, decide_eq_true_eq, if_pos h]
  · simp only [hnan, hpos, any_isInf xs h, decide_eq_true_eq, if_neg h]

theorem Val.units_of_isZero {x : Val} (h : x.isZero = true) (k : Int) : x.units k = 0 := by
  cases x with
  | num n m e st =>
    simp only [Val.isZero, Bool.and_eq_true, beq_iff_eq] at h
    simp [Val.units, h.1]
  | nan => rfl
  | inf n => rfl

/-- The sum of finite values in units, zeros among them or not. -/
theorem sumUnits_fst (xs : List Val) : (sumUnits xs).1 = (xs.map (Val.units (sumUnits xs).2)).sum := by
  have hfold (k : Int) (l : List Val) (a : Int) :
      l.foldl (fun a x => if x.isZero then a else a + x.units k) a = a + (l.map (Val.units k)).sum := by
    induction l generalizing a with
    | nil => simp
    | cons x l ih =>
      rw [List.foldl_cons, ih, List.map_cons, List.sum_cons]
      split
      · rename_i hz; rw [Val.units_of_isZero hz, Int.zero_add]
      · exact Int.add_assoc ..
  unfold sumUnits
  exact (hfold _ xs 0).trans (Int.zero_add _)

/-- Terms whose last place is the unit are summed in units. -/
theorem sumUnits_snd {xs : List Val} (h : ∀ x ∈ xs, x.expo = 0) : (sumUnits xs).2 = 0 := by
  unfold sumUnits
  refine List.foldlRecOn (motive := (· = 0)) xs _ rfl fun k hk x hx => ?_
  split
  · exact hk
  · rw [hk, h x hx, min_self]

theorem exactSum_of_zeros (mode : Nat) {xs : List Val} (h : ∀ x ∈ xs, x = .num true 0 0 ∨ x = .num false 0 0) :
    exactSum mode xs = .num (if xs.all (fun x => x.isZero && x.isNeg) then true else mode == 3) 0 0 := by
  have hnot (v : Val) (h1 : v ≠ .num true 0 0) (h2 : v ≠ .num false 0 0) : v ∉ xs := fun hv => (h v hv).elim h1 h2
  have hsum : (sumUnits xs).1 = 0 := by
    rw [sumUnits_fst]
    refine List.sum_eq_zero fun y hy => ?_
    obtain ⟨x, hx, rfl⟩ := List.mem_map.1 hy
    rcases h x hx with rfl | rfl <;> exact Val.units_of_isZero rfl _
  rw [exactSum_eq, if_neg (hnot .nan nofun nofun), if_neg (hnot (.inf false) nofun nofun), if_neg (hnot (.inf true) nofun nofun), if_pos hsum]

/-! ### Sums of integers (R112, R113) -/

/-- A whole number of units: what an integer and a product of integers are. -/
def Val.Whole (x : Val) : Prop := ∃ n m, x = .num n m 0

theorem whole_ofInt (z : Int) : (ofInt z).Whole := ⟨_, _, rfl⟩

theorem whole_mul_ofInt (a b : Int) : ((ofInt a).mul (ofInt b)).Whole := ⟨_, _, rfl⟩

theorem sign_mul_natAbs (z : Int) : (if z < 0 then -1 else 1) * (z.natAbs : Int) = z := by split <;> omega

theorem units_ofInt (z : Int) : (ofInt z).units 0 = z := by
  simp only [ofInt, Val.units, pow2, decide_eq_true_eq, Int.sub_self, Int.toNat_zero, Nat.pow_zero, Nat.mul_one]
  exact sign_mul_natAbs z

theorem units_mul_ofInt (a b : Int) : ((ofInt a).mul (ofInt b)).units 0 = a * b := by
  calc ((ofInt a).mul (ofInt b)).units 0
      = ((if a < 0 then -1 else 1) * (a.natAbs : Int)) * ((if b < 0 then -1 else 1) * (b.natAbs : Int)) := by
        simp only [ofInt, Val.mul, Val.units, pow2]
        by_cases ha : a < 0 <;> by_cases hb : b < 0 <;> simp [ha, hb]
    _ = a * b := by rw [sign_mul_natAbs, sign_mul_natAbs]

/-- An exact sum of whole numbers is their sum. -/
theorem exactSum_whole (mode : Nat) {xs : List Val} (h : ∀ x ∈ xs, x.Whole) :
    (exactSum mode xs).Whole ∧ (exactSum mode xs).units 0 = (xs.map (Val.units 0)).sum := by
  have hnot (v : Val) (hv : ¬ v.Whole) : v ∉ xs := fun hx => hv (h v hx)
  have hexp : (sumUnits xs).2 = 0 := sumUnits_snd fun x hx => by obtain ⟨n, m, rfl⟩ := h x hx; rfl
  have hsum : (sumUnits xs).1 = (xs.map (Val.units 0)).sum := by rw [sumUnits_fst, hexp]
  rw [exactSum_eq, if_neg (hnot .nan nofun), if_neg (hnot (.inf false) nofun), if_neg (hnot (.inf true) nofun), hsum, hexp]
  split
  · rename_i hz
    exact ⟨⟨_, _, rfl⟩, by rw [hz]; simp [Val.units]⟩
  · exact ⟨whole_ofInt _, units_ofInt _⟩

/-- An INT32 accumulator takes a whole number clamped, or modulo 2^32 (R113). -/
theorem accRound_whole {e : Word} (he : fmtAcc e = 12) (r : Nat) {x : Val} (h : x.Whole) :
    (accRound e r x : Int) = (if fmtSat e = true then max (-2147483648) (min 2147483647 (x.units 0)) else x.units 0) % 4294967296 := by
  obtain ⟨n, m, rfl⟩ := h
  simp only [accRound, he, if_true, Int.lt_irrefl, if_false, intFit]
  rw [Int.toNat_of_nonneg (Int.emod_nonneg _ (by decide))]
  rfl

end Sys2Proof.Machine

namespace Sys2Proof.Machine

set_option Elab.async false

/-! ### The elements of a result (R117, R392 to R395) -/

/-- One of pieces of one length that stand behind one another. -/
theorem take_drop_flatMap {α β : Type} (f : α → List β) (w : Nat) (l : List α) (i : Nat) (hi : i < l.length) (h : ∀ x ∈ l, (f x).length = w) :
    ((l.flatMap f).drop (w * i)).take w = f l[i] := by
  induction l generalizing i with
  | nil => simp at hi
  | cons x l ih =>
    have hx : (f x).length = w := h x List.mem_cons_self
    cases i with
    | zero => rw [List.flatMap_cons, Nat.mul_zero, List.drop_zero, List.take_left' hx, List.getElem_cons_zero]
    | succ i =>
      rw [List.flatMap_cons, Nat.mul_succ, Nat.add_comm, ← List.drop_drop, List.drop_left' hx, List.getElem_cons_succ]
      exact ih i (Nat.lt_of_succ_lt_succ hi) fun y hy => h y (List.mem_cons_of_mem _ hy)

/-- Element j of row i, where every row has n elements of w bytes. -/
theorem take_drop_rows {β : Type} (row : Nat → List β) {w m n i j : Nat} (hrow : ∀ i, (row i).length = w * n) (hi : i < m) (hj : j < n) :
    (((List.range m).flatMap row).drop (w * (i * n + j))).take w = ((row i).drop (w * j)).take w := by
  have hwhole := take_drop_flatMap row (w * n) (List.range m) i (by simpa using hi) fun x _ => hrow x
  have hfits : w * j + w ≤ w * n := Nat.mul_le_mul_left w hj
  rw [List.getElem_range] at hwhole
  rw [← hwhole, List.drop_take, List.take_take, List.drop_drop, min_eq_left (by omega), Nat.mul_add, Nat.mul_comm i, Nat.mul_assoc]

theorem Memory.reads_add (gen : Nat) (mem : List Host.Cell) (pa m n : Nat) :
    Memory.reads gen mem pa (m + n) = Memory.reads gen mem pa m ++ Memory.reads gen mem (pa + m) n := by
  induction m generalizing pa with
  | zero => simp [Memory.reads]
  | succ m ih => rw [Nat.succ_add, Memory.reads, Memory.reads, ih, List.cons_append, Nat.add_right_comm, Nat.add_assoc]

@[simp] theorem Memory.length_reads (gen : Nat) (mem : List Host.Cell) (pa n : Nat) : (Memory.reads gen mem pa n).length = n := by
  induction n generalizing pa with
  | zero => rfl
  | succ n ih => rw [Memory.reads, List.length_cons, ih]

theorem State.length_bytesAt (s : State) (pa n : Nat) : (s.bytesAt pa n).length = n := Memory.length_reads ..

/-- Bytes within a run of bytes. -/
theorem State.take_drop_bytesAt (s : State) (pa : Nat) {i w n : Nat} (h : i + w ≤ n) : ((s.bytesAt pa n).drop i).take w = s.bytesAt (pa + i) w := by
  obtain ⟨k, rfl⟩ := Nat.exists_eq_add_of_le h
  unfold State.bytesAt
  rw [Nat.add_assoc, Memory.reads_add, Memory.reads_add, List.drop_left' (Memory.length_reads ..), List.take_left' (Memory.length_reads ..)]

section
variable (s : State) (c : MCmd)

theorem State.matrixBytes_mzero (h : c.op = 7) : s.matrixBytes c = List.replicate (tM c.f * tN c.f * accBytes c.fmt) 0 := by
  unfold State.matrixBytes
  simp only [show tOp c.f = 7 from h]

theorem State.matrixBytes_mload (h : c.op = 8) : s.matrixBytes c = (List.range (tM c.f)).flatMap (fun i =>
    s.bytesAt (spAddr c.cell (tEaddr c.f 1 + i * tEstride c.f 5)) (tN c.f * accBytes c.fmt)) := by
  unfold State.matrixBytes
  simp only [show tOp c.f = 8 from h]
  rfl

/-- Element j of row i of a command that sums products. -/
def State.summed (i j : Nat) (b : List Val) : List Byte :=
  leBytes (accBytes c.fmt) (c.element i j
    (if readsC c.op = true then mfVal (fmtAcc c.fmt) 0 (((s.cellAt c.cell).regionCodes c.f c.fmt i).getD j 0) else .num false 0 0)
    ((s.asIssued c.cell).rowA c.cell c.f c.fmt i) b)

theorem State.length_summed (i j : Nat) (b : List Val) : (s.summed c i j b).length = accBytes c.fmt := length_leBytes ..

/-- Row i of its result. -/
def State.summedRow (i : Nat) : List Byte :=
  ((List.range (tN c.f)).map ((s.asIssued c.cell).colB c.cell c.f c.fmt)).zipIdx.flatMap (fun x => s.summed c i x.2 x.1)

theorem State.regionCodes_asIssued (k : Nat) : ((s.asIssued k).cellAt k).regionCodes = (s.cellAt k).regionCodes := by
  unfold State.asIssued
  rw [State.cellAt_modCell_same]
  rfl

theorem State.matrixBytes_sums (h7 : c.op ≠ 7) (h8 : c.op ≠ 8) : s.matrixBytes c = (List.range (tM c.f)).flatMap (s.summedRow c) := by
  unfold State.matrixBytes
  simp only [State.regionCodes_asIssued]
  split
  · rename_i h; exact absurd h h7
  · rename_i h; exact absurd h h8
  · rfl

theorem State.length_summedRow (i : Nat) : (s.summedRow c i).length = accBytes c.fmt * tN c.f := by
  unfold State.summedRow
  simp [List.length_flatMap, State.length_summed, Nat.mul_comm]

theorem State.take_drop_summedRow (i : Nat) {j : Nat} (hj : j < tN c.f) :
    ((s.summedRow c i).drop (accBytes c.fmt * j)).take (accBytes c.fmt) = s.summed c i j ((s.asIssued c.cell).colB c.cell c.f c.fmt j) := by
  unfold State.summedRow
  rw [take_drop_flatMap _ _ _ _ (by simpa using hj) fun x _ => s.length_summed c i x.2 x.1]
  simp

section
variable {i j : Nat} (hi : i < tM c.f) (hj : j < tN c.f)
include hi hj

theorem State.matrixBytes_mzero_element (h : c.op = 7) :
    ((s.matrixBytes c).drop (accBytes c.fmt * (i * tN c.f + j))).take (accBytes c.fmt) = List.replicate (accBytes c.fmt) 0 := by
  have hrow : i * tN c.f + j + 1 ≤ tM c.f * tN c.f :=
    calc i * tN c.f + j + 1 ≤ (i + 1) * tN c.f := by rw [Nat.succ_mul]; omega
      _ ≤ tM c.f * tN c.f := Nat.mul_le_mul_right _ hi
  have hfits := Nat.mul_le_mul_left (accBytes c.fmt) hrow
  rw [s.matrixBytes_mzero c h, List.drop_replicate, List.take_replicate, min_eq_left]
  rw [Nat.mul_succ, Nat.mul_comm _ (tM c.f * tN c.f)] at hfits
  omega

theorem State.matrixBytes_mload_element (h : c.op = 8) :
    ((s.matrixBytes c).drop (accBytes c.fmt * (i * tN c.f + j))).take (accBytes c.fmt) =
      s.bytesAt (spAddr c.cell (tEaddr c.f 1 + i * tEstride c.f 5 + accBytes c.fmt * j)) (accBytes c.fmt) := by
  have hfits : accBytes c.fmt * j + accBytes c.fmt ≤ tN c.f * accBytes c.fmt := by
    rw [Nat.mul_comm (tN c.f)]; exact Nat.mul_le_mul_left _ hj
  rw [s.matrixBytes_mload c h, take_drop_rows _ (fun i => (s.length_bytesAt ..).trans (Nat.mul_comm ..)) hi hj, s.take_drop_bytesAt _ hfits, ← spAddr_add]

theorem State.matrixBytes_sum_element (h : c.op ≤ 4) :
    ((s.matrixBytes c).drop (accBytes c.fmt * (i * tN c.f + j))).take (accBytes c.fmt) =
      s.summed c i j ((s.asIssued c.cell).colB c.cell c.f c.fmt j) := by
  rw [s.matrixBytes_sums c (by omega) (by omega), take_drop_rows _ (s.length_summedRow c) hi hj, s.take_drop_summedRow c i hj]

end

end

end Sys2Proof.Machine

namespace Sys2Proof.Machine

set_option Elab.async false

/-! ### What a command finds in its tile leaves the tile (R100, R120) -/

/-- Memory, the quads and the vector rows of every cell are as they were. -/
structure State.SameTiles (s u : State) : Prop where
  mem : u.mem = s.mem
  quads : u.quads = s.quads
  rows : ∀ k, (u.cellAt k).rows = (s.cellAt k).rows

theorem State.SameTiles.refl (s : State) : s.SameTiles s := ⟨rfl, rfl, fun _ => rfl⟩

theorem State.SameTiles.trans {s u v : State} (h : s.SameTiles u) (h' : u.SameTiles v) : s.SameTiles v :=
  ⟨h'.mem.trans h.mem, h'.quads.trans h.quads, fun k => (h'.rows k).trans (h.rows k)⟩

theorem State.SameTiles.foldl {α : Type} {f : State → α → State} (h : ∀ (s : State) x, s.SameTiles (f s x)) (l : List α) (s : State) : s.SameTiles (l.foldl f s) :=
  List.foldlRecOn l f (.refl s) fun u hu x _ => hu.trans (h u x)

/-- The same of a fold that carries a value beside the state. -/
theorem State.SameTiles.foldl_snd {α β : Type} {f : β × State → α → β × State} (h : ∀ (x : β × State) a, x.2.SameTiles (f x a).2) (l : List α) (x : β × State) :
    x.2.SameTiles (l.foldl f x).2 :=
  List.foldlRecOn (motive := fun y => x.2.SameTiles y.2) l f (.refl x.2) fun y hy a _ => hy.trans (h y a)

/-- A change to no cell, no quad and no byte. -/
theorem State.SameTiles.of_same {s u : State} (mem : u.mem = s.mem := by rfl) (quads : u.quads = s.quads := by rfl) (cells : u.cells = s.cells := by rfl) :
    s.SameTiles u := ⟨mem, quads, fun k => by rw [State.cellAt, State.cellAt, cells]⟩

theorem State.modCell_sameTiles (s : State) (k : Nat) (f : Cell → Cell) (h : (f (s.cellAt k)).rows = (s.cellAt k).rows) : s.SameTiles (s.modCell k f) := by
  refine ⟨rfl, rfl, fun j => ?_⟩
  by_cases hj : j = k
  · subst hj; rw [State.cellAt_modCell_same, h]
  · rw [State.cellAt_modCell_other _ _ hj]

theorem State.logBad_sameTiles (s : State) (k pa who : Nat) : s.SameTiles (s.logBad k pa who) := .of_same

theorem State.logOwn_sameTiles (s : State) (k : Nat) (a : Word) (who : Nat) : s.SameTiles (s.logOwn k a who) := .of_same

theorem State.sendAsk_sameTiles (s : State) (k : Nat) (user : Option Nat) (o : Owner) (idx pa : Nat) (repl : Bool) (n : Nat) (q : Option (Nat × SeqId)) :
    s.SameTiles (s.sendAsk k user o idx pa repl n q) := by
  have hask (a : Nat) : s.SameTiles (s.ask k user o idx a n q) := .of_same (s.carry_mem ..) (s.carry_quads ..) (s.carry_cells ..)
  unfold State.sendAsk
  dsimp only
  generalize (if repl then s.replica (k / 64) pa else pa) = a
  split
  · exact .refl s
  · exact hask a

theorem State.askElems_sameTiles (s : State) (k : Nat) (o : Owner) (n : Nat) (l : List (Nat × Nat × Word)) : s.SameTiles (s.askElems k o n l) :=
  State.SameTiles.foldl (fun u _ => u.sendAsk_sameTiles ..) l s

theorem State.gatherAll_sameTiles (s : State) (k : Nat) (v : VCmd) : s.SameTiles (s.gatherAll k v).2 := by
  refine State.SameTiles.foldl_snd (fun x e => ?_) v.addrs (({} : MemRes), s)
  dsimp only
  split
  · exact x.2.logBad_sameTiles ..
  · exact .refl x.2
  · exact .refl x.2

theorem State.setVcmd_sameTiles (s : State) (k : Nat) (v : VCmd) : s.SameTiles (s.setVcmd k v) := s.modCell_sameTiles k _ rfl

/-- A gather reads its elements, and its row stays with it until it completes (R376). -/
theorem State.performMem_gather_sameTiles {s u : State} {k : Nat} {v : VCmd} (hop : v.op = .vgather) (h : s.performMem k v = some u) : s.SameTiles u := by
  unfold State.performMem at h
  dsimp only at h
  split at h
  · obtain rfl := Option.some.inj h
    exact .refl s
  · split at h
    · simp at h
    · split at h
      · obtain rfl := Option.some.inj h
        exact s.askElems_sameTiles ..
      · split at h
        · simp at h
        · obtain rfl := Option.some.inj h
          exact ((s.gatherAll_sameTiles k v).trans .of_same).trans (State.setVcmd_sameTiles ..)

theorem Cell.statLane_rows (amax : Bool) (c : Cell) (x : Val) : (c.statLane amax x).rows = c.rows := by
  unfold Cell.statLane
  split
  · rfl
  · split <;> rfl

theorem VCmd.actStat_rows (v : VCmd) (c : Cell) : (v.actStat c).2.rows = c.rows := by
  unfold VCmd.actStat
  dsimp only
  split
  · rfl
  · split
    · rfl
    · rfl
    · exact List.foldlRecOn (motive := fun y : Cell => y.rows = c.rows) _ _ rfl fun y hy x _ => (y.statLane_rows _ x).trans hy

/-- Statistics commands act on the statistics, not on the rows (R149). -/
theorem Cell.actStats_rows (c : Cell) (id : Nat) : (c.actStats id).rows = c.rows :=
  List.foldlRecOn (motive := fun y : Cell => y.rows = c.rows) _ _ rfl fun y hy v _ => (VCmd.actStat_rows v y).trans hy

theorem State.formRow_sameTiles (s : State) (k p skip : Nat) : s.SameTiles (s.formRow k p skip) := by
  refine State.SameTiles.foldl (fun u o => ?_) _ s
  split
  · rename_i hop
    cases hperf : u.performMem k o with
    | none => exact .refl u
    | some w => exact State.performMem_gather_sameTiles hop hperf
  · split
    · exact u.modCell_sameTiles k _ (Cell.actStats_rows ..)
    · exact .refl u

theorem State.mixRow_sameTiles (s : State) (w : Nat) (r : Row) (l : List (Row × Row)) : s.SameTiles (s.mixRow w r l).2 :=
  State.SameTiles.foldl_snd (fun _ _ => .of_same) l (r, s)

theorem State.regionView_sameTiles (s : State) (c : MCmd) : s.SameTiles (s.regionView c).2 := by
  unfold State.regionView
  dsimp only
  split
  · exact .refl s
  · change s.SameTiles (List.foldl _ ((s.cellAt c.cell).rows, s) (List.range (tM c.f))).2
    refine State.SameTiles.foldl_snd (fun x i => ?_) _ ((s.cellAt c.cell).rows, s)
    exact (x.2.formRow_sameTiles ..).trans (State.mixRow_sameTiles ..)

theorem State.arbiterBytes_sameTiles (s : State) (c : MCmd) : s.SameTiles (s.arbiterBytes c).2 := s.regionView_sameTiles c

theorem State.meetBad_sameTiles {s u : State} {c : MCmd} {reads : Bool} (h : s.meetBad c reads = some u) : s.SameTiles u := by
  unfold State.meetBad at h
  dsimp only at h
  split at h
  · obtain rfl := Option.some.inj h
    exact s.logBad_sameTiles ..
  · obtain rfl := Option.some.inj h
    exact s.logOwn_sameTiles ..
  · simp at h

/-- A tile that no vector command writes is found as it stands. -/
theorem State.regionView_of_idle {s : State} {c : MCmd} (h : ∀ o ∈ (s.cellAt c.cell).vcmds, o.started = none) : s.regionView c = (s, s) := by
  have hidle : (s.cellAt c.cell).vcmds.all (fun o => o.started.isNone) = true := List.all_eq_true.2 fun o ho => by rw [h o ho]; rfl
  unfold State.regionView
  dsimp only
  rw [hidle, Bool.or_true, if_pos rfl]

theorem State.arbiterBytes_of_idle {s : State} {c : MCmd} (hop : c.op ≠ 5) (h : ∀ o ∈ (s.cellAt c.cell).vcmds, o.started = none) :
    s.arbiterBytes c = (s.matrixBytes c, s) := by
  unfold State.arbiterBytes
  rw [State.regionView_of_idle h]
  dsimp only
  rw [if_neg hop]

/-- With no uncorrectable row, and no uncorrectable word or a drain, nothing withholds the operands (R132). -/
theorem State.meetBad_of_good {s : State} {c : MCmd} {reads : Bool} (hwords : c.op = 5 ∨ s.badWords = []) (hrows : (s.cellAt c.cell).badRows = []) :
    s.meetBad c reads = none := by
  have hfetch : (if c.op = 5 then none else ((s.asIssued c.cell).fetches c.cell c.f c.fmt).findSome? (fun p => s.badWords.find? (eccTouches (spAddr c.cell p.1) p.2))) = none := by
    rcases hwords with h | h
    · exact if_pos h
    · simp [h]
  have hregion : (if reads then (s.cellAt c.cell).regionBad c.f c.fmt true else none) = none := by simp [Cell.regionBad, hrows]
  unfold State.meetBad
  dsimp only
  rw [hfetch, hregion]

end Sys2Proof.Machine

namespace Sys2Proof.Machine

set_option Elab.async false

/-! ### The command that starts next (R119, R237) -/

theorem mem_of_nextToStart {l : List MCmd} {c : MCmd} (h : nextToStart l = some c) : c ∈ l := by
  induction l with
  | nil => simp [nextToStart] at h
  | cons o l ih =>
    unfold nextToStart at h
    split at h
    · split at h
      · exact List.mem_cons_of_mem _ (ih h)
      · simp at h
    · split at h
      · obtain rfl := Option.some.inj h
        exact List.mem_cons_self
      · exact List.mem_cons_of_mem _ (ih h)

section
variable {s : State} {q op : Nat} {c : MCmd}

theorem State.mayStart_of_none (h : nextToStart (s.quadAt q).cmds = none) : s.mayStart q op = none := by
  unfold State.mayStart
  dsimp only
  rw [h]

theorem State.mayStart_of_waits (h : nextToStart (s.quadAt q).cmds = some c)
    (hwaits : c.op ≠ op ∨ c.inSlot = true ∨ (s.quadAt q).arb = true ∨ (s.quadAt q).tileBusy c = true) : s.mayStart q op = none := by
  unfold State.mayStart
  dsimp only
  rw [h]
  refine if_pos ?_
  rcases hwaits with h | h | h | h <;> simp [h]

/-- The cycle from which a start counts: at D2 the declared one (R237). -/
def State.startOf (s : State) (q : Nat) (c : MCmd) : Nat := if s.levelOf c.cell = 2 then (s.quadAt q).declaredStart c else s.cycle

theorem State.mayStart_of_free (h : nextToStart (s.quadAt q).cmds = some c) (hop : c.op = op) (hslot : c.inSlot = false) (harb : (s.quadAt q).arb = false)
    (hbusy : (s.quadAt q).tileBusy c = false) (hdue : s.levelOf c.cell = 2 → (s.quadAt q).declaredStart c ≤ s.cycle) :
    s.mayStart q op = some (c, s.startOf q c) := by
  unfold State.mayStart
  dsimp only
  rw [h]
  refine (if_neg ?_).trans ?_
  · have hnot : ¬ (s.levelOf c.cell = 2 ∧ s.cycle < (s.quadAt q).declaredStart c) := fun ⟨hl, hlt⟩ => absurd (hdue hl) (by omega)
    simpa [hop, hslot, harb, hbusy] using hnot
  · simp only [State.startOf]

end

/-! ### A start in the list of commands (R119, R129) -/

/-- A start notes in each command when it came to the head, and no more. -/
theorem Quad.started_cmds (x : Quad) (c : MCmd) (t now : Nat) :
    (x.started c t now).nextStart = t + intervalOf c.f c.fmt ∧ ∃ f : MCmd → Nat, (x.started c t now).cmds = x.cmds.map (fun o => { o with headSince := f o }) := by
  have hcmds : (x.noteWaiting c.cell now).cmds = x.cmds := by unfold Quad.noteWaiting; split <;> rfl
  have hhead : ∃ f : MCmd → Nat, (x.cmds.map (fun (o : MCmd) =>
      if o.op = 6 && o.cell = c.cell && some o.id == c.ofWalk && o.headSince = 0 then { o with headSince := max o.issued x.lastStart } else o)) =
        x.cmds.map (fun o => { o with headSince := f o }) :=
    ⟨fun o => if o.op = 6 && o.cell = c.cell && some o.id == c.ofWalk && o.headSince = 0 then max o.issued x.lastStart else o.headSince,
      List.map_congr_left fun o _ => (apply_ite (fun n => ({ o with headSince := n } : MCmd)) _ _ _).symm⟩
  unfold Quad.started
  split <;> exact ⟨rfl, hhead⟩

/-- A staging half given out is noted in the command that takes it, and no more. -/
theorem Quad.stage_cmds (x : Quad) :
    x.stage.nextStart = x.nextStart ∧ ∃ f : MCmd → Option Bool, x.stage.cmds = x.cmds.map (fun o => { o with half := f o }) := by
  unfold Quad.stage
  split
  · rename_i c h _ _
    have hhalf : ∃ f : MCmd → Option Bool, (x.cmds.map (fun (o : MCmd) => if o.same c then { o with half := some h } else o)) =
        x.cmds.map (fun o => { o with half := f o }) :=
      ⟨fun o => if o.same c then some h else o.half,
        List.map_congr_left fun o _ => (apply_ite (fun p => ({ o with half := p } : MCmd)) _ _ _).symm⟩
    dsimp only
    split <;> exact ⟨rfl, hhalf⟩
  · exact ⟨rfl, fun o => o.half, (List.map_id _).symm⟩

/-- Command c of quad q has started: d stands in its place, but for when it came to the head and for its staging half; no byte and no row has changed. -/
structure State.Begins (q : Nat) (c d : MCmd) (t : Nat) (s u : State) : Prop where
  mem : u.mem = s.mem
  rows : ∀ k, (u.cellAt k).rows = (s.cellAt k).rows
  length : (u.quadAt q).cmds.length = (s.quadAt q).cmds.length
  nextStart : (u.quadAt q).nextStart = t + intervalOf c.f c.fmt
  cmd : ∃ h p, { d with headSince := h, half := p } ∈ (u.quadAt q).cmds

/-- The state in which command c has become g of it and the array has started it. -/
def State.begun (s : State) (q : Nat) (c : MCmd) (t : Nat) (g : MCmd → MCmd) : State := (s.modCmd q c g).modQuad q (fun y => y.started c t s.cycle)

theorem MCmd.same_self (c : MCmd) : c.same c = true := by simp [MCmd.same]

theorem State.begun_begins {s s1 : State} (h : s.SameTiles s1) {q : Nat} {c d : MCmd} (hc : c ∈ (s.quadAt q).cmds) {t : Nat} {g : MCmd → MCmd} (hd : g c = d) :
    State.Begins q c d t s (s1.begun q c t g) := by
  subst hd
  have hquad : s1.quadAt q = s.quadAt q := by rw [State.quadAt, State.quadAt, h.quads]
  have hbegun : (s1.begun q c t g).quadAt q =
      ({ s.quadAt q with cmds := (s.quadAt q).cmds.map (fun o => if o.same c then g o else o) } : Quad).started c t s1.cycle := by
    unfold State.begun State.modCmd
    rw [State.quadAt_modQuad_same, State.quadAt_modQuad_same, hquad]
  obtain ⟨hnext, f, hcmds⟩ := Quad.started_cmds { s.quadAt q with cmds := (s.quadAt q).cmds.map (fun o => if o.same c then g o else o) } c t s1.cycle
  refine ⟨h.mem, h.rows, ?_, by rw [hbegun, hnext], f (g c), (g c).half, ?_⟩
  · rw [hbegun, hcmds, List.length_map, List.length_map]
  · rw [hbegun, hcmds]
    exact List.mem_map.2 ⟨g c, List.mem_map.2 ⟨c, hc, if_pos c.same_self⟩, rfl⟩

theorem State.Begins.restage {q : Nat} {c d : MCmd} {t : Nat} {s u : State} (h : State.Begins q c d t s u) : State.Begins q c d t s (u.restage q) := by
  have hquad : (u.restage q).quadAt q = (u.quadAt q).stage.stage := State.quadAt_modQuad_same ..
  obtain ⟨hn1, f1, h1⟩ := (u.quadAt q).stage_cmds
  obtain ⟨hn2, f2, h2⟩ := (u.quadAt q).stage.stage_cmds
  obtain ⟨a, p, hd⟩ := h.cmd
  refine ⟨h.mem, h.rows, ?_, by rw [hquad, hn2, hn1, h.nextStart], a, f2 { d with headSince := a, half := f1 { d with headSince := a, half := p } }, ?_⟩
  · rw [hquad, h2, List.length_map, h1, List.length_map, h.length]
  · rw [hquad, h2, h1, List.map_map]
    exact List.mem_map.2 ⟨_, hd, rfl⟩

/-- A unit placed in the commit buffer changes that alone (R123). -/
theorem State.placeUnit_sameTiles (s : State) (c : MCmd) : s.SameTiles (s.placeUnit c) := by
  unfold State.placeUnit
  dsimp only
  generalize (List.range _).filter _ = free
  split
  · exact .refl s
  · refine s.modCell_sameTiles c.cell (fun _ => _) ?_
    exact List.foldlRecOn (motive := fun y : Cell => y.rows = (s.cellAt c.cell).rows) _ _ rfl fun y hy _ _ => hy

theorem State.Begins.of_sameTiles {q : Nat} {c d : MCmd} {t : Nat} {s u v : State} (h : State.Begins q c d t s u) (h' : u.SameTiles v) :
    State.Begins q c d t s v := by
  have hquad : v.quadAt q = u.quadAt q := by rw [State.quadAt, State.quadAt, h'.quads]
  exact ⟨h'.mem.trans h.mem, fun k => (h'.rows k).trans (h.rows k), by rw [hquad, h.length], by rw [hquad, h.nextStart], by rw [hquad]; exact h.cmd⟩

/-! ### The start of the commands that compute (R119, R392 to R395) -/

/-- What a command becomes as it starts: with both paths' bytes, or with none where an uncorrectable word withholds its operands. -/
def MCmd.startedAs (o c : MCmd) (t last : Nat) (main mirror : List Byte) (bad : Bool) : MCmd :=
  { o with st := 1, start := t, headSince := max c.issued last, bad := bad, main := main, mirror := mirror, due := t + pathOf c.f c.fmt 0 1 + 8 }

theorem exec_matStarts (s : State) : ∀ e ∈ matStarts, exec e.1 s = s.startMatrix e.2 ∧ e.2 ≠ 5 := by
  simp only [matStarts, List.forall_mem_cons]
  exact ⟨⟨rfl, by decide⟩, ⟨rfl, by decide⟩, ⟨rfl, by decide⟩, ⟨rfl, by decide⟩, ⟨rfl, by decide⟩, ⟨rfl, by decide⟩, ⟨rfl, by decide⟩, nofun⟩

section
variable {s : State} {op : Nat} {c : MCmd} {t : Nat}

theorem State.startMatrix_of_none (h : s.mayStart (quadKey s.site.die s.site.quad) op = none) : s.startMatrix op = .next s := by
  unfold State.startMatrix
  dsimp only
  rw [h]

theorem State.startMatrix_bad (h : s.mayStart (quadKey s.site.die s.site.quad) op = some (c, t)) {s1 : State} (hbad : s.meetBad c (readsC op) = some s1) :
    s.startMatrix op = .next (s1.begun (quadKey s.site.die s.site.quad) c t
      (fun o => o.startedAs c t (s.quadAt (quadKey s.site.die s.site.quad)).lastStart [] [] true)) := by
  unfold State.startMatrix
  dsimp only
  rw [h]
  dsimp only
  rw [hbad]
  rfl

theorem State.startMatrix_good (h : s.mayStart (quadKey s.site.die s.site.quad) op = some (c, t)) (hgood : s.meetBad c (readsC op) = none) :
    s.startMatrix op =
      let x := s.quadAt (quadKey s.site.die s.site.quad)
      .next (((s.arbiterBytes c).2.begun (quadKey s.site.die s.site.quad) c t (fun o =>
        o.startedAs c t x.lastStart (x.runOf (s.arbiterBytes c).1 x.mainXor) (x.runOf (s.arbiterBytes c).1 x.mirrXor) false)).restage (quadKey s.site.die s.site.quad)) := by
  unfold State.startMatrix
  dsimp only
  rw [h]
  dsimp only
  rw [hgood]
  rfl

end

/-- A path without deviations gives the result as it is. -/
theorem Quad.runOf_nil (x : Quad) (bs : List Byte) : x.runOf bs [] = bs := by
  unfold Quad.runOf withFaults
  simp

end Sys2Proof.Machine

namespace Sys2Proof.Machine

set_option Elab.async false

/-- What the start of a command that computes leaves in its place. -/
def State.startedCmd (s : State) (c : MCmd) : MCmd :=
  let q := quadKey s.site.die s.site.quad
  let x := s.quadAt q
  match s.meetBad c (readsC c.op) with
  | some _ => c.startedAs c (s.startOf q c) x.lastStart [] [] true
  | none => c.startedAs c (s.startOf q c) x.lastStart (x.runOf (s.arbiterBytes c).1 x.mainXor) (x.runOf (s.arbiterBytes c).1 x.mirrXor) false

section
variable {s : State} {c : MCmd} (hnext : nextToStart (s.quadAt (quadKey s.site.die s.site.quad)).cmds = some c)
include hnext

/-- A free command starts, and its place holds it started. -/
theorem State.startMatrix_begins
    (hfree : s.mayStart (quadKey s.site.die s.site.quad) c.op = some (c, s.startOf (quadKey s.site.die s.site.quad) c)) :
    ∃ u, s.startMatrix c.op = .next u ∧
      State.Begins (quadKey s.site.die s.site.quad) c (s.startedCmd c) (s.startOf (quadKey s.site.die s.site.quad) c) s u := by
  have hc := mem_of_nextToStart hnext
  unfold State.startedCmd
  cases hbad : s.meetBad c (readsC c.op) with
  | some s1 => exact ⟨_, s.startMatrix_bad hfree hbad, State.begun_begins (State.meetBad_sameTiles hbad) hc rfl⟩
  | none =>
    refine ⟨_, s.startMatrix_good hfree hbad, State.Begins.restage ?_⟩
    exact State.begun_begins (s.arbiterBytes_sameTiles c) hc rfl

end

section
variable (s : State) (c : MCmd)

/-- Of the command the start changes what the start decides. -/
theorem State.startedCmd_keeps : (s.startedCmd c).cell = c.cell ∧ (s.startedCmd c).id = c.id ∧ (s.startedCmd c).f = c.f ∧ (s.startedCmd c).fmt = c.fmt ∧
    (s.startedCmd c).tag = c.tag ∧ (s.startedCmd c).locks = c.locks ∧ (s.startedCmd c).st = 1 := by
  unfold State.startedCmd
  dsimp only
  split <;> exact ⟨rfl, rfl, rfl, rfl, rfl, rfl, rfl⟩

variable {s c}

/-- With every word correctable and no vector command in the tile, two paths without deviations hold the result (R119). -/
theorem State.startedCmd_bytes (hop : c.op ≠ 5) (hwords : s.badWords = []) (hrows : (s.cellAt c.cell).badRows = [])
    (hidle : ∀ o ∈ (s.cellAt c.cell).vcmds, o.started = none) :
    (s.startedCmd c).bad = false ∧
      ((s.quadAt (quadKey s.site.die s.site.quad)).mainXor = [] → (s.quadAt (quadKey s.site.die s.site.quad)).mirrXor = [] →
        (s.startedCmd c).main = s.matrixBytes c ∧ (s.startedCmd c).mirror = s.matrixBytes c) := by
  unfold State.startedCmd
  dsimp only
  rw [State.meetBad_of_good (.inr hwords) hrows, State.arbiterBytes_of_idle hop hidle]
  refine ⟨rfl, fun hmain hmirr => ?_⟩
  rw [hmain, hmirr]
  exact ⟨Quad.runOf_nil .., Quad.runOf_nil ..⟩

end

/-! ### The start of a drain (R396) -/

/-- The drain started, with the bytes of both converters. -/
def State.startedDrain (s : State) (c : MCmd) : MCmd :=
  let q := quadKey s.site.die s.site.quad
  let x := s.quadAt q
  let out := (c.drainOut ((s.cellAt c.cell).regionRows c.f c.fmt)).1
  let bytes := out.map (fun (y : Nat × Byte) => y.2)
  let c2 := { c with st := 1, start := s.startOf q c, headSince := max c.issued x.lastStart, main := x.runOf bytes x.convMainXor,
                     mirror := x.runOf bytes x.convMirrXor, dests := out.map (fun (y : Nat × Byte) => y.1), flags := (c.drainOut ((s.cellAt c.cell).regionRows c.f c.fmt)).2 }
  { c2 with due := s.startOf q c + pathOf c.f c.fmt out.length c2.units }

theorem exec_mdrain_of_free {s : State} {c : MCmd}
    (hfree : s.mayStart (quadKey s.site.die s.site.quad) 5 = some (c, s.startOf (quadKey s.site.die s.site.quad) c)) (hop : c.op = 5)
    (hrows : (s.cellAt c.cell).badRows = []) (hidle : ∀ o ∈ (s.cellAt c.cell).vcmds, o.started = none) :
    exec .mdrain s = .next ((s.begun (quadKey s.site.die s.site.quad) c (s.startOf (quadKey s.site.die s.site.quad) c)
      (fun _ => s.startedDrain c)).placeUnit (s.startedDrain c)) := by
  change execMdrain s = _
  unfold execMdrain
  dsimp only
  rw [hfree]
  dsimp only
  rw [State.meetBad_of_good (.inl hop) hrows]
  dsimp only
  rw [State.regionView_of_idle hidle]
  rfl

theorem exec_mdrain_begins {s : State} {c : MCmd} (hnext : nextToStart (s.quadAt (quadKey s.site.die s.site.quad)).cmds = some c)
    (hfree : s.mayStart (quadKey s.site.die s.site.quad) 5 = some (c, s.startOf (quadKey s.site.die s.site.quad) c)) (hop : c.op = 5)
    (hrows : (s.cellAt c.cell).badRows = []) (hidle : ∀ o ∈ (s.cellAt c.cell).vcmds, o.started = none) :
    ∃ u, exec .mdrain s = .next u ∧
      State.Begins (quadKey s.site.die s.site.quad) c (s.startedDrain c) (s.startOf (quadKey s.site.die s.site.quad) c) s u := by
  refine ⟨_, exec_mdrain_of_free hfree hop hrows hidle, State.Begins.of_sameTiles ?_ (State.placeUnit_sameTiles _ _)⟩
  exact State.begun_begins (.refl s) (mem_of_nextToStart hnext) rfl

/-- Two converters without deviations give the converted bytes. -/
theorem State.startedDrain_bytes {s : State} (c : MCmd) (hmain : (s.quadAt (quadKey s.site.die s.site.quad)).convMainXor = [])
    (hmirr : (s.quadAt (quadKey s.site.die s.site.quad)).convMirrXor = []) :
    (s.startedDrain c).main = (c.drainOut ((s.cellAt c.cell).regionRows c.f c.fmt)).1.map (fun y => y.2) ∧
      (s.startedDrain c).mirror = (s.startedDrain c).main := by
  unfold State.startedDrain
  dsimp only
  rw [hmain, hmirr, Quad.runOf_nil]
  exact ⟨rfl, rfl⟩

/-! ### The sums of the formats (R112 to R114) -/

/-- An INT32 accumulator holds c plus the integer products, clamped or modulo 2^32 (R113). -/
theorem accRound_int32 {e : Word} (he : fmtAcc e = 12) (r : Nat) (cv : Int) (ps : List (Int × Int)) :
    (accRound e r (exactSum (fmtRnd e) (ofInt cv :: ps.map (fun p => (ofInt p.1).mul (ofInt p.2)))) : Int) =
      (if fmtSat e = true then max (-2147483648) (min 2147483647 (cv + (ps.map (fun p => p.1 * p.2)).sum))
        else cv + (ps.map (fun p => p.1 * p.2)).sum) % 4294967296 := by
  have hwhole : ∀ x ∈ ofInt cv :: ps.map (fun p => (ofInt p.1).mul (ofInt p.2)), x.Whole := by
    refine List.forall_mem_cons.2 ⟨whole_ofInt cv, fun x hx => ?_⟩
    obtain ⟨p, -, rfl⟩ := List.mem_map.1 hx
    exact whole_mul_ofInt ..
  have hterms : (ps.map (fun p => (ofInt p.1).mul (ofInt p.2))).map (Val.units 0) = ps.map (fun p => p.1 * p.2) := by
    rw [List.map_map]
    exact List.map_congr_left fun p _ => units_mul_ofInt ..
  obtain ⟨hsum, hunits⟩ := exactSum_whole (fmtRnd e) hwhole
  rw [accRound_whole he r hsum, hunits, List.map_cons, List.sum_cons, units_ofInt, hterms]

section
variable {xs : List Val} (m : Nat)

theorem exactSum_of_nan (h : .nan ∈ xs) : exactSum m xs = .nan := by rw [exactSum_eq, if_pos h]

theorem exactSum_of_both_infs (hnan : .nan ∉ xs) (hneg : .inf true ∈ xs) (hpos : .inf false ∈ xs) : exactSum m xs = .nan := by
  rw [exactSum_eq, if_neg hnan, if_pos hpos, if_pos hneg]

theorem exactSum_of_inf (n : Bool) (hnan : .nan ∉ xs) (hinf : .inf n ∈ xs) (hother : .inf (!n) ∉ xs) : exactSum m xs = .inf n := by
  cases n with
  | false =>
    have hneg : .inf true ∉ xs := hother
    rw [exactSum_eq, if_neg hnan, if_pos hinf, if_neg hneg]
  | true =>
    have hpos : .inf false ∉ xs := hother
    rw [exactSum_eq, if_neg hnan, if_neg hpos, if_pos hinf]

theorem exactSum_of_neg_zeros (h : ∀ y ∈ xs, y = .num true 0 0) : exactSum m xs = .num true 0 0 := by
  have hall : xs.all (fun x => x.isZero && x.isNeg) = true := List.all_eq_true.2 fun y hy => by rw [h y hy]; rfl
  rw [exactSum_of_zeros m fun y hy => .inl (h y hy), if_pos hall]

theorem exactSum_of_mixed_zeros (h : ∀ y ∈ xs, y = .num true 0 0 ∨ y = .num false 0 0) (hpos : .num false 0 0 ∈ xs) :
    exactSum m xs = .num (m == 3) 0 0 := by
  have hall : ¬ xs.all (fun x => x.isZero && x.isNeg) = true := fun hall => Bool.noConfusion (List.all_eq_true.1 hall _ hpos)
  rw [exactSum_of_zeros m h, if_neg hall]

end

/-- Settles O49: a start is a change of one command and of its quad's times; its bytes are the sums, element by element. -/
theorem matrixStarts : Obligations.MatrixStarts := by
  unfold Obligations.MatrixStarts
  intro s
  refine ⟨fun e he => ?_, fun c hnext hop hslot harb hbusy hdue hrows hidle => ?_, fun c _ h5 h6 i hi j hj => ?_, ?_, fun xs m => ?_⟩
  · obtain ⟨hexec, he5⟩ := exec_matStarts s e he
    refine ⟨fun hnone => ?_, fun c hnext => ⟨fun hwaits => ?_, fun hop hslot harb hbusy hdue => ?_⟩⟩
    · rw [hexec, State.startMatrix_of_none (State.mayStart_of_none hnone)]
    · rw [hexec, State.startMatrix_of_none (State.mayStart_of_waits hnext hwaits)]
    · have hfree := State.mayStart_of_free hnext rfl hslot harb hbusy hdue
      obtain ⟨u, hu, hbegins⟩ := State.startMatrix_begins hnext hfree
      obtain ⟨a, p, hd⟩ := hbegins.cmd
      obtain ⟨hcell, hid, hf, hfmt, htag, hlocks, hst⟩ := s.startedCmd_keeps c
      refine ⟨u, by rw [hexec, ← hop, hu], hbegins.rows _, hbegins.mem, hbegins.length, hbegins.nextStart, _, hd, hcell, hid, hf, hfmt, htag, hlocks, hst, ?_⟩
      exact State.startedCmd_bytes (hop ▸ he5)
  · have hfree := State.mayStart_of_free hnext hop hslot harb hbusy hdue
    obtain ⟨u, hu, hbegins⟩ := exec_mdrain_begins hnext hfree hop hrows hidle
    obtain ⟨a, p, hd⟩ := hbegins.cmd
    exact ⟨u, hu, hbegins.rows _, hbegins.mem, _, hd, rfl, rfl, rfl, rfl, State.startedDrain_bytes c⟩
  · exact ⟨s.matrixBytes_mzero_element c hi hj, s.matrixBytes_mload_element c hi hj, s.matrixBytes_sum_element c hi hj⟩
  · exact fun ps e r cv he => accRound_int32 he r cv ps
  · exact ⟨exactSum_of_nan m, exactSum_of_both_infs m, exactSum_of_inf m, fun _ => exactSum_of_neg_zeros m, exactSum_of_mixed_zeros m⟩

end Sys2Proof.Machine

namespace Sys2Proof.Machine

set_option Elab.async false

/-! ### Two fired entries of one number (R190, R192) -/

/-- A SIGNAL without a counter that the engine was given by a `qppost` of cell 0, fired at cycle 0 under number 1. -/
def plainSignal : Entry :=
  { addr := 0, w := [2, 0, 0, 0, 0, 0, 0, 0], poster := { cell := 0, launch := 1, group := 0, level := 0, seq := .K, pc := 0, tag := none, noTag := true, tokens := [] }, id := 1 }

/-- Engine 0 lists that entry first among its fired ones, and behind it another of the same number, fired at cycle 1. -/
def signalTwiceListed : State :=
  { State.reset with cycle := 1, site := { n := 1 }, engines := [(0, { fired := [plainSignal, { plainSignal with due := 1 }], nextId := 2 })] }

/-- The entry that goes is the first of the two. -/
theorem signalTwiceListed_ready : signalTwiceListed.entryReady = some plainSignal := by decide +kernel

/-- It names no counter, so nothing of it goes to another package. -/
theorem plainSignal_counts_nothing : entryField plainSignal.w 6 14 14 ≠ 1 := by decide

/-- The SIGNAL marks both as sent and adds its 16 cycles to the time of each. -/
theorem signalTwiceListed_dues :
    readAfter (fun u => (u.engineAt 0).fired.map (fun x => (x.id, x.due))) .entrySignal signalTwiceListed = some [(1, 16), (1, 17)] := by decide +kernel

/-- Refutes O53: it speaks of every state, also of one whose engine lists two fired entries of one number, where an engine numbers them in order of firing. Of a
SIGNAL that goes it says that every entry of its number is due 16 cycles after its own firing: the second of `signalTwiceListed` is due at cycle 17, not 16. -/
theorem not_collectives : ¬ Obligations.Collectives := by
  intro h
  obtain ⟨_, _, hexecution, _⟩ := h signalTwiceListed
  obtain ⟨_, hsignal, _⟩ := hexecution plainSignal signalTwiceListed_ready rfl
  obtain ⟨u, hu, _, _, _, hdue⟩ := hsignal rfl (fun hinc => plainSignal_counts_nothing hinc.1)
  have hdues := Option.some.inj ((readAfter_of_next _ hu).symm.trans signalTwiceListed_dues)
  have hmem : (1, 17) ∈ (u.engineAt 0).fired.map (fun x => (x.id, x.due)) := by rw [hdues]; decide
  obtain ⟨x, hx, heq⟩ := List.mem_map.1 hmem
  obtain ⟨hid, h17⟩ := Prod.mk.inj heq
  have h16 : x.due = 0 + 16 := (hdue x hx hid).2
  omega

end Sys2Proof.Machine

namespace Sys2Proof.Machine

set_option Elab.async false

/-! ### An `xstat` whose block lies on another die (R17, R221) -/

/-- K of cell 0 of die 0 holds in g1 the address of a block whose page lies on die 7, and the answer to its read of the block's first word is back: a request
that the `xstat` of an earlier turn has sent. -/
def blockAway : State :=
  { State.reset with
    cells := [(0, { bound := some ⟨1, 0, 0, 0⟩, tlb := [⟨0x20000, 16, 7 * 2 ^ 36 + 0x50000, true, false⟩], k := { g := [(1, 0x20000)] } })],
    asks := [{ owner := .words 0 .K, idx := 7 * 2 ^ 36 + 0x50000, pa := 7 * 2 ^ 36 + 0x50000, n := 8, num := 1, ans := some (.ok (leBytes 8 3)), back := true }] }

/-- The block names exchange 3; what has been read of die 7 is still kept. -/
theorem blockAway_reads : readWords (blockAway.source 1) 1 (blockAway.afterRead 1) = .ok ([3], blockAway) := rfl

/-- Its `xstat` retires and keeps no answer. -/
theorem blockAway_asks : readAfter State.asks (.xstat 0 5 1) blockAway = some [] := by decide +kernel

theorem blockAway_ready : Ready blockAway 0 true [.K, .S] (pushes 5) :=
  ⟨by decide, .inl rfl, rfl, by simp [waitsOf], by simp [signalsOf], by decide⟩

/-- Refutes O34: of an `xstat` without a member it says that the state after the read of the block changes in the result and the retirement alone, but the
`xstat` also gives up the answers that it has read. Those of `blockAway`, whose block lies on another die, would stay. -/
theorem not_exchangeInstructions : ¬ Obligations.ExchangeInstructions := by
  intro h
  obtain ⟨_, hstatus⟩ := h 0 5 1 blockAway (by decide)
  obtain ⟨_, hread⟩ := hstatus blockAway_ready (by decide)
  obtain ⟨hnone, _⟩ := hread (by decide) [3] blockAway blockAway_reads
  obtain ⟨_, hxstat⟩ := hnone rfl
  have hkept := (readAfter_of_next State.asks hxstat).symm.trans blockAway_asks
  exact absurd hkept (by decide)

end Sys2Proof.Machine

namespace Sys2Proof.Machine

set_option Elab.async false

/-! ### Entries of a map found by a test (R209) -/

/-- An entry that is written is the one found, where none or its own key's was found before. -/
theorem NatMap.find?_ins {α : Type} {m : NatMap α} {k : Nat} {v : α} {p : Nat × α → Bool} (hp : p (k, v) = true)
    (h : ∀ e, m.find? p = some e → e.1 = k) : (NatMap.ins m k v).find? p = some (k, v) := by
  induction m with
  | nil => simp [NatMap.ins, hp]
  | cons a m ih =>
    obtain ⟨a, w⟩ := a
    unfold NatMap.ins
    split
    · simp [hp]
    · split
      · simp [hp]
      · rename_i hne
        have ha : p (a, w) = false := by
          by_contra hpa
          exact hne (h (a, w) (by simp [Bool.not_eq_false _ ▸ hpa])).symm
        rw [List.find?_cons_of_neg (by simp [ha])]
        exact ih fun e he => h e (by rw [List.find?_cons_of_neg (by simp [ha])]; exact he)

/-- An entry that fails a test, as the one in its place did, changes nothing of what is found. -/
theorem NatMap.find?_ins_of_not {α : Type} {m : NatMap α} {k : Nat} {v : α} {p : Nat × α → Bool} (hp : p (k, v) = false)
    (h : ∀ w, (k, w) ∈ m → p (k, w) = false) : (NatMap.ins m k v).find? p = m.find? p := by
  induction m with
  | nil => simp [NatMap.ins, hp]
  | cons a m ih =>
    obtain ⟨a, w⟩ := a
    unfold NatMap.ins
    split
    · rw [List.find?_cons_of_neg (by simp [hp])]
    · split
      · rename_i heq
        rw [List.find?_cons_of_neg (by simp [hp]), List.find?_cons_of_neg (by simpa [heq] using h w (by simp [heq]))]
      · have hrest := ih fun w' hw' => h w' (List.mem_cons_of_mem _ hw')
        cases hpa : p (a, w) with
        | true => rw [List.find?_cons_of_pos hpa, List.find?_cons_of_pos hpa]
        | false => rw [List.find?_cons_of_neg (by simp [hpa]), List.find?_cons_of_neg (by simp [hpa]), hrest]

/-- The entry of a key that has been written. -/
theorem NatMap.find?_key_ins {α : Type} (m : NatMap α) (k : Nat) (v : α) : (NatMap.ins m k v).find? (fun e => e.1 == k) = some (k, v) :=
  NatMap.find?_ins (by simp) fun e he => by simpa using List.find?_some he

theorem NatMap.mem_ins_same {α : Type} (m : NatMap α) (k : Nat) (v : α) : (k, v) ∈ NatMap.ins m k v := List.mem_of_find?_eq_some (NatMap.find?_key_ins m k v)

/-- A key is listed once. -/
theorem NatMap.eq_of_rising {α : Type} {m : NatMap α} (h : NatMap.rising m = true) {k : Nat} {v w : α} (hv : (k, v) ∈ m) (hw : (k, w) ∈ m) : v = w := by
  have hnodup : (m.map Prod.fst).Nodup :=
    List.Pairwise.map _ (fun _ _ hlt => Nat.ne_of_lt hlt) ((NatMap.rising_iff m).1 h)
  exact congrArg Prod.snd (List.inj_on_of_nodup_map hnodup hv hw rfl)

/-! ### Messages put on their way (R17) -/

/-- A state with the pairs and the numbers of its requests replaced. -/
def State.withRequests (s x : State) : State := { s with pairs := x.pairs, netNext := x.netNext }

theorem State.carry_eq (s : State) (k dst : Nat) (r : MeshReq) : (s.carry k dst r).2 = s.withRequests (s.carry k dst r).2 := by
  unfold State.carry
  dsimp only
  split
  · rfl
  · split <;> rfl

/-- A state with its messages replaced, and what carries them. -/
def State.withMail (s x : State) : State := { s with pairs := x.pairs, netNext := x.netNext, xmsgs := x.xmsgs, xnet := x.xnet }

/-- Some messages have been put on their way, within a die or over the mesh, and nothing else has changed. -/
structure State.Tells (s : State) (l : List XMsg) (u : State) : Prop where
  eq : u = s.withMail u
  mail : u.allX.Perm (s.allX ++ l)

theorem State.Tells.refl (s : State) : s.Tells [] s := ⟨rfl, by simp⟩

theorem State.Tells.trans {s u v : State} {l l' : List XMsg} (h : s.Tells l u) (h' : u.Tells l' v) : s.Tells (l ++ l') v where
  eq := by rw [h'.eq, h.eq]; rfl
  mail := by
    rw [← List.append_assoc]
    exact h'.mail.trans (h.mail.append_right l')

/-- What messages take no part in is the same. -/
theorem State.Tells.same {α : Type} {s u : State} {l : List XMsg} (h : s.Tells l u) (f : State → α) (hf : ∀ x, f (s.withMail x) = f s := by exact fun _ => rfl) :
    f u = f s := by rw [h.eq]; exact hf u

/-- Messages that have joined those of a state are sent by the step, when no more than the one of the step has gone before. -/
theorem State.sends_of_mail {s t u : State} {ms l : List XMsg} (h : u.allX.Perm (t.allX ++ l)) (hms : t.xmsgs = ms) (hnet : t.xnet = s.xnet) :
    u.sends s (ms ++ l) := by
  have hperm : (t.allX ++ l).Perm (ms ++ l ++ s.xnet.map (fun x => x.2)) := by
    rw [State.allX, hms, hnet, List.append_assoc, List.append_assoc]
    exact List.Perm.append_left _ List.perm_append_comm
  exact h.trans hperm

theorem State.sends_congr {u s : State} {l l' : List XMsg} (h : u.sends s l) (hl : l.Perm l') : u.sends s l' := List.Perm.trans h (hl.append_right _)

theorem State.Tells.sends {t u : State} {l : List XMsg} (h : t.Tells l u) {s : State} {ms : List XMsg} (hms : t.xmsgs = ms) (hnet : t.xnet = s.xnet) :
    u.sends s (ms ++ l) := State.sends_of_mail h.mail hms hnet

theorem State.sendMsg_tells (s : State) (k dst : Nat) (user : Option Nat) (m : XMsg) : s.Tells [m] (s.sendMsg k dst user m) := by
  have hcarry := s.carry_eq k dst (carriedReq k 0 user .none)
  unfold State.sendMsg
  generalize s.carry k dst (carriedReq k 0 user .none) = c at hcarry
  obtain ⟨n, t⟩ := c
  dsimp only at hcarry ⊢
  have hms : t.xmsgs = s.xmsgs := by rw [hcarry]; rfl
  have hnet : t.xnet = s.xnet := by rw [hcarry]; rfl
  split
  · refine ⟨by rw [hcarry]; rfl, ?_⟩
    simp only [State.allX, hms, hnet, List.append_assoc]
    exact List.Perm.append_left _ List.perm_append_comm
  · refine ⟨by rw [hcarry]; rfl, ?_⟩
    simp [State.allX, hms, hnet]

/-- A message to an agent of this package. -/
theorem State.sendX_tells {s : State} {pkg : BitVec 19} (h : pkg = s.pkgId) (k dst : Nat) (m : XMsg) : s.Tells [m] (s.sendX k pkg dst m) := by
  unfold State.sendX
  rw [if_pos h]
  exact s.sendMsg_tells ..

/-- A message for each element of a list, all to agents of this package. -/
theorem State.foldl_sendX_tells {α : Type} {k : Nat} {pkg : α → BitVec 19} {dst : α → Nat} {m : α → XMsg} {l : List α} {s : State}
    (h : ∀ a ∈ l, pkg a = s.pkgId) : s.Tells (l.map m) (l.foldl (fun s a => s.sendX k (pkg a) (dst a) (m a)) s) := by
  induction l generalizing s with
  | nil => exact .refl s
  | cons a l ih =>
    have hfirst := State.sendX_tells (h a (by simp)) k (dst a) (m a)
    exact hfirst.trans (ih fun b hb => (h b (List.mem_cons_of_mem _ hb)).trans (hfirst.same State.pkgId).symm)

/-! ### The message of the step -/

@[simp] theorem State.dropX_xmsgs (s : State) : s.dropX.xmsgs = s.xRest := by unfold State.dropX State.xRest; split <;> rfl

/-- Nothing but the message of the step goes. -/
theorem State.dropX_eq (s : State) : s.dropX = { s with xmsgs := s.xRest } := by unfold State.dropX State.xRest; split <;> rfl

/-- A message that waits stays on this package. -/
theorem State.mem_keepX {s : State} {m : XMsg} (h : s.theX = some m) : m ∈ s.keepX.xmsgs := by
  unfold State.theX at h
  unfold State.keepX
  cases hx : s.site.x with
  | some a => simp_all
  | none =>
    rw [hx, Option.none_or] at h
    exact List.mem_of_getElem? h

theorem State.keepX_of_here {s : State} (h : s.site.x = none) : s.keepX = s := by unfold State.keepX; rw [h]

theorem State.keepX_eq (s : State) : s.keepX = { s with xmsgs := s.keepX.xmsgs } := by unfold State.keepX; split <;> rfl

theorem mem_setAt {α : Type} {l : List α} {n : Nat} (h : n < l.length) (v : α) : v ∈ setAt l n v := by
  induction l generalizing n with
  | nil => simp at h
  | cons a l ih =>
    cases n with
    | zero => simp [setAt]
    | succ n => exact List.mem_cons_of_mem _ (ih (by simpa using h))

/-- A post that waits at its arbiter stays on this package, marked (R209). -/
theorem State.mem_keepPost {s : State} {m : XMsg} (h : s.theX = some m) (rim : Nat) (sb : Bool) (p : Sys2Proof.Post) :
    .post rim sb true p ∈ (s.keepPost rim sb p).xmsgs := by
  unfold State.theX at h
  unfold State.keepPost
  cases hx : s.site.x with
  | some a => simp
  | none =>
    rw [hx, Option.none_or] at h
    exact mem_setAt (List.getElem?_eq_some_iff.1 h).1 _

theorem State.keepPost_eq (s : State) (rim : Nat) (sb : Bool) (p : Sys2Proof.Post) : s.keepPost rim sb p = { s with xmsgs := (s.keepPost rim sb p).xmsgs } := by
  unfold State.keepPost; split <;> rfl

/-! ### The slots of arbiters (R209, R212) -/

theorem State.slotOf_role {s : State} {xid key : Nat} {sb : Bool} {x : XSlot} (h : s.slotOf xid sb = some (key, x)) : x.xid = xid ∧ x.standby = sb := by
  simpa using List.find?_some h

/-- A slot written for an exchange and a role is the one of that role, where it had none or this one. -/
theorem State.slotOf_setX {s : State} {xid key : Nat} {sb : Bool} (y : XSlot) (hxid : y.xid = xid) (hsb : y.standby = sb)
    (h : ∀ e, s.slotOf xid sb = some e → e.1 = key) : (s.setX key y).slotOf xid sb = some (key, y) :=
  NatMap.find?_ins (by simp [hxid, hsb]) h

/-- A slot of the other role leaves it as it was. -/
theorem State.slotOf_setX_other {s : State} {xid key : Nat} {sb : Bool} {y : XSlot} (hsb : y.standby ≠ sb)
    (h : ∀ w, (key, w) ∈ s.xslots → w.standby ≠ sb) : (s.setX key y).slotOf xid sb = s.slotOf xid sb :=
  NatMap.find?_ins_of_not (by simp [hsb]) fun w hw => by simp [h w hw]

/-- Slots that are given up leave the others as they were. -/
theorem State.slotOf_freeSlots {s : State} (hrise : NatMap.rising s.xslots = true) {key : Nat} {x y : XSlot} (hx : (key, x) ∈ s.xslots) {id xid : Nat} {sb : Bool}
    (h : (s.freeSlots id).slotOf xid sb = some (key, y)) : y = x :=
  NatMap.eq_of_rising hrise (List.mem_of_mem_filter (List.mem_of_find?_eq_some h)) hx

theorem State.freeSlots_eq (s : State) (xid : Nat) : s.freeSlots xid = { s with xslots := (s.freeSlots xid).xslots } := rfl

end Sys2Proof.Machine

namespace Sys2Proof.Machine

set_option Elab.async false

/-! ### What an arbiter sends (R213, R217, R219) -/

theorem State.finishAll_tells {s : State} {x : XSlot} (h : ∀ p ∈ x.posts, p.home = s.pkgId) (rim st : Nat) :
    s.Tells (noticesOf x.xid x.posts st) (s.finishAll rim x st) := State.foldl_sendX_tells h

/-- The row of the calendar that a member is sent, with what it is granted and the offsets (R217). -/
def XSlot.rowFor (x : XSlot) (p : Sys2Proof.Post) : XMsg :=
  .row x.xid p.member x.nphase
    ((List.range x.nmem).map (fun j => (x.calendar.filter (fun g => g.snd == j && g.rcv == p.member)).foldl (fun a g => a + g.bytes) 0))
    ((fitAll x.posts).2.map (fun o => o.getD p.member 0)) (x.calendar.filter (fun g => g.snd == p.member)) ((fitAll x.posts).2.getD p.member [])

theorem State.sendRows_tells {s : State} {x : XSlot} (h : ∀ p ∈ x.posts, p.home = s.pkgId) (rim : Nat) :
    s.Tells (x.posts.map x.rowFor) (s.sendRows rim x) := State.foldl_sendX_tells h

theorem State.tellTakeover_of_quiet {s : State} {x : XSlot} (h : ¬ (x.standby = true ∧ x.active = true)) (key : Nat) (p : Sys2Proof.Post) :
    s.tellTakeover key x p = s := if_neg (by simpa using h)

theorem State.tellTakeover_of_active {s : State} {x : XSlot} (hsb : x.standby = true) (hact : x.active = true) (key : Nat) (p : Sys2Proof.Post) :
    s.tellTakeover key x p = s.sendX (64 * (16 + key / 16)) p.home (rimOf p.eng) (.takeover x.xid (some p.member) none x.cost) := if_pos (by simp [hsb, hact])

/-- A member hears of a takeover from a standby that is active (R223). -/
theorem State.tellTakeover_tells {s : State} {x : XSlot} {p : Sys2Proof.Post} (h : p.home = s.pkgId ∨ ¬ (x.standby = true ∧ x.active = true)) (key : Nat) :
    s.Tells (if x.standby = true ∧ x.active = true then [.takeover x.xid (some p.member) none x.cost] else []) (s.tellTakeover key x p) := by
  split
  · rename_i hon
    obtain ⟨hsb, hact⟩ := hon
    rw [State.tellTakeover_of_active hsb hact]
    exact State.sendX_tells (h.resolve_right (fun hoff => hoff ⟨hsb, hact⟩)) ..
  · rename_i hoff
    rw [State.tellTakeover_of_quiet hoff]
    exact .refl s

/-! ### The end of an exchange and the next phase (R217, R219) -/

/-- An arbiter has sent some messages and has a slot as it is to be, where it has not given it up. -/
structure State.Leaves (s : State) (key : Nat) (y : XSlot) (l : List XMsg) (u : State) : Prop where
  mem : u.mem = s.mem
  mail : u.allX.Perm (s.allX ++ l)
  slot : NatMap.rising s.xslots = true → ∀ {xid : Nat} {sb : Bool} {z : XSlot}, u.slotOf xid sb = some (key, z) → z = y

theorem State.Leaves.of_tells {s t u : State} {key : Nat} {y : XSlot} {l l' : List XMsg} (h : s.Tells l t) (h' : t.Leaves key y l' u) :
    s.Leaves key y (l ++ l') u where
  mem := h'.mem.trans (h.same State.mem)
  mail := by
    rw [← List.append_assoc]
    exact h'.mail.trans (h.mail.append_right l')
  slot hrise := h'.slot (h.same State.xslots ▸ hrise)

/-- A slot that is written is the only one of its key. -/
theorem State.Leaves.of_setX {s u : State} {key : Nat} {y : XSlot} {l : List XMsg} (h : (s.setX key y).Tells l u) : s.Leaves key y l u where
  mem := h.same State.mem
  mail := h.mail
  slot hrise xid sb z hz := by
    have hslots : u.xslots = NatMap.ins s.xslots key y := h.same State.xslots
    exact NatMap.eq_of_rising (hslots ▸ NatMap.rising_ins _ _ _ hrise) (List.mem_of_find?_eq_some hz) (hslots ▸ NatMap.mem_ins_same ..)

theorem State.Leaves.freeSlots {s u : State} {key : Nat} {y : XSlot} {l : List XMsg} (h : (s.setX key y).Tells l u) (id : Nat) : s.Leaves key y l (u.freeSlots id) where
  mem := h.same State.mem
  mail := h.mail
  slot hrise xid sb z hz := by
    have hslots : u.xslots = NatMap.ins s.xslots key y := h.same State.xslots
    exact State.slotOf_freeSlots (hslots ▸ NatMap.rising_ins _ _ _ hrise) (hslots ▸ NatMap.mem_ins_same ..) hz

/-- The slot of an exchange that has run to its end. -/
def XSlot.ended (x : XSlot) : XSlot := { x with st := 4, openPh := 0 }

theorem State.endExchange_leaves {s : State} {key st : Nat} {x : XSlot} (h : x.active = true → ∀ p ∈ x.posts, p.home = s.pkgId) :
    s.Leaves key x.ended (if x.active = true then noticesOf x.xid x.posts st else []) (s.endExchange key x st) := by
  have htells : (s.setX key x.ended).Tells (if x.active = true then noticesOf x.xid x.posts st else [])
      (if x.active = true then (s.setX key x.ended).finishAll (16 + key / 16) x st else s.setX key x.ended) := by
    by_cases hact : x.active = true
    · simp only [hact, if_true]
      exact State.finishAll_tells (s := s.setX key x.ended) (h hact) ..
    · simp only [hact]
      exact .refl _
  exact .freeSlots htells x.xid

theorem State.openNext_ends {s : State} {key : Nat} {x : XSlot} (hlast : x.nphase ≤ x.closed) : s.openNext key x = s.endExchange key x 0 := if_pos hlast

theorem State.openNext_of_passive {s : State} {key : Nat} {x : XSlot} (hmore : x.closed < x.nphase) (hact : x.active = false) : s.openNext key x = s.setX key x := by
  unfold State.openNext
  rw [if_neg (Nat.not_le.2 hmore), if_pos (by simp [hact])]

/-- The next phase opens for the members that send in it. -/
theorem State.openNext_tells {s : State} {key : Nat} {x : XSlot} (hmore : x.closed < x.nphase) (hact : x.active = true) (h : ∀ p ∈ x.posts, p.home = s.pkgId) :
    (s.setX key { x with openPh := x.closed + 1 }).Tells (openingsOf x x.epoch (x.closed + 1)) (s.openNext key x) := by
  have hsenders (p : Sys2Proof.Post) : ((x.calendar.filter (fun g => g.phase == x.closed + 1)).map (fun g => g.snd)).eraseDups.contains p.member =
      x.calendar.any (fun g => g.phase == x.closed + 1 && g.snd == p.member) := by
    rw [Bool.eq_iff_iff]
    simp [and_assoc]
  unfold State.openNext
  rw [if_neg (Nat.not_le.2 hmore), if_neg (by simp [hact])]
  simp only [hsenders]
  exact State.foldl_sendX_tells fun p hp => h p (List.mem_of_mem_filter hp)

/-! ### Posts at an arbiter (R209, R213, R226) -/

section
variable {s : State} {place : Nat} {sb w : Bool} {p : Sys2Proof.Post} (hx : s.theX = some (.post place sb w p)) (hup : s.dieUp (s.roleDie p sb) = true)
include hx

/-- A post that must wait. -/
theorem postArrival_waits (h : exec .postArrival s = .next (s.keepPost place sb p)) :
    Goes .postArrival s (fun u => u.mem = s.mem ∧ u.xslots = s.xslots ∧ .post place sb true p ∈ u.xmsgs) :=
  ⟨_, h, by rw [State.keepPost_eq], by rw [State.keepPost_eq], State.mem_keepPost hx place sb p⟩

include hup

theorem exec_postArrival_running {key : Nat} {x : XSlot} (hslot : s.slotOf p.xid sb = some (key, x)) (hst : x.st ≠ 1) :
    exec .postArrival s = .next (s.keepPost place sb p) := by
  change execPostArrival s = _
  simp only [execPostArrival, hx, hup, hslot, hst, Bool.not_true, Bool.false_eq_true, if_false, if_true, ne_eq, not_false_eq_true]

theorem exec_postArrival_joins {key : Nat} {x : XSlot} (hslot : s.slotOf p.xid sb = some (key, x)) (hst : x.st = 1) :
    exec .postArrival s = .next (if ({ x with posts := x.posts ++ [p] } : XSlot).complete then
        ((s.dropX.setX key { x with posts := x.posts ++ [p] }).tellTakeover key { x with posts := x.posts ++ [p] } p).form key { x with posts := x.posts ++ [p] }
      else (s.dropX.setX key { x with posts := x.posts ++ [p] }).tellTakeover key { x with posts := x.posts ++ [p] } p) := by
  change execPostArrival s = _
  simp only [execPostArrival, hx, hup, hslot, hst, Bool.not_true, Bool.false_eq_true, if_false, ne_eq, not_true_eq_false]

theorem exec_postArrival_noSlot (hslot : s.slotOf p.xid sb = none) (hfree : s.freeX (s.roleDie p sb) = none) :
    exec .postArrival s = .next (s.keepPost place sb p) := by
  change execPostArrival s = _
  simp only [execPostArrival, hx, hup, hslot, hfree, Bool.not_true, Bool.false_eq_true, if_false]

theorem exec_postArrival_behind (hslot : s.slotOf p.xid sb = none) {key : Nat} (hfree : s.freeX (s.roleDie p sb) = some key)
    (hahead : ∃ i ∈ s.waitingPosts (s.roleDie p sb), i < p.xid) : exec .postArrival s = .next (s.keepPost place sb p) := by
  have hany : (s.waitingPosts (s.roleDie p sb)).any (fun i => i < p.xid) = true := by simpa using hahead
  change execPostArrival s = _
  simp only [execPostArrival, hx, hup, hslot, hfree, hany, Bool.not_true, Bool.false_eq_true, if_false, if_true]

end

theorem XSlot.complete_iff (x : XSlot) : x.complete = true ↔ allPosted x.posts := by
  simp [XSlot.complete, allPosted]

/-- The slot that the first post of an exchange takes. -/
def State.firstSlot (s : State) (p : Sys2Proof.Post) (sb : Bool) : XSlot :=
  { xid := p.xid, nmem := p.nmem, st := 1, standby := sb, active := !sb, posts := [p], mtsig := p.mtsig, beat := s.cycle }

section
variable {s : State} {place : Nat} {sb w : Bool} {p : Sys2Proof.Post} (hx : s.theX = some (.post place sb w p)) (hup : s.dieUp (s.roleDie p sb) = true)
include hx hup

/-- The first post of several takes a slot. -/
theorem postArrival_takesSlot (hslot : s.slotOf p.xid sb = none) {key : Nat} (hfree : s.freeX (s.roleDie p sb) = some key)
    (hfirst : ∀ i ∈ s.waitingPosts (s.roleDie p sb), p.xid ≤ i) (hmany : 1 < p.nmem) :
    Goes .postArrival s (fun u => u.mem = s.mem ∧ u.xmsgs = s.xRest ∧ u.slotOf p.xid sb =
      some (key, { xid := p.xid, nmem := p.nmem, st := 1, standby := sb, active := !sb, posts := [p], mtsig := p.mtsig, beat := s.cycle })) := by
  have hany : (s.waitingPosts (s.roleDie p sb)).any (fun i => i < p.xid) = false := by simpa using hfirst
  have hopen : (s.firstSlot p sb).complete = false := by
    rw [Bool.eq_false_iff, ne_eq, XSlot.complete_iff]
    rintro ⟨q, hq, hall⟩
    obtain rfl : q = p := by simpa [State.firstSlot] using hq
    obtain ⟨q0, hq0, h0⟩ := hall 0 (by omega)
    obtain ⟨q1, hq1, h1⟩ := hall 1 hmany
    simp only [State.firstSlot, List.mem_singleton] at hq0 hq1
    rw [hq0] at h0
    rw [hq1] at h1
    omega
  have hexec : exec .postArrival s = .next (s.dropX.setX key (s.firstSlot p sb)) := by
    change execPostArrival s = _
    simp only [execPostArrival, hx, hup, hslot, hfree, hany, Bool.not_true, Bool.false_eq_true, if_false]
    exact congrArg Host.Outcome.next (if_neg (ne_true_of_eq_false hopen))
  refine ⟨_, hexec, by rw [State.dropX_eq]; rfl, s.dropX_xmsgs, State.slotOf_setX _ rfl rfl fun e he => ?_⟩
  have hnone : s.dropX.slotOf p.xid sb = none := by rw [State.dropX_eq]; exact hslot
  simp [hnone] at he

/-- A post that leaves others to come joins those that its slot holds. -/
theorem postArrival_collects {key : Nat} {x : XSlot} (hslot : s.slotOf p.xid sb = some (key, x)) (hst : x.st = 1) (hopen : ¬ allPosted (x.posts ++ [p]))
    (hhome : p.home = s.pkgId ∨ ¬ (sb = true ∧ x.active = true)) :
    Goes .postArrival s (fun u => u.mem = s.mem ∧ u.slotOf p.xid sb = some (key, { x with posts := x.posts ++ [p] }) ∧
      u.sends s (s.xRest ++ (if sb = true ∧ x.active = true then [.takeover p.xid (some p.member) none x.cost] else []))) := by
  obtain ⟨hxid, hsb⟩ := State.slotOf_role hslot
  have hincomplete : ({ x with posts := x.posts ++ [p] } : XSlot).complete = false := by
    rw [Bool.eq_false_iff, ne_eq, XSlot.complete_iff]
    exact hopen
  have htells := State.tellTakeover_tells (s := s.dropX.setX key { x with posts := x.posts ++ [p] }) (x := { x with posts := x.posts ++ [p] }) (p := p)
    (by rw [State.dropX_eq, hsb]; exact hhome) key
  have hset : (s.dropX.setX key { x with posts := x.posts ++ [p] }).slotOf p.xid sb = some (key, { x with posts := x.posts ++ [p] }) := by
    rw [State.dropX_eq]
    refine State.slotOf_setX _ hxid hsb fun e he => ?_
    rw [show e = (key, x) from Option.some.inj (he.symm.trans hslot)]
  refine ⟨_, (exec_postArrival_joins hx hup hslot hst).trans (congrArg Host.Outcome.next (if_neg (ne_true_of_eq_false hincomplete))), ?_, ?_, ?_⟩
  · rw [htells.same State.mem, State.dropX_eq]; rfl
  · exact (htells.same (fun t => t.slotOf p.xid sb)).trans hset
  · have hsends := htells.sends (s := s) s.dropX_xmsgs (by rw [State.dropX_eq]; rfl)
    simpa only [hxid, hsb] using hsends

end

end Sys2Proof.Machine

namespace Sys2Proof.Machine

set_option Elab.async false

/-! ### The receiver of a sender in one phase (R215) -/

/-- The better of the receiver found so far and the next one. -/
def betterOf (taken : List Nat) (best : Option (Nat × Nat)) (x : Nat × Nat) : Option (Nat × Nat) :=
  if x.1 = 0 || taken.contains x.2 then best
  else match best with
    | none => some x
    | some b => if b.1 < x.1 then some x else some b

theorem pickReceiver_eq (row taken : List Nat) : pickReceiver row taken = (row.zipIdx.foldl (betterOf taken) none).map (fun b => b.2) := rfl

/-- A receiver that is found is the one there was, or one with a remnant that is not taken. -/
theorem foldl_betterOf_some {taken : List Nat} {l : List (Nat × Nat)} {best : Option (Nat × Nat)} {b : Nat × Nat} (h : l.foldl (betterOf taken) best = some b) :
    best = some b ∨ (b ∈ l ∧ b.1 ≠ 0 ∧ b.2 ∉ taken) := by
  induction l generalizing best with
  | nil => exact .inl h
  | cons x l ih =>
    rw [List.foldl_cons] at h
    rcases ih h with hbest | ⟨hmem, hvalid⟩
    · unfold betterOf at hbest
      split at hbest
      · exact .inl hbest
      · rename_i hx
        have hfree : x.1 ≠ 0 ∧ x.2 ∉ taken := by simpa using hx
        cases best with
        | none => exact .inr ⟨by simp [Option.some.inj hbest], Option.some.inj hbest ▸ hfree⟩
        | some c =>
          dsimp only at hbest
          split at hbest
          · exact .inr ⟨by simp [Option.some.inj hbest], Option.some.inj hbest ▸ hfree⟩
          · exact .inl hbest
    · exact .inr ⟨List.mem_cons_of_mem _ hmem, hvalid⟩

/-- None is found where there was none and none has a remnant that is not taken. -/
theorem foldl_betterOf_none {taken : List Nat} {l : List (Nat × Nat)} {best : Option (Nat × Nat)} (h : l.foldl (betterOf taken) best = none) :
    best = none ∧ ∀ x ∈ l, x.1 ≠ 0 → x.2 ∈ taken := by
  induction l generalizing best with
  | nil => exact ⟨h, by simp⟩
  | cons x l ih =>
    rw [List.foldl_cons] at h
    obtain ⟨hbest, hrest⟩ := ih h
    unfold betterOf at hbest
    split at hbest
    · rename_i hx
      have hskip : x.1 ≠ 0 → x.2 ∈ taken := by simpa [or_iff_not_imp_left] using hx
      exact ⟨hbest, List.forall_mem_cons.2 ⟨hskip, hrest⟩⟩
    · cases best with
      | none => cases hbest
      | some c => dsimp only at hbest; split at hbest <;> cases hbest

theorem pickReceiver_some {row taken : List Nat} {r : Nat} (h : pickReceiver row taken = some r) : 0 < row.getD r 0 ∧ r ∉ taken := by
  rw [pickReceiver_eq, Option.map_eq_some_iff] at h
  obtain ⟨b, hb, rfl⟩ := h
  obtain ⟨hmem, hpos, hfree⟩ := (foldl_betterOf_some hb).resolve_left nofun
  have hget := List.mem_zipIdx_iff_getElem?.1 hmem
  rw [List.getD_eq_getElem?_getD, hget]
  exact ⟨Nat.pos_of_ne_zero hpos, hfree⟩

theorem pickReceiver_none {row taken : List Nat} (h : pickReceiver row taken = none) (r : Nat) (hr : r ∉ taken) : row.getD r 0 = 0 := by
  rw [pickReceiver_eq, Option.map_eq_none_iff] at h
  by_contra hne
  rw [List.getD_eq_getElem?_getD] at hne
  cases hget : row[r]? with
  | none => simp [hget] at hne
  | some v =>
    rw [hget] at hne
    exact hr ((foldl_betterOf_none h).2 (v, r) (List.mem_zipIdx_iff_getElem?.2 hget) hne)

/-! ### The pairs of a phase (R215) -/

/-- What a sender adds to the pairs of a phase. -/
def takePair (acc : List (Nat × Nat) × List Nat) (x : List Nat × Nat) : List (Nat × Nat) × List Nat :=
  match pickReceiver x.1 acc.2 with
  | none => acc
  | some r => (acc.1 ++ [(x.2, r)], acc.2 ++ [r])

theorem pairsOf_eq (m : List (List Nat)) : pairsOf m = (m.zipIdx.foldl takePair ([], [])).1 := rfl

/-- The pairs that the first k senders form: senders rise, no receiver comes twice, each has a remnant, and none is formed where no demand is left. -/
structure PairsUpTo (m : List (List Nat)) (k : Nat) (ps : List (Nat × Nat)) : Prop where
  below : ∀ p ∈ ps, p.1 < k
  demand : ∀ p ∈ ps, 0 < cellOf m p.1 p.2
  order : ps.Pairwise (fun a b => a.1 < b.1 ∧ a.2 ≠ b.2)
  none : ps = [] → ∀ i < k, ∀ j, cellOf m i j = 0

theorem cellOf_row {m : List (List Nat)} {i : Nat} {row : List Nat} (h : m[i]? = some row) (j : Nat) : cellOf m i j = row.getD j 0 := by
  unfold cellOf
  rw [List.getD_eq_getElem?_getD (l := m), h]
  rfl

theorem takePair_spec {m : List (List Nat)} {k : Nat} {row : List Nat} (hrow : m[k]? = some row) {acc : List (Nat × Nat) × List Nat}
    (htaken : acc.2 = acc.1.map (fun p => p.2)) (h : PairsUpTo m k acc.1) :
    (takePair acc (row, k)).2 = (takePair acc (row, k)).1.map (fun p => p.2) ∧ PairsUpTo m (k + 1) (takePair acc (row, k)).1 := by
  unfold takePair
  cases hpick : pickReceiver row acc.2 with
  | none =>
    refine ⟨htaken, fun p hp => Nat.lt_succ_of_lt (h.below p hp), h.demand, h.order, fun hnil i hi j => ?_⟩
    rcases Nat.lt_succ_iff_lt_or_eq.1 hi with hlt | rfl
    · exact h.none hnil i hlt j
    · rw [cellOf_row hrow]
      exact pickReceiver_none hpick j (by rw [htaken, hnil]; simp)
  | some r =>
    obtain ⟨hpos, hfree⟩ := pickReceiver_some hpick
    refine ⟨by simp [htaken], fun p hp => ?_, fun p hp => ?_, ?_, by simp⟩
    · rcases List.mem_append.1 hp with hp | hp
      · exact Nat.lt_succ_of_lt (h.below p hp)
      · obtain rfl := List.mem_singleton.1 hp
        exact Nat.lt_succ_self k
    · rcases List.mem_append.1 hp with hp | hp
      · exact h.demand p hp
      · obtain rfl := List.mem_singleton.1 hp
        rwa [cellOf_row hrow]
    · refine List.pairwise_append.2 ⟨h.order, List.pairwise_singleton .., fun p hp q hq => ?_⟩
      obtain rfl := List.mem_singleton.1 hq
      exact ⟨h.below p hp, fun heq => hfree (htaken ▸ List.mem_map.2 ⟨p, hp, heq⟩)⟩

theorem foldl_takePair_spec {m : List (List Nat)} {l : List (List Nat)} {k : Nat} {acc : List (Nat × Nat) × List Nat} (hl : ∀ i < l.length, l[i]? = m[k + i]?)
    (htaken : acc.2 = acc.1.map (fun p => p.2)) (h : PairsUpTo m k acc.1) : PairsUpTo m (k + l.length) ((l.zipIdx k).foldl takePair acc).1 := by
  induction l generalizing k acc with
  | nil => exact h
  | cons row l ih =>
    have hrow : m[k]? = some row := (hl 0 (by simp)).symm
    obtain ⟨htaken', h'⟩ := takePair_spec hrow htaken h
    have hrest := ih (k := k + 1) (fun i hi => by simpa [Nat.add_assoc, Nat.add_comm 1 i] using hl (i + 1) (by simpa using hi)) htaken' h'
    rw [List.zipIdx_cons, List.foldl_cons, List.length_cons, Nat.add_comm l.length 1, ← Nat.add_assoc]
    exact hrest

theorem pairsOf_spec (m : List (List Nat)) : PairsUpTo m m.length (pairsOf m) := by
  have h := foldl_takePair_spec (m := m) (l := m) (k := 0) (acc := ([], [])) (by simp) rfl ⟨by simp, by simp, .nil, by simp⟩
  rwa [Nat.zero_add, ← pairsOf_eq] at h

/-- A square matrix of demand. -/
structure Square (n : Nat) (m : List (List Nat)) : Prop where
  rows : m.length = n
  cols : ∀ row ∈ m, row.length = n

theorem Square.lt_of_cell {n : Nat} {m : List (List Nat)} (h : Square n m) {i j : Nat} (hpos : 0 < cellOf m i j) : i < n ∧ j < n := by
  cases hget : m[i]? with
  | none => simp [cellOf, List.getD_eq_getElem?_getD, hget] at hpos
  | some row =>
    rw [cellOf_row hget] at hpos
    refine ⟨h.rows ▸ (List.getElem?_eq_some_iff.1 hget).1, ?_⟩
    rw [← h.cols row (List.mem_of_getElem? hget)]
    by_contra hge
    simp [List.getD_eq_getElem?_getD, List.getElem?_eq_none_iff.2 (Nat.not_lt.1 hge)] at hpos

theorem PairsUpTo.length_le {m : List (List Nat)} {k : Nat} {ps : List (Nat × Nat)} (h : PairsUpTo m k ps) : ps.length ≤ k := by
  have hnodup : (ps.map (fun p => p.1)).Nodup := h.order.map _ fun _ _ hab => Nat.ne_of_lt hab.1
  have hsub : ps.map (fun p => p.1) ⊆ List.range k := by
    intro i hi
    obtain ⟨p, hp, rfl⟩ := List.mem_map.1 hi
    exact List.mem_range.2 (h.below p hp)
  simpa using (hnodup.subperm hsub).length_le

/-- Pairs with the same sender are one. -/
theorem PairsUpTo.eq_of_sender {m : List (List Nat)} {k : Nat} {ps : List (Nat × Nat)} (h : PairsUpTo m k ps) {p q : Nat × Nat} (hp : p ∈ ps) (hq : q ∈ ps)
    (heq : p.1 = q.1) : p = q :=
  List.inj_on_of_nodup_map (h.order.map (fun p => p.1) fun _ _ hab => Nat.ne_of_lt hab.1) hp hq heq

/-! ### What a phase leaves of the demand -/

theorem getD_setAt (l : List Nat) (n v j : Nat) : (setAt l n v).getD j 0 = if j = n ∧ n < l.length then v else l.getD j 0 := by
  induction l generalizing n j with
  | nil => simp [setAt]
  | cons a l ih =>
    cases n with
    | zero => cases j <;> simp [setAt]
    | succ n =>
      cases j with
      | zero => simp [setAt]
      | succ j => simpa [setAt] using ih n j

theorem length_setAt {α : Type} (l : List α) (n : Nat) (v : α) : (setAt l n v).length = l.length := by
  induction l generalizing n with
  | nil => rfl
  | cons a l ih => cases n <;> simp [setAt, ih]

/-- A row of a matrix less what its pair moves. -/
def lessRow (m : List (List Nat)) (ps : List (Nat × Nat)) (q : Nat → Nat → Nat) (x : List Nat × Nat) : List Nat :=
  match ps.find? (fun p => p.1 == x.2) with
  | none => x.1
  | some p => setAt x.1 p.2 (cellOf m p.1 p.2 - q p.1 p.2)

theorem lessBy_eq (m : List (List Nat)) (ps : List (Nat × Nat)) (q : Nat → Nat → Nat) : lessBy m ps q = m.zipIdx.map (lessRow m ps q) := rfl

theorem length_lessRow (m : List (List Nat)) (ps : List (Nat × Nat)) (q : Nat → Nat → Nat) (x : List Nat × Nat) : (lessRow m ps q x).length = x.1.length := by
  unfold lessRow
  split
  · rfl
  · exact length_setAt ..

theorem Square.lessBy {n : Nat} {m : List (List Nat)} (h : Square n m) (ps : List (Nat × Nat)) (q : Nat → Nat → Nat) : Square n (lessBy m ps q) where
  rows := by rw [lessBy_eq, List.length_map, List.length_zipIdx, h.rows]
  cols row hrow := by
    rw [lessBy_eq] at hrow
    obtain ⟨x, hx, rfl⟩ := List.mem_map.1 hrow
    rw [length_lessRow]
    exact h.cols _ (List.mem_of_getElem? (List.mem_zipIdx_iff_getElem?.1 hx))

/-- Each pair's cell is less what it moves, every other cell the same. -/
theorem cellOf_lessBy {m : List (List Nat)} {k : Nat} {ps : List (Nat × Nat)} (h : PairsUpTo m k ps) (q : Nat → Nat → Nat) (i j : Nat) :
    cellOf (lessBy m ps q) i j = if (i, j) ∈ ps then cellOf m i j - q i j else cellOf m i j := by
  cases hget : m[i]? with
  | none =>
    have hm : cellOf m i j = 0 := by simp [cellOf, List.getD_eq_getElem?_getD, hget]
    have hless : cellOf (lessBy m ps q) i j = 0 := by simp [cellOf, lessBy_eq, List.getD_eq_getElem?_getD, hget]
    rw [hm, hless]
    split <;> omega
  | some row =>
    have hrow : (lessBy m ps q)[i]? = some (lessRow m ps q (row, i)) := by simp [lessBy_eq, hget]
    rw [cellOf_row hrow]
    unfold lessRow
    dsimp only
    cases hfind : ps.find? (fun p => p.1 == i) with
    | none =>
      have hnot : (i, j) ∉ ps := fun hmem => by simpa using List.find?_eq_none.1 hfind (i, j) hmem
      rw [if_neg hnot, cellOf_row hget]
    | some p =>
      have hp := List.mem_of_find?_eq_some hfind
      have hpi : p.1 = i := by simpa using List.find?_some hfind
      have hin : p.2 < row.length := by
        have hpos := h.demand p hp
        rw [hpi, cellOf_row hget] at hpos
        by_contra hge
        simp [List.getD_eq_getElem?_getD, List.getElem?_eq_none_iff.2 (Nat.not_lt.1 hge)] at hpos
      dsimp only
      rw [getD_setAt]
      by_cases hj : j = p.2
      · have hmem : (i, j) ∈ ps := by rw [hj, ← hpi]; exact hp
        rw [if_pos ⟨hj, hin⟩, if_pos hmem, hpi, hj]
      · have hnot : (i, j) ∉ ps := fun hmem => hj (congrArg Prod.snd (h.eq_of_sender hmem hp hpi.symm))
        rw [if_neg (fun hc => hj hc.1), if_neg hnot, cellOf_row hget]

end Sys2Proof.Machine

namespace Sys2Proof.Machine

set_option Elab.async false

/-! ### Phases while demand is left (R215) -/

/-- The quantum of a phase: the smallest remnant of its pairs, at most 4 MiB. -/
def phaseQuantum (m : List (List Nat)) (ps : List (Nat × Nat)) : Nat := ps.foldl (fun x p => min x (cellOf m p.1 p.2)) 0x400000

/-- What a pair moves in a phase. -/
def phaseAmount (whole : Bool) (m : List (List Nat)) (i j : Nat) : Nat := if whole then cellOf m i j else phaseQuantum m (pairsOf m)

/-- The grants of a phase. -/
def phaseGrants (whole : Bool) (m : List (List Nat)) (ph : Nat) : List Grant := (pairsOf m).map (fun p => ⟨p.1, p.2, ph + 1, phaseAmount whole m p.1 p.2⟩)

/-- What a phase leaves. -/
def phaseRest (whole : Bool) (m : List (List Nat)) : List (List Nat) := lessBy m (pairsOf m) (phaseAmount whole m)

theorem phasesOf_zero (whole : Bool) (m : List (List Nat)) (ph count : Nat) : phasesOf whole 0 m ph count = ([], ph) := rfl

theorem phasesOf_stops {whole : Bool} {fuel : Nat} {m : List (List Nat)} {ph count : Nat}
    (h : pairsOf m = [] ∨ 65536 < count + (pairsOf m).length ∨ 65536 ≤ ph) : phasesOf whole (fuel + 1) m ph count = ([], ph) :=
  if_pos (by simpa [or_assoc] using h)

theorem phasesOf_goes {whole : Bool} {fuel : Nat} {m : List (List Nat)} {ph count : Nat}
    (h : ¬ (pairsOf m = [] ∨ 65536 < count + (pairsOf m).length ∨ 65536 ≤ ph)) :
    phasesOf whole (fuel + 1) m ph count = (phaseGrants whole m ph ++ (phasesOf whole fuel (phaseRest whole m) (ph + 1) (count + (pairsOf m).length)).1,
      (phasesOf whole fuel (phaseRest whole m) (ph + 1) (count + (pairsOf m).length)).2) :=
  if_neg (by simpa [or_assoc] using h)

theorem foldl_min_le (f : Nat × Nat → Nat) (ps : List (Nat × Nat)) (a : Nat) :
    ps.foldl (fun x p => min x (f p)) a ≤ a ∧ ∀ p ∈ ps, ps.foldl (fun x p => min x (f p)) a ≤ f p := by
  induction ps generalizing a with
  | nil => simp
  | cons p ps ih =>
    obtain ⟨hle, hall⟩ := ih (min a (f p))
    exact ⟨hle.trans (Nat.min_le_left ..), List.forall_mem_cons.2 ⟨hle.trans (Nat.min_le_right ..), hall⟩⟩

theorem foldl_min_pos {f : Nat × Nat → Nat} {ps : List (Nat × Nat)} {a : Nat} (ha : 0 < a) (h : ∀ p ∈ ps, 0 < f p) :
    0 < ps.foldl (fun x p => min x (f p)) a := by
  induction ps generalizing a with
  | nil => exact ha
  | cons p ps ih =>
    have hp := h p (by simp)
    exact ih (Nat.lt_min.2 ⟨ha, hp⟩) fun q hq => h q (List.mem_cons_of_mem _ hq)

/-- A pair moves something, no more than its remnant: all of it where demand moves whole, 4 MiB at most where it does not. -/
theorem phaseAmount_spec {whole : Bool} {m : List (List Nat)} {p : Nat × Nat} (hp : p ∈ pairsOf m) :
    0 < phaseAmount whole m p.1 p.2 ∧ phaseAmount whole m p.1 p.2 ≤ cellOf m p.1 p.2 ∧
      (whole = true → phaseAmount whole m p.1 p.2 = cellOf m p.1 p.2) ∧ (whole = false → phaseAmount whole m p.1 p.2 ≤ 0x400000) := by
  have hdemand := (pairsOf_spec m).demand
  cases whole with
  | true => exact ⟨hdemand p hp, Nat.le_refl _, fun _ => rfl, nofun⟩
  | false =>
    obtain ⟨hle, hall⟩ := foldl_min_le (fun p => cellOf m p.1 p.2) (pairsOf m) 0x400000
    exact ⟨foldl_min_pos (by decide) hdemand, hall p hp, nofun, fun _ => hle⟩

theorem cellOf_phaseRest (whole : Bool) (m : List (List Nat)) (i j : Nat) :
    cellOf (phaseRest whole m) i j = if (i, j) ∈ pairsOf m then cellOf m i j - phaseAmount whole m i j else cellOf m i j :=
  cellOf_lessBy (pairsOf_spec m) _ i j

theorem cellOf_phaseRest_le (whole : Bool) (m : List (List Nat)) (i j : Nat) : cellOf (phaseRest whole m) i j ≤ cellOf m i j := by
  rw [cellOf_phaseRest]
  split
  · exact Nat.sub_le ..
  · exact Nat.le_refl _

/-- Demand that moves whole has moved, or stands as it was. -/
theorem cellOf_phaseRest_whole {m : List (List Nat)} {i j : Nat} (h : 0 < cellOf (phaseRest true m) i j) : cellOf (phaseRest true m) i j = cellOf m i j := by
  rw [cellOf_phaseRest] at h ⊢
  split
  · rename_i hp
    rw [if_pos hp, (phaseAmount_spec (p := (i, j)) hp).2.2.1 rfl, Nat.sub_self] at h
    exact absurd h (Nat.lt_irrefl 0)
  · rfl

/-- One grant comes before another: in an earlier phase, or in the same phase of a lower sender and to another receiver. -/
def Before (g h : Grant) : Prop := g.phase < h.phase ∨ (g.phase = h.phase ∧ g.snd < h.snd ∧ g.rcv ≠ h.rcv)

/-- A grant of a phase after ph, up to the last, of demand that stands in a matrix. -/
structure GrantOf (whole : Bool) (n : Nat) (m : List (List Nat)) (ph last : Nat) (g : Grant) : Prop where
  snd : g.snd < n
  rcv : g.rcv < n
  first : ph < g.phase
  last : g.phase ≤ last
  pos : 0 < g.bytes
  le : g.bytes ≤ cellOf m g.snd g.rcv
  all : whole = true → g.bytes = cellOf m g.snd g.rcv
  quantum : whole = false → g.bytes ≤ 0x400000

theorem phaseGrants_spec {whole : Bool} {n : Nat} {m : List (List Nat)} (hsq : Square n m) {ph last : Nat} (hlast : ph + 1 ≤ last) {g : Grant}
    (hg : g ∈ phaseGrants whole m ph) : GrantOf whole n m ph last g ∧ g.phase = ph + 1 := by
  obtain ⟨p, hp, rfl⟩ := List.mem_map.1 hg
  obtain ⟨hpos, hle, hwhole, hquantum⟩ := phaseAmount_spec (whole := whole) hp
  obtain ⟨hsnd, hrcv⟩ := hsq.lt_of_cell ((pairsOf_spec m).demand p hp)
  exact ⟨⟨hsnd, hrcv, Nat.lt_succ_self ph, hlast, hpos, hle, hwhole, hquantum⟩, rfl⟩

/-- A grant of what a phase leaves is one of what stood before it. -/
theorem GrantOf.of_rest {whole : Bool} {n : Nat} {m : List (List Nat)} {ph last : Nat} {g : Grant} (h : GrantOf whole n (phaseRest whole m) (ph + 1) last g) :
    GrantOf whole n m ph last g where
  snd := h.snd
  rcv := h.rcv
  first := Nat.lt_of_succ_lt h.first
  last := h.last
  pos := h.pos
  le := h.le.trans (cellOf_phaseRest_le ..)
  all hw := by
    subst hw
    have heq := h.all rfl
    rw [heq]
    exact cellOf_phaseRest_whole (heq ▸ h.pos)
  quantum := h.quantum

/-- The phases of a matrix: grants of its demand, in order. -/
structure PhasesFrom (whole : Bool) (n : Nat) (m : List (List Nat)) (ph : Nat) (r : List Grant × Nat) : Prop where
  last : ph ≤ r.2
  grants : ∀ g ∈ r.1, GrantOf whole n m ph r.2 g
  order : r.1.Pairwise Before

theorem phasesOf_spec (whole : Bool) {n : Nat} (fuel : Nat) : ∀ {m : List (List Nat)} (ph count : Nat), Square n m →
    PhasesFrom whole n m ph (phasesOf whole fuel m ph count) := by
  have hnone {m : List (List Nat)} (ph : Nat) : PhasesFrom whole n m ph ([], ph) := ⟨Nat.le_refl _, by simp, .nil⟩
  induction fuel with
  | zero => exact fun ph count _ => hnone ph
  | succ fuel ih =>
    intro m ph count hsq
    by_cases hstop : pairsOf m = [] ∨ 65536 < count + (pairsOf m).length ∨ 65536 ≤ ph
    · rw [phasesOf_stops hstop]
      exact hnone ph
    · rw [phasesOf_goes hstop]
      have hrest := ih (m := phaseRest whole m) (ph + 1) (count + (pairsOf m).length) (hsq.lessBy ..)
      refine ⟨(Nat.le_succ ph).trans hrest.last, fun g hg => ?_, List.pairwise_append.2 ⟨?_, hrest.order, fun g hg h hh => .inl ?_⟩⟩
      · rcases List.mem_append.1 hg with hg | hg
        · exact (phaseGrants_spec hsq hrest.last hg).1
        · exact (hrest.grants g hg).of_rest
      · exact (pairsOf_spec m).order.map _ fun _ _ hab => .inr ⟨rfl, hab⟩
      · rw [(phaseGrants_spec hsq hrest.last hg).2]
        exact (hrest.grants h hh).first

/-! ### What a calendar grants to a pair -/

/-- The bytes granted to a pair. -/
def grantedTo (gs : List Grant) (i j : Nat) : Nat := ((gs.filter (fun g => g.snd == i && g.rcv == j)).map (fun g => g.bytes)).sum

theorem foldl_add_sum {α : Type} (f : α → Nat) (l : List α) (a : Nat) : l.foldl (fun a g => a + f g) a = a + (l.map f).sum := by
  induction l generalizing a with
  | nil => rfl
  | cons x l ih => rw [List.foldl_cons, ih, List.map_cons, List.sum_cons, Nat.add_assoc]

theorem grantedTo_append (gs hs : List Grant) (i j : Nat) : grantedTo (gs ++ hs) i j = grantedTo gs i j + grantedTo hs i j := by
  simp [grantedTo]

theorem sum_filter_eq {ps : List (Nat × Nat)} (h : ps.Nodup) (f : Nat → Nat → Nat) (i j : Nat) :
    ((ps.filter (fun p => p.1 == i && p.2 == j)).map (fun p => f p.1 p.2)).sum = if (i, j) ∈ ps then f i j else 0 := by
  induction ps with
  | nil => rfl
  | cons p ps ih =>
    obtain ⟨hnot, hnodup⟩ := List.nodup_cons.1 h
    by_cases hp : p = (i, j)
    · subst hp
      rw [List.filter_cons_of_pos (by simp), List.map_cons, List.sum_cons, ih hnodup, if_neg hnot, if_pos (by simp), Nat.add_zero]
    · rw [List.filter_cons_of_neg (by simpa [Prod.ext_iff] using hp), ih hnodup]
      simp [Ne.symm hp]

theorem grantedTo_phaseGrants (whole : Bool) (m : List (List Nat)) (ph i j : Nat) :
    grantedTo (phaseGrants whole m ph) i j = if (i, j) ∈ pairsOf m then phaseAmount whole m i j else 0 := by
  have hne {a b : Nat × Nat} (hab : a.1 < b.1 ∧ a.2 ≠ b.2) : a ≠ b := fun heq => hab.2 (congrArg Prod.snd heq)
  have hnodup : (pairsOf m).Nodup := (pairsOf_spec m).order.imp hne
  unfold grantedTo phaseGrants
  rw [List.filter_map, List.map_map]
  exact sum_filter_eq hnodup (phaseAmount whole m) i j

/-- Where no limit has cut the phases short, they grant all the demand (R215). -/
theorem phasesOf_all (whole : Bool) {n : Nat} (fuel : Nat) : ∀ {m : List (List Nat)} {ph count : Nat}, Square n m → 65537 ≤ fuel + ph →
    count + (phasesOf whole fuel m ph count).1.length + n ≤ 65536 → (phasesOf whole fuel m ph count).2 < 65536 →
    ∀ i j, grantedTo (phasesOf whole fuel m ph count).1 i j = cellOf m i j := by
  induction fuel with
  | zero =>
    intro m ph count _ hfuel _ hlast
    rw [phasesOf_zero] at hlast
    omega
  | succ fuel ih =>
    intro m ph count hsq hfuel hcount hlast i j
    have hlen := (pairsOf_spec m).length_le
    rw [hsq.rows] at hlen
    by_cases hstop : pairsOf m = [] ∨ 65536 < count + (pairsOf m).length ∨ 65536 ≤ ph
    · rw [phasesOf_stops hstop] at hcount hlast ⊢
      dsimp only at hlast
      simp only [List.length_nil] at hcount
      have hnil : pairsOf m = [] := hstop.resolve_right (by omega)
      have hzero : cellOf m i j = 0 := by
        by_contra hne
        have hlt := hsq.lt_of_cell (Nat.pos_of_ne_zero hne)
        exact hne ((pairsOf_spec m).none hnil i (hsq.rows ▸ hlt.1) j)
      rw [hzero]
      rfl
    · rw [phasesOf_goes hstop] at hcount hlast ⊢
      have hmine : (phaseGrants whole m ph).length = (pairsOf m).length := List.length_map ..
      rw [List.length_append, hmine] at hcount
      have hrest := ih (m := phaseRest whole m) (hsq.lessBy ..) (by omega) (by omega) hlast i j
      rw [grantedTo_append, grantedTo_phaseGrants, hrest, cellOf_phaseRest]
      split
      · rename_i hp
        have hle := (phaseAmount_spec (whole := whole) hp).2.1
        dsimp only at hle
        omega
      · omega

end Sys2Proof.Machine

namespace Sys2Proof.Machine

set_option Elab.async false

/-! ### All that a matrix asks for and all that grants give -/

theorem sum_range_eq (l : List Nat) : l.sum = ∑ j ∈ Finset.range l.length, l.getD j 0 := by
  induction l with
  | nil => rfl
  | cons a l ih =>
    rw [List.sum_cons, List.length_cons, Finset.sum_range_succ', ih, Nat.add_comm]
    rfl

theorem sum_flatten_eq {n : Nat} (m : List (List Nat)) (h : ∀ row ∈ m, row.length = n) :
    m.flatten.sum = ∑ i ∈ Finset.range m.length, ∑ j ∈ Finset.range n, cellOf m i j := by
  induction m with
  | nil => rfl
  | cons row m ih =>
    have hrow : ∑ j ∈ Finset.range n, cellOf (row :: m) 0 j = row.sum := by
      rw [sum_range_eq, h row (by simp)]
      rfl
    rw [List.flatten_cons, List.sum_append, ih fun r hr => h r (List.mem_cons_of_mem _ hr), List.length_cons, Finset.sum_range_succ', hrow, Nat.add_comm]
    rfl

/-- The bytes of all grants are those of all pairs. -/
theorem sum_grants_eq {n : Nat} {gs : List Grant} (h : ∀ g ∈ gs, g.snd < n ∧ g.rcv < n) :
    (gs.map (fun g => g.bytes)).sum = ∑ i ∈ Finset.range n, ∑ j ∈ Finset.range n, grantedTo gs i j := by
  induction gs with
  | nil => simp [grantedTo]
  | cons g gs ih =>
    obtain ⟨hsnd, hrcv⟩ := h g (by simp)
    have hone (i j : Nat) : grantedTo (g :: gs) i j = (if g.rcv = j then if g.snd = i then g.bytes else 0 else 0) + grantedTo gs i j := by
      unfold grantedTo
      by_cases hi : g.snd = i
      · by_cases hj : g.rcv = j
        · simp [hi, hj]
        · simp [hi, hj]
      · simp [hi]
    have hmine : ∑ i ∈ Finset.range n, ∑ j ∈ Finset.range n, (if g.rcv = j then if g.snd = i then g.bytes else 0 else 0) = g.bytes := by
      simp [Finset.sum_ite_eq, hsnd, hrcv]
    simp only [hone, Finset.sum_add_distrib, hmine, List.map_cons, List.sum_cons]
    rw [ih fun x hx => h x (List.mem_cons_of_mem _ hx)]

/-! ### The calendar of a demand (R214, R215) -/

/-- A matrix with each cell changed. -/
def mapCells (f : Nat → Nat) (m : List (List Nat)) : List (List Nat) := m.map (fun r => r.map f)

theorem cellOf_mapCells {f : Nat → Nat} (hf : f 0 = 0) (m : List (List Nat)) (i j : Nat) : cellOf (mapCells f m) i j = f (cellOf m i j) := by
  unfold mapCells
  cases hget : m[i]? with
  | none => simp [cellOf, List.getD_eq_getElem?_getD, hget, hf]
  | some row =>
    rw [cellOf_row (row := row.map f) (by simp [hget]), cellOf_row hget, List.getD_eq_getElem?_getD, List.getD_eq_getElem?_getD, List.getElem?_map]
    cases row[j]? with
    | none => simp [hf]
    | some v => rfl

theorem Square.mapCells {n : Nat} {m : List (List Nat)} (h : Square n m) (f : Nat → Nat) : Square n (mapCells f m) where
  rows := by rw [Sys2Proof.Machine.mapCells, List.length_map, h.rows]
  cols row hrow := by
    obtain ⟨r, hr, rfl⟩ := List.mem_map.1 hrow
    rw [List.length_map, h.cols r hr]

/-- Demand of 64 KiB or more, which moves by quanta, and deferred demand. -/
def bigDemand (m : List (List Nat)) : List (List Nat) := mapCells (fun x => if x < 0x10000 then 0 else x) m
def smallDemand (m : List (List Nat)) : List (List Nat) := mapCells (fun x => if x < 0x10000 then x else 0) m

theorem cellOf_bigDemand (m : List (List Nat)) (i j : Nat) : cellOf (bigDemand m) i j = if cellOf m i j < 0x10000 then 0 else cellOf m i j :=
  cellOf_mapCells (by simp) m i j

theorem cellOf_smallDemand (m : List (List Nat)) (i j : Nat) : cellOf (smallDemand m) i j = if cellOf m i j < 0x10000 then cellOf m i j else 0 :=
  cellOf_mapCells (by simp) m i j

/-- The phases of the demand that moves by quanta, and those of the deferred demand after them. -/
def bigPhases (m : List (List Nat)) : List Grant × Nat := phasesOf false 65537 (bigDemand m) 0 0
def smallPhases (m : List (List Nat)) : List Grant × Nat := phasesOf true 65537 (smallDemand m) (bigPhases m).2 (bigPhases m).1.length

/-- The phases of the deferred demand follow where those before it have granted all of theirs. -/
theorem calendarOf_eq (m : List (List Nat)) : calendarOf m =
    if (bigDemand m).flatten.sum ≠ ((bigPhases m).1.map (fun g => g.bytes)).sum then bigPhases m
    else ((bigPhases m).1 ++ (smallPhases m).1, (smallPhases m).2) := by
  have hsum (l : List Nat) : l.foldl (fun x y => x + y) 0 = l.sum := by simpa using foldl_add_sum id l 0
  have hbytes (l : List Grant) : l.foldl (fun x g => x + g.bytes) 0 = (l.map (fun g => g.bytes)).sum := by simpa using foldl_add_sum (fun g => g.bytes) l 0
  unfold calendarOf smallPhases bigPhases
  -- the fuel is a number that no step of this proof may count down
  generalize 65537 = fuel
  simp only [hsum, hbytes, bne_iff_ne]
  rfl

/-- A grant of demand that moves by quanta, as R215 says of a calendar. -/
theorem GrantOf.of_big {n : Nat} {m : List (List Nat)} {ph last : Nat} {g : Grant} (h : GrantOf false n (bigDemand m) ph last g) :
    0x10000 ≤ cellOf m g.snd g.rcv ∧ g.bytes ≤ 0x400000 := by
  have hle := h.le
  have hpos := h.pos
  rw [cellOf_bigDemand] at hle
  split at hle
  · omega
  · exact ⟨by omega, h.quantum rfl⟩

/-- A grant of deferred demand. -/
theorem GrantOf.of_small {n : Nat} {m : List (List Nat)} {ph last : Nat} {g : Grant} (h : GrantOf true n (smallDemand m) ph last g) :
    cellOf m g.snd g.rcv < 0x10000 ∧ g.bytes = cellOf m g.snd g.rcv := by
  have heq := h.all rfl
  have hpos := h.pos
  rw [cellOf_smallDemand] at heq
  split at heq
  · exact ⟨‹_›, heq⟩
  · omega

/-- A calendar decomposes the demand of a square matrix (R215). -/
theorem goodCalendar_calendarOf {n : Nat} {m : List (List Nat)} (hsq : Square n m) : goodCalendar n (cellOf m) (calendarOf m).1 (calendarOf m).2 := by
  have hbigSq : Square n (bigDemand m) := hsq.mapCells _
  have hsmallSq : Square n (smallDemand m) := hsq.mapCells _
  have hbig : PhasesFrom false n (bigDemand m) 0 (bigPhases m) := phasesOf_spec false 65537 0 0 hbigSq
  have hsmall : PhasesFrom true n (smallDemand m) (bigPhases m).2 (smallPhases m) := phasesOf_spec true 65537 _ _ hsmallSq
  have hbigAll : (bigPhases m).1.length + n ≤ 65536 → (bigPhases m).2 < 65536 → ∀ i j, grantedTo (bigPhases m).1 i j = cellOf (bigDemand m) i j :=
    fun hlen hlast => phasesOf_all false 65537 hbigSq (by omega) (by rwa [Nat.zero_add]) hlast
  have hbytes (gs : List Grant) (i j : Nat) : (gs.filter (fun g => g.snd == i && g.rcv == j)).foldl (fun a g => a + g.bytes) 0 = grantedTo gs i j := by
    rw [foldl_add_sum (fun g : Grant => g.bytes), Nat.zero_add]
    rfl
  rw [calendarOf_eq]
  split
  · rename_i hcut
    refine ⟨fun g hg => ?_, hbig.order, fun hlen hlast => absurd ?_ hcut⟩
    · have hgrant := hbig.grants g hg
      obtain ⟨hmuch, hquantum⟩ := hgrant.of_big
      exact ⟨hgrant.snd, hgrant.rcv, hgrant.first, hgrant.last, hgrant.pos, fun _ => hquantum, fun hless => absurd hless (Nat.not_lt.2 hmuch)⟩
    · rw [sum_flatten_eq _ hbigSq.cols, hbigSq.rows, sum_grants_eq fun g hg => ⟨(hbig.grants g hg).snd, (hbig.grants g hg).rcv⟩]
      simp only [hbigAll hlen hlast]
  · refine ⟨fun g hg => ?_, List.pairwise_append.2 ⟨hbig.order, hsmall.order, fun g hg h hh => .inl ?_⟩, fun hlen hlast i _ j _ => ?_⟩
    · rcases List.mem_append.1 hg with hg | hg
      · have hgrant := hbig.grants g hg
        obtain ⟨hmuch, hquantum⟩ := hgrant.of_big
        exact ⟨hgrant.snd, hgrant.rcv, hgrant.first, hgrant.last.trans hsmall.last, hgrant.pos, fun _ => hquantum, fun hless => absurd hless (Nat.not_lt.2 hmuch)⟩
      · have hgrant := hsmall.grants g hg
        obtain ⟨hless, hall⟩ := hgrant.of_small
        exact ⟨hgrant.snd, hgrant.rcv, Nat.one_le_of_lt hgrant.first, hgrant.last, hgrant.pos, fun hmuch => absurd hless (Nat.not_lt.2 hmuch), fun _ => hall⟩
    · exact (hbig.grants g hg).last.trans_lt (hsmall.grants h hh).first
    · dsimp only at hlen hlast
      rw [List.length_append] at hlen
      have hbefore := hsmall.last
      have hsmallAll : ∀ i j, grantedTo (smallPhases m).1 i j = cellOf (smallDemand m) i j :=
        phasesOf_all true 65537 hsmallSq (by omega) (by rw [← smallPhases]; omega) hlast
      rw [hbytes, grantedTo_append, hbigAll (by omega) (by omega), hsmallAll, cellOf_bigDemand, cellOf_smallDemand]
      split <;> omega

theorem goodCalendar_congr {n : Nat} {d e : Nat → Nat → Nat} (h : ∀ i < n, ∀ j < n, d i j = e i j) {cal : List Grant} {phases : Nat} (hgood : goodCalendar n d cal phases) :
    goodCalendar n e cal phases := by
  obtain ⟨hgrants, horder, hall⟩ := hgood
  refine ⟨fun g hg => ?_, horder, fun hlen hlast i hi j hj => (hall hlen hlast i hi j hj).trans (h i hi j hj)⟩
  obtain ⟨hsnd, hrcv, hrest⟩ := hgrants g hg
  rw [h _ hsnd _ hrcv] at hrest
  exact ⟨hsnd, hrcv, hrest⟩

/-! ### Demand fitted to the areas (R214) -/

theorem fitColumn_eq (d : Nat → Nat) (r n : Nat) :
    fitColumn d r n = (List.range n).map (fun i => (min (d i) (r - areaOffset d r i), areaOffset d r i)) := by
  have hfold : (List.range n).foldl (fun (acc : List (Nat × Nat) × Nat) i =>
      let dd := min (d i) (r - acc.2)
      (acc.1 ++ [(dd, acc.2)], acc.2 + (dd + 63) / 64 * 64)) ([], 0) =
      ((List.range n).map (fun i => (min (d i) (r - areaOffset d r i), areaOffset d r i)), areaOffset d r n) := by
    induction n with
    | zero => rfl
    | succ n ih => rw [List.range_succ, List.foldl_append, ih, List.map_append]; rfl
  unfold fitColumn
  rw [hfold]

/-- Demand of a post for a receiver, and the length of a receiver's area. -/
def demandIn (ps : List Sys2Proof.Post) (i j : Nat) : Nat := ((ps.map (fun p => p.demand)).getD i []).getD j 0
def areaIn (ps : List Sys2Proof.Post) (j : Nat) : Nat := (ps.map (fun p => p.rlen)).getD j 0

/-- The offset of a sender in a receiver's area. -/
def offsetIn (ps : List Sys2Proof.Post) (i j : Nat) : Nat := areaOffset (fun i => demandIn ps i j) (areaIn ps j) i

/-- The demand of a pair that fits the receiver's area. -/
def fittedIn (ps : List Sys2Proof.Post) (i j : Nat) : Nat := min (demandIn ps i j) (areaIn ps j - offsetIn ps i j)

theorem fitAll_eq (ps : List Sys2Proof.Post) : fitAll ps =
    ((List.range ps.length).map (fun i => (List.range ps.length).map (fun j => fittedIn ps i j)),
     (List.range ps.length).map (fun i => (List.range ps.length).map (fun j => offsetIn ps i j))) := by
  have hcol {α : Type} (f : Nat × Nat → α) (i : Nat) (hi : i < ps.length) :
      ((List.range ps.length).map (fun r => fitColumn (fun i => demandIn ps i r) (areaIn ps r) ps.length)).map (fun c => f (c.getD i (0, 0))) =
        (List.range ps.length).map (fun j => f (fittedIn ps i j, offsetIn ps i j)) := by
    rw [List.map_map]
    refine List.map_congr_left fun r _ => ?_
    rw [Function.comp, fitColumn_eq, List.getD_eq_getElem?_getD, List.getElem?_map, List.getElem?_range hi]
    rfl
  unfold fitAll
  exact Prod.ext (List.map_congr_left fun i hi => hcol (fun x => x.1) i (List.mem_range.1 hi)) (List.map_congr_left fun i hi => hcol (fun x => x.2) i (List.mem_range.1 hi))

theorem cellOf_range {n i j : Nat} (f : Nat → Nat → Nat) (hi : i < n) (hj : j < n) :
    cellOf ((List.range n).map (fun i => (List.range n).map (fun j => f i j))) i j = f i j := by
  simp [cellOf, List.getD_eq_getElem?_getD, hi, hj]

theorem square_range (n : Nat) (f : Nat → Nat → Nat) : Square n ((List.range n).map (fun i => (List.range n).map (fun j => f i j))) where
  rows := by simp
  cols row hrow := by
    obtain ⟨i, _, rfl⟩ := List.mem_map.1 hrow
    simp

/-- The calendar of some posts decomposes their fitted demand (R214, R215). -/
theorem goodCalendar_fitAll (ps : List Sys2Proof.Post) :
    goodCalendar ps.length (fittedIn ps) (calendarOf (fitAll ps).1).1 (calendarOf (fitAll ps).1).2 := by
  rw [fitAll_eq]
  exact goodCalendar_congr (fun i hi j hj => cellOf_range (fittedIn ps) hi hj) (goodCalendar_calendarOf (square_range ..))

end Sys2Proof.Machine

namespace Sys2Proof.Machine

set_option Elab.async false

/-! ### Posts in the order of their members (R213) -/

theorem insertBy_perm {α : Type} (le : α → α → Bool) (x : α) (l : List α) : (insertBy le x l).Perm (x :: l) := by
  induction l with
  | nil => exact .refl _
  | cons a l ih =>
    unfold insertBy
    split
    · exact .refl _
    · exact (ih.cons a).trans (.swap ..)

theorem sortBy_perm {α : Type} (le : α → α → Bool) (l : List α) : (sortBy le l).Perm l := by
  induction l with
  | nil => exact .refl _
  | cons a l ih => exact (insertBy_perm le a _).trans (ih.cons a)

/-- The posts of an exchange in the order of their members. -/
def byMember (ps : List Sys2Proof.Post) : List Sys2Proof.Post := sortBy (fun a b => decide (a.member ≤ b.member)) ps

theorem byMember_perm (ps : List Sys2Proof.Post) : (byMember ps).Perm ps := sortBy_perm _ ps

theorem insertBy_member_sorted {p : Sys2Proof.Post} {l : List Sys2Proof.Post} (h : l.Pairwise (fun a b => a.member ≤ b.member)) :
    (insertBy (fun a b : Sys2Proof.Post => decide (a.member ≤ b.member)) p l).Pairwise (fun a b => a.member ≤ b.member) := by
  induction l with
  | nil => exact List.pairwise_singleton ..
  | cons a l ih =>
    obtain ⟨ha, hl⟩ := List.pairwise_cons.1 h
    unfold insertBy
    split
    · rename_i hle
      have hpa : p.member ≤ a.member := of_decide_eq_true hle
      exact List.pairwise_cons.2 ⟨List.forall_mem_cons.2 ⟨hpa, fun b hb => hpa.trans (ha b hb)⟩, h⟩
    · rename_i hlt
      have hap : a.member ≤ p.member := Nat.le_of_not_le (by simpa using hlt)
      refine List.pairwise_cons.2 ⟨fun b hb => ?_, ih hl⟩
      rcases (mem_insertBy _ _ _ _).1 hb with rfl | hb
      · exact hap
      · exact ha b hb

theorem byMember_sorted (ps : List Sys2Proof.Post) : (byMember ps).Pairwise (fun a b => a.member ≤ b.member) := by
  induction ps with
  | nil => exact .nil
  | cons p ps ih => exact insertBy_member_sorted ih

/-- Posts of distinct members below n, one of every index: in order they are those of 0 to n - 1. -/
theorem byMember_members {n : Nat} {ps : List Sys2Proof.Post} (hdiff : ps.Pairwise (fun a b => a.member ≠ b.member)) (hlt : ∀ q ∈ ps, q.member < n)
    (hall : ∀ i < n, ∃ q ∈ ps, q.member = i) : (byMember ps).map (fun q => q.member) = List.range n := by
  have hperm : (ps.map (fun q => q.member)).Perm (List.range n) := by
    refine (List.perm_ext_iff_of_nodup (hdiff.map _ fun _ _ hab => hab) List.nodup_range).2 fun i => ?_
    rw [List.mem_map, List.mem_range]
    exact ⟨fun ⟨q, hq, heq⟩ => heq ▸ hlt q hq, hall i⟩
  refine List.Perm.eq_of_pairwise (fun a b _ _ => Nat.le_antisymm) ((byMember_sorted ps).map _ fun _ _ hab => hab) ?_ (((byMember_perm ps).map _).trans hperm)
  exact List.pairwise_lt_range.imp Nat.le_of_lt

/-- Posts disagree unless they name one count and one list of members and are those of 0, 1 and so on (R213). -/
theorem disagreeing_eq_none_iff (p : Sys2Proof.Post) (ps : List Sys2Proof.Post) : disagreeing (p :: ps) = none ↔
    (∀ q ∈ p :: ps, q.nmem = p.nmem ∧ q.mtsig = p.mtsig) ∧ (p :: ps).map (fun q => q.member) = List.range (ps.length + 1) := by
  have hindex : (p :: ps).map (fun q => q.member) = List.range (ps.length + 1) ↔ ∀ x ∈ (p :: ps).zipIdx, x.1.member = x.2 := by
    constructor
    · intro h x hx
      have hget := congrArg (fun l => l[x.2]?) h
      have hlt : x.2 < ps.length + 1 := (List.getElem?_eq_some_iff.1 (List.mem_zipIdx_iff_getElem?.1 hx)).1
      rw [List.getElem?_map, List.mem_zipIdx_iff_getElem?.1 hx, List.getElem?_range hlt] at hget
      exact Option.some.inj hget
    · intro h
      refine List.ext_getElem (by simp) fun i hi _ => ?_
      have hlt : i < (p :: ps).length := by simpa using hi
      rw [List.getElem_map, List.getElem_range]
      exact h ((p :: ps)[i], i) (List.mem_zipIdx_iff_getElem?.2 (List.getElem?_eq_getElem hlt))
  have hall : (∀ q ∈ p :: ps, q.nmem = p.nmem ∧ q.mtsig = p.mtsig) ↔ ∀ x ∈ (p :: ps).zipIdx, x.1.nmem = p.nmem ∧ x.1.mtsig = p.mtsig := by
    conv_lhs => rw [← List.zipIdx_map_fst 0 (p :: ps)]
    exact List.forall_mem_map
  rw [hindex, hall]
  unfold disagreeing
  rw [Option.map_eq_none_iff, List.find?_eq_none]
  simp only [Bool.or_eq_true, bne_iff_ne, ne_eq, not_or, not_not, and_assoc]
  exact ⟨fun h => ⟨fun x hx => ⟨(h x hx).1, (h x hx).2.1⟩, fun x hx => (h x hx).2.2⟩, fun h x hx => ⟨(h.1 x hx).1, (h.1 x hx).2, h.2 x hx⟩⟩

/-- Posts that disagree, or two of which are of one member, are refused (R213). -/
theorem disagreeing_of_mismatch {p : Sys2Proof.Post} {ps : List Sys2Proof.Post} (hp : p ∈ ps)
    (h : (∃ q ∈ ps, q.nmem ≠ p.nmem ∨ q.mtsig ≠ p.mtsig) ∨ ¬ ps.Pairwise (fun a b => a.member ≠ b.member)) : ∃ i, disagreeing (byMember ps) = some i := by
  rw [← Option.isSome_iff_exists, Option.isSome_iff_ne_none]
  intro hnone
  have hperm := byMember_perm ps
  cases hqs : byMember ps with
  | nil =>
    have hmem := hperm.mem_iff.2 hp
    rw [hqs] at hmem
    cases hmem
  | cons q qs =>
    rw [hqs] at hnone hperm
    obtain ⟨hagree, hindex⟩ := (disagreeing_eq_none_iff q qs).1 hnone
    have hsame {a : Sys2Proof.Post} (ha : a ∈ ps) : a.nmem = q.nmem ∧ a.mtsig = q.mtsig := hagree a (hperm.mem_iff.2 ha)
    rcases h with ⟨a, ha, hne⟩ | htwice
    · obtain ⟨hpn, hps⟩ := hsame hp
      obtain ⟨han, has⟩ := hsame ha
      exact hne.elim (fun hn => hn (han.trans hpn.symm)) fun hs => hs (has.trans hps.symm)
    · have hnodup : ((q :: qs).map (fun a => a.member)).Nodup := by rw [hindex]; exact List.nodup_range
      have hmembers : (ps.map (fun a => a.member)).Nodup := (hperm.map (fun a => a.member)).nodup_iff.1 hnodup
      exact htwice (List.pairwise_map.1 hmembers)

/-- Posts that agree, one of each member below their count, are not refused. -/
theorem disagreeing_of_whole {n : Nat} {p : Sys2Proof.Post} {ps : List Sys2Proof.Post} (hagree : ∀ q ∈ ps, q.nmem = n ∧ q.mtsig = p.mtsig)
    (hindex : (byMember ps).map (fun q => q.member) = List.range n) : disagreeing (byMember ps) = none := by
  have hperm := byMember_perm ps
  have hlen := congrArg List.length hindex
  cases hqs : byMember ps with
  | nil => rfl
  | cons q qs =>
    rw [hqs] at hperm hindex hlen
    have hsame {a : Sys2Proof.Post} (ha : a ∈ q :: qs) : a.nmem = n ∧ a.mtsig = p.mtsig := hagree a (hperm.mem_iff.1 ha)
    obtain ⟨hqn, hqs⟩ := hsame (List.mem_cons_self ..)
    refine (disagreeing_eq_none_iff q qs).2 ⟨fun a ha => ⟨(hsame ha).1.trans hqn.symm, (hsame ha).2.trans hqs.symm⟩, ?_⟩
    rw [hindex, show qs.length + 1 = n by simpa using hlen]

end Sys2Proof.Machine

namespace Sys2Proof.Machine

set_option Elab.async false

/-! ### A formed exchange (R213, R217) -/

/-- The slot with its posts in order. -/
def XSlot.sorted (x : XSlot) : XSlot := { x with posts := byMember x.posts, mtsig := (((byMember x.posts).head?).map (fun p => p.mtsig)).getD 0 }

/-- The slot with the calendar of its posts. -/
def XSlot.formed (x : XSlot) : XSlot :=
  { x.sorted with st := 3, calendar := (calendarOf (fitAll (byMember x.posts)).1).1, nphase := (calendarOf (fitAll (byMember x.posts)).1).2 }

theorem State.form_of_mismatch {s : State} {key i : Nat} {x : XSlot} (h : disagreeing (byMember x.posts) = some i) : s.form key x =
    (if x.active then s.bbox (16 + key / 16) (bbEvent s.cycle 0x0B 0 0 0 (key % 16) 3 (BitVec.ofNat 64 x.xid) (BitVec.ofNat 64 i)) else s).endExchange key x.sorted 7 := by
  unfold State.form
  dsimp only
  rw [show sortBy (fun a b : Sys2Proof.Post => decide (a.member ≤ b.member)) x.posts = byMember x.posts from rfl, h]
  rfl

theorem State.form_of_agreement {s : State} {key : Nat} {x : XSlot} (h : disagreeing (byMember x.posts) = none) : s.form key x =
    (if x.active then s.sendRows (16 + key / 16) x.formed else s).openNext key x.formed := by
  unfold State.form
  dsimp only
  rw [show sortBy (fun a b : Sys2Proof.Post => decide (a.member ≤ b.member)) x.posts = byMember x.posts from rfl, h]
  rfl

theorem State.Leaves.of_bbox {s u : State} {key d : Nat} {e : BbEvent} {y : XSlot} {l : List XMsg} (h : (s.bbox d e).Leaves key y l u) : s.Leaves key y l u :=
  ⟨h.mem, h.mail, h.slot⟩

/-- A mismatch ends the exchange with status 7 (R213). -/
theorem State.form_refuses {s : State} {key : Nat} {x : XSlot} (h : ∃ i, disagreeing (byMember x.posts) = some i) (hhome : ∀ p ∈ x.posts, p.home = s.pkgId) :
    s.Leaves key x.sorted.ended (if x.active = true then noticesOf x.xid (byMember x.posts) 7 else []) (s.form key x) := by
  obtain ⟨i, hi⟩ := h
  have hsorted : x.sorted.active = true → ∀ p ∈ x.sorted.posts, p.home = s.pkgId := fun _ p hp => hhome p ((byMember_perm x.posts).mem_iff.1 hp)
  rw [State.form_of_mismatch hi]
  split
  · rename_i hact
    have hends := State.endExchange_leaves (s := s.bbox (16 + key / 16) (bbEvent s.cycle 0x0B 0 0 0 (key % 16) 3 (BitVec.ofNat 64 x.xid) (BitVec.ofNat 64 i)))
      (key := key) (st := 7) hsorted
    rw [if_pos (show x.sorted.active = true from hact)] at hends
    exact hends.of_bbox
  · rename_i hact
    have hends := State.endExchange_leaves (key := key) (st := 7) hsorted
    rwa [if_neg (show ¬ x.sorted.active = true from hact)] at hends

theorem noticesOf_perm {ps qs : List Sys2Proof.Post} (h : ps.Perm qs) (xid st : Nat) : (noticesOf xid ps st).Perm (noticesOf xid qs st) := h.map _

section
variable {s : State} {place : Nat} {sb w : Bool} {p : Sys2Proof.Post} (hx : s.theX = some (.post place sb w p)) (hup : s.dieUp (s.roleDie p sb) = true)
  (hrise : NatMap.rising s.xslots = true) {key : Nat} {x : XSlot} (hslot : s.slotOf p.xid sb = some (key, x)) (hst : x.st = 1)
  (hall : allPosted (x.posts ++ [p])) (hact : x.active = !sb) (hhome : ∀ q ∈ x.posts ++ [p], q.home = s.pkgId)
include hx hup hslot hst hall hact

/-- The last post of an exchange forms it. -/
theorem exec_postArrival_forms : exec .postArrival s =
    .next ((s.dropX.setX key { x with posts := x.posts ++ [p] }).form key { x with posts := x.posts ++ [p] }) := by
  obtain ⟨hxid, hsb⟩ := State.slotOf_role hslot
  have hquiet : ¬ (x.standby = true ∧ x.active = true) := by rw [hact, hsb]; cases sb <;> decide
  rw [exec_postArrival_joins hx hup hslot hst, State.tellTakeover_of_quiet (x := { x with posts := x.posts ++ [p] }) hquiet,
    if_pos ((XSlot.complete_iff _).2 hall)]

include hrise hhome

/-- Posts that do not agree are refused with status 7 (R213). -/
theorem postArrival_refuses (hbad : (∃ q ∈ x.posts ++ [p], q.nmem ≠ p.nmem ∨ q.mtsig ≠ p.mtsig) ∨ ¬ (x.posts ++ [p]).Pairwise (fun a b => a.member ≠ b.member)) :
    Goes .postArrival s (fun u => u.mem = s.mem ∧ (sb = true → u.sends s s.xRest) ∧ (sb = false → u.sends s (s.xRest ++ noticesOf p.xid (x.posts ++ [p]) 7)) ∧
      ∀ y, u.slotOf p.xid sb = some (key, y) → y.st = 4) := by
  obtain ⟨hxid, hsb⟩ := State.slotOf_role hslot
  have hends := State.form_refuses (s := s.dropX.setX key { x with posts := x.posts ++ [p] }) (key := key) (x := { x with posts := x.posts ++ [p] })
    (disagreeing_of_mismatch (by simp) hbad) (by rw [State.dropX_eq]; exact hhome)
  have hsends := State.sends_of_mail (s := s) hends.mail s.dropX_xmsgs (by rw [State.dropX_eq]; rfl)
  refine ⟨_, exec_postArrival_forms hx hup hslot hst hall hact, by rw [hends.mem, State.dropX_eq]; rfl, fun hon => ?_, fun hoff => ?_, fun y hy => ?_⟩
  · simpa [hact, hon] using hsends
  · rw [if_pos (by simp [hact, hoff])] at hsends
    refine State.sends_congr hsends (List.Perm.append_left _ ?_)
    rw [← hxid]
    exact noticesOf_perm (byMember_perm _) _ _
  · rw [hends.slot (by rw [State.dropX_eq]; exact NatMap.rising_ins _ _ _ hrise) hy]
    rfl

end

end Sys2Proof.Machine

namespace Sys2Proof.Machine

set_option Elab.async false

/-! ### A decomposed exchange (R213 to R217) -/

section
variable {s : State} {key : Nat} {x : XSlot} (hagree : disagreeing (byMember x.posts) = none) (hclosed : x.closed = 0)
include hagree hclosed

/-- A standby keeps what it has decomposed, and sends nothing. -/
theorem State.form_of_passive (hact : x.active = false) : s.Leaves key (if x.formed.nphase = 0 then x.formed.ended else x.formed) [] (s.form key x) := by
  have hoff : ¬ x.formed.active = true := ne_true_of_eq_false hact
  rw [State.form_of_agreement hagree, if_neg (ne_true_of_eq_false hact)]
  split
  · rename_i hnone
    rw [State.openNext_ends (by rw [hnone]; exact Nat.zero_le _)]
    simpa only [if_neg hoff] using State.endExchange_leaves (s := s) (key := key) (x := x.formed) (st := 0) fun hon => absurd hon hoff
  · rename_i hsome
    rw [State.openNext_of_passive (x := x.formed) (by rw [show x.formed.closed = 0 from hclosed]; exact Nat.pos_of_ne_zero hsome) hact]
    exact .of_setX (.refl _)

/-- A primary sends the rows and opens phase 1, or ends an exchange without phases. -/
theorem State.form_of_active (hact : x.active = true) (hhome : ∀ p ∈ x.posts, p.home = s.pkgId) :
    s.Leaves key (if x.formed.nphase = 0 then x.formed.ended else { x.formed with openPh := 1 })
      ((byMember x.posts).map x.formed.rowFor ++ (if x.formed.nphase = 0 then noticesOf x.xid (byMember x.posts) 0 else openingsOf x.formed x.epoch 1)) (s.form key x) := by
  have hposts : ∀ p ∈ x.formed.posts, p.home = s.pkgId := fun p hp => hhome p ((byMember_perm x.posts).mem_iff.1 hp)
  have hrows := State.sendRows_tells hposts (16 + key / 16)
  have hposts' : ∀ p ∈ x.formed.posts, p.home = (s.sendRows (16 + key / 16) x.formed).pkgId := by rwa [hrows.same State.pkgId]
  rw [State.form_of_agreement hagree, if_pos hact]
  refine .of_tells hrows ?_
  split
  · rename_i hnone
    rw [State.openNext_ends (by rw [hnone]; exact Nat.zero_le _)]
    have hends := State.endExchange_leaves (key := key) (x := x.formed) (st := 0) fun _ => hposts'
    rwa [if_pos (show x.formed.active = true from hact)] at hends
  · rename_i hsome
    have hphase : x.formed.closed + 1 = 1 := congrArg (· + 1) hclosed
    have hopens := State.openNext_tells (key := key) (x := x.formed) (by rw [show x.formed.closed = 0 from hclosed]; exact Nat.pos_of_ne_zero hsome) hact hposts'
    rw [hphase] at hopens
    exact .of_setX hopens

end

/-! ### What the posts ask for, by member -/

/-- The post of a member. -/
def postOf (ps : List Sys2Proof.Post) (p : Sys2Proof.Post) (i : Nat) : Sys2Proof.Post := (ps.find? (fun q => q.member == i)).getD p

/-- The demand of a pair, the offset of its sender in the receiver's area, and what of the demand fits it (R214). -/
def demandOf (ps : List Sys2Proof.Post) (p : Sys2Proof.Post) (i j : Nat) : Nat := (postOf ps p i).demand.getD j 0
def offsetOf (ps : List Sys2Proof.Post) (p : Sys2Proof.Post) (i j : Nat) : Nat := areaOffset (fun i => demandOf ps p i j) (postOf ps p j).rlen i
def fittedOf (ps : List Sys2Proof.Post) (p : Sys2Proof.Post) (i j : Nat) : Nat := min (demandOf ps p i j) ((postOf ps p j).rlen - offsetOf ps p i j)

theorem areaOffset_congr {d e : Nat → Nat} {k : Nat} (h : ∀ i < k, d i = e i) (r : Nat) : areaOffset d r k = areaOffset e r k := by
  induction k with
  | zero => rfl
  | succ k ih =>
    have hk := ih fun i hi => h i (Nat.lt_succ_of_lt hi)
    rw [areaOffset, areaOffset, hk, h k (Nat.lt_succ_self k)]

section
variable {n : Nat} {ps : List Sys2Proof.Post} {p : Sys2Proof.Post} (hdiff : ps.Pairwise (fun a b => a.member ≠ b.member))
  (hindex : (byMember ps).map (fun q => q.member) = List.range n)
include hdiff hindex

theorem getElem?_byMember {i : Nat} (hi : i < n) : (byMember ps)[i]? = some (postOf ps p i) := by
  have hget := congrArg (fun l => l[i]?) hindex
  rw [List.getElem?_map, List.getElem?_range hi] at hget
  obtain ⟨q, hq, hqi⟩ := Option.map_eq_some_iff.1 hget
  have hqmem : q ∈ ps := (byMember_perm ps).mem_iff.1 (List.mem_of_getElem? hq)
  have hfind : ∃ a, ps.find? (fun q => q.member == i) = some a := Option.isSome_iff_exists.1 (List.find?_isSome.2 ⟨q, hqmem, by simp [hqi]⟩)
  obtain ⟨a, ha⟩ := hfind
  have hai : a.member = i := by simpa using List.find?_some ha
  have hsame : a = q := List.inj_on_of_nodup_map (f := fun q : Sys2Proof.Post => q.member) (hdiff.map _ fun _ _ hab => hab) (List.mem_of_find?_eq_some ha) hqmem (hai.trans hqi.symm)
  rw [hq, postOf, ha, hsame]
  rfl

theorem demandIn_byMember {i : Nat} (hi : i < n) (j : Nat) : demandIn (byMember ps) i j = demandOf ps p i j := by
  rw [demandIn, List.getD_eq_getElem?_getD (l := List.map _ _), List.getElem?_map, getElem?_byMember hdiff hindex hi]
  rfl

theorem areaIn_byMember {j : Nat} (hj : j < n) : areaIn (byMember ps) j = (postOf ps p j).rlen := by
  rw [areaIn, List.getD_eq_getElem?_getD (l := List.map _ _), List.getElem?_map, getElem?_byMember hdiff hindex hj]
  rfl

theorem offsetIn_byMember {i j : Nat} (hi : i < n) (hj : j < n) : offsetIn (byMember ps) i j = offsetOf ps p i j := by
  rw [offsetIn, areaIn_byMember hdiff hindex hj]
  exact areaOffset_congr (fun k hk => demandIn_byMember hdiff hindex (hk.trans hi) j) _

theorem fittedIn_byMember {i j : Nat} (hi : i < n) (hj : j < n) : fittedIn (byMember ps) i j = fittedOf ps p i j := by
  rw [fittedIn, demandIn_byMember hdiff hindex hi, areaIn_byMember hdiff hindex hj, offsetIn_byMember hdiff hindex hi hj]
  rfl

omit hdiff in
theorem length_byMember : (byMember ps).length = n := by simpa using congrArg List.length hindex

omit hdiff in
/-- A list with an element for each member, in order. -/
theorem map_byMember {α : Type} (f : Nat → α) : (byMember ps).map (fun q => f q.member) = (List.range n).map f := by
  rw [← hindex, List.map_map]
  rfl

/-- The offsets as they stand in the rows. -/
theorem fitAll_offsets : (fitAll (byMember ps)).2 = (List.range n).map (fun i => (List.range n).map (fun j => offsetOf ps p i j)) := by
  rw [fitAll_eq, length_byMember hindex]
  exact List.map_congr_left fun i hi => List.map_congr_left fun j hj => offsetIn_byMember hdiff hindex (List.mem_range.1 hi) (List.mem_range.1 hj)

end

/-- The row of a member of n in a calendar: what it is granted and where it lies in its area, what it sends and where that lies (R217). -/
def memberRow (xid n : Nat) (cal : List Grant) (phases : Nat) (ps : List Sys2Proof.Post) (p : Sys2Proof.Post) (i : Nat) : XMsg :=
  .row xid i phases ((List.range n).map (fun j => (cal.filter (fun g => g.snd == j && g.rcv == i)).foldl (fun a g => a + g.bytes) 0))
    ((List.range n).map (fun j => offsetOf ps p j i)) (cal.filter (fun g => g.snd == i)) ((List.range n).map (fun j => offsetOf ps p i j))

theorem map_rowFor {x : XSlot} {ps : List Sys2Proof.Post} {p : Sys2Proof.Post} (hposts : x.posts = byMember ps) (hdiff : ps.Pairwise (fun a b => a.member ≠ b.member))
    (hindex : (byMember ps).map (fun q => q.member) = List.range x.nmem) :
    (byMember ps).map x.rowFor = (List.range x.nmem).map (memberRow x.xid x.nmem x.calendar x.nphase ps p) := by
  have hrow {i : Nat} (hi : i < x.nmem) : (fitAll x.posts).2.getD i [] = (List.range x.nmem).map (fun j => offsetOf ps p i j) := by
    rw [hposts, fitAll_offsets hdiff hindex, List.getD_eq_getElem?_getD, List.getElem?_map, List.getElem?_range hi]
    rfl
  have hcol {i : Nat} (hi : i < x.nmem) : (fitAll x.posts).2.map (fun o => o.getD i 0) = (List.range x.nmem).map (fun j => offsetOf ps p j i) := by
    rw [hposts, fitAll_offsets hdiff hindex, List.map_map]
    refine List.map_congr_left fun j _ => ?_
    rw [Function.comp, List.getD_eq_getElem?_getD, List.getElem?_map, List.getElem?_range hi]
    rfl
  rw [← map_byMember hindex]
  refine List.map_congr_left fun q hq => ?_
  have hi : q.member < x.nmem := List.mem_range.1 (hindex ▸ List.mem_map.2 ⟨q, hq, rfl⟩)
  rw [XSlot.rowFor, hrow hi, hcol hi]
  rfl

/-- The openings of a phase are one for each of its grants. -/
theorem openingsOf_perm {x : XSlot} {ps : List Sys2Proof.Post} {d : Nat → Nat → Nat} (hposts : x.posts = byMember ps)
    (hindex : (byMember ps).map (fun q => q.member) = List.range x.nmem) (hgood : goodCalendar x.nmem d x.calendar x.nphase) (epoch ph : Nat) :
    (openingsOf x epoch ph).Perm ((x.calendar.filter (fun g => g.phase == ph)).map (fun g => .phase x.xid epoch ph g.snd)) := by
  obtain ⟨hgrants, horder, _⟩ := hgood
  have hsenders : ((x.posts.filter (fun p => x.calendar.any (fun g => g.phase == ph && g.snd == p.member))).map (fun p => p.member)).Perm
      ((x.calendar.filter (fun g => g.phase == ph)).map (fun g => g.snd)) := by
    refine (List.perm_ext_iff_of_nodup ?_ ?_).2 fun i => ?_
    · have hnodup : (x.posts.map (fun p => p.member)).Nodup := by rw [hposts, hindex]; exact List.nodup_range
      exact hnodup.sublist (List.filter_sublist.map _)
    · refine List.pairwise_map.2 (List.pairwise_filter.2 (horder.imp fun {g h} hgh hg hh => ?_))
      have hphase : g.phase = h.phase := (beq_iff_eq.1 hg).trans (beq_iff_eq.1 hh).symm
      rcases hgh with hlt | ⟨_, hlt, _⟩
      · omega
      · exact Nat.ne_of_lt hlt
    · simp only [List.mem_map, List.mem_filter, List.any_eq_true, Bool.and_eq_true, beq_iff_eq]
      constructor
      · rintro ⟨q, ⟨_, g, hg, hph, hsnd⟩, rfl⟩
        exact ⟨g, ⟨hg, hph⟩, hsnd⟩
      · rintro ⟨g, ⟨hg, hph⟩, rfl⟩
        have hmem : g.snd ∈ x.posts.map (fun p => p.member) := by rw [hposts, hindex, List.mem_range]; exact (hgrants g hg).1
        obtain ⟨q, hq, hqi⟩ := List.mem_map.1 hmem
        exact ⟨q, ⟨hq, g, hg, hph, hqi.symm⟩, hqi⟩
  have hmap := hsenders.map (fun i => XMsg.phase x.xid epoch ph i)
  rwa [List.map_map, List.map_map] at hmap

section
variable {s : State} {place : Nat} {sb w : Bool} {p : Sys2Proof.Post} (hx : s.theX = some (.post place sb w p)) (hup : s.dieUp (s.roleDie p sb) = true)
  (hrise : NatMap.rising s.xslots = true) {key : Nat} {x : XSlot} (hslot : s.slotOf p.xid sb = some (key, x)) (hst : x.st = 1)
  (hall : allPosted (x.posts ++ [p])) (hact : x.active = !sb) (hhome : ∀ q ∈ x.posts ++ [p], q.home = s.pkgId)
include hx hup hrise hslot hst hall hact hhome

/-- Posts that agree are decomposed: the rows are sent and phase 1 opens, or the exchange ends (R213 to R217). -/
theorem postArrival_decomposes (hagree : ∀ q ∈ x.posts ++ [p], q.nmem = x.nmem ∧ q.mtsig = p.mtsig ∧ q.member < x.nmem)
    (hdiff : (x.posts ++ [p]).Pairwise (fun a b => a.member ≠ b.member)) (hclosed : x.closed = 0) :
    Goes .postArrival s (fun u => u.mem = s.mem ∧ ∀ y, u.slotOf p.xid sb = some (key, y) →
      goodCalendar x.nmem (fittedOf (x.posts ++ [p]) p) y.calendar y.nphase ∧
      (sb = true → u.sends s s.xRest ∧ (0 < y.nphase → y.st = 3 ∧ y.openPh = x.openPh)) ∧
      (sb = false → 0 < y.nphase → y.st = 3 ∧ y.openPh = 1 ∧
        u.sends s (s.xRest ++ (List.range x.nmem).map (memberRow x.xid x.nmem y.calendar y.nphase (x.posts ++ [p]) p) ++
          ((y.calendar.filter (fun g => g.phase == 1)).map (fun g => XMsg.phase x.xid x.epoch 1 g.snd)))) ∧
      (sb = false → y.nphase = 0 → y.st = 4 ∧
        u.sends s (s.xRest ++ (List.range x.nmem).map (memberRow x.xid x.nmem y.calendar y.nphase (x.posts ++ [p]) p) ++
          (List.range x.nmem).map (fun i => XMsg.finish x.xid i 0)))) := by
  have hcover : ∀ i < x.nmem, ∃ q ∈ x.posts ++ [p], q.member = i := by
    obtain ⟨q, hq, hcov⟩ := hall
    exact (hagree q hq).1 ▸ hcov
  have hindex := byMember_members hdiff (fun q hq => (hagree q hq).2.2) hcover
  have hnone := disagreeing_of_whole (p := p) (fun q hq => ⟨(hagree q hq).1, (hagree q hq).2.1⟩) hindex
  obtain ⟨x1, hx1⟩ : ∃ x1 : XSlot, x1 = { x with posts := x.posts ++ [p] } := ⟨_, rfl⟩
  obtain ⟨t, ht⟩ : ∃ t, t = s.dropX.setX key x1 := ⟨_, rfl⟩
  have hexec := exec_postArrival_forms hx hup hslot hst hall hact
  have htrise : NatMap.rising t.xslots = true := by rw [ht, State.dropX_eq]; exact NatMap.rising_ins _ _ _ hrise
  have htmem : t.mem = s.mem := by rw [ht, State.dropX_eq]; rfl
  have htnet : t.xnet = s.xnet := by rw [ht, State.dropX_eq]; rfl
  have htmsgs : t.xmsgs = s.xRest := by rw [ht, ← s.dropX_xmsgs]; rfl
  have hthome : ∀ q ∈ x1.posts, q.home = t.pkgId := by rw [ht, State.dropX_eq, hx1]; exact hhome
  have hgood : goodCalendar x.nmem (fittedOf (x.posts ++ [p]) p) x1.formed.calendar x1.formed.nphase := by
    have hfit := goodCalendar_fitAll (byMember (x.posts ++ [p]))
    rw [length_byMember hindex] at hfit
    rw [hx1]
    exact goodCalendar_congr (fun i hi j hj => fittedIn_byMember hdiff hindex hi hj) hfit
  rw [← hx1, ← ht] at hexec
  cases sb with
  | true =>
    have hleaves := State.form_of_passive (s := t) (key := key) (x := x1) (hx1 ▸ hnone) (hx1 ▸ hclosed) (hx1 ▸ hact)
    have hsends := State.sends_of_mail hleaves.mail htmsgs htnet
    rw [List.append_nil] at hsends
    refine ⟨_, hexec, hleaves.mem.trans htmem, fun y hy => ?_⟩
    have hy := hleaves.slot htrise hy
    split at hy
    · rename_i hzero
      subst hy
      exact ⟨hgood, fun _ => ⟨hsends, fun hpos => absurd hzero (Nat.ne_of_gt hpos)⟩, nofun, nofun⟩
    · subst hy
      exact ⟨hgood, fun _ => ⟨hsends, fun _ => ⟨rfl, by rw [hx1]; rfl⟩⟩, nofun, nofun⟩
  | false =>
    have hleaves := State.form_of_active (s := t) (key := key) (x := x1) (hx1 ▸ hnone) (hx1 ▸ hclosed) (hx1 ▸ hact) hthome
    have hsends := State.sends_of_mail hleaves.mail htmsgs htnet
    have hposts : x1.formed.posts = byMember (x.posts ++ [p]) := by rw [hx1]; rfl
    have hnmem : x1.formed.nmem = x.nmem := by rw [hx1]; rfl
    have hid : x1.formed.xid = x.xid := by rw [hx1]; rfl
    have hrows := map_rowFor (p := p) hposts hdiff (hnmem ▸ hindex)
    have hopens := openingsOf_perm hposts (hnmem ▸ hindex) (hnmem ▸ hgood) x.epoch 1
    have hends : noticesOf x.xid (byMember (x.posts ++ [p])) 0 = (List.range x.nmem).map (fun i => XMsg.finish x.xid i 0) :=
      map_byMember hindex fun i => XMsg.finish x.xid i 0
    rw [hnmem, hid] at hrows
    rw [hid] at hopens
    rw [show byMember x1.posts = byMember (x.posts ++ [p]) from hposts, show x1.xid = x.xid from hid, show x1.epoch = x.epoch by rw [hx1], hrows] at hsends
    refine ⟨_, hexec, hleaves.mem.trans htmem, fun y hy => ?_⟩
    have hy := hleaves.slot htrise hy
    split at hy
    · rename_i hzero
      rw [if_pos hzero, hends, ← List.append_assoc] at hsends
      subst hy
      exact ⟨hgood, nofun, fun _ hpos => absurd hzero (Nat.ne_of_gt hpos), fun _ _ => ⟨rfl, hsends⟩⟩
    · rename_i hsome
      rw [if_neg hsome] at hsends
      subst hy
      exact ⟨hgood, nofun, fun _ _ => ⟨rfl, rfl, State.sends_congr hsends (by rw [List.append_assoc]; exact (hopens.append_left _).append_left _)⟩,
        fun _ hzero => absurd hzero hsome⟩

end

end Sys2Proof.Machine

namespace Sys2Proof.Machine

set_option Elab.async false

/-! ### Acknowledgements of grants (R217) -/

section
variable {s : State} {pkg : BitVec 19} {rim xid ph snd rcv : Nat} (hx : s.theX = some (.ack pkg rim xid ph snd rcv)) (hhere : s.site.x = none)
include hx hhere

/-- A grant whose bytes are not performed is not acknowledged. -/
theorem exec_grantAck_outstanding (hout : s.outstanding (.grant xid ph snd rcv) = true) : exec .grantAck s = .next s := by
  change execGrantAck s = _
  simp only [execGrantAck, hx, hhere, hout, Option.isSome_none, Bool.true_or, Bool.false_eq_true, if_false, if_true]

variable (hout : s.outstanding (.grant xid ph snd rcv) = false) (hsent : s.transfers.any (fun t => t.owner == .grant xid ph snd rcv) = false)
include hout hsent

/-- The acknowledgement to an arbiter of another package. -/
theorem grantAck_leaves (hpkg : pkg ≠ s.pkgId) :
    Goes .grantAck s (fun u => u.mem = s.mem ∧ u.xmsgs = s.xRest ∧ u.netOut = s.netOut ++ [.exchange pkg (.ack pkg rim xid ph snd rcv)]) := by
  have hexec : exec .grantAck s = .next { s.dropX with netOut := s.dropX.netOut ++ [.exchange pkg (.ack pkg rim xid ph snd rcv)] } := by
    change execGrantAck s = _
    simp only [execGrantAck, hx, hhere, hout, hsent, hpkg, Option.isSome_none, Bool.or_self, Bool.false_and, Bool.false_eq_true, if_false, if_true, ne_eq,
      not_false_eq_true]
  exact ⟨_, hexec, by rw [State.dropX_eq], s.dropX_xmsgs, by rw [State.dropX_eq]⟩

/-- The acknowledgement to an arbiter of this package goes over the mesh. -/
theorem grantAck_sends (hpkg : pkg = s.pkgId) (hslot : (s.slotOf xid (decide (rim ≠ 16 + xid % 4))).isSome = true) :
    Goes .grantAck s (fun u => u.mem = s.mem ∧ u.sends s (s.xRest ++ [.acked (decide (rim ≠ 16 + xid % 4)) xid ph snd rcv])) := by
  have hrole : (rim != arbiterPlace xid false) = decide (rim ≠ 16 + xid % 4) := by
    simp [arbiterPlace, bne, beq_eq_decide]
  obtain ⟨⟨key, x⟩, hkey⟩ := Option.isSome_iff_exists.1 hslot
  have hkey' : s.dropX.slotOf xid (decide (rim ≠ 16 + xid % 4)) = some (key, x) := by rw [State.dropX_eq]; exact hkey
  have hdrop : s.dropX.pkgId = s.pkgId := by rw [State.dropX_eq]
  have hexec : exec .grantAck s = .next (s.dropX.sendMsg (64 * ((s.dropX.member? xid snd).map (fun m => rimOf m.post.eng)).getD (16 + key / 16)) (16 + key / 16) none
      (.acked (decide (rim ≠ 16 + xid % 4)) xid ph snd rcv)) := by
    change execGrantAck s = _
    simp only [execGrantAck, hx, hhere, hout, hsent, hpkg, hdrop, hrole, hkey', Option.isSome_none, Bool.or_self, Bool.false_and, Bool.false_eq_true, if_false, ne_eq,
      not_true_eq_false]
  have htells := State.sendMsg_tells s.dropX (64 * ((s.dropX.member? xid snd).map (fun m => rimOf m.post.eng)).getD (16 + key / 16)) (16 + key / 16) none
    (.acked (decide (rim ≠ 16 + xid % 4)) xid ph snd rcv)
  exact ⟨_, hexec, by rw [htells.same State.mem, State.dropX_eq], htells.sends s.dropX_xmsgs (by rw [State.dropX_eq])⟩

end

/-- The slot with a grant acknowledged. -/
def XSlot.withAck (x : XSlot) (a : Nat × Nat × Nat) : XSlot := { x with acks := if x.acks.contains a then x.acks else x.acks ++ [a] }

theorem XSlot.closedUpTo_stays {x : XSlot} {c : Nat} (h : x.nphase ≤ c ∨ x.phaseDone (c + 1) = false) (fuel : Nat) : x.closedUpTo fuel c = c := by
  cases fuel with
  | zero => rfl
  | succ fuel =>
    unfold XSlot.closedUpTo
    refine if_neg fun hgo => ?_
    obtain ⟨hlt, hdone⟩ : c < x.nphase ∧ x.phaseDone (c + 1) = true := by simpa using hgo
    rcases h with hle | hnot
    · omega
    · simp [hnot] at hdone

theorem XSlot.closedUpTo_goes {x : XSlot} {c fuel : Nat} (hlt : c < x.nphase) (hdone : x.phaseDone (c + 1) = true) :
    x.closedUpTo (fuel + 1) c = x.closedUpTo fuel (c + 1) := if_pos (by simp [hlt, hdone])

section
variable {s : State} {sb : Bool} {xid ph snd rcv key : Nat} {x : XSlot} (hslot : s.slotOf xid sb = some (key, x))
include hslot

/-- What an acknowledgement does at the arbiter that holds its exchange. -/
theorem State.takeAck_eq : s.takeAck sb xid ph snd rcv =
    if !s.dieUp (16 + key / 16) then s
    else if x.st ≠ 3 || (x.withAck (ph, snd, rcv)).closedUpTo (x.nphase + 1) x.closed = x.closed ||
      ((x.withAck (ph, snd, rcv)).closedUpTo (x.nphase + 1) x.closed < x.openPh && x.active) then
        s.setX key { x.withAck (ph, snd, rcv) with closed := (x.withAck (ph, snd, rcv)).closedUpTo (x.nphase + 1) x.closed }
    else s.openNext key { x.withAck (ph, snd, rcv) with closed := (x.withAck (ph, snd, rcv)).closedUpTo (x.nphase + 1) x.closed } := by
  unfold State.takeAck
  rw [hslot]
  rfl

/-- An arbiter whose die is out of service does nothing (R223). -/
theorem State.takeAck_of_down (hdown : s.dieUp (16 + key / 16) = false) : s.takeAck sb xid ph snd rcv = s := by
  rw [State.takeAck_eq hslot, hdown]
  rfl

variable (hup : s.dieUp (16 + key / 16) = true)
include hup

/-- An acknowledgement that leaves others of its phase to come. -/
theorem State.takeAck_stays (hopen : x.nphase ≤ x.closed ∨ (x.withAck (ph, snd, rcv)).phaseDone (x.closed + 1) = false) :
    s.takeAck sb xid ph snd rcv = s.setX key (x.withAck (ph, snd, rcv)) := by
  have hstays := XSlot.closedUpTo_stays (x := x.withAck (ph, snd, rcv)) (c := x.closed) hopen (x.nphase + 1)
  rw [State.takeAck_eq hslot, hup, hstays, if_neg (by decide), if_pos (by simp)]
  rfl

/-- The last acknowledgement of a phase closes it. -/
theorem State.takeAck_closes (hst : x.st = 3) (hlt : x.closed < x.nphase) (hdone : (x.withAck (ph, snd, rcv)).phaseDone (x.closed + 1) = true)
    (hnext : x.nphase ≤ x.closed + 1 ∨ (x.withAck (ph, snd, rcv)).phaseDone (x.closed + 2) = false) (hopened : x.openPh ≤ x.closed + 1) :
    s.takeAck sb xid ph snd rcv = s.openNext key { x.withAck (ph, snd, rcv) with closed := x.closed + 1 } := by
  have hcloses : (x.withAck (ph, snd, rcv)).closedUpTo (x.nphase + 1) x.closed = x.closed + 1 := by
    rw [XSlot.closedUpTo_goes (x := x.withAck (ph, snd, rcv)) hlt hdone]
    exact XSlot.closedUpTo_stays (x := x.withAck (ph, snd, rcv)) hnext _
  rw [State.takeAck_eq hslot, hup, hcloses, if_neg (by decide), if_neg (by simp [hst, Nat.not_lt.2 hopened])]

end

section
variable {s : State} {sb : Bool} {xid ph snd rcv : Nat} (hx : s.theX = some (.acked sb xid ph snd rcv)) {key : Nat} {x : XSlot} (hslot : s.slotOf xid sb = some (key, x))
include hx

theorem exec_grantAck_taken : exec .grantAck s = .next (s.dropX.takeAck sb xid ph snd rcv) := by
  change execGrantAck s = _
  simp only [execGrantAck, hx]

include hslot

theorem grantAck_of_down (hdown : s.dieUp (16 + key / 16) = false) : Goes .grantAck s (fun u => u.mem = s.mem ∧ u.xmsgs = s.xRest ∧ u.xslots = s.xslots) := by
  have htake := State.takeAck_of_down (s := s.dropX) (ph := ph) (snd := snd) (rcv := rcv) (by rw [State.dropX_eq]; exact hslot) (by rw [State.dropX_eq]; exact hdown)
  refine ⟨_, (exec_grantAck_taken hx).trans (congrArg Host.Outcome.next htake), by rw [State.dropX_eq], s.dropX_xmsgs, by rw [State.dropX_eq]⟩

variable (hup : s.dieUp (16 + key / 16) = true)
include hup

theorem grantAck_counts (hopen : x.nphase ≤ x.closed ∨ (x.withAck (ph, snd, rcv)).phaseDone (x.closed + 1) = false) :
    Goes .grantAck s (fun u => u.mem = s.mem ∧ u.xmsgs = s.xRest ∧ u.slotOf xid sb = some (key, x.withAck (ph, snd, rcv))) := by
  have hslot' : s.dropX.slotOf xid sb = some (key, x) := by rw [State.dropX_eq]; exact hslot
  have htake := State.takeAck_stays hslot' (by rw [State.dropX_eq]; exact hup) hopen
  obtain ⟨hxid, hsb⟩ := State.slotOf_role hslot
  refine ⟨_, (exec_grantAck_taken hx).trans (congrArg Host.Outcome.next htake), by rw [State.dropX_eq]; rfl, s.dropX_xmsgs, State.slotOf_setX _ hxid hsb fun e he => ?_⟩
  rw [show e = (key, x) from Option.some.inj (he.symm.trans hslot')]

variable (hst : x.st = 3) (hact : x.active = true) (hhome : ∀ p ∈ x.posts, p.home = s.pkgId) (hdone : (x.withAck (ph, snd, rcv)).phaseDone (x.closed + 1) = true)
include hst hact hhome hdone

/-- A phase closes, and the next one opens (R217). -/
theorem grantAck_opens (hmore : x.closed + 1 < x.nphase) (hnext : (x.withAck (ph, snd, rcv)).phaseDone (x.closed + 2) = false) (hopened : x.openPh ≤ x.closed + 1) :
    Goes .grantAck s (fun u => u.mem = s.mem ∧ u.slotOf xid sb = some (key, { x.withAck (ph, snd, rcv) with closed := x.closed + 1, openPh := x.closed + 2 }) ∧
      u.sends s (s.xRest ++ openingsOf x x.epoch (x.closed + 2))) := by
  have hslot' : s.dropX.slotOf xid sb = some (key, x) := by rw [State.dropX_eq]; exact hslot
  have htake := State.takeAck_closes hslot' (by rw [State.dropX_eq]; exact hup) hst (Nat.lt_of_succ_lt hmore) hdone (.inr hnext) hopened
  have htells := State.openNext_tells (s := s.dropX) (key := key) (x := { x.withAck (ph, snd, rcv) with closed := x.closed + 1 }) hmore hact
    (by rw [State.dropX_eq]; exact hhome)
  obtain ⟨hxid, hsb⟩ := State.slotOf_role hslot
  refine ⟨_, (exec_grantAck_taken hx).trans (congrArg Host.Outcome.next htake), by rw [htells.same State.mem, State.dropX_eq]; rfl, ?_,
    htells.sends s.dropX_xmsgs (by rw [State.dropX_eq]; rfl)⟩
  refine (htells.same (fun t => t.slotOf xid sb)).trans (State.slotOf_setX _ hxid hsb fun e he => ?_)
  rw [show e = (key, x) from Option.some.inj (he.symm.trans hslot')]

/-- The last phase closes, and the exchange ends (R219). -/
theorem grantAck_ends (hlast : x.closed + 1 = x.nphase) (hopened : x.openPh ≤ x.nphase) :
    Goes .grantAck s (fun u => u.mem = s.mem ∧ u.sends s (s.xRest ++ noticesOf xid x.posts 0)) := by
  have hslot' : s.dropX.slotOf xid sb = some (key, x) := by rw [State.dropX_eq]; exact hslot
  have htake := State.takeAck_closes hslot' (by rw [State.dropX_eq]; exact hup) hst (Nat.lt_of_succ_le (Nat.le_of_eq hlast)) hdone (.inl (Nat.le_of_eq hlast.symm))
    (hlast ▸ hopened)
  have hlast' : ({ x.withAck (ph, snd, rcv) with closed := x.closed + 1 } : XSlot).nphase ≤ x.closed + 1 := Nat.le_of_eq hlast.symm
  have hends := State.endExchange_leaves (s := s.dropX) (key := key) (x := { x.withAck (ph, snd, rcv) with closed := x.closed + 1 }) (st := 0)
    fun _ => by rw [State.dropX_eq]; exact hhome
  rw [if_pos (show ({ x.withAck (ph, snd, rcv) with closed := x.closed + 1 } : XSlot).active = true from hact)] at hends
  obtain ⟨hxid, _⟩ := State.slotOf_role hslot
  refine ⟨_, (exec_grantAck_taken hx).trans (congrArg Host.Outcome.next (htake.trans (State.openNext_ends hlast'))), by rw [hends.mem, State.dropX_eq], ?_⟩
  rw [← hxid]
  exact State.sends_of_mail hends.mail s.dropX_xmsgs (by rw [State.dropX_eq])

end

end Sys2Proof.Machine

namespace Sys2Proof.Machine

set_option Elab.async false

/-! ### Standby and failover (R223) -/

/-- The slot of a key. -/
def State.xAtKey (s : State) (key : Nat) : Option XSlot := (s.xslots.find? (fun e => e.1 == key)).map (fun e => e.2)

theorem State.xAtKey_setX (s : State) (key : Nat) (y : XSlot) : (s.setX key y).xAtKey key = some y := by
  rw [State.xAtKey, State.setX, NatMap.find?_key_ins]
  rfl

theorem State.find?_of_xAtKey {s : State} {key : Nat} {x : XSlot} (h : s.xAtKey key = some x) : s.xslots.find? (fun e => e.1 == key) = some (key, x) := by
  obtain ⟨⟨a, y⟩, hfind, rfl⟩ := Option.map_eq_some_iff.1 h
  obtain rfl : a = key := by simpa using List.find?_some hfind
  exact hfind

/-- Slots changed each under its own key. -/
theorem State.xAtKey_map {s u : State} {f : XSlot → XSlot} (h : u.xslots = s.xslots.map (fun e => (e.1, f e.2))) (key : Nat) : u.xAtKey key = (s.xAtKey key).map f := by
  rw [State.xAtKey, State.xAtKey, h, List.find?_map, Option.map_map, Option.map_map]
  rfl

/-- A standby that hears a heartbeat notes the cycle. -/
def XSlot.beaten (xid now : Nat) (x : XSlot) : XSlot := if x.xid = xid && x.standby then { x with beat := now } else x

theorem State.beatHere_xslots (s : State) (xid : Nat) : (s.beatHere xid).xslots = s.xslots.map (fun e => (e.1, e.2.beaten xid s.cycle)) := by
  refine List.map_congr_left fun e _ => ?_
  unfold XSlot.beaten
  split <;> rfl

theorem State.slotOf_beatHere {s : State} {xid key : Nat} {z : XSlot} (h : (s.beatHere xid).slotOf xid true = some (key, z)) : z.beat = s.cycle := by
  obtain ⟨hxid, hsb⟩ := State.slotOf_role h
  have hmem := List.mem_of_find?_eq_some h
  rw [State.beatHere_xslots] at hmem
  obtain ⟨e, _, he⟩ := List.mem_map.1 hmem
  obtain ⟨_, rfl⟩ := Prod.mk.inj he
  unfold XSlot.beaten at hxid hsb ⊢
  split
  · rfl
  · rename_i hne
    rw [if_neg hne] at hxid hsb
    exact absurd (by simp [hxid, hsb]) hne

/-- A heartbeat from an arbiter to the standby on this package. -/
def State.sendBeat (s : State) (key xid : Nat) : State :=
  match s.slotOf xid true with
  | none => s
  | some (k2, _) => if k2 / 16 = key / 16 then s.beatHere xid else s.sendMsg (64 * (16 + key / 16)) (16 + k2 / 16) none (.heartbeat xid)

theorem State.sendBeat_of_none {s : State} {xid : Nat} (h : s.slotOf xid true = none) (key : Nat) : s.sendBeat key xid = s := by
  unfold State.sendBeat
  rw [h]

theorem State.sendBeat_of_some {s : State} {xid k2 : Nat} {y : XSlot} (h : s.slotOf xid true = some (k2, y)) (key : Nat) : s.sendBeat key xid =
    if k2 / 16 = key / 16 then s.beatHere xid else s.sendMsg (64 * (16 + key / 16)) (16 + k2 / 16) none (.heartbeat xid) := by
  unfold State.sendBeat
  rw [h]

section
variable {s : State} {x : XSlot} (hslot : s.xAtKey (xKey s.site.rim s.site.n) = some x) (hup : s.dieUp (16 + xKey s.site.rim s.site.n / 16) = true)
include hslot

section
variable (hhere : s.site.x = none) (hsb : x.standby = false) (hact : x.active = true) (halone : x.alone = false)
include hhere

theorem exec_heartbeatSend_early (hearly : s.cycle < x.beat + 22500) : exec .heartbeatSend s = .next s := by
  have hdue : (x.standby || !x.active || x.alone || decide (s.cycle < x.beat + beatTime) || !s.dieUp (16 + xKey s.site.rim s.site.n / 16)) = true := by
    simp [beatTime, hearly]
  change execHeartbeatSend s = _
  simp only [execHeartbeatSend, hhere, State.find?_of_xAtKey hslot]
  exact if_pos hdue

include hup hsb hact halone

theorem exec_heartbeatSend_due (hdue : x.beat + 22500 ≤ s.cycle) {p : Sys2Proof.Post} {ps : List Sys2Proof.Post} (hposts : x.posts = p :: ps)
    (hhome : p.memtab.getD (p.nmem - 1) 0 = s.pkgId) : exec .heartbeatSend s =
      .next ((s.setX (xKey s.site.rim s.site.n) { x with beat := s.cycle }).sendBeat (xKey s.site.rim s.site.n) x.xid) := by
  have hgo : (x.standby || !x.active || x.alone || decide (s.cycle < x.beat + beatTime) || !s.dieUp (16 + xKey s.site.rim s.site.n / 16)) = false := by
    simp [beatTime, Nat.not_lt.2 hdue, hsb, hact, halone, hup]
  change execHeartbeatSend s = _
  simp only [execHeartbeatSend, hhere, State.find?_of_xAtKey hslot, hgo, hposts, Post.pkgOf, hhome, Bool.false_eq_true, if_false, if_true]
  rfl

/-- A primary sends a heartbeat to its standby each 10 µs. -/
theorem heartbeatSend_beats (hrise : NatMap.rising s.xslots = true) (hdue : x.beat + 22500 ≤ s.cycle) (hhome : ∀ p ∈ x.posts, p.memtab.getD (p.nmem - 1) 0 = s.pkgId)
    (hne : x.posts ≠ []) : Goes .heartbeatSend s (fun u =>
      u.mem = s.mem ∧ u.xAtKey (xKey s.site.rim s.site.n) = some { x with beat := s.cycle } ∧ ∀ key' y, s.slotOf x.xid true = some (key', y) →
        if key' / 16 = xKey s.site.rim s.site.n / 16 then u.sends s s.xmsgs ∧ ∀ z, u.slotOf x.xid true = some (key', z) → z.beat = s.cycle
        else u.sends s (s.xmsgs ++ [.heartbeat x.xid])) := by
  obtain ⟨p, ps, hposts⟩ := List.exists_cons_of_ne_nil hne
  have hexec := exec_heartbeatSend_due hslot hup hhere hsb hact halone hdue hposts (hhome p (by simp [hposts]))
  have hlisted := List.mem_of_find?_eq_some (State.find?_of_xAtKey hslot)
  have hother : (s.setX (xKey s.site.rim s.site.n) { x with beat := s.cycle }).slotOf x.xid true = s.slotOf x.xid true :=
    State.slotOf_setX_other (by simp [hsb]) fun w hw => by rw [NatMap.eq_of_rising hrise hw hlisted, hsb]; decide
  have hnow := s.xAtKey_setX (xKey s.site.rim s.site.n) { x with beat := s.cycle }
  cases hstandby : s.slotOf x.xid true with
  | none =>
    rw [State.sendBeat_of_none (hother.trans hstandby)] at hexec
    exact ⟨_, hexec, rfl, hnow, nofun⟩
  | some e =>
    obtain ⟨k2, y⟩ := e
    rw [State.sendBeat_of_some (hother.trans hstandby)] at hexec
    split at hexec
    · rename_i hsame
      refine ⟨_, hexec, rfl, ?_, fun key' y' heq => ?_⟩
      · rw [State.xAtKey_map (State.beatHere_xslots ..), hnow]
        simp [XSlot.beaten, hsb]
      · obtain ⟨rfl, rfl⟩ := Prod.mk.inj (Option.some.inj heq)
        rw [if_pos hsame]
        exact ⟨List.Perm.refl _, fun z hz => State.slotOf_beatHere (s := s.setX (xKey s.site.rim s.site.n) { x with beat := s.cycle }) hz⟩
    · rename_i hdiff
      have htells := (s.setX (xKey s.site.rim s.site.n) { x with beat := s.cycle }).sendMsg_tells (64 * (16 + xKey s.site.rim s.site.n / 16)) (16 + k2 / 16) none (.heartbeat x.xid)
      refine ⟨_, hexec, htells.same State.mem, (htells.same (fun t => t.xAtKey (xKey s.site.rim s.site.n))).trans hnow, fun key' y' heq => ?_⟩
      obtain ⟨rfl, rfl⟩ := Prod.mk.inj (Option.some.inj heq)
      rw [if_neg hdiff]
      exact htells.sends rfl rfl

end

end

/-- The slot of a standby that takes over. -/
def XSlot.takenOver (x : XSlot) (now : Nat) : XSlot := { x with epoch := 1, active := true, cost := now - x.beat }

/-- The rows of a calendar, each member's among them. -/
theorem isRowOf_rowFor {x : XSlot} (now : Nat) : ∀ p ∈ x.posts, (x.posts.map (x.takenOver now).rowFor).any (isRowOf x p.member) = true := by
  intro p hp
  refine List.any_eq_true.2 ⟨_, List.mem_map.2 ⟨p, hp, rfl⟩, ?_⟩
  simp [XSlot.rowFor, isRowOf, XSlot.takenOver]

/-- The standby has taken its exchange over, and its black box has the event. -/
def State.takesOver (s : State) (key : Nat) (x : XSlot) : State :=
  (s.setX key (x.takenOver s.cycle)).bbox (16 + key / 16) (bbEvent s.cycle 0x0B 1 0 0 (key % 16) 3 (BitVec.ofNat 64 x.xid) 0)

/-- Every member has been told of the takeover. -/
def State.tellsMembers (s : State) (key : Nat) (x : XSlot) : State := x.posts.foldl (fun t p => t.tellTakeover key (x.takenOver s.cycle) p) (s.takesOver key x)

/-- And so has the old primary. -/
def State.tellsAll (s : State) (key : Nat) (x : XSlot) (p : Sys2Proof.Post) : State :=
  (s.tellsMembers key x).sendX (64 * (16 + key / 16)) (arbiters p).1.1 ((((s.tellsMembers key x).slotOf x.xid false).map (fun y => 16 + y.1 / 16)).getD (16 + key / 16))
    (.takeover x.xid none (some (arbiters p).1.2) (s.cycle - x.beat))

/-- The notices of a takeover. -/
def takeoversOf (x : XSlot) (cost : Nat) : List XMsg :=
  x.posts.map (fun p => .takeover x.xid (some p.member) none cost) ++ [.takeover x.xid none (some (16 + x.xid % 4)) cost]

/-- What a message reaches without leaving the package. -/
structure XSlot.AtHome (x : XSlot) (pkg : BitVec 19) : Prop where
  home : ∀ p ∈ x.posts, p.home = pkg
  first : ∀ p ∈ x.posts, p.memtab.getD 0 0 = pkg
  last : ∀ p ∈ x.posts, p.memtab.getD (p.nmem - 1) 0 = pkg
  xid : ∀ p ∈ x.posts, p.xid = x.xid

theorem State.tellsAll_tells {s : State} {key : Nat} {x : XSlot} {p : Sys2Proof.Post} (hp : p ∈ x.posts) (hsb : x.standby = true) (hhome : x.AtHome s.pkgId) :
    (s.takesOver key x).Tells (takeoversOf x (s.cycle - x.beat)) (s.tellsAll key x p) := by
  have hmembers : (s.takesOver key x).Tells (x.posts.map (fun p => .takeover x.xid (some p.member) none (s.cycle - x.beat))) (s.tellsMembers key x) := by
    unfold State.tellsMembers
    simp only [State.tellTakeover_of_active (x := x.takenOver s.cycle) hsb rfl]
    exact State.foldl_sendX_tells (s := s.takesOver key x) hhome.home
  have hprimary : (arbiters p).1.1 = (s.tellsMembers key x).pkgId := (hhome.first p hp).trans (hmembers.same State.pkgId).symm
  have hplace : (arbiters p).1.2 = 16 + x.xid % 4 := by
    simp [arbiters, arbiterPlace, hhome.xid p hp]
  have hlast := State.sendX_tells hprimary (64 * (16 + key / 16))
    ((((s.tellsMembers key x).slotOf x.xid false).map (fun y => 16 + y.1 / 16)).getD (16 + key / 16)) (.takeover x.xid none (some (arbiters p).1.2) (s.cycle - x.beat))
  have hall := hmembers.trans hlast
  have hlist : [XMsg.takeover x.xid none (some (arbiters p).1.2) (s.cycle - x.beat)] = [.takeover x.xid none (some (16 + x.xid % 4)) (s.cycle - x.beat)] := by rw [hplace]
  rw [hlist] at hall
  exact hall

section
variable {s : State} {x : XSlot} (hslot : s.xAtKey (xKey s.site.rim s.site.n) = some x)
include hslot

theorem exec_heartbeatTimeout_early (hearly : s.cycle < x.beat + 67500) : exec .heartbeatTimeout s = .next s := by
  have hwait : (!x.standby || x.active || decide (s.cycle < x.beat + beatLimit) || !s.dieUp (16 + xKey s.site.rim s.site.n / 16)) = true := by
    simp [beatLimit, hearly]
  change execHeartbeatTimeout s = _
  simp only [execHeartbeatTimeout, State.find?_of_xAtKey hslot]
  exact if_pos hwait

variable (hup : s.dieUp (16 + xKey s.site.rim s.site.n / 16) = true) (hsb : x.standby = true) (hact : x.active = false) (hdue : x.beat + 67500 ≤ s.cycle)
include hup hsb hact hdue

theorem exec_heartbeatTimeout_due {p : Sys2Proof.Post} {ps : List Sys2Proof.Post} (hposts : x.posts = p :: ps) :
    exec .heartbeatTimeout s = .next
      (if x.st = 3 then ((s.tellsAll (xKey s.site.rim s.site.n) x p).sendRows (16 + xKey s.site.rim s.site.n / 16) (x.takenOver s.cycle)).openNext (xKey s.site.rim s.site.n)
          (x.takenOver s.cycle)
        else if x.st = 4 then
          (if (disagreeing x.posts).isSome then (s.tellsAll (xKey s.site.rim s.site.n) x p).finishAll (16 + xKey s.site.rim s.site.n / 16) (x.takenOver s.cycle) 7
            else ((s.tellsAll (xKey s.site.rim s.site.n) x p).sendRows (16 + xKey s.site.rim s.site.n / 16) (x.takenOver s.cycle)).finishAll
              (16 + xKey s.site.rim s.site.n / 16) (x.takenOver s.cycle) 0).freeSlots x.xid
        else s.tellsAll (xKey s.site.rim s.site.n) x p) := by
  have hgo : (!x.standby || x.active || decide (s.cycle < x.beat + beatLimit) || !s.dieUp (16 + xKey s.site.rim s.site.n / 16)) = false := by
    simp [beatLimit, Nat.not_lt.2 hdue, hsb, hact, hup]
  change execHeartbeatTimeout s = _
  unfold execHeartbeatTimeout
  rw [State.find?_of_xAtKey hslot]
  dsimp only
  rw [if_neg (ne_true_of_eq_false hgo)]
  split
  · rename_i hnil
    simp [hposts] at hnil
  · rename_i q qs hcons
    obtain ⟨rfl, rfl⟩ := List.cons.inj (hcons.symm.trans hposts)
    rfl

variable (hhome : x.AtHome s.pkgId) (hne : x.posts ≠ [])
include hhome hne

/-- A standby without a heartbeat for 30 µs takes over (R223). -/
theorem heartbeatTimeout_early_stage (h3 : x.st ≠ 3) (h4 : x.st ≠ 4) : Goes .heartbeatTimeout s (fun u =>
    u.mem = s.mem ∧ u.xAtKey (xKey s.site.rim s.site.n) = some (x.takenOver s.cycle) ∧ u.sends s (s.xmsgs ++ takeoversOf x (s.cycle - x.beat))) := by
  obtain ⟨p, ps, hposts⟩ := List.exists_cons_of_ne_nil hne
  have hexec := exec_heartbeatTimeout_due hslot hup hsb hact hdue hposts
  have htells := State.tellsAll_tells (key := xKey s.site.rim s.site.n) (p := p) (by simp [hposts]) hsb hhome
  rw [if_neg h3, if_neg h4] at hexec
  exact ⟨_, hexec, htells.same State.mem, (htells.same (fun t => t.xAtKey (xKey s.site.rim s.site.n))).trans (State.xAtKey_setX ..), htells.sends rfl rfl⟩

/-- While phases are left it sends the rows and opens the next phase under its epoch. -/
theorem heartbeatTimeout_running (h3 : x.st = 3) (hmore : x.closed < x.nphase) : Goes .heartbeatTimeout s (fun u =>
    u.mem = s.mem ∧ u.xAtKey (xKey s.site.rim s.site.n) = some { x.takenOver s.cycle with openPh := x.closed + 1 } ∧
    ∃ rows : List XMsg, rows.length = x.posts.length ∧ (∀ p ∈ x.posts, rows.any (isRowOf x p.member) = true) ∧
      u.sends s (s.xmsgs ++ takeoversOf x (s.cycle - x.beat) ++ rows ++ openingsOf x 1 (x.closed + 1))) := by
  obtain ⟨p, ps, hposts⟩ := List.exists_cons_of_ne_nil hne
  have hexec := exec_heartbeatTimeout_due hslot hup hsb hact hdue hposts
  have htells := State.tellsAll_tells (key := xKey s.site.rim s.site.n) (p := p) (by simp [hposts]) hsb hhome
  rw [if_pos h3] at hexec
  have hhome1 : ∀ q ∈ (x.takenOver s.cycle).posts, q.home = (s.tellsAll (xKey s.site.rim s.site.n) x p).pkgId := fun q hq => (hhome.home q hq).trans (htells.same State.pkgId).symm
  have hrows := htells.trans (State.sendRows_tells hhome1 (16 + xKey s.site.rim s.site.n / 16))
  have hopens := State.openNext_tells (s := (s.tellsAll (xKey s.site.rim s.site.n) x p).sendRows (16 + xKey s.site.rim s.site.n / 16) (x.takenOver s.cycle))
    (key := xKey s.site.rim s.site.n) (x := x.takenOver s.cycle) hmore rfl (fun q hq => (hhome.home q hq).trans (hrows.same State.pkgId).symm)
  refine ⟨_, hexec, (hopens.same State.mem).trans (hrows.same State.mem), (hopens.same (fun t => t.xAtKey (xKey s.site.rim s.site.n))).trans (State.xAtKey_setX ..),
    x.posts.map (x.takenOver s.cycle).rowFor, List.length_map .., isRowOf_rowFor s.cycle, ?_⟩
  have hmail : ((((s.tellsAll (xKey s.site.rim s.site.n) x p).sendRows (16 + xKey s.site.rim s.site.n / 16) (x.takenOver s.cycle)).openNext (xKey s.site.rim s.site.n)
      (x.takenOver s.cycle)).allX).Perm (s.allX ++ (takeoversOf x (s.cycle - x.beat) ++ x.posts.map (x.takenOver s.cycle).rowFor ++ openingsOf x 1 (x.closed + 1))) := by
    rw [← List.append_assoc]
    exact hopens.mail.trans (hrows.mail.append_right _)
  simpa only [List.append_assoc] using State.sends_of_mail (s := s) hmail rfl rfl

/-- After the end it tells the members again. -/
theorem heartbeatTimeout_ended (h4 : x.st = 4) : Goes .heartbeatTimeout s (fun u => u.mem = s.mem ∧
    ((disagreeing x.posts).isSome = true → u.sends s (s.xmsgs ++ takeoversOf x (s.cycle - x.beat) ++ noticesOf x.xid x.posts 7)) ∧
    (disagreeing x.posts = none → ∃ rows : List XMsg, rows.length = x.posts.length ∧ (∀ p ∈ x.posts, rows.any (isRowOf x p.member) = true) ∧
      u.sends s (s.xmsgs ++ takeoversOf x (s.cycle - x.beat) ++ rows ++ noticesOf x.xid x.posts 0))) := by
  obtain ⟨p, ps, hposts⟩ := List.exists_cons_of_ne_nil hne
  have hexec := exec_heartbeatTimeout_due hslot hup hsb hact hdue hposts
  have htells := State.tellsAll_tells (key := xKey s.site.rim s.site.n) (p := p) (by simp [hposts]) hsb hhome
  rw [if_neg (by rw [h4]; decide), if_pos h4] at hexec
  have hhome1 : ∀ q ∈ (x.takenOver s.cycle).posts, q.home = (s.tellsAll (xKey s.site.rim s.site.n) x p).pkgId := fun q hq => (hhome.home q hq).trans (htells.same State.pkgId).symm
  cases hdis : disagreeing x.posts with
  | some i =>
    rw [hdis, if_pos (show (some i).isSome = true from rfl)] at hexec
    have hall := htells.trans (State.finishAll_tells hhome1 (16 + xKey s.site.rim s.site.n / 16) 7)
    refine ⟨_, hexec, hall.same State.mem, fun _ => ?_, nofun⟩
    rw [List.append_assoc]
    exact hall.sends rfl rfl
  | none =>
    rw [hdis, if_neg (show ¬ (none : Option Nat).isSome = true from Bool.false_ne_true)] at hexec
    have hrows := htells.trans (State.sendRows_tells hhome1 (16 + xKey s.site.rim s.site.n / 16))
    have hall := hrows.trans (State.finishAll_tells (x := x.takenOver s.cycle) (fun q hq => (hhome.home q hq).trans (hrows.same State.pkgId).symm)
      (16 + xKey s.site.rim s.site.n / 16) 0)
    refine ⟨_, hexec, hall.same State.mem, nofun, fun _ => ⟨x.posts.map (x.takenOver s.cycle).rowFor, List.length_map .., isRowOf_rowFor s.cycle, ?_⟩⟩
    rw [List.append_assoc, List.append_assoc, ← List.append_assoc (takeoversOf _ _)]
    exact hall.sends rfl rfl

end

/-! ### Arbiters lost, and the takeover heard of (R223, R426) -/

section
variable {s : State} {x : XSlot} (hslot : s.xAtKey (xKey s.site.rim s.site.n) = some x)
include hslot

/-- A primary whose standby is lost goes on alone. -/
theorem arbiterLost_alone (hone : s.site.yes = false) (hsb : x.standby = false) (hact : x.active = true) (halone : x.alone = false)
    (hlost : ∀ y ∈ s.xslots, y.2.xid = x.xid → y.2.standby = true → s.dieUp (16 + y.1 / 16) = false) :
    Goes .arbiterLost s (fun u => u.mem = s.mem ∧ u.xmsgs = s.xmsgs ∧ u.xAtKey (xKey s.site.rim s.site.n) = some { x with alone := true }) := by
  have hgo : (x.standby || !x.active || x.alone || s.xslots.any (fun o => o.2.standby && !(o.2.xid != x.xid || !s.dieUp (16 + o.1 / 16)))) = false := by
    have hnone : s.xslots.any (fun o => o.2.standby && !(o.2.xid != x.xid || !s.dieUp (16 + o.1 / 16))) = false := by
      refine List.any_eq_false.2 fun y hy => ?_
      simp only [Bool.and_eq_true, Bool.not_eq_true', Bool.or_eq_false_iff, bne_eq_false_iff_eq, not_and]
      intro hstandby hid
      rw [hlost y hy hid hstandby]
      decide
    rw [hnone, hsb, hact, halone]
    rfl
  have hexec : exec .arbiterLost s = .next ((s.setX (xKey s.site.rim s.site.n) { x with alone := true }).bbox (16 + xKey s.site.rim s.site.n / 16)
      (bbEvent s.cycle 0x0B 2 0 0 (xKey s.site.rim s.site.n % 16) 3 (BitVec.ofNat 64 x.xid) 0)) := by
    change execArbiterLost s = _
    simp only [execArbiterLost, State.find?_of_xAtKey hslot, hone, hgo, Bool.false_eq_true, if_false]
  exact ⟨_, hexec, rfl, rfl, State.xAtKey_setX ..⟩

/-- With both arbiters lost every member here hears of it (status 3). -/
theorem arbiterLost_both (hboth : s.site.yes = true) (hlost : ∀ y ∈ s.xslots, y.2.xid = x.xid → s.dieUp (16 + y.1 / 16) = false) (hhome : ∀ p ∈ x.posts, p.home = s.pkgId) :
    Goes .arbiterLost s (fun u => u.mem = s.mem ∧ (∀ y ∈ u.xslots, y.2.xid ≠ x.xid) ∧ u.xmsgs = s.xmsgs ++ noticesOf x.xid x.posts 3) := by
  have hall : s.xslots.all (fun o => o.2.xid != x.xid || !s.dieUp (16 + o.1 / 16)) = true := by
    refine List.all_eq_true.2 fun y hy => ?_
    by_cases hid : y.2.xid = x.xid
    · simp [hlost y hy hid]
    · simp [hid]
  have hfold (ps : List Sys2Proof.Post) (hps : ∀ p ∈ ps, p.home = s.pkgId) (t : State) (ht : t.pkgId = s.pkgId) :
      ps.foldl (fun s p => if p.home = s.pkgId then s.sendOne (.finish x.xid p.member 3) else { s with netOut := s.netOut ++ [.exchange p.home (.finish x.xid p.member 3)] }) t =
        { t with xmsgs := t.xmsgs ++ noticesOf x.xid ps 3 } := by
    induction ps generalizing t with
    | nil => simp [noticesOf]
    | cons p ps ih =>
      rw [List.foldl_cons, if_pos ((hps p (by simp)).trans ht.symm), ih (fun q hq => hps q (List.mem_cons_of_mem _ hq)) (t.sendOne (.finish x.xid p.member 3)) ht]
      simp [State.sendOne, noticesOf]
  have hexec : exec .arbiterLost s = .next { s with xslots := s.xslots.filter (fun o => o.2.xid != x.xid), xmsgs := s.xmsgs ++ noticesOf x.xid x.posts 3 } := by
    change execArbiterLost s = _
    simp only [execArbiterLost, State.find?_of_xAtKey hslot, hboth, hall, Bool.not_true, Bool.false_eq_true, if_false, if_true]
    exact congrArg Host.Outcome.next (hfold x.posts hhome { s with xslots := s.xslots.filter (fun o => o.2.xid != x.xid) } rfl)
  exact ⟨_, hexec, rfl, fun y hy => by simpa using (List.mem_filter.1 hy).2, rfl⟩

end

end Sys2Proof.Machine

namespace Sys2Proof.Machine

set_option Elab.async false

/-! ### The members of an exchange (R210) -/

/-- Whether a member is the one of an index that is not complete. -/
def Member.isAt (xid i : Nat) (m : Member) : Bool := m.post.xid == xid && m.post.member == i && !m.done

theorem State.isAt_of_member? {s : State} {xid i : Nat} {m : Member} (h : s.member? xid i = some m) : m.isAt xid i = true := List.find?_some h

/-- A member that is changed, its place in the exchange kept. -/
theorem State.member?_modMember {s : State} {xid i : Nat} {m : Member} (h : s.member? xid i = some m) {f : Member → Member} (hpost : (f m).post = m.post)
    (hdone : (f m).done = m.done) : (s.modMember xid i f).member? xid i = some (f m) :=
  find?_modFirst h (by rw [hpost, hdone]; exact State.isAt_of_member? h)

/-- What is found by a test that no element of the first one's passes, before or after its change. -/
theorem find?_modFirst_of_not {α : Type} {p q : α → Bool} {f : α → α} (h : ∀ a, p a = true → q a = false ∧ q (f a) = false) (l : List α) :
    (modFirst p f l).find? q = l.find? q := by
  induction l with
  | nil => rfl
  | cons a l ih =>
    unfold modFirst
    split
    · rename_i hp
      obtain ⟨hq, hqf⟩ := h a hp
      rw [List.find?_cons_of_neg (ne_true_of_eq_false hqf), List.find?_cons_of_neg (ne_true_of_eq_false hq)]
    · rw [List.find?_cons, List.find?_cons, ih]

/-- A member of another index is as it was. -/
theorem State.member?_modMember_other {xid i j : Nat} (hij : i ≠ j) {f : Member → Member} (hpost : ∀ m, (f m).post = m.post) (s : State) :
    (s.modMember xid i f).member? xid j = s.member? xid j := by
  refine find?_modFirst_of_not (fun m hm => ?_) s.members
  simp only [Bool.and_eq_true, beq_iff_eq] at hm
  simp [hpost, hm.1.2, hij]

/-! ### Takeovers heard of (R223, R426) -/

theorem State.corrected_launch {s : State} {key cost : Nat} {l y : Launch} (h : s.launch? key = some l) (hy : (s.corrected key cost).launch? key = some y) :
    y.corrected = min (l.corrected + 1) 0xFFFF := by
  have hmod := State.launch?_modLaunch (f := fun l => { l with corrected := min (l.corrected + 1) 0xFFFF, cost := min (l.cost + cost) (2 ^ 48 - 1) }) h rfl
  rw [State.corrected, hmod] at hy
  rw [← Option.some.inj hy]

/-- A member hears that the standby has taken over; the first of its launch counts it. -/
theorem takeoverNotice_member {s : State} {xid i cost : Nat} {rim : Option Nat} (hx : s.theX = some (.takeover xid (some i) rim cost)) {m : Member}
    (hm : s.member? xid i = some m) : Goes .takeoverNotice s (fun u => u.mem = s.mem ∧ u.xmsgs = s.xRest ∧ u.member? xid i = some { m with epoch := 1, failover := true } ∧
      ∀ l, s.launch? m.launch = some l → ∀ y, u.launch? m.launch = some y → y.corrected =
        (if ∃ o ∈ s.members, o.post.xid = xid ∧ o.launch = m.launch ∧ o.failover = true then l.corrected else min (l.corrected + 1) 0xFFFF)) := by
  have hm' : s.dropX.member? xid i = some m := by rw [State.dropX_eq]; exact hm
  have hmember := State.member?_modMember (f := fun m => { m with epoch := 1, failover := true }) hm' rfl rfl
  have hlaunch : (s.dropX.modMember xid i (fun m => { m with epoch := 1, failover := true })).launch? m.launch = s.launch? m.launch := by rw [State.dropX_eq]; rfl
  have hmem : s.dropX.mem = s.mem := by rw [State.dropX_eq]
  have hiff : (s.members.any (fun o => o.post.xid == xid && o.launch == m.launch && o.failover)) = true ↔
      ∃ o ∈ s.members, o.post.xid = xid ∧ o.launch = m.launch ∧ o.failover = true := by
    simp [and_assoc]
  have hexec : exec .takeoverNotice s = .next (if s.members.any (fun o => o.post.xid == xid && o.launch == m.launch && o.failover) then
      s.dropX.modMember xid i (fun m => { m with epoch := 1, failover := true })
      else (s.dropX.modMember xid i (fun m => { m with epoch := 1, failover := true })).corrected m.launch cost) := by
    change execTakeoverNotice s = _
    simp only [execTakeoverNotice, hx, hm]
  by_cases hheard : ∃ o ∈ s.members, o.post.xid = xid ∧ o.launch = m.launch ∧ o.failover = true
  · rw [if_pos (hiff.2 hheard)] at hexec
    refine ⟨_, hexec, hmem, s.dropX_xmsgs, hmember, fun l hl y hy => ?_⟩
    rw [if_pos hheard, ← Option.some.inj (hl.symm.trans (hlaunch.symm.trans hy))]
  · rw [if_neg (mt hiff.1 hheard)] at hexec
    refine ⟨_, hexec, hmem, s.dropX_xmsgs, hmember, fun l hl y hy => ?_⟩
    rw [if_neg hheard]
    exact State.corrected_launch (hlaunch.trans hl) hy

/-- The old primary hears of it and is no longer active. -/
theorem takeoverNotice_primary {s : State} {xid cost : Nat} {rim : Option Nat} (hx : s.theX = some (.takeover xid none rim cost)) :
    Goes .takeoverNotice s (fun u => u.mem = s.mem ∧ u.xmsgs = s.xRest ∧ ∀ x ∈ u.xslots, x.2.xid = xid → x.2.standby = false → x.2.active = false) := by
  have hexec : exec .takeoverNotice s = .next { s.dropX with xslots := s.dropX.xslots.map (fun (x : Nat × XSlot) =>
      if x.2.xid = xid && !x.2.standby then (x.1, { x.2 with active := false }) else x) } := by
    change execTakeoverNotice s = _
    simp only [execTakeoverNotice, hx]
  refine ⟨_, hexec, by rw [State.dropX_eq], s.dropX_xmsgs, fun x hxm hid hsb => ?_⟩
  obtain ⟨y, -, rfl⟩ := List.mem_map.1 hxm
  by_cases hy : (decide (y.2.xid = xid) && !y.2.standby) = true
  · rw [if_pos hy]
  · rw [if_neg hy] at hid hsb
    simp [hid, hsb] at hy

end Sys2Proof.Machine

namespace Sys2Proof.Machine

set_option Elab.async false

/-! ### What a translation leaves as it was (R165) -/

/-- A state with its cached translations and walks replaced. -/
def State.withTables (s x : State) : State := { s with cells := x.cells, walks := x.walks, dieTlb := x.dieTlb, walkNow := x.walkNow }

/-- Nothing but cached translations and walks has changed. -/
def State.TablesOnly (s u : State) : Prop := u = s.withTables u

theorem State.TablesOnly.trans {s u v : State} (h : s.TablesOnly u) (h' : u.TablesOnly v) : s.TablesOnly v := by
  rw [State.TablesOnly, h', h]; rfl

theorem State.modCell_tablesOnly (s : State) (k : Nat) (f : Cell → Cell) : s.TablesOnly (s.modCell k f) := rfl

theorem State.cacheWalk_tablesOnly (s : State) (n : Word) (m : NatMap (List TlbEntry)) : s.TablesOnly { s with walks := n, dieTlb := m } := rfl

theorem State.WalksOnly.tablesOnly {s u : State} (h : s.WalksOnly u) : s.TablesOnly u := by
  obtain ⟨n, l, rfl⟩ := h
  rfl

theorem State.page_tablesOnly {s u : State} {k va : Nat} {e : TlbEntry} (h : s.page k va = .ok (e, u)) : s.TablesOnly u := by
  by_cases hk : 1024 ≤ k
  · exact (State.page_walks hk h).tablesOnly
  · unfold State.page at h
    rw [if_neg hk] at h
    split at h
    · simp only [Except.ok.injEq, Prod.mk.injEq] at h
      exact h.2 ▸ rfl
    · extract_lets die at h
      split at h
      · simp only [Except.ok.injEq, Prod.mk.injEq] at h
        exact h.2 ▸ s.modCell_tablesOnly ..
      · split at h
        · cases h
        · split at h
          · cases h
          · simp only [Except.ok.injEq, Prod.mk.injEq] at h
            exact h.2 ▸ (s.cacheWalk_tablesOnly ..).trans (State.modCell_tablesOnly ..)

theorem State.translate_tablesOnly {s u : State} {k : Nat} {va : Word} {wr repl : Bool} {pa : Nat} (h : s.translate k va wr = .ok (pa, repl, u)) :
    s.TablesOnly u := by
  unfold State.translate at h
  dsimp only at h
  split at h
  · cases h
  · split at h
    · simp only [Except.ok.injEq, Prod.mk.injEq] at h
      exact h.2.2 ▸ rfl
    · split at h
      · cases h
      · rename_i hp
        split at h
        · cases h
        · simp only [Except.ok.injEq, Prod.mk.injEq] at h
          exact h.2.2 ▸ State.page_tablesOnly hp

/-- An address that an agent reaches: the physical address, and a state that only counts walks. -/
theorem State.translate_of_agentVa {s : State} {k pa : Nat} {va : Word} {wr : Bool} (h : s.agentVa k va wr = some pa) :
    ∃ u, s.translate k va wr = .ok (pa, false, u) ∧ s.WalksOnly u := by
  unfold State.agentVa at h
  split at h
  · rename_i u heq
    split at h
    · rename_i hu
      cases h
      exact ⟨u, heq, _, _, hu⟩
    · cases h
  · cases h

/-! ### Reads of an engine on other dies (R10, R17) -/

/-- A state with its reads of other dies replaced, what carries them, and its cached translations. -/
def State.withAsks (s x : State) : State :=
  { s with cells := x.cells, walks := x.walks, dieTlb := x.dieTlb, walkNow := x.walkNow, pairs := x.pairs, netNext := x.netNext, asks := x.asks }

/-- Some reads of other dies have been sent. -/
structure State.Asks (s u : State) : Prop where
  eq : u = s.withAsks u
  asks : s.asks <+: u.asks

theorem State.Asks.refl (s : State) : s.Asks s := ⟨rfl, List.prefix_refl _⟩

theorem State.Asks.trans {s u v : State} (h : s.Asks u) (h' : u.Asks v) : s.Asks v where
  eq := by rw [h'.eq, h.eq]; rfl
  asks := h.asks.trans h'.asks

/-- What no read takes part in is the same. -/
theorem State.Asks.same {α : Type} {s u : State} (h : s.Asks u) (f : State → α) (hf : ∀ x, f (s.withAsks x) = f s := by exact fun _ => rfl) :
    f u = f s := by rw [h.eq]; exact hf u

theorem State.ask_asks (s : State) (k : Nat) (user : Option Nat) (o : Owner) (idx pa n : Nat) (q : Option (Nat × SeqId)) : s.Asks (s.ask k user o idx pa n q) := by
  have hcarry := s.carry_eq k (homeDie pa) (carriedReq k pa user .none)
  unfold State.ask
  generalize s.carry k (homeDie pa) (carriedReq k pa user .none) = c at hcarry
  obtain ⟨num, t⟩ := c
  dsimp only at hcarry ⊢
  rw [hcarry]
  exact ⟨rfl, List.prefix_append _ _⟩

/-- The read that is sent. -/
theorem State.ask_last (s : State) (k : Nat) (user : Option Nat) (o : Owner) (idx pa n : Nat) (q : Option (Nat × SeqId)) :
    ((s.ask k user o idx pa n q).asks[s.asks.length]?).map (fun a => (a.owner, a.idx, a.pa, a.n)) = some (o, idx, pa, n) := by
  have hcarry := s.carry_eq k (homeDie pa) (carriedReq k pa user .none)
  have hasks : (s.carry k (homeDie pa) (carriedReq k pa user .none)).2.asks = s.asks := by rw [hcarry]; rfl
  unfold State.ask
  dsimp only
  rw [hasks, List.getElem?_concat_length]
  rfl

theorem State.sendAsk_asks (s : State) (k : Nat) (user : Option Nat) (o : Owner) (idx pa : Nat) (repl : Bool) (n : Nat) (q : Option (Nat × SeqId)) :
    s.Asks (s.sendAsk k user o idx pa repl n q) := by
  unfold State.sendAsk
  generalize (if repl then s.replica (k / 64) pa else pa) = a
  dsimp only
  split
  · exact .refl s
  · exact s.ask_asks ..

theorem State.sourceOf_asks {s u : State} {r : Reader} {perm pa : Nat} {repl : Bool} {p : Piece} (h : s.sourceOf r perm p = some (.ok (pa, repl, u))) : s.Asks u := by
  unfold State.sourceOf at h
  split at h
  · cases h
  · rename_i htrans
    split at h
    · cases h
    · simp only [Option.some.injEq, Except.ok.injEq, Prod.mk.injEq] at h
      have heq : u = s.withTables u := h.2.2 ▸ State.translate_tablesOnly htrans
      exact ⟨by rw [heq]; rfl, by rw [heq]; exact List.prefix_refl _⟩

theorem State.askPieces_asks (r : Reader) (perm : Nat) (ps : List Piece) (s : State) : s.Asks (State.askPieces r perm ps s) := by
  induction ps generalizing s with
  | nil => exact .refl s
  | cons p ps ih =>
    unfold State.askPieces
    split
    · exact ih s
    · split
      · exact ih s
      · exact .refl s
      · rename_i hsrc
        dsimp only
        split
        · exact ih s
        · exact ((State.sourceOf_asks hsrc).trans (State.sendAsk_asks ..)).trans (ih _)

/-- Without a permutation an address stands for itself (R285). -/
theorem permutePa_zero (pa : Nat) : permutePa 0 pa = pa := by
  have hlt : spOff pa < 2 ^ 22 := Nat.mod_lt _ (by decide)
  have hle : spOff pa ≤ pa := Nat.mod_le _ _
  have hoff : permute 0 (spOff pa) = spOff pa := by
    change spOff pa / 2 ^ 11 % 2 ^ 11 * 2 ^ 11 + spOff pa / 64 % 32 * 64 + spOff pa % 64 = spOff pa
    omega
  unfold permutePa
  rw [hoff, Nat.sub_add_cancel hle, ite_self]

/-- The source of a piece that an agent reaches, past every store of its sequencer (R177). -/
theorem State.sourceOf_of_agentVa {s : State} {r : Reader} {p : Piece} {a : Nat} (hva : s.agentVa (r.kOf p.src) p.src false = some a)
    (hclear : s.forkClear (r.kOf p.src) r.seq a p.n = true) : ∃ u, s.sourceOf r 0 p = some (.ok (a, false, u)) ∧ s.WalksOnly u := by
  obtain ⟨u, htrans, hu⟩ := State.translate_of_agentVa hva
  have hclear' : u.forkClear (r.kOf p.src) r.seq a p.n = true := (hu.same (fun t => t.forkClear (r.kOf p.src) r.seq a p.n)).trans hclear
  refine ⟨u, ?_, hu⟩
  unfold State.sourceOf
  rw [htrans]
  dsimp only
  rw [if_neg (by simp [hclear']), if_neg Bool.false_ne_true, permutePa_zero]

/-- The first piece of a stretch lies on another die: it is asked for. -/
theorem State.fetch_asks {s : State} {r : Reader} {p : Piece} {a : Nat} {ps : List Piece} (hnew : s.asked r.owner p.pos = false)
    (hva : s.agentVa (r.kOf p.src) p.src false = some a) (hclear : s.forkClear (r.kOf p.src) r.seq a p.n = true) (haway : homeDie a ≠ r.die) (t : Target) :
    ∃ u, s.fetch r 0 0 none t (p :: ps) = .sent u ∧ s.Asks u ∧ (u.asks[s.asks.length]?).map (fun q => (q.owner, q.idx, q.pa, q.n)) = some (r.owner, p.pos, a, p.n) := by
  obtain ⟨s1, hsrc, hwalks⟩ := State.sourceOf_of_agentVa hva hclear
  have hasks1 : s1.asks = s.asks := hwalks.same State.asks
  have hsend : s1.sendAsk (64 * r.die) r.user r.owner p.pos a false p.n none = s1.ask (64 * r.die) r.user r.owner p.pos a p.n none := by
    have hnew1 : s1.asked r.owner p.pos = false := (hwalks.same (fun t => t.asked r.owner p.pos)).trans hnew
    unfold State.sendAsk
    dsimp only
    rw [if_neg Bool.false_ne_true, if_neg]
    simpa [hnew1] using haway
  have hlast := s1.ask_last (64 * r.die) r.user r.owner p.pos a p.n none
  rw [hasks1] at hlast
  have hlong : (s1.ask (64 * r.die) r.user r.owner p.pos a p.n none).asks.length ≠ s1.asks.length := by
    intro heq
    rw [List.getElem?_eq_none (Nat.le_of_eq (heq.trans (congrArg List.length hasks1)))] at hlast
    cases hlast
  have hpieces : State.askPieces r 0 (p :: ps) s = State.askPieces r 0 ps (s1.ask (64 * r.die) r.user r.owner p.pos a p.n none) := by
    rw [State.askPieces, if_neg (ne_true_of_eq_false hnew), hsrc]
    dsimp only
    rw [hsend, if_neg hlong]
  have hrest := State.askPieces_asks r 0 ps (s1.ask (64 * r.die) r.user r.owner p.pos a p.n none)
  have hall : s.Asks (State.askPieces r 0 (p :: ps) s) := by
    rw [hpieces]
    exact ((State.sourceOf_asks hsrc).trans (s1.ask_asks ..)).trans hrest
  have hfound : ((State.askPieces r 0 (p :: ps) s).asks[s.asks.length]?).map (fun q => (q.owner, q.idx, q.pa, q.n)) = some (r.owner, p.pos, a, p.n) := by
    obtain ⟨q, hq, hvalue⟩ := Option.map_eq_some_iff.1 hlast
    obtain ⟨l, hl⟩ := hrest.asks
    rw [hpieces, ← hl, List.getElem?_append_left (List.getElem?_eq_some_iff.1 hq).1, hq]
    exact congrArg some hvalue
  have hmore : (State.askPieces r 0 (p :: ps) s).asks.length ≠ s.asks.length := by
    intro heq
    rw [List.getElem?_eq_none (Nat.le_of_eq heq)] at hfound
    cases hfound
  refine ⟨_, ?_, hall, hfound⟩
  unfold State.fetch
  dsimp only
  rw [if_neg (show ¬ (none : Option (Word × Nat)).isSome = true from Bool.false_ne_true), if_pos hmore]

/-- The answer to a read that has brought bytes. -/
theorem State.find?_of_gotFor {s : State} {o : Owner} {idx : Nat} {bs : List Byte} (h : s.gotFor o idx = some bs) :
    ∃ a, s.asks.find? (fun a => a.owner == o && a.idx == idx) = some a ∧ a.back = true ∧ a.ans = some (.ok bs) := by
  obtain ⟨a, hfind, hval⟩ := Option.bind_eq_some_iff.1 h
  split at hval
  · rename_i hback
    split at hval
    · rename_i hans
      exact ⟨a, hfind, hback, hans.trans (by rw [Option.some.inj hval])⟩
    · cases hval
  · cases hval

theorem State.asked_of_gotFor {s : State} {o : Owner} {idx : Nat} {bs : List Byte} (h : s.gotFor o idx = some bs) : s.asked o idx = true := by
  obtain ⟨a, hfind, -, -⟩ := State.find?_of_gotFor h
  exact List.any_eq_true.2 ⟨a, List.mem_of_find?_eq_some hfind, List.find?_some (p := fun a : Ask => a.owner == o && a.idx == idx) hfind⟩

theorem State.fetchPiece_of_gotFor {s : State} {r : Reader} {p : Piece} {bs : List Byte} (h : s.gotFor r.owner p.pos = some bs) (perm : Nat) :
    s.fetchPiece r perm p = some (s, .ok bs) := by
  obtain ⟨a, hfind, hback, hans⟩ := State.find?_of_gotFor h
  unfold State.fetchPiece
  rw [hfind]
  simp [hback, hans]

/-- The bytes of the answers, each with its place. -/
def State.movesOf (s : State) (o : Owner) (ps : List Piece) : Moves := ps.map (fun p => (p.pos, 0, (s.gotFor o p.pos).getD []))

theorem State.askPieces_of_got {s : State} {r : Reader} {ps : List Piece} (h : ∀ p ∈ ps, (s.gotFor r.owner p.pos).isSome = true) (perm : Nat) :
    State.askPieces r perm ps s = s := by
  induction ps with
  | nil => rfl
  | cons p ps ih =>
    obtain ⟨bs, hbs⟩ := Option.isSome_iff_exists.1 (h p (by simp))
    rw [State.askPieces, if_pos (State.asked_of_gotFor hbs)]
    exact ih fun q hq => h q (List.mem_cons_of_mem _ hq)

theorem State.movePieces_of_got {s : State} {r : Reader} {ps : List Piece} (h : ∀ p ∈ ps, (s.gotFor r.owner p.pos).isSome = true) (acc : Moves) :
    State.movePieces r 0 0 none .nowhere ps s acc = some (s, acc ++ s.movesOf r.owner ps, 0) := by
  induction ps generalizing acc with
  | nil => simp [State.movePieces, State.movesOf]
  | cons p ps ih =>
    obtain ⟨bs, hbs⟩ := Option.isSome_iff_exists.1 (h p (by simp))
    rw [State.movePieces]
    simp only [State.fetchPiece_of_gotFor hbs]
    rw [ih fun q hq => h q (List.mem_cons_of_mem _ hq)]
    simp [State.movesOf, hbs]

/-- Every answer is back: the stretch is read. -/
theorem State.fetch_of_gotAll {s : State} {r : Reader} {ps : List Piece} {bs : List Byte} (h : s.gotAll r.owner ps = some bs) :
    ∃ mv : Moves, s.fetch r 0 0 none .nowhere ps = .got (s.dropAsks r.owner) mv 0 ∧ mv.flatMap (fun x => x.2.2) = bs := by
  unfold State.gotAll at h
  split at h
  · rename_i hall
    have hall' := List.all_eq_true.1 hall
    refine ⟨s.movesOf r.owner ps, ?_, ?_⟩
    · unfold State.fetch
      dsimp only
      rw [if_neg (show ¬ (none : Option (Word × Nat)).isSome = true from Bool.false_ne_true), State.askPieces_of_got hall', if_neg (not_not.2 rfl),
        State.movePieces_of_got hall', List.nil_append]
    · rw [← Option.some.inj h, State.movesOf, List.flatMap_map]
  · cases h

/-- What an owner has read is given up. -/
theorem State.asked_dropAsks (s : State) (o : Owner) (idx : Nat) : (s.dropAsks o).asked o idx = false := by
  refine List.any_eq_false.2 fun a ha => ?_
  have hne := (List.mem_filter.1 ha).2
  simp only [bne_iff_ne, ne_eq] at hne
  simp [hne]

end Sys2Proof.Machine

namespace Sys2Proof.Machine

set_option Elab.async false

/-! ### A stretch read for a member (R17, R226) -/

/-- The first piece of a stretch starts where the stretch does. -/
theorem src_of_head_piecesOf {va : Word} {b : Side} {fuel stop : Nat} {p : Piece} (h : (piecesOf (.run va) b fuel 0 stop).head? = some p) : p.src = va := by
  cases fuel with
  | zero => cases h
  | succ fuel =>
    unfold piecesOf at h
    split at h
    · cases h
    · rw [← Option.some.inj h]
      simp

theorem State.memberFetch_asks {s : State} {m : Member} {o : Owner} {va : Word} {b : Side} {fuel stop a : Nat} {p : Piece}
    (hhead : (piecesOf (.run va) b fuel 0 stop).head? = some p) (h : s.asksAway m o p a) :
    ∃ u, s.memberFetch m o va (piecesOf (.run va) b fuel 0 stop) = .sent u ∧ s.Asks u ∧
      (u.asks[s.asks.length]?).map (fun q => (q.owner, q.idx, q.pa, q.n)) = some (o, p.pos, a, p.n) := by
  obtain ⟨hnew, ⟨k, hk, hva, hclear⟩, haway⟩ := h
  have hsrc := src_of_head_piecesOf hhead
  obtain ⟨ps, hps⟩ : ∃ ps, piecesOf (.run va) b fuel 0 stop = p :: ps := by
    cases hl : piecesOf (.run va) b fuel 0 stop with
    | nil => simp [hl] at hhead
    | cons q ps => exact ⟨ps, by rw [Option.some.inj ((congrArg List.head? hl).symm.trans hhead)]⟩
  obtain ⟨u, hu⟩ := State.fetch_asks (r := memberReader m k o) (ps := ps) hnew hva hclear haway .nowhere
  refine ⟨u, ?_, hu.2⟩
  rw [hsrc] at hk
  unfold State.memberFetch
  rw [hk, hps]
  exact hu.1

theorem State.memberFetch_of_gotAll {s : State} {m : Member} {o : Owner} {va : Word} {ps : List Piece} {bs : List Byte} (hk : (s.memberAgent m va).isSome = true)
    (h : s.gotAll o ps = some bs) : ∃ mv : Moves, s.memberFetch m o va ps = .got (s.dropAsks o) mv 0 ∧ mv.flatMap (fun x => x.2.2) = bs := by
  obtain ⟨k, hk⟩ := Option.isSome_iff_exists.1 hk
  unfold State.memberFetch
  rw [hk]
  exact State.fetch_of_gotAll (r := memberReader m k o) h

/-! ### SRCTAB (R211, R218) -/

/-- The words of a table. -/
def tableWords (n : Nat) (bs : List Byte) : List Nat := (List.range (2 * n)).map (fun j => ofLe ((bs.drop (8 * j)).take 8))

/-- The length of an entry of SRCTAB. -/
def alenOf (n : Nat) (bs : List Byte) (j : Nat) : Nat := (tableWords n bs).getD (2 * j + 1) 0 % 2 ^ 48

/-- The sources that SRCTAB gives. -/
def sourcesOf (n : Nat) (bs : List Byte) : List (Word × Nat) :=
  (List.range n).map (fun j => (BitVec.ofNat 64 ((tableWords n bs).getD (2 * j) 0 % 2 ^ 52), alenOf n bs j))

/-- What SRCTAB holds beyond what a row grants. -/
def ungrantedOf (n : Nat) (bs : List Byte) (row : List Grant) : Nat :=
  ((List.range n).map (fun j => alenOf n bs j - (row.filter (fun g => g.rcv == j)).foldl (fun a g => a + g.bytes) 0)).foldl (fun a b => a + b) 0

theorem ofNat_and_mask52 (x : Nat) : BitVec.ofNat 64 x &&& 0xFFFFFFFFFFFFF = BitVec.ofNat 64 (x % 2 ^ 52) := by
  apply BitVec.eq_of_toNat_eq
  have hmask : (0xFFFFFFFFFFFFF : Word).toNat = 2 ^ 52 - 1 := by decide
  rw [BitVec.toNat_and, hmask, Nat.and_two_pow_sub_one_eq_mod, BitVec.toNat_ofNat, BitVec.toNat_ofNat]
  omega

theorem bits_ofNat_48 (x : Nat) : bits (BitVec.ofNat 64 x) 47 0 = x % 2 ^ 48 := by
  change (x % 2 ^ 64) >>> 0 % 2 ^ 48 = x % 2 ^ 48
  rw [Nat.shiftRight_zero]
  omega

/-- The table as the engine reads it. -/
theorem sourcesOf_eq (n : Nat) (bs : List Byte) :
    (List.range n).map (fun j => ((((List.range (2 * n)).map (fun j => BitVec.ofNat 64 (ofLe ((bs.drop (8 * j)).take 8)))).getD (2 * j) 0) &&& (0xFFFFFFFFFFFFF : Word),
      bits (((List.range (2 * n)).map (fun j => BitVec.ofNat 64 (ofLe ((bs.drop (8 * j)).take 8)))).getD (2 * j + 1) 0) 47 0)) = sourcesOf n bs := by
  refine List.map_congr_left fun j hj => ?_
  have hword (i : Nat) (hi : i < 2 * n) : ((List.range (2 * n)).map (fun j => BitVec.ofNat 64 (ofLe ((bs.drop (8 * j)).take 8)))).getD i 0 =
      BitVec.ofNat 64 ((tableWords n bs).getD i 0) := by
    simp [tableWords, List.getD, hi]
  rw [List.mem_range] at hj
  rw [hword _ (by omega), hword _ (by omega), ofNat_and_mask52, bits_ofNat_48]
  rfl

theorem ungrantedOf_eq (n : Nat) (bs : List Byte) (row : List Grant) :
    ((sourcesOf n bs).zipIdx.map (fun x => x.1.2 - (row.filter (fun g => g.rcv == x.2)).foldl (fun a g => a + g.bytes) 0)).foldl (fun a b => a + b) 0 = ungrantedOf n bs row := by
  have hlist : (sourcesOf n bs).zipIdx.map (fun x => x.1.2 - (row.filter (fun g => g.rcv == x.2)).foldl (fun a g => a + g.bytes) 0) =
      (List.range n).map (fun j => alenOf n bs j - (row.filter (fun g => g.rcv == j)).foldl (fun a g => a + g.bytes) 0) := by
    refine List.ext_getElem (by simp [sourcesOf]) fun i h1 h2 => ?_
    simp [sourcesOf]
  rw [hlist]
  rfl

/-! ### Rows of the calendar (R217, R218) -/

/-- A member with its row and its sources. -/
def Member.withRow (m : Member) (bs : List Byte) (n : Nat) (granted : List Nat) (row : List Grant) (rowOffs : List Nat) : Member :=
  { m with granted := some granted, row := row, rowOffs := rowOffs, nphase := n, unsent := ungrantedOf m.post.nmem bs row,
           causes := m.causes ++ (if ungrantedOf m.post.nmem bs row = 0 then [] else [6]), sources := some (sourcesOf m.post.nmem bs) }

section
variable {s : State} {xid i n : Nat} {granted offs : List Nat} {row : List Grant} {rowOffs : List Nat} (hx : s.theX = some (.row xid i n granted offs row rowOffs))
  {m : Member} (hm : s.member? xid i = some m)
include hx hm

/-- A row that has come already is dropped. -/
theorem calendarRow_again (hsrc : m.sources.isSome = true) : Goes .calendarRow s (fun u => u.mem = s.mem ∧ u.xmsgs = s.xRest ∧ u.members = s.members) := by
  have hnone : (s.member? xid i).filter (fun m => m.sources.isNone) = none := by
    obtain ⟨src, hsrc⟩ := Option.isSome_iff_exists.1 hsrc
    simp [hm, Option.filter, hsrc]
  have hexec : exec .calendarRow s = .next s.dropX := by
    change execCalendarRow s = _
    simp only [execCalendarRow, hx, hnone]
  exact ⟨_, hexec, by rw [State.dropX_eq], s.dropX_xmsgs, by rw [State.dropX_eq]⟩

variable (hsrc : m.sources = none)
include hsrc

/-- SRCTAB is asked for at its home. -/
theorem calendarRow_asks {p : Piece} {a : Nat} (hhead : (piecesOf (.run m.srctab) (.run 0) (16 * m.post.nmem + 1) 0 (16 * m.post.nmem)).head? = some p)
    (haway : s.asksAway m (.table xid i) p a) : Goes .calendarRow s (fun u => u.mem = s.mem ∧ u.members = s.members ∧
      .row xid i n granted offs row rowOffs ∈ u.xmsgs ∧ (u.asks[s.asks.length]?).map (fun q => (q.owner, q.idx, q.pa, q.n)) = some (.table xid i, p.pos, a, p.n)) := by
  have hsome : (s.member? xid i).filter (fun m => m.sources.isNone) = some m := by simp [hm, Option.filter, hsrc]
  obtain ⟨u, hfetch, hasks, hlast⟩ := State.memberFetch_asks hhead haway
  have hexec : exec .calendarRow s = .next u.keepX := by
    change execCalendarRow s = _
    simp only [execCalendarRow, hx, hsome, hfetch]
  refine ⟨_, hexec, ?_, ?_, State.mem_keepX ((hasks.same State.theX).trans hx), ?_⟩
  · rw [State.keepX_eq]; exact hasks.same State.mem
  · rw [State.keepX_eq]; exact hasks.same State.members
  · rw [State.keepX_eq]; exact hlast

/-- With SRCTAB read the row is kept. -/
theorem calendarRow_kept (hk : (s.memberAgent m m.srctab).isSome = true) {bs : List Byte}
    (hbs : s.gotAll (.table xid i) (piecesOf (.run m.srctab) (.run 0) (16 * m.post.nmem + 1) 0 (16 * m.post.nmem)) = some bs) :
    Goes .calendarRow s (fun u => u.mem = s.mem ∧ u.xmsgs = s.xRest ∧ u.asked (.table xid i) 0 = false ∧ u.member? xid i = some (m.withRow bs n granted row rowOffs)) := by
  have hsome : (s.member? xid i).filter (fun m => m.sources.isNone) = some m := by simp [hm, Option.filter, hsrc]
  obtain ⟨mv, hfetch, hmv⟩ := State.memberFetch_of_gotAll hk hbs
  have hexec : exec .calendarRow s = .next ((s.dropAsks (.table xid i)).dropX.modMember xid i (fun o => { o with
      granted := some granted, row := row, rowOffs := rowOffs, sources := some (sourcesOf m.post.nmem bs), nphase := n, unsent := ungrantedOf m.post.nmem bs row,
      causes := o.causes ++ (if ungrantedOf m.post.nmem bs row = 0 then [] else [6]) })) := by
    change execCalendarRow s = _
    simp only [execCalendarRow, hx, hsome, hfetch, hmv, if_true, sourcesOf_eq, ungrantedOf_eq, List.append_nil]
  refine ⟨_, hexec, ?_, ?_, ?_, ?_⟩
  · rw [State.dropX_eq]; rfl
  · exact State.dropX_xmsgs (s.dropAsks (.table xid i))
  · rw [State.dropX_eq]; exact s.asked_dropAsks ..
  · refine State.member?_modMember (m := m) ?_ rfl rfl
    rw [State.dropX_eq]
    exact hm

end

end Sys2Proof.Machine

namespace Sys2Proof.Machine

set_option Elab.async false

/-! ### Runs of bytes and the words they are cut into (R168, R198) -/

/-- The bytes of runs, each with its address. -/
def runBytes (l : List (Nat × List Byte)) : List (Nat × Byte) := l.flatMap (fun r => r.2.zipIdx.map (fun b => (r.1 + b.2, b.1)))

/-- Two runs that follow each other are one. -/
theorem runBytes_joined (a : Nat) (bs cs : List Byte) (l : List (Nat × List Byte)) :
    runBytes ((a, bs ++ cs) :: l) = runBytes ((a, bs) :: (a + bs.length, cs) :: l) := by
  have hcs : cs.zipIdx bs.length = cs.zipIdx.map (fun b => (b.1, bs.length + b.2)) := by
    rw [List.zipIdx_eq_map_add]
  simp only [runBytes, List.flatMap_cons, List.zipIdx_append, Nat.zero_add, hcs, List.map_append, List.map_map, Function.comp_def, Nat.add_assoc, List.append_assoc]

/-- A run cut in two. -/
theorem runBytes_cut (pa n : Nat) (bs : List Byte) : runBytes [(pa, bs.take n), (pa + n, bs.drop n)] = runBytes [(pa, bs)] := by
  by_cases hn : n ≤ bs.length
  · have hjoin := runBytes_joined pa (bs.take n) (bs.drop n) []
    rw [List.take_append_drop, List.length_take_of_le hn] at hjoin
    exact hjoin.symm
  · rw [List.take_of_length_le (by omega), List.drop_of_length_le (by omega)]
    simp [runBytes]

theorem runBytes_joinRuns (l : List (Nat × List Byte)) : runBytes (joinRuns l) = runBytes l := by
  induction l with
  | nil => rfl
  | cons r l ih =>
    obtain ⟨a, bs⟩ := r
    have hcons : runBytes ((a, bs) :: l) = runBytes ((a, bs) :: joinRuns l) := congrArg (_ ++ ·) ih.symm
    rw [hcons, joinRuns]
    split
    · rename_i b cs rest heq
      rw [heq]
      split
      · rename_i hb
        rw [hb, runBytes_joined]
      · rfl
    · rename_i heq
      rw [heq]

theorem runBytes_splitWords {fuel : Nat} {bs : List Byte} (h : bs.length < fuel) (pa : Nat) : runBytes (splitWords fuel pa bs) = runBytes [(pa, bs)] := by
  induction fuel generalizing pa bs with
  | zero => omega
  | succ fuel ih =>
    cases bs with
    | nil => rfl
    | cons b bs =>
      have hrest := ih (bs := (b :: bs).drop (64 - pa % 64)) (by simp only [List.length_drop, List.length_cons] at h ⊢; omega) (pa + (64 - pa % 64))
      rw [← runBytes_cut pa (64 - pa % 64), splitWords]
      exact congrArg (_ ++ ·) hrest

/-- Every piece lies in one word. -/
theorem splitWords_fits {fuel pa : Nat} {bs : List Byte} : ∀ p ∈ splitWords fuel pa bs, p.2 ≠ [] ∧ p.1 % 64 + p.2.length ≤ 64 := by
  induction fuel generalizing pa bs with
  | zero => simp [splitWords]
  | succ fuel ih =>
    cases bs with
    | nil => simp [splitWords]
    | cons b bs =>
      intro p hp
      rw [splitWords] at hp
      rcases List.mem_cons.1 hp with rfl | hp
      · refine ⟨fun hnil => ?_, ?_⟩
        · have hlen := congrArg List.length hnil
          simp only [List.length_take, List.length_cons, List.length_nil] at hlen
          omega
        · have hlen : ((b :: bs).take (64 - pa % 64)).length ≤ 64 - pa % 64 := List.length_take_le _ _
          dsimp only
          omega
      · exact ih p hp

/-- The words that runs are sent in. -/
def sentWords (l : List (Nat × List Byte)) : List (Nat × List Byte) := (joinRuns l).flatMap (fun p => splitWords (p.2.length + 1) p.1 p.2)

theorem runBytes_sentWords (l : List (Nat × List Byte)) : runBytes (sentWords l) = runBytes l := by
  rw [← runBytes_joinRuns l, sentWords]
  generalize joinRuns l = rs
  induction rs with
  | nil => rfl
  | cons r rs ih =>
    have hhead := runBytes_splitWords (Nat.lt_succ_self r.2.length) r.1
    rw [List.flatMap_cons]
    simp only [runBytes, List.flatMap_append, List.flatMap_cons, List.flatMap_nil, List.append_nil] at hhead ih ⊢
    rw [hhead, ih]

end Sys2Proof.Machine

namespace Sys2Proof.Machine

set_option Elab.async false

/-- A state with its messages, reads and writes on their way replaced, what carries them, its members and its walks. -/
def State.withTraffic (s x : State) : State :=
  { s with walks := x.walks, walkNow := x.walkNow, pairs := x.pairs, netNext := x.netNext, inWrites := x.inWrites, asks := x.asks, xmsgs := x.xmsgs, members := x.members }

/-! ### Walks and the pages they find (R162, R165) -/

theorem pageBits_mono {m n : Nat} (h : m ≤ n) (hn : n ≤ 3) : pageBits m ≤ pageBits n := by
  interval_cases n <;> interval_cases m <;> decide

theorem pageIndex_eq (level : Nat) : ∃ c, ∀ va, pageIndex level va = va / 2 ^ pageBits level % c :=
  match level with
  | 3 => ⟨2 ^ 17, fun _ => rfl⟩
  | 2 => ⟨32, fun _ => rfl⟩
  | 1 => ⟨512, fun _ => rfl⟩
  | 0 => ⟨32, fun _ => rfl⟩
  | _ + 4 => ⟨32, fun _ => rfl⟩

/-- Addresses of one page take the same way through a table of its level or above. -/
theorem pageIndex_congr {level b va va' : Nat} (hb : b ≤ pageBits level) (h : va / 2 ^ b = va' / 2 ^ b) : pageIndex level va = pageIndex level va' := by
  have hdiv : va / 2 ^ pageBits level = va' / 2 ^ pageBits level := by
    rw [← Nat.sub_add_cancel hb, Nat.add_comm, Nat.pow_add, ← Nat.div_div_eq_div_mul, ← Nat.div_div_eq_div_mul, h]
  obtain ⟨c, hc⟩ := pageIndex_eq level
  rw [hc, hc, hdiv]

/-- The page that a walk finds. -/
theorem State.walk_page {s : State} {va n table : Nat} {e : TlbEntry} (h : s.walk va n table = .ok e) (hn : n ≤ 4) :
    e.bits ≤ pageBits (n - 1) ∧ e.va = va / 2 ^ e.bits * 2 ^ e.bits := by
  induction n generalizing table with
  | zero => cases h
  | succ level ih =>
    rw [State.walk] at h
    split at h
    · cases h
    · dsimp only at h
      split at h
      · cases h
      · split at h
        · cases h
        · split at h
          · split at h
            · cases h
              exact ⟨Nat.le_refl _, rfl⟩
            · cases h
          · obtain ⟨hbits, hva⟩ := ih h (by omega)
            exact ⟨hbits.trans (pageBits_mono (by omega) (by omega)), hva⟩

/-- A walk for another address of the page finds it too. -/
theorem State.walk_congr {s : State} {va va' n table : Nat} {e : TlbEntry} (h : s.walk va n table = .ok e) (hn : n ≤ 4) (hpage : va / 2 ^ e.bits = va' / 2 ^ e.bits) :
    s.walk va' n table = .ok e := by
  induction n generalizing table with
  | zero => cases h
  | succ level ih =>
    have hindex : pageIndex level va = pageIndex level va' := pageIndex_congr (State.walk_page h hn).1 hpage
    rw [State.walk] at h ⊢
    dsimp only at h ⊢
    rw [← hindex]
    split at h
    · cases h
    · rename_i htable
      rw [if_neg htable]
      split at h
      · cases h
      · rename_i hread
        rw [if_neg hread]
        split at h
        · cases h
        · rename_i hvalid
          rw [if_neg hvalid]
          split at h
          · rename_i hleaf
            rw [if_pos hleaf]
            split at h
            · rename_i hok
              cases h
              rw [if_pos hok, hpage]
            · cases h
          · rename_i hleaf
            rw [if_neg hleaf]
            exact ih h (by omega)

theorem State.walk_of_hits {s : State} {va va' n table : Nat} {e : TlbEntry} (h : s.walk va n table = .ok e) (hn : n ≤ 4) (hits : e.hits va' = true) :
    s.walk va' n table = .ok e := by
  refine State.walk_congr h hn ?_
  have hva := (State.walk_page h hn).2
  have hva' : va' / 2 ^ e.bits * 2 ^ e.bits = e.va := of_decide_eq_true hits
  exact Nat.eq_of_mul_eq_mul_right (Nat.two_pow_pos e.bits) (hva.symm.trans hva'.symm)

/-- Neither what is on its way nor the walks of this cycle take part in a walk. -/
theorem State.walk_withTraffic (s x : State) (va n table : Nat) : (s.withTraffic x).walk va n table = s.walk va n table := by
  induction n generalizing table with
  | zero => rfl
  | succ level ih =>
    rw [State.walk, State.walk]
    simp only [ih]
    rfl

/-! ### Translations that no access of an engine changes (R165) -/

/-- Where an address lands for an agent. -/
def State.xlated (s : State) (k : Nat) (va : Word) (wr : Bool) : Except XErr (Nat × Bool) := (s.translate k va wr).map (fun r => (r.1, r.2.1))

/-- The page that an agent finds. -/
def State.paged (s : State) (k va : Nat) : Except XErr TlbEntry := (s.page k va).map (fun r => r.1)

theorem State.xlated_eq (s : State) (k : Nat) (va : Word) (wr : Bool) : s.xlated k va wr =
    if 2 ^ 52 ≤ va.toNat then .error .fault else if localBase ≤ va.toNat then .ok (spAddr k (va.toNat - localBase), false) else
      (s.paged k va.toNat).bind (fun e => if (wr && !e.w) || !s.leafUp e then .error .fault else .ok (e.pa + va.toNat % 2 ^ e.bits, e.repl)) := by
  unfold State.xlated State.translate State.paged
  dsimp only
  split
  · rfl
  · split
    · rfl
    · cases s.page k va.toNat with
      | error x => rfl
      | ok r =>
        dsimp only [Except.map, Except.bind]
        cases (wr && !r.1.w || !s.leafUp r.1) <;> rfl

theorem State.translate_of_xlated {s : State} {k pa : Nat} {va : Word} {wr repl : Bool} (h : s.xlated k va wr = .ok (pa, repl)) :
    ∃ u, s.translate k va wr = .ok (pa, repl, u) := by
  unfold State.xlated at h
  cases htrans : s.translate k va wr with
  | error x => rw [htrans] at h; cases h
  | ok r =>
    obtain ⟨a, b, u⟩ := r
    rw [htrans] at h
    cases h
    exact ⟨u, rfl⟩

theorem State.xlated_of_agentVa {s : State} {k pa : Nat} {va : Word} {wr : Bool} (h : s.agentVa k va wr = some pa) : s.xlated k va wr = .ok (pa, false) := by
  obtain ⟨u, htrans, -⟩ := State.translate_of_agentVa h
  rw [State.xlated, htrans]
  rfl

/-- Every address lands where it did, for the agents without a TLB, and in the local window. -/
def State.SameXlate (s u : State) : Prop := ∀ k va wr, (1024 ≤ k ∨ localBase ≤ va.toNat) → u.xlated k va wr = s.xlated k va wr

theorem State.SameXlate.refl (s : State) : s.SameXlate s := fun _ _ _ _ => rfl

theorem State.SameXlate.trans {s u v : State} (h : s.SameXlate u) (h' : u.SameXlate v) : s.SameXlate v := fun k va wr hk => (h' k va wr hk).trans (h k va wr hk)

/-- What translations of agents without a TLB depend on. -/
theorem State.SameXlate.of_paged {s u : State} (hpaged : ∀ k va, 1024 ≤ k → u.paged k va = s.paged k va) (hleaf : ∀ e, u.leafUp e = s.leafUp e) : s.SameXlate u := by
  intro k va wr hk
  rw [State.xlated_eq, State.xlated_eq]
  split
  · rfl
  · split
    · rfl
    · rename_i hlocal
      rw [hpaged k va.toNat (hk.resolve_right hlocal)]
      simp only [hleaf]

/-- The walk of this cycle that an agent on a rim die shares. -/
def State.sharedWalk (s : State) (k va : Nat) : Option (Nat × Nat × TlbEntry) := s.walkNow.find? (fun w => w.1 == k / 64 && w.2.1 == s.cycle && w.2.2.hits va)

/-- The page of an agent on a rim die: that of a walk of this cycle, or of its own. -/
theorem State.paged_of_rim {k : Nat} (hk : 1024 ≤ k) (s : State) (va : Nat) : s.paged k va =
    (s.sharedWalk k va).elim (if !s.xlV then .error .fault else s.walk va 4 (s.xlRoot.toNat * 2 ^ 20)) (fun w => .ok w.2.2) := by
  unfold State.paged State.page State.sharedWalk
  rw [if_pos hk]
  cases s.walkNow.find? (fun w => w.1 == k / 64 && w.2.1 == s.cycle && w.2.2.hits va) with
  | some w => rfl
  | none =>
    dsimp only
    split
    · rfl
    · cases s.walk va 4 (s.xlRoot.toNat * 2 ^ 20) <;> rfl

/-- What is on its way takes no part in it. -/
theorem State.SameXlate.of_traffic {s u : State} (h : u = s.withTraffic u) (hwalks : u.walkNow = s.walkNow) : s.SameXlate u := by
  refine .of_paged (fun k va hk => ?_) fun e => by rw [h]; rfl
  have hshared : (s.withTraffic u).sharedWalk k va = s.sharedWalk k va := congrArg (List.find? _) hwalks
  rw [h, State.paged_of_rim hk, State.paged_of_rim hk, State.walk_withTraffic, hshared]
  rfl

/-- A walk is shared in its cycle. -/
def State.shareWalk (s : State) (c : Word) (die : Nat) (e : TlbEntry) : State :=
  s.withWalks c (s.walkNow.filter (fun w => w.2.1 == s.cycle) ++ [(die, s.cycle, e)])

theorem State.sharedWalk_shareWalk (s : State) (c : Word) (die : Nat) (e : TlbEntry) (k va : Nat) :
    (s.shareWalk c die e).sharedWalk k va = (s.sharedWalk k va).or (if die == k / 64 && e.hits va then some (die, s.cycle, e) else none) := by
  have hold : (s.walkNow.filter (fun w => w.2.1 == s.cycle)).find? (fun w => w.1 == k / 64 && w.2.1 == s.cycle && w.2.2.hits va) = s.sharedWalk k va := by
    rw [List.find?_filter]
    refine congrArg (fun p => List.find? p s.walkNow) (funext fun w => ?_)
    cases w.2.1 == s.cycle <;> simp [beq_eq_decide]
  have hnew : [(die, s.cycle, e)].find? (fun w => w.1 == k / 64 && w.2.1 == s.cycle && w.2.2.hits va) =
      if die == k / 64 && e.hits va then some (die, s.cycle, e) else none := by
    rw [List.find?_singleton, beq_self_eq_true, Bool.and_true]
  change (s.walkNow.filter (fun w => w.2.1 == s.cycle) ++ [(die, s.cycle, e)]).find? _ = _
  rw [List.find?_append, ← hold, ← hnew]
  rfl

/-- It finds the page that a walk of one's own would find. -/
theorem State.paged_shareWalk {s : State} {va : Nat} {e : TlbEntry} (hv : s.xlV = true) (hwalk : s.walk va 4 (s.xlRoot.toNat * 2 ^ 20) = .ok e) (c : Word) (die : Nat)
    {k' : Nat} (hk : 1024 ≤ k') (va' : Nat) : (s.shareWalk c die e).paged k' va' = s.paged k' va' := by
  rw [State.paged_of_rim hk, State.paged_of_rim hk, State.sharedWalk_shareWalk]
  have hroot : (s.shareWalk c die e).walk va' 4 ((s.shareWalk c die e).xlRoot.toNat * 2 ^ 20) = s.walk va' 4 (s.xlRoot.toNat * 2 ^ 20) := s.walk_withTraffic (s.shareWalk c die e) ..
  rw [hroot]
  cases s.sharedWalk k' va' with
  | some w => rfl
  | none =>
    rw [Option.none_or]
    split
    · rename_i hhit
      rw [Bool.and_eq_true] at hhit
      rw [State.walk_of_hits hwalk (Nat.le_refl 4) hhit.2, hv]
      rfl
    · rfl

theorem State.page_sameXlate {s u : State} {k va : Nat} {e : TlbEntry} (hk : 1024 ≤ k) (h : s.page k va = .ok (e, u)) : s.SameXlate u := by
  unfold State.page at h
  rw [if_pos hk] at h
  split at h
  · cases h
    exact .refl s
  · split at h
    · cases h
    · rename_i hv
      split at h
      · cases h
      · rename_i hwalk
        cases h
        exact .of_paged (fun k' va' hk' => State.paged_shareWalk (by simpa using hv) hwalk _ _ hk' va') fun _ => rfl

/-- Addresses have been looked up, and land where they did. -/
structure State.Looks (s u : State) : Prop where
  walks : s.WalksOnly u
  xlate : s.SameXlate u

theorem State.Looks.refl (s : State) : s.Looks s := ⟨.refl s, .refl s⟩

theorem State.Looks.trans {s u v : State} (h : s.Looks u) (h' : u.Looks v) : s.Looks v := ⟨h.walks.trans h'.walks, h.xlate.trans h'.xlate⟩

/-- A translation changes where no address lands. -/
theorem State.translate_looks {s u : State} {k pa : Nat} {va : Word} {wr repl : Bool} (hk : 1024 ≤ k ∨ localBase ≤ va.toNat) (h : s.translate k va wr = .ok (pa, repl, u)) :
    s.Looks u := by
  unfold State.translate at h
  dsimp only at h
  split at h
  · cases h
  · split at h
    · simp only [Except.ok.injEq, Prod.mk.injEq] at h
      exact h.2.2 ▸ .refl s
    · rename_i hlocal
      split at h
      · cases h
      · rename_i hp
        split at h
        · cases h
        · simp only [Except.ok.injEq, Prod.mk.injEq] at h
          have hrim := hk.resolve_right hlocal
          exact h.2.2 ▸ ⟨State.page_walks hrim hp, State.page_sameXlate hrim hp⟩

theorem State.agentVa_of_xlated {s : State} {k pa : Nat} {va : Word} {wr : Bool} (hk : 1024 ≤ k ∨ localBase ≤ va.toNat) (h : s.xlated k va wr = .ok (pa, false)) :
    s.agentVa k va wr = some pa := by
  obtain ⟨u, htrans⟩ := State.translate_of_xlated h
  obtain ⟨⟨n, l, rfl⟩, -⟩ := State.translate_looks hk htrans
  unfold State.agentVa
  rw [htrans]
  exact if_pos rfl

end Sys2Proof.Machine

namespace Sys2Proof.Machine

set_option Elab.async false

/-! ### Bytes that an engine puts on their way (R17, R165) -/

/-- A state with its writes on their way replaced, what carries them, and its walks. -/
def State.withPuts (s x : State) : State :=
  { s with walks := x.walks, walkNow := x.walkNow, pairs := x.pairs, netNext := x.netNext, inWrites := x.inWrites }

/-- The bytes of some runs have been put on their way for an owner, their addresses translated, and nothing else has changed. -/
structure State.Puts (s : State) (o : Owner) (l : List (Nat × List Byte)) (u : State) : Prop where
  eq : u = s.withPuts u
  writes : ∃ ws : List InWrite, u.writes = s.writes ++ ws ∧ bytesOf ws = runBytes l ∧ ∀ w ∈ ws, w.owner = o ∧ w.bytes ≠ [] ∧ w.pa % 64 + w.bytes.length ≤ 64
  xlate : s.SameXlate u

theorem State.Puts.refl (s : State) (o : Owner) : s.Puts o [] s := ⟨rfl, ⟨[], by simp, rfl, by simp⟩, .refl s⟩

theorem State.Puts.trans {s u v : State} {o : Owner} {l l' : List (Nat × List Byte)} (h : s.Puts o l u) (h' : u.Puts o l' v) : s.Puts o (l ++ l') v where
  eq := by rw [h'.eq, h.eq]; rfl
  writes := by
    obtain ⟨ws, hu, hbytes, hfit⟩ := h.writes
    obtain ⟨ws', hv, hbytes', hfit'⟩ := h'.writes
    refine ⟨ws ++ ws', by rw [hv, hu, List.append_assoc], ?_, fun w hw => (List.mem_append.1 hw).elim (hfit w) (hfit' w)⟩
    have happ : bytesOf (ws ++ ws') = bytesOf ws ++ bytesOf ws' := List.flatMap_append
    rw [happ, hbytes, hbytes']
    exact List.flatMap_append.symm
  xlate := h.xlate.trans h'.xlate

/-- Looking addresses up puts nothing on its way. -/
theorem State.Looks.puts {s u : State} (h : s.Looks u) (o : Owner) : s.Puts o [] u := by
  obtain ⟨⟨n, l, rfl⟩, hxlate⟩ := h
  exact ⟨rfl, ⟨[], by simp [State.writes, State.withWalks], rfl, by simp⟩, hxlate⟩

/-- What no write and no walk takes part in is the same. -/
theorem State.Puts.same {α : Type} {s u : State} {o : Owner} {l : List (Nat × List Byte)} (h : s.Puts o l u) (f : State → α)
    (hf : ∀ x, f (s.withPuts x) = f s := by exact fun _ => rfl) : f u = f s := by rw [h.eq]; exact hf u

/-- The bytes are those that the step has sent. -/
theorem State.Puts.sent {s t u : State} {o : Owner} {l : List (Nat × List Byte)} {ws : List InWrite} (h : t.Puts o l u) (hwrites : t.inWrites = s.inWrites)
    (hbytes : bytesOf ws = runBytes l) : Sent o ws s u := by
  obtain ⟨vs, hu, hvs, hfit⟩ := h.writes
  have hs : t.writes = s.writes := by rw [State.writes, State.writes, hwrites]
  rw [hs] at hu
  refine ⟨by rw [hu, List.take_left], ?_, ?_⟩
  · rw [hu, List.drop_left, hvs, hbytes]
  · rw [hu, List.drop_left]
    exact hfit

theorem State.Puts.congr {s u : State} {o : Owner} {l l' : List (Nat × List Byte)} (h : s.Puts o l u) (hl : runBytes l = runBytes l') : s.Puts o l' u := by
  obtain ⟨ws, hu, hbytes, hfit⟩ := h.writes
  exact ⟨h.eq, ⟨ws, hu, hbytes.trans hl, hfit⟩, h.xlate⟩

/-- A word put on its way to its home by agent k. -/
def State.sendWord (k : Nat) (user : Option Nat) (o : Owner) (win : Option (Nat × Nat)) (s : State) (p : Nat × List Byte) : State :=
  { (s.carry k (carryDie p.1) (carriedReq k p.1 user o)).2 with
    inWrites := (s.carry k (carryDie p.1) (carriedReq k p.1 user o)).2.inWrites ++
      [{ pa := p.1, bytes := p.2, owner := o, net := (s.carry k (carryDie p.1) (carriedReq k p.1 user o)).1, win := win }] }

theorem State.sendWrites_eq (s : State) (k : Nat) (user : Option Nat) (o : Owner) (l : List (Nat × List Byte)) (win : Option (Nat × Nat)) :
    s.sendWrites k user o l win = (sentWords l).foldl (State.sendWord k user o win) s := rfl

theorem State.sendWord_puts (s : State) (k : Nat) (user : Option Nat) (o : Owner) (win : Option (Nat × Nat)) {p : Nat × List Byte} (hne : p.2 ≠ [])
    (hfit : p.1 % 64 + p.2.length ≤ 64) : s.Puts o [p] (State.sendWord k user o win s p) := by
  have hcarry := s.carry_eq k (carryDie p.1) (carriedReq k p.1 user o)
  unfold State.sendWord
  generalize s.carry k (carryDie p.1) (carriedReq k p.1 user o) = c at hcarry
  obtain ⟨num, t⟩ := c
  dsimp only at hcarry ⊢
  rw [hcarry]
  refine ⟨rfl, ⟨[{ pa := p.1, bytes := p.2, owner := o, win := win }], ?_, rfl, ?_⟩, .of_traffic rfl rfl⟩
  · simp [State.writes, State.withRequests]
  · simp [hne, hfit]

theorem State.foldl_sendWord_puts (k : Nat) (user : Option Nat) (o : Owner) (win : Option (Nat × Nat)) {ps : List (Nat × List Byte)}
    (h : ∀ p ∈ ps, p.2 ≠ [] ∧ p.1 % 64 + p.2.length ≤ 64) (s : State) : s.Puts o ps (ps.foldl (State.sendWord k user o win) s) := by
  induction ps generalizing s with
  | nil => exact .refl s o
  | cons p ps ih =>
    obtain ⟨hne, hfit⟩ := h p (by simp)
    exact (s.sendWord_puts k user o win hne hfit).trans (ih (fun q hq => h q (List.mem_cons_of_mem _ hq)) _)

theorem State.sendWrites_puts (s : State) (k : Nat) (user : Option Nat) (o : Owner) (l : List (Nat × List Byte)) (win : Option (Nat × Nat)) :
    s.Puts o l (s.sendWrites k user o l win) := by
  have hfits : ∀ p ∈ sentWords l, p.2 ≠ [] ∧ p.1 % 64 + p.2.length ≤ 64 := by
    intro p hp
    obtain ⟨r, -, hr⟩ := List.mem_flatMap.1 hp
    exact splitWords_fits p hr
  rw [State.sendWrites_eq]
  exact (State.foldl_sendWord_puts k user o win hfits s).congr (runBytes_sentWords l)

theorem bytesOf_map {α : Type} (pa : α → Nat) (bs : α → List Byte) (o : Owner) (l : List α) :
    bytesOf (l.map (fun a => { pa := pa a, bytes := bs a, owner := o })) = runBytes (l.map (fun a => (pa a, bs a))) := by
  rw [bytesOf, runBytes, List.flatMap_map, List.flatMap_map]

theorem State.engineBytes_puts {s : State} {k pa : Nat} {va : Word} (hk : 1024 ≤ k ∨ localBase ≤ va.toNat) (h : s.xlated k va true = .ok (pa, false)) (die : Nat)
    (bs : List Byte) (o : Owner) (win : Option (Nat × Nat)) : s.Puts o [(pa, bs)] (s.engineBytes die k va bs o win) := by
  obtain ⟨u, htrans⟩ := State.translate_of_xlated h
  unfold State.engineBytes
  rw [htrans]
  exact ((State.translate_looks hk htrans).puts o).trans (State.sendWrites_puts ..)

/-- An agent that translates for a member has no TLB, or the address lies in the local window. -/
theorem State.agent_of_member {s : State} {m : Member} {va : Word} {k : Nat} (h : s.memberAgent m va = some k) : 1024 ≤ k ∨ localBase ≤ va.toNat := by
  unfold State.memberAgent at h
  split at h
  · rename_i hlocal
    simp only [inLocal, Bool.and_eq_true, decide_eq_true_eq] at hlocal
    exact .inr hlocal.1
  · rw [← Option.some.inj h]
    exact .inl (by unfold rimOf; omega)

/-! ### RECEIVED (R219, R220) -/

/-- Where RECEIVED of a source goes. -/
def Member.receivedVa (m : Member) (i : Nat) : Word := m.grtab + BitVec.ofNat 64 (16 * i + 8)

/-- RECEIVED of one source put on its way; none while it has to wait. -/
def State.sendReceived (m : Member) (s : State) (i : Nat) : Option State :=
  match s.memberAgent m (m.receivedVa i) with
  | none => none
  | some k => some (s.engineBytes (rimOf m.post.eng) k (m.receivedVa i) (leBytes 8 (NatMap.get 0 m.received i)) (.received m.post.xid m.post.member) (m.window (m.receivedVa i)))

theorem State.writeReceived_eq (s : State) (m : Member) : s.writeReceived m = (List.range m.post.nmem).foldl (fun acc i => acc.bind (State.sendReceived m · i)) (some s) := rfl

theorem State.sendReceived_puts {s : State} {m : Member} {j k pa : Nat} (hagent : s.memberAgent m (m.receivedVa j) = some k)
    (hxl : s.xlated k (m.receivedVa j) true = .ok (pa, false)) :
    ∃ u, State.sendReceived m s j = some u ∧ s.Puts (.received m.post.xid m.post.member) [(pa, leBytes 8 (NatMap.get 0 m.received j))] u := by
  refine ⟨_, ?_, State.engineBytes_puts (State.agent_of_member hagent) hxl (rimOf m.post.eng) _ _ (m.window (m.receivedVa j))⟩
  unfold State.sendReceived
  rw [hagent]

theorem State.foldl_sendReceived_puts {m : Member} {k pa : Nat → Nat} {js : List Nat} {s : State}
    (h : ∀ j ∈ js, s.memberAgent m (m.receivedVa j) = some (k j) ∧ s.xlated (k j) (m.receivedVa j) true = .ok (pa j, false)) :
    ∃ u, js.foldl (fun acc i => acc.bind (State.sendReceived m · i)) (some s) = some u ∧
      s.Puts (.received m.post.xid m.post.member) (js.map (fun j => (pa j, leBytes 8 (NatMap.get 0 m.received j)))) u := by
  induction js generalizing s with
  | nil => exact ⟨s, rfl, .refl s _⟩
  | cons j js ih =>
    obtain ⟨hagent, hxl⟩ := h j (by simp)
    obtain ⟨t, ht, hput⟩ := State.sendReceived_puts hagent hxl
    obtain ⟨u, hu, hputs⟩ := ih (s := t) fun i hi => by
      obtain ⟨hagent', hxl'⟩ := h i (List.mem_cons_of_mem _ hi)
      exact ⟨(hput.same (fun t => t.memberAgent m (m.receivedVa i))).trans hagent', (hput.xlate _ _ _ (State.agent_of_member hagent')).trans hxl'⟩
    refine ⟨u, ?_, hput.trans hputs⟩
    rw [List.foldl_cons, Option.bind_some, ht, hu]

/-- RECEIVED of every source is on its way. -/
theorem State.writeReceived_puts {s : State} {m : Member} {k pa : Nat → Nat}
    (h : ∀ j, j < m.post.nmem → s.memberAgent m (m.receivedVa j) = some (k j) ∧ s.agentVa (k j) (m.receivedVa j) true = some (pa j)) :
    ∃ u, s.writeReceived m = some u ∧
      s.Puts (.received m.post.xid m.post.member) ((List.range m.post.nmem).map (fun j => (pa j, leBytes 8 (NatMap.get 0 m.received j)))) u := by
  rw [State.writeReceived_eq]
  refine State.foldl_sendReceived_puts (k := k) fun j hj => ?_
  obtain ⟨hagent, hva⟩ := h j (List.mem_range.1 hj)
  exact ⟨hagent, State.xlated_of_agentVa hva⟩

end Sys2Proof.Machine

namespace Sys2Proof.Machine

set_option Elab.async false

/-! ### The end of an exchange at a member (R219) -/

theorem countP_modFirst {α : Type} {p : α → Bool} {f : α → α} {x : α} {l : List α} (h : l.find? p = some x) (hf : p (f x) = false) :
    (modFirst p f l).countP p + 1 = l.countP p := by
  induction l with
  | nil => cases h
  | cons a l ih =>
    cases ha : p a with
    | true =>
      obtain rfl : a = x := by rw [List.find?_cons_of_pos ha] at h; exact Option.some.inj h
      rw [modFirst, if_pos ha, List.countP_cons_of_neg (by simp [hf]), List.countP_cons_of_pos ha]
    | false =>
      have hneg := ne_true_of_eq_false ha
      rw [modFirst, if_neg hneg, List.countP_cons_of_neg hneg, List.countP_cons_of_neg hneg]
      exact ih (by rwa [List.find?_cons_of_neg hneg] at h)

theorem mem_modFirst {α : Type} {p : α → Bool} {f : α → α} {x : α} {l : List α} (h : l.find? p = some x) : f x ∈ modFirst p f l := by
  induction l with
  | nil => cases h
  | cons a l ih =>
    cases ha : p a with
    | true =>
      obtain rfl : a = x := by rw [List.find?_cons_of_pos ha] at h; exact Option.some.inj h
      rw [modFirst, if_pos ha]
      exact List.mem_cons_self
    | false =>
      have hneg := ne_true_of_eq_false ha
      rw [modFirst, if_neg hneg]
      exact List.mem_cons_of_mem _ (ih (by rwa [List.find?_cons_of_neg hneg] at h))

theorem map_modFirst {α β : Type} {p : α → Bool} {f : α → α} {g : α → β} (hg : ∀ a, g (f a) = g a) (l : List α) : (modFirst p f l).map g = l.map g := by
  induction l with
  | nil => rfl
  | cons a l ih =>
    unfold modFirst
    split
    · rw [List.map_cons, List.map_cons, hg]
    · rw [List.map_cons, List.map_cons, ih]

/-- The word that the end of an exchange folds into the signature of its counter (R203). -/
theorem foldWord_exchange (pkg : BitVec 19) {eng : Nat} (heng : eng < 16) (unit seq : Nat) : foldWord 6 pkg.toNat (rimOf eng) unit seq =
    BitVec.ofNat 64 (6 * 2 ^ 60 + pkg.toNat * 2 ^ 41 + (16 + eng / 4) * 2 ^ 36 + unit % 2 ^ 12 * 2 ^ 24 + seq % 2 ^ 24) := by
  have hpkg : pkg.toNat % 2 ^ 19 = pkg.toNat := Nat.mod_eq_of_lt pkg.isLt
  have hdie : (16 + eng / 4) % 32 = 16 + eng / 4 := by omega
  simp only [foldWord, at_, rimOf, Nat.shiftLeft_eq, hpkg, hdie]

/-- An increment put on its way. -/
theorem State.sendInc_counts (s : State) (k : Nat) (user : Option Nat) (cid : BitVec 14) (amount fold : Word) :
    (s.sendInc k user cid amount fold).counts = s.counts ++ [{ cid := cid, amount := amount, fold := fold }] := by
  have hcarry := s.carry_eq k (ctrDie cid) { carriedReq k 0 user .none with inc := some (cid, amount) }
  unfold State.sendInc
  generalize s.carry k (ctrDie cid) { carriedReq k 0 user .none with inc := some (cid, amount) } = c at hcarry
  obtain ⟨num, t⟩ := c
  dsimp only at hcarry ⊢
  rw [hcarry]
  simp [State.counts, State.withRequests]

/-- Nothing but the increments and what carries them has changed. -/
theorem State.sendInc_eq (s : State) (k : Nat) (user : Option Nat) (cid : BitVec 14) (amount fold : Word) : s.sendInc k user cid amount fold =
    { s with pairs := (s.sendInc k user cid amount fold).pairs, netNext := (s.sendInc k user cid amount fold).netNext, incs := (s.sendInc k user cid amount fold).incs } := by
  have hcarry := s.carry_eq k (ctrDie cid) { carriedReq k 0 user .none with inc := some (cid, amount) }
  unfold State.sendInc
  generalize s.carry k (ctrDie cid) { carriedReq k 0 user .none with inc := some (cid, amount) } = c at hcarry
  obtain ⟨num, t⟩ := c
  dsimp only at hcarry ⊢
  rw [hcarry]
  rfl

/-- A member whose exchange has ended. -/
def Member.ended (m : Member) (st : Nat) : Member := { m with causes := if st = 0 then m.causes else m.causes ++ [st], done := true }

/-- The increment of its counter. -/
def Member.endInc (m : Member) (pkg : BitVec 19) : Inc :=
  { cid := m.ctr, amount := 1, fold := BitVec.ofNat 64 (6 * 2 ^ 60 + pkg.toNat * 2 ^ 41 + (16 + m.post.eng / 4) * 2 ^ 36 + m.post.member % 2 ^ 12 * 2 ^ 24 + m.nphase % 2 ^ 24) }

/-- The count of a member's end is on its way, where it has a counter. -/
def State.countEnd (s : State) (pkg : BitVec 19) (m : Member) : State :=
  if m.ctrEn then s.sendInc (64 * rimOf m.post.eng) (some m.launch) m.ctr 1 (foldWord 6 pkg.toNat (rimOf m.post.eng) m.post.member m.nphase) else s

theorem State.countEnd_eq (s : State) (pkg : BitVec 19) (m : Member) :
    s.countEnd pkg m = { s with pairs := (s.countEnd pkg m).pairs, netNext := (s.countEnd pkg m).netNext, incs := (s.countEnd pkg m).incs } := by
  unfold State.countEnd
  split
  · exact State.sendInc_eq ..
  · rfl

theorem State.countEnd_counts (s : State) (pkg : BitVec 19) {m : Member} (heng : m.post.eng < 16) :
    (s.countEnd pkg m).counts = if m.ctrEn then s.counts ++ [m.endInc pkg] else s.counts := by
  unfold State.countEnd
  split
  · rw [State.sendInc_counts, foldWord_exchange pkg heng]
    rfl
  · rfl

/-- A notice that need not wait for the member's row. -/
theorem Member.noWait_of_row {m : Member} {st : Nat} (hrow : st = 0 → m.sources.isSome = true) : (decide (st = 0) && m.sources.isNone) = false := by
  by_cases h0 : st = 0
  · obtain ⟨src, hsrc⟩ := Option.isSome_iff_exists.1 (hrow h0)
    simp [hsrc]
  · simp [h0]

section
variable {s : State} {xid i st : Nat} (hx : s.theX = some (.finish xid i st)) {m : Member} (hm : s.member? xid i = some m)
include hx hm

/-- The end of an exchange that has run waits for the member's row. -/
theorem exec_exchangeCompletionNotice_noRow (h0 : st = 0) (hsrc : m.sources = none) (hhere : s.site.x = none) : exec .exchangeCompletionNotice s = .next s := by
  have hwait : (decide (st = 0) && m.sources.isNone) = true := by simp [h0, hsrc]
  change execExchangeCompletionNotice s = _
  simp only [execExchangeCompletionNotice, hx, hm, hwait, if_true, State.keepX_of_here hhere]

variable (hrow : st = 0 → m.sources.isSome = true)
include hrow

/-- RECEIVED is put on its way into the grant table. -/
theorem exchangeCompletionNotice_writes (h5 : st ≠ 5) (hopen : m.closing = false) (hid : m.post.xid = xid) (hidx : m.post.member = i) {k pa : Nat → Nat}
    (hva : ∀ j, j < m.post.nmem → s.memberAgent m (m.receivedVa j) = some (k j) ∧ s.agentVa (k j) (m.receivedVa j) true = some (pa j)) :
    Goes .exchangeCompletionNotice s (fun u => u.mem = s.mem ∧ .finish xid i st ∈ u.xmsgs ∧ u.incs = s.incs ∧ u.member? xid i = some { m with closing := true } ∧
      bytesOf (u.writes.drop s.writes.length) = (List.range m.post.nmem).flatMap (fun j => (leBytes 8 (NatMap.get 0 m.received j)).zipIdx.map (fun b => (pa j + b.2, b.1))) ∧
      (∀ w ∈ u.writes.drop s.writes.length, w.owner = .received xid i) ∧ u.writes.take s.writes.length = s.writes) := by
  obtain ⟨t, ht, hputs⟩ := State.writeReceived_puts hva
  have hexec : exec .exchangeCompletionNotice s = .next (t.keepX.modMember xid i (fun m => { m with closing := true })) := by
    change execExchangeCompletionNotice s = _
    simp only [execExchangeCompletionNotice, hx, hm, Member.noWait_of_row hrow, hopen, h5, ht, Bool.false_eq_true, if_false, ne_eq, not_false_eq_true, decide_true, Bool.not_false,
      Bool.and_self, if_true]
  obtain ⟨ws, hw, hbytes, hfit⟩ := hputs.writes
  have hwrites : (t.keepX.modMember xid i (fun m => { m with closing := true })).writes = s.writes ++ ws := by rw [State.keepX_eq]; exact hw
  refine ⟨_, hexec, ?_, State.mem_keepX ((hputs.same State.theX).trans hx), ?_, ?_, ?_, ?_, ?_⟩
  · rw [State.keepX_eq]; exact hputs.same State.mem
  · rw [State.keepX_eq]; exact hputs.same State.incs
  · refine State.member?_modMember (m := m) ?_ rfl rfl
    rw [State.keepX_eq]
    exact (hputs.same (fun t => t.member? xid i)).trans hm
  · rw [hwrites, List.drop_left, hbytes, runBytes, List.flatMap_map]
  · rw [hwrites, List.drop_left, ← hid, ← hidx]
    exact fun w hw => (hfit w hw).1
  · rw [hwrites, List.take_left]

/-- It is not yet performed. -/
theorem exec_exchangeCompletionNotice_outstanding (hclosing : m.closing = true) (hhere : s.site.x = none) (hout : s.outstanding (.received xid i) = true) :
    exec .exchangeCompletionNotice s = .next s := by
  change execExchangeCompletionNotice s = _
  simp only [execExchangeCompletionNotice, hx, hm, Member.noWait_of_row hrow, hclosing, hout, Bool.false_eq_true, if_false, Bool.not_true, Bool.and_false, if_true,
    State.keepX_of_here hhere]

/-- The exchange is complete, and counts. -/
theorem exchangeCompletionNotice_ends (heng : m.post.eng < 16) (hlast : st = 5 ∨ m.closing = true) (hout : s.outstanding (.received xid i) = false) :
    Goes .exchangeCompletionNotice s (fun u => u.mem = s.mem ∧ u.xmsgs = s.xRest ∧ u.openMembers xid i + 1 = s.openMembers xid i ∧
      u.counts = (if m.ctrEn then s.counts ++ [m.endInc s.pkgId] else s.counts) ∧ s.members.map (fun y => y.post) = u.members.map (fun y => y.post) ∧ m.ended st ∈ u.members) := by
  have hgo : (decide (st ≠ 5) && !m.closing) = false := by
    rcases hlast with rfl | hclosing
    · rfl
    · simp [hclosing]
  have hexec : exec .exchangeCompletionNotice s = .next (((s.dropX.modMember xid i (fun m => m.ended st)).countEnd s.pkgId m).freeSlots xid) := by
    change execExchangeCompletionNotice s = _
    simp only [execExchangeCompletionNotice, hx, hm, Member.noWait_of_row hrow, hgo, hout, Bool.false_eq_true, if_false]
    rfl
  have hcount := (s.dropX.modMember xid i (fun m => m.ended st)).countEnd_eq s.pkgId m
  have hmembers : (((s.dropX.modMember xid i (fun m => m.ended st)).countEnd s.pkgId m).freeSlots xid).members = modFirst (Member.isAt xid i) (fun m => m.ended st) s.members := by
    rw [State.freeSlots_eq, hcount, State.dropX_eq]
    rfl
  refine ⟨_, hexec, ?_, ?_, ?_, ?_, ?_, ?_⟩
  · rw [State.freeSlots_eq, hcount, State.dropX_eq]; rfl
  · rw [State.freeSlots_eq, hcount, ← State.dropX_xmsgs]; rfl
  · unfold State.openMembers
    rw [hmembers]
    exact countP_modFirst (p := Member.isAt xid i) hm (by simp [Member.isAt, Member.ended])
  · have hcounts : (((s.dropX.modMember xid i (fun m => m.ended st)).countEnd s.pkgId m).freeSlots xid).counts = ((s.dropX.modMember xid i (fun m => m.ended st)).countEnd s.pkgId m).counts := rfl
    rw [hcounts, State.countEnd_counts _ _ heng, State.dropX_eq]
    rfl
  · rw [hmembers]
    exact (map_modFirst (f := fun m : Member => m.ended st) (fun _ => rfl) s.members).symm
  · rw [hmembers]
    exact mem_modFirst hm

end

end Sys2Proof.Machine

namespace Sys2Proof.Machine

set_option Elab.async false

/-! ### Pieces of an area (R168) -/

/-- A piece's place in an area that starts at an address. -/
theorem dst_of_mem_piecesOf {a : Side} {va : Word} {fuel pos stop : Nat} : ∀ p ∈ piecesOf a (.run va) fuel pos stop, p.dst = va + BitVec.ofNat 64 p.pos := by
  induction fuel generalizing pos with
  | zero => intro p hp; cases hp
  | succ fuel ih =>
    intro p hp
    unfold piecesOf at hp
    split at hp
    · cases hp
    · rcases List.mem_cons.1 hp with rfl | hp
      · rfl
      · exact ih p hp

/-- A piece starts where the area does, and at every 64-byte boundary of it. -/
theorem mem_piecesOf {va : Word} {fuel pos stop q : Nat} (hfuel : stop - pos < fuel) (hpos : pos ≤ q) (hq : q < stop) (hal : q = pos ∨ (va.toNat + q) % 64 = 0) :
    ∃ p ∈ piecesOf (.run 0) (.run va) fuel pos stop, p.pos = q := by
  induction fuel generalizing pos with
  | zero => omega
  | succ fuel ih =>
    have hsplit : piecesOf (.run 0) (.run va) (fuel + 1) pos stop =
        ⟨pos, 0 + BitVec.ofNat 64 pos, va + BitVec.ofNat 64 pos, min (min (64 - (0 + pos) % 64) (64 - (va.toNat + pos) % 64)) (stop - pos)⟩ ::
          piecesOf (.run 0) (.run va) fuel (pos + min (min (64 - (0 + pos) % 64) (64 - (va.toNat + pos) % 64)) (stop - pos)) stop := by
      rw [piecesOf, if_neg (by omega)]
      rfl
    rw [hsplit]
    by_cases heq : q = pos
    · exact ⟨_, List.mem_cons_self, heq.symm⟩
    · have hal' := hal.resolve_left heq
      obtain ⟨p, hp, hat⟩ := ih (pos := pos + min (min (64 - (0 + pos) % 64) (64 - (va.toNat + pos) % 64)) (stop - pos)) (by omega) (by omega) (.inr hal')
      exact ⟨p, List.mem_cons_of_mem _ hp, hat⟩

/-! ### The translations that a grant needs (R226) -/

/-- The address that a grant's area has in its page i. -/
def pageVa (va : Word) (i : Nat) : Word := if i = 0 then va else BitVec.ofNat 64 (0x10000 * (va.toNat / 0x10000 + i))

/-- The translation of one page of an area. -/
def State.reachPage (k : Nat) (va : Word) (acc : State × BitVec 3) (i : Nat) : State × BitVec 3 :=
  if acc.2 ≠ 0 then acc
  else
    match acc.1.translate k (pageVa va i) true with
    | .error x => (acc.1.noteWalk k (pageVa va i), x.status)
    | .ok (_, _, s1) => (s1, 0)

theorem State.grantPages_eq (s : State) (k : Nat) (va : Word) (len : Nat) :
    s.grantPages k va len = (List.range ((va.toNat + len - 1) / 0x10000 + 1 - va.toNat / 0x10000)).foldl (State.reachPage k va) (s, 0) := rfl

theorem State.foldl_reachPage_looks {k : Nat} (hk : 1024 ≤ k) {va : Word} {is : List Nat} {s : State}
    (h : ∀ i ∈ is, ∃ pa, s.xlated k (pageVa va i) true = .ok (pa, false)) : ∃ u, is.foldl (State.reachPage k va) (s, 0) = (u, 0) ∧ s.Looks u := by
  induction is generalizing s with
  | nil => exact ⟨s, rfl, .refl s⟩
  | cons i is ih =>
    obtain ⟨pa, hpa⟩ := h i (by simp)
    obtain ⟨t, htrans⟩ := State.translate_of_xlated hpa
    have hlook := State.translate_looks (.inl hk) htrans
    obtain ⟨u, hu, hlooks⟩ := ih (s := t) fun j hj => by
      obtain ⟨qa, hqa⟩ := h j (List.mem_cons_of_mem _ hj)
      exact ⟨qa, (hlook.xlate _ _ _ (.inl hk)).trans hqa⟩
    refine ⟨u, ?_, hlook.trans hlooks⟩
    have hstep : State.reachPage k va (s, 0) i = (t, 0) := by
      unfold State.reachPage
      rw [if_neg (not_not.2 rfl), htrans]
    rw [List.foldl_cons, hstep, hu]

/-- Each page of an area begins with one of its pieces. -/
theorem pageVa_eq_dst {va : Word} {len i : Nat} (hlow : va.toNat + len < 2 ^ 64) (hlen : 0 < len) (hi : i < (va.toNat + len - 1) / 0x10000 + 1 - va.toNat / 0x10000) :
    ∃ p ∈ piecesOf (.run 0) (.run va) (len + 1) 0 len, pageVa va i = p.dst := by
  by_cases h0 : i = 0
  · obtain ⟨p, hp, hpos⟩ := mem_piecesOf (va := va) (fuel := len + 1) (q := 0) (by omega) (Nat.le_refl 0) hlen (.inl rfl)
    exact ⟨p, hp, by rw [dst_of_mem_piecesOf p hp, hpos, pageVa, if_pos h0]; simp⟩
  · obtain ⟨p, hp, hpos⟩ := mem_piecesOf (va := va) (fuel := len + 1) (stop := len) (q := 0x10000 * (va.toNat / 0x10000 + i) - va.toNat) (by omega) (Nat.zero_le _) (by omega)
      (.inr (by omega))
    refine ⟨p, hp, ?_⟩
    rw [dst_of_mem_piecesOf p hp, hpos, pageVa, if_neg h0]
    apply BitVec.eq_of_toNat_eq
    rw [BitVec.toNat_add, BitVec.toNat_ofNat, BitVec.toNat_ofNat]
    omega

/-- The area of a grant is translated page by page. -/
theorem State.grantPages_looks {s : State} {k : Nat} (hk : 1024 ≤ k) {va : Word} {len : Nat} (hlow : va.toNat + len < 2 ^ 64) (hlen : 0 < len)
    (h : ∀ p ∈ piecesOf (.run 0) (.run va) (len + 1) 0 len, ∃ pa, s.xlated k p.dst true = .ok (pa, false)) :
    ∃ u, s.grantPages k va len = (u, 0) ∧ s.Looks u := by
  rw [State.grantPages_eq]
  refine State.foldl_reachPage_looks hk fun i hi => ?_
  obtain ⟨p, hp, hva⟩ := pageVa_eq_dst hlow hlen (List.mem_range.1 hi)
  rw [hva]
  exact h p hp

/-! ### A stretch that a receiver takes (R224) -/

/-- Where one piece of a stretch goes. -/
def State.reachPiece (k : Nat) (bs : List Byte) (acc : State × Moves × BitVec 3) (p : Piece) : State × Moves × BitVec 3 :=
  if acc.2.2 ≠ 0 then acc
  else
    match acc.1.translate k p.dst true with
    | .error x => (acc.1.noteWalk k p.dst, acc.2.1, x.status)
    | .ok (pa, repl, s1) => (s1, acc.2.1 ++ [(p.pos, (if repl then pa + replFlag else pa), (bs.drop p.pos).take p.n)], acc.2.2)

theorem State.foldl_reachPiece_looks {k : Nat} (hk : 1024 ≤ k) {bs : List Byte} {pa : Piece → Nat} {ps : List Piece} {s : State}
    (h : ∀ p ∈ ps, s.xlated k p.dst true = .ok (pa p, false)) (mv : Moves) :
    ∃ u, ps.foldl (State.reachPiece k bs) (s, mv, 0) = (u, mv ++ ps.map (fun p => (p.pos, pa p, (bs.drop p.pos).take p.n)), 0) ∧ s.Looks u := by
  induction ps generalizing s mv with
  | nil => exact ⟨s, by simp, .refl s⟩
  | cons p ps ih =>
    obtain ⟨t, htrans⟩ := State.translate_of_xlated (h p (by simp))
    have hlook := State.translate_looks (.inl hk) htrans
    obtain ⟨u, hu, hlooks⟩ := ih (s := t) (fun q hq => (hlook.xlate _ _ _ (.inl hk)).trans (h q (List.mem_cons_of_mem _ hq))) (mv ++ [(p.pos, pa p, (bs.drop p.pos).take p.n)])
    refine ⟨u, ?_, hlook.trans hlooks⟩
    have hstep : State.reachPiece k bs (s, mv, 0) p = (t, mv ++ [(p.pos, pa p, (bs.drop p.pos).take p.n)], 0) := by
      unfold State.reachPiece
      rw [if_neg (not_not.2 rfl), htrans]
      rfl
    rw [List.foldl_cons, hstep, hu, List.map_cons, List.append_assoc, List.singleton_append]

/-- A member with a stretch of a sender received. -/
def Member.receives (ph snd off n : Nat) (m : Member) : Member :=
  { m with got := m.got.filter (fun g => g.1 == ph || g.2.1 != snd) ++ [(ph, snd, off)],
           received := NatMap.put 0 m.received snd (NatMap.get 0 m.received snd + n) }

/-- What a receiver does with a stretch whose pieces have been looked up. -/
def State.takePieces (rim : Nat) (r : Member) (ph snd off n : Nat) (o : Owner) (acc : State × Moves × BitVec 3) : Option (State × BitVec 3) :=
  if acc.2.2 ≠ 0 then some (acc.1.modMember r.post.xid r.post.member (fun m => { m with causes := m.causes ++ [acc.2.2.toNat] }), acc.2.2)
  else some ((acc.1.modMember r.post.xid r.post.member (Member.receives ph snd off n)).sendWrites (64 * rim) (some r.launch) o (acc.2.1.map (fun x => (x.2.1, x.2.2)))
    (r.window (r.rbase + BitVec.ofNat 64 off)), 0)

theorem State.receiveX_eq {s : State} {r : Member} {ph snd off k : Nat} {bs : List Byte} (hfresh : (r.got.contains (ph, snd, off) || bs.isEmpty) = false)
    (hk : s.memberAgent r (r.rbase + BitVec.ofNat 64 off) = some k) (rim goff glen : Nat) (o : Owner) :
    s.receiveX rim r ph snd goff glen off bs o = State.takePieces rim r ph snd off bs.length o
      ((piecesOf (.run 0) (.run (r.rbase + BitVec.ofNat 64 off)) (bs.length + 1) 0 bs.length).foldl (State.reachPiece k bs)
        ((s.grantPages k (r.rbase + BitVec.ofNat 64 goff) glen).1, [], (s.grantPages k (r.rbase + BitVec.ofNat 64 goff) glen).2)) := by
  unfold State.receiveX
  rw [if_neg (ne_true_of_eq_false hfresh)]
  dsimp only
  rw [hk]
  rfl

/-- An area below the local window is reached by an agent of the member's rim die. -/
theorem State.memberAgent_of_low {m : Member} {va : Word} (h : va.toNat < localBase) (s : State) : s.memberAgent m va = some (64 * rimOf m.post.eng) := by
  unfold State.memberAgent inLocal
  rw [if_neg]
  simp [Nat.not_le.2 h]

/-- The first stretch of a grant reaches its receiver's area whole. -/
theorem State.receiveX_goes {s : State} {r : Member} {ph snd off : Nat} {bs : List Byte} (hgot : r.got.contains (ph, snd, off) = false) (hne : 0 < bs.length)
    (hlen : bs.length ≤ 0x100000) (hlow : (r.rbase + BitVec.ofNat 64 off).toNat < localBase) {pa : Piece → Nat}
    (hva : ∀ p ∈ piecesOf (.run 0) (.run (r.rbase + BitVec.ofNat 64 off)) (bs.length + 1) 0 bs.length, s.xlated (64 * rimOf r.post.eng) p.dst true = .ok (pa p, false))
    (rim : Nat) (o : Owner) : ∃ t u, s.receiveX rim r ph snd off bs.length off bs o = some (u, 0) ∧ s.Looks t ∧
      (t.modMember r.post.xid r.post.member (Member.receives ph snd off bs.length)).Puts o
        ((piecesOf (.run 0) (.run (r.rbase + BitVec.ofNat 64 off)) (bs.length + 1) 0 bs.length).map (fun p => (pa p, (bs.drop p.pos).take p.n))) u := by
  have hk : 1024 ≤ 64 * rimOf r.post.eng := by unfold rimOf; omega
  have hfresh : (r.got.contains (ph, snd, off) || bs.isEmpty) = false := by
    cases bs with
    | nil => simp at hne
    | cons b bs => rw [hgot]; rfl
  obtain ⟨t1, hpages, hlook1⟩ := State.grantPages_looks hk (by unfold localBase at hlow; omega) hne fun p hp => ⟨pa p, hva p hp⟩
  obtain ⟨t2, hpieces, hlook2⟩ := State.foldl_reachPiece_looks (bs := bs) hk (s := t1) (fun p hp => (hlook1.xlate _ _ _ (.inl hk)).trans (hva p hp)) []
  have heq : s.receiveX rim r ph snd off bs.length off bs o = some ((t2.modMember r.post.xid r.post.member (Member.receives ph snd off bs.length)).sendWrites (64 * rim)
      (some r.launch) o ((piecesOf (.run 0) (.run (r.rbase + BitVec.ofNat 64 off)) (bs.length + 1) 0 bs.length).map (fun p => (pa p, (bs.drop p.pos).take p.n)))
        (r.window (r.rbase + BitVec.ofNat 64 off)), 0) := by
    rw [State.receiveX_eq hfresh (State.memberAgent_of_low hlow s), hpages]
    dsimp only
    rw [hpieces, State.takePieces, if_neg (not_not.2 rfl), List.nil_append, List.map_map]
    rfl
  exact ⟨t2, _, heq, hlook1.trans hlook2, State.sendWrites_puts ..⟩

end Sys2Proof.Machine

namespace Sys2Proof.Machine

set_option Elab.async false

/-! ### One grant sent (R217, R218) -/

/-- What earlier phases have granted to the receiver of a grant. -/
def Member.before (m : Member) (g : Grant) : Nat :=
  ((m.row.filter (fun x => x.rcv == g.rcv && decide (x.phase < g.phase))).map (fun x => x.bytes)).foldl (fun a b => a + b) 0

/-- The bytes of a grant below ALEN. -/
def Member.toSend (m : Member) (g : Grant) (alen : Nat) : Nat := min (m.before g + g.bytes) alen - m.before g

/-- The pieces of a grant's source. -/
def sourcePieces (va : Word) (n : Nat) : List Piece := piecesOf (.run va) (.run 0) (n + 1) 0 n

/-- The owner of a grant's bytes. -/
def Member.grantOwner (m : Member) (g : Grant) : Owner := .grant m.post.xid g.phase g.snd g.rcv

/-- The acknowledgements of a grant, to both arbiters. -/
def Member.acks (m : Member) (g : Grant) : List XMsg :=
  [.ack (arbiters m.post).1.1 (arbiters m.post).1.2 m.post.xid g.phase g.snd g.rcv, .ack (arbiters m.post).2.1 (arbiters m.post).2.2 m.post.xid g.phase g.snd g.rcv]

/-- A state with the acknowledgements of a grant to be sent. -/
def State.acksGrant (s : State) (m : Member) (g : Grant) : State := { s with xmsgs := s.xmsgs ++ m.acks g }

theorem State.acksGrant_eq (s : State) (m : Member) (g : Grant) :
    (s.sendOne (.ack (arbiters m.post).1.1 (arbiters m.post).1.2 m.post.xid g.phase g.snd g.rcv)).sendOne
      (.ack (arbiters m.post).2.1 (arbiters m.post).2.2 m.post.xid g.phase g.snd g.rcv) = s.acksGrant m g := by
  simp [State.sendOne, State.acksGrant, Member.acks]

/-- A stretch of at most 1 MiB is one chunk. -/
theorem cutMiB_one {bs : List Byte} (hne : 0 < bs.length) (hlen : bs.length ≤ 0x100000) (fuel off : Nat) : cutMiB (fuel + 2) off bs = [(off, bs)] := by
  cases bs with
  | nil => simp at hne
  | cons b bs =>
    have hrest : (b :: bs).drop miB = [] := List.drop_of_length_le hlen
    have hall : (b :: bs).take miB = b :: bs := List.take_of_length_le hlen
    rw [cutMiB, hrest, hall]
    rfl

section
variable {s : State} {m : Member} {g : Grant} {base : Word} {alen : Nat} (hsrc : (m.sources.getD []).getD g.rcv (0, 0) = (base, alen))
include hsrc

/-- Nothing below ALEN: it is acknowledged at once. -/
theorem State.sendGrant_nothing (h0 : m.toSend g alen = 0) : s.sendGrant m g = some (s.acksGrant m g, true) := by
  unfold State.sendGrant
  rw [hsrc]
  dsimp only
  rw [← State.acksGrant_eq]
  exact if_pos h0

variable (hn : m.toSend g alen ≠ 0) (hbad : s.badWords = [])
include hn hbad

theorem State.sendGrant_asks {u : State}
    (hfetch : s.memberFetch m (m.grantOwner g) (base + BitVec.ofNat 64 (m.before g)) (sourcePieces (base + BitVec.ofNat 64 (m.before g)) (m.toSend g alen)) = .sent u) :
    s.sendGrant m g = some (u, false) := by
  unfold State.sendGrant
  rw [hsrc]
  dsimp only
  refine (if_neg hn).trans ?_
  rw [hbad]
  change (match s.memberFetch m (m.grantOwner g) (base + BitVec.ofNat 64 (m.before g)) (sourcePieces (base + BitVec.ofNat 64 (m.before g)) (m.toSend g alen)) with
    | .wait => none
    | .sent s1 => some (s1, false)
    | .got s1 mv st => _) = _
  rw [hfetch]

/-- The place of a grant's bytes in its receiver's area. -/
def Member.placeOf (m : Member) (g : Grant) : Nat := m.rowOffs.getD g.rcv 0 + m.before g

theorem State.sendGrant_here {t u : State} {mv : Moves} {bs : List Byte} {r : Member} {k : Nat}
    (hfetch : s.memberFetch m (m.grantOwner g) (base + BitVec.ofNat 64 (m.before g)) (sourcePieces (base + BitVec.ofNat 64 (m.before g)) (m.toSend g alen)) = .got t mv 0)
    (hmv : mv.flatMap (fun x => x.2.2) = bs) (hne : 0 < bs.length) (hlen : bs.length ≤ 0x100000) (hpkg : Post.pkgOf m.post g.rcv = s.pkgId)
    (hr : t.member? m.post.xid g.rcv = some r) (hk : t.memberAgent r (r.rbase + BitVec.ofNat 64 (m.placeOf g)) = some k)
    (hreceive : t.receiveX (rimOf m.post.eng) r g.phase g.snd (m.placeOf g) bs.length (m.placeOf g) bs (m.grantOwner g) = some (u, 0)) :
    s.sendGrant m g = some (u.acksGrant m g, true) := by
  have hsome : bs.isEmpty = false := by cases bs with
    | nil => simp at hne
    | cons b bs => rfl
  unfold State.sendGrant
  rw [hsrc]
  dsimp only
  refine (if_neg hn).trans ?_
  rw [hbad]
  change (match s.memberFetch m (m.grantOwner g) (base + BitVec.ofNat 64 (m.before g)) (sourcePieces (base + BitVec.ofNat 64 (m.before g)) (m.toSend g alen)) with
    | .wait => none
    | .sent s1 => some (s1, false)
    | .got s1 mv st => _) = _
  rw [hfetch]
  dsimp only
  rw [if_neg (show ¬ (0 : BitVec 3) = 1 by decide), if_pos rfl, hmv, if_neg (ne_true_of_eq_false hsome), if_pos hpkg, hr]
  dsimp only
  rw [cutMiB_one hne hlen, List.foldl_cons, List.foldl_nil]
  unfold Member.placeOf Member.before at hk hreceive
  unfold Member.grantOwner at hreceive
  rw [hk, if_neg (show ¬ (some k).isNone = true from Bool.false_ne_true)]
  dsimp only
  rw [if_neg (not_not.2 rfl), hr]
  dsimp only
  rw [hreceive]
  exact congrArg (fun v => some (v, true)) (State.acksGrant_eq u m g)

end

end Sys2Proof.Machine

namespace Sys2Proof.Machine

set_option Elab.async false

/-! ### An opened phase (R217, R223) -/

/-- Messages sent after the one of the step was taken. -/
theorem State.dropX_append {s t : State} {x : XMsg} {l : List XMsg} (hx : s.theX = some x) (hsite : t.site = s.site) (hms : t.xmsgs = s.xmsgs ++ l) :
    t.dropX.xmsgs = s.xRest ++ l := by
  rw [State.dropX_xmsgs, State.xRest, State.xRest, hsite, hms]
  split
  · rfl
  · rename_i hhere
    have hlt : s.site.n < s.xmsgs.length := by
      unfold State.theX at hx
      rw [Option.not_isSome_iff_eq_none.1 hhere, Option.none_or] at hx
      exact (List.getElem?_eq_some_iff.1 hx).1
    exact List.eraseIdx_append_of_lt_length hlt l

/-- A member that has heard of an epoch. -/
def State.hears (s : State) (xid i epoch : Nat) : State := s.modMember xid i (fun m => { m with epoch := epoch })

theorem State.hears_sameXlate (s : State) (xid i epoch : Nat) : s.SameXlate (s.hears xid i epoch) := .of_traffic rfl rfl

/-- The members are the same but for their epochs. -/
theorem State.member?_hears {s : State} {xid j : Nat} {r : Member} (h : s.member? xid j = some r) (i epoch : Nat) :
    ∃ e, (s.hears xid i epoch).member? xid j = some { r with epoch := e } := by
  by_cases hij : i = j
  · subst hij
    exact ⟨epoch, State.member?_modMember (f := fun m => { m with epoch := epoch }) h rfl rfl⟩
  · exact ⟨r.epoch, (State.member?_modMember_other (f := fun m => { m with epoch := epoch }) hij (fun _ => rfl) s).trans h⟩

/-- A piece on another die stays there. -/
theorem State.asksAway_hears {s : State} {m : Member} {o : Owner} {p : Piece} {a : Nat} (h : s.asksAway m o p a) (xid i epoch : Nat) :
    (s.hears xid i epoch).asksAway m o p a := by
  obtain ⟨hnew, ⟨k, hk, hva, hclear⟩, haway⟩ := h
  have hagent := State.agent_of_member hk
  exact ⟨hnew, ⟨k, hk, State.agentVa_of_xlated hagent ((s.hears_sameXlate xid i epoch _ _ _ hagent).trans (State.xlated_of_agentVa hva)), hclear⟩, haway⟩

/-- An opening of an older epoch is ignored. -/
theorem phaseOpen_older {s : State} {xid epoch ph i : Nat} (hx : s.theX = some (.phase xid epoch ph i)) {m : Member} (hm : s.member? xid i = some m) (hold : epoch < m.epoch) :
    Goes .phaseOpen s (fun u => u.mem = s.mem ∧ u.xmsgs = s.xRest ∧ u.members = s.members ∧ u.inWrites = s.inWrites) := by
  have hexec : exec .phaseOpen s = .next s.dropX := by
    change execPhaseOpen s = _
    simp only [execPhaseOpen, hx, hm, hold, if_true]
  exact ⟨_, hexec, by rw [State.dropX_eq], s.dropX_xmsgs, by rw [State.dropX_eq], by rw [State.dropX_eq]⟩

theorem Member.sourceOf_grant {m : Member} {src : List (Word × Nat)} (h : m.sources = some src) (g : Grant) :
    (m.sources.getD []).getD g.rcv (0, 0) = ((src.getD g.rcv (0, 0)).1, (src.getD g.rcv (0, 0)).2) := by
  rw [h]; rfl

section
variable {s : State} {epoch i : Nat} {m : Member} {g : Grant} (hx : s.theX = some (.phase m.post.xid epoch g.phase i)) (hm : s.member? m.post.xid i = some m)
  {src : List (Word × Nat)} (hsrc : m.sources = some src) (hepoch : m.epoch ≤ epoch) (hup : s.dieUp (rimOf m.post.eng) = true)
  (hrow : m.row.filter (fun x => x.phase == g.phase) = [g])
include hx hm hsrc hepoch hup hrow

/-- What an opened phase comes to is what its grant comes to. -/
theorem exec_phaseOpen_grant {u : State} {sent : Bool} (h : (s.hears m.post.xid i epoch).sendGrant m g = some (u, sent)) :
    exec .phaseOpen s = .next (if sent then u.dropX else u.keepX) := by
  have hgo : (m.sources.isNone || !s.dieUp (rimOf m.post.eng)) = false := by rw [hsrc, hup]; rfl
  have hfind : m.row.find? (fun x => x.phase == g.phase) = some g := by rw [← List.head?_filter, hrow]; rfl
  have h' : (s.modMember m.post.xid i (fun m => { m with epoch := epoch })).sendGrant m g = some (u, sent) := h
  change execPhaseOpen s = _
  simp only [execPhaseOpen, hx, hm, hgo, hfind, h', Nat.not_lt.2 hepoch, Bool.false_eq_true, if_false]
  cases sent <;> rfl

/-- A grant that lies beyond ALEN is acknowledged. -/
theorem phaseOpen_nothing (h0 : m.toSend g (src.getD g.rcv (0, 0)).2 = 0) : Goes .phaseOpen s (fun u => u.mem = s.mem ∧ u.inWrites = s.inWrites ∧ u.xmsgs = s.xRest ++ m.acks g) := by
  have hexec := exec_phaseOpen_grant hx hm hsrc hepoch hup hrow (State.sendGrant_nothing (s := s.hears m.post.xid i epoch) (m.sourceOf_grant hsrc g) h0)
  refine ⟨_, hexec, ?_, ?_, State.dropX_append hx rfl rfl⟩
  · rw [if_pos rfl, State.dropX_eq]; rfl
  · rw [if_pos rfl, State.dropX_eq]; rfl

variable (hbad : s.badWords = []) (hn : 0 < m.toSend g (src.getD g.rcv (0, 0)).2)
include hbad hn

/-- The source bytes are asked for at their home. -/
theorem phaseOpen_asks {p : Piece} {a : Nat}
    (hhead : (sourcePieces ((src.getD g.rcv (0, 0)).1 + BitVec.ofNat 64 (m.before g)) (m.toSend g (src.getD g.rcv (0, 0)).2)).head? = some p)
    (haway : s.asksAway m (m.grantOwner g) p a) : Goes .phaseOpen s (fun u => u.mem = s.mem ∧ u.inWrites = s.inWrites ∧
      .phase m.post.xid epoch g.phase i ∈ u.xmsgs ∧ (u.asks[s.asks.length]?).map (fun q => (q.owner, q.idx, q.pa, q.n)) = some (m.grantOwner g, p.pos, a, p.n)) := by
  obtain ⟨u, hfetch, hasks, hlast⟩ := State.memberFetch_asks hhead (State.asksAway_hears haway m.post.xid i epoch)
  have hexec := exec_phaseOpen_grant hx hm hsrc hepoch hup hrow
    (State.sendGrant_asks (s := s.hears m.post.xid i epoch) (m.sourceOf_grant hsrc g) (Nat.ne_of_gt hn) hbad hfetch)
  rw [if_neg Bool.false_ne_true] at hexec
  refine ⟨_, hexec, ?_, ?_, State.mem_keepX ((hasks.same State.theX).trans hx), ?_⟩
  · rw [State.keepX_eq]; exact hasks.same State.mem
  · rw [State.keepX_eq]; exact hasks.same State.inWrites
  · rw [State.keepX_eq]; exact hlast

/-- With the source bytes read they are sent to the receiver's area, and acknowledged. -/
theorem phaseOpen_sends (hpkg : Post.pkgOf m.post g.rcv = s.pkgId) (hlen : m.toSend g (src.getD g.rcv (0, 0)).2 ≤ 0x100000)
    (hk : (s.memberAgent m ((src.getD g.rcv (0, 0)).1 + BitVec.ofNat 64 (m.before g))).isSome = true) {bs : List Byte}
    (hbs : s.gotAll (m.grantOwner g) (sourcePieces ((src.getD g.rcv (0, 0)).1 + BitVec.ofNat 64 (m.before g)) (m.toSend g (src.getD g.rcv (0, 0)).2)) = some bs)
    (hlength : m.toSend g (src.getD g.rcv (0, 0)).2 = bs.length) {r : Member} (hr : s.member? m.post.xid g.rcv = some r) (hrid : r.post.xid = m.post.xid)
    (hridx : r.post.member = g.rcv) (hgot : r.got.contains (g.phase, g.snd, m.placeOf g) = false)
    (hva : ∀ p ∈ piecesOf (.run 0) (.run (r.rbase + BitVec.ofNat 64 (m.placeOf g))) (bs.length + 1) 0 bs.length,
      (s.agentVa (64 * rimOf r.post.eng) p.dst true).isSome = true)
    (hlow : (r.rbase + BitVec.ofNat 64 (m.placeOf g)).toNat < localBase) : Goes .phaseOpen s (fun u => u.mem = s.mem ∧ u.xmsgs = s.xRest ++ m.acks g ∧
      Sent (m.grantOwner g) ((piecesOf (.run 0) (.run (r.rbase + BitVec.ofNat 64 (m.placeOf g))) (bs.length + 1) 0 bs.length).map (fun p =>
        { pa := (s.agentVa (64 * rimOf r.post.eng) p.dst true).getD 0, bytes := (bs.drop p.pos).take p.n, owner := m.grantOwner g })) s u ∧
      ∀ y, u.member? m.post.xid g.rcv = some y → NatMap.get 0 y.received g.snd = NatMap.get 0 r.received g.snd + bs.length) := by
  obtain ⟨mv, hfetch, hmv⟩ := State.memberFetch_of_gotAll (s := s.hears m.post.xid i epoch) hk hbs
  obtain ⟨e, hre⟩ := State.member?_hears hr i epoch
  have hrim : 1024 ≤ 64 * rimOf r.post.eng := by unfold rimOf; omega
  have hsame : s.SameXlate ((s.hears m.post.xid i epoch).dropAsks (m.grantOwner g)) := .of_traffic rfl rfl
  have hxl : ∀ p ∈ piecesOf (.run 0) (.run (r.rbase + BitVec.ofNat 64 (m.placeOf g))) (bs.length + 1) 0 bs.length,
      ((s.hears m.post.xid i epoch).dropAsks (m.grantOwner g)).xlated (64 * rimOf r.post.eng) p.dst true = .ok ((s.agentVa (64 * rimOf r.post.eng) p.dst true).getD 0, false) := by
    intro p hp
    obtain ⟨pa, hpa⟩ := Option.isSome_iff_exists.1 (hva p hp)
    rw [hsame _ _ _ (.inl hrim), State.xlated_of_agentVa hpa, hpa, Option.getD_some]
  obtain ⟨t, u, hreceive, hlook, hputs⟩ := State.receiveX_goes (s := (s.hears m.post.xid i epoch).dropAsks (m.grantOwner g)) (r := { r with epoch := e }) hgot
    (hlength ▸ hn) (hlength ▸ hlen) hlow hxl (rimOf m.post.eng) (m.grantOwner g)
  have hexec := exec_phaseOpen_grant hx hm hsrc hepoch hup hrow (State.sendGrant_here (s := s.hears m.post.xid i epoch) (m.sourceOf_grant hsrc g) (Nat.ne_of_gt hn) hbad hfetch hmv
    (hlength ▸ hn) (hlength ▸ hlen) hpkg hre (State.memberAgent_of_low hlow _) hreceive)
  rw [if_pos rfl] at hexec
  refine ⟨_, hexec, ?_, State.dropX_append hx ?_ ?_, ?_, fun y hy => ?_⟩
  · rw [State.dropX_eq]
    exact (hputs.same State.mem).trans (hlook.walks.same State.mem)
  · exact (hputs.same State.site).trans (hlook.walks.same State.site)
  · exact congrArg (· ++ m.acks g) ((hputs.same State.xmsgs).trans (hlook.walks.same State.xmsgs))
  · rw [State.dropX_eq]
    exact hputs.sent (hlook.walks.same State.inWrites) (bytesOf_map ..)
  · have hfound : t.member? r.post.xid r.post.member = some { r with epoch := e } := by
      rw [hrid, hridx]
      exact (hlook.walks.same (fun t => t.member? m.post.xid g.rcv)).trans hre
    have hmod := State.member?_modMember (f := Member.receives g.phase g.snd (m.placeOf g) bs.length) hfound rfl rfl
    rw [State.dropX_eq, ← hrid, ← hridx] at hy
    have hy' := hy.symm.trans ((hputs.same (fun t => t.member? r.post.xid r.post.member)).trans hmod)
    rw [Option.some.inj hy']
    exact NatMap.get_put_same ..

end

end Sys2Proof.Machine

namespace Sys2Proof.Machine

set_option Elab.async false

/-! ### Exchanges as a whole -/

/-- The rim die of an arbiter's slot (R212). -/
theorem rim_of_xKey {rim n : Nat} (hrim : 16 ≤ rim) (hn : n < 16) : 16 + xKey rim n / 16 = rim := by
  unfold xKey
  omega

/-- Settles O54, event by event: each clause is the rule proved above for its event. -/
theorem irregularExchange : Obligations.IrregularExchange := by
  unfold Obligations.IrregularExchange
  intro s
  refine ⟨fun place sb w p hx hup hrise => ⟨?_, ?_, ?_, ?_, ?_⟩, fun xid i n granted offs row rowOffs hx m hm hbad => ⟨?_, ?_, ?_⟩,
    fun xid epoch ph i hx m hm => ⟨?_, ?_⟩, fun pkg rim xid ph snd rcv hx hhere => ⟨?_, ?_⟩, fun sb xid ph snd rcv hx hrise key x hslot => ⟨?_, ?_⟩,
    fun xid i st hx m hm heng => ⟨?_, ?_, ?_, ?_⟩, fun x hslot _ hrim hn hrise => ?_, fun xid i rim cost hx => ⟨?_, ?_⟩⟩
  · exact fun key x hslot hst => postArrival_waits hx (exec_postArrival_running hx hup hslot hst)
  · exact fun key x hslot hst hopen hhome => postArrival_collects hx hup hslot hst hopen hhome
  · intro key x hslot hst hall hact ps post hhome
    refine ⟨fun hbad => postArrival_refuses hx hup hrise hslot hst hall hact hhome hbad, fun hagree hdiff hclosed => ?_⟩
    exact postArrival_decomposes hx hup hrise hslot hst hall hact hhome
      (fun q hq => ⟨(hagree q hq).1, (hagree q hq).2.1, (hagree q hq).2.2.1⟩) hdiff hclosed
  · exact fun hslot hfree => postArrival_waits hx (exec_postArrival_noSlot hx hup hslot hfree)
  · exact fun hslot key hfree => ⟨fun hahead => postArrival_waits hx (exec_postArrival_behind hx hup hslot hfree hahead),
      fun hfirst hmany => postArrival_takesSlot hx hup hslot hfree hfirst hmany⟩
  · exact fun hsrc => calendarRow_again hx hm hsrc
  · exact fun hsrc p a hhead haway => calendarRow_asks hx hm hsrc hhead haway
  · exact fun hsrc hk bs hbs => calendarRow_kept hx hm hsrc hk hbs
  · exact fun hold => phaseOpen_older hx hm hold
  · intro src hsrc hepoch hbad hup hid g hrow hpkg
    have hph : g.phase = ph := by
      have hg : g ∈ m.row.filter (fun x => x.phase == ph) := hrow ▸ List.mem_singleton_self g
      simpa using (List.mem_filter.1 hg).2
    subst hph hid
    refine ⟨fun h0 => phaseOpen_nothing hx hm hsrc hepoch hup hrow h0, fun hn p a hhead haway => phaseOpen_asks hx hm hsrc hepoch hup hrow hbad hn hhead haway, ?_⟩
    intro hn hlen hk bs hbs hlength r hr hrid hridx at' dest ps hgot hva hlow
    have hsends := phaseOpen_sends hx hm hsrc hepoch hup hrow hbad hn hpkg hlen hk hbs hlength.symm hr hrid hridx hgot
    rw [hlength] at hsends
    exact hsends (fun p hp => (hva p hp).2) hlow
  · exact fun hout => exec_grantAck_outstanding hx hhere hout
  · exact fun hout hsent => ⟨fun hpkg => grantAck_leaves hx hhere hout hsent hpkg, fun hpkg hslot => grantAck_sends hx hhere hout hsent hpkg hslot⟩
  · exact fun hdown => grantAck_of_down hx hslot hdown
  · intro hup hst
    refine ⟨fun hopen => grantAck_counts hx hslot hup hopen, fun hmore hdone hnext hact hopened hhome => ?_, fun hlast hdone hact hopened hhome => ?_⟩
    · exact grantAck_opens hx hslot hup hst hact hhome hdone hmore hnext hopened
    · exact grantAck_ends hx hslot hup hst hact hhome (hlast ▸ hdone) hlast hopened
  · exact fun h0 hsrc hhere => exec_exchangeCompletionNotice_noRow hx hm h0 hsrc hhere
  · exact fun h5 hopen hrow _ hid hidx k pa hva => exchangeCompletionNotice_writes hx hm hrow h5 hopen hid hidx hva
  · exact fun hclosing hrow hhere hout => exec_exchangeCompletionNotice_outstanding hx hm hrow hclosing hhere hout
  · exact fun hlast hrow hout => exchangeCompletionNotice_ends hx hm hrow heng hlast hout
  · have hslot' : s.xAtKey (xKey s.site.rim s.site.n) = some x := hslot
    have hdie (hup : s.dieUp s.site.rim = true) : s.dieUp (16 + xKey s.site.rim s.site.n / 16) = true := by rw [rim_of_xKey hrim hn]; exact hup
    have home (h : ∀ p ∈ x.posts, p.home = s.pkgId ∧ p.memtab.getD 0 0 = s.pkgId ∧ p.memtab.getD (p.nmem - 1) 0 = s.pkgId ∧ p.xid = x.xid) : x.AtHome s.pkgId :=
      ⟨fun p hp => (h p hp).1, fun p hp => (h p hp).2.1, fun p hp => (h p hp).2.2.1, fun p hp => (h p hp).2.2.2⟩
    refine ⟨fun hup hhere hsb hact halone => ⟨?_, ?_⟩, fun hup hsb hact => ⟨?_, ?_⟩, ?_, ?_⟩
    · exact fun hearly => exec_heartbeatSend_early hslot' hhere hearly
    · exact fun hdue hhome hne => heartbeatSend_beats hslot' (hdie hup) hhere hsb hact halone hrise hdue (home hhome).last hne
    · exact fun hearly => exec_heartbeatTimeout_early hslot' hearly
    · exact fun hdue hhome hne => ⟨fun h3 h4 => heartbeatTimeout_early_stage hslot' (hdie hup) hsb hact hdue (home hhome) hne h3 h4,
        fun h3 hmore => heartbeatTimeout_running hslot' (hdie hup) hsb hact hdue (home hhome) hne h3 hmore,
        fun h4 => heartbeatTimeout_ended hslot' (hdie hup) hsb hact hdue (home hhome) hne h4⟩
    · exact fun hone hsb hact halone hlost => arbiterLost_alone hslot' hone hsb hact halone hlost
    · exact fun hboth hlost hhome => arbiterLost_both hslot' hboth hlost (home hhome).home
  · rintro j rfl m hm
    exact takeoverNotice_member hx hm
  · rintro rfl
    exact takeoverNotice_primary hx

end Sys2Proof.Machine
